-- ==== Sys2Proof/Word.lean ====
section
/-! DEFINITION. The word types and the plain data that instructions and events carry. -/

namespace Sys2Proof

/-- A 32-bit register or instruction word (R296, R299). -/
abbrev Word := BitVec 32
/-- A 64-bit address or register pair (R298). -/
abbrev Dword := BitVec 64
/-- A byte of memory (R5). -/
abbrev Byte := BitVec 8
/-- A waybill: one bit per origin group (R429). -/
abbrev Waybill := BitVec 16
/-- A set of lanes, bit l for lane l (R230, R236). -/
abbrev Lanes := BitVec 32

/-- A table kept as data: strictly rising keys, and no entry that an unlisted key would read the same. -/
abbrev Table (α : Type) := List (Nat × α)

end Sys2Proof
end

