-- ==== Sys2Proof/Machine/Aes.lean ====
section
/-! DEFINITION. AES-256-XTS over one 128-byte data unit (R35), as IEEE 1619 and FIPS 197 define it; the spec names the standard and prints none of
it (PRESUMED, log 16). -/

namespace Sys2Proof.Machine

/-! ### The field of 256 elements -/

/-- Times x, modulo x^8 + x^4 + x^3 + x + 1. -/
def gfDouble (a : Byte) : Byte := (a <<< 1) ^^^ (if a.msb then 0x1B else 0)

def gfMul (a b : Byte) : Byte :=
  ((List.range 8).foldl (fun (r : Byte × Byte) k => (if b.getLsbD k then r.1 ^^^ r.2 else r.1, gfDouble r.2)) (0, a)).1

/-- The inverse, as the power 254; 0 for 0. -/
def gfInv (a : Byte) : Byte :=
  ((List.range 7).foldl (fun (r : Byte × Byte) _ => (gfMul r.1 (gfMul r.2 r.2), gfMul r.2 r.2)) (1, a)).1

/-- The sum of a byte's rotations. -/
def rotSum (b : Byte) (ks : List Nat) : Byte := ks.foldl (fun acc k => acc ^^^ b.rotateLeft k) 0

/-- The substitution, and its inverse. -/
def subByte (b : Byte) : Byte := rotSum (gfInv b) [0, 1, 2, 3, 4] ^^^ 0x63
def unsubByte (b : Byte) : Byte := gfInv (rotSum b [1, 3, 6] ^^^ 0x05)

/-! ### The cipher -/

/-- Byte k of a block or a key: the lowest is the first (R5). -/
def blockByte (b : Nat) (k : Nat) : Byte := BitVec.ofNat 8 (b / 256 ^ k)

/-- n bytes as one number. -/
def blockOf (n : Nat) (f : Nat → Byte) : Nat := (List.range n).foldl (fun acc k => acc + (f k).toNat * 256 ^ k) 0

/-- The next of the words of the key schedule, newest first. -/
def keyWord (i : Nat) (ws : List Nat) : Nat :=
  let t := ws.headD 0
  let sub := fun (f : Nat → Nat) => blockOf 4 (fun k => subByte (blockByte t (f k)))
  let t := if i % 8 = 0 then sub (fun k => (k + 1) % 4) ^^^ 2 ^ (i / 8 - 1) else if i % 8 = 4 then sub (fun k => k) else t
  ws.getD 7 0 ^^^ t

/-- The 15 round keys of a 256-bit key. -/
def roundKeys (key : Nat) : List Nat :=
  let w0 := (List.range 8).foldl (fun l k => key / 2 ^ (32 * k) % 2 ^ 32 :: l) []
  let ws := ((List.range 52).foldl (fun l k => keyWord (k + 8) l :: l) w0).reverse
  (List.range 15).map (fun r => (List.range 4).foldl (fun acc k => acc + ws.getD (4 * r + k) 0 * 2 ^ (32 * k)) 0)

/-- The bytes of a block mixed by columns with the coefficients of a row. -/
def mixColumns (c : List Byte) (b : Nat) : Nat :=
  blockOf 16 (fun k =>
    (List.range 4).foldl (fun acc j => acc ^^^ gfMul (c.getD j 0) (blockByte b (k / 4 * 4 + (k % 4 + j) % 4))) 0)

/-- One round: substitution, rows shifted, columns mixed but in the last. -/
def aesRound (last : Bool) (b key : Nat) : Nat :=
  let x := blockOf 16 (fun k => subByte (blockByte b ((k / 4 + k % 4) % 4 * 4 + k % 4)))
  (if last then x else mixColumns [2, 3, 1, 1] x) ^^^ key

def aesUnround (last : Bool) (b key : Nat) : Nat :=
  let x := if last then b ^^^ key else mixColumns [14, 11, 13, 9] (b ^^^ key)
  blockOf 16 (fun k => unsubByte (blockByte x ((k / 4 + 4 - k % 4) % 4 * 4 + k % 4)))

/-- One block encrypted, and decrypted, under a 256-bit key. -/
def aesEnc (key b : Nat) : Nat :=
  let ks := roundKeys key
  (List.range 14).foldl (fun x r => aesRound (r == 13) x (ks.getD (r + 1) 0)) (b ^^^ ks.getD 0 0)

def aesDec (key b : Nat) : Nat :=
  let ks := roundKeys key
  (List.range 14).foldl (fun x r => aesUnround (r == 0) x (ks.getD (14 - r) 0)) b ^^^ ks.getD 0 0

/-! ### XTS -/

/-- The tweak of the next block. -/
def xtsNext (t : Nat) : Nat := (2 * t % 2 ^ 128) ^^^ (if t / 2 ^ 127 % 2 = 1 then 0x87 else 0)

/-- The eight blocks of a 128-byte data unit under a block cipher and the first tweak. -/
def xtsBlocks (f : Nat → Nat) (t : Nat) (d : BitVec 1024) : BitVec 1024 :=
  BitVec.ofNat 1024 ((List.range 8).foldl (fun (r : Nat × Nat) j =>
    (r.1 + (f (d.toNat / 2 ^ (128 * j) % 2 ^ 128 ^^^ r.2) ^^^ r.2) * 2 ^ (128 * j), xtsNext r.2)) (0, t)).1

/-- A line encrypted, and decrypted, under a key of two halves and the number of its data unit (R35). -/
def xtsEnc (key : BitVec 512) (unit : Nat) (d : BitVec 1024) : BitVec 1024 :=
  xtsBlocks (aesEnc (key.toNat % 2 ^ 256)) (aesEnc (key.toNat / 2 ^ 256) unit) d

def xtsDec (key : BitVec 512) (unit : Nat) (d : BitVec 1024) : BitVec 1024 :=
  xtsBlocks (aesDec (key.toNat % 2 ^ 256)) (aesEnc (key.toNat / 2 ^ 256) unit) d

end Sys2Proof.Machine
end

