-- ==== Sys2Proof/Config.lean ====
section
/-! DEFINITION. What the spec leaves open: constants without a body, so that no proof can know their values. Each is named in the
assumption log. -/

namespace Sys2Proof.Config

/-- Which lane's bytes land last when several lanes of one store write one single-copy unit (R131): the rank of a lane in
the order of a unit, for the use numbered by the first argument (DESIGN CHOICE, log 7). -/
opaque laneRank : Nat → Nat → Nat → Nat

/-- The AES-256-XTS key of each key number (R35, R86): the keys never leave the controllers and the security block. The lower 256 bits are the
key of the data, the upper that of the tweak (PRESUMED, log 16). -/
opaque xtsKey : Nat → BitVec 512

/-- The time-base cycles one act of the default schedule takes (log 3). -/
opaque stepCycles : Nat → Nat

/-- Has a cache or TLB of a core let go of what it kept under a number, at a use of it (R37, R78, R79)? The order of replacement is open
(DESIGN CHOICE, log 116). -/
opaque replaced : Nat → Nat → Nat → Bool

/-- The entry of a 64 KiB page, of either stage, that a walk follows where the sixteen differ (R29, R31) (DESIGN CHOICE, log 117). -/
opaque sixteenth : Nat → BitVec 4

/-- Which of the pairs of ports that its PORTS mask allows a transfer to an endpoint uses, by the transfer's number (R195) (DESIGN CHOICE, log 132). -/
opaque portPair : Nat → Nat

/-- Does a gather's look-up of a block come before the fill of it that another gather has under way (R412, R459)? By the gather's number and the
block's place in its table (DESIGN CHOICE, log 146). -/
opaque lookupFirst : Nat → Nat → Bool

/-- A free 32-bit value, fresh for each number. -/
opaque freeWord : Nat → BitVec 32

/-- A free byte, fresh for each number. -/
opaque freeByte : Nat → BitVec 8

/-- The public key blocks of the security block (R440): byte i of key k; key 0 the device identity key, key k + 1 boot key k. Byte i of the
vendor root's. Each holds ROOT, then SEED. -/
opaque keyByte : Nat → Nat → BitVec 8
opaque vendorByte : Nat → BitVec 8

/-- Byte i of a signature (R440): key, leaf, message. The spec names the algorithm and the secret keys are the device's own. -/
opaque signByte : Nat → Nat → List (BitVec 8) → Nat → BitVec 8

/-- Byte i of the vendor certificate of the identity key (R440). -/
opaque certByte : Nat → BitVec 8

/-- Does the signature a firmware image carries chain to the vendor root (R470)? The spec does not say where in the image it stands. -/
opaque imageSigned : List (BitVec 8) → Bool

/-- Byte i of ORGD of a world whose origin table has not been loaded (R425 defines it for a loaded one only). -/
opaque orgdUnset : Nat → BitVec 8

/-- The 16-byte header unit of a transaction-layer message (R179, R180), for its kind and its numbers: the spec names what a message carries and not
its layout, which is UALink's (DESIGN CHOICE, log 36). -/
opaque unitBits : List Nat → BitVec 128

end Sys2Proof.Config
end

