-- ==== Sys2Proof/Syntax.lean ====
section
/-! DEFINITION. The instructions: one constructor per row of spec/opcode_table.json. A row with an encoding carries
its fields as raw bits under the table's names (R292 to R313); a row without one is an event of the machine, and what
the event brings or serves stands in the state (State.arg), since such a row has no operand field. -/

namespace Sys2Proof

inductive Instr where
  /-- IADD (R351). Integer add, wrapped or saturated, in each lane. -/
  | iadd (d : BitVec 7) (a : BitVec 7) (b : BitVec 7) (m : BitVec 3)
  /-- ISUB (R351). Integer subtract, wrapped or saturated. -/
  | isub (d : BitVec 7) (a : BitVec 7) (b : BitVec 7) (m : BitVec 3)
  /-- IMUL (R351). Low 32 bits of the product. -/
  | imul (d : BitVec 7) (a : BitVec 7) (b : BitVec 7)
  /-- IMULH (R351). High 32 bits of the signed or unsigned product. -/
  | imulh (d : BitVec 7) (a : BitVec 7) (b : BitVec 7) (t : BitVec 1)
  /-- IMAD (R351). Multiply-add into vd. -/
  | imad (d : BitVec 7) (a : BitVec 7) (b : BitVec 7)
  /-- IMIN (R351). Signed or unsigned minimum. -/
  | imin (d : BitVec 7) (a : BitVec 7) (b : BitVec 7) (t : BitVec 1)
  /-- IMAX (R351). Signed or unsigned maximum. -/
  | imax (d : BitVec 7) (a : BitVec 7) (b : BitVec 7) (t : BitVec 1)
  /-- IABSD (R351). Absolute difference. -/
  | iabsd (d : BitVec 7) (a : BitVec 7) (b : BitVec 7) (t : BitVec 1)
  /-- AND (R351). Bitwise and. -/
  | andV (d : BitVec 7) (a : BitVec 7) (b : BitVec 7)
  /-- OR (R351). Bitwise or. -/
  | orV (d : BitVec 7) (a : BitVec 7) (b : BitVec 7)
  /-- XOR (R351). Bitwise exclusive or. -/
  | xor (d : BitVec 7) (a : BitVec 7) (b : BitVec 7)
  /-- ANDN (R351). va and not vb. -/
  | andn (d : BitVec 7) (a : BitVec 7) (b : BitVec 7)
  /-- SHL (R351). Left shift. -/
  | shl (d : BitVec 7) (a : BitVec 7) (b : BitVec 7)
  /-- SHR (R351). Logical right shift. -/
  | shr (d : BitVec 7) (a : BitVec 7) (b : BitVec 7)
  /-- SRA (R351). Arithmetic right shift. -/
  | sra (d : BitVec 7) (a : BitVec 7) (b : BitVec 7)
  /-- BFX (R352). Bit-field extract, zero- or sign-extended. -/
  | bfx (d : BitVec 7) (a : BitVec 7) (b : BitVec 7) (t : BitVec 1)
  /-- BFI (R352). Bit-field insert into vd. -/
  | bfi (d : BitVec 7) (a : BitVec 7) (b : BitVec 7)
  /-- POPC (R351). Population count. -/
  | popc (d : BitVec 7) (a : BitVec 7)
  /-- CLZ (R351). Count leading zeros. -/
  | clz (d : BitVec 7) (a : BitVec 7)
  /-- BREV (R351). Bit reverse. -/
  | brev (d : BitVec 7) (a : BitVec 7)
  /-- PRMT (R356). Byte permute with a per-lane selector. -/
  | prmt (d : BitVec 7) (a : BitVec 7) (b : BitVec 7)
  /-- PRMTS (R356). Byte permute with a uniform selector. -/
  | prmts (d : BitVec 7) (a : BitVec 7) (s : BitVec 6)
  /-- ICMP (R354). Integer compare into a lane predicate. -/
  | icmp (p : BitVec 3) (a : BitVec 7) (b : BitVec 7) (c : BitVec 3)
  /-- SEL (R355). Select by lane predicate. -/
  | sel (d : BitVec 7) (a : BitVec 7) (b : BitVec 7) (p : BitVec 3)
  /-- MOV (R355). Copy a vector register. -/
  | mov (d : BitVec 7) (a : BitVec 7)
  /-- MOVS (R353). Broadcast a uniform register into the lanes. -/
  | movs (d : BitVec 7) (s : BitVec 6)
  /-- MOVI (R353). Move a signed 10-bit immediate. -/
  | movi (d : BitVec 7) (i : BitVec 10)
  /-- IADDI (R353). Add a signed immediate. -/
  | iaddi (d : BitVec 7) (a : BitVec 7) (i : BitVec 10)
  /-- ANDI (R353). And with an immediate. -/
  | andi (d : BitVec 7) (a : BitVec 7) (i : BitVec 10)
  /-- ORI (R353). Or with an immediate. -/
  | ori (d : BitVec 7) (a : BitVec 7) (i : BitVec 10)
  /-- XORI (R353). Exclusive or with an immediate. -/
  | xori (d : BitVec 7) (a : BitVec 7) (i : BitVec 10)
  /-- SHLI (R353). Shift left by an immediate. -/
  | shli (d : BitVec 7) (a : BitVec 7) (n : BitVec 5)
  /-- SHRI (R353). Logical shift right by an immediate. -/
  | shri (d : BitVec 7) (a : BitVec 7) (n : BitVec 5)
  /-- SRAI (R353). Arithmetic shift right by an immediate. -/
  | srai (d : BitVec 7) (a : BitVec 7) (n : BitVec 5)
  /-- IADDS (R353). Add a uniform value, wrapped or saturated. -/
  | iadds (d : BitVec 7) (a : BitVec 7) (s : BitVec 6) (m : BitVec 2)
  /-- ICMPS (R354). Compare with a uniform value into a lane predicate. -/
  | icmps (p : BitVec 3) (a : BitVec 7) (s : BitVec 6) (t : BitVec 1) (c : BitVec 3)
  /-- LANE (R355). Write the lane number or the lower-lane mask. -/
  | lane (d : BitVec 7) (m : BitVec 3)
  /-- FADD (R358). Floating add. -/
  | fadd (d : BitVec 7) (a : BitVec 7) (b : BitVec 7) (t : BitVec 1)
  /-- FMUL (R358). Floating multiply. -/
  | fmul (d : BitVec 7) (a : BitVec 7) (b : BitVec 7) (t : BitVec 1)
  /-- FFMA (R358). Fused multiply-add into vd. -/
  | ffma (d : BitVec 7) (a : BitVec 7) (b : BitVec 7) (t : BitVec 1)
  /-- FMIN (R359). Floating minimum. -/
  | fmin (d : BitVec 7) (a : BitVec 7) (b : BitVec 7) (t : BitVec 1)
  /-- FMAX (R359). Floating maximum. -/
  | fmax (d : BitVec 7) (a : BitVec 7) (b : BitVec 7) (t : BitVec 1)
  /-- FCMP (R360). Floating compare into a lane predicate. -/
  | fcmp (p : BitVec 3) (a : BitVec 7) (b : BitVec 7) (c : BitVec 3)
  /-- FABS (R361). Clear, flip or set the sign. -/
  | fabs (d : BitVec 7) (a : BitVec 7) (k : BitVec 2) (t : BitVec 1)
  /-- FRCP (R362). Reciprocal. -/
  | frcp (d : BitVec 7) (a : BitVec 7)
  /-- FSQRT (R362). Square root. -/
  | fsqrt (d : BitVec 7) (a : BitVec 7)
  /-- FRSQ (R362). Reciprocal square root. -/
  | frsq (d : BitVec 7) (a : BitVec 7)
  /-- FEXP2 (R362). Device base-2 exponential. -/
  | fexp2 (d : BitVec 7) (a : BitVec 7)
  /-- FLOG2 (R362). Base-2 logarithm. -/
  | flog2 (d : BitVec 7) (a : BitVec 7)
  /-- FDOT2 (R363). Two-element BF16 dot product added to F32 vd. -/
  | fdot2 (d : BitVec 7) (a : BitVec 7) (b : BitVec 7)
  /-- FADDS (R358). Floating add of a uniform value. -/
  | fadds (d : BitVec 7) (a : BitVec 7) (s : BitVec 6) (t : BitVec 1)
  /-- FMULS (R358). Floating multiply by a uniform value. -/
  | fmuls (d : BitVec 7) (a : BitVec 7) (s : BitVec 6) (t : BitVec 1)
  /-- FFMAS (R358). Fused multiply-add with a uniform factor. -/
  | ffmas (d : BitVec 7) (a : BitVec 7) (s : BitVec 6) (t : BitVec 1)
  /-- CVT (R364). Convert between integer, F32 and A40 types. -/
  | cvt (d : BitVec 7) (a : BitVec 7) (x : BitVec 4) (y : BitVec 4) (r : BitVec 2)
  /-- CVTB (R366). Convert one value into one element of a packed register. -/
  | cvtb (d : BitVec 7) (a : BitVec 7) (k : BitVec 2) (f : BitVec 2) (s : BitVec 2) (r : BitVec 2)
  /-- UNPKL (R367). Unpack one element to F32. -/
  | unpkl (d : BitVec 7) (a : BitVec 7) (k : BitVec 2) (f : BitVec 2)
  /-- PACKH (R368). Pack two F32 values into BF16x2. -/
  | packh (d : BitVec 7) (a : BitVec 7) (b : BitVec 7) (r : BitVec 2)
  /-- SHFL (R369). Move values between lanes within segments. -/
  | shfl (d : BitVec 7) (a : BitVec 7) (b : BitVec 7) (g : BitVec 1) (m : BitVec 2)
  /-- VOTE (R370). Count a predicate over the clause mask. -/
  | vote (d : BitVec 7) (p : BitVec 3) (m : BitVec 3)
  /-- MATCH (R371). Group lanes by equal values. -/
  | matchV (d : BitVec 7) (a : BitVec 7) (k : BitVec 2) (w : BitVec 1)
  /-- LD (R372). Plain global load per lane. -/
  | ld (d : BitVec 7) (a : BitVec 7) (s : BitVec 6) (z : BitVec 3) (f : BitVec 1)
  /-- ST (R372). Plain global store per lane. -/
  | st (d : BitVec 7) (a : BitVec 7) (s : BitVec 6) (z : BitVec 3) (f : BitVec 1)
  /-- LDSP (R372). Scratchpad load. -/
  | ldsp (d : BitVec 7) (a : BitVec 7) (s : BitVec 6) (z : BitVec 3) (f : BitVec 1)
  /-- STSP (R372). Scratchpad store. -/
  | stsp (d : BitVec 7) (a : BitVec 7) (s : BitVec 6) (z : BitVec 3) (f : BitVec 1)
  /-- LDCV (R372). Convoy memory load. -/
  | ldcv (d : BitVec 7) (a : BitVec 7) (s : BitVec 6) (z : BitVec 3) (f : BitVec 1)
  /-- STCV (R372). Convoy memory store. -/
  | stcv (d : BitVec 7) (a : BitVec 7) (s : BitVec 6) (z : BitVec 3) (f : BitVec 1)
  /-- LDDP (R372). Depot load. -/
  | lddp (d : BitVec 7) (a : BitVec 7) (s : BitVec 6) (z : BitVec 3) (f : BitVec 1)
  /-- STDP (R372). Depot store. -/
  | stdp (d : BitVec 7) (a : BitVec 7) (s : BitVec 6) (z : BitVec 3) (f : BitVec 1)
  /-- LDC (R375). Load through the constant cache. -/
  | ldc (d : BitVec 7) (a : BitVec 7) (s : BitVec 6) (z : BitVec 3) (f : BitVec 1)
  /-- PFET (R376). Prefetch lines to the L1 or the L2. -/
  | pfet (a : BitVec 7) (s : BitVec 6) (l : BitVec 3)
  /-- LDA (R377). Acquire load of 4 bytes. -/
  | lda (d : BitVec 7) (a : BitVec 7) (s : BitVec 6) (c : BitVec 3) (f : BitVec 1)
  /-- STL (R377). Release store of 4 bytes. -/
  | stl (d : BitVec 7) (a : BitVec 7) (s : BitVec 6) (c : BitVec 3) (f : BitVec 1)
  /-- LDA64 (R377). Acquire load of 8 bytes. -/
  | lda64 (d : BitVec 7) (a : BitVec 7) (s : BitVec 6) (c : BitVec 3) (f : BitVec 1)
  /-- STL64 (R377). Release store of 8 bytes. -/
  | stl64 (d : BitVec 7) (a : BitVec 7) (s : BitVec 6) (c : BitVec 3) (f : BitVec 1)
  /-- ATADD (R378). Atomic add. -/
  | atadd (d : BitVec 7) (a : BitVec 7) (s : BitVec 6) (c : BitVec 3) (f : BitVec 1)
  /-- ATMIN (R378). Atomic signed minimum. -/
  | atmin (d : BitVec 7) (a : BitVec 7) (s : BitVec 6) (c : BitVec 3) (f : BitVec 1)
  /-- ATMAX (R378). Atomic signed maximum. -/
  | atmax (d : BitVec 7) (a : BitVec 7) (s : BitVec 6) (c : BitVec 3) (f : BitVec 1)
  /-- ATMINN (R378). Atomic unsigned minimum. -/
  | atminn (d : BitVec 7) (a : BitVec 7) (s : BitVec 6) (c : BitVec 3) (f : BitVec 1)
  /-- ATMAXN (R378). Atomic unsigned maximum. -/
  | atmaxn (d : BitVec 7) (a : BitVec 7) (s : BitVec 6) (c : BitVec 3) (f : BitVec 1)
  /-- ATAND (R378). Atomic and. -/
  | atand (d : BitVec 7) (a : BitVec 7) (s : BitVec 6) (c : BitVec 3) (f : BitVec 1)
  /-- ATOR (R378). Atomic or. -/
  | ator (d : BitVec 7) (a : BitVec 7) (s : BitVec 6) (c : BitVec 3) (f : BitVec 1)
  /-- ATXOR (R378). Atomic exclusive or. -/
  | atxor (d : BitVec 7) (a : BitVec 7) (s : BitVec 6) (c : BitVec 3) (f : BitVec 1)
  /-- ATXCH (R378). Atomic exchange. -/
  | atxch (d : BitVec 7) (a : BitVec 7) (s : BitVec 6) (c : BitVec 3) (f : BitVec 1)
  /-- ATCAS (R378). Atomic 32-bit compare-and-swap. -/
  | atcas (d : BitVec 7) (a : BitVec 7) (s : BitVec 6) (c : BitVec 3) (f : BitVec 1)
  /-- ATFADD (R378). Atomic F32 add. -/
  | atfadd (d : BitVec 7) (a : BitVec 7) (s : BitVec 6) (c : BitVec 3) (f : BitVec 1)
  /-- ATADD64 (R378). Atomic 64-bit add. -/
  | atadd64 (d : BitVec 7) (a : BitVec 7) (s : BitVec 6) (c : BitVec 3) (f : BitVec 1)
  /-- ATCAS64 (R378). Atomic 64-bit compare-and-swap. -/
  | atcas64 (d : BitVec 7) (a : BitVec 7) (s : BitVec 6) (c : BitVec 3) (f : BitVec 1)
  /-- RLD (R379). Remote load through the symmetric window. -/
  | rld (d : BitVec 7) (a : BitVec 7) (s : BitVec 6) (z : BitVec 3) (f : BitVec 1)
  /-- RST (R379). Posted remote store. -/
  | rst (d : BitVec 7) (a : BitVec 7) (s : BitVec 6) (z : BitVec 3) (f : BitVec 1)
  /-- RATADD (R379). Remote atomic add. -/
  | ratadd (d : BitVec 7) (a : BitVec 7) (s : BitVec 6) (z : BitVec 3) (f : BitVec 1)
  /-- RATCAS (R379). Remote compare-and-swap. -/
  | ratcas (d : BitVec 7) (a : BitVec 7) (s : BitVec 6) (z : BitVec 3) (f : BitVec 1)
  /-- RATFADD (R379). Remote F32 atomic add. -/
  | ratfadd (d : BitVec 7) (a : BitVec 7) (s : BitVec 6) (z : BitVec 3) (f : BitVec 1)
  /-- POPQ (R381). Take entries from an outrider queue into the lanes. -/
  | popq (d : BitVec 7) (q : BitVec 2) (f : BitVec 1)
  /-- REP (R382). Issue the next word n times with stepped register fields. -/
  | rep (n : BitVec 6) (x : BitVec 3) (y : BitVec 3) (w : BitVec 3)
  /-- SADD (R318). Uniform add. -/
  | sadd (d : BitVec 6) (a : BitVec 6) (b : BitVec 6)
  /-- SSUB (R318). Uniform subtract. -/
  | ssub (d : BitVec 6) (a : BitVec 6) (b : BitVec 6)
  /-- SMUL (R318). Uniform multiply, low bits. -/
  | smul (d : BitVec 6) (a : BitVec 6) (b : BitVec 6)
  /-- SMULH (R318). Uniform multiply, high bits. -/
  | smulh (d : BitVec 6) (a : BitVec 6) (b : BitVec 6) (t : BitVec 1)
  /-- SAND (R318). Uniform and. -/
  | sand (d : BitVec 6) (a : BitVec 6) (b : BitVec 6)
  /-- SOR (R318). Uniform or. -/
  | sor (d : BitVec 6) (a : BitVec 6) (b : BitVec 6)
  /-- SXOR (R318). Uniform exclusive or. -/
  | sxor (d : BitVec 6) (a : BitVec 6) (b : BitVec 6)
  /-- SSHL (R318). Uniform left shift. -/
  | sshl (d : BitVec 6) (a : BitVec 6) (b : BitVec 6)
  /-- SSHR (R318). Uniform logical right shift. -/
  | sshr (d : BitVec 6) (a : BitVec 6) (b : BitVec 6)
  /-- SSRA (R318). Uniform arithmetic right shift. -/
  | ssra (d : BitVec 6) (a : BitVec 6) (b : BitVec 6)
  /-- SMIN (R318). Uniform minimum. -/
  | smin (d : BitVec 6) (a : BitVec 6) (b : BitVec 6) (t : BitVec 1)
  /-- SMAX (R318). Uniform maximum. -/
  | smax (d : BitVec 6) (a : BitVec 6) (b : BitVec 6) (t : BitVec 1)
  /-- SCMP (R320). Uniform compare into a uniform predicate. -/
  | scmp (q : BitVec 3) (a : BitVec 6) (b : BitVec 6) (t : BitVec 1) (c : BitVec 3)
  /-- SSEL (R321). Uniform select by predicate. -/
  | ssel (d : BitVec 6) (a : BitVec 6) (b : BitVec 6) (e : BitVec 1) (p : BitVec 3)
  /-- SMOV (R318). Uniform move. -/
  | smov (d : BitVec 6) (a : BitVec 6)
  /-- SPOPC (R318). Uniform population count. -/
  | spopc (d : BitVec 6) (a : BitVec 6)
  /-- SCLZ (R318). Uniform count of leading zeros. -/
  | sclz (d : BitVec 6) (a : BitVec 6)
  /-- SADDI (R319). Uniform add of an immediate. -/
  | saddi (d : BitVec 6) (a : BitVec 6) (i : BitVec 12)
  /-- SANDI (R319). Uniform and with an immediate. -/
  | sandi (d : BitVec 6) (a : BitVec 6) (i : BitVec 12)
  /-- SORI (R319). Uniform or with an immediate. -/
  | sori (d : BitVec 6) (a : BitVec 6) (i : BitVec 12)
  /-- SXORI (R319). Uniform exclusive or with an immediate. -/
  | sxori (d : BitVec 6) (a : BitVec 6) (i : BitVec 12)
  /-- SSHLI (R319). Uniform shift left by an immediate. -/
  | sshli (d : BitVec 6) (a : BitVec 6) (n : BitVec 5)
  /-- SSHRI (R319). Uniform logical shift right by an immediate. -/
  | sshri (d : BitVec 6) (a : BitVec 6) (n : BitVec 5)
  /-- SCMPI (R320). Uniform compare with an immediate. -/
  | scmpi (q : BitVec 3) (a : BitVec 6) (c : BitVec 3) (t : BitVec 1) (i : BitVec 8)
  /-- SMOVI (R319). Move a sign-extended 18-bit immediate. -/
  | smovi (d : BitVec 6) (i : BitVec 18)
  /-- SLUI (R319). Load the upper 18 bits, keeping the low 14. -/
  | slui (d : BitVec 6) (i : BitVec 18)
  /-- SADD64 (R322). 64-bit uniform add. -/
  | sadd64 (d : BitVec 6) (a : BitVec 6) (b : BitVec 6) (k : BitVec 2)
  /-- QOP (R321). Predicate truth-table operation. -/
  | qop (d : BitVec 3) (a : BitVec 3) (b : BitVec 3) (t : BitVec 4)
  /-- SLD (R323). Uniform 4-byte global load. -/
  | sld (d : BitVec 6) (a : BitVec 6) (b : BitVec 6) (f : BitVec 1)
  /-- SST (R323). Uniform 4-byte global store. -/
  | sst (d : BitVec 6) (a : BitVec 6) (b : BitVec 6) (f : BitVec 1)
  /-- SLD64 (R323). Uniform 8-byte global load. -/
  | sld64 (d : BitVec 6) (a : BitVec 6) (b : BitVec 6) (f : BitVec 1)
  /-- SST64 (R323). Uniform 8-byte global store. -/
  | sst64 (d : BitVec 6) (a : BitVec 6) (b : BitVec 6) (f : BitVec 1)
  /-- SLDSP (R323). Uniform scratchpad load. -/
  | sldsp (d : BitVec 6) (a : BitVec 6) (b : BitVec 6) (f : BitVec 1)
  /-- SSTSP (R323). Uniform scratchpad store. -/
  | sstsp (d : BitVec 6) (a : BitVec 6) (b : BitVec 6) (f : BitVec 1)
  /-- SLDA (R323). Uniform acquire load. -/
  | slda (d : BitVec 6) (a : BitVec 6) (b : BitVec 6) (c : BitVec 3) (f : BitVec 1)
  /-- SSTL (R323). Uniform release store. -/
  | sstl (d : BitVec 6) (a : BitVec 6) (b : BitVec 6) (c : BitVec 3) (f : BitVec 1)
  /-- SATADD (R324). Uniform atomic add. -/
  | satadd (d : BitVec 6) (a : BitVec 6) (b : BitVec 6) (c : BitVec 3) (f : BitVec 1)
  /-- SATCAS (R324). Uniform compare-and-swap. -/
  | satcas (d : BitVec 6) (a : BitVec 6) (b : BitVec 6) (c : BitVec 3) (f : BitVec 1)
  /-- REDV (R325). Reduce a vector register over the clause mask. -/
  | redv (d : BitVec 6) (v : BitVec 7) (o : BitVec 3)
  /-- LMASK (R326). Write a lane mask to a uniform register. -/
  | lmask (d : BitVec 6) (p : BitVec 3) (k : BitVec 2)
  /-- BCAST (R327). Copy one lane's value into a uniform register. -/
  | bcast (d : BitVec 6) (v : BitVec 7) (b : BitVec 6) (m : BitVec 1)
  /-- BR (R328). Conditional branch on a uniform predicate. -/
  | br (q : BitVec 3) (e : BitVec 1) (o : BitVec 20)
  /-- BRD (R238). Divergent branch that may split the path. -/
  | brd (p : BitVec 3) (e : BitVec 1) (o : BitVec 20)
  /-- SETJ (R237). Push a join record, suspending a live sibling. -/
  | setj (o : BitVec 20)
  /-- CALL (R328). Conditional call that writes the link pair. -/
  | call (q : BitVec 3) (e : BitVec 1) (o : BitVec 20)
  /-- RET (R329). Return to the link pair. -/
  | ret
  /-- BRI (R330). Indexed branch through a table, with an optional join. -/
  | bri (a : BitVec 6) (b : BitVec 6)
  /-- LOOP (R333). Open a hardware loop with a register count. -/
  | loop (c : BitVec 6) (o : BitVec 18)
  /-- LOOPI (R333). Open a hardware loop with an immediate count. -/
  | loopi (n : BitVec 12) (o : BitVec 12)
  /-- LBRK (R334). Close the innermost loop and branch. -/
  | lbrk (q : BitVec 3) (e : BitVec 1) (o : BitVec 20)
  /-- EXIT (R231). End the lanes of the path and unwind the divergence stack. -/
  | exit
  /-- LNCH (R269). Read a launch record, check it and queue the launch, returning a code. -/
  | lnch (d : BitVec 6) (a : BitVec 6) (b : BitVec 6) (f : BitVec 1)
  /-- BAR (R335). Party barrier with a release on arrival and an acquire on completion. -/
  | bar (a : BitVec 6) (c : BitVec 1) (n : BitVec 3)
  /-- BARCV (R335). Convoy barrier. -/
  | barcv (a : BitVec 6) (c : BitVec 1) (n : BitVec 2)
  /-- ARRV (R336). Release, then atomically add to a barrier word. -/
  | arrv (a : BitVec 6) (b : BitVec 6) (s : BitVec 3)
  /-- BWAIT (R336). Wait until a barrier word reaches a value. -/
  | bwait (d : BitVec 6) (a : BitVec 6) (s : BitVec 3)
  /-- WAITW (R337). Sleep until a word meets a condition. -/
  | waitw (d : BitVec 6) (a : BitVec 6) (c : BitVec 3) (p : BitVec 3) (s : BitVec 3)
  /-- FENCE (R338). Ordering fence of a kind and a scope. -/
  | fence (s : BitVec 3) (k : BitVec 2)
  /-- WAITF (R339). Wait until the named flags clear. -/
  | waitf (f : BitVec 12)
  /-- YIELD (R339). Give up the quad's next issue slot. -/
  | yield
  /-- SLEEP (R339). Sleep for at most a given number of cycles. -/
  | sleep (a : BitVec 6) (i : BitVec 12)
  /-- MACQ (R390). Try to take a tile's token. -/
  | macq (f : BitVec 1) (t : BitVec 3) (p : BitVec 1) (d : BitVec 6)
  /-- MREL (R391). Release a tile's token. -/
  | mrel (f : BitVec 1) (t : BitVec 3) (p : BitVec 1)
  /-- MZERO_E (R397). Zero the tile's entries. -/
  | mzeroE (f : BitVec 1) (t : BitVec 3)
  /-- MZERO_ALL (R397). Zero the entries and reset the statistics. -/
  | mzeroAll (f : BitVec 1) (t : BitVec 3)
  /-- MMA (R393). Matrix product into a tile. -/
  | mma (f : BitVec 1) (t : BitVec 3) (m : BitVec 3) (a : BitVec 6) (b : BitVec 6)
  /-- MMAP (R394). Paired matrix product across two cores. -/
  | mmap (f : BitVec 1) (t : BitVec 3) (m : BitVec 3) (a : BitVec 6) (b : BitVec 6)
  /-- MSCA (R396). Apply block scales to P56 partials. -/
  | msca (f : BitVec 1) (d : BitVec 3) (p : BitVec 3) (a : BitVec 6) (b : BitVec 6)
  /-- MLD (R398). Load a tile from scratchpad. -/
  | mld (f : BitVec 1) (t : BitVec 3) (m : BitVec 2) (a : BitVec 6) (b : BitVec 6)
  /-- MST (R398). Store a tile to scratchpad. -/
  | mst (f : BitVec 1) (t : BitVec 3) (m : BitVec 2) (a : BitVec 6) (b : BitVec 6)
  /-- SMXU (R401). Advance a streaming softmax by one score block. -/
  | smxu (f : BitVec 1) (o : BitVec 3) (s : BitVec 3) (p : BitVec 6) (k : BitVec 6) (x : BitVec 1) (m : BitVec 2)
  /-- SMXM (R402). Merge two running softmaxes. -/
  | smxm (f : BitVec 1) (a : BitVec 3) (b : BitVec 3) (p : BitVec 1)
  /-- SMXN (R403). Normalise the rows by l. -/
  | smxn (f : BitVec 1) (o : BitVec 3)
  /-- MSTAT_ST (R399). Store row statistics. -/
  | mstatSt (f : BitVec 1) (t : BitVec 3) (a : BitVec 6)
  /-- MSTAT_LD (R399). Load row statistics. -/
  | mstatLd (f : BitVec 1) (t : BitVec 3) (a : BitVec 6)
  /-- MSTAT_RST (R399). Reset row statistics. -/
  | mstatRst (f : BitVec 1) (t : BitVec 3)
  /-- XCV (R405). Convert a tile to a carrier array. -/
  | xcv (f : BitVec 1) (t : BitVec 3) (a : BitVec 6) (w : BitVec 6)
  /-- XADD (R406). Add carrier arrays in scratchpad. -/
  | xadd (f : BitVec 1) (d : BitVec 6) (s : BitVec 6) (c : BitVec 6)
  /-- XPUT (R407). Add a local carrier array into a peer's array by puts. -/
  | xput (f : BitVec 1) (a : BitVec 6) (b : BitVec 6) (c : BitVec 6)
  /-- XRND (R405). Round a carrier array into a tile. -/
  | xrnd (f : BitVec 1) (t : BitVec 3) (a : BitVec 6) (w : BitVec 6)
  /-- CPY (R411). Porter copy. -/
  | cpy (f : BitVec 1) (d : BitVec 6) (a : BitVec 6)
  /-- CPY2D (R411). Porter two-dimensional copy. -/
  | cpy2d (f : BitVec 1) (d : BitVec 6) (a : BitVec 6)
  /-- CFILL (R411). Porter pattern fill. -/
  | cfill (f : BitVec 1) (d : BitVec 6) (a : BitVec 6)
  /-- GATH (R411). Porter gather through a block table. -/
  | gath (f : BitVec 1) (d : BitVec 6) (a : BitVec 6)
  /-- CSTAT (R415). Read an engine queue entry. -/
  | cstat (f : BitVec 1) (d : BitVec 6) (a : BitVec 6) (u : BitVec 2)
  /-- CCAN (R416). Cancel an engine queue entry. -/
  | ccan (f : BitVec 1) (a : BitVec 6) (u : BitVec 2)
  /-- OSTART (R417). Start an outrider. -/
  | ostart (f : BitVec 1) (n : BitVec 2) (a : BitVec 6) (b : BitVec 6) (d : BitVec 6)
  /-- OSTOP (R418). Stop an outrider at its next clause boundary. -/
  | ostop (f : BitVec 1) (n : BitVec 2)
  /-- OPUSH (R419). An outrider appends registers to a string's queue. -/
  | opush (f : BitVec 1) (n : BitVec 2) (a : BitVec 6) (c : BitVec 3)
  /-- LEASE (R340). Request a lane lease toward a peer. -/
  | lease (d : BitVec 6) (a : BitVec 6) (b : BitVec 6) (f : BitVec 1)
  /-- LREL (R340). End a lease. -/
  | lrel (d : BitVec 6) (a : BitVec 6) (f : BitVec 1)
  /-- LQRY (R340). Read a lease entry. -/
  | lqry (d : BitVec 6) (a : BitVec 6)
  /-- DRAIN (R340). Drain the path's remote traffic to a peer. -/
  | drain (a : BitVec 6) (f : BitVec 1)
  /-- DRAIN_ALL (R340). Steward drain of all the package's traffic to a peer. -/
  | drainAll (a : BitVec 6) (f : BitVec 1)
  /-- WBRD (R341). Read a waybill. -/
  | wbrd (d : BitVec 6) (s : BitVec 7) (k : BitVec 3)
  /-- SYSR (R342). Read a system register. -/
  | sysr (d : BitVec 6) (r : BitVec 12)
  /-- SYSW (R342). Write a system register. -/
  | sysw (a : BitVec 6) (r : BitVec 12)
  /-- TRAP (R343). Raise the TRAP cause. -/
  | trap (i : BitVec 18)
  /-- BRK (R343). Raise BRK, or halt under BRKH. -/
  | brk (i : BitVec 18)
  /-- TRET (R254). Return from a trap, replaying or resuming. -/
  | tret
  /-- GPOL_INS (R436). Install a signed release policy. -/
  | gpolIns (d : BitVec 6) (a : BitVec 6)
  /-- GPOL_REV (R344). Revoke a policy slot. -/
  | gpolRev (d : BitVec 6) (b : BitVec 6)
  /-- SEAL (R345). Seal and measure code granules. -/
  | seal (d : BitVec 6) (a : BitVec 6) (b : BitVec 6)
  /-- TLBI_PAGE (R42). Shoot down one page of a world. -/
  | tlbiPage (a : BitVec 6) (b : BitVec 6) (f : BitVec 1)
  /-- TLBI_WORLD (R42). Shoot down a world. -/
  | tlbiWorld (a : BitVec 6) (f : BitVec 1)
  /-- TLBI_PART (R42). Shoot down a partition. -/
  | tlbiPart (a : BitVec 6) (f : BitVec 1)
  /-- TLBI_ALL (R42). Shoot down every translation. -/
  | tlbiAll (f : BitVec 1)
  /-- TLBI_G2PAGE (R42). Shoot down one second-stage page. -/
  | tlbiG2page (a : BitVec 6) (b : BitVec 6) (f : BitVec 1)
  /-- TLBI_G2PART (R42). Shoot down a partition's second stage. -/
  | tlbiG2part (a : BitVec 6) (f : BitVec 1)
  /-- SCRUB (R346). Scrub a frame and return it to its pool. -/
  | scrub (d : BitVec 6) (a : BitVec 6) (f : BitVec 1) (z : BitVec 2)
  /-- CTXSV (R347). Save the string image to kernel memory. -/
  | ctxsv (d : BitVec 6) (a : BitVec 6) (f : BitVec 1)
  /-- CTXLD (R347). Load a string image from kernel memory. -/
  | ctxld (d : BitVec 6) (a : BitVec 6) (f : BitVec 1)
  /-- NOP (R343). Do nothing. -/
  | nop
  /-- POWER_ON (R468). Cold reset at power-on stops every unit, erases keys, policies and logs, and begins the start order. -/
  | powerOn
  /-- THERMAL_TRIP (R476). A junction at or above 110 °C removes power, and the next start records reset cause 4. -/
  | thermalTrip
  /-- PCIE_FUNDAMENTAL_RESET (R468). A PCIe fundamental reset causes a warm reset, which runs the full start order with DRAM still powered. -/
  | pcieFundamentalReset
  /-- PCIE_HOT_RESET (R468). A PCIe hot reset causes a warm reset. -/
  | pcieHotReset
  /-- BCMD_WARM_RESET (R471). A host write of BCMD = 2 in the bring-up window causes a warm reset. -/
  | bcmdWarmReset
  /-- RSTCTL_WARM (R468). A steward write of sys.rstctl.WARM = 1 causes a warm reset. -/
  | rstctlWarm
  /-- HOST_LINK_TRAIN (R196). The host link trains to the highest common PCIe generation and width; only the bring-up window then answers. -/
  | hostLinkTrain
  /-- HBM_TRAINED (R469). HBM training completes, and the full scrub of HBM begins. -/
  | hbmTrained
  /-- FULL_SCRUB_COMPLETE (R444). The scrub ends, and the granules on the non-volatile offline list are marked OFFLINE again. -/
  | fullScrubComplete
  /-- FIRMWARE_VERIFIED (R470). The security block finishes checking the stored image's signature and version; it accepts the image, or refuses it and sets BSTAT 5. -/
  | firmwareVerified
  /-- STAGING_AREA_WRITE (R471). A host write places image bytes in the write-only staging area, or sets BLEN. -/
  | stagingAreaWrite
  /-- BCMD_SUBMIT (R470). A write of BCMD = 1 while BSTAT reads 4 or 5 has the staged image verified; an accepted image is written over the stored one and the start continues. -/
  | bcmdSubmit
  /-- FIRMWARE_START (R472). Once scrub and verification have both succeeded, the image is sealed into the steward region, FWM is taken, sys.svec is set and the first steward string is placed. -/
  | firmwareStart
  /-- POWER_SAMPLE (R475). At each 1 ms average, the arithmetic clock steps down for power or temperature above its limit, or steps up when the causes have cleared. -/
  | powerSample
  /-- MONO_STORE (R435). Once a second the security block stores sys.mono in non-volatile storage. -/
  | monoStore
  /-- SYSTEM_REGISTER_WRITE (R60). A write to a system register that has no row of its own: level check, reserved-bit and range clamping, then the store. -/
  | systemRegisterWrite
  /-- CLAUSE_START (R293). A path fetches and checks a clause header, fetches its words, waits on the WAIT flags and fixes the clause mask, or skips the clause. -/
  | clauseStart
  /-- TICK_EXPIRY (R255). When sys.cycle reaches sys.tick, TICK becomes pending and sys.tick is cleared. -/
  | tickExpiry
  /-- SLICE_EXPIRY (R257). A tenant time slice ends, and the string is asked to stop at reconvergence. -/
  | sliceExpiry
  /-- SLICE_WAIT_TIMEOUT (R257). A string that has not reconverged within sys.slicewait.WAIT is stopped by the immediate grade. -/
  | sliceWaitTimeout
  /-- DEBUG_HALT (R266). A write of sys.dbgctl.HALT halts the selected string by the immediate grade, and its engines run to their checkpoints. -/
  | debugHalt
  /-- DEBUG_RESUME (R266). A write of sys.dbgctl.RESUME releases the halted string, and any wake kept during the halt replays. -/
  | debugResume
  /-- DEBUG_STEP (R266). A write of sys.dbgctl.STEP releases the string for one clause and then halts it again. -/
  | debugStep
  /-- PAGE_WALK (R30). A page walker walks the first-stage table for a TLB miss, checks the leaf and faults, parks, or returns the translation. -/
  | pageWalk
  /-- FAULT_REPOST (R100). A record the hub could not admit is posted again every 1 µs. -/
  | faultRepost
  /-- FAULT_ADMIT (R103). The hub admits a fault record into the partition queue and joins or creates a page-pending entry, setting NEEDOWN where needed. -/
  | faultAdmit
  /-- CONTEXT_TAKE (R104). A free waystation context takes the oldest QUEUED entry of the next partition in round-robin order. -/
  | contextTake
  /-- DIRECTORY_LOOKUP (R109). The directory package serves a read lookup in one BUSY interval: it registers the sharer, forces an owner write-back or converts HKIND 2, and answers. -/
  | directoryLookup
  /-- LOOKUP_ANSWER (R109). The directory's answer reaches the context, which proceeds to FRAME, to OWN, or to a decline. -/
  | lookupAnswer
  /-- LOOKUP_TIMEOUT (R110). A lookup attempt unanswered within ML µs is retried up to RT times and then declined with MLTO. -/
  | lookupTimeout
  /-- POOL_WAIT_TIMEOUT (R114). With EVC = 1 and the pool still empty after EV µs, the entry declines with POOL. -/
  | poolWaitTimeout
  /-- EVICTION (R116). A victim resident copy is cleared, shot down, written back if dirty or owned, removed from the directory and scrubbed. -/
  | eviction
  /-- PINNED_TIMEOUT (R115). If every candidate victim stays pinned for EV µs, the entry declines with PINNED. -/
  | pinnedTimeout
  /-- SCORE_HALVING (R115). Every 2^20 fabric clocks the waystation halves every resident-copy score. -/
  | scoreHalving
  /-- PAGE_READ (R125). The home waystation serves an inbound page read from the backing frame, or answers moved or NOFRAME. -/
  | pageRead
  /-- FETCH_COMPLETE (R111). The last flit or packet of a fetched page arrives; granule waybills and owner are set and the page is performed before INSTALL. -/
  | fetchComplete
  /-- FETCH_TIMEOUT (R110). A fetch attempt unanswered within FR µs or ET ms is retried up to RT times and then declined with FRTO or ETTO. -/
  | fetchTimeout
  /-- REPLAY (R99). A woken path replays its parked instruction for the lanes of UMASK; the lanes complete, park again or trap. -/
  | replay
  /-- OWNERSHIP_REQUEST (R118). The directory serves an ownership request: it answers moved, or sets BUSY and sends invalidations and owner write-back requests. -/
  | ownershipRequest
  /-- INVALIDATION (R118). A sharer's waystation clears the leaf, shoots the page down, scrubs the frame and acknowledges, or answers pinned after EV µs. -/
  | invalidation
  /-- INVALIDATION_ACK (R118). The directory counts a sharer's acknowledgement, and when all are in it grants ownership, sets OWNED and raises VERSION. -/
  | invalidationAck
  /-- INVALIDATION_TIMEOUT (R118). A sharer silent for FR + EV µs counts as not acknowledging; the directory restores SHVAL and the requester declines with OWNTO. -/
  | invalidationTimeout
  /-- OWNER_WRITEBACK (R109). At the directory's request an owner writes the page back to the home through the gate, or refuses with GATED. -/
  | ownerWriteback
  /-- PAGE_WRITEBACK (R116). The home receives a written-back page together with its granule waybills. -/
  | pageWriteback
  /-- OWNERSHIP_ANSWER (R118). The requester receives the grant, fetches again if its data is not current, and installs with W = 1. -/
  | ownershipAnswer
  /-- OWNERSHIP_TIMEOUT (R118). An ownership attempt unanswered within FR + EV µs is retried up to RT times and then declined with OWNTO. -/
  | ownershipTimeout
  /-- INBOUND_ACCESS (R125). A remote load, store or atomic arriving at its target translates through the window at user level and performs, or answers with a negative acknowledgement and logs INBOUND. -/
  | inboundAccess
  /-- WAKE (R124). Command WAKE, from sys.wscmd or the host command window, frees the matching entry and wakes its waiters with REPLAY. -/
  | wake
  /-- FAIL (R124). Command FAIL frees the matching entry and wakes its waiters with TRAP and cause FAILED. -/
  | fail
  /-- ANSWER (R120). Command ANSWER supplies a manifest entry from kernel memory as the directory's answer to a waiting MLK lookup. -/
  | answer
  /-- GRANT (R124). A host GRANT gives one named lane to a lease under host-assisted arbitration, or is refused and logged as a KIND 7 event. -/
  | grant
  /-- REFUSE (R124). A host REFUSE ends the named lease as LREL does, with a KIND 2 event. -/
  | refuse
  /-- FRAME_POOL_READ (R48). A kernel read of sys.frame4k, sys.frame64k or sys.frame2m removes a frame from the pool and returns its address, or stalls while the pool is empty. -/
  | framePoolRead
  /-- FRAME_READ_SERVED (R48). A stalled pool reader is served in arrival order when a frame enters the pool. -/
  | frameReadServed
  /-- FRAME_TRY_READ (R48). A read of sys.ftry4k, sys.ftry64k or sys.ftry2m removes a frame, or returns 0 at once if the pool is empty. -/
  | frameTryRead
  /-- WRITE_BACK_START (R84). A write of sys.wbctl with BUSY = 1 starts writing back, and optionally invalidating, the range's cached lines. -/
  | writeBackStart
  /-- WRITE_BACK_COMPLETE (R84). BUSY clears once every dirty line of the range has been performed at its controller. -/
  | writeBackComplete
  /-- HOST_BAR2_WRITE (R18). A host write through BAR2 reaches the partition's mailbox region uncached at the L2 home with the ingress waybill, or completes with UR or CA. -/
  | hostBar2Write
  /-- HOST_BAR2_READ (R18). A host read through BAR2 reaches the mailbox region and passes the customs gate, or completes with UR or Completer Abort. -/
  | hostBar2Read
  /-- HOST_CORE_READ (R432). A host-core read of device memory, rings included, is egress decided by the gate, and a refusal gives a load access fault. -/
  | hostCoreRead
  /-- L2_REQUEST (R81). An access or write-back reaches its L2 home slice and is performed there, hitting or allocating, in arrival order per line. -/
  | l2Request
  /-- L2_FILL (R82). Line data from memory arrives at the L2, zero-flagged or with data, and takes its granule's waybill. -/
  | l2Fill
  /-- L1_FILL (R73). Fill data arrives at the L1; it goes to the lanes and is installed under the effective way mask or in a zero tag. -/
  | l1Fill
  /-- HBM_REQUEST (R85). The stack controller performs a line read or write in arrival order, with AES-XTS under the owner's key, and applies bandwidth bands. -/
  | hbmRequest
  /-- ATOMIC_UNIT_OP (R87). The base-die atomic unit performs an access to an ATOM page in 8-byte pieces, totally ordered per word. -/
  | atomicUnitOp
  /-- PATROL_READ (R94). Each controller patrol-reads its lines every 24 hours, repairing corrected errors and poisoning and logging uncorrectable ones. -/
  | patrolRead
  /-- ALLOCATION_ZERO (R69). A released allocation is zeroed with its waybills cleared at the stated rates, and only then becomes grantable. -/
  | allocationZero
  /-- WAITW_RECHECK (R155). A sleeping WAITW or BWAIT re-checks its word on a performed write to its line, or at least every 1 µs, and completes with an acquire. -/
  | waitwRecheck
  /-- REMOTE_ACK (R157). A peer's acknowledgement of a remote write or put arrives and retires the write from the path's unacknowledged count. -/
  | remoteAck
  /-- REMOTE_RESPONSE (R184). The answers to a pass of a remote load or atomic arrive; results are written, or RFAULT is taken. -/
  | remoteResponse
  /-- REMOTE_TIMEOUT (R187). A remote request unanswered within sys.fbto.RTO completes with NOANSWER. -/
  | remoteTimeout
  /-- TARGET_TIMEOUT (R186). An inbound access not completed within sys.fbto.TGT at the target is answered with TGTTO. -/
  | targetTimeout
  /-- CARRIER_PUT (R407). At the destination home, a carrier put adds S modulo 2^128 and ORs the I bit as one read-modify-write, then is acknowledged. -/
  | carrierPut
  /-- FLIT_RECEIVE (R177). A receiver takes a flit, checks it, applies ACK and ALLOW, and delivers each pair's flits in SEQ order. -/
  | flitReceive
  /-- REPLAY_REQUEST (R181). A sender receives a replay request and resends the named flit on any lane of the pair. -/
  | replayRequest
  /-- MISSING_SEQ_TIMEOUT (R181). After 2 µs waiting for a missing SEQ while later flits arrived, the receiver sends a replay request. -/
  | missingSeqTimeout
  /-- DRAIN_MARKER (R188). A peer receiving a drain marker returns the drain acknowledgement once every earlier flit is delivered and its writes are performed. -/
  | drainMarker
  /-- DRAIN_ACKNOWLEDGEMENT (R188). The drain acknowledgement arrives and DRAIN's flag clears. -/
  | drainAcknowledgement
  /-- MANAGER_MESSAGE (R175). Fabric managers exchange a message, for example to agree on a retarget or to carry an attestation nonce. -/
  | managerMessage
  /-- LANE_GRANT (R171). The fabric manager serves a queued lease head with one lane by the plane preference order and starts the retarget. -/
  | laneGrant
  /-- LANE_RELOCK (R175). A dark lane relocks to its new peer 40 µs after going dark, and a TUNING lease enters HELD. -/
  | laneRelock
  /-- LEASE_TERM_EXPIRY (R170). A HELD lease's term ends and it becomes REVOCABLE. -/
  | leaseTermExpiry
  /-- SYMBOL_WINDOW (R190). At the end of each 1 ms window, a lane whose corrected-symbol count exceeds 2^TH leaves its pair for retraining. -/
  | symbolWindow
  /-- RETRAIN_COMPLETE (R190). A retrained lane is handed back to its pair at a flit boundary. -/
  | retrainComplete
  /-- RETRAIN_FAILURE (R192). A failed retraining is retried up to TRY times; after the last failure the lane is failed, pooled and logged, and floors are restored. -/
  | retrainFailure
  /-- ETHERNET_RESPONSE (R195). An Ultra Ethernet response or acknowledgement arrives, or a transport error completes the request with EPINVAL or NOANSWER. -/
  | ethernetResponse
  /-- FBSYNC (R166). A steward write of sys.fbsync reloads one peer-table entry, applying LEAVING or membership changes and recomputing the default pairing. -/
  | fbsync
  /-- QUANTUM_BOUNDARY (R272). At each 1 ms boundary each die unmaps long-held queues and maps waiting ones into its 64 active slots. -/
  | quantumBoundary
  /-- PLACEMENT (R274). A distributor places a party, gang or pair on cores that have room, freeing room from victims where its rules allow. -/
  | placement
  /-- PLACEMENT_TIMEOUT (R277). If the kernel does not answer within TO × 10 µs, the distributor places the unit itself. -/
  | placementTimeout
  /-- PLACE (R278). Command PLACE of sys.plcmd places the unit on the named candidate, or writes a fresh event with the current candidates. -/
  | place
  /-- DEFER (R278). Command DEFER of sys.plcmd stops the timer, and a fresh event follows at the next quantum boundary. -/
  | defer
  /-- WAKEUP_RECHECK (R281). The distributor re-checks a wake-up record's BWAIT condition on each write to the word's line, and queues the party for recall once it holds. -/
  | wakeupRecheck
  /-- LAUNCH_COMPLETE (R283). When every string has exited, every party has been placed and every counter is 0, CVAL is written to CWORD, or a KIND 0 event is logged. -/
  | launchComplete
  /-- PERIOD_BOUNDARY (R285). At each 10 ms period the partitions' slot-time accounts restart, and parties stopped at their ceiling become placeable. -/
  | periodBoundary
  /-- CEILING_REACHED (R285). A partition's slot time reaches its ceiling, and its parties are stopped for the rest of the period. -/
  | ceilingReached
  /-- BANDWIDTH_WINDOW (R286). Each stack controller shares bandwidth among partitions by floors, weights and ceilings over each 1,500-fabric-clock window. -/
  | bandwidthWindow
  /-- ENGINE_COMMIT (R263). An engine operation commits one unit (K-block, row, chunk or table entry) and checkpoints there. -/
  | engineCommit
  /-- PORTER_COMPLETE (R414). After every chunk has committed and every remote write has been acknowledged, the porter releases its locks, writes the completion word and clears the flag. -/
  | porterComplete
  /-- ENGINE_RESTART (R264). A write of 1 to sys.einfo.RST restarts the held operation from its checkpoint. -/
  | engineRestart
  /-- BTC_INVALIDATE (R412). A write of 1 to sys.btcctl.INV removes every block translation cache entry of the current world on the core. -/
  | btcInvalidate
  /-- ORGLOAD (R425). Command ORGLOAD of sys.trcmd loads the world's origin table once per binding and sets ORGD. -/
  | orgload
  /-- ATTEST (R442). Command ATTEST sends a fresh nonce to the peer's security block to attest that peer for a world. -/
  | attest
  /-- ATTEST_NONCE_RECEIVE (R442). A security block receives an attestation nonce and answers with a signed report for the world. -/
  | attestNonceReceive
  /-- ATTEST_REPORT_ARRIVAL (R442). The peer's report arrives; signatures, nonce, FWM and ORGD are checked and the peer is marked attested or the code is set. -/
  | attestReportArrival
  /-- ATTEST_TIMEOUT (R442). A peer that does not answer within sys.fbto.RTO ends the attestation with NOANSWER. -/
  | attestTimeout
  /-- REPORT (R441). Command REPORT writes a signed attestation report for the current world to a 12 KiB buffer. -/
  | report
  /-- ACK (R441). Command ACK writes a signed acknowledgement of a policy slot with its remaining budget. -/
  | ack
  /-- LOGRD (R446). Command LOGRD copies up to 42 of the world's measurement records into a buffer and reports the count. -/
  | logrd
  /-- TRUST_COMMAND_DONE (R446). The security block finishes a signing command, clears BUSY and sets CODE and VALUE. -/
  | trustCommandDone
  /-- POLICY_VERIFIED (R436). The security block finishes checking a GPOL .ins record and installs it in the lowest free slot, or returns a failure code. -/
  | policyVerified
  /-- POLICY_EXPIRY (R436). A policy slot is freed when sys.mono reaches its EXPIRY. -/
  | policyExpiry
  /-- SCRUB_ENGINE_SCRUB (R445). With SCRB = 0, or with no frame ring, the scrub engine scrubs a frame that the hardware freed and pools it. -/
  | scrubEngineScrub
  /-- FRAME_RING_WRITE (R445). With SCRB = 1, a frame freed by the hardware is written to the frame ring in freeing order once the ring has room. -/
  | frameRingWrite
  /-- SLEEP_EXPIRY (R339). A SLEEP ends when sys.cycle reaches its deadline. -/
  | sleepExpiry
  /-- TLBI_COMPLETE (R42). The TLBI flag clears once every matching entry is removed and every access that used one has been performed. -/
  | tlbiComplete
  /-- POWER_LOSS (R444). Module power is lost: every unit stops, volatile keys vanish, and a scrub or staging in progress is cut short. -/
  | powerLoss
  /-- BANK_ACCESS (R136). A scratchpad, convoy-memory or depot access reaches the bank that holds its location and is performed or satisfied there. -/
  | bankAccess
  /-- INSTRUCTION_CACHE_FILL (R79). Fill data for an instruction-cache miss arrives and is installed, so that the waiting clause fetch can proceed. -/
  | instructionCacheFill
  /-- CONSTANT_CACHE_FILL (R78). Fill data for an LDC miss arrives at the constant cache, is installed, and is delivered to the lanes. -/
  | constantCacheFill
  /-- INVALIDATION_PINNED_TIMEOUT (R118). A sharer whose copy stays pinned for EV µs after an invalidation arrived answers pinned. -/
  | invalidationPinnedTimeout
  /-- DIRECTORY_ENTRY_UPDATE (R116). At the directory, an evicting package's update removes it from SHARERS, or clears OWNV and sets STATE to SHARED if it owned the page. -/
  | directoryEntryUpdate
  /-- RELINQUISH (R126). At the steward's request, the waystation relinquishes every resident copy of a held partition, evicting each under R116. -/
  | relinquish
deriving DecidableEq, Repr

end Sys2Proof
end

