-- ==== Sys2Proof/SysTable.lean ====
section
/-! DEFINITION. The system registers: number, width and access levels, row by row from the spec's tables (R60, R96, R127,
R162, R199, R228, R267, R291, R304, R424, R448, R478). -/

namespace Sys2Proof

/-- Who may read or write a system register: a level and those above it, the level that took the trap and those above it
(R267), or nobody. -/
inductive SysAccess where
  | level (l : Nat)
  | handler
  | none
deriving DecidableEq, Repr

/-- One row of the map: its number, whether it is a pair, and its read and write access. -/
structure SysRow where
  num : Nat
  pair : Bool
  rd : SysAccess
  wr : SysAccess
deriving DecidableEq, Repr

/-- Rows 0x000 to 0x02B. -/
def sysRows0 : List SysRow := [
  ⟨0x000, false, (.level 0), (.level 2)⟩, -- sys.world
  ⟨0x001, false, (.level 0), .none⟩, -- sys.level
  ⟨0x002, false, (.level 0), .none⟩, -- sys.string
  ⟨0x003, false, (.level 0), .none⟩, -- sys.party
  ⟨0x004, false, (.level 0), .none⟩, -- sys.core
  ⟨0x005, false, (.level 0), .none⟩, -- sys.convoy
  ⟨0x006, false, (.level 0), .none⟩, -- sys.die
  ⟨0x007, false, (.level 0), .none⟩, -- sys.pkg
  ⟨0x008, false, (.level 0), .none⟩, -- sys.lanemask
  ⟨0x010, true, (.level 0), .none⟩, -- sys.cycle
  ⟨0x011, true, (.level 0), (.level 0)⟩, -- sys.tick
  ⟨0x012, false, (.level 1), (.level 2)⟩, -- sys.slicewait
  ⟨0x013, false, .handler, .handler⟩, -- sys.estat
  ⟨0x014, false, .handler, .handler⟩, -- sys.emask
  ⟨0x015, false, .handler, .handler⟩, -- sys.umask
  ⟨0x016, false, (.level 0), (.level 0)⟩, -- sys.einfo
  ⟨0x020, true, (.level 0), (.level 0)⟩, -- sys.uvec
  ⟨0x021, true, (.level 1), (.level 1)⟩, -- sys.kvec
  ⟨0x022, true, (.level 2), (.level 2)⟩, -- sys.svec
  ⟨0x023, false, .handler, .handler⟩, -- sys.cause
  ⟨0x024, true, .handler, .handler⟩, -- sys.epc
  ⟨0x025, true, .handler, .handler⟩, -- sys.tval
  ⟨0x026, false, (.level 0), .none⟩, -- sys.lmask
  ⟨0x027, false, (.level 0), .none⟩, -- sys.repidx
  ⟨0x028, false, (.level 1), (.level 1)⟩, -- sys.deleg
  ⟨0x029, true, (.level 0), (.level 0)⟩, -- sys.uscr
  ⟨0x02A, true, (.level 1), (.level 1)⟩, -- sys.kscr
  ⟨0x02B, true, (.level 2), (.level 2)⟩ -- sys.sscr
  ]

/-- Rows 0x02C to 0x074. -/
def sysRows1 : List SysRow := [
  ⟨0x02C, true, (.level 0), (.level 0)⟩, -- sys.wpaddr
  ⟨0x02D, false, (.level 0), (.level 0)⟩, -- sys.wpctl
  ⟨0x030, false, (.level 0), .none⟩, -- sys.flow
  ⟨0x040, false, (.level 0), (.level 1)⟩, -- sys.rbase
  ⟨0x050, false, (.level 0), (.level 1)⟩, -- sys.waymask
  ⟨0x051, false, (.level 0), .none⟩, -- sys.occ
  ⟨0x052, false, (.level 1), (.level 1)⟩, -- sys.occsel
  ⟨0x060, true, (.level 1), (.level 1)⟩, -- sys.ptroot
  ⟨0x061, false, (.level 0), .none⟩, -- sys.tinfo
  ⟨0x062, false, (.level 2), (.level 2)⟩, -- sys.pselect
  ⟨0x063, true, (.level 2), (.level 2)⟩, -- sys.s2root
  ⟨0x064, true, (.level 2), (.level 2)⟩, -- sys.dmap
  ⟨0x065, false, (.level 2), (.level 2)⟩, -- sys.dctl
  ⟨0x066, false, (.level 1), (.level 1)⟩, -- sys.smpctl
  ⟨0x067, true, (.level 1), (.level 1)⟩, -- sys.smpring
  ⟨0x068, true, (.level 1), .none⟩, -- sys.frame4k
  ⟨0x069, true, (.level 1), .none⟩, -- sys.frame64k
  ⟨0x06A, true, (.level 1), .none⟩, -- sys.frame2m
  ⟨0x06B, true, (.level 1), .none⟩, -- sys.poolcnt
  ⟨0x06C, true, (.level 1), .none⟩, -- sys.ftry4k
  ⟨0x06D, true, (.level 1), .none⟩, -- sys.ftry64k
  ⟨0x06E, true, (.level 1), .none⟩, -- sys.ftry2m
  ⟨0x06F, false, (.level 0), (.level 2)⟩, -- sys.stwbase
  ⟨0x070, true, (.level 0), (.level 0)⟩, -- sys.lstk
  ⟨0x071, true, (.level 2), (.level 2)⟩, -- sys.wbbase
  ⟨0x072, false, (.level 2), (.level 2)⟩, -- sys.wbctl
  ⟨0x073, true, (.level 1), (.level 1)⟩, -- sys.errring
  ⟨0x074, false, (.level 2), (.level 2)⟩ -- sys.ecthr
  ]

/-- Rows 0x080 to 0x0BC. -/
def sysRows2 : List SysRow := [
  ⟨0x080, false, (.level 1), (.level 2)⟩, -- sys.wsmode
  ⟨0x081, false, (.level 1), (.level 1)⟩, -- sys.wsto
  ⟨0x082, true, (.level 1), (.level 1)⟩, -- sys.wsring
  ⟨0x083, true, .none, (.level 1)⟩, -- sys.wscmd
  ⟨0x084, false, (.level 1), .none⟩, -- sys.wsdecl
  ⟨0x085, true, (.level 1), (.level 1)⟩, -- sys.mfbase
  ⟨0x086, true, (.level 1), (.level 1)⟩, -- sys.mfmap
  ⟨0x087, true, (.level 1), (.level 1)⟩, -- sys.wsep
  ⟨0x088, true, (.level 1), (.level 1)⟩, -- sys.wsstat
  ⟨0x090, false, (.level 0), (.level 1)⟩, -- sys.rlcnt
  ⟨0x0A0, false, (.level 0), (.level 2)⟩, -- sys.pkgid
  ⟨0x0A1, true, (.level 2), (.level 2)⟩, -- sys.fbpeer
  ⟨0x0A2, false, .none, (.level 2)⟩, -- sys.fbsync
  ⟨0x0A3, false, (.level 0), (.level 2)⟩, -- sys.fbto
  ⟨0x0A4, false, (.level 1), (.level 2)⟩, -- sys.fbthr
  ⟨0x0A5, false, (.level 0), (.level 2)⟩, -- sys.lterm
  ⟨0x0A6, false, (.level 1), (.level 1)⟩, -- sys.lnsel
  ⟨0x0A7, true, (.level 1), .none⟩, -- sys.lnstat
  ⟨0x0A8, true, (.level 1), (.level 1)⟩, -- sys.fbring
  ⟨0x0A9, false, (.level 1), (.level 2)⟩, -- sys.fbmode
  ⟨0x0AA, false, (.level 0), .none⟩, -- sys.rfinfo
  ⟨0x0B0, false, (.level 0), (.level 0)⟩, -- sys.nmode
  ⟨0x0B1, false, (.level 0), (.level 0)⟩, -- sys.nflags
  ⟨0x0B8, false, (.level 0), .none⟩, -- sys.engq
  ⟨0x0B9, false, (.level 0), .none⟩, -- sys.tstat
  ⟨0x0BA, false, .none, (.level 0)⟩, -- sys.btcctl
  ⟨0x0BB, true, (.level 0), (.level 1)⟩, -- sys.btcstat
  ⟨0x0BC, true, (.level 0), (.level 1)⟩ -- sys.mcstat
  ]

/-- Rows 0x0C0 to 0x0E9. -/
def sysRows3 : List SysRow := [
  ⟨0x0C0, true, (.level 2), (.level 2)⟩, -- sys.ctxstore
  ⟨0x0C1, false, (.level 2), (.level 2)⟩, -- sys.dbgsel
  ⟨0x0C2, false, (.level 2), (.level 2)⟩, -- sys.dbgctl
  ⟨0x0C3, false, (.level 2), .none⟩, -- sys.dbgstat
  ⟨0x0C4, false, (.level 2), (.level 2)⟩, -- sys.ctxsize
  ⟨0x0C5, true, (.level 1), (.level 2)⟩, -- sys.mbox
  ⟨0x0D0, false, (.level 1), (.level 1)⟩, -- sys.qsel
  ⟨0x0D1, false, (.level 1), (.level 1)⟩, -- sys.qctl
  ⟨0x0D2, false, (.level 1), .none⟩, -- sys.qstat
  ⟨0x0D3, false, (.level 1), (.level 1)⟩, -- sys.lnctl
  ⟨0x0D4, false, (.level 1), (.level 2)⟩, -- sys.pcfg
  ⟨0x0D5, false, (.level 1), (.level 2)⟩, -- sys.ptime
  ⟨0x0D6, false, (.level 1), (.level 2)⟩, -- sys.pband
  ⟨0x0D7, false, (.level 1), (.level 2)⟩, -- sys.pways
  ⟨0x0D8, false, (.level 1), .none⟩, -- sys.ptused
  ⟨0x0D9, true, (.level 1), (.level 1)⟩, -- sys.schring
  ⟨0x0DA, false, (.level 1), (.level 2)⟩, -- sys.plmode
  ⟨0x0DB, true, .none, (.level 1)⟩, -- sys.plcmd
  ⟨0x0E0, true, .none, (.level 1)⟩, -- sys.trcmd
  ⟨0x0E1, false, (.level 1), .none⟩, -- sys.trstat
  ⟨0x0E2, false, (.level 0), (.level 0)⟩, -- sys.polsel
  ⟨0x0E3, false, (.level 0), .none⟩, -- sys.polinfo
  ⟨0x0E4, true, (.level 0), .none⟩, -- sys.polbudget
  ⟨0x0E5, false, (.level 0), .none⟩, -- sys.gtinfo
  ⟨0x0E6, true, (.level 0), .none⟩, -- sys.mono
  ⟨0x0E7, true, (.level 1), (.level 1)⟩, -- sys.gtstat
  ⟨0x0E8, false, (.level 1), .none⟩, -- sys.mlog
  ⟨0x0E9, false, (.level 1), (.level 1)⟩ -- sys.ingwb
  ]

/-- Rows 0x0EA to 0x0F5. -/
def sysRows4 : List SysRow := [
  ⟨0x0EA, false, (.level 1), (.level 2)⟩, -- sys.trmode
  ⟨0x0EB, true, (.level 1), (.level 1)⟩, -- sys.frring
  ⟨0x0F0, false, (.level 1), (.level 2)⟩, -- sys.pwrlim
  ⟨0x0F1, true, (.level 1), .none⟩, -- sys.pwrstat
  ⟨0x0F2, false, (.level 1), .none⟩, -- sys.thermal
  ⟨0x0F3, false, (.level 0), .none⟩, -- sys.fwver
  ⟨0x0F4, false, .none, (.level 2)⟩, -- sys.rstctl
  ⟨0x0F5, false, (.level 1), .none⟩ -- sys.rstcause
  ]

/-- Every defined system register. -/
def sysRows : List SysRow := sysRows0 ++ sysRows1 ++ sysRows2 ++ sysRows3 ++ sysRows4

/-- The row of a register number; a number without one is not defined (R304). -/
def sysRow (n : Nat) : Option SysRow := sysRows.find? (fun r => r.num == n)

end Sys2Proof
end

