-- ==== Sys2Proof/WellFormed.lean ====
section
/-! DEFINITION. Which instructions are well formed: registers inside their class and aligned (R297, R298), and every modifier,
type, size and scope a value the instruction assigns (R299, R300, R134, and each instruction's own table). -/

namespace Sys2Proof

/-- Why a word is not an instruction; each is the ILLEGAL of R301 (a word cut short is no word at all). -/
inductive DecodeError where
  | unassignedOpcode
  | reservedBits
  | illFormed
  | tooShort
deriving DecidableEq, Repr

/-- The operands of an instruction: its vector registers and its uniform registers, each with the size of the group it
names (1, a pair or a quad) and whether the instruction reads it, and whether its modifiers are assigned. -/
structure Operands where
  vregs : List (BitVec 7 × Nat × Bool)
  sregs : List (BitVec 6 × Nat × Bool)
  modOk : Bool
deriving DecidableEq, Repr

/-- Registers a VM size code names (R300). -/
def sizeRegs (z : BitVec 3) : Nat := if z = 3 then 2 else if z = 4 then 4 else 1

/-- Registers a CVT type code names: .a40 is a pair (R205, R364). -/
def cvtRegs (t : BitVec 4) : Nat := if t = 15 then 2 else 1

/-- The integer type codes CVT converts to: .i8, .i16, .i32, .n8, .n16, .n32 (R299, R364). -/
def isIntType (t : Nat) : Bool := decide (5 ≤ t) && decide (t ≤ 10)

/-- The assigned pairs of CVT and their rounding controls (R364). -/
def cvtOk (dt st rc : Nat) : Bool :=
  if st = 7 ∨ st = 10 then (isIntType dt && decide (rc = 0)) || (decide (dt = 11) && decide (rc ≤ 2))
  else if st = 11 then ((isIntType dt || decide (dt = 11)) && decide (rc ≤ 2)) || (decide (dt = 15) && decide (rc = 0))
  else if st = 15 then decide (dt = 11) && decide (rc ≤ 2)
  else false

/-- The assigned combinations of CVTB (R366). -/
def cvtbOk (k f s r : Nat) : Bool :=
  decide (f ≤ 2) && decide (s ≤ 2) && (decide (s ≠ 2) || decide (f = 1)) &&
    (if f = 2 then decide (k ≤ 1) && decide (r ≤ 2) else decide (r = 0))

/-- WBRD's kinds and the bits of SRC each requires zero (R341). -/
def wbrdOk (k s : Nat) : Bool :=
  match k with
  | 0 => decide (s < 64)
  | 1 => true
  | 2 => decide (s < 8)
  | 3 => decide (s < 8)
  | 4 => decide (s = 0)
  | 5 => decide (s < 8)
  | _ => false

/-- Is a system register a pair (R342)? -/
def sysPair (n : Nat) : Bool := ((sysRow n).map (fun r => r.pair)).getD false

/-- Is a system register defined and its write column not "none" (R304)? -/
def sysWritable (n : Nat) : Bool := ((sysRow n).map (fun r => decide (r.wr ≠ .none))).getD false

/-- The operands of every encoded instruction; an event has none. -/
def Instr.operands : Instr → Operands
  | .iadd d a b m => ⟨[(d, 1, false), (a, 1, true), (b, 1, true)], [], decide (m.toNat ≤ 2)⟩
  | .isub d a b m => ⟨[(d, 1, false), (a, 1, true), (b, 1, true)], [], decide (m.toNat ≤ 2)⟩
  | .imul d a b => ⟨[(d, 1, false), (a, 1, true), (b, 1, true)], [], true⟩
  | .imulh d a b _ => ⟨[(d, 1, false), (a, 1, true), (b, 1, true)], [], true⟩
  | .imad d a b => ⟨[(d, 1, true), (a, 1, true), (b, 1, true)], [], true⟩
  | .imin d a b _ => ⟨[(d, 1, false), (a, 1, true), (b, 1, true)], [], true⟩
  | .imax d a b _ => ⟨[(d, 1, false), (a, 1, true), (b, 1, true)], [], true⟩
  | .iabsd d a b _ => ⟨[(d, 1, false), (a, 1, true), (b, 1, true)], [], true⟩
  | .andV d a b => ⟨[(d, 1, false), (a, 1, true), (b, 1, true)], [], true⟩
  | .orV d a b => ⟨[(d, 1, false), (a, 1, true), (b, 1, true)], [], true⟩
  | .xor d a b => ⟨[(d, 1, false), (a, 1, true), (b, 1, true)], [], true⟩
  | .andn d a b => ⟨[(d, 1, false), (a, 1, true), (b, 1, true)], [], true⟩
  | .shl d a b => ⟨[(d, 1, false), (a, 1, true), (b, 1, true)], [], true⟩
  | .shr d a b => ⟨[(d, 1, false), (a, 1, true), (b, 1, true)], [], true⟩
  | .sra d a b => ⟨[(d, 1, false), (a, 1, true), (b, 1, true)], [], true⟩
  | .bfx d a b _ => ⟨[(d, 1, false), (a, 1, true), (b, 1, true)], [], true⟩
  | .bfi d a b => ⟨[(d, 1, true), (a, 1, true), (b, 1, true)], [], true⟩
  | .popc d a => ⟨[(d, 1, false), (a, 1, true)], [], true⟩
  | .clz d a => ⟨[(d, 1, false), (a, 1, true)], [], true⟩
  | .brev d a => ⟨[(d, 1, false), (a, 1, true)], [], true⟩
  | .prmt d a b => ⟨[(d, 1, true), (a, 1, true), (b, 1, true)], [], true⟩
  | .prmts d a s => ⟨[(d, 1, true), (a, 1, true)], [(s, 1, true)], true⟩
  | .icmp _ a b c => ⟨[(a, 1, true), (b, 1, true)], [], decide (c.toNat ≤ 5)⟩
  | .sel d a b _ => ⟨[(d, 1, false), (a, 1, true), (b, 1, true)], [], true⟩
  | .mov d a => ⟨[(d, 1, false), (a, 1, true)], [], true⟩
  | .movs d s => ⟨[(d, 1, false)], [(s, 1, true)], true⟩
  | .movi d _ => ⟨[(d, 1, false)], [], true⟩
  | .iaddi d a _ => ⟨[(d, 1, false), (a, 1, true)], [], true⟩
  | .andi d a _ => ⟨[(d, 1, false), (a, 1, true)], [], true⟩
  | .ori d a _ => ⟨[(d, 1, false), (a, 1, true)], [], true⟩
  | .xori d a _ => ⟨[(d, 1, false), (a, 1, true)], [], true⟩
  | .shli d a _ => ⟨[(d, 1, false), (a, 1, true)], [], true⟩
  | .shri d a _ => ⟨[(d, 1, false), (a, 1, true)], [], true⟩
  | .srai d a _ => ⟨[(d, 1, false), (a, 1, true)], [], true⟩
  | .iadds d a s m => ⟨[(d, 1, false), (a, 1, true)], [(s, 1, true)], decide (m.toNat ≤ 2)⟩
  | .icmps _ a s _ c => ⟨[(a, 1, true)], [(s, 1, true)], decide (c.toNat ≤ 5)⟩
  | .lane d m => ⟨[(d, 1, false)], [], decide (m.toNat ≤ 1)⟩
  | .fadd d a b _ => ⟨[(d, 1, false), (a, 1, true), (b, 1, true)], [], true⟩
  | .fmul d a b _ => ⟨[(d, 1, false), (a, 1, true), (b, 1, true)], [], true⟩
  | .ffma d a b _ => ⟨[(d, 1, true), (a, 1, true), (b, 1, true)], [], true⟩
  | .fmin d a b _ => ⟨[(d, 1, false), (a, 1, true), (b, 1, true)], [], true⟩
  | .fmax d a b _ => ⟨[(d, 1, false), (a, 1, true), (b, 1, true)], [], true⟩
  | .fcmp _ a b c => ⟨[(a, 1, true), (b, 1, true)], [], decide (c.toNat ≤ 5)⟩
  | .fabs d a k _ => ⟨[(d, 1, false), (a, 1, true)], [], decide (k.toNat ≤ 2)⟩
  | .frcp d a => ⟨[(d, 1, false), (a, 1, true)], [], true⟩
  | .fsqrt d a => ⟨[(d, 1, false), (a, 1, true)], [], true⟩
  | .frsq d a => ⟨[(d, 1, false), (a, 1, true)], [], true⟩
  | .fexp2 d a => ⟨[(d, 1, false), (a, 1, true)], [], true⟩
  | .flog2 d a => ⟨[(d, 1, false), (a, 1, true)], [], true⟩
  | .fdot2 d a b => ⟨[(d, 1, true), (a, 1, true), (b, 1, true)], [], true⟩
  | .fadds d a s _ => ⟨[(d, 1, false), (a, 1, true)], [(s, 1, true)], true⟩
  | .fmuls d a s _ => ⟨[(d, 1, false), (a, 1, true)], [(s, 1, true)], true⟩
  | .ffmas d a s _ => ⟨[(d, 1, true), (a, 1, true)], [(s, 1, true)], true⟩
  | .cvt d a x y r => ⟨[(d, cvtRegs x, false), (a, cvtRegs y, true)], [], cvtOk x.toNat y.toNat r.toNat⟩
  | .cvtb d a k f s r => ⟨[(d, 1, true), (a, if s = 1 then 2 else 1, true)], [], cvtbOk k.toNat f.toNat s.toNat r.toNat⟩
  | .unpkl d a k f => ⟨[(d, 1, false), (a, 1, true)], [], decide (f.toNat ≤ 2) && (decide (f.toNat ≠ 2) || decide (k.toNat ≤ 1))⟩
  | .packh d a b r => ⟨[(d, 1, false), (a, 1, true), (b, 1, true)], [], decide (r.toNat ≤ 2)⟩
  | .shfl d a b _ _ => ⟨[(d, 1, true), (a, 1, true), (b, 1, true)], [], true⟩
  | .vote d _ m => ⟨[(d, 1, false)], [], decide (m.toNat ≤ 4)⟩
  | .matchV d a k w => ⟨[(d, 1, false), (a, if w = 1 then 2 else 1, true)], [], decide (k.toNat ≤ 2)⟩
  | .ld d a s z _ => ⟨[(d, sizeRegs z, false), (a, 1, true)], [(s, 2, true)], decide (z.toNat ≤ 6)⟩
  | .st d a s z _ => ⟨[(d, sizeRegs z, true), (a, 1, true)], [(s, 2, true)], decide (z.toNat ≤ 4)⟩
  | .ldsp d a s z _ => ⟨[(d, sizeRegs z, false), (a, 1, true)], [(s, 2, false), (s, 1, true)], decide (z.toNat ≤ 6)⟩
  | .stsp d a s z _ => ⟨[(d, sizeRegs z, true), (a, 1, true)], [(s, 2, false), (s, 1, true)], decide (z.toNat ≤ 4)⟩
  | .ldcv d a s z _ => ⟨[(d, sizeRegs z, false), (a, 1, true)], [(s, 2, false), (s, 1, true)], decide (z.toNat ≤ 6)⟩
  | .stcv d a s z _ => ⟨[(d, sizeRegs z, true), (a, 1, true)], [(s, 2, false), (s, 1, true)], decide (z.toNat ≤ 4)⟩
  | .lddp d a s z _ => ⟨[(d, sizeRegs z, false), (a, 1, true)], [(s, 2, false), (s, 1, true)], decide (z.toNat ≤ 6)⟩
  | .stdp d a s z _ => ⟨[(d, sizeRegs z, true), (a, 1, true)], [(s, 2, false), (s, 1, true)], decide (z.toNat ≤ 4)⟩
  | .ldc d a s z _ => ⟨[(d, sizeRegs z, false), (a, 1, true)], [(s, 2, true)], decide (z.toNat ≤ 6)⟩
  | .pfet a s l => ⟨[(a, 1, true)], [(s, 2, true)], decide (l.toNat ≤ 1)⟩
  | .lda d a s c _ => ⟨[(d, 1, false), (a, 1, true)], [(s, 2, true)], decide (c.toNat ≤ 5)⟩
  | .stl d a s c _ => ⟨[(d, 1, true), (a, 1, true)], [(s, 2, true)], decide (c.toNat ≤ 5)⟩
  | .lda64 d a s c _ => ⟨[(d, 2, false), (a, 1, true)], [(s, 2, true)], decide (c.toNat ≤ 5)⟩
  | .stl64 d a s c _ => ⟨[(d, 2, true), (a, 1, true)], [(s, 2, true)], decide (c.toNat ≤ 5)⟩
  | .atadd d a s c _ => ⟨[(d, 1, true), (a, 1, true)], [(s, 2, true)], decide (c.toNat ≤ 5)⟩
  | .atmin d a s c _ => ⟨[(d, 1, true), (a, 1, true)], [(s, 2, true)], decide (c.toNat ≤ 5)⟩
  | .atmax d a s c _ => ⟨[(d, 1, true), (a, 1, true)], [(s, 2, true)], decide (c.toNat ≤ 5)⟩
  | .atminn d a s c _ => ⟨[(d, 1, true), (a, 1, true)], [(s, 2, true)], decide (c.toNat ≤ 5)⟩
  | .atmaxn d a s c _ => ⟨[(d, 1, true), (a, 1, true)], [(s, 2, true)], decide (c.toNat ≤ 5)⟩
  | .atand d a s c _ => ⟨[(d, 1, true), (a, 1, true)], [(s, 2, true)], decide (c.toNat ≤ 5)⟩
  | .ator d a s c _ => ⟨[(d, 1, true), (a, 1, true)], [(s, 2, true)], decide (c.toNat ≤ 5)⟩
  | .atxor d a s c _ => ⟨[(d, 1, true), (a, 1, true)], [(s, 2, true)], decide (c.toNat ≤ 5)⟩
  | .atxch d a s c _ => ⟨[(d, 1, true), (a, 1, true)], [(s, 2, true)], decide (c.toNat ≤ 5)⟩
  | .atcas d a s c _ => ⟨[(d, 2, true), (a, 1, true)], [(s, 2, true)], decide (c.toNat ≤ 5)⟩
  | .atfadd d a s c _ => ⟨[(d, 1, true), (a, 1, true)], [(s, 2, true)], decide (c.toNat ≤ 5)⟩
  | .atadd64 d a s c _ => ⟨[(d, 2, true), (a, 1, true)], [(s, 2, true)], decide (c.toNat ≤ 5)⟩
  | .atcas64 d a s c _ => ⟨[(d, 4, true), (a, 1, true)], [(s, 2, true)], decide (c.toNat ≤ 5)⟩
  | .rld d a s z _ => ⟨[(d, sizeRegs z, false), (a, 2, true)], [(s, 2, true)], decide (z.toNat ≤ 6)⟩
  | .rst d a s z _ => ⟨[(d, sizeRegs z, true), (a, 2, true)], [(s, 2, true)], decide (z.toNat ≤ 4)⟩
  | .ratadd d a s z _ => ⟨[(d, sizeRegs z, true), (a, 2, true)], [(s, 2, true)], decide (z.toNat = 2) || decide (z.toNat = 3)⟩
  | .ratcas d a s z _ => ⟨[(d, 2 * sizeRegs z, true), (a, 2, true)], [(s, 2, true)], decide (z.toNat = 2) || decide (z.toNat = 3)⟩
  | .ratfadd d a s z _ => ⟨[(d, sizeRegs z, true), (a, 2, true)], [(s, 2, true)], decide (z.toNat = 2)⟩
  | .popq d _ _ => ⟨[(d, 1, false)], [], true⟩
  | .rep _ _ _ _ => ⟨[], [], true⟩
  | .sadd d a b => ⟨[], [(d, 1, false), (a, 1, true), (b, 1, true)], true⟩
  | .ssub d a b => ⟨[], [(d, 1, false), (a, 1, true), (b, 1, true)], true⟩
  | .smul d a b => ⟨[], [(d, 1, false), (a, 1, true), (b, 1, true)], true⟩
  | .smulh d a b _ => ⟨[], [(d, 1, false), (a, 1, true), (b, 1, true)], true⟩
  | .sand d a b => ⟨[], [(d, 1, false), (a, 1, true), (b, 1, true)], true⟩
  | .sor d a b => ⟨[], [(d, 1, false), (a, 1, true), (b, 1, true)], true⟩
  | .sxor d a b => ⟨[], [(d, 1, false), (a, 1, true), (b, 1, true)], true⟩
  | .sshl d a b => ⟨[], [(d, 1, false), (a, 1, true), (b, 1, true)], true⟩
  | .sshr d a b => ⟨[], [(d, 1, false), (a, 1, true), (b, 1, true)], true⟩
  | .ssra d a b => ⟨[], [(d, 1, false), (a, 1, true), (b, 1, true)], true⟩
  | .smin d a b _ => ⟨[], [(d, 1, false), (a, 1, true), (b, 1, true)], true⟩
  | .smax d a b _ => ⟨[], [(d, 1, false), (a, 1, true), (b, 1, true)], true⟩
  | .scmp _ a b _ c => ⟨[], [(a, 1, true), (b, 1, true)], decide (c.toNat ≤ 5)⟩
  | .ssel d a b _ _ => ⟨[], [(d, 1, false), (a, 1, true), (b, 1, true)], true⟩
  | .smov d a => ⟨[], [(d, 1, false), (a, 1, true)], true⟩
  | .spopc d a => ⟨[], [(d, 1, false), (a, 1, true)], true⟩
  | .sclz d a => ⟨[], [(d, 1, false), (a, 1, true)], true⟩
  | .saddi d a _ => ⟨[], [(d, 1, false), (a, 1, true)], true⟩
  | .sandi d a _ => ⟨[], [(d, 1, false), (a, 1, true)], true⟩
  | .sori d a _ => ⟨[], [(d, 1, false), (a, 1, true)], true⟩
  | .sxori d a _ => ⟨[], [(d, 1, false), (a, 1, true)], true⟩
  | .sshli d a _ => ⟨[], [(d, 1, false), (a, 1, true)], true⟩
  | .sshri d a _ => ⟨[], [(d, 1, false), (a, 1, true)], true⟩
  | .scmpi _ a c _ _ => ⟨[], [(a, 1, true)], decide (c.toNat ≤ 5)⟩
  | .smovi d _ => ⟨[], [(d, 1, false)], true⟩
  | .slui d _ => ⟨[], [(d, 1, true)], true⟩
  | .sadd64 d a b k => ⟨[], [(d, 2, false), (a, 2, true), (b, if k = 0 then 2 else 1, true)], decide (k.toNat ≤ 2)⟩
  | .qop _ _ _ _ => ⟨[], [], true⟩
  | .sld d a b _ => ⟨[], [(d, 1, false), (a, 2, true), (b, 1, true)], true⟩
  | .sst d a b _ => ⟨[], [(d, 1, true), (a, 2, true), (b, 1, true)], true⟩
  | .sld64 d a b _ => ⟨[], [(d, 2, false), (a, 2, true), (b, 1, true)], true⟩
  | .sst64 d a b _ => ⟨[], [(d, 2, true), (a, 2, true), (b, 1, true)], true⟩
  | .sldsp d a b _ => ⟨[], [(d, 1, false), (a, 1, true), (b, 1, true)], true⟩
  | .sstsp d a b _ => ⟨[], [(d, 1, true), (a, 1, true), (b, 1, true)], true⟩
  | .slda d a b c _ => ⟨[], [(d, 1, false), (a, 2, true), (b, 1, true)], decide (c.toNat ≤ 5)⟩
  | .sstl d a b c _ => ⟨[], [(d, 1, true), (a, 2, true), (b, 1, true)], decide (c.toNat ≤ 5)⟩
  | .satadd d a b c _ => ⟨[], [(d, 1, true), (a, 2, true), (b, 1, true)], decide (c.toNat ≤ 5)⟩
  | .satcas d a b c _ => ⟨[], [(d, 2, true), (a, 2, true), (b, 1, true)], decide (c.toNat ≤ 5)⟩
  | .redv d v _ => ⟨[(v, 1, true)], [(d, 1, false)], true⟩
  | .lmask d p k => ⟨[], [(d, 1, false)], decide (k = 0) || decide (p = 0)⟩
  | .bcast d v b m => ⟨[(v, 1, true)], (d, 1, false) :: (if m = 1 then [(b, 1, true)] else []), decide (m = 1) || decide (b = 0)⟩
  | .br _ _ _ => ⟨[], [], true⟩
  | .brd _ _ _ => ⟨[], [], true⟩
  | .setj _ => ⟨[], [], true⟩
  | .call _ _ _ => ⟨[], [], true⟩
  | .ret => ⟨[], [(62, 2, true)], true⟩
  | .bri a b => ⟨[], [(a, 2, true), (b, 1, true)], true⟩
  | .loop c _ => ⟨[], [(c, 1, true)], true⟩
  | .loopi _ _ => ⟨[], [], true⟩
  | .lbrk _ _ _ => ⟨[], [], true⟩
  | .exit => ⟨[], [], true⟩
  | .lnch d a b _ => ⟨[], [(d, 1, false), (a, 2, true), (b, 1, true)], true⟩
  | .bar a c _ => ⟨[], [(a, 1, decide (c = 1))], decide (c = 1) || decide (a = 0)⟩
  | .barcv a c _ => ⟨[], [(a, 1, decide (c = 1))], decide (c = 1) || decide (a = 0)⟩
  | .arrv a b s => ⟨[], [(a, 2, true), (b, 1, true)], decide (s.toNat ≤ 5)⟩
  | .bwait d a s => ⟨[], [(d, 2, true), (a, 2, true)], decide (s.toNat ≤ 5)⟩
  | .waitw d a c p s => ⟨[], [(d, 2, true), (a, if p = 0 then 2 else 1, true)], decide (c.toNat ≤ 4) && decide (p.toNat ≤ 3) && decide (s.toNat ≤ 5)⟩
  | .fence s _ => ⟨[], [], decide (s.toNat ≤ 5)⟩
  | .waitf _ => ⟨[], [], true⟩
  | .yield => ⟨[], [], true⟩
  | .sleep a _ => ⟨[], [(a, 1, true)], true⟩
  | .macq _ _ _ d => ⟨[], [(d, 1, false)], true⟩
  | .mrel _ _ _ => ⟨[], [], true⟩
  | .mzeroE _ _ => ⟨[], [], true⟩
  | .mzeroAll _ _ => ⟨[], [], true⟩
  | .mma _ _ m a b => ⟨[], [(a, 2, true), (b, 2, true)], decide (m.toNat ≤ 4)⟩
  | .mmap _ _ m a b => ⟨[], [(a, 2, true), (b, 2, true)], decide (m.toNat ≤ 4)⟩
  | .msca _ d p a b => ⟨[], [(a, 1, true), (b, 1, true)], decide (p ≠ d)⟩
  | .mld _ _ m a b => ⟨[], [(a, 1, true), (b, 1, true)], decide (m.toNat ≤ 2)⟩
  | .mst _ _ m a b => ⟨[], [(a, 1, true), (b, 1, true)], decide (m.toNat ≤ 2)⟩
  | .smxu _ o s p k _ m => ⟨[], [(p, 1, true), (k, 2, true)], decide (s ≠ o) && decide (m.toNat ≤ 2)⟩
  | .smxm _ a b p => ⟨[], [], decide (p = 1) || decide (a ≠ b)⟩
  | .smxn _ _ => ⟨[], [], true⟩
  | .mstatSt _ _ a => ⟨[], [(a, 1, true)], true⟩
  | .mstatLd _ _ a => ⟨[], [(a, 1, true)], true⟩
  | .mstatRst _ _ => ⟨[], [], true⟩
  | .xcv _ _ a w => ⟨[], [(a, 1, true), (w, 1, true)], true⟩
  | .xadd _ d s c => ⟨[], [(d, 1, true), (s, 1, true), (c, 1, true)], true⟩
  | .xput _ a b c => ⟨[], [(a, 1, true), (b, 2, true), (c, 1, true)], true⟩
  | .xrnd _ _ a w => ⟨[], [(a, 1, true), (w, 1, true)], true⟩
  | .cpy _ d a => ⟨[], [(d, 1, false), (a, 1, true)], true⟩
  | .cpy2d _ d a => ⟨[], [(d, 1, false), (a, 1, true)], true⟩
  | .cfill _ d a => ⟨[], [(d, 1, false), (a, 1, true)], true⟩
  | .gath _ d a => ⟨[], [(d, 1, false), (a, 1, true)], true⟩
  | .cstat _ d a u => ⟨[], [(d, 2, false), (a, 1, true)], decide (u.toNat ≤ 2)⟩
  | .ccan _ a u => ⟨[], [(a, 1, true)], decide (u.toNat ≤ 2)⟩
  | .ostart _ _ a b d => ⟨[], [(a, 1, true), (b, 2, true), (d, 1, false)], true⟩
  | .ostop _ _ => ⟨[], [], true⟩
  | .opush _ _ a c => ⟨[], [(a, 1, true)], decide (a.toNat + c.toNat ≤ 63)⟩
  | .lease d a b _ => ⟨[], [(d, 1, false), (a, 1, true), (b, 1, true)], true⟩
  | .lrel d a _ => ⟨[], [(d, 1, false), (a, 1, true)], true⟩
  | .lqry d a => ⟨[], [(d, 2, false), (a, 1, true)], true⟩
  | .drain a _ => ⟨[], [(a, 1, true)], true⟩
  | .drainAll a _ => ⟨[], [(a, 1, true)], true⟩
  | .wbrd d s k => ⟨if k = 1 then [(s, 1, false)] else [], [(d, 1, false)], wbrdOk k.toNat s.toNat⟩
  | .sysr d r => ⟨[], [(d, if sysPair r.toNat then 2 else 1, false)], (sysRow r.toNat).isSome⟩
  | .sysw a r => ⟨[], [(a, if sysPair r.toNat then 2 else 1, true)], sysWritable r.toNat⟩
  | .trap _ => ⟨[], [], true⟩
  | .brk _ => ⟨[], [], true⟩
  | .tret => ⟨[], [], true⟩
  | .gpolIns d a => ⟨[], [(d, 1, false), (a, 2, true)], true⟩
  | .gpolRev d b => ⟨[], [(d, 1, false), (b, 1, true)], true⟩
  | .seal d a b => ⟨[], [(d, 1, false), (a, 2, true), (b, 1, true)], true⟩
  | .tlbiPage a b _ => ⟨[], [(a, 1, true), (b, 2, true)], true⟩
  | .tlbiWorld a _ => ⟨[], [(a, 1, true)], true⟩
  | .tlbiPart a _ => ⟨[], [(a, 1, true)], true⟩
  | .tlbiAll _ => ⟨[], [], true⟩
  | .tlbiG2page a b _ => ⟨[], [(a, 1, true), (b, 2, true)], true⟩
  | .tlbiG2part a _ => ⟨[], [(a, 1, true)], true⟩
  | .scrub d a _ z => ⟨[], [(d, 1, false), (a, 2, true)], decide (z.toNat ≤ 2)⟩
  | .ctxsv d a _ => ⟨[], [(d, 1, false), (a, 2, true)], true⟩
  | .ctxld d a _ => ⟨[], [(d, 1, false), (a, 2, true)], true⟩
  | .nop => ⟨[], [], true⟩
  | _ => ⟨[], [], true⟩

/-- A register group inside its file: named by a register that is a multiple of its size, and ending below `lim` (R298). -/
def groupOk (lim r n : Nat) : Bool := decide (r % n = 0) && decide (r + n ≤ lim)

/-- Every register group inside its class, vector registers below `vlim` (R62, R298). -/
def Operands.regsOk (vlim : Nat) (o : Operands) : Bool :=
  o.vregs.all (fun p => groupOk vlim p.1.toNat p.2.1) && o.sregs.all (fun p => groupOk 64 p.1.toNat p.2.1)

/-- Well formed: assigned modifiers, and registers inside the widest allocation. -/
def Instr.wf (i : Instr) : Bool := i.operands.modOk && i.operands.regsOk 128

end Sys2Proof
end

