-- ==== Sys2Proof/Decode.lean ====
section
/-! DEFINITION. Decoding: from a 32-bit word to an instruction or a named rejection (R296 to R304), from bytes to a word
(R5), and back from an instruction to its word. Events have no word. -/

namespace Sys2Proof

/-- The words whose bits [31:28] are 0, by bits [27:24] (R302, R303). -/
def decodeRaw0 (w : BitVec 32) : Except DecodeError Instr :=
  match (w.extractLsb' 24 4).toNat with
  | 0 => .ok (.iadd (w.extractLsb' 17 7) (w.extractLsb' 10 7) (w.extractLsb' 3 7) (w.extractLsb' 0 3))
  | 1 => .ok (.isub (w.extractLsb' 17 7) (w.extractLsb' 10 7) (w.extractLsb' 3 7) (w.extractLsb' 0 3))
  | 2 => if w.extractLsb' 0 3 = 0 then .ok (.imul (w.extractLsb' 17 7) (w.extractLsb' 10 7) (w.extractLsb' 3 7)) else .error .reservedBits
  | 3 => if w.extractLsb' 1 2 = 0 then .ok (.imulh (w.extractLsb' 17 7) (w.extractLsb' 10 7) (w.extractLsb' 3 7) (w.extractLsb' 0 1)) else .error .reservedBits
  | 4 => if w.extractLsb' 0 3 = 0 then .ok (.imad (w.extractLsb' 17 7) (w.extractLsb' 10 7) (w.extractLsb' 3 7)) else .error .reservedBits
  | 5 => if w.extractLsb' 1 2 = 0 then .ok (.imin (w.extractLsb' 17 7) (w.extractLsb' 10 7) (w.extractLsb' 3 7) (w.extractLsb' 0 1)) else .error .reservedBits
  | 6 => if w.extractLsb' 1 2 = 0 then .ok (.imax (w.extractLsb' 17 7) (w.extractLsb' 10 7) (w.extractLsb' 3 7) (w.extractLsb' 0 1)) else .error .reservedBits
  | 7 => if w.extractLsb' 1 2 = 0 then .ok (.iabsd (w.extractLsb' 17 7) (w.extractLsb' 10 7) (w.extractLsb' 3 7) (w.extractLsb' 0 1)) else .error .reservedBits
  | 8 => if w.extractLsb' 0 3 = 0 then .ok (.andV (w.extractLsb' 17 7) (w.extractLsb' 10 7) (w.extractLsb' 3 7)) else .error .reservedBits
  | 9 => if w.extractLsb' 0 3 = 0 then .ok (.orV (w.extractLsb' 17 7) (w.extractLsb' 10 7) (w.extractLsb' 3 7)) else .error .reservedBits
  | 10 => if w.extractLsb' 0 3 = 0 then .ok (.xor (w.extractLsb' 17 7) (w.extractLsb' 10 7) (w.extractLsb' 3 7)) else .error .reservedBits
  | 11 => if w.extractLsb' 0 3 = 0 then .ok (.andn (w.extractLsb' 17 7) (w.extractLsb' 10 7) (w.extractLsb' 3 7)) else .error .reservedBits
  | 12 => if w.extractLsb' 0 3 = 0 then .ok (.shl (w.extractLsb' 17 7) (w.extractLsb' 10 7) (w.extractLsb' 3 7)) else .error .reservedBits
  | 13 => if w.extractLsb' 0 3 = 0 then .ok (.shr (w.extractLsb' 17 7) (w.extractLsb' 10 7) (w.extractLsb' 3 7)) else .error .reservedBits
  | 14 => if w.extractLsb' 0 3 = 0 then .ok (.sra (w.extractLsb' 17 7) (w.extractLsb' 10 7) (w.extractLsb' 3 7)) else .error .reservedBits
  | _ => if w.extractLsb' 1 2 = 0 then .ok (.bfx (w.extractLsb' 17 7) (w.extractLsb' 10 7) (w.extractLsb' 3 7) (w.extractLsb' 0 1)) else .error .reservedBits

/-- The words whose bits [31:28] are 1, by bits [27:24] (R302, R303). -/
def decodeRaw1 (w : BitVec 32) : Except DecodeError Instr :=
  match (w.extractLsb' 24 4).toNat with
  | 0 => if w.extractLsb' 0 3 = 0 then .ok (.bfi (w.extractLsb' 17 7) (w.extractLsb' 10 7) (w.extractLsb' 3 7)) else .error .reservedBits
  | 1 => if w.extractLsb' 0 10 = 0 then .ok (.popc (w.extractLsb' 17 7) (w.extractLsb' 10 7)) else .error .reservedBits
  | 2 => if w.extractLsb' 0 10 = 0 then .ok (.clz (w.extractLsb' 17 7) (w.extractLsb' 10 7)) else .error .reservedBits
  | 3 => if w.extractLsb' 0 10 = 0 then .ok (.brev (w.extractLsb' 17 7) (w.extractLsb' 10 7)) else .error .reservedBits
  | 4 => if w.extractLsb' 0 3 = 0 then .ok (.prmt (w.extractLsb' 17 7) (w.extractLsb' 10 7) (w.extractLsb' 3 7)) else .error .reservedBits
  | 5 => if w.extractLsb' 0 4 = 0 then .ok (.prmts (w.extractLsb' 17 7) (w.extractLsb' 10 7) (w.extractLsb' 4 6)) else .error .reservedBits
  | 6 => if w.extractLsb' 20 4 = 0 then .ok (.icmp (w.extractLsb' 17 3) (w.extractLsb' 10 7) (w.extractLsb' 3 7) (w.extractLsb' 0 3)) else .error .reservedBits
  | 7 => .ok (.sel (w.extractLsb' 17 7) (w.extractLsb' 10 7) (w.extractLsb' 3 7) (w.extractLsb' 0 3))
  | 8 => if w.extractLsb' 0 10 = 0 then .ok (.mov (w.extractLsb' 17 7) (w.extractLsb' 10 7)) else .error .reservedBits
  | 9 => if w.extractLsb' 10 7 = 0 ∧ w.extractLsb' 0 4 = 0 then .ok (.movs (w.extractLsb' 17 7) (w.extractLsb' 4 6)) else .error .reservedBits
  | 10 => if w.extractLsb' 10 7 = 0 then .ok (.movi (w.extractLsb' 17 7) (w.extractLsb' 0 10)) else .error .reservedBits
  | 11 => .ok (.iaddi (w.extractLsb' 17 7) (w.extractLsb' 10 7) (w.extractLsb' 0 10))
  | 12 => .ok (.andi (w.extractLsb' 17 7) (w.extractLsb' 10 7) (w.extractLsb' 0 10))
  | 13 => .ok (.ori (w.extractLsb' 17 7) (w.extractLsb' 10 7) (w.extractLsb' 0 10))
  | 14 => .ok (.xori (w.extractLsb' 17 7) (w.extractLsb' 10 7) (w.extractLsb' 0 10))
  | _ => if w.extractLsb' 5 5 = 0 then .ok (.shli (w.extractLsb' 17 7) (w.extractLsb' 10 7) (w.extractLsb' 0 5)) else .error .reservedBits

/-- The words whose bits [31:28] are 2, by bits [27:24] (R302, R303). -/
def decodeRaw2 (w : BitVec 32) : Except DecodeError Instr :=
  match (w.extractLsb' 24 4).toNat with
  | 0 => if w.extractLsb' 5 5 = 0 then .ok (.shri (w.extractLsb' 17 7) (w.extractLsb' 10 7) (w.extractLsb' 0 5)) else .error .reservedBits
  | 1 => if w.extractLsb' 5 5 = 0 then .ok (.srai (w.extractLsb' 17 7) (w.extractLsb' 10 7) (w.extractLsb' 0 5)) else .error .reservedBits
  | 2 => if w.extractLsb' 2 2 = 0 then .ok (.iadds (w.extractLsb' 17 7) (w.extractLsb' 10 7) (w.extractLsb' 4 6) (w.extractLsb' 0 2)) else .error .reservedBits
  | 3 => if w.extractLsb' 20 4 = 0 then .ok (.icmps (w.extractLsb' 17 3) (w.extractLsb' 10 7) (w.extractLsb' 4 6) (w.extractLsb' 3 1) (w.extractLsb' 0 3)) else .error .reservedBits
  | 4 => if w.extractLsb' 3 14 = 0 then .ok (.lane (w.extractLsb' 17 7) (w.extractLsb' 0 3)) else .error .reservedBits
  | 8 => if w.extractLsb' 1 2 = 0 then .ok (.fadd (w.extractLsb' 17 7) (w.extractLsb' 10 7) (w.extractLsb' 3 7) (w.extractLsb' 0 1)) else .error .reservedBits
  | 9 => if w.extractLsb' 1 2 = 0 then .ok (.fmul (w.extractLsb' 17 7) (w.extractLsb' 10 7) (w.extractLsb' 3 7) (w.extractLsb' 0 1)) else .error .reservedBits
  | 10 => if w.extractLsb' 1 2 = 0 then .ok (.ffma (w.extractLsb' 17 7) (w.extractLsb' 10 7) (w.extractLsb' 3 7) (w.extractLsb' 0 1)) else .error .reservedBits
  | 11 => if w.extractLsb' 1 2 = 0 then .ok (.fmin (w.extractLsb' 17 7) (w.extractLsb' 10 7) (w.extractLsb' 3 7) (w.extractLsb' 0 1)) else .error .reservedBits
  | 12 => if w.extractLsb' 1 2 = 0 then .ok (.fmax (w.extractLsb' 17 7) (w.extractLsb' 10 7) (w.extractLsb' 3 7) (w.extractLsb' 0 1)) else .error .reservedBits
  | 13 => if w.extractLsb' 20 4 = 0 then .ok (.fcmp (w.extractLsb' 17 3) (w.extractLsb' 10 7) (w.extractLsb' 3 7) (w.extractLsb' 0 3)) else .error .reservedBits
  | 14 => if w.extractLsb' 3 7 = 0 then .ok (.fabs (w.extractLsb' 17 7) (w.extractLsb' 10 7) (w.extractLsb' 1 2) (w.extractLsb' 0 1)) else .error .reservedBits
  | 15 => if w.extractLsb' 0 10 = 0 then .ok (.frcp (w.extractLsb' 17 7) (w.extractLsb' 10 7)) else .error .reservedBits
  | _ => .error .unassignedOpcode

/-- The words whose bits [31:28] are 3, by bits [27:24] (R302, R303). -/
def decodeRaw3 (w : BitVec 32) : Except DecodeError Instr :=
  match (w.extractLsb' 24 4).toNat with
  | 0 => if w.extractLsb' 0 10 = 0 then .ok (.fsqrt (w.extractLsb' 17 7) (w.extractLsb' 10 7)) else .error .reservedBits
  | 1 => if w.extractLsb' 0 10 = 0 then .ok (.frsq (w.extractLsb' 17 7) (w.extractLsb' 10 7)) else .error .reservedBits
  | 2 => if w.extractLsb' 0 10 = 0 then .ok (.fexp2 (w.extractLsb' 17 7) (w.extractLsb' 10 7)) else .error .reservedBits
  | 3 => if w.extractLsb' 0 10 = 0 then .ok (.flog2 (w.extractLsb' 17 7) (w.extractLsb' 10 7)) else .error .reservedBits
  | 4 => if w.extractLsb' 0 3 = 0 then .ok (.fdot2 (w.extractLsb' 17 7) (w.extractLsb' 10 7) (w.extractLsb' 3 7)) else .error .reservedBits
  | 5 => if w.extractLsb' 1 3 = 0 then .ok (.fadds (w.extractLsb' 17 7) (w.extractLsb' 10 7) (w.extractLsb' 4 6) (w.extractLsb' 0 1)) else .error .reservedBits
  | 6 => if w.extractLsb' 1 3 = 0 then .ok (.fmuls (w.extractLsb' 17 7) (w.extractLsb' 10 7) (w.extractLsb' 4 6) (w.extractLsb' 0 1)) else .error .reservedBits
  | 7 => if w.extractLsb' 1 3 = 0 then .ok (.ffmas (w.extractLsb' 17 7) (w.extractLsb' 10 7) (w.extractLsb' 4 6) (w.extractLsb' 0 1)) else .error .reservedBits
  | 8 => .ok (.cvt (w.extractLsb' 17 7) (w.extractLsb' 10 7) (w.extractLsb' 6 4) (w.extractLsb' 2 4) (w.extractLsb' 0 2))
  | 9 => if w.extractLsb' 2 2 = 0 then .ok (.cvtb (w.extractLsb' 17 7) (w.extractLsb' 10 7) (w.extractLsb' 8 2) (w.extractLsb' 6 2) (w.extractLsb' 4 2) (w.extractLsb' 0 2)) else .error .reservedBits
  | 10 => if w.extractLsb' 0 6 = 0 then .ok (.unpkl (w.extractLsb' 17 7) (w.extractLsb' 10 7) (w.extractLsb' 8 2) (w.extractLsb' 6 2)) else .error .reservedBits
  | 11 => if w.extractLsb' 2 1 = 0 then .ok (.packh (w.extractLsb' 17 7) (w.extractLsb' 10 7) (w.extractLsb' 3 7) (w.extractLsb' 0 2)) else .error .reservedBits
  | 12 => .ok (.shfl (w.extractLsb' 17 7) (w.extractLsb' 10 7) (w.extractLsb' 3 7) (w.extractLsb' 2 1) (w.extractLsb' 0 2))
  | 13 => if w.extractLsb' 13 4 = 0 ∧ w.extractLsb' 3 7 = 0 then .ok (.vote (w.extractLsb' 17 7) (w.extractLsb' 10 3) (w.extractLsb' 0 3)) else .error .reservedBits
  | 14 => if w.extractLsb' 3 7 = 0 then .ok (.matchV (w.extractLsb' 17 7) (w.extractLsb' 10 7) (w.extractLsb' 1 2) (w.extractLsb' 0 1)) else .error .reservedBits
  | _ => .error .unassignedOpcode

/-- The words whose bits [31:28] are 4, by bits [27:24] (R302, R303). -/
def decodeRaw4 (w : BitVec 32) : Except DecodeError Instr :=
  match (w.extractLsb' 24 4).toNat with
  | 0 => .ok (.ld (w.extractLsb' 17 7) (w.extractLsb' 10 7) (w.extractLsb' 4 6) (w.extractLsb' 1 3) (w.extractLsb' 0 1))
  | 1 => .ok (.st (w.extractLsb' 17 7) (w.extractLsb' 10 7) (w.extractLsb' 4 6) (w.extractLsb' 1 3) (w.extractLsb' 0 1))
  | 2 => .ok (.ldsp (w.extractLsb' 17 7) (w.extractLsb' 10 7) (w.extractLsb' 4 6) (w.extractLsb' 1 3) (w.extractLsb' 0 1))
  | 3 => .ok (.stsp (w.extractLsb' 17 7) (w.extractLsb' 10 7) (w.extractLsb' 4 6) (w.extractLsb' 1 3) (w.extractLsb' 0 1))
  | 4 => .ok (.ldcv (w.extractLsb' 17 7) (w.extractLsb' 10 7) (w.extractLsb' 4 6) (w.extractLsb' 1 3) (w.extractLsb' 0 1))
  | 5 => .ok (.stcv (w.extractLsb' 17 7) (w.extractLsb' 10 7) (w.extractLsb' 4 6) (w.extractLsb' 1 3) (w.extractLsb' 0 1))
  | 6 => .ok (.lddp (w.extractLsb' 17 7) (w.extractLsb' 10 7) (w.extractLsb' 4 6) (w.extractLsb' 1 3) (w.extractLsb' 0 1))
  | 7 => .ok (.stdp (w.extractLsb' 17 7) (w.extractLsb' 10 7) (w.extractLsb' 4 6) (w.extractLsb' 1 3) (w.extractLsb' 0 1))
  | 8 => .ok (.ldc (w.extractLsb' 17 7) (w.extractLsb' 10 7) (w.extractLsb' 4 6) (w.extractLsb' 1 3) (w.extractLsb' 0 1))
  | 9 => if w.extractLsb' 17 7 = 0 ∧ w.extractLsb' 0 1 = 0 then .ok (.pfet (w.extractLsb' 10 7) (w.extractLsb' 4 6) (w.extractLsb' 1 3)) else .error .reservedBits
  | 10 => .ok (.lda (w.extractLsb' 17 7) (w.extractLsb' 10 7) (w.extractLsb' 4 6) (w.extractLsb' 1 3) (w.extractLsb' 0 1))
  | 11 => .ok (.stl (w.extractLsb' 17 7) (w.extractLsb' 10 7) (w.extractLsb' 4 6) (w.extractLsb' 1 3) (w.extractLsb' 0 1))
  | 12 => .ok (.lda64 (w.extractLsb' 17 7) (w.extractLsb' 10 7) (w.extractLsb' 4 6) (w.extractLsb' 1 3) (w.extractLsb' 0 1))
  | 13 => .ok (.stl64 (w.extractLsb' 17 7) (w.extractLsb' 10 7) (w.extractLsb' 4 6) (w.extractLsb' 1 3) (w.extractLsb' 0 1))
  | _ => .error .unassignedOpcode

/-- The words whose bits [31:28] are 5, by bits [27:24] (R302, R303). -/
def decodeRaw5 (w : BitVec 32) : Except DecodeError Instr :=
  match (w.extractLsb' 24 4).toNat with
  | 0 => .ok (.atadd (w.extractLsb' 17 7) (w.extractLsb' 10 7) (w.extractLsb' 4 6) (w.extractLsb' 1 3) (w.extractLsb' 0 1))
  | 1 => .ok (.atmin (w.extractLsb' 17 7) (w.extractLsb' 10 7) (w.extractLsb' 4 6) (w.extractLsb' 1 3) (w.extractLsb' 0 1))
  | 2 => .ok (.atmax (w.extractLsb' 17 7) (w.extractLsb' 10 7) (w.extractLsb' 4 6) (w.extractLsb' 1 3) (w.extractLsb' 0 1))
  | 3 => .ok (.atminn (w.extractLsb' 17 7) (w.extractLsb' 10 7) (w.extractLsb' 4 6) (w.extractLsb' 1 3) (w.extractLsb' 0 1))
  | 4 => .ok (.atmaxn (w.extractLsb' 17 7) (w.extractLsb' 10 7) (w.extractLsb' 4 6) (w.extractLsb' 1 3) (w.extractLsb' 0 1))
  | 5 => .ok (.atand (w.extractLsb' 17 7) (w.extractLsb' 10 7) (w.extractLsb' 4 6) (w.extractLsb' 1 3) (w.extractLsb' 0 1))
  | 6 => .ok (.ator (w.extractLsb' 17 7) (w.extractLsb' 10 7) (w.extractLsb' 4 6) (w.extractLsb' 1 3) (w.extractLsb' 0 1))
  | 7 => .ok (.atxor (w.extractLsb' 17 7) (w.extractLsb' 10 7) (w.extractLsb' 4 6) (w.extractLsb' 1 3) (w.extractLsb' 0 1))
  | 8 => .ok (.atxch (w.extractLsb' 17 7) (w.extractLsb' 10 7) (w.extractLsb' 4 6) (w.extractLsb' 1 3) (w.extractLsb' 0 1))
  | 9 => .ok (.atcas (w.extractLsb' 17 7) (w.extractLsb' 10 7) (w.extractLsb' 4 6) (w.extractLsb' 1 3) (w.extractLsb' 0 1))
  | 10 => .ok (.atfadd (w.extractLsb' 17 7) (w.extractLsb' 10 7) (w.extractLsb' 4 6) (w.extractLsb' 1 3) (w.extractLsb' 0 1))
  | 11 => .ok (.atadd64 (w.extractLsb' 17 7) (w.extractLsb' 10 7) (w.extractLsb' 4 6) (w.extractLsb' 1 3) (w.extractLsb' 0 1))
  | 12 => .ok (.atcas64 (w.extractLsb' 17 7) (w.extractLsb' 10 7) (w.extractLsb' 4 6) (w.extractLsb' 1 3) (w.extractLsb' 0 1))
  | _ => .error .unassignedOpcode

/-- The words whose bits [31:28] are 6, by bits [27:24] (R302, R303). -/
def decodeRaw6 (w : BitVec 32) : Except DecodeError Instr :=
  match (w.extractLsb' 24 4).toNat with
  | 0 => .ok (.rld (w.extractLsb' 17 7) (w.extractLsb' 10 7) (w.extractLsb' 4 6) (w.extractLsb' 1 3) (w.extractLsb' 0 1))
  | 1 => .ok (.rst (w.extractLsb' 17 7) (w.extractLsb' 10 7) (w.extractLsb' 4 6) (w.extractLsb' 1 3) (w.extractLsb' 0 1))
  | 2 => .ok (.ratadd (w.extractLsb' 17 7) (w.extractLsb' 10 7) (w.extractLsb' 4 6) (w.extractLsb' 1 3) (w.extractLsb' 0 1))
  | 3 => .ok (.ratcas (w.extractLsb' 17 7) (w.extractLsb' 10 7) (w.extractLsb' 4 6) (w.extractLsb' 1 3) (w.extractLsb' 0 1))
  | 4 => .ok (.ratfadd (w.extractLsb' 17 7) (w.extractLsb' 10 7) (w.extractLsb' 4 6) (w.extractLsb' 1 3) (w.extractLsb' 0 1))
  | 8 => if w.extractLsb' 3 14 = 0 then .ok (.popq (w.extractLsb' 17 7) (w.extractLsb' 1 2) (w.extractLsb' 0 1)) else .error .reservedBits
  | 12 => if w.extractLsb' 0 9 = 0 then .ok (.rep (w.extractLsb' 18 6) (w.extractLsb' 15 3) (w.extractLsb' 12 3) (w.extractLsb' 9 3)) else .error .reservedBits
  | _ => .error .unassignedOpcode

/-- The words whose bits [31:28] are 8, by bits [27:24] (R302, R303). -/
def decodeRaw8 (w : BitVec 32) : Except DecodeError Instr :=
  match (w.extractLsb' 24 4).toNat with
  | 0 => if w.extractLsb' 0 6 = 0 then .ok (.sadd (w.extractLsb' 18 6) (w.extractLsb' 12 6) (w.extractLsb' 6 6)) else .error .reservedBits
  | 1 => if w.extractLsb' 0 6 = 0 then .ok (.ssub (w.extractLsb' 18 6) (w.extractLsb' 12 6) (w.extractLsb' 6 6)) else .error .reservedBits
  | 2 => if w.extractLsb' 0 6 = 0 then .ok (.smul (w.extractLsb' 18 6) (w.extractLsb' 12 6) (w.extractLsb' 6 6)) else .error .reservedBits
  | 3 => if w.extractLsb' 1 5 = 0 then .ok (.smulh (w.extractLsb' 18 6) (w.extractLsb' 12 6) (w.extractLsb' 6 6) (w.extractLsb' 0 1)) else .error .reservedBits
  | 4 => if w.extractLsb' 0 6 = 0 then .ok (.sand (w.extractLsb' 18 6) (w.extractLsb' 12 6) (w.extractLsb' 6 6)) else .error .reservedBits
  | 5 => if w.extractLsb' 0 6 = 0 then .ok (.sor (w.extractLsb' 18 6) (w.extractLsb' 12 6) (w.extractLsb' 6 6)) else .error .reservedBits
  | 6 => if w.extractLsb' 0 6 = 0 then .ok (.sxor (w.extractLsb' 18 6) (w.extractLsb' 12 6) (w.extractLsb' 6 6)) else .error .reservedBits
  | 7 => if w.extractLsb' 0 6 = 0 then .ok (.sshl (w.extractLsb' 18 6) (w.extractLsb' 12 6) (w.extractLsb' 6 6)) else .error .reservedBits
  | 8 => if w.extractLsb' 0 6 = 0 then .ok (.sshr (w.extractLsb' 18 6) (w.extractLsb' 12 6) (w.extractLsb' 6 6)) else .error .reservedBits
  | 9 => if w.extractLsb' 0 6 = 0 then .ok (.ssra (w.extractLsb' 18 6) (w.extractLsb' 12 6) (w.extractLsb' 6 6)) else .error .reservedBits
  | 10 => if w.extractLsb' 1 5 = 0 then .ok (.smin (w.extractLsb' 18 6) (w.extractLsb' 12 6) (w.extractLsb' 6 6) (w.extractLsb' 0 1)) else .error .reservedBits
  | 11 => if w.extractLsb' 1 5 = 0 then .ok (.smax (w.extractLsb' 18 6) (w.extractLsb' 12 6) (w.extractLsb' 6 6) (w.extractLsb' 0 1)) else .error .reservedBits
  | 12 => if w.extractLsb' 21 3 = 0 ∧ w.extractLsb' 5 1 = 0 ∧ w.extractLsb' 3 1 = 0 then .ok (.scmp (w.extractLsb' 18 3) (w.extractLsb' 12 6) (w.extractLsb' 6 6) (w.extractLsb' 4 1) (w.extractLsb' 0 3)) else .error .reservedBits
  | 13 => if w.extractLsb' 4 2 = 0 then .ok (.ssel (w.extractLsb' 18 6) (w.extractLsb' 12 6) (w.extractLsb' 6 6) (w.extractLsb' 3 1) (w.extractLsb' 0 3)) else .error .reservedBits
  | 14 => if w.extractLsb' 0 12 = 0 then .ok (.smov (w.extractLsb' 18 6) (w.extractLsb' 12 6)) else .error .reservedBits
  | _ => if w.extractLsb' 0 12 = 0 then .ok (.spopc (w.extractLsb' 18 6) (w.extractLsb' 12 6)) else .error .reservedBits

/-- The words whose bits [31:28] are 9, by bits [27:24] (R302, R303). -/
def decodeRaw9 (w : BitVec 32) : Except DecodeError Instr :=
  match (w.extractLsb' 24 4).toNat with
  | 0 => if w.extractLsb' 0 12 = 0 then .ok (.sclz (w.extractLsb' 18 6) (w.extractLsb' 12 6)) else .error .reservedBits
  | 1 => .ok (.saddi (w.extractLsb' 18 6) (w.extractLsb' 12 6) (w.extractLsb' 0 12))
  | 2 => .ok (.sandi (w.extractLsb' 18 6) (w.extractLsb' 12 6) (w.extractLsb' 0 12))
  | 3 => .ok (.sori (w.extractLsb' 18 6) (w.extractLsb' 12 6) (w.extractLsb' 0 12))
  | 4 => .ok (.sxori (w.extractLsb' 18 6) (w.extractLsb' 12 6) (w.extractLsb' 0 12))
  | 5 => if w.extractLsb' 5 7 = 0 then .ok (.sshli (w.extractLsb' 18 6) (w.extractLsb' 12 6) (w.extractLsb' 0 5)) else .error .reservedBits
  | 6 => if w.extractLsb' 5 7 = 0 then .ok (.sshri (w.extractLsb' 18 6) (w.extractLsb' 12 6) (w.extractLsb' 0 5)) else .error .reservedBits
  | 7 => if w.extractLsb' 21 3 = 0 then .ok (.scmpi (w.extractLsb' 18 3) (w.extractLsb' 12 6) (w.extractLsb' 9 3) (w.extractLsb' 8 1) (w.extractLsb' 0 8)) else .error .reservedBits
  | 8 => .ok (.smovi (w.extractLsb' 18 6) (w.extractLsb' 0 18))
  | 9 => .ok (.slui (w.extractLsb' 18 6) (w.extractLsb' 0 18))
  | 10 => if w.extractLsb' 2 4 = 0 then .ok (.sadd64 (w.extractLsb' 18 6) (w.extractLsb' 12 6) (w.extractLsb' 6 6) (w.extractLsb' 0 2)) else .error .reservedBits
  | 11 => if w.extractLsb' 21 3 = 0 ∧ w.extractLsb' 15 3 = 0 ∧ w.extractLsb' 9 3 = 0 ∧ w.extractLsb' 4 2 = 0 then .ok (.qop (w.extractLsb' 18 3) (w.extractLsb' 12 3) (w.extractLsb' 6 3) (w.extractLsb' 0 4)) else .error .reservedBits
  | _ => .error .unassignedOpcode

/-- The words whose bits [31:28] are 10, by bits [27:24] (R302, R303). -/
def decodeRawA (w : BitVec 32) : Except DecodeError Instr :=
  match (w.extractLsb' 24 4).toNat with
  | 0 => if w.extractLsb' 1 5 = 0 then .ok (.sld (w.extractLsb' 18 6) (w.extractLsb' 12 6) (w.extractLsb' 6 6) (w.extractLsb' 0 1)) else .error .reservedBits
  | 1 => if w.extractLsb' 1 5 = 0 then .ok (.sst (w.extractLsb' 18 6) (w.extractLsb' 12 6) (w.extractLsb' 6 6) (w.extractLsb' 0 1)) else .error .reservedBits
  | 2 => if w.extractLsb' 1 5 = 0 then .ok (.sld64 (w.extractLsb' 18 6) (w.extractLsb' 12 6) (w.extractLsb' 6 6) (w.extractLsb' 0 1)) else .error .reservedBits
  | 3 => if w.extractLsb' 1 5 = 0 then .ok (.sst64 (w.extractLsb' 18 6) (w.extractLsb' 12 6) (w.extractLsb' 6 6) (w.extractLsb' 0 1)) else .error .reservedBits
  | 4 => if w.extractLsb' 1 5 = 0 then .ok (.sldsp (w.extractLsb' 18 6) (w.extractLsb' 12 6) (w.extractLsb' 6 6) (w.extractLsb' 0 1)) else .error .reservedBits
  | 5 => if w.extractLsb' 1 5 = 0 then .ok (.sstsp (w.extractLsb' 18 6) (w.extractLsb' 12 6) (w.extractLsb' 6 6) (w.extractLsb' 0 1)) else .error .reservedBits
  | 6 => if w.extractLsb' 1 2 = 0 then .ok (.slda (w.extractLsb' 18 6) (w.extractLsb' 12 6) (w.extractLsb' 6 6) (w.extractLsb' 3 3) (w.extractLsb' 0 1)) else .error .reservedBits
  | 7 => if w.extractLsb' 1 2 = 0 then .ok (.sstl (w.extractLsb' 18 6) (w.extractLsb' 12 6) (w.extractLsb' 6 6) (w.extractLsb' 3 3) (w.extractLsb' 0 1)) else .error .reservedBits
  | 8 => if w.extractLsb' 1 2 = 0 then .ok (.satadd (w.extractLsb' 18 6) (w.extractLsb' 12 6) (w.extractLsb' 6 6) (w.extractLsb' 3 3) (w.extractLsb' 0 1)) else .error .reservedBits
  | 9 => if w.extractLsb' 1 2 = 0 then .ok (.satcas (w.extractLsb' 18 6) (w.extractLsb' 12 6) (w.extractLsb' 6 6) (w.extractLsb' 3 3) (w.extractLsb' 0 1)) else .error .reservedBits
  | 12 => if w.extractLsb' 0 8 = 0 then .ok (.redv (w.extractLsb' 18 6) (w.extractLsb' 11 7) (w.extractLsb' 8 3)) else .error .reservedBits
  | 13 => if w.extractLsb' 2 13 = 0 then .ok (.lmask (w.extractLsb' 18 6) (w.extractLsb' 15 3) (w.extractLsb' 0 2)) else .error .reservedBits
  | 14 => if w.extractLsb' 1 4 = 0 then .ok (.bcast (w.extractLsb' 18 6) (w.extractLsb' 11 7) (w.extractLsb' 5 6) (w.extractLsb' 0 1)) else .error .reservedBits
  | _ => .error .unassignedOpcode

/-- The words whose bits [31:28] are 11, by bits [27:24] (R302, R303). -/
def decodeRawB (w : BitVec 32) : Except DecodeError Instr :=
  match (w.extractLsb' 24 4).toNat with
  | 0 => .ok (.br (w.extractLsb' 21 3) (w.extractLsb' 20 1) (w.extractLsb' 0 20))
  | 1 => .ok (.brd (w.extractLsb' 21 3) (w.extractLsb' 20 1) (w.extractLsb' 0 20))
  | 2 => if w.extractLsb' 20 4 = 0 then .ok (.setj (w.extractLsb' 0 20)) else .error .reservedBits
  | 3 => .ok (.call (w.extractLsb' 21 3) (w.extractLsb' 20 1) (w.extractLsb' 0 20))
  | 4 => if w.extractLsb' 0 24 = 0 then .ok (.ret) else .error .reservedBits
  | 5 => if w.extractLsb' 18 6 = 0 ∧ w.extractLsb' 0 6 = 0 then .ok (.bri (w.extractLsb' 12 6) (w.extractLsb' 6 6)) else .error .reservedBits
  | 6 => .ok (.loop (w.extractLsb' 18 6) (w.extractLsb' 0 18))
  | 7 => .ok (.loopi (w.extractLsb' 12 12) (w.extractLsb' 0 12))
  | 8 => .ok (.lbrk (w.extractLsb' 21 3) (w.extractLsb' 20 1) (w.extractLsb' 0 20))
  | 9 => if w.extractLsb' 0 24 = 0 then .ok (.exit) else .error .reservedBits
  | 10 => if w.extractLsb' 0 5 = 0 then .ok (.lnch (w.extractLsb' 18 6) (w.extractLsb' 12 6) (w.extractLsb' 6 6) (w.extractLsb' 5 1)) else .error .reservedBits
  | 12 => if w.extractLsb' 18 6 = 0 ∧ w.extractLsb' 4 8 = 0 then .ok (.bar (w.extractLsb' 12 6) (w.extractLsb' 3 1) (w.extractLsb' 0 3)) else .error .reservedBits
  | 13 => if w.extractLsb' 18 6 = 0 ∧ w.extractLsb' 4 8 = 0 ∧ w.extractLsb' 2 1 = 0 then .ok (.barcv (w.extractLsb' 12 6) (w.extractLsb' 3 1) (w.extractLsb' 0 2)) else .error .reservedBits
  | 14 => if w.extractLsb' 18 6 = 0 ∧ w.extractLsb' 0 3 = 0 then .ok (.arrv (w.extractLsb' 12 6) (w.extractLsb' 6 6) (w.extractLsb' 3 3)) else .error .reservedBits
  | 15 => if w.extractLsb' 6 6 = 0 ∧ w.extractLsb' 0 3 = 0 then .ok (.bwait (w.extractLsb' 18 6) (w.extractLsb' 12 6) (w.extractLsb' 3 3)) else .error .reservedBits
  | _ => .error .unassignedOpcode

/-- The words whose bits [31:28] are 12, by bits [27:24] (R302, R303). -/
def decodeRawC (w : BitVec 32) : Except DecodeError Instr :=
  match (w.extractLsb' 24 4).toNat with
  | 0 => if w.extractLsb' 0 3 = 0 then .ok (.waitw (w.extractLsb' 18 6) (w.extractLsb' 12 6) (w.extractLsb' 9 3) (w.extractLsb' 6 3) (w.extractLsb' 3 3)) else .error .reservedBits
  | 1 => if w.extractLsb' 6 18 = 0 ∧ w.extractLsb' 2 1 = 0 then .ok (.fence (w.extractLsb' 3 3) (w.extractLsb' 0 2)) else .error .reservedBits
  | 2 => if w.extractLsb' 12 12 = 0 then .ok (.waitf (w.extractLsb' 0 12)) else .error .reservedBits
  | 3 => if w.extractLsb' 0 24 = 0 then .ok (.yield) else .error .reservedBits
  | 4 => if w.extractLsb' 18 6 = 0 then .ok (.sleep (w.extractLsb' 12 6) (w.extractLsb' 0 12)) else .error .reservedBits
  | 8 => if w.extractLsb' 0 13 = 0 then .ok (.macq (w.extractLsb' 23 1) (w.extractLsb' 20 3) (w.extractLsb' 19 1) (w.extractLsb' 13 6)) else .error .reservedBits
  | 9 => if w.extractLsb' 0 19 = 0 then .ok (.mrel (w.extractLsb' 23 1) (w.extractLsb' 20 3) (w.extractLsb' 19 1)) else .error .reservedBits
  | 10 => if w.extractLsb' 0 20 = 0 then .ok (.mzeroE (w.extractLsb' 23 1) (w.extractLsb' 20 3)) else if w.extractLsb' 0 20 = 524288 then .ok (.mzeroAll (w.extractLsb' 23 1) (w.extractLsb' 20 3)) else .error .reservedBits
  | 11 => if w.extractLsb' 0 5 = 0 then .ok (.mma (w.extractLsb' 23 1) (w.extractLsb' 20 3) (w.extractLsb' 17 3) (w.extractLsb' 11 6) (w.extractLsb' 5 6)) else .error .reservedBits
  | 12 => if w.extractLsb' 0 5 = 0 then .ok (.mmap (w.extractLsb' 23 1) (w.extractLsb' 20 3) (w.extractLsb' 17 3) (w.extractLsb' 11 6) (w.extractLsb' 5 6)) else .error .reservedBits
  | 13 => if w.extractLsb' 0 5 = 0 then .ok (.msca (w.extractLsb' 23 1) (w.extractLsb' 20 3) (w.extractLsb' 17 3) (w.extractLsb' 11 6) (w.extractLsb' 5 6)) else .error .reservedBits
  | 14 => if w.extractLsb' 0 6 = 0 then .ok (.mld (w.extractLsb' 23 1) (w.extractLsb' 20 3) (w.extractLsb' 18 2) (w.extractLsb' 12 6) (w.extractLsb' 6 6)) else .error .reservedBits
  | 15 => if w.extractLsb' 0 6 = 0 then .ok (.mst (w.extractLsb' 23 1) (w.extractLsb' 20 3) (w.extractLsb' 18 2) (w.extractLsb' 12 6) (w.extractLsb' 6 6)) else .error .reservedBits
  | _ => .error .unassignedOpcode

/-- The words whose bits [31:28] are 13, by bits [27:24] (R302, R303). -/
def decodeRawD (w : BitVec 32) : Except DecodeError Instr :=
  match (w.extractLsb' 24 4).toNat with
  | 0 => if w.extractLsb' 0 2 = 0 then .ok (.smxu (w.extractLsb' 23 1) (w.extractLsb' 20 3) (w.extractLsb' 17 3) (w.extractLsb' 11 6) (w.extractLsb' 5 6) (w.extractLsb' 4 1) (w.extractLsb' 2 2)) else .error .reservedBits
  | 1 => if w.extractLsb' 0 16 = 0 then .ok (.smxm (w.extractLsb' 23 1) (w.extractLsb' 20 3) (w.extractLsb' 17 3) (w.extractLsb' 16 1)) else .error .reservedBits
  | 2 => if w.extractLsb' 0 20 = 0 then .ok (.smxn (w.extractLsb' 23 1) (w.extractLsb' 20 3)) else .error .reservedBits
  | 3 => if w.extractLsb' 18 2 = 0 ∧ w.extractLsb' 0 12 = 0 then .ok (.mstatSt (w.extractLsb' 23 1) (w.extractLsb' 20 3) (w.extractLsb' 12 6)) else if w.extractLsb' 18 2 = 1 ∧ w.extractLsb' 0 12 = 0 then .ok (.mstatLd (w.extractLsb' 23 1) (w.extractLsb' 20 3) (w.extractLsb' 12 6)) else if w.extractLsb' 0 20 = 524288 then .ok (.mstatRst (w.extractLsb' 23 1) (w.extractLsb' 20 3)) else .error .reservedBits
  | 4 => if w.extractLsb' 0 8 = 0 then .ok (.xcv (w.extractLsb' 23 1) (w.extractLsb' 20 3) (w.extractLsb' 14 6) (w.extractLsb' 8 6)) else .error .reservedBits
  | 5 => if w.extractLsb' 0 5 = 0 then .ok (.xadd (w.extractLsb' 23 1) (w.extractLsb' 17 6) (w.extractLsb' 11 6) (w.extractLsb' 5 6)) else .error .reservedBits
  | 6 => if w.extractLsb' 0 5 = 0 then .ok (.xput (w.extractLsb' 23 1) (w.extractLsb' 17 6) (w.extractLsb' 11 6) (w.extractLsb' 5 6)) else .error .reservedBits
  | 7 => if w.extractLsb' 0 8 = 0 then .ok (.xrnd (w.extractLsb' 23 1) (w.extractLsb' 20 3) (w.extractLsb' 14 6) (w.extractLsb' 8 6)) else .error .reservedBits
  | 8 => if w.extractLsb' 0 11 = 0 then .ok (.cpy (w.extractLsb' 23 1) (w.extractLsb' 17 6) (w.extractLsb' 11 6)) else .error .reservedBits
  | 9 => if w.extractLsb' 0 11 = 0 then .ok (.cpy2d (w.extractLsb' 23 1) (w.extractLsb' 17 6) (w.extractLsb' 11 6)) else .error .reservedBits
  | 10 => if w.extractLsb' 0 11 = 0 then .ok (.cfill (w.extractLsb' 23 1) (w.extractLsb' 17 6) (w.extractLsb' 11 6)) else .error .reservedBits
  | 11 => if w.extractLsb' 0 11 = 0 then .ok (.gath (w.extractLsb' 23 1) (w.extractLsb' 17 6) (w.extractLsb' 11 6)) else .error .reservedBits
  | 12 => if w.extractLsb' 0 9 = 0 then .ok (.cstat (w.extractLsb' 23 1) (w.extractLsb' 17 6) (w.extractLsb' 11 6) (w.extractLsb' 9 2)) else .error .reservedBits
  | 13 => if w.extractLsb' 17 6 = 0 ∧ w.extractLsb' 0 9 = 0 then .ok (.ccan (w.extractLsb' 23 1) (w.extractLsb' 11 6) (w.extractLsb' 9 2)) else .error .reservedBits
  | 14 => if w.extractLsb' 0 3 = 0 then .ok (.ostart (w.extractLsb' 23 1) (w.extractLsb' 21 2) (w.extractLsb' 15 6) (w.extractLsb' 9 6) (w.extractLsb' 3 6)) else .error .reservedBits
  | _ => if w.extractLsb' 0 21 = 0 then .ok (.ostop (w.extractLsb' 23 1) (w.extractLsb' 21 2)) else .error .reservedBits

/-- The words whose bits [31:28] are 14, by bits [27:24] (R302, R303). -/
def decodeRawE (w : BitVec 32) : Except DecodeError Instr :=
  match (w.extractLsb' 24 4).toNat with
  | 0 => if w.extractLsb' 0 12 = 0 then .ok (.opush (w.extractLsb' 23 1) (w.extractLsb' 21 2) (w.extractLsb' 15 6) (w.extractLsb' 12 3)) else .error .reservedBits
  | 2 => if w.extractLsb' 0 5 = 0 then .ok (.lease (w.extractLsb' 18 6) (w.extractLsb' 12 6) (w.extractLsb' 6 6) (w.extractLsb' 5 1)) else .error .reservedBits
  | 3 => if w.extractLsb' 6 6 = 0 ∧ w.extractLsb' 0 5 = 0 then .ok (.lrel (w.extractLsb' 18 6) (w.extractLsb' 12 6) (w.extractLsb' 5 1)) else .error .reservedBits
  | 4 => if w.extractLsb' 0 12 = 0 then .ok (.lqry (w.extractLsb' 18 6) (w.extractLsb' 12 6)) else .error .reservedBits
  | 5 => if w.extractLsb' 18 6 = 0 ∧ w.extractLsb' 6 6 = 0 ∧ w.extractLsb' 0 5 = 0 then .ok (.drain (w.extractLsb' 12 6) (w.extractLsb' 5 1)) else if w.extractLsb' 18 6 = 0 ∧ w.extractLsb' 6 6 = 0 ∧ w.extractLsb' 0 5 = 16 then .ok (.drainAll (w.extractLsb' 12 6) (w.extractLsb' 5 1)) else .error .reservedBits
  | 8 => if w.extractLsb' 3 8 = 0 then .ok (.wbrd (w.extractLsb' 18 6) (w.extractLsb' 11 7) (w.extractLsb' 0 3)) else .error .reservedBits
  | 9 => if w.extractLsb' 12 6 = 0 then .ok (.sysr (w.extractLsb' 18 6) (w.extractLsb' 0 12)) else .error .reservedBits
  | 10 => if w.extractLsb' 18 6 = 0 then .ok (.sysw (w.extractLsb' 12 6) (w.extractLsb' 0 12)) else .error .reservedBits
  | 11 => if w.extractLsb' 18 6 = 0 then .ok (.trap (w.extractLsb' 0 18)) else .error .reservedBits
  | 12 => if w.extractLsb' 18 6 = 0 then .ok (.brk (w.extractLsb' 0 18)) else .error .reservedBits
  | 13 => if w.extractLsb' 0 24 = 0 then .ok (.tret) else .error .reservedBits
  | 14 => if w.extractLsb' 0 12 = 0 then .ok (.gpolIns (w.extractLsb' 18 6) (w.extractLsb' 12 6)) else if w.extractLsb' 12 6 = 0 ∧ w.extractLsb' 0 6 = 1 then .ok (.gpolRev (w.extractLsb' 18 6) (w.extractLsb' 6 6)) else .error .reservedBits
  | 15 => if w.extractLsb' 0 6 = 0 then .ok (.seal (w.extractLsb' 18 6) (w.extractLsb' 12 6) (w.extractLsb' 6 6)) else .error .reservedBits
  | _ => .error .unassignedOpcode

/-- The words whose bits [31:28] are 15, by bits [27:24] (R302, R303). -/
def decodeRawF (w : BitVec 32) : Except DecodeError Instr :=
  match (w.extractLsb' 24 4).toNat with
  | 0 => if w.extractLsb' 18 6 = 0 ∧ w.extractLsb' 0 5 = 0 then .ok (.tlbiPage (w.extractLsb' 12 6) (w.extractLsb' 6 6) (w.extractLsb' 5 1)) else if w.extractLsb' 18 6 = 0 ∧ w.extractLsb' 6 6 = 0 ∧ w.extractLsb' 0 5 = 1 then .ok (.tlbiWorld (w.extractLsb' 12 6) (w.extractLsb' 5 1)) else if w.extractLsb' 18 6 = 0 ∧ w.extractLsb' 6 6 = 0 ∧ w.extractLsb' 0 5 = 2 then .ok (.tlbiPart (w.extractLsb' 12 6) (w.extractLsb' 5 1)) else if w.extractLsb' 6 18 = 0 ∧ w.extractLsb' 0 5 = 3 then .ok (.tlbiAll (w.extractLsb' 5 1)) else if w.extractLsb' 18 6 = 0 ∧ w.extractLsb' 0 5 = 4 then .ok (.tlbiG2page (w.extractLsb' 12 6) (w.extractLsb' 6 6) (w.extractLsb' 5 1)) else if w.extractLsb' 18 6 = 0 ∧ w.extractLsb' 6 6 = 0 ∧ w.extractLsb' 0 5 = 5 then .ok (.tlbiG2part (w.extractLsb' 12 6) (w.extractLsb' 5 1)) else .error .reservedBits
  | 1 => if w.extractLsb' 6 6 = 0 ∧ w.extractLsb' 2 3 = 0 then .ok (.scrub (w.extractLsb' 18 6) (w.extractLsb' 12 6) (w.extractLsb' 5 1) (w.extractLsb' 0 2)) else .error .reservedBits
  | 2 => if w.extractLsb' 6 6 = 0 ∧ w.extractLsb' 0 5 = 0 then .ok (.ctxsv (w.extractLsb' 18 6) (w.extractLsb' 12 6) (w.extractLsb' 5 1)) else .error .reservedBits
  | 3 => if w.extractLsb' 6 6 = 0 ∧ w.extractLsb' 0 5 = 0 then .ok (.ctxld (w.extractLsb' 18 6) (w.extractLsb' 12 6) (w.extractLsb' 5 1)) else .error .reservedBits
  | 4 => if w.extractLsb' 0 24 = 0 then .ok (.nop) else .error .reservedBits
  | _ => .error .unassignedOpcode

/-- The fields of a word, before its operands are checked: the opcode picks the row (R296, R302, R303). -/
def decodeRaw (w : BitVec 32) : Except DecodeError Instr :=
  match (w.extractLsb' 28 4).toNat with
  | 0 => decodeRaw0 w
  | 1 => decodeRaw1 w
  | 2 => decodeRaw2 w
  | 3 => decodeRaw3 w
  | 4 => decodeRaw4 w
  | 5 => decodeRaw5 w
  | 6 => decodeRaw6 w
  | 8 => decodeRaw8 w
  | 9 => decodeRaw9 w
  | 10 => decodeRawA w
  | 11 => decodeRawB w
  | 12 => decodeRawC w
  | 13 => decodeRawD w
  | 14 => decodeRawE w
  | 15 => decodeRawF w
  | _ => .error .unassignedOpcode

/-- Decode: the row the opcode names, its reserved bits zero, and its operands well formed (R301's ILLEGAL, as far as
the word alone shows it). -/
def decode (w : BitVec 32) : Except DecodeError Instr :=
  match decodeRaw w with
  | .error e => .error e
  | .ok i => if i.wf then .ok i else .error .illFormed

/-- Four bytes, lowest address first, as the word they hold: little-endian (R5). -/
def wordOfBytes (b0 b1 b2 b3 : BitVec 8) : BitVec 32 := b3 ++ b2 ++ b1 ++ b0

/-- The four bytes of a word, lowest address first (R5). -/
def bytesOfWord (w : BitVec 32) : List (BitVec 8) :=
  [w.extractLsb' 0 8, w.extractLsb' 8 8, w.extractLsb' 16 8, w.extractLsb' 24 8]

/-- Decode the instruction at the head of a byte list; the rest of the bytes comes back with it. -/
def decodeBytes : List (BitVec 8) → Except DecodeError (Instr × List (BitVec 8))
  | b0 :: b1 :: b2 :: b3 :: rest =>
    match decode (wordOfBytes b0 b1 b2 b3) with
    | .ok i => .ok (i, rest)
    | .error e => .error e
  | _ => .error .tooShort

/-- The word of an instruction, field by field from bit 31 down, as the encoding tables lay it out (R296, R302, R303);
an event has none. -/
def encode (i : Instr) : Option (BitVec 32) :=
  match i with
  | .powerOn => none
  | .thermalTrip => none
  | .pcieFundamentalReset => none
  | .pcieHotReset => none
  | .bcmdWarmReset => none
  | .rstctlWarm => none
  | .hostLinkTrain => none
  | .hbmTrained => none
  | .fullScrubComplete => none
  | .firmwareVerified => none
  | .stagingAreaWrite => none
  | .bcmdSubmit => none
  | .firmwareStart => none
  | .powerSample => none
  | .monoStore => none
  | .systemRegisterWrite => none
  | .clauseStart => none
  | .tickExpiry => none
  | .sliceExpiry => none
  | .sliceWaitTimeout => none
  | .debugHalt => none
  | .debugResume => none
  | .debugStep => none
  | .pageWalk => none
  | .faultRepost => none
  | .faultAdmit => none
  | .contextTake => none
  | .directoryLookup => none
  | .lookupAnswer => none
  | .lookupTimeout => none
  | .poolWaitTimeout => none
  | .eviction => none
  | .pinnedTimeout => none
  | .scoreHalving => none
  | .pageRead => none
  | .fetchComplete => none
  | .fetchTimeout => none
  | .replay => none
  | .ownershipRequest => none
  | .invalidation => none
  | .invalidationAck => none
  | .invalidationTimeout => none
  | .ownerWriteback => none
  | .pageWriteback => none
  | .ownershipAnswer => none
  | .ownershipTimeout => none
  | .inboundAccess => none
  | .wake => none
  | .fail => none
  | .answer => none
  | .grant => none
  | .refuse => none
  | .framePoolRead => none
  | .frameReadServed => none
  | .frameTryRead => none
  | .writeBackStart => none
  | .writeBackComplete => none
  | .hostBar2Write => none
  | .hostBar2Read => none
  | .hostCoreRead => none
  | .l2Request => none
  | .l2Fill => none
  | .l1Fill => none
  | .hbmRequest => none
  | .atomicUnitOp => none
  | .patrolRead => none
  | .allocationZero => none
  | .waitwRecheck => none
  | .remoteAck => none
  | .remoteResponse => none
  | .remoteTimeout => none
  | .targetTimeout => none
  | .carrierPut => none
  | .flitReceive => none
  | .replayRequest => none
  | .missingSeqTimeout => none
  | .drainMarker => none
  | .drainAcknowledgement => none
  | .managerMessage => none
  | .laneGrant => none
  | .laneRelock => none
  | .leaseTermExpiry => none
  | .symbolWindow => none
  | .retrainComplete => none
  | .retrainFailure => none
  | .ethernetResponse => none
  | .fbsync => none
  | .quantumBoundary => none
  | .placement => none
  | .placementTimeout => none
  | .place => none
  | .defer => none
  | .wakeupRecheck => none
  | .launchComplete => none
  | .periodBoundary => none
  | .ceilingReached => none
  | .bandwidthWindow => none
  | .engineCommit => none
  | .porterComplete => none
  | .engineRestart => none
  | .btcInvalidate => none
  | .orgload => none
  | .attest => none
  | .attestNonceReceive => none
  | .attestReportArrival => none
  | .attestTimeout => none
  | .report => none
  | .ack => none
  | .logrd => none
  | .trustCommandDone => none
  | .policyVerified => none
  | .policyExpiry => none
  | .scrubEngineScrub => none
  | .frameRingWrite => none
  | .iadd d a b m => some (0#8 ++ d ++ a ++ b ++ m)
  | .isub d a b m => some (1#8 ++ d ++ a ++ b ++ m)
  | .imul d a b => some (2#8 ++ d ++ a ++ b ++ 0#3)
  | .imulh d a b t => some (3#8 ++ d ++ a ++ b ++ 0#2 ++ t)
  | .imad d a b => some (4#8 ++ d ++ a ++ b ++ 0#3)
  | .imin d a b t => some (5#8 ++ d ++ a ++ b ++ 0#2 ++ t)
  | .imax d a b t => some (6#8 ++ d ++ a ++ b ++ 0#2 ++ t)
  | .iabsd d a b t => some (7#8 ++ d ++ a ++ b ++ 0#2 ++ t)
  | .andV d a b => some (8#8 ++ d ++ a ++ b ++ 0#3)
  | .orV d a b => some (9#8 ++ d ++ a ++ b ++ 0#3)
  | .xor d a b => some (10#8 ++ d ++ a ++ b ++ 0#3)
  | .andn d a b => some (11#8 ++ d ++ a ++ b ++ 0#3)
  | .shl d a b => some (12#8 ++ d ++ a ++ b ++ 0#3)
  | .shr d a b => some (13#8 ++ d ++ a ++ b ++ 0#3)
  | .sra d a b => some (14#8 ++ d ++ a ++ b ++ 0#3)
  | .bfx d a b t => some (15#8 ++ d ++ a ++ b ++ 0#2 ++ t)
  | .bfi d a b => some (16#8 ++ d ++ a ++ b ++ 0#3)
  | .popc d a => some (17#8 ++ d ++ a ++ 0#10)
  | .clz d a => some (18#8 ++ d ++ a ++ 0#10)
  | .brev d a => some (19#8 ++ d ++ a ++ 0#10)
  | .prmt d a b => some (20#8 ++ d ++ a ++ b ++ 0#3)
  | .prmts d a s => some (21#8 ++ d ++ a ++ s ++ 0#4)
  | .icmp p a b c => some (22#8 ++ 0#4 ++ p ++ a ++ b ++ c)
  | .sel d a b p => some (23#8 ++ d ++ a ++ b ++ p)
  | .mov d a => some (24#8 ++ d ++ a ++ 0#10)
  | .movs d s => some (25#8 ++ d ++ 0#7 ++ s ++ 0#4)
  | .movi d i => some (26#8 ++ d ++ 0#7 ++ i)
  | .iaddi d a i => some (27#8 ++ d ++ a ++ i)
  | .andi d a i => some (28#8 ++ d ++ a ++ i)
  | .ori d a i => some (29#8 ++ d ++ a ++ i)
  | .xori d a i => some (30#8 ++ d ++ a ++ i)
  | .shli d a n => some (31#8 ++ d ++ a ++ 0#5 ++ n)
  | .shri d a n => some (32#8 ++ d ++ a ++ 0#5 ++ n)
  | .srai d a n => some (33#8 ++ d ++ a ++ 0#5 ++ n)
  | .iadds d a s m => some (34#8 ++ d ++ a ++ s ++ 0#2 ++ m)
  | .icmps p a s t c => some (35#8 ++ 0#4 ++ p ++ a ++ s ++ t ++ c)
  | .lane d m => some (36#8 ++ d ++ 0#14 ++ m)
  | .fadd d a b t => some (40#8 ++ d ++ a ++ b ++ 0#2 ++ t)
  | .fmul d a b t => some (41#8 ++ d ++ a ++ b ++ 0#2 ++ t)
  | .ffma d a b t => some (42#8 ++ d ++ a ++ b ++ 0#2 ++ t)
  | .fmin d a b t => some (43#8 ++ d ++ a ++ b ++ 0#2 ++ t)
  | .fmax d a b t => some (44#8 ++ d ++ a ++ b ++ 0#2 ++ t)
  | .fcmp p a b c => some (45#8 ++ 0#4 ++ p ++ a ++ b ++ c)
  | .fabs d a k t => some (46#8 ++ d ++ a ++ 0#7 ++ k ++ t)
  | .frcp d a => some (47#8 ++ d ++ a ++ 0#10)
  | .fsqrt d a => some (48#8 ++ d ++ a ++ 0#10)
  | .frsq d a => some (49#8 ++ d ++ a ++ 0#10)
  | .fexp2 d a => some (50#8 ++ d ++ a ++ 0#10)
  | .flog2 d a => some (51#8 ++ d ++ a ++ 0#10)
  | .fdot2 d a b => some (52#8 ++ d ++ a ++ b ++ 0#3)
  | .fadds d a s t => some (53#8 ++ d ++ a ++ s ++ 0#3 ++ t)
  | .fmuls d a s t => some (54#8 ++ d ++ a ++ s ++ 0#3 ++ t)
  | .ffmas d a s t => some (55#8 ++ d ++ a ++ s ++ 0#3 ++ t)
  | .cvt d a x y r => some (56#8 ++ d ++ a ++ x ++ y ++ r)
  | .cvtb d a k f s r => some (57#8 ++ d ++ a ++ k ++ f ++ s ++ 0#2 ++ r)
  | .unpkl d a k f => some (58#8 ++ d ++ a ++ k ++ f ++ 0#6)
  | .packh d a b r => some (59#8 ++ d ++ a ++ b ++ 0#1 ++ r)
  | .shfl d a b g m => some (60#8 ++ d ++ a ++ b ++ g ++ m)
  | .vote d p m => some (61#8 ++ d ++ 0#4 ++ p ++ 0#7 ++ m)
  | .matchV d a k w => some (62#8 ++ d ++ a ++ 0#7 ++ k ++ w)
  | .ld d a s z f => some (64#8 ++ d ++ a ++ s ++ z ++ f)
  | .st d a s z f => some (65#8 ++ d ++ a ++ s ++ z ++ f)
  | .ldsp d a s z f => some (66#8 ++ d ++ a ++ s ++ z ++ f)
  | .stsp d a s z f => some (67#8 ++ d ++ a ++ s ++ z ++ f)
  | .ldcv d a s z f => some (68#8 ++ d ++ a ++ s ++ z ++ f)
  | .stcv d a s z f => some (69#8 ++ d ++ a ++ s ++ z ++ f)
  | .lddp d a s z f => some (70#8 ++ d ++ a ++ s ++ z ++ f)
  | .stdp d a s z f => some (71#8 ++ d ++ a ++ s ++ z ++ f)
  | .ldc d a s z f => some (72#8 ++ d ++ a ++ s ++ z ++ f)
  | .pfet a s l => some (73#8 ++ 0#7 ++ a ++ s ++ l ++ 0#1)
  | .lda d a s c f => some (74#8 ++ d ++ a ++ s ++ c ++ f)
  | .stl d a s c f => some (75#8 ++ d ++ a ++ s ++ c ++ f)
  | .lda64 d a s c f => some (76#8 ++ d ++ a ++ s ++ c ++ f)
  | .stl64 d a s c f => some (77#8 ++ d ++ a ++ s ++ c ++ f)
  | .atadd d a s c f => some (80#8 ++ d ++ a ++ s ++ c ++ f)
  | .atmin d a s c f => some (81#8 ++ d ++ a ++ s ++ c ++ f)
  | .atmax d a s c f => some (82#8 ++ d ++ a ++ s ++ c ++ f)
  | .atminn d a s c f => some (83#8 ++ d ++ a ++ s ++ c ++ f)
  | .atmaxn d a s c f => some (84#8 ++ d ++ a ++ s ++ c ++ f)
  | .atand d a s c f => some (85#8 ++ d ++ a ++ s ++ c ++ f)
  | .ator d a s c f => some (86#8 ++ d ++ a ++ s ++ c ++ f)
  | .atxor d a s c f => some (87#8 ++ d ++ a ++ s ++ c ++ f)
  | .atxch d a s c f => some (88#8 ++ d ++ a ++ s ++ c ++ f)
  | .atcas d a s c f => some (89#8 ++ d ++ a ++ s ++ c ++ f)
  | .atfadd d a s c f => some (90#8 ++ d ++ a ++ s ++ c ++ f)
  | .atadd64 d a s c f => some (91#8 ++ d ++ a ++ s ++ c ++ f)
  | .atcas64 d a s c f => some (92#8 ++ d ++ a ++ s ++ c ++ f)
  | .rld d a s z f => some (96#8 ++ d ++ a ++ s ++ z ++ f)
  | .rst d a s z f => some (97#8 ++ d ++ a ++ s ++ z ++ f)
  | .ratadd d a s z f => some (98#8 ++ d ++ a ++ s ++ z ++ f)
  | .ratcas d a s z f => some (99#8 ++ d ++ a ++ s ++ z ++ f)
  | .ratfadd d a s z f => some (100#8 ++ d ++ a ++ s ++ z ++ f)
  | .popq d q f => some (104#8 ++ d ++ 0#14 ++ q ++ f)
  | .rep n x y w => some (108#8 ++ n ++ x ++ y ++ w ++ 0#9)
  | .sadd d a b => some (128#8 ++ d ++ a ++ b ++ 0#6)
  | .ssub d a b => some (129#8 ++ d ++ a ++ b ++ 0#6)
  | .smul d a b => some (130#8 ++ d ++ a ++ b ++ 0#6)
  | .smulh d a b t => some (131#8 ++ d ++ a ++ b ++ 0#5 ++ t)
  | .sand d a b => some (132#8 ++ d ++ a ++ b ++ 0#6)
  | .sor d a b => some (133#8 ++ d ++ a ++ b ++ 0#6)
  | .sxor d a b => some (134#8 ++ d ++ a ++ b ++ 0#6)
  | .sshl d a b => some (135#8 ++ d ++ a ++ b ++ 0#6)
  | .sshr d a b => some (136#8 ++ d ++ a ++ b ++ 0#6)
  | .ssra d a b => some (137#8 ++ d ++ a ++ b ++ 0#6)
  | .smin d a b t => some (138#8 ++ d ++ a ++ b ++ 0#5 ++ t)
  | .smax d a b t => some (139#8 ++ d ++ a ++ b ++ 0#5 ++ t)
  | .scmp q a b t c => some (140#8 ++ 0#3 ++ q ++ a ++ b ++ 0#1 ++ t ++ 0#1 ++ c)
  | .ssel d a b e p => some (141#8 ++ d ++ a ++ b ++ 0#2 ++ e ++ p)
  | .smov d a => some (142#8 ++ d ++ a ++ 0#12)
  | .spopc d a => some (143#8 ++ d ++ a ++ 0#12)
  | .sclz d a => some (144#8 ++ d ++ a ++ 0#12)
  | .saddi d a i => some (145#8 ++ d ++ a ++ i)
  | .sandi d a i => some (146#8 ++ d ++ a ++ i)
  | .sori d a i => some (147#8 ++ d ++ a ++ i)
  | .sxori d a i => some (148#8 ++ d ++ a ++ i)
  | .sshli d a n => some (149#8 ++ d ++ a ++ 0#7 ++ n)
  | .sshri d a n => some (150#8 ++ d ++ a ++ 0#7 ++ n)
  | .scmpi q a c t i => some (151#8 ++ 0#3 ++ q ++ a ++ c ++ t ++ i)
  | .smovi d i => some (152#8 ++ d ++ i)
  | .slui d i => some (153#8 ++ d ++ i)
  | .sadd64 d a b k => some (154#8 ++ d ++ a ++ b ++ 0#4 ++ k)
  | .qop d a b t => some (155#8 ++ 0#3 ++ d ++ 0#3 ++ a ++ 0#3 ++ b ++ 0#2 ++ t)
  | .sld d a b f => some (160#8 ++ d ++ a ++ b ++ 0#5 ++ f)
  | .sst d a b f => some (161#8 ++ d ++ a ++ b ++ 0#5 ++ f)
  | .sld64 d a b f => some (162#8 ++ d ++ a ++ b ++ 0#5 ++ f)
  | .sst64 d a b f => some (163#8 ++ d ++ a ++ b ++ 0#5 ++ f)
  | .sldsp d a b f => some (164#8 ++ d ++ a ++ b ++ 0#5 ++ f)
  | .sstsp d a b f => some (165#8 ++ d ++ a ++ b ++ 0#5 ++ f)
  | .slda d a b c f => some (166#8 ++ d ++ a ++ b ++ c ++ 0#2 ++ f)
  | .sstl d a b c f => some (167#8 ++ d ++ a ++ b ++ c ++ 0#2 ++ f)
  | .satadd d a b c f => some (168#8 ++ d ++ a ++ b ++ c ++ 0#2 ++ f)
  | .satcas d a b c f => some (169#8 ++ d ++ a ++ b ++ c ++ 0#2 ++ f)
  | .redv d v o => some (172#8 ++ d ++ v ++ o ++ 0#8)
  | .lmask d p k => some (173#8 ++ d ++ p ++ 0#13 ++ k)
  | .bcast d v b m => some (174#8 ++ d ++ v ++ b ++ 0#4 ++ m)
  | .br q e o => some (176#8 ++ q ++ e ++ o)
  | .brd p e o => some (177#8 ++ p ++ e ++ o)
  | .setj o => some (178#8 ++ 0#4 ++ o)
  | .call q e o => some (179#8 ++ q ++ e ++ o)
  | .ret => some (180#8 ++ 0#24)
  | .bri a b => some (181#8 ++ 0#6 ++ a ++ b ++ 0#6)
  | .loop c o => some (182#8 ++ c ++ o)
  | .loopi n o => some (183#8 ++ n ++ o)
  | .lbrk q e o => some (184#8 ++ q ++ e ++ o)
  | .exit => some (185#8 ++ 0#24)
  | .lnch d a b f => some (186#8 ++ d ++ a ++ b ++ f ++ 0#5)
  | .bar a c n => some (188#8 ++ 0#6 ++ a ++ 0#8 ++ c ++ n)
  | .barcv a c n => some (189#8 ++ 0#6 ++ a ++ 0#8 ++ c ++ 0#1 ++ n)
  | .arrv a b s => some (190#8 ++ 0#6 ++ a ++ b ++ s ++ 0#3)
  | .bwait d a s => some (191#8 ++ d ++ a ++ 0#6 ++ s ++ 0#3)
  | .waitw d a c p s => some (192#8 ++ d ++ a ++ c ++ p ++ s ++ 0#3)
  | .fence s k => some (193#8 ++ 0#18 ++ s ++ 0#1 ++ k)
  | .waitf f => some (194#8 ++ 0#12 ++ f)
  | .yield => some (195#8 ++ 0#24)
  | .sleep a i => some (196#8 ++ 0#6 ++ a ++ i)
  | .sleepExpiry => none
  | .macq f t p d => some (200#8 ++ f ++ t ++ p ++ d ++ 0#13)
  | .mrel f t p => some (201#8 ++ f ++ t ++ p ++ 0#19)
  | .mzeroE f t => some (202#8 ++ f ++ t ++ 0#20)
  | .mzeroAll f t => some (202#8 ++ f ++ t ++ 524288#20)
  | .mma f t m a b => some (203#8 ++ f ++ t ++ m ++ a ++ b ++ 0#5)
  | .mmap f t m a b => some (204#8 ++ f ++ t ++ m ++ a ++ b ++ 0#5)
  | .msca f d p a b => some (205#8 ++ f ++ d ++ p ++ a ++ b ++ 0#5)
  | .mld f t m a b => some (206#8 ++ f ++ t ++ m ++ a ++ b ++ 0#6)
  | .mst f t m a b => some (207#8 ++ f ++ t ++ m ++ a ++ b ++ 0#6)
  | .smxu f o s p k x m => some (208#8 ++ f ++ o ++ s ++ p ++ k ++ x ++ m ++ 0#2)
  | .smxm f a b p => some (209#8 ++ f ++ a ++ b ++ p ++ 0#16)
  | .smxn f o => some (210#8 ++ f ++ o ++ 0#20)
  | .mstatSt f t a => some (211#8 ++ f ++ t ++ 0#2 ++ a ++ 0#12)
  | .mstatLd f t a => some (211#8 ++ f ++ t ++ 1#2 ++ a ++ 0#12)
  | .mstatRst f t => some (211#8 ++ f ++ t ++ 524288#20)
  | .xcv f t a w => some (212#8 ++ f ++ t ++ a ++ w ++ 0#8)
  | .xadd f d s c => some (213#8 ++ f ++ d ++ s ++ c ++ 0#5)
  | .xput f a b c => some (214#8 ++ f ++ a ++ b ++ c ++ 0#5)
  | .xrnd f t a w => some (215#8 ++ f ++ t ++ a ++ w ++ 0#8)
  | .cpy f d a => some (216#8 ++ f ++ d ++ a ++ 0#11)
  | .cpy2d f d a => some (217#8 ++ f ++ d ++ a ++ 0#11)
  | .cfill f d a => some (218#8 ++ f ++ d ++ a ++ 0#11)
  | .gath f d a => some (219#8 ++ f ++ d ++ a ++ 0#11)
  | .cstat f d a u => some (220#8 ++ f ++ d ++ a ++ u ++ 0#9)
  | .ccan f a u => some (221#8 ++ f ++ 0#6 ++ a ++ u ++ 0#9)
  | .ostart f n a b d => some (222#8 ++ f ++ n ++ a ++ b ++ d ++ 0#3)
  | .ostop f n => some (223#8 ++ f ++ n ++ 0#21)
  | .opush f n a c => some (224#8 ++ f ++ n ++ a ++ c ++ 0#12)
  | .lease d a b f => some (226#8 ++ d ++ a ++ b ++ f ++ 0#5)
  | .lrel d a f => some (227#8 ++ d ++ a ++ 0#6 ++ f ++ 0#5)
  | .lqry d a => some (228#8 ++ d ++ a ++ 0#12)
  | .drain a f => some (229#8 ++ 0#6 ++ a ++ 0#6 ++ f ++ 0#5)
  | .drainAll a f => some (229#8 ++ 0#6 ++ a ++ 0#6 ++ f ++ 16#5)
  | .wbrd d s k => some (232#8 ++ d ++ s ++ 0#8 ++ k)
  | .sysr d r => some (233#8 ++ d ++ 0#6 ++ r)
  | .sysw a r => some (234#8 ++ 0#6 ++ a ++ r)
  | .trap i => some (235#8 ++ 0#6 ++ i)
  | .brk i => some (236#8 ++ 0#6 ++ i)
  | .tret => some (237#8 ++ 0#24)
  | .gpolIns d a => some (238#8 ++ d ++ a ++ 0#12)
  | .gpolRev d b => some (238#8 ++ d ++ 0#6 ++ b ++ 1#6)
  | .seal d a b => some (239#8 ++ d ++ a ++ b ++ 0#6)
  | .tlbiPage a b f => some (240#8 ++ 0#6 ++ a ++ b ++ f ++ 0#5)
  | .tlbiWorld a f => some (240#8 ++ 0#6 ++ a ++ 0#6 ++ f ++ 1#5)
  | .tlbiPart a f => some (240#8 ++ 0#6 ++ a ++ 0#6 ++ f ++ 2#5)
  | .tlbiAll f => some (240#8 ++ 0#18 ++ f ++ 3#5)
  | .tlbiG2page a b f => some (240#8 ++ 0#6 ++ a ++ b ++ f ++ 4#5)
  | .tlbiG2part a f => some (240#8 ++ 0#6 ++ a ++ 0#6 ++ f ++ 5#5)
  | .tlbiComplete => none
  | .scrub d a f z => some (241#8 ++ d ++ a ++ 0#6 ++ f ++ 0#3 ++ z)
  | .ctxsv d a f => some (242#8 ++ d ++ a ++ 0#6 ++ f ++ 0#5)
  | .ctxld d a f => some (243#8 ++ d ++ a ++ 0#6 ++ f ++ 0#5)
  | .nop => some (244#8 ++ 0#24)
  | .powerLoss => none
  | .bankAccess => none
  | .instructionCacheFill => none
  | .constantCacheFill => none
  | .invalidationPinnedTimeout => none
  | .directoryEntryUpdate => none
  | .relinquish => none

/-- The instruction this decoder reads from the bits `w`, laid out as the hardware stores them. -/
def decodeTableWord (nbits w : Nat) : Option Instr :=
  match decodeBytes (bytesOfWord (BitVec.ofNat 32 (w % 2 ^ nbits))) with
  | .ok (i, _) => some i
  | .error _ => none

end Sys2Proof
end

