-- ==== Sys2Proof/Machine/State.lean ====
section
/-! DEFINITION. The state of the machine as plain data, the reasons a step can stop, and the state after reset. -/

namespace Sys2Proof.Machine

/-- Why a step stops although the spec gives the machine's situation no outcome. -/
inductive Fault where
  /-- An access of world 0 or of the machine itself to host-physical space that R16 leaves unpopulated: the spec names
  the space and gives no outcome. Safe: the hardware may go on. -/
  | unpopulated
deriving DecidableEq, Repr

/-- Why the model answers no next state. -/
inductive Refusal where
  /-- An instruction this model gives no meaning yet, raised by its arm of exec. Safe. -/
  | notModelled (mnemonic : String)
  /-- An access of world 0 to a device register whose address or effect the spec does not give (R16 names the region,
  R124 and R266 the few windows in it). Safe: a device acts there. -/
  | deviceSpace
deriving DecidableEq, Repr

/-- The state of a path slot (R236, R261). -/
inductive PState where
  | empty
  | running
  | joinWait
  | parked
deriving DecidableEq, Repr

/-- What a path waits for in the middle of an instruction. -/
inductive Hold where
  /-- nothing: the path may issue -/
  | none
  /-- the instruction was issued, could not go on, and issues again (R243, R316) -/
  | again
  /-- an arrival counted at a barrier, 0 to 7 of the party or 8 to 11 of the gang; its generation has not completed (R335) -/
  | barrier (n : Nat)
  /-- the barrier's generation completed; the acquire is left (R335) -/
  | released
  /-- WAITW or BWAIT until a re-check finds the word as wanted (R155, R336, R337) -/
  | word
  /-- SLEEP until sys.cycle reaches the value (R339) -/
  | sleep (until_ : Nat)
  /-- an answer of the security block, numbered (R344) -/
  | security (cmd : Nat)
  /-- the passes of a remote access, numbered by its operation (R184) -/
  | remote (op : Nat)
  /-- a frame-pool read waiting for a frame (R48) -/
  | frame
  /-- the completion of a shootdown or of another numbered operation (R42, R345) -/
  | op (n : Nat)
deriving DecidableEq, Repr

/-- A path (R236, R261): the fields of the 64-byte format, the flags with the operations bound to them (R233), and the
clause it has fetched (R293). A flag is set while an operation is bound to it. -/
structure Path where
  pc : Dword
  parkpc : Dword
  mask : Lanes
  umask : Lanes
  cmask : Lanes
  flow : Waybill
  /-- (flag, operation) pairs: R233 -/
  binds : List (Nat × Nat)
  pos : Nat
  state : PState
  rep : Bool
  woken : Bool
  level : Nat
  tinfo : Word
  rfinfo : Word
  gtinfo : Word
  wsdecl : Byte
  /-- the clause header and words fetched for this clause; empty when the clause is to be fetched -/
  hdr : Word
  words : List Word
  /-- the header of the clause just left by falling through, until its loop end has been looked at (R334) -/
  left : Option Dword
  hold : Hold
  /-- the header fetch of a trap vector is still to come (R253) -/
  vector : Bool
  /-- the operation of an instruction that is parked or held in part, kept for its replay -/
  parkOp : Option Nat
  /-- a LOOP with count 0 was issued in this clause: the header of the body's last clause (R333) -/
  skip : Option Dword
  /-- the fault record a parked path waits under (R100); and the outcome it was woken with where it matters to its replay, 0 PROT (R113), or the
  decline that met it while it could not take the trap, c + 1 for cause c (R101, R240) -/
  wrec : Option (BitVec 256)
  due : Option Nat
  /-- the path's own number, and what of its string comes before it (R146): every access of an operation below `since`, and of the paths of `line`
  those below their bounds -/
  id : Nat
  since : Nat
  line : List (Nat × Option Nat)
  /-- the last save: the accesses numbered below it come before everything later (R148) -/
  saved : Nat
  /-- lines the instruction it stands at has had brought to the L2, which it did not hit (R57) -/
  missed : List Nat
  /-- the operand values of the wait it stands at, read at its issue; empty otherwise (R301) -/
  vals : List Nat
deriving DecidableEq, Repr

/-- An empty path slot. -/
def Path.blank : Path :=
  ⟨0, 0, 0, 0, 0, 0, [], 0, .empty, false, false, 0, 0, 0, 0, 0, 0, [], none, .none, false, none, none, none, none, 0, 0, [], 0, [], []⟩

/-- A record of the divergence stack (R236). -/
inductive StkRec where
  | join (addr : Dword)
  | susp (p : Path)
deriving DecidableEq, Repr

/-- An engine's report to its string (R264), with the registers it fills when it is taken. -/
structure Report where
  unit : Nat
  index : Nat
  cause : Nat
  /-- taken as POISON rather than ENGINE (R91) -/
  poison : Bool
  tval : Dword
  tinfo : Word
  rfinfo : Word
  gtinfo : Word
  wsdecl : Byte
deriving DecidableEq, Repr

/-- A trap of a string that has not been returned from (R250, R254): the path that runs its handler and the sibling it holds, by their numbers;
whether it entered at user level; and the loop skip its path was under, as the header it stood at and the header it leaves for (R333). -/
structure TrapRec where
  handler : Nat
  held : Option Nat
  user : Bool
  skip : Option (Dword × Dword)
deriving DecidableEq, Repr

/-- The debug state of a string (R266). -/
inductive Dbg where
  | running
  | halted
  | fatal
deriving DecidableEq, Repr

/-- A negative acknowledgement kept for its string (R185). -/
structure Nack where
  peer : Nat
  offset : Dword
  code : Nat
  /-- the path that posted it, and its number in posting order -/
  path : Nat
  id : Nat
deriving DecidableEq, Repr

/-- A string in its slot, or an outrider (which reuses the record: R244). -/
structure Str where
  /-- an outrider (R244), and then whether it runs and the slot of its bound string -/
  outrider : Bool
  runs : Bool
  bound : Nat
  /-- an outrider that a trap has stopped, which its string is told of (R245, R264) -/
  told : Bool
  world : Nat
  launch : Nat
  /-- the party's key: launch times 2^24 plus party index -/
  party : Nat
  index : Nat
  vblk : Nat
  lmask : Lanes
  /-- the lanes the launch gave the string (R230, R347) -/
  launchLanes : Lanes
  /-- top first -/
  stack : List StkRec
  p0 : Path
  p1 : Path
  s : Table Word
  swb : Table Waybill
  /-- vector register r, lane l at 32 r + l -/
  v : Table Word
  vwb : Table Waybill
  /-- poisoned registers: v0 to v127, then s0 to s63 from 128 (R90) -/
  regPoison : List Nat
  p : Table Lanes
  pwb : Table Waybill
  q : BitVec 7
  qwb : Table Waybill
  lstart : Table Dword
  lend : Table Dword
  lcount : Table Word
  repidx : Nat
  /-- the string's own system registers, by number (R305) -/
  sys : Table Dword
  tickPending : Bool
  /-- the level that took the last trap (R267) -/
  trapLevel : Nat
  /-- traps not yet returned from, the newest first -/
  traps : List TrapRec
  dbg : Dbg
  brkh : Bool
  /-- STEP (R266): 0 no, 1 released for one clause, 2 the clause has begun -/
  stepping : Nat
  /-- a tenant stop is asked for (R257); an immediate stop is asked for (R258) -/
  stopTenant : Bool
  stopNow : Bool
  /-- when the tenant stop was asked for -/
  stopAt : Nat
  /-- stopped and holding its slot (R259) -/
  captured : Bool
  reports : List Report
  /-- queues oq0 to oq3, oldest entry first (R381) -/
  oq : Table (List (Word × Waybill))
  nacks : List Nack
  /-- remote writes not yet acknowledged, by their path and number (R157) -/
  unacked : List (Nat × Nat)
  /-- order in which strings last issued (R279), and what it was before the issue under way -/
  stamp : Nat
  before : Nat
  /-- not chosen at the next slot (R339) -/
  yielded : Bool
  /-- the path slot that last issued or started a clause (R232, R279) -/
  onPath : Bool
  /-- when the default order last tried it, and at which of its four kinds of act: its paths, its comparator, its stop -/
  tried : Nat
  served : Nat
deriving DecidableEq, Repr

/-- A 128-byte line; byte k is bits [8k+7:8k] (R5, R35). -/
abbrev Line := BitVec 1024

/-- One entry of a data, fetch or die TLB (R33, R37): the leaf as the walker read it with A and D, the second-stage summary,
and the granule checks kept with it: (guest-physical granule, owner, SEALED). -/
structure TlbE where
  world : Nat
  /-- virtual address of the page, divided by 4,096 -/
  vpn : Nat
  /-- SIZE: 0 4 KiB, 1 64 KiB, 2 2 MiB, 3 1 GiB -/
  size : Nat
  gpn : Nat
  leaf : Dword
  rd : Bool
  wr : Bool
  ex : Bool
  grans : List (Nat × Nat × Bool)
deriving DecidableEq, Repr

/-- A walk-cache entry: the table a pointer at level `lvl` names, for the addresses that share `pfx` (R37). -/
structure WalkE where
  world : Nat
  lvl : Nat
  pfx : Nat
  next : Nat
deriving DecidableEq, Repr

/-- A second-stage leaf kept by a controller complex (R33, R42). -/
structure S2E where
  part : Nat
  gpn : Nat
  size : Nat
  entry : Dword
deriving DecidableEq, Repr

/-- A line of the L2 (R80 to R83). -/
structure L2Line where
  data : Line
  zero : Bool
  dirty : Bool
  wb : Waybill
  /-- poisoned halves, bit 0 the lower (R90) -/
  poison : Nat
deriving DecidableEq, Repr

/-- A line of an L1 (`way` 0 to 15, or a zero tag 16 to 19), of a constant or an instruction cache (R71, R78, R79). -/
structure CLine where
  set : Nat
  way : Nat
  world : Nat
  /-- guest-physical address divided by 128 -/
  line : Nat
  data : Line
  wb : Waybill
  poison : Nat
deriving DecidableEq, Repr

/-- What a request does when it reaches its home. -/
inductive ReqKind where
  /-- bring the line into the L2 -/
  | fill
  /-- bring the line into the L1 (PFET .l1) -/
  | pfetch
  | load
  | store
  | atomic
  /-- bring an instruction line or a constant line to its cache -/
  | ifetch
  | cfetch
deriving DecidableEq, Repr

/-- Where a request stands (R81 to R87). -/
inductive Stage where
  | bank
  | l2
  | hbm
  | fill
  | l1
  | atom
deriving DecidableEq, Repr

/-- One lane's part of a request: its byte address (offset in its space, or guest-physical), size, the bytes it writes
or its operand, and the comparand of a compare-and-swap. The halves of a 16-byte access that go apart (R130) are numbered lane + 32, the
lower, and lane + 64. -/
structure LaneReq where
  lane : Nat
  addr : Nat
  size : Nat
  data : Nat
  cmp : Nat
deriving DecidableEq, Repr

/-- A memory request in flight (R136): one per line or block and instruction, one per lane for an atomic. -/
structure Req where
  rid : Nat
  /-- the operation it belongs to (R233); its number orders the instructions of a string -/
  op : Nat
  kind : ReqKind
  stage : Stage
  unit : Nat
  path : Bool
  core : Nat
  world : Nat
  /-- 0 global, 1 scratchpad, 2 convoy memory, 3 depot -/
  space : Nat
  /-- whether the line is host-physical (world 0), and the world it is tagged with -/
  ident : Bool
  tag : Nat
  line : Nat
  strong : Bool
  acq : Bool
  scope : Nat
  rel : Bool
  atop : Nat
  wb : Waybill
  lanes : List LaneReq
  /-- the line's data once read, with its zero flag, waybill and poison -/
  got : Option (Line × Bool × Waybill × Nat)
  /-- what its cache installs at the fill: the line as the core has read it at its home since (R142) -/
  inst : Option (Line × Bool × Waybill × Nat)
  /-- the core's own stores that the line does not hold yet, in order: number, lanes and waybill, merged when it is installed -/
  later : List (Nat × List LaneReq × Waybill)
  noInstall : Bool
  /-- sampler type (R57), page size, HOME and the virtual address it came from; not counted by the sampler twice -/
  ty : Nat
  psize : Nat
  home : Bool
  va : Nat
  counted : Bool
  missed : Bool
  /-- the virtual addresses its lanes came from (R42) -/
  vas : List Nat
  /-- its path's number, and the requests that are performed or satisfied before it (R137, R146) -/
  pid : Nat
  waits : List Nat
  /-- a store that updated its core's L1 in place at issue (R72, R142) -/
  seen : Bool
  /-- its number in the order of arrival at its controller, and whether a ceiling has held it back there (R286) -/
  arrived : Nat
  held : Bool
deriving DecidableEq, Repr

/-- The destination of an operation's results: vector registers or uniform registers. -/
inductive Dest where
  | none
  | vec (r n : Nat) (size : Nat) (signed : Bool)
  | uni (r n : Nat)
deriving DecidableEq, Repr

/-- An operation in flight that a flag may be bound to (R233). -/
structure Op where
  unit : Nat
  path : Bool
  dest : Dest
  /-- every live lane is written (R349) -/
  full : Bool
  /-- the waybill of its result so far (R349) -/
  acc : Waybill
  /-- some of the data delivered was poisoned (R90) -/
  bad : Bool
  /-- requests, passes or parts still to come -/
  left : Nat
  /-- the outstanding counter it counts in (R282) -/
  launch : Option Nat
deriving DecidableEq, Repr

/-- A range lock (R150): its space, the core whose storage it is, the world, its mode and its first and last block. -/
structure Lock where
  space : Nat
  core : Nat
  world : Nat
  write : Bool
  first : Nat
  last : Nat
  /-- the engine operation holding it -/
  op : Nat
  /-- a read lock's: the units of the operation after which its last read is satisfied; 0 at the operation's end (R153) -/
  units : Nat
deriving DecidableEq, Repr

/-- Memory, the caches and the requests in flight (02, 04). -/
structure MemS where
  /-- HBM by host-physical address; an unlisted byte reads 0 -/
  hbm : List Host.Cell
  /-- the key and tweak a line was written under, by host-physical line; unlisted is a zero line (R35) -/
  keyed : Table (Nat × Nat)
  /-- poisoned 64-byte halves of HBM, by host-physical address / 64 (R90) -/
  hpoison : Table Bool
  /-- by (ident * 256 + world) * 2^45 + line -/
  l2 : Table L2Line
  /-- by core; most recently used first -/
  l1 : Table (List CLine)
  cc : Table (List CLine)
  ic : Table (List CLine)
  /-- scratchpad by core * 2^20 + offset, convoy slices by core * 2^18 + offset, depot by die * 2^26 + offset -/
  sp : Table Byte
  cv : Table Byte
  dp : Table Byte
  /-- waybill per 256-byte block and poison per 64-byte region of each -/
  spwb : Table Waybill
  cvwb : Table Waybill
  dpwb : Table Waybill
  sppo : Table Bool
  cvpo : Table Bool
  dppo : Table Bool
  reqs : List Req
  ops : Table Op
  /-- by core -/
  locks : Table (List Lock)
  lockPeak : Table Nat
  /-- the newest error record of a frame: its ring's slot address and index (R93), by host-physical granule -/
  errRec : Table (Nat × Nat)
  /-- allocation units being zeroed: (space, first byte, bytes) (R69) -/
  zeroing : List (Nat × Nat × Nat)
  /-- the write-back operation in progress (R84) -/
  wbBusy : Bool
  patrol : Nat
  /-- lines served in this window, by stack * 32 + partition (24: world 0), and the window's number (R286) -/
  bw : Table Nat
  window : Nat
deriving DecidableEq, Repr

/-- A path waiting for a frame of a pool, in arrival order (R48); or a waystation context (unit 0, none). -/
structure PoolWait where
  part : Nat
  size : Nat
  /-- the unit and path, or the page-pending entry of the waystation -/
  who : Option (Nat × Bool)
  entry : Nat
  reg : Nat
deriving DecidableEq, Repr

/-- A shootdown broadcast and not yet complete (R42): kind, operand world or partition, address, and the operation it
completes. -/
structure Shoot where
  kind : Nat
  who : Nat
  addr : Nat
  op : Nat
  unit : Nat
  path : Bool
  /-- requests that used a removed entry and must be performed first -/
  waits : List Nat
deriving DecidableEq, Repr

/-- A frame the scrub engine has still to scrub (R49, R445): its partition, size, address and the pending entry it is for. -/
structure ScrubJob where
  part : Nat
  size : Nat
  gpa : Nat
  for_ : Option Nat
deriving DecidableEq, Repr

/-- Translation and partitions (01). -/
structure XlS where
  /-- by die; by core -/
  dtlb : Table (List TlbE)
  ctlb : Table (List TlbE)
  ftlb : Table (List TlbE)
  wcache : Table (List WalkE)
  s2c : Table (List S2E)
  /-- partition of a world; unlisted is unbound (R10) -/
  part : Table Nat
  /-- parent of a child partition; unlisted is top-level (R11) -/
  parent : Table Nat
  /-- kernel world of a partition -/
  kernel : Table Nat
  /-- PCIe functions 0 (physical) to 64: the partition each is bound to (R12) -/
  pcie : Table Nat
  /-- frames of the pools, by partition * 4 + size, oldest first (R47) -/
  pools : Table (List Nat)
  poolWait : List PoolWait
  shoots : List Shoot
  /-- samplers: accesses until the next record, by partition * 4 + die (R54) -/
  sample : Table Nat
  /-- frames to be scrubbed, and frames waiting for room in a frame ring (R445) -/
  scrubs : List ScrubJob
  ringWait : List (Nat × Nat × Nat)
deriving DecidableEq, Repr

/-- A party on its core (R262, R274): its allocations and how many of its strings have not exited. -/
structure Party where
  launch : Nat
  idx : Nat
  core : Nat
  world : Nat
  level : Nat
  spBase : Nat
  spSize : Nat
  /-- its tiles and outriders, by their numbers on the core, in the order the party names them -/
  tiles : List Nat
  outrs : List Nat
  /-- strings placed and not yet exited -/
  live : Nat
  /-- barriers 0 to 7: (arrivals, needed); needed 0 is every string counted (R335) -/
  bars : Table (Nat × Nat)
  /-- units of its strings in index order; order of placement; asked to stop (R280) -/
  units : List Nat
  stamp : Nat
  stopping : Bool
  /-- when its time slice began (R285) -/
  slice : Nat
  /-- taken while its strings waited in BWAIT, under step 1 (R280, R281) -/
  sleeping : Bool
deriving DecidableEq, Repr

/-- A launch in the pool (R268, R269): its record, the queue it joined, units placed on each die, and parties retired. -/
structure Launch where
  rec_ : BitVec 1024
  queue : Nat
  part : Nat
  placed : Table Nat
  retired : Nat
deriving DecidableEq, Repr

/-- A launch queue (R271): its configuration and the launches that wait or are being placed, oldest first. -/
structure Queue where
  en : Bool
  ord : Bool
  /-- the priority it had when PRIO was last written, PRIO, and the quantum of that write: PRIO counts from the next on (R271) -/
  prio : Nat
  next : Nat
  wrote : Nat
  part : Nat
  items : List Nat
deriving DecidableEq, Repr

/-- A queue with work on a die (R272): mapped or waiting, and since when. -/
structure MapE where
  mapped : Bool
  since : Nat
deriving DecidableEq, Repr

/-- A placement request waiting for the kernel (R277): the unit's first party, when it was written, and deferred; and the candidates its event named,
as bits of die-local cores (R278). -/
structure PlReq where
  first : Nat
  since : Nat
  deferred : Bool
  cands : Nat
deriving DecidableEq, Repr

/-- The allocations of launches (R65 to R67, R274): scratchpad and tiles are the party's; convoy slices by the gang's key (its
first party's key divided by 8) and depot by launch * 4 + die, as (first byte, bytes). -/
structure SchS where
  parties : Table Party
  cvAlloc : Table (Nat × Nat)
  dpAlloc : Table (Nat × Nat)
  /-- outstanding counters, by launch * 512 + core (R282) -/
  outstanding : Table Nat
  launches : Table Launch
  nextLaunch : Nat
  queues : Table Queue
  /-- by die * 4096 + queue -/
  maps : Table MapE
  preqs : Table PlReq
  /-- barriers of gangs, by the gang's key * 4 + number (R335) -/
  cvBars : Table (Nat × Nat)
  /-- the queue whose turn was last, by die * 4 + priority (R276) -/
  turn : Table Nat
  /-- slot time of this period, by partition, and partitions at their ceiling (R285) -/
  slotTime : Table Nat
  capped : List Nat
  /-- partitions that the steward has pre-empted (R289) -/
  held : List Nat
  /-- quanta and periods that have begun (R272, R285) -/
  quantum : Nat
  period : Nat
deriving DecidableEq, Repr

/-- Who holds a tile's token (R389): nobody, a string, or the matrix unit for a string. A string is named by its party's key times 32
plus its index. -/
inductive Token where
  | none
  | str (who : Nat)
  | eng (who : Nat)
deriving DecidableEq, Repr

/-- An accumulator tile (R388): entry (i, j) at 64 i + j, +0 when unlisted; the row statistics, m unlisted at minus infinity. -/
structure Tile where
  e : Table Dword
  m : Table (BitVec 40)
  l : Table (BitVec 40)
  /-- zero-row flags -/
  z : BitVec 64
  wb : Waybill
  token : Token
  /-- operations of MRELs that wait for the token to go to nobody (R391) -/
  rels : List Nat
deriving DecidableEq, Repr

/-- An entry of an engine queue (R386, R408): the matrix unit 0, the porter 1, the carrier unit 2. -/
structure Eng where
  unit : Nat
  core : Nat
  idx : Nat
  party : Nat
  who : Nat
  world : Nat
  level : Nat
  path : Bool
  /-- the opcode (R384) -/
  code : Nat
  /-- 1 queued, 2 running, 3 held on a remote page, 4 held under a report, 5 cancelling (R415) -/
  st : Nat
  done : Nat
  /-- the operand values read at issue, in the word's order; for a porter command its descriptor as one number -/
  vals : List Nat
  /-- tiles of the core the word names, by core * 8 + tile -/
  tiles : List Nat
  /-- the issue waybill (R422) -/
  wb : Waybill
  /-- numeric flags raised (R208) -/
  flags : Word
  /-- carrier elements acknowledged; remote requests outstanding -/
  acked : List Nat
  asks : List Nat
  /-- bytes and waybill that arrived for the chunk -/
  data : Option (List Byte × Waybill)
  /-- a fault record is posted or waiting (R100) -/
  posted : Bool
  launch : Nat
  /-- a CCAN's operation that completes with the cancellation (R416) -/
  ccan : List Nat
  /-- its path's requests that are performed or satisfied before its first access, and its path's number (R149, R188) -/
  waits : List Nat
  pid : Nat
  /-- its path's remote writes that are acknowledged before its first access (R149, R154) -/
  acks : List Nat
  /-- units of its destination that it has written in part and can write whole: by number in the destination's own addresses times 4 plus their kind (0 block,
  1 line, 2 granule), the bytes written and the waybill so far (R422, R428) -/
  parts : Table (Nat × Waybill)
deriving DecidableEq, Repr

/-- An entry of a block translation cache (R412). -/
structure BtcE where
  world : Nat
  base : Nat
  blk : Nat
  bs : Nat
  gpa : Nat
  /-- the translation of its page, with its leaf summary and the granules met -/
  tlb : TlbE
  /-- the gather that filled it -/
  op : Nat
deriving DecidableEq, Repr

/-- A stop an outrider is asked for (R417, R418): the outrider's unit, and what it starts as once it has stopped. -/
structure OutStop where
  unit : Nat
  next : Option Str
deriving DecidableEq, Repr

/-- The engines (12). -/
structure EngS where
  /-- by core * 8 + tile -/
  tiles : Table Tile
  /-- by operation -/
  queue : Table Eng
  /-- by core, most recently used first -/
  btc : Table (List BtcE)
  btcstat : Table Dword
  mcstat : Table Dword
  /-- stops asked of outriders, by operation -/
  stops : Table OutStop
deriving DecidableEq, Repr

/-- A party or its strings written to the context store (R259, R262, R288), with what it held; addresses are relative to its
allocations (DESIGN CHOICE, log 66). -/
structure Saved where
  party : Party
  key : Nat
  strs : List Str
  outrs : List Str
  sp : Table Byte
  spwb : Table Waybill
  sppo : Table Bool
  tiles : List Tile
  locks : List Lock
  outstanding : Nat
  /-- its engine operations by number, and the operations its paths' flags are bound to -/
  engs : Table Eng
  ops : Table Op
  stops : Table OutStop
  /-- the convoy slices of its gang, kept with the gang's first party: where each slice's part began, its bytes and the gang's
  barriers; by core index * 2^18 + offset -/
  cvBase : Nat
  cvSize : Nat
  cvBars : Table (Nat × Nat)
  cv : Table Byte
  cvwb : Table Waybill
  cvpo : Table Bool
  /-- taken while every string waited in BWAIT (R281), and ready to be placed again -/
  asleep : Bool
  ready : Bool
deriving DecidableEq, Repr

/-- A lane of the fabric (R164, R190, R198). `peer` is 1,024 where it joins none. `st`: 0 live, 1 pooled, 2 dark, 3 retraining, 4 failed. -/
structure Lane where
  peer : Nat
  st : Nat
  lease : Option Nat
  retr : Nat
  uncor : Nat
  corr : Nat
  tries : Nat
  /-- its partner's lease of it, by the end of that lease's term (R171) -/
  far : Option Nat
  /-- paired anew while it retrained (R192) -/
  moved : Bool
deriving DecidableEq, Repr

/-- A message to or from a peer: its kind, its numbers and its bytes. -/
structure Flit where
  kind : Nat
  n : List Nat
  bytes : List Byte
deriving DecidableEq, Repr

/-- A flit (R176, R179): its TYPE, and the messages it carries units of, each with its first unit here and how many. -/
structure Wire where
  ty : Nat
  parts : List (Flit × Nat × Nat)
deriving DecidableEq, Repr

/-- What a pair of packages keeps (R177, R178, R181). -/
structure Pair where
  nextSend : Nat
  nextRecv : Nat
  allow : Nat
  /-- messages not yet sent, oldest first, and the units of the first that have been sent -/
  queued : List Flit
  cut : Nat
  /-- flits to be asked for again, and flits to be sent again, by SEQ -/
  asks : List Nat
  again : List Nat
  /-- allowance to be returned to the peer -/
  owed : Nat
  /-- sent and not yet acknowledged, by SEQ -/
  sent : List (Nat × Wire)
  /-- arrived ahead of their turn, by SEQ: the messages that end in them -/
  early : List (Nat × List Flit)
  /-- receive buffers of the pool that the pair has, and those it is to have (R178) -/
  bufs : Nat
  want : Nat
deriving DecidableEq, Repr

/-- A lease (R169, R170). `st`: 0 free, 1 queued, 2 tuning, 3 held, 4 revocable. -/
structure Lease where
  st : Nat
  peer : Nat
  world : Nat
  wanted : Nat
  lanes : List Nat
  /-- when the term ends -/
  ends : Nat
  /-- operations that complete when the entry is free (R340) -/
  rels : List Nat
deriving DecidableEq, Repr

/-- Who waits for a remote request (R184, R413, R109): a path's operation, an engine entry, the waystation or nobody. -/
inductive Asker where
  | path (op : Nat)
  | eng (op : Nat)
  | way (id : Nat)
  | post (unit : Nat) (path : Nat) (who : Nat) (launch : Nat)
deriving DecidableEq, Repr

/-- A remote request not yet answered (R182 to R187). -/
structure Rem where
  peer : Nat
  who : Asker
  /-- 0 read, 1 write, 2 atomic, 3 put, 4 drain -/
  kind : Nat
  world : Nat
  offset : Nat
  lanes : List LaneReq
  since : Nat
  /-- what was sent, for an engine that sends it again or a page message -/
  tag : Nat
  /-- engine operations whose puts come before a drain marker that has not left (R188) -/
  after : List Nat
deriving DecidableEq, Repr

/-- A directory's ownership request in progress (R118): the manifest entry's address, the requester, the sharers that have still to
acknowledge and those that did not, and the request's number at the requester. -/
structure DirJob where
  part : Nat
  addr : Nat
  peer : Nat
  ask : Nat
  version : Nat
  shared : Bool
  left : List Nat
  failed : List Nat
  /-- the owner's write-back still to come (R109, R118) -/
  writeback : Bool
  /-- an ownership request; otherwise a lookup waiting for the owner -/
  own : Bool
  /-- the owner has been asked; when the last question left -/
  asked : Bool
  since : Nat
deriving DecidableEq, Repr

/-- The fabric (05). -/
structure FabS where
  lanes : Table Lane
  /-- the hub's copy of the peer table: MEMBER 1, LEAVING 2, FAILED 4 (R166) -/
  peers : Table Nat
  pairs : Table Pair
  leases : Table Lease
  /-- leases waiting for lanes, oldest first; the world served last (R171) -/
  waiting : List Nat
  turn : Nat
  rems : Table Rem
  /-- lanes of a remote instruction answered negatively, by operation: (lane, offset, peer, code, reason) (R184, R185) -/
  fails : Table (List (List Nat))
  /-- the peer table has been read (R175), and the members the default pairing was last computed for -/
  started : Bool
  basis : List Nat
  /-- what a peer's manager last said of its lanes: each lies at a floor or in a plane that joins the two packages (R169) -/
  full : Table Bool
deriving DecidableEq, Repr

/-- What an event of the table brings: its numbers, in the order its meaning reads them, and its bytes (DESIGN CHOICE, log 1). -/
structure Arg where
  n : List Nat
  bytes : List Byte
deriving DecidableEq, Repr

/-- An entry of the page-pending table (R103, R109). `st` is the state's code; 8 is DECLINED. -/
structure Pend where
  id : Nat
  world : Nat
  size : Nat
  vpn : Nat
  st : Nat
  need : Bool
  waiters : List (BitVec 256)
  frame : Option Nat
  /-- the manifest entry found, as one number -/
  entry : Nat
  attempts : Nat
  /-- the leaves CHECK read -/
  leaves : List Dword
  since : Nat
  /-- an ownership grant has been received -/
  owned : Bool
  /-- the wait for a frame or an unpinned victim has begun -/
  stuck : Bool
  /-- attempts of FETCH and of OWN that a "moved" ended (R110) -/
  moves : Nat
  ownMoves : Nat
deriving DecidableEq, Repr

/-- A resident copy (R112, R115). -/
structure Copy where
  world : Nat
  vpn : Nat
  size : Nat
  frame : Nat
  kw : Bool
  own : Bool
  score : Nat
  order : Nat
  /-- a write-back was refused, or a transfer is in flight (R115, R119) -/
  pinned : Bool
  /-- its manifest entry as the waystation last had it, which names the home -/
  entry : Nat
deriving DecidableEq, Repr

/-- An eviction or invalidation past its first step (R116, R118). `st`: 0 waiting for the copy to become
unpinned, 1 cleared and shot down, 2 write-back sent, 3 written back. -/
structure Evict where
  copy : Copy
  part : Nat
  /-- the leaf was dirty -/
  dirty : Bool
  st : Nat
  /-- the pending entry the frame is for -/
  for_ : Option Nat
  /-- asked by a directory: it and the job to acknowledge -/
  reply : Option (Nat × Nat)
  /-- the owner keeps a read copy (R109) -/
  keep : Bool
  /-- the leaves as they stood before the first step, for the copy that stays after all -/
  leaves : List Dword
  since : Nat
deriving DecidableEq, Repr

/-- The waystation (03). -/
structure WayS where
  /-- fault records posted and not yet admitted, oldest first (R100) -/
  posts : List (BitVec 256)
  /-- in admission order -/
  pends : List Pend
  nextId : Nat
  /-- the partition served last (R104) -/
  turn : Nat
  /-- the manifest cache: entries as numbers, newest first -/
  mcache : List Nat
  copies : List Copy
  evicts : List Evict
  jobs : List DirJob
  /-- requests that wait here for an entry that is BUSY, or for an eviction of the page, in arrival order (R107, R118) -/
  waits : List (Instr × Arg)
  /-- the VERSION of the last write-back to a backing frame here, by the page's key (R125) -/
  homeVer : Table Nat
  /-- when the scores were last halved (R115) -/
  halved : Nat
deriving DecidableEq, Repr

/-- A live release policy (R434, R436), with the body it was installed from. -/
structure Policy where
  world : Nat
  origins : Waybill
  remaining : Nat
  expiry : Nat
  dests : List (BitVec 256)
  body : List Byte
deriving DecidableEq, Repr

/-- A measurement record (R439). -/
structure MRec where
  world : Nat
  va : Nat
  gpa : Nat
  mono : Nat
  hash : BitVec 256
  meas : BitVec 256
deriving DecidableEq, Repr

/-- A command of sys.trcmd in progress for a partition (R446): operation, argument and world. -/
structure TrCmd where
  op : Nat
  arg : Nat
  world : Nat
  since : Nat
deriving DecidableEq, Repr

/-- A GPOL .ins whose record the security block is checking (R344, R436): its number, the string by its key, the current world, the record
and the waybill of the result. -/
structure PolCheck where
  id : Nat
  who : Nat
  world : Nat
  bytes : List Byte
  wb : Waybill
deriving DecidableEq, Repr

/-- The security block (13) (DESIGN CHOICE, log 100). -/
structure TrS where
  policies : Table Policy
  /-- peers attested for a world, by world * 1024 + package (R442) -/
  attested : Table Bool
  /-- memory-key number of a world; unlisted is the world's own number (R35, R443); and the next number -/
  keys : Table Nat
  nextKey : Nat
  /-- the loaded origin table of a world (R425) -/
  origins : Table (List Byte)
  /-- highest SERIAL of a world (R436) -/
  serial : Table Nat
  meas : Table (BitVec 256)
  log : List MRec
  cmds : Table TrCmd
  checks : List PolCheck
  /-- nonce sent for an attestation in progress, by partition (R442) -/
  nonces : Table (BitVec 256)
  /-- the boot key: its number and the leaves it has used (R440) -/
  bootKey : Nat
  bootLeaf : Nat
  /-- the leaf of the identity key that signed it; none where every leaf was used -/
  bootCert : Option Nat
  /-- FWM and the version of the running image (R470) -/
  fwm : BitVec 256
deriving DecidableEq, Repr

/-- What survives every reset (R435, R440, R444, R470) (DESIGN CHOICE, log 10). -/
structure NvS where
  /-- retired granules, at most 4,096 -/
  offline : List Nat
  mono : Nat
  /-- leaves used of the identity key -/
  idLeaf : Nat
  image : List Byte
  minVer : Nat
deriving DecidableEq, Repr

/-- The start order (R469 to R471). -/
structure BootS where
  /-- 0 reset, 1 scrubbing, 2 verifying, 3 running, 4 waiting for an image, 5 image refused (BSTAT) -/
  bstat : Nat
  linkUp : Bool
  /-- host link generation and width (R196) -/
  gen : Nat
  width : Nat
  hbmUp : Bool
  scrubbed : Bool
  verified : Bool
  started : Bool
  /-- powered; and whether a thermal trip removed the power (R476) -/
  powered : Bool
  tripped : Bool
  blen : Nat
  /-- the staging area: unlisted bytes are not written -/
  staging : Table Byte
deriving DecidableEq, Repr

/-- Something the machine sent to the outside (a peer, the host, an endpoint). -/
structure Msg where
  kind : Nat
  n : List Nat
  bytes : List Byte
deriving DecidableEq, Repr


/-- What the machine does next, as plain data: an event of the table with what it brings, or the issue of a path. -/
inductive Act where
  | event (i : Instr) (arg : Arg)
  | issue (unit : Nat) (path : Bool)
deriving DecidableEq, Repr

/-- One entry of the agenda: an act, and the time-base cycles that pass before it. -/
structure Item where
  dt : Nat
  act : Act
deriving DecidableEq, Repr

/-- The machine. -/
structure State where
  /-- the model's own: the acts still to come, the default order's counter, who issues now, the word that issues, what the event brings, and the counters
  of free values, operations and issue order -/
  agenda : List Item
  turn : Nat
  curUnit : Nat
  curPath : Bool
  curWord : Word
  arg : Arg
  fresh : Nat
  nextOp : Nat
  stamp : Nat
  outbox : List Msg
  /-- sys.cycle (R255) -/
  time : Nat
  /-- strings by core * 64 + slot; outriders 0 to 3 of a core at core * 64 + 32 to 35 -/
  strs : Table Str
  /-- system registers of package, world and partition scope: number; world * 4096 + number; partition * 4096 + number -/
  pkgRegs : Table Dword
  worldRegs : Table Dword
  partRegs : Table Dword
  mem : MemS
  xl : XlS
  sch : SchS
  /-- parties in the context stores, oldest first -/
  stored : List Saved
  eng : EngS
  fab : FabS
  way : WayS
  tr : TrS
  nv : NvS
  boot : BootS
deriving DecidableEq, Repr

/-- Memory after power-on: nothing listed, nothing cached, nothing in flight. -/
def MemS.reset : MemS :=
  { hbm := [], keyed := [], hpoison := [], l2 := [], l1 := [], cc := [], ic := [], sp := [], cv := [], dp := [], spwb := []
    cvwb := [], dpwb := [], sppo := [], cvpo := [], dppo := [], reqs := [], ops := [], locks := [], lockPeak := [], errRec := []
    zeroing := [], wbBusy := false, patrol := 0, bw := [], window := 0 }

def XlS.reset : XlS :=
  { dtlb := [], ctlb := [], ftlb := [], wcache := [], s2c := [], part := [], parent := [], kernel := [], pcie := [], pools := []
    poolWait := [], shoots := [], sample := [], scrubs := [], ringWait := [] }

def TrS.reset : TrS :=
  { policies := [], attested := [], keys := [], nextKey := 256, origins := [], serial := [], meas := [], log := [], cmds := []
    checks := [], nonces := [], bootKey := 0, bootLeaf := 0, bootCert := none, fwm := 0 }

def BootS.reset : BootS :=
  { bstat := 0, linkUp := false, gen := 0, width := 0, hbmUp := false, scrubbed := false, verified := false, started := false
    powered := true, tripped := false, blen := 0, staging := [] }

/-- The machine right after power-on (R468, R469) (DESIGN CHOICE, log 4). -/
def State.reset : State :=
  { agenda := [], turn := 0, curUnit := 0, curPath := false, curWord := 0, arg := ⟨[], []⟩, fresh := 0, nextOp := 1, stamp := 0, outbox := []
    time := 0, strs := [], pkgRegs := [], worldRegs := [], partRegs := [], mem := MemS.reset, xl := XlS.reset
    sch := ⟨[], [], [], [], [], 1, [], [], [], [], [], [], [], [], 0, 0⟩, stored := [], eng := ⟨[], [], [], [], [], []⟩
    fab := ⟨[], [], [], [], [], 0, [], [], false, [], []⟩, way := ⟨[], [], 1, 23, [], [], [], [], [], [], 0⟩, tr := TrS.reset
    nv := ⟨[], 0, 0, [], 0⟩, boot := BootS.reset }


end Sys2Proof.Machine
end

