-- ==== Sys2Proof/Machine/Tables.lean ====
section
/-! DEFINITION. Reading and writing a table in its one canonical form: keys strictly rising, no listed value equal to what
an unlisted key reads as. Memory, registers and every sparse piece of state are kept so. -/

namespace Sys2Proof.Machine

/-- The entry of a key, if it is listed. -/
def tfind {α : Type} : Table α → Nat → Option α
  | [], _ => none
  | (k', v) :: t, k => if k' = k then some v else tfind t k

/-- The value at a key; an unlisted key reads `d`. -/
def tget {α : Type} (d : α) (t : Table α) (k : Nat) : α := (tfind t k).getD d

/-- The table without a key. -/
def terase {α : Type} (t : Table α) (k : Nat) : Table α := t.filter (fun e => decide (e.1 ≠ k))

/-- The table with a key placed in order. -/
def tinsert {α : Type} (k : Nat) (v : α) : Table α → Table α
  | [] => [(k, v)]
  | (k', v') :: t => if k < k' then (k, v) :: (k', v') :: t else (k', v') :: tinsert k v t

/-- List a key with a value, in place of what it held. -/
def tput {α : Type} (t : Table α) (k : Nat) (v : α) : Table α := tinsert k v (terase t k)

/-- Write the value at a key; the value an unlisted key reads as removes the entry. -/
def tset {α : Type} [DecidableEq α] (d : α) (t : Table α) (k : Nat) (v : α) : Table α :=
  if v = d then terase t k else tput t k v

/-- Is a key listed? -/
def thas {α : Type} (t : Table α) (k : Nat) : Bool := (tfind t k).isSome

/-- The keys of a table, rising. -/
def tkeys {α : Type} (t : Table α) : List Nat := t.map Prod.fst

/-- The first key at or above `lo` that is not listed, looking at `fuel` keys. -/
def tfree {α : Type} (t : Table α) (lo : Nat) : Nat → Option Nat
  | 0 => none
  | n + 1 => if thas t lo then tfree t (lo + 1) n else some lo

/-- The canonical form: strictly rising keys, no entry equal to the default. -/
def Table.wf {α : Type} [DecidableEq α] (d : α) (t : Table α) : Bool :=
  decide (t.Pairwise (fun a b => a.1 < b.1)) && t.all (fun e => decide (e.2 ≠ d))

end Sys2Proof.Machine
end

