-- ==== Sys2Proof/Machine/Ops.lean ====
section
/-! DEFINITION. The named operations on strings, paths and system registers: who issues, how a path advances, the order of
checks before an instruction acts (R301), and taking a trap (R249 to R253). -/

namespace Sys2Proof.Machine

/-- The outcome of a step of this machine. -/
abbrev Out := Host.Outcome State Fault Refusal

/-! ### Strings and paths -/

/-- The string or outrider in a slot. -/
def State.str? (s : State) (u : Nat) : Option Str := tfind s.strs u

/-- Place a string's record in its slot. -/
def State.putStr (s : State) (u : Nat) (t : Str) : State := { s with strs := tput s.strs u t }

/-- A path slot of a string (R236). -/
def Str.path (t : Str) (b : Bool) : Path := if b then t.p1 else t.p0

/-- Change every path of a string, the suspended ones included (R236). -/
def Str.mapPaths (t : Str) (f : Path → Path) : Str :=
  { t with
    p0 := f t.p0, p1 := f t.p1
    stack := t.stack.map (fun r => match r with
      | .join a => .join a
      | .susp p => .susp (f p)) }

/-- Every path of a string: the slots, then the suspended ones, the newest first. -/
def Str.paths (t : Str) : List Path :=
  t.p0 :: t.p1 :: t.stack.filterMap (fun r => match r with
    | .join _ => none
    | .susp p => some p)

/-- Replace a path slot. -/
def Str.setPath (t : Str) (b : Bool) (p : Path) : Str := if b then { t with p1 := p } else { t with p0 := p }

/-- The string that issues, with its issuing path replaced. -/
def State.putCur (s : State) (t : Str) (p : Path) : State := s.putStr s.curUnit (t.setPath s.curPath p)

/-- A path slot is live while it is not empty (R236). -/
def Path.live (p : Path) : Bool := decide (p.state ≠ .empty)

def StkRec.isSusp : StkRec → Bool
  | .join _ => false
  | .susp _ => true

/-- Diverged: two live paths, or a SUSP record on the stack (R236). -/
def Str.diverged (t : Str) : Bool := (t.p0.live && t.p1.live) || t.stack.any StkRec.isSusp

/-- Reconverged: one live path and an empty stack (R236). -/
def Str.reconverged (t : Str) : Bool := (t.p0.live != t.p1.live) && t.stack.isEmpty

/-- The core and slot of a unit. -/
def coreOf (u : Nat) : Nat := u / 64
def slotOf (u : Nat) : Nat := u % 64
/-- Die and package convoy of a core: 96 cores a die, 8 a convoy (R229). -/
def dieOf (core : Nat) : Nat := core / 96
def convoyOf (core : Nat) : Nat := core / 8

/-- The address of the word a path stands at: header address plus four bytes a word. -/
def Path.here (p : Path) : Dword := p.pc + BitVec.ofNat 64 (4 * p.pos)

/-- LEN of a header (R292). -/
def hdrLen (h : Word) : Nat := (h.extractLsb' 28 4).toNat

/-- The header after a clause: H + 4 (LEN + 1) (R293). -/
def Path.nextClause (p : Path) : Dword := p.pc + BitVec.ofNat 64 (4 * (p.words.length + 1))

/-- A path sent to a clause header. -/
def Path.goto (p : Path) (a : Dword) : Path :=
  { p with
    pc := a, pos := 0, words := [], hdr := 0, left := none, rep := false, hold := .none, parkOp := none, skip := none, wrec := none
    due := none, missed := [], vals := [], umask := 0, woken := false }

/-- A path that leaves its clause by falling through: the loop end is looked at before the next clause (R334). -/
def Path.fall (p : Path) : Path :=
  match p.skip with
  | some e => { p.goto e with skip := some e }
  | none => { p.goto p.nextClause with left := some p.pc }

/-- The path after its word has completed: the next word of the clause, or the next clause. -/
def Path.after (p : Path) : Path :=
  if p.pos < p.words.length then
    { p with pos := p.pos + 1, rep := false, hold := .none, umask := 0, woken := false, parkOp := none, wrec := none, due := none, missed := []
             vals := [] }
  else p.fall

/-- The repeat count of a REP word (R313). -/
def repCount (w : Word) : Nat := (w.extractLsb' 18 6).toNat + 1

/-- The word before the one a path stands at. -/
def Path.prevWord (p : Path) : Word := p.words.getD (p.pos - 2) 0

/-- A word has completed: under REP the next repeat, otherwise the next word (R382). -/
def advance (t : Str) (p : Path) : Str × Path :=
  if p.rep then
    if t.repidx + 1 < repCount p.prevWord then
      ({ t with repidx := t.repidx + 1 }, { p with
        hold := .none, umask := 0, woken := false, parkOp := none, wrec := none, due := none, missed := [], vals := [] })
    else ({ t with repidx := 0 }, p.after)
  else (t, p.after)

/-- A trap, a stop or a pending TICK at user level ends a SLEEP; the path continues after it (R339). -/
def Str.endSleep (t : Str) (b : Bool) : Str :=
  match (t.path b).hold with
  | .sleep _ => (advance t (t.path b)).1.setPath b (advance t (t.path b)).2
  | _ => t

/-- The instruction is done; its path goes on. -/
def finish (s : State) (t : Str) (p : Path) : Out :=
  .next (s.putCur (advance t p).1 (advance t p).2)

/-- A try that took no issue slot: the string keeps its place in the order of its quad (R243, R279). -/
def State.putIdle (s : State) (t : Str) (p : Path) : State := s.putCur { t with stamp := t.before } p

/-- The instruction cannot go on now: its path stays at it and issues it again (R243, R316). -/
def stay (s : State) (t : Str) (p : Path) : Out := .next (s.putIdle t { p with hold := .again })

/-- The instruction waits: its path holds no slot until it is tried again (R243, R316). -/
def waitOn (s : State) (t : Str) (p : Path) : Out := .next (s.putIdle t { p with hold := .word })

/-- A string as tokens and engine entries name it. -/
def Str.key (t : Str) : Nat := t.party * 32 + t.index

/-- A string named by its key, in its slot, if it has not exited. -/
def State.strOf (s : State) (who : Nat) : Option (Nat × Str) := s.strs.find? (fun x => !x.2.outrider && x.2.key == who)

/-- Is the string in a context store? -/
def State.isStored (s : State) (who : Nat) : Bool := s.stored.any (fun x => x.strs.any (fun t => t.key == who))

/-- Change a string named by its key, in its slot or in a context store. -/
def State.onStr (s : State) (who : Nat) (f : Str → Str) : State :=
  match s.strOf who with
  | some (u, t) => s.putStr u (f t)
  | none => { s with stored := s.stored.map (fun x => { x with strs := x.strs.map (fun t => if t.key = who then f t else t) }) }

/-! ### Operations in flight (R233) -/

/-- An operation has completed: its bindings leave a path. -/
def Path.unbind (p : Path) (op : Nat) : Path := { p with binds := p.binds.filter (fun b => b.2 != op) }

/-- ... and every path of the string, the suspended ones included (R233, R236). -/
def Str.unbind (t : Str) (op : Nat) : Str := t.mapPaths (fun p => p.unbind op)

/-- The waybill and poison of a completed operation's destination (R349, R90): an operation that wrote every live lane replaces
the waybill, another widens it (DEDUCED, log 92). -/
def Str.settle (t : Str) (o : Op) : Str :=
  match o.dest with
  | .none => t
  | .vec r n _ _ =>
    (List.range n).foldl (fun t k =>
      { t with
        vwb := tset 0 t.vwb (r + k) (if o.full then o.acc else tget 0 t.vwb (r + k) ||| o.acc)
        regPoison :=
          if o.bad then (if r + k ∈ t.regPoison then t.regPoison else (r + k) :: t.regPoison)
          else if o.full then t.regPoison.filter (fun x => decide (x ≠ r + k)) else t.regPoison }) t
  | .uni r n =>
    (List.range n).foldl (fun t k =>
      { t with
        swb := tset 0 t.swb (r + k) o.acc
        regPoison :=
          if o.bad then (if 128 + r + k ∈ t.regPoison then t.regPoison else (128 + r + k) :: t.regPoison)
          else t.regPoison.filter (fun x => decide (x ≠ 128 + r + k)) }) t

/-- Change an outstanding counter (R282), numbered launch * 512 + core. -/
def State.outAdd (s : State) (k n : Nat) : State :=
  { s with sch := { s.sch with outstanding := tset 0 s.sch.outstanding k (tget 0 s.sch.outstanding k + n) } }
def State.outSub (s : State) (k n : Nat) : State :=
  { s with sch := { s.sch with outstanding := tset 0 s.sch.outstanding k (tget 0 s.sch.outstanding k - n) } }

/-- An operation has completed: its destination is settled, its flags clear, and it leaves the outstanding counter. -/
def State.opDone (s : State) (n : Nat) (o : Op) : State :=
  let s := { s with mem := { s.mem with ops := terase s.mem.ops n } }
  let s := match o.launch with
    | none => s
    | some k => s.outSub k 1
  match s.str? o.unit with
  | none => s
  | some t => s.putStr o.unit ((t.settle o).unbind n)

/-- One part of an operation is over; the last completes it. -/
def State.opLeave (s : State) (n : Nat) : State :=
  match tfind s.mem.ops n with
  | none => s
  | some o => if o.left ≤ 1 then s.opDone n o else { s with mem := { s.mem with ops := tput s.mem.ops n { o with left := o.left - 1 } } }

/-! ### System registers by scope -/

/-- Reset values that are not zero, by number (the tables of each chapter). -/
def regReset (n : Nat) : Dword :=
  match n with
  | 0x012 => 50
  | 0x040 => 31
  | 0x050 => 0xFFFF
  | 0x065 => 0x1E
  | 0x066 => 0x11E00000
  | 0x06F => 0x238
  | 0x074 => 2
  | 0x081 => 0x85C86414
  | 0x0A3 => 0x03E81400
  | 0x0A4 => 0x2B
  | 0x0A5 => 100
  | 0x0D5 => 0x00FF0A00
  | 0x0D6 => 0x00FF0100
  | 0x0D7 => 0xFFFF
  | 0x0DA => 10
  | 0x0E6 => 0x100000
  | 0x0F0 => 3200
  | 0x0F1 => 0x240000000000
  | _ => 0

/-- A register of a table kept by number (low 12 bits of the key). -/
def regGet (t : Table Dword) (k : Nat) : Dword := tget (regReset (k % 4096)) t k
def regSet (t : Table Dword) (k : Nat) (v : Dword) : Table Dword := tset (regReset (k % 4096)) t k v

def State.pkg (s : State) (n : Nat) : Dword := regGet s.pkgRegs n
def State.setPkg (s : State) (n : Nat) (v : Dword) : State := { s with pkgRegs := regSet s.pkgRegs n v }
def State.wreg (s : State) (w n : Nat) : Dword := regGet s.worldRegs (w * 4096 + n)
def State.setWreg (s : State) (w n : Nat) (v : Dword) : State := { s with worldRegs := regSet s.worldRegs (w * 4096 + n) v }
def State.preg (s : State) (p n : Nat) : Dword := regGet s.partRegs (p * 4096 + n)
def State.setPreg (s : State) (p n : Nat) (v : Dword) : State := { s with partRegs := regSet s.partRegs (p * 4096 + n) v }

/-- The string's own registers (R305). -/
def Str.reg (t : Str) (n : Nat) : Dword := tget 0 t.sys n
def Str.setReg (t : Str) (n : Nat) (v : Dword) : Str := { t with sys := tset 0 t.sys n v }

/-! ### Partitions -/

/-- The partition a world is bound to (R10); world 0 belongs to none (R479). -/
def State.partOf (s : State) (w : Nat) : Option Nat := if w = 0 then none else tfind s.xl.part w

/-- The top-level partition of a partition (R11). -/
def State.topOf (s : State) (p : Nat) : Nat := tget p s.xl.parent p

/-- The top-level partition of a world. -/
def State.topPart (s : State) (w : Nat) : Option Nat := (s.partOf w).map s.topOf

/-! ### Traps -/

/-- Cause codes (R247). -/
def cILLEGAL := 0x01
def cPRIV := 0x02
def cALIGN := 0x03
def cPAGE := 0x04
def cPROT := 0x05
def cSEALED := 0x06
def cRFAULT := 0x07
def cUNREACH := 0x08
def cRLOCK := 0x09
def cTOKEN := 0x0A
def cMISSUE := 0x0B
def cEGRESS := 0x0C
def cPOISON := 0x0D
def cTICK := 0x0E
def cTRAP := 0x0F
def cBRK := 0x10
def cBRTAB := 0x11
def cENGINE := 0x12
def cLOOP := 0x13
def cDIVSTK := 0x14
def cWATCH := 0x15

/-- A trap about to be taken: its cause, the address and position it names, the value it reports, the level it is fixed to
(1 kernel for a declined park, 2 steward for STAGE = 1: R249), and the path registers it fills. -/
structure TrapInfo where
  cause : Nat
  epc : Dword
  epos : Nat
  tval : Dword
  fixed : Nat
  tinfo : Option Word
  rfinfo : Option Word
  gtinfo : Option Word
  wsdecl : Option Byte
deriving DecidableEq, Repr

/-- sys.deleg of the steward for a partition, and of the kernel for a world, whose fixed bits read as R249 says. -/
def State.stewardDeleg (s : State) (w : Nat) : Dword :=
  match s.partOf w with
  | none => 0
  | some p => s.preg p 0x028
def kernelDelegMask (v : Dword) : Dword := (v &&& ~~~(0x3050#64)) ||| 0x4000#64
def State.kernelDeleg (s : State) (w : Nat) : Dword := kernelDelegMask (s.wreg w 0x028)

/-- The level a trap goes to (R249). -/
def route (s : State) (w cause fixed level : Nat) : Nat :=
  if cause = cTICK then 0
  else if fixed = 2 then 2
  else if fixed = 1 then max 1 level
  else
    let l :=
      if (s.stewardDeleg w).getLsbD cause then
        if (s.kernelDeleg w).getLsbD cause then 0 else 1
      else 2
    max l level

/-- The vector of a level (R248). -/
def vectorOf (s : State) (t : Str) (l : Nat) : Dword :=
  (match l with
  | 0 => t.reg 0x020
  | 1 => s.wreg t.world 0x021
  | _ => s.pkg 0x022) &&& ~~~3#64

/-- The bits of sys.estat (R252). -/
def estatWord (level : Nat) (div : Bool) (path : Bool) (pos : Nat) (rep park : Bool) : Dword :=
  BitVec.ofNat 64 (level % 4 * 2 ^ 30 + (if div then 2 ^ 29 else 0) + (if path then 2 ^ 28 else 0) + pos % 16 * 2 ^ 24 +
    (if rep then 2 ^ 23 else 0) + (if park then 2 ^ 22 else 0))

/-- The handler path a trap leaves behind (R250) (DEDUCED, log 23). -/
def Path.trapped (p : Path) (lvl : Nat) (vec : Dword) (ti : TrapInfo) : Path :=
  { p.goto vec with
    level := lvl, state := .running, vector := true
    tinfo := ti.tinfo.getD p.tinfo, rfinfo := ti.rfinfo.getD 0, gtinfo := ti.gtinfo.getD 0, wsdecl := ti.wsdecl.getD 0 }

/-- Traps entered at user level and not yet returned from (R254, R255). -/
def Str.userTraps (t : Str) : Nat := (t.traps.filter TrapRec.user).length

/-- Does a trap hold the path with this number at its next clause boundary (R250)? -/
def Str.holds (t : Str) (id : Nat) : Bool := t.traps.any (fun r => r.held == some id)

/-- The newest trap of a list, entered at user level or above it, that the path with this number handles; or the newest of that kind. -/
def trapOf (l : List TrapRec) (id : Nat) (user : Bool) : Option TrapRec :=
  match l.find? (fun r => r.user == user && r.handler == id) with
  | some r => some r
  | none => l.find? (fun r => r.user == user)

/-- Taking a trap at a string (R250 to R253): the saved registers, the level, the held sibling and the vector. -/
def Str.trap (s : State) (t : Str) (b : Bool) (ti : TrapInfo) : Str :=
  let p := t.path b
  let lvl := route s t.world ti.cause ti.fixed p.level
  let sib := (t.path (!b)).live
  let r : TrapRec := ⟨p.id, if sib then some (t.path (!b)).id else none, decide (lvl = 0), p.skip.map (fun e => (ti.epc - BitVec.ofNat 64 (4 * ti.epos), e))⟩
  let t := ((((((t.setReg 0x023 (BitVec.ofNat 64 ti.cause)).setReg 0x024 ti.epc).setReg 0x025 ti.tval).setReg 0x013
    (estatWord p.level sib b ti.epos p.rep (decide (p.state = .parked)))).setReg 0x014 (p.cmask.setWidth 64)).setReg 0x015
    (p.umask.setWidth 64))
  let t := t.endSleep (!b)
  let t := { t with trapLevel := lvl, traps := r :: t.traps }
  t.setPath b (p.trapped lvl (vectorOf s t lvl) ti)

/-- Causes whose value is an address or offset (R251). -/
def addressCause (c : Nat) : Bool := decide (3 ≤ c ∧ c ≤ 9) || c == cEGRESS || c == cPOISON

/-- The trap of an outrider: it stops, and its string takes ENGINE, unit 3 (R245, R264). -/
def outriderTrap (s : State) (u : Nat) (t : Str) (ti : TrapInfo) : State :=
  let s := s.putStr u { t with runs := false, told := true }
  match s.str? t.bound with
  | none => s
  | some b =>
    let r : Report := ⟨3, slotOf u - 32, ti.cause, false, if addressCause ti.cause then ti.tval else ti.epc, ti.tinfo.getD 0, ti.rfinfo.getD 0, ti.gtinfo.getD 0, ti.wsdecl.getD 0⟩
    s.putStr t.bound { b with reports := b.reports ++ [r] }

/-- A trap leaves the part of an instruction that was parked: its replay is a new operation on the same flag (DEDUCED, log 118). -/
def dropPark (s : State) (t : Str) : State × Str :=
  match (t.path s.curPath).parkOp with
  | none => (s, t)
  | some n =>
    let s := (s.putStr s.curUnit (t.setPath s.curPath { t.path s.curPath with parkOp := none })).opLeave n
    (s, (s.str? s.curUnit).getD t)

/-- The one way a trap is taken. -/
def takeTrap (s : State) (t : Str) (ti : TrapInfo) : Out :=
  let (s, t) := dropPark s t
  if t.outrider then .next (outriderTrap s s.curUnit t ti)
  else .next (s.putStr s.curUnit (Str.trap s t s.curPath ti))

/-- A trap at the instruction the path stands at. -/
def trapHere (s : State) (t : Str) (p : Path) (cause : Nat) (tval : Dword) : Out :=
  takeTrap s (t.setPath s.curPath p) ⟨cause, p.here, p.pos, tval, 0, none, none, none, none⟩

/-- A trap whose value is the issuing word (R251) (DEDUCED, log 113). -/
def trapWord (s : State) (t : Str) (p : Path) (cause : Nat) : Out := trapHere s t p cause (s.curWord.setWidth 64)

/-! ### Before an instruction acts (R301) -/

/-- The least level of an instruction that names one (R246, R340, R345 to R347, R42). -/
def minLevel : Instr → Nat
  | .seal .. | .scrub .. | .ctxsv .. | .ctxld .. => 1
  | .tlbiPage .. | .tlbiWorld .. | .tlbiPart .. => 1
  | .tlbiAll .. | .tlbiG2page .. | .tlbiG2part .. => 2
  | .drainAll .. => 2
  | _ => 0

/-- The engine words (R384). -/
def isEngine : Instr → Bool
  | .macq .. | .mrel .. | .mzeroE .. | .mzeroAll .. | .mma .. | .mmap .. | .msca .. | .mld .. | .mst .. | .smxu .. | .smxm ..
  | .smxn .. | .mstatSt .. | .mstatLd .. | .mstatRst .. | .xcv .. | .xadd .. | .xput .. | .xrnd .. | .cpy .. | .cpy2d ..
  | .cfill .. | .gath .. | .cstat .. | .ccan .. | .ostart .. | .ostop .. => true
  | _ => false

/-- Executed once per string: MISSUE while the string is diverged (R301, R333 to R335, R347, R385). -/
def oncePerString (i : Instr) : Bool :=
  isEngine i || match i with
  | .bar .. | .barcv .. | .loop .. | .loopi .. | .lbrk .. | .ctxsv .. | .ctxld .. => true
  | _ => false

/-- Is the word of the lane set (R296)? -/
def isLane (i : Instr) : Bool :=
  match encode i with
  | some w => !w.getLsbD 31
  | none => false

/-- May an outrider execute the word (R244, R317)? -/
def outriderMay (i : Instr) : Bool :=
  !isLane i && !isEngine i && match i with
  | .brd .. | .setj .. | .bar .. | .barcv .. | .arrv .. | .bwait .. | .lnch .. => false
  | .sysw .. | .trap .. | .tret | .ctxsv .. | .ctxld .. | .seal .. | .scrub .. | .gpolIns .. | .gpolRev .. => false
  | .tlbiPage .. | .tlbiWorld .. | .tlbiPart .. | .tlbiAll .. | .tlbiG2page .. | .tlbiG2part .. => false
  | .redv .. | .lmask .. | .bcast .. => false
  | .wbrd _ _ k => k != 1 && k != 2 && k != 5
  | _ => true

/-- May a string execute the word? OPUSH is the outrider's alone (R419). -/
def stringMay : Instr → Bool
  | .opush .. => false
  | _ => true

/-- Does an instruction consume the registers it reads (R91)? A prefetch does not (R376). -/
def consumes : Instr → Bool
  | .pfet .. => false
  | _ => true

/-- The first poisoned register an instruction reads: vector registers by number, uniform registers from 128 (R90, R91). -/
def poisonedRead (t : Str) (i : Instr) : Option Nat :=
  if !consumes i then none else
  let o := i.operands
  let vs := o.vregs.flatMap (fun g => if g.2.2 then (List.range g.2.1).map (fun k => g.1.toNat + k) else [])
  let ss := o.sregs.flatMap (fun g => if g.2.2 then (List.range g.2.1).map (fun k => 128 + g.1.toNat + k) else [])
  (vs ++ ss).find? (fun r => decide (r ∈ t.regPoison))

/-- Checks 1 of R301 that the string decides: the registers it was allocated, the set it executes, and what the instruction
adds of its own. -/
def legal (t : Str) (i : Instr) : Bool :=
  i.operands.modOk && i.operands.regsOk (32 * t.vblk) && (if t.outrider then outriderMay i else stringMay i)

/-- The lanes an instruction acts on: all of the clause mask, or those owed at a replay (R99). -/
def actLanes (p : Path) : Lanes := if p.umask = 0 then p.cmask else p.umask

/-- The lowest lane of a mask. -/
def lowLane (m : Lanes) : Nat := ((List.range 32).find? (fun l => m.getLsbD l)).getD 0

/-- The trap of a poisoned register: its number is a vector register's, or 0 to 63 for a uniform one; a word of the lane set reports its lowest active
lane (R38, R91), and the access type of a register read is 0 (DESIGN CHOICE, log 134). -/
def trapPoisoned (s : State) (t : Str) (p : Path) (i : Instr) (r : Nat) : Out :=
  takeTrap s (t.setPath s.curPath p)
    ⟨cPOISON, p.here, p.pos, BitVec.ofNat 64 (r % 128), 0, some (if isLane i then BitVec.ofNat 32 (lowLane (actLanes p) * 2 ^ 27) else 0), none, none, none⟩

/-- The order of checks before an instruction acts (R301): ILLEGAL (with `extra`, the instruction's own cases), PRIV (with `priv`), MISSUE;
and a poisoned source register is POISON (R91), at the issue where a wait reads it. -/
def issuedAt (i : Instr) (s : State) (extra priv : Str → Path → Bool) (k : Str → Path → Out) : Out :=
  match s.str? s.curUnit with
  | none => .next s
  | some t =>
    let p := t.path s.curPath
    if !legal t i || extra t p then trapWord s t p cILLEGAL
    else if p.level < minLevel i || priv t p then trapWord s t p cPRIV
    else if oncePerString i && t.diverged then trapWord s t p cMISSUE
    else match (if p.vals = [] then poisonedRead t i else none) with
      | some r => trapPoisoned s t p i r
      | none => k t p

/-- The same with no level of the instruction's own. -/
def issuedIf (i : Instr) (s : State) (extra : Str → Path → Bool) (k : Str → Path → Out) : Out := issuedAt i s extra (fun _ _ => false) k

/-- The same with no case of the instruction's own. -/
def issued (i : Instr) (s : State) (k : Str → Path → Out) : Out := issuedIf i s (fun _ _ => false) k

end Sys2Proof.Machine
end

