-- ==== Sys2Proof/Machine/Operands.lean ====
section
/-! DEFINITION. Reading and writing operands: registers, predicates, pairs and groups, and the waybill each result takes
(R297 to R300, R315, R349). -/

namespace Sys2Proof.Machine

/-! ### Lane registers -/

/-- Is a lane in a mask? -/
def lane (m : Lanes) (l : Nat) : Bool := m.getLsbD l

/-- The lanes of a mask, rising. -/
def lanesOf (m : Lanes) : List Nat := (List.range 32).filter (lane m)

/-- The mask of the lanes where a property holds. -/
def laneMask (f : Nat → Bool) : Lanes :=
  (List.range 32).foldl (fun acc l => if f l then acc ||| BitVec.ofNat 32 (2 ^ l) else acc) 0

/-- Vector register r in lane l. -/
def Str.vget (t : Str) (r l : Nat) : Word := tget 0 t.v (32 * r + l)

/-- A pair of vector registers in lane l, the even register low (R298). -/
def Str.vpair (t : Str) (r l : Nat) : Dword := t.vget (r + 1) l ++ t.vget r l

/-- The n registers from r in lane l as one number, the first lowest (R300). -/
def Str.vgroup (t : Str) (r n l : Nat) : Nat :=
  (List.range n).foldl (fun acc k => acc + (t.vget (r + k) l).toNat * 2 ^ (32 * k)) 0

/-- Write one lane of one vector register; poison of the register stays while other lanes keep it. -/
def Str.vput (t : Str) (r l : Nat) (w : Word) : Str := { t with v := tset 0 t.v (32 * r + l) w }

/-- A lane predicate: 7 is pt, all ones (R297). -/
def Str.pget (t : Str) (n : Nat) : Lanes := if n = 7 then BitVec.allOnes 32 else tget 0 t.p n

/-- The waybill of a vector register, a predicate (pt has none), a uniform register, a uniform predicate. -/
def Str.vw (t : Str) (r : Nat) : Waybill := tget 0 t.vwb r
def Str.pw (t : Str) (n : Nat) : Waybill := if n = 7 then 0 else tget 0 t.pwb n
def Str.sw (t : Str) (r : Nat) : Waybill := tget 0 t.swb r
def Str.qw (t : Str) (n : Nat) : Waybill := if n = 7 then 0 else tget 0 t.qwb n

/-- The waybill of the n vector registers from r; of the n uniform registers from r. -/
def Str.vws (t : Str) (r n : Nat) : Waybill := (List.range n).foldl (fun acc k => acc ||| t.vw (r + k)) 0
def Str.sws (t : Str) (r n : Nat) : Waybill := (List.range n).foldl (fun acc k => acc ||| t.sw (r + k)) 0

/-! ### Uniform registers -/

/-- Uniform register r. -/
def Str.sget (t : Str) (r : Nat) : Word := tget 0 t.s r

/-- A uniform pair, the even register low (R298). -/
def Str.spair (t : Str) (r : Nat) : Dword := t.sget (r + 1) ++ t.sget r

/-- Write uniform register r with its waybill; the write clears its poison (R90). -/
def Str.sput (t : Str) (r : Nat) (w : Word) (b : Waybill) : Str :=
  { t with s := tset 0 t.s r w, swb := tset 0 t.swb r b, regPoison := t.regPoison.filter (fun x => decide (x ≠ 128 + r)) }

/-- Write a uniform pair. -/
def Str.sputPair (t : Str) (r : Nat) (w : Dword) (b : Waybill) : Str :=
  (t.sput r (w.setWidth 32) b).sput (r + 1) (w.extractLsb' 32 32) b

/-- A uniform predicate: 7 is qt, true (R297). -/
def Str.qget (t : Str) (n : Nat) : Bool := if n = 7 then true else t.q.getLsbD n

/-- Write a uniform predicate; a write to qt is discarded (R297, R320). -/
def Str.qput (t : Str) (n : Nat) (v : Bool) (b : Waybill) : Str :=
  if n = 7 then t
  else
    { t with
      q := if v then t.q ||| BitVec.ofNat 7 (2 ^ n) else t.q &&& ~~~(BitVec.ofNat 7 (2 ^ n))
      qwb := tset 0 t.qwb n b }

/-! ### The clause predicate and results -/

/-- PRED of a header (R292). -/
def hdrPred (h : Word) : Nat := (h.extractLsb' 5 3).toNat

/-- The waybill of the clause predicate: a lane predicate, or an outrider's uniform one (R244, R349). -/
def predWb (t : Str) (p : Path) : Waybill := if t.outrider then t.qw (hdrPred p.hdr) else t.pw (hdrPred p.hdr)

/-- The waybill of a lane result (R349): its sources, the clause predicate, the flow waybill, and the destination's former
waybill when the clause mask does not hold every live lane. -/
def laneWb (t : Str) (p : Path) (src former : Waybill) : Waybill :=
  src ||| predWb t p ||| p.flow ||| (if p.cmask &&& t.lmask = t.lmask then 0 else former)

/-- The waybill of a uniform result (R315): its sources and the flow waybill. -/
def uniWb (p : Path) (src : Waybill) : Waybill := src ||| p.flow

/-- Write a value to a group of n vector registers in every lane of a mask: `f l` is the lane's number, register r + k
taking bits [32k+31:32k]. -/
def Str.vputLanes (t : Str) (r n : Nat) (m : Lanes) (f : Nat → Nat) : Str :=
  (lanesOf m).foldl (fun t l => (List.range n).foldl (fun t k => t.vput (r + k) l (BitVec.ofNat 32 (f l / 2 ^ (32 * k)))) t) t

/-- Give the n vector registers from r a waybill; a write of every live lane clears their poison. -/
def Str.vputWb (t : Str) (r n : Nat) (full : Bool) (b : Nat → Waybill) : Str :=
  (List.range n).foldl (fun t k =>
    { t with
      vwb := tset 0 t.vwb (r + k) (b (r + k))
      regPoison := if full then t.regPoison.filter (fun x => decide (x ≠ r + k)) else t.regPoison }) t

/-- A lane result in a group of n registers, with the waybill of R349. -/
def writeLanes (t : Str) (p : Path) (r n : Nat) (src : Waybill) (f : Nat → Nat) : Str :=
  (t.vputLanes r n p.cmask f).vputWb r n (p.cmask &&& t.lmask = t.lmask) (fun x => laneWb t p src (t.vw x))

/-- A lane predicate result: the lanes of the clause mask take `f`, pt discards it (R297, R354). -/
def writePred (t : Str) (p : Path) (n : Nat) (src : Waybill) (f : Nat → Bool) : Str :=
  if n = 7 then t
  else
    { t with
      p := tset 0 t.p n ((t.pget n &&& ~~~p.cmask) ||| (laneMask f &&& p.cmask))
      pwb := tset 0 t.pwb n (laneWb t p src (t.pw n)) }

end Sys2Proof.Machine
end

