-- ==== Sys2Proof/Machine/Memory.lean ====
section
/-! DEFINITION. Memory below the accesses: bytes of a line, HBM lines under their keys (R35), the granule table (R50 to R53), the second
stage (R31 to R33), the L2 with its fills and write-backs (R80 to R84), the dirty bitmap (R58) and the machine's own accesses
by guest-physical address (R480). -/

namespace Sys2Proof.Machine

/-! ### Bytes of a line -/

/-- The n bytes at offset off of a line, as a number, lowest address lowest (R5). -/
def lineGet (d : Line) (off n : Nat) : Nat := d.toNat / 2 ^ (8 * off) % 2 ^ (8 * n)

/-- The line with n bytes at off replaced. -/
def linePut (d : Line) (off n v : Nat) : Line :=
  BitVec.ofNat 1024 (d.toNat - lineGet d off n * 2 ^ (8 * off) + v % 2 ^ (8 * n) * 2 ^ (8 * off))

/-- A number's n low bytes, lowest first. -/
def bytesOf (n v : Nat) : List Byte := (List.range n).map (fun k => BitVec.ofNat 8 (v / 2 ^ (8 * k)))

/-- The number a byte list holds, lowest first. -/
def ofBytes : List Byte → Nat
  | [] => 0
  | b :: t => b.toNat + 256 * ofBytes t

/-- The 64-byte halves that n bytes at off touch, as a mask (R90). -/
def halvesOf (off n : Nat) : Nat := (if off < 64 then 1 else 0) + (if 64 < off + n then 2 else 0)

/-- The halves that n bytes at off cover whole. -/
def wholeHalves (off n : Nat) : Nat :=
  (if off = 0 ∧ 64 ≤ n then 1 else 0) + (if off ≤ 64 ∧ 128 ≤ off + n then 2 else 0)

/-! ### Host-physical space (R16) -/

inductive Region where
  | hbm
  | device
  | window
  | unpopulated
deriving DecidableEq, Repr

def regionOf (h : Nat) : Region :=
  if h < 0x9000000000 then .hbm
  else if 0x8000000000000 ≤ h ∧ h < 0x8000100000000 then .device
  else if 0xC000000000000 ≤ h ∧ h < 0x10000000000000 then .window
  else .unpopulated

/-- The first byte of the steward region (R17). -/
def State.stwBase (s : State) : Nat := (s.pkg 0x06F).toNat % 1024 * 2 ^ 30

/-- In the steward region? -/
def State.inSteward (s : State) (h : Nat) : Bool := decide (s.stwBase ≤ h) && decide (h < 0x9000000000)

/-- The memory key of a world, as a number (R35, R443). -/
def State.memKey (s : State) (w : Nat) : Nat := tget w s.tr.keys w

/-! ### HBM lines -/

/-- The stored bytes of a host-physical line. -/
def rawLine (m : MemS) (hl : Nat) : Line :=
  BitVec.ofNat 1024 ((List.range 128).foldr (fun k acc => (tget 0 m.hbm (hl * 128 + k)).toNat + 256 * acc) 0)

/-- Store bytes of a line. -/
def putRaw (m : MemS) (hl : Nat) (d : Line) : MemS :=
  { m with hbm := (List.range 128).foldl (fun c k => tset 0 c (hl * 128 + k) (BitVec.ofNat 8 (lineGet d k 1))) m.hbm }

/-- Read a line under a key and tweak (R35): zeros for a zero line; under another key or tweak than it was written with, its ciphertext
decrypted so. The state holds the plaintext with the key and the tweak (PRESUMED, log 16). -/
def readKeyed (m : MemS) (hl key tweak : Nat) : Line × Bool :=
  match tfind m.keyed hl with
  | none => (0, true)
  | some (k, t) =>
    if k = key ∧ t = tweak then (rawLine m hl, false)
    else (xtsDec (Config.xtsKey key) tweak (xtsEnc (Config.xtsKey k) t (rawLine m hl)), false)

/-- Write a line under a key and tweak: it is no zero line any more. -/
def writeKeyed (m : MemS) (hl key tweak : Nat) (d : Line) : MemS :=
  { putRaw m hl d with keyed := tput m.keyed hl (key, tweak) }

/-- Make a line a zero line (R35). -/
def zeroLine (m : MemS) (hl : Nat) : MemS :=
  { putRaw m hl 0 with
    keyed := terase m.keyed hl
    hpoison := terase (terase m.hpoison (2 * hl)) (2 * hl + 1) }

/-- Poisoned halves of a host-physical line (R90). -/
def hbmPoison (m : MemS) (hl : Nat) : Nat :=
  (if tget false m.hpoison (2 * hl) then 1 else 0) + (if tget false m.hpoison (2 * hl + 1) then 2 else 0)

def setHbmPoison (m : MemS) (hl p : Nat) : MemS :=
  { m with hpoison := tset false (tset false m.hpoison (2 * hl) (p % 2 == 1)) (2 * hl + 1) (p / 2 % 2 == 1) }

/-! ### The L2 by key -/

/-- The key of a line in the L2: tag world, whether its address is host-physical (world 0), and line number (DEDUCED, log 26). -/
def l2Key (ident : Bool) (tag line : Nat) : Nat := ((if ident then 256 else 0) + tag) * 2 ^ 45 + line

def State.l2? (s : State) (ident : Bool) (tag line : Nat) : Option L2Line := tfind s.mem.l2 (l2Key ident tag line)

def State.putL2 (s : State) (ident : Bool) (tag line : Nat) (l : L2Line) : State :=
  { s with mem := { s.mem with l2 := tput s.mem.l2 (l2Key ident tag line) l } }

def State.dropL2 (s : State) (ident : Bool) (tag line : Nat) : State :=
  { s with mem := { s.mem with l2 := terase s.mem.l2 (l2Key ident tag line) } }

/-- The home of a line: die, slice and set in one number (R80). -/
def l2Home (line : Nat) : Nat :=
  let g := line * 128
  let die := (g / 2 ^ 7 % 4) ^^^ (g / 2 ^ 19 % 4) ^^^ (g / 2 ^ 31 % 4)
  let slice := (g / 2 ^ 9 % 64) ^^^ (g / 2 ^ 21 % 64) ^^^ (g / 2 ^ 33 % 64)
  (die * 64 + slice) * 8192 + g / 2 ^ 15 % 8192

/-- The home die of a line. -/
def homeDie (line : Nat) : Nat := l2Home line / (64 * 8192)

/-! ### World 0's own lines and the granule table -/

/-- Fills of a line on their way to the L2, with what they bring changed. -/
def onFill (m : MemS) (ident : Bool) (tag line : Nat) (f : Line × Bool × Waybill × Nat → Line × Bool × Waybill × Nat) : MemS :=
  { m with reqs := m.reqs.map (fun r =>
      if r.stage = Stage.fill ∧ r.ident = ident ∧ r.tag = tag ∧ r.line = line then { r with got := r.got.map f } else r) }

/-- Eight bytes or fewer of the steward's memory at a host-physical address, through the L2 where it holds the line. -/
def State.hostRead (s : State) (h n : Nat) : Nat :=
  match s.l2? true 0 (h / 128) with
  | some l => lineGet l.data (h % 128) n
  | none => lineGet (readKeyed s.mem (h / 128) (s.memKey 0) (h / 128)).1 (h % 128) n

/-- Write bytes of the steward's memory, in the L2 where it holds the line; a fill of it on its way brings them too (R81). -/
def State.hostWrite (s : State) (h n v : Nat) : State :=
  match s.l2? true 0 (h / 128) with
  | some l => s.putL2 true 0 (h / 128) { l with data := linePut l.data (h % 128) n v, zero := false, dirty := true }
  | none =>
    let d := (readKeyed s.mem (h / 128) (s.memKey 0) (h / 128)).1
    let m := writeKeyed s.mem (h / 128) (s.memKey 0) (h / 128) (linePut d (h % 128) n v)
    { s with mem := onFill m true 0 (h / 128) (fun g => (linePut g.1 (h % 128) n v, false, g.2.2)) }

/-- The granule-table entry of host-physical granule g (R50). -/
def State.gran (s : State) (g : Nat) : Word := BitVec.ofNat 32 (s.hostRead (s.stwBase + 4 * g) 4)

def State.setGran (s : State) (g : Nat) (e : Word) : State :=
  if s.gran g = e then s else s.hostWrite (s.stwBase + 4 * g) 4 e.toNat

def granSealed (e : Word) : Bool := e.getLsbD 31
def granOffline (e : Word) : Bool := e.getLsbD 30
def granUcount (e : Word) : Nat := (e.extractLsb' 24 6).toNat
def granOwner (e : Word) : Nat := (e.extractLsb' 16 8).toNat
def granWb (e : Word) : Waybill := e.extractLsb' 0 16
def granMake (sealed offline : Bool) (uc owner : Nat) (wb : Waybill) : Word :=
  BitVec.ofBool sealed ++ BitVec.ofBool offline ++ BitVec.ofNat 6 uc ++ BitVec.ofNat 8 owner ++ wb

/-- The owner of a host-physical address; the steward region belongs to world 0 (R17). -/
def State.ownerOf (s : State) (h : Nat) : Nat :=
  if s.inSteward h then 0 else if regionOf h = .hbm then granOwner (s.gran (h / 4096)) else 0

/-- The waybill of the granule at a host-physical address; OR into it (R53). -/
def State.granWaybill (s : State) (h : Nat) : Waybill := if regionOf h = .hbm then granWb (s.gran (h / 4096)) else 0
def State.orGranWb (s : State) (h : Nat) (wb : Waybill) : State :=
  if wb = 0 then s
  else
    let e := s.gran (h / 4096)
    s.setGran (h / 4096) (e ||| wb.setWidth 32)

/-- Replace a granule's waybill (R53, R111). -/
def State.setGranWb (s : State) (h : Nat) (wb : Waybill) : State :=
  let g := s.gran (h / 4096)
  s.setGran (h / 4096) (granMake (granSealed g) (granOffline g) (granUcount g) (granOwner g) wb)

/-! ### The second stage (R31 to R33) -/

/-- Bits of an entry: SIZE, and the frame address. -/
def entSize (e : Dword) : Nat := (e.extractLsb' 10 2).toNat
def entFrame (e : Dword) : Nat := (e.extractLsb' 12 40).toNat * 4096

/-- log2 of a page of a SIZE code. -/
def pageBits (size : Nat) : Nat :=
  match size with
  | 0 => 12
  | 1 => 16
  | 2 => 21
  | _ => 30

/-- The SIZE a leaf of level n may carry. -/
def leafSize (n size : Nat) : Bool :=
  match n with
  | 0 => size == 0 || size == 1
  | 1 => size == 2
  | 2 => size == 3
  | _ => false

/-- The entry of a second-stage table at a level that a walk follows for an address: of a 64 KiB page the one it has read, or any of the
sixteen where they differ (R29, R31) (DESIGN CHOICE, log 117). -/
def s2Entry (s : State) (gpa base n : Nat) : Dword :=
  let idx := gpa / 2 ^ (12 + 9 * n) % (if n = 3 then 8192 else 512)
  let e : Dword := BitVec.ofNat 64 (s.hostRead (base + 8 * idx) 8)
  if n = 0 ∧ e.getLsbD 0 ∧ entSize e = 1 then
    let e' : Dword := BitVec.ofNat 64 (s.hostRead (base + 8 * (idx / 16 * 16 + (Config.sixteenth (s.fresh + gpa / 2 ^ 16)).toNat)) 8)
    if e = e' then e else e'
  else e

/-- The second-stage walk from level n: the leaf that maps a guest-physical address. A malformed entry is no mapping. -/
def s2Walk (s : State) (gpa : Nat) : Nat → Nat → Option (Nat × Dword)
  | base, n =>
    let rec go : Nat → Nat → Nat → Option (Nat × Dword)
      | 0, _, _ => none
      | f + 1, base, n =>
        let e := s2Entry s gpa base n
        if !e.getLsbD 0 then none
        else if 1 ≤ n ∧ entSize e = 0 then go f (entFrame e) (n - 1)
        else if leafSize n (entSize e) && entFrame e % 2 ^ pageBits (entSize e) == 0 then some (entSize e, e)
        else none
    go 4 base n

/-- The second-stage leaf covering a guest-physical address of a partition, from the complex's cache or the tables; one
that names device, unpopulated or steward space counts as not mapped (R16), and so does an address of more than 52 bits (R15). -/
def State.s2Leaf (s : State) (part gpa : Nat) : Option (Nat × Dword) :=
  if 2 ^ 52 ≤ gpa then none else
  let cached := (tget [] s.xl.s2c part).find? (fun e => e.gpn == gpa / 2 ^ pageBits e.size * 2 ^ (pageBits e.size - 12))
  let r := match cached with
    | some e => some (e.size, e.entry)
    | none =>
      let root := s.preg part 0x063
      if root.getLsbD 0 then s2Walk s gpa ((root.extractLsb' 16 36).toNat * 65536) 3 else none
  match r with
  | none => none
  | some (sz, e) =>
    let h := entFrame e + gpa % 2 ^ pageBits sz
    if regionOf h = .device ∨ regionOf h = .unpopulated ∨ s.inSteward h then none else some (sz, e)

/-- Keep a second-stage leaf in the complexes' cache: one for the package and a partition, which gives nothing up of itself; R42 removes entries
(DESIGN CHOICE, log 137). -/
def State.keepS2 (s : State) (part gpa : Nat) : State :=
  match s.s2Leaf part gpa with
  | none => s
  | some (sz, e) =>
    let ent : S2E := ⟨part, gpa / 2 ^ pageBits sz * 2 ^ (pageBits sz - 12), sz, e⟩
    let l := tget [] s.xl.s2c part
    if ent ∈ l then s else { s with xl := { s.xl with s2c := tset [] s.xl.s2c part (ent :: l) } }

/-- What the second stage says of a guest-physical range (R24, R33): the address of its first byte without a mapping, or the permissions RD, WR
and EX that every leaf covering it gives. -/
def State.s2Range (s : State) (part : Nat) : Nat → Nat → Nat → Except Nat (Bool × Bool × Bool)
  | 0, _, _ => .ok (true, true, true)
  | f + 1, a, b =>
    if b ≤ a then .ok (true, true, true)
    else match s.s2Leaf part a with
      | none => .error a
      | some (sz, e) =>
        (State.s2Range s part f ((a / 2 ^ pageBits sz + 1) * 2 ^ pageBits sz) b).map
          (fun r => (r.1 && e.getLsbD 1, r.2.1 && e.getLsbD 2, r.2.2 && e.getLsbD 3))

/-- The host-physical address of a line's byte: world 0's is the address itself (R15). -/
def State.physOf (s : State) (ident : Bool) (tag gpa : Nat) : Option Nat :=
  if ident then some gpa
  else
    match s.topPart tag with
    | none => none
    | some p => (s.s2Leaf p gpa).map (fun r => entFrame r.2 + gpa % 2 ^ pageBits r.1)

/-! ### The dirty bitmap (R58) -/

/-- The bitmap range of a partition. -/
def dmapBytes (ctl : Dword) : Nat := 2 ^ ((ctl.extractLsb' 0 6).toNat - 15)

/-- Is a host-physical address in a partition's dirty-bitmap range, served as atomic-home (R59)? A sys.dmap of 0, as after reset, names no range
(DESIGN CHOICE, log 120). -/
def State.inDmap (s : State) (h : Nat) : Bool :=
  (List.range 24).any (fun p =>
    let b := (s.preg p 0x064).toNat
    decide (b ≠ 0) && decide (b ≤ h) && decide (h < b + dmapBytes (s.preg p 0x065)))

/-- Set the bit of a guest-physical page of a partition while tracking is on. -/
def State.markDirty (s : State) (part gpa : Nat) : State :=
  let ctl := s.preg part 0x065
  if !ctl.getLsbD 31 then s
  else if 2 ^ (ctl.extractLsb' 0 6).toNat ≤ gpa then s.setPreg part 0x065 (ctl ||| 0x40000000#64)
  else
    let g := gpa / 4096
    let h := (s.preg part 0x064).toNat + g / 8
    let b := s.hostRead h 1
    if b / 2 ^ (g % 8) % 2 = 1 then s else s.hostWrite h 1 (b + 2 ^ (g % 8))

/-- ... for a line of a tag world: world 0 has no partition. -/
def State.markDirtyFor (s : State) (ident : Bool) (tag gpa : Nat) : State :=
  if ident then s
  else match s.topPart tag with
    | none => s
    | some p => s.markDirty p gpa

/-! ### The accounts of the controllers (R85, R286) -/

/-- The stack of a host-physical address (R85). -/
def stackOf (h : Nat) : Nat := h / 4096 % 12

/-- Charge n lines to a partition and, for a child, to its parent; world 0's lines have an account of their own (R286, R479). -/
def State.chargeLines (s : State) (stack : Nat) (part : Option Nat) (n : Nat) : State :=
  let add := fun (b : Table Nat) q => tset 0 b (stack * 32 + q) (tget 0 b (stack * 32 + q) + n)
  match part with
  | none => { s with mem := { s.mem with bw := add s.mem.bw 24 } }
  | some p =>
    let b := add s.mem.bw p
    { s with mem := { s.mem with bw := if s.topOf p = p then b else add b (s.topOf p) } }

/-- Charge one line. -/
def State.charge (s : State) (stack : Nat) (part : Option Nat) : State := s.chargeLines stack part 1

/-! ### Lines between the L2 and HBM -/

/-- What memory gives for a line: data, zero flag, waybill and poisoned halves; none without a mapping to HBM. -/
def State.fetchLine (s : State) (ident : Bool) (tag line : Nat) : Option (Line × Bool × Waybill × Nat) :=
  match s.physOf ident tag (line * 128) with
  | none => none
  | some h =>
    if regionOf h = .hbm then
      let (d, z) := readKeyed s.mem (h / 128) (s.memKey (s.ownerOf h)) line
      some (d, z, s.granWaybill h, hbmPoison s.mem (h / 128))
    else none

/-- A fill on its way brings what its controller now holds: a line written to memory after the fill read it (R81). -/
def State.refill (s : State) (ident : Bool) (tag line : Nat) : State :=
  match s.fetchLine ident tag line with
  | none => s
  | some g => { s with mem := onFill s.mem ident tag line (fun _ => g) }

/-- A line written to its controller (R35, R53, R58); without a mapping it is discarded and logged to the steward (R36). The spec gives that
record neither a format nor a place: it is a message of kind 1 to the outside (DESIGN CHOICE, log 121). -/
def State.storeLine (s : State) (ident : Bool) (tag line : Nat) (d : Line) (wb : Waybill) (poison : Nat) : State :=
  match s.physOf ident tag (line * 128) with
  | none => { s with outbox := s.outbox ++ [⟨1, [tag, line * 128], []⟩] }
  | some h =>
    if regionOf h = .hbm then
      let s := { s with mem := setHbmPoison (writeKeyed s.mem (h / 128) (s.memKey (s.ownerOf h)) line d) (h / 128) poison }
      (((s.orGranWb h wb).markDirtyFor ident tag (line * 128)).refill ident tag line).charge (stackOf h) (if ident then none else s.partOf tag)
    else s

/-- Write back one L2 line if it is dirty. -/
def State.cleanL2 (s : State) (ident : Bool) (tag line : Nat) : State :=
  match s.l2? ident tag line with
  | none => s
  | some l =>
    if l.dirty then (s.storeLine ident tag line l.data l.wb l.poison).putL2 ident tag line { l with dirty := false } else s

/-- The ident flag, tag world and line of an L2 key. -/
def keyIdent (k : Nat) : Bool := decide (256 ≤ k / 2 ^ 45)
def keyTag (k : Nat) : Nat := k / 2 ^ 45 % 256
def keyLine (k : Nat) : Nat := k % 2 ^ 45

/-- Does a constant or instruction cache or a TLB of a core still hold what it kept under a number? Its replacement is open, so any of it may
have gone (DESIGN CHOICE, log 116). -/
def State.keeps (s : State) (core n : Nat) : Bool := !Config.replaced (s.stamp + s.time) core n

/-- Make room in a line's set: with 16 lines there, one is written back and dropped (R80, R81); which one is not
architecturally visible. -/
def State.evictFor (s : State) (line : Nat) : State :=
  let here := (tkeys s.mem.l2).filter (fun k => l2Home (keyLine k) == l2Home line)
  if 16 ≤ here.length then
    match here with
    | [] => s
    | k :: _ => (s.cleanL2 (keyIdent k) (keyTag k) (keyLine k)).dropL2 (keyIdent k) (keyTag k) (keyLine k)
  else s

/-- Install a line that memory gave (R82). -/
def State.installL2 (s : State) (ident : Bool) (tag line : Nat) (g : Line × Bool × Waybill × Nat) : State :=
  (s.evictFor line).putL2 ident tag line ⟨g.1, g.2.1, false, g.2.2.1, g.2.2.2⟩

/-- Bring a line into the L2 at once (the machine's own accesses and table walks). -/
def State.ensureL2 (s : State) (ident : Bool) (tag line : Nat) : Option State :=
  match s.l2? ident tag line with
  | some _ => some s
  | none => (s.fetchLine ident tag line).map (fun g =>
      (s.installL2 ident tag line g).charge (stackOf ((s.physOf ident tag (line * 128)).getD 0)) (if ident then none else s.partOf tag))

/-- Bytes of one line written at the L2 by the machine or the host (R81, R82, R90, R428): the waybill grows, since neither an instruction nor a chunk
writes; a write of a whole half clears its poison. -/
def L2Line.write (l : L2Line) (off n v : Nat) (wb : Waybill) : L2Line :=
  let whole := wholeHalves off n
  { data := linePut l.data off n v, zero := false, dirty := true
    wb := l.wb ||| wb
    poison := (if whole % 2 = 1 then 0 else l.poison % 2) + (if whole / 2 = 1 then 0 else l.poison / 2 * 2) }

/-- Is a byte served by its atomic unit whatever translation reaches it (R59)? -/
def State.unitServed (s : State) (ident : Bool) (tag gpa : Nat) : Bool := ((s.physOf ident tag gpa).map s.inDmap).getD false

/-- Read n bytes of one line through the L2, bringing it in; those of a dirty bitmap at their atomic unit (R59). -/
def State.readL2 (s : State) (ident : Bool) (tag gpa n : Nat) : Option (Nat × Waybill × State) :=
  if s.unitServed ident tag gpa then (s.fetchLine ident tag (gpa / 128)).map (fun g => (lineGet g.1 (gpa % 128) n, g.2.2.1, s))
  else match s.ensureL2 ident tag (gpa / 128) with
  | none => none
  | some s =>
    match s.l2? ident tag (gpa / 128) with
    | none => none
    | some l => some (lineGet l.data (gpa % 128) n, l.wb, s)

/-- Write n bytes of one line at the L2, bringing it in unless all of it is written; those of a dirty bitmap at their atomic unit (R59). -/
def State.writeL2 (s : State) (ident : Bool) (tag gpa n v : Nat) (wb : Waybill) : Option State :=
  if s.unitServed ident tag gpa then
    (s.fetchLine ident tag (gpa / 128)).map (fun g =>
      let l := L2Line.write ⟨g.1, g.2.1, false, 0, g.2.2.2⟩ (gpa % 128) n v wb
      s.storeLine ident tag (gpa / 128) l.data l.wb l.poison)
  else match s.ensureL2 ident tag (gpa / 128) with
  | none => none
  | some s =>
    match s.l2? ident tag (gpa / 128) with
    | none => none
    | some l => some (s.putL2 ident tag (gpa / 128) (l.write (gpa % 128) n v wb))

/-! ### The machine's own accesses (R480) -/

/-- Claim an unowned granule for a world (R52). -/
def State.claim (s : State) (h w : Nat) : State :=
  if regionOf h = .hbm ∧ !s.inSteward h then
    let e := s.gran (h / 4096)
    if granOwner e = 0 ∧ w ≠ 0 then s.setGran (h / 4096) (granMake (granSealed e) (granOffline e) (granUcount e) w (granWb e)) else s
  else s

/-- The kernel world of a partition. -/
def State.kernelWorld (s : State) (p : Nat) : Nat := tget 0 s.xl.kernel p

/-- The world an access by the hub at a partition's guest-physical address is made in, the granule claimed if unowned;
without a partition it is world 0's. -/
def State.hubWorld (s : State) (part : Option Nat) (gpa : Nat) : Option (Bool × Nat × State) :=
  match part with
  | none => some (true, 0, s)
  | some p =>
    match s.s2Leaf (s.topOf p) gpa with
    | none => none
    | some (sz, e) =>
      let h := entFrame e + gpa % 2 ^ pageBits sz
      let s := s.claim h (s.kernelWorld p)
      some (false, s.ownerOf h, s)

/-- Read bytes of one line of a structure named by a partition's register, or by the steward's. -/
def State.hubRead (s : State) (part : Option Nat) (gpa n : Nat) : Option (Nat × State) :=
  match s.hubWorld part gpa with
  | none => none
  | some (id, w, s) => (s.readL2 id w gpa n).map (fun r => (r.1, r.2.2))

/-- Does an access by the hub reach a sealed granule? No agent can write one (R439). -/
def State.hubSealed (s : State) (part : Option Nat) (gpa : Nat) : Bool :=
  let h := match part with
    | none => gpa
    | some p => match s.s2Leaf (s.topOf p) gpa with
      | none => 2 ^ 52
      | some (sz, e) => entFrame e + gpa % 2 ^ pageBits sz
  regionOf h == .hbm && granSealed (s.gran (h / 4096))

/-- Write bytes of one line of one; a write to a sealed granule is lost (DESIGN CHOICE, log 136). -/
def State.hubWrite (s : State) (part : Option Nat) (gpa n v : Nat) (wb : Waybill) : Option State :=
  if s.hubSealed part gpa then none
  else match s.hubWorld part gpa with
  | none => none
  | some (id, w, s) => s.writeL2 id w gpa n v wb

/-- The addresses and sizes of the pieces of n bytes that lie inside blocks of 64 bytes, in order. -/
def pieces64 (a n : Nat) : List (Nat × Nat) :=
  (List.range ((a % 64 + n + 63) / 64)).map (fun k =>
    let lo := max a ((a / 64 + k) * 64)
    (lo, min (a + n) ((a / 64 + k + 1) * 64) - lo))

/-- Read n bytes, piece by piece; an unmapped piece reads 0. -/
def State.hubBytes (s : State) (part : Option Nat) (gpa n : Nat) : List Byte × State :=
  (pieces64 gpa n).foldl (fun r c => match r.2.hubRead part c.1 c.2 with
    | none => (r.1 ++ List.replicate c.2 0, r.2)
    | some (v, s) => (r.1 ++ bytesOf c.2 v, s)) ([], s)

/-- Write bytes in order; an unmapped piece is lost. -/
def State.hubPut (s : State) (part : Option Nat) (gpa : Nat) (wb : Waybill) (bs : List Byte) : State :=
  (pieces64 gpa bs.length).foldl (fun s c =>
    (s.hubWrite part c.1 c.2 (ofBytes ((bs.drop (c.1 - gpa)).take c.2)) wb).getD s) s

/-- One record of `sz` bytes appended to a ring laid out as R56; a full ring drops it and counts the drop. A control-block address of 0, as after
reset, names no ring, and the record is lost (DESIGN CHOICE, log 122). -/
def State.ringPutN (s : State) (part : Option Nat) (ctl sz rec : Nat) (wb : Waybill) : State :=
  if ctl = 0 then s
  else match s.hubRead part ctl 8 with
  | none => s
  | some (head, s) =>
    match s.hubRead part (ctl + 8) 8, s.hubRead part (ctl + 24) 8 with
    | some (tail, _), some (cap, _) =>
      let k := max 6 (min 20 cap)
      if (head + 2 ^ 64 - tail) % 2 ^ 64 = 2 ^ k then
        match s.hubRead part (ctl + 16) 8 with
        | none => s
        | some (d, s) => (s.hubWrite part (ctl + 16) 8 (d + 1) 0).getD s
      else
        let s := s.hubPut part (ctl + 64 + head % 2 ^ k * sz) wb (bytesOf sz rec)
        (s.hubWrite part ctl 8 (head + 1) 0).getD s
    | _, _ => s

/-- A record of 32 bytes, with no waybill. -/
def State.ringPut (s : State) (part : Option Nat) (ctl : Nat) (rec : Nat) : State := s.ringPutN part ctl 32 rec 0

end Sys2Proof.Machine
end

