-- ==== Sys2Proof/Machine/Translate.lean ====
section
/-! DEFINITION. Translation (R14 to R40, R52, R83): the first-stage walk, the checks of a leaf, the TLBs, the granule checks, and
removing translations (R42, R26). -/

namespace Sys2Proof.Machine

/-! ### Access types (R39) -/

def aLoad := 0
def aStore := 1
def aAtomic := 2
def aFetch := 3
def aEngRead := 4
def aEngWrite := 5
def aUniLoad := 6
def aUniStore := 7

/-- Write-type accesses (R24). -/
def isWrite (acc : Nat) : Bool := acc == 1 || acc == 2 || acc == 5 || acc == 7

/-- sys.tinfo (R39). -/
def tinfoWord (lane reason level stage access : Nat) : Word :=
  BitVec.ofNat 32 (lane % 32 * 2 ^ 27 + reason % 16 * 2 ^ 20 + level % 8 * 2 ^ 17 + stage % 2 * 2 ^ 16 + access % 8 * 2 ^ 13)

/-- Bits of a first-stage leaf (R21). -/
def lfV (e : Dword) : Bool := e.getLsbD 0
def lfW (e : Dword) : Bool := e.getLsbD 1
def lfX (e : Dword) : Bool := e.getLsbD 2
def lfUser (e : Dword) : Bool := e.getLsbD 3
def lfHome (e : Dword) : Bool := e.getLsbD 4
def lfAtom (e : Dword) : Bool := e.getLsbD 5
def lfZero (e : Dword) : Bool := e.getLsbD 6
def lfSeal (e : Dword) : Bool := e.getLsbD 7
def lfD (e : Dword) : Bool := e.getLsbD 8
def lfA (e : Dword) : Bool := e.getLsbD 9

/-- Canonical addresses (R14). -/
def canonical (va : Dword) : Bool :=
  let top := va.toNat / 2 ^ 56
  top == 0 || top == 255

/-- A failed check: its rank in the order of checks, the cause, and what sys.tinfo says. -/
structure XFault where
  rank : Nat
  cause : Nat
  reason : Nat
  level : Nat
  stage : Nat
deriving DecidableEq, Repr

/-- A translation. `tag` is the world the line carries at the L2, `owner` the granule's owner. -/
structure Xlat where
  gpa : Nat
  ident : Bool
  tag : Nat
  cross : Bool
  owner : Nat
  leaf : Dword
  size : Nat
  region : Region
  atom : Bool
deriving DecidableEq, Repr

inductive XRes where
  | ok (x : Xlat)
  /-- PSIZE, and whether write ownership is wanted (R22, R97) -/
  | park (size : Nat) (own : Bool)
  | trap (f : XFault)
deriving DecidableEq, Repr

/-! ### The walk (R19 to R23, R30) -/

/-- Malformed entries at level n (R23). -/
def malformed (n : Nat) (e : Dword) : Bool :=
  let size := entSize e
  if 3 ≤ n then (lfV e && size != 0) || lfHome e
  else
    let badSize := if n = 0 then size == 2 || size == 3 else size != 0 && !leafSize n size
    let homePtr := decide (1 ≤ n) && lfHome e && size == 0
    let frame := leafSize n size && entFrame e % 2 ^ pageBits size != 0
    let mix := (lfHome e && (lfAtom e || lfZero e)) || (lfAtom e && lfZero e) || (lfSeal e && (lfHome e || lfAtom e || lfZero e))
    badSize || homePtr || (leafSize n size && (frame || mix))

/-- Where an entry of a world's table stands at the L2: in the space of its granule's owner, whoever that is (R52), and for a granule no world
owns as the steward's own line, unclaimed; with its second-stage entry and host-physical address (DEDUCED, log 123). -/
def State.tablePlace (s : State) (world gpa : Nat) : Option (Bool × Nat × Nat × Dword × Nat) :=
  match s.topPart world with
  | none => none
  | some p =>
    match s.s2Leaf p gpa with
    | none => none
    | some (sz, e) =>
      let h := entFrame e + gpa % 2 ^ pageBits sz
      let o := s.ownerOf h
      some (if o = 0 then (true, 0, h, e, h) else (false, o, gpa, e, h))

/-- What the walk finds: a leaf with its entry's address and level, or a fault: its cause, reason, level and stage. -/
inductive Walk where
  | leaf (e : Dword) (at_ : Nat) (n : Nat)
  | bad (cause reason level stage : Nat)
deriving DecidableEq, Repr

/-- The level at which the second stage fails for an address (for sys.tinfo LEVEL). -/
def State.s2Level (s : State) (part gpa : Nat) : Nat :=
  match s.s2Leaf part gpa with
  | some (2, _) => 1
  | some (3, _) => 2
  | some _ => 0
  | none =>
    let root := s.preg part 0x063
    if !root.getLsbD 0 then 3
    else
      let e3 : Dword := BitVec.ofNat 64 (s.hostRead ((root.extractLsb' 16 36).toNat * 65536 + 8 * (gpa / 2 ^ 39 % 8192)) 8)
      if !e3.getLsbD 0 || entSize e3 != 0 then 3
      else
        let e2 : Dword := BitVec.ofNat 64 (s.hostRead (entFrame e3 + 8 * (gpa / 2 ^ 30 % 512)) 8)
        if !e2.getLsbD 0 || entSize e2 != 0 then 2
        else
          let e1 : Dword := BitVec.ofNat 64 (s.hostRead (entFrame e2 + 8 * (gpa / 2 ^ 21 % 512)) 8)
          if !e1.getLsbD 0 || entSize e1 != 0 then 1 else 0

/-- Eight bytes of a table of a world, through the L2 (R30). The second stage must map the entry and permit a read, and its granule must not be
OFFLINE (R33). -/
def State.tableRead (s : State) (world gpa : Nat) : Except Walk (Dword × State) :=
  let lvl := s.s2Level ((s.topPart world).getD 24) gpa
  match s.tablePlace world gpa with
  | none => .error (.bad cPAGE 9 lvl 1)
  | some (ident, tag, a, e, h) =>
    if !e.getLsbD 1 then .error (.bad cPROT 10 lvl 1)
    else if regionOf h = .hbm ∧ granOffline (s.gran (h / 4096)) then .error (.bad cPAGE 11 lvl 1)
    else match s.readL2 ident tag a 8 with
      | none => .error (.bad cPAGE 9 lvl 1)
      | some r => .ok (BitVec.ofNat 64 r.1, r.2.2)

/-- Replace a table entry, as the walker's and the waystation's compare-and-swap does (R25, R112). -/
def State.tableWrite (s : State) (world gpa : Nat) (e : Dword) : State :=
  match s.tablePlace world gpa with
  | none => s
  | some (ident, tag, a, _, _) => (s.writeL2 ident tag a 8 e.toNat 0).getD s

/-- The entry of a 64 KiB page that the walk follows (R29): the one it has read, or any of the sixteen where they differ but for A and D. -/
def State.follow64 (s : State) (world a : Nat) (e : Dword) : Dword × Nat × State :=
  let a' := a / 128 * 128 + 8 * (Config.sixteenth s.fresh).toNat
  match s.tableRead world a' with
  | .error _ => (e, a, s)
  | .ok (e', s') => if (e ^^^ e') &&& ~~~(0x300#64) = 0 then (e, a, s) else (e', a', { s' with fresh := s'.fresh + 1 })

/-- The walk from a table at level n, keeping pointers in the die's walk cache. -/
def walkFrom (world va die : Nat) : Nat → Nat → Nat → State → Walk × State
  | 0, _, _, s => (.bad cPAGE 1 0 0, s)
  | f + 1, base, n, s =>
    let pfx := va % 2 ^ 57 / 2 ^ (12 + 9 * n)
    match (tget [] s.xl.wcache die).find? (fun w => w.world == world && w.lvl == n && w.pfx == pfx) with
    | some w => walkFrom world va die f w.next (n - 1) s
    | none =>
      let a := base + 8 * (pfx % 512)
      match s.tableRead world a with
      | .error w => (w, s)
      | .ok (e, s) =>
        if decide (1 ≤ n) && lfV e && entSize e == 0 && !lfHome e then
          let ent : WalkE := ⟨world, n, pfx, entFrame e⟩
          let s := { s with xl := { s.xl with wcache := tset [] s.xl.wcache die ((ent :: tget [] s.xl.wcache die).take 1024) } }
          walkFrom world va die f (entFrame e) (n - 1) s
        else if !lfV e && !lfHome e then (.bad cPAGE 0 n 0, s)
        else
          let (e, a, s) := if n = 0 ∧ entSize e = 1 then s.follow64 world a e else (e, a, s)
          if !lfV e && !lfHome e then (.bad cPAGE 0 n 0, s)
          else if malformed n e then (.bad cPAGE 1 n 0, s)
          else (.leaf e a n, s)

/-- The first-stage walk of a world (R30). -/
def State.walk (s : State) (world va die : Nat) : Walk × State :=
  let root := s.wreg world 0x060
  if root.getLsbD 0 then walkFrom world va die 5 (entFrame root) 4 s else (.bad cPAGE 0 4 0, s)

/-! ### TLBs (R37) -/

/-- Does an entry cover an address of a world? -/
def TlbE.covers (e : TlbE) (world vpn : Nat) : Bool :=
  e.world == world && vpn / 2 ^ (pageBits e.size - 12) == e.vpn / 2 ^ (pageBits e.size - 12)

/-- May an entry serve the access: a write needs D (R25), and not a ZERO page's first write (R26). -/
def TlbE.serves (e : TlbE) (acc : Nat) : Bool := !isWrite acc || (lfD e.leaf && !lfZero e.leaf)

/-- Put an entry first in a TLB of `sets` sets of `ways` ways, in place of one for the same page; a full set gives up its oldest (R37). A set is
the page's number modulo the number of sets (DESIGN CHOICE, log 116). -/
def tlbPut (l : List TlbE) (sets ways : Nat) (e : TlbE) : List TlbE :=
  let setOf := fun (x : TlbE) => x.vpn / 2 ^ (pageBits x.size - 12) % sets
  let l := l.filter (fun x => !(x.world == e.world && x.vpn == e.vpn && x.size == e.size))
  let mine := l.filter (fun x => setOf x == setOf e)
  e :: (if ways ≤ mine.length then l.filter (fun x => some x != mine.getLast?) else l)

/-- Fill the core's data or fetch TLB and the die TLB. -/
def State.tlbFill (s : State) (core : Nat) (fetch : Bool) (e : TlbE) : State :=
  let x := s.xl
  let die := dieOf core
  let x := { x with dtlb := tset [] x.dtlb die (tlbPut (tget [] x.dtlb die) 2048 8 e) }
  let x := if fetch then { x with ftlb := tset [] x.ftlb core (tlbPut (tget [] x.ftlb core) 1 32 e) }
    else { x with ctlb := tset [] x.ctlb core (tlbPut (tget [] x.ctlb core) 1 128 e) }
  { s with xl := x }

/-- The cached entry for an access: the core's TLB, then the die's. -/
def State.tlbFind (s : State) (core : Nat) (fetch : Bool) (world vpn acc : Nat) : Option TlbE :=
  let f := fun e => TlbE.covers e world vpn && TlbE.serves e acc && s.keeps core vpn
  match (if fetch then tget [] s.xl.ftlb core else tget [] s.xl.ctlb core).find? f with
  | some e => some e
  | none => (tget [] s.xl.dtlb (dieOf core)).find? f

/-- Remove the entries that match, from every TLB; and pointers from every walk cache. -/
def State.tlbDrop (s : State) (f : TlbE → Bool) (g : WalkE → Bool) : State :=
  let cut (t : Table (List TlbE)) : Table (List TlbE) :=
    (t.map (fun e => (e.1, e.2.filter (fun x => !f x)))).filter (fun e => e.2 != [])
  let cutW (t : Table (List WalkE)) : Table (List WalkE) :=
    (t.map (fun e => (e.1, e.2.filter (fun x => !g x)))).filter (fun e => e.2 != [])
  { s with xl := { s.xl with dtlb := cut s.xl.dtlb, ctlb := cut s.xl.ctlb, ftlb := cut s.xl.ftlb, wcache := cutW s.xl.wcache } }

/-- The zero tags of a page leave every L1 (R76). -/
def State.dropZeroTags (s : State) (world gpn size : Nat) : State :=
  let gone := fun (c : CLine) =>
    decide (16 ≤ c.way) && c.world == world && c.line * 128 / 2 ^ pageBits size == gpn * 4096 / 2 ^ pageBits size
  { s with mem := { s.mem with l1 := (s.mem.l1.map (fun e => (e.1, e.2.filter (fun c => !gone c)))).filter (fun e => e.2 != []) } }

/-- Remove entries of the block translation caches (R412). -/
def State.btcDrop (s : State) (f : BtcE → Bool) : State :=
  { s with eng := { s.eng with btc := (s.eng.btc.map (fun e => (e.1, e.2.filter (fun x => !f x)))).filter (fun e => e.2 != []) } }

/-- ... those whose translation a page of a world covers: by its virtual address range. -/
def BtcE.inPage (b : BtcE) (world va bits : Nat) : Bool :=
  b.world == world && (b.base + b.blk * 2 ^ b.bs) % 2 ^ 57 / 2 ^ max bits (pageBits b.tlb.size) == va % 2 ^ 57 / 2 ^ max bits (pageBits b.tlb.size)

/-- The shootdown of a page of a world, all sizes (R26, R42). -/
def State.shootPage (s : State) (world va : Nat) : State :=
  (s.tlbDrop (fun e => e.covers world (va % 2 ^ 57 / 4096))
    (fun w => w.world == world && w.pfx == va % 2 ^ 57 / 2 ^ (12 + 9 * w.lvl))).btcDrop (fun b => b.inPage world va 12)

/-! ### Granule checks (R33, R52, R83) -/

/-- The granule state of an address through an entry: kept in the entry, or read, claimed for the world and kept.
The last component says OFFLINE at a check made now. -/
def State.granCheck (s : State) (world gpa hpa : Nat) (e : TlbE) : (Nat × Bool × Bool) × TlbE × State :=
  match e.grans.find? (fun g => g.1 == gpa / 4096) with
  | some g => ((g.2.1, g.2.2, false), e, s)
  | none =>
    if regionOf hpa = .hbm then
      let t := s.gran (hpa / 4096)
      if granOffline t then ((0, false, true), e, s)
      else
        let s := s.claim hpa world
        let t := s.gran (hpa / 4096)
        let o := s.ownerOf hpa
        ((o, granSealed t, false), { e with grans := (gpa / 4096, o, granSealed t) :: e.grans }, s)
    else ((world, false, false), e, s)

/-! ### Translating an access (R24, R33) -/

/-- The checks of a leaf in the order of R24, from check 2 on; `none` passes. -/
def leafCheck (e : TlbE) (acc lvl : Nat) (mapped : Bool) (s2lvl : Nat) (sealed offline : Bool) : Option XRes :=
  let n := if e.size ≤ 1 then 0 else e.size - 1
  let w := isWrite acc
  if lvl = 0 ∧ !lfUser e.leaf then some (.trap ⟨32, cPROT, 6, n, 0⟩)
  else if lvl ≠ 0 ∧ acc = aFetch ∧ lfUser e.leaf then some (.trap ⟨33, cPROT, 7, n, 0⟩)
  else if !mapped then some (.trap ⟨34, cPAGE, 9, s2lvl, 1⟩)
  else if (w && !e.wr) || (acc == aFetch && !e.ex) || (!w && acc != aFetch && !e.rd) then some (.trap ⟨34, cPROT, 10, s2lvl, 1⟩)
  else if offline then some (.trap ⟨34, cPAGE, 11, s2lvl, 1⟩)
  else if w && (lfSeal e.leaf || sealed) then some (.trap ⟨35, cSEALED, 12, n, 0⟩)
  else if w && !lfW e.leaf then
    if lfHome e.leaf then some (.park e.size true) else some (.trap ⟨36, cPROT, 4, n, 0⟩)
  else if acc == aFetch && !lfX e.leaf then some (.trap ⟨37, cPROT, 5, n, 0⟩)
  else if acc == aFetch && !sealed then some (.trap ⟨38, cPROT, 8, n, 0⟩)
  else none

/-- World 0: the identity in both stages (R15, R16), with the granule's state. -/
def State.xlate0 (s : State) (va acc : Nat) : XRes × State :=
  let o := s.ownerOf va
  let g := if regionOf va = .hbm then s.gran (va / 4096) else 0
  let hbm := regionOf va == .hbm
  if hbm && granOffline g then (.trap ⟨34, cPAGE, 11, 0, 1⟩, s)
  else if isWrite acc && granSealed g && hbm then (.trap ⟨35, cSEALED, 12, 0, 0⟩, s)
  else if acc == aFetch && !(hbm && granSealed g) then (.trap ⟨38, cPROT, 8, 0, 0⟩, s)
  else (.ok ⟨va, true, o, decide (o ≠ 0), o, 0, 0, if va < 2 ^ 52 then regionOf va else .unpopulated, s.inDmap va⟩, s)

/-- Set A, and for a write D, in the leaf the walker read (R25); a first write to a ZERO page clears ZERO (R26). -/
def leafAfter (e : Dword) (acc : Nat) : Dword :=
  let e := e ||| 0x200#64
  if isWrite acc then (e ||| 0x100#64) &&& ~~~(0x40#64) else e

/-- After the leaf's own checks have passed through entry e: the finished translation, with A and D set by a fresh walk. -/
def State.xlateDone (s : State) (core world va acc : Nat) (fetch : Bool) (e : TlbE) (gpa owner : Nat) (hpa : Nat)
    (walked : Option Nat) : XRes × State :=
  let x : Xlat := ⟨gpa, false, owner, decide (owner ≠ world), owner, e.leaf, e.size, regionOf hpa, lfAtom e.leaf || s.inDmap hpa⟩
  match walked with
  | none => (.ok x, s.tlbFill core fetch e)
  | some a =>
    let nl := leafAfter e.leaf acc
    let s := if nl = e.leaf then s else s.tableWrite world a nl
    let s := if lfZero e.leaf && isWrite acc then (s.shootPage world va).dropZeroTags owner (e.gpn) e.size else s
    (.ok { x with leaf := nl }, s.tlbFill core fetch { e with leaf := nl })

/-- Check an entry for an access and finish; `hole` is an address of its page that the second stage does not map, found at the fill (R24, R33)
(DEDUCED, log 124). -/
def State.xlateEntry (s : State) (core world va acc lvl : Nat) (fetch : Bool) (e : TlbE) (walked hole : Option Nat) : XRes × State :=
  let gpa := e.gpn * 4096 / 2 ^ pageBits e.size * 2 ^ pageBits e.size + va % 2 ^ pageBits e.size
  let part := (s.topPart world).getD 24
  let s2 := if hole.isSome then none else s.s2Leaf part gpa
  let lv := s.s2Level part (hole.getD gpa)
  match s2 with
  | none =>
    match leafCheck e acc lvl false lv false false with
    | some r => (r, s)
    | none => (.trap ⟨34, cPAGE, 9, lv, 1⟩, s)
  | some (sz, le) =>
    let hpa := entFrame le + gpa % 2 ^ pageBits sz
    match leafCheck e acc lvl true lv false false with
    | some (.trap f) =>
      if f.rank < 35 then (.trap f, s)
      else
        let (g, e', s') := s.granCheck world gpa hpa e
        match leafCheck e' acc lvl true lv g.2.1 g.2.2 with
        | some r => (r, s')
        | none => s'.xlateDone core world va acc fetch e' gpa g.1 hpa walked
    | _ =>
      let (g, e', s') := s.granCheck world gpa hpa e
      match leafCheck e' acc lvl true lv g.2.1 g.2.2 with
      | some r => (r, s')
      | none => s'.xlateDone core world va acc fetch e' gpa g.1 hpa walked

/-- Translate one address for an access of a type at a level, on a core (R24, R30, R33): the TLBs, or a walk. The address is
canonical. -/
def State.xlate (s : State) (core world va acc lvl : Nat) : XRes × State :=
  let va := va % 2 ^ 57
  if world = 0 then s.xlate0 va acc
  else
    let fetch := acc == aFetch
    match s.tlbFind core fetch world (va / 4096) acc with
    | some e => s.xlateEntry core world va acc lvl fetch e none none
    | none =>
      match s.walk world va (dieOf core) with
      | (.bad cause reason level stage, s) => (.trap ⟨if reason = 1 then 31 else 30, cause, reason, level, stage⟩, s)
      | (.leaf e a n, s) =>
        let size := if n = 0 then entSize e else n + 1
        if !lfV e then (.park size false, s)
        else
          let part := (s.topPart world).getD 24
          let base := va / 2 ^ pageBits size * 2 ^ pageBits size
          let gpa := entFrame e + va % 2 ^ pageBits size
          let s := s.keepS2 part gpa
          match s.s2Range part (2 ^ (pageBits size - 12)) (entFrame e) (entFrame e + 2 ^ pageBits size) with
          | .error h => s.xlateEntry core world va acc lvl fetch ⟨world, base / 4096, size, entFrame e / 4096, e, false, false, false, []⟩ (some a) (some h)
          | .ok (rd, wr, ex) => s.xlateEntry core world va acc lvl fetch ⟨world, base / 4096, size, entFrame e / 4096, e, rd, wr, ex, []⟩ (some a) none

end Sys2Proof.Machine
end

