-- ==== Sys2Proof/Machine/Gate.lean ====
section
/-! DEFINITION. The customs gate (R432, R437, R438): one decision, possibly of several parts, against the live policies. -/

namespace Sys2Proof.Machine

/-- A destination (R434): its kind and the fields the kind uses. -/
structure GDest where
  kind : Nat
  dworld : Nat
  pkg : Nat
  func : Nat
  addr6 : Nat
  port : Nat
deriving DecidableEq, Repr

/-- One part of an egress: the data's world, its waybill, the destination and the bytes charged (R432). -/
structure Egress where
  world : Nat
  wb : Waybill
  dest : GDest
  n : Nat
deriving DecidableEq, Repr

def destWorld (w : Nat) : GDest := ⟨1, w, 0, 0, 0, 0⟩
def destFunc (f : Nat) : GDest := ⟨2, 0, 0, f, 0, 0⟩
def destEndpoint (addr6 port : Nat) : GDest := ⟨3, 0, 0, 0, addr6, port⟩
def destPackage (p : Nat) : GDest := ⟨4, 0, p, 0, 0, 0⟩
def destHostCores : GDest := ⟨5, 0, 0, 0, 0, 0⟩
def destSteward : GDest := ⟨6, 0, 0, 0, 0, 0⟩

/-- Does a destination entry name a destination (R434)? -/
def destMatch (e : BitVec 256) (d : GDest) : Bool :=
  decide ((e.extractLsb' 56 8).toNat = d.kind) &&
  match d.kind with
  | 1 => decide ((e.extractLsb' 40 8).toNat = d.dworld)
  | 2 => decide ((e.extractLsb' 16 8).toNat = d.func)
  | 3 => decide ((e.extractLsb' 128 128).toNat = d.addr6) && decide ((e.extractLsb' 112 16).toNat = d.port)
  | 4 => decide ((e.extractLsb' 30 10).toNat = d.pkg)
  | _ => true

/-- sys.mono: microseconds of powered time (R435), 3,600 time-base cycles each (R255). -/
def State.mono (s : State) : Nat := (s.pkg 0x0E6).toNat + s.time / 3600

/-- A live policy of the world that names the destination and can pay (R437) (DEDUCED, log 103). -/
def Policy.open_ (p : Policy) (mono : Nat) (e : Egress) : Bool :=
  p.world == e.world && p.dests.any (fun d => destMatch d e.dest) && decide (mono < p.expiry) && decide (e.n ≤ p.remaining)

/-- sys.gtinfo for a refusal (R447). -/
def gtinfoWord (e : Egress) (missing : Waybill) : Word :=
  BitVec.ofNat 32 (e.dest.kind * 2 ^ 28 + (if e.dest.kind = 1 then e.dest.dworld else 0) * 2 ^ 16 + missing.toNat)

/-- The decision of one part against the policies as they stand (R437). -/
def gateOne (ps : Table Policy) (mono : Nat) (e : Egress) : Except Word (Table Policy) :=
  if e.wb = 0 then .ok ps
  else
    match ps.find? (fun p => p.2.open_ mono e && (e.wb &&& ~~~p.2.origins) == 0) with
    | none =>
      let u := (ps.filter (fun p => p.2.open_ mono e)).foldl (fun acc p => acc ||| p.2.origins) (0 : Waybill)
      .error (gtinfoWord e (e.wb &&& ~~~u))
    | some (k, p) =>
      .ok (if p.remaining = e.n then terase ps k else tput ps k { p with remaining := p.remaining - e.n })

/-- The parts of a compound decision, in order, charged cumulatively (R438). -/
def gateParts (mono : Nat) : List Egress → Table Policy → Except (Egress × Word) (Table Policy)
  | [], ps => .ok ps
  | e :: t, ps =>
    match gateOne ps mono e with
    | .error g => .error (e, g)
    | .ok ps => gateParts mono t ps

/-- A 32-bit count in a half of a register, saturating. -/
def bumpHalf (v : Dword) (hi : Bool) : Dword :=
  let h := v.extractLsb' 32 32
  let l := v.extractLsb' 0 32
  if hi then (if h = BitVec.allOnes 32 then v else (h + 1) ++ l) else (if l = BitVec.allOnes 32 then v else h ++ (l + 1))

/-- Count a decision in sys.gtstat of the data's partition (R437, R448) (DEDUCED, log 93). -/
def State.gateCount (s : State) (w : Nat) (refused : Bool) : State :=
  match s.partOf w with
  | none => s
  | some p => s.setPreg p 0x0E7 (bumpHalf (s.preg p 0x0E7) refused)

/-- The gate: all parts pass and are debited, or none is and sys.gtinfo describes the first refused part (R438). -/
def State.gate (s : State) (es : List Egress) : Except (Egress × Word × State) State :=
  let es := es.filter (fun e => e.wb != 0)
  match es with
  | [] => .ok s
  | e :: _ =>
    match gateParts s.mono es s.tr.policies with
    | .error (r, g) => .error (r, g, s.gateCount r.world true)
    | .ok ps => .ok ({ s with tr := { s.tr with policies := ps } }.gateCount e.world false)

end Sys2Proof.Machine
end

