-- ==== Sys2Proof/Machine/Float.lean ====
section
/-! DEFINITION. The number formats and every rounding the device performs (06, R200 to R227), in exact integer
arithmetic: a finite value is a sign, a natural significand and a power of two. -/

namespace Sys2Proof.Machine

/-- A value of F32, BF16 or A40 (R200, R204): a NaN with its signalling bit, an infinity, or the exact finite
value (-1)^neg * m * 2^e, a zero when m = 0. -/
inductive FVal where
  | nan (signalling : Bool)
  | inf (neg : Bool)
  | fin (neg : Bool) (m : Nat) (e : Int)
deriving DecidableEq, Repr

/-- Fraction bits of F32, BF16 and A40; all three have 8 exponent bits and bias 127 (R200). -/
def fF32 : Nat := 23
def fBF16 : Nat := 7
def fA40 : Nat := 31

/-- The sticky flags, at their bits of sys.nflags (R207). -/
def flNX : Word := 0x01#32
def flUF : Word := 0x02#32
def flOF : Word := 0x04#32
def flDZ : Word := 0x08#32
def flIV : Word := 0x10#32
def flWOV : Word := 0x20#32
def flLCL : Word := 0x40#32

/-- Number of bits of a natural: 0 for 0, and the place of its top bit plus one. -/
def bitLen (n : Nat) : Nat := if n = 0 then 0 else n.log2 + 1

/-- Multiply an integer by a power of two, rounding down when the power is negative. -/
def shiftInt (z : Int) (k : Int) : Int :=
  if 0 ≤ k then z * (2 ^ k.toNat : Nat) else z / (2 ^ (-k).toNat : Nat)

/-- The value of the bits of a format with `f` fraction bits (R200, R204). -/
def unpackF (f bits : Nat) : FVal :=
  let neg := bits / 2 ^ (f + 8) % 2 = 1
  let e := bits / 2 ^ f % 256
  let m := bits % 2 ^ f
  if e = 255 then
    if m = 0 then .inf (decide neg) else .nan (decide (m < 2 ^ (f - 1)))
  else if e = 0 then .fin (decide neg) m (-126 - (f : Int))
  else .fin (decide neg) (m + 2 ^ f) ((e : Int) - 127 - (f : Int))

/-- The sign bit of a format, in place. -/
def signBit (f : Nat) (neg : Bool) : Nat := if neg then 2 ^ (f + 8) else 0

/-- The canonical NaN of a format (R202). -/
def canonNan (f : Nat) : Nat := 255 * 2 ^ f + 2 ^ (f - 1)

/-- Infinity, and the largest finite value, of a format. -/
def infBits (f : Nat) (neg : Bool) : Nat := signBit f neg + 255 * 2 ^ f
def maxBits (f : Nat) (neg : Bool) : Nat := signBit f neg + 254 * 2 ^ f + (2 ^ f - 1)

/-- Does a magnitude with discarded part `rem` of `2^sh` round up, under a rounding direction (R203)? -/
def roundsUp (rm : Nat) (neg : Bool) (t rem sh : Nat) : Bool :=
  match rm with
  | 0 => decide (2 ^ sh < 2 * rem) || (decide (2 * rem = 2 ^ sh) && decide (0 < sh) && decide (t % 2 = 1))
  | 1 => false
  | 2 => decide (0 < rem) && !neg
  | _ => decide (0 < rem) && neg

/-- m * 2^e on the grid of multiples of 2^q: the rounded multiple, and whether it is inexact. -/
def roundGrid (rm : Nat) (neg : Bool) (m : Nat) (e q : Int) : Nat × Bool :=
  if q ≤ e then (m * 2 ^ (e - q).toNat, false)
  else
    let sh := (q - e).toNat
    let t := m / 2 ^ sh
    let rem := m % 2 ^ sh
    ((if roundsUp rm neg t rem sh then t + 1 else t), decide (rem ≠ 0))

/-- Overflow under a rounding direction: infinity or the largest finite value (R201). -/
def overflowBits (f rm : Nat) (neg : Bool) : Nat :=
  match rm with
  | 0 => infBits f neg
  | 1 => maxBits f neg
  | 2 => if neg then maxBits f neg else infBits f neg
  | _ => if neg then infBits f neg else maxBits f neg

/-- Round (-1)^neg * m * 2^e to a format, with its flags. With `ieee`, tininess is judged with an unbounded exponent
(IEEE 754-2019 after rounding, R201); otherwise on the delivered value (round_a40, R206). -/
def roundF (f rm : Nat) (ieee : Bool) (neg : Bool) (m : Nat) (e : Int) : Nat × Word :=
  if m = 0 then (signBit f neg, 0)
  else
    let top := e + (bitLen m : Int) - 1
    let qmin : Int := -126 - (f : Int)
    let q := max (top - (f : Int)) qmin
    let (r, nx) := roundGrid rm neg m e q
    let (r, q) := if r = 2 ^ (f + 1) then (2 ^ f, q + 1) else (r, q)
    if 127 - (f : Int) < q then (overflowBits f rm neg, flOF ||| flNX)
    else
      let bits := if r < 2 ^ f then r else (q + (f : Int) + 127).toNat * 2 ^ f + (r - 2 ^ f)
      let tiny :=
        if ieee then
          let u := top - (f : Int)
          let (ru, _) := roundGrid rm neg m e u
          decide (top < -126) && !(decide (top = -127) && decide (ru = 2 ^ (f + 1)))
        else decide (r < 2 ^ f)
      (signBit f neg + bits, (if nx then flNX else 0) ||| (if nx && tiny then flUF else 0))

/-- A signalling NaN among the operands sets IV (R202, R206). -/
def FVal.isSNan : FVal → Bool
  | .nan s => s
  | _ => false

def FVal.isNan : FVal → Bool
  | .nan _ => true
  | _ => false

def FVal.isInf (n : Bool) : FVal → Bool
  | .inf n' => n' == n
  | _ => false

def FVal.isZero : FVal → Bool
  | .fin _ m _ => m == 0
  | _ => false

def FVal.neg : FVal → Bool
  | .nan _ => false
  | .inf n => n
  | .fin n _ _ => n

/-- An exact product of two values; the flag says infinity times zero (R206). -/
def mulVal (a b : FVal) : FVal × Bool :=
  match a, b with
  | .nan s, y => (.nan (s || y.isSNan), false)
  | x, .nan s => (.nan (s || x.isSNan), false)
  | .inf n, .inf n' => (.inf (n != n'), false)
  | .inf n, .fin n' m _ => if m = 0 then (.nan false, true) else (.inf (n != n'), false)
  | .fin n m _, .inf n' => if m = 0 then (.nan false, true) else (.inf (n != n'), false)
  | .fin n m e, .fin n' m' e' => (.fin (n != n') (m * m') (e + e'), false)

/-- The least exponent of a list of finite values (0 for none). -/
def minExp : List FVal → Int
  | [] => 0
  | [.fin _ _ e] => e
  | .fin _ _ e :: t => min e (minExp t)
  | _ :: t => minExp t

/-- The exact sum of a list of finite values, in units of 2^q, for q at most every exponent. -/
def sumUnits (q : Int) : List FVal → Int
  | [] => 0
  | .fin n m e :: t => (if n then -((m * 2 ^ (e - q).toNat : Nat) : Int) else ((m * 2 ^ (e - q).toNat : Nat) : Int)) + sumUnits q t
  | _ :: t => sumUnits q t

/-- How a sum decides the sign of an exact zero: `ieee` for F32 and BF16 sums (R358), `a40` for A40 sums (R206),
`dot` for FDOT2 (R363). -/
inductive ZeroRule where
  | ieee
  | a40
  | dot
deriving DecidableEq, Repr

/-- The sign of an exactly zero sum of the listed addends. -/
def zeroSign (z : ZeroRule) (rm : Nat) (ts : List FVal) : Bool :=
  if ts.all FVal.neg then true
  else match z with
    | .ieee => if ts.all (fun t => !t.neg) then false else rm == 3
    | .a40 => false
    | .dot => rm == 3

/-- An exact sum rounded once, special values first (R206's table; R358, R363). `iv` is an invalid product found
before. -/
def sumRound (f rm : Nat) (z : ZeroRule) (ts : List FVal) (iv : Bool) : Nat × Word :=
  let bothInf := ts.any (FVal.isInf true) && ts.any (FVal.isInf false)
  let fl : Word := if iv || ts.any FVal.isSNan || bothInf then flIV else 0
  if iv || ts.any FVal.isNan || bothInf then (canonNan f, fl)
  else if ts.any (FVal.isInf true) then (infBits f true, fl)
  else if ts.any (FVal.isInf false) then (infBits f false, fl)
  else
    let q := minExp ts
    let v := sumUnits q ts
    if v = 0 then (signBit f (zeroSign z rm ts), fl)
    else
      let r := roundF f rm (z != .a40) (decide (v < 0)) v.natAbs q
      (r.1, r.2 ||| fl)

/-- Addition, one rounding (R358). -/
def fAdd (f rm : Nat) (a b : Nat) : Nat × Word := sumRound f rm .ieee [unpackF f a, unpackF f b] false

/-- Multiplication, one rounding (R358). -/
def fMul (f rm : Nat) (a b : Nat) : Nat × Word :=
  let x := unpackF f a
  let y := unpackF f b
  let (p, iv) := mulVal x y
  match p with
  | .nan s => (canonNan f, if iv || s then flIV else 0)
  | .inf n => (infBits f n, 0)
  | .fin n m e => roundF f rm true n m e

/-- a * b + c, fused (R358). -/
def fFma (f rm : Nat) (a b c : Nat) : Nat × Word :=
  let (p, iv) := mulVal (unpackF f a) (unpackF f b)
  sumRound f rm .ieee [p, unpackF f c] iv

/-- Magnitude order of the bits of one format, zeros equal: a signed key (R360). -/
def orderKey (f bits : Nat) : Int :=
  let mag : Int := ((bits % 2 ^ (f + 8) : Nat) : Int)
  if bits / 2 ^ (f + 8) % 2 = 1 then -mag else mag

/-- FMIN and FMAX on one element (R359). -/
def fMinMax (f : Nat) (isMax : Bool) (a b : Nat) : Nat × Word :=
  let x := unpackF f a
  let y := unpackF f b
  let fl : Word := if x.isSNan || y.isSNan then flIV else 0
  if x.isNan && y.isNan then (canonNan f, fl)
  else if x.isNan then (b, fl)
  else if y.isNan then (a, fl)
  else
    let ka := orderKey f a
    let kb := orderKey f b
    let aLess := decide (ka < kb) || (decide (ka = kb) && x.neg && !y.neg)
    (if aLess == isMax then b else a, fl)

/-- FCMP: the result and its flags (R360); codes 0 .eq, 1 .ne, 2 .lt, 3 .le, 4 .un, 5 .ord. -/
def fCmp (f code a b : Nat) : Bool × Word :=
  let x := unpackF f a
  let y := unpackF f b
  let un := x.isNan || y.isNan
  let sn := x.isSNan || y.isSNan
  let ka := orderKey f a
  let kb := orderKey f b
  match code with
  | 0 => (!un && decide (ka = kb), if sn then flIV else 0)
  | 1 => (un || decide (ka ≠ kb), if sn then flIV else 0)
  | 2 => (!un && decide (ka < kb), if un then flIV else 0)
  | 3 => (!un && decide (ka ≤ kb), if un then flIV else 0)
  | 4 => (un, if sn then flIV else 0)
  | _ => (!un, if sn then flIV else 0)

/-- A quotient of magnitudes with enough bits for one rounding: the last bit is sticky. -/
def divExact (f ma : Nat) (ea : Int) (mb : Nat) (eb : Int) : Nat × Int :=
  let k := bitLen mb + f + 4
  let n := ma * 2 ^ k
  (2 * (n / mb) + (if n % mb = 0 then 0 else 1), ea - eb - (k : Int) - 1)

/-- The integer square root, bit by bit from bit `i - 1` down. -/
def isqrtGo (n : Nat) : Nat → Nat → Nat
  | 0, r => r
  | i + 1, r => if (r + 2 ^ i) * (r + 2 ^ i) ≤ n then isqrtGo n i (r + 2 ^ i) else isqrtGo n i r

def isqrt (n : Nat) : Nat := isqrtGo n (bitLen n / 2 + 1) 0

/-- FRCP (R362). -/
def fRcp (rm a : Nat) : Nat × Word :=
  match unpackF fF32 a with
  | .nan s => (canonNan fF32, if s then flIV else 0)
  | .inf n => (signBit fF32 n, 0)
  | .fin n m e =>
    if m = 0 then (infBits fF32 n, flDZ)
    else
      let (q, eq) := divExact fF32 1 0 m e
      roundF fF32 rm true n q eq

/-- FSQRT (R362). -/
def fSqrt (rm a : Nat) : Nat × Word :=
  match unpackF fF32 a with
  | .nan s => (canonNan fF32, if s then flIV else 0)
  | .inf n => if n then (canonNan fF32, flIV) else (infBits fF32 false, 0)
  | .fin n m e =>
    if m = 0 then (signBit fF32 n, 0)
    else if n then (canonNan fF32, flIV)
    else
      let m' : Nat := if e % 2 = 0 then m else 2 * m
      let e' : Int := if e % 2 = 0 then e else e - 1
      let x := m' * 2 ^ (2 * (fF32 + 4))
      let r := isqrt x
      roundF fF32 rm true false (2 * r + (if r * r = x then 0 else 1)) (e' / 2 - ((fF32 + 4 : Nat) : Int) - 1)

/-- FRSQ: 1 / sqrt x, to nearest even (R362). -/
def fRsq (a : Nat) : Nat × Word :=
  match unpackF fF32 a with
  | .nan s => (canonNan fF32, if s then flIV else 0)
  | .inf n => if n then (canonNan fF32, flIV) else (0, 0)
  | .fin n m e =>
    if m = 0 then (infBits fF32 n, flDZ)
    else if n then (canonNan fF32, flIV)
    else
      let m' : Nat := if e % 2 = 0 then m else 2 * m
      let e' : Int := if e % 2 = 0 then e else e - 1
      let k : Nat := 44
      let r := isqrt (2 ^ (2 * k) / m')
      roundF fF32 0 true false (2 * r + (if r * r * m' = 2 ^ (2 * k) then 0 else 1)) (-(e' / 2) - (k : Int) - 1)

/-- Binary digits of log2 z for z in [1, 2), as z * 2^170: each squaring gives the next digit. -/
def log2Digits : Nat → Nat → Nat → Nat
  | 0, _, acc => acc
  | n + 1, z, acc =>
    let z2 := z * z / 2 ^ 170
    if 2 ^ 171 ≤ z2 then log2Digits n (z2 / 2) (2 * acc + 1) else log2Digits n z2 (2 * acc)

/-- FLOG2, to nearest even (R362): 160 digits below the point and a sticky digit, exact for a power of two (DEDUCED, log 20). -/
def fLog2 (a : Nat) : Nat × Word :=
  match unpackF fF32 a with
  | .nan s => (canonNan fF32, if s then flIV else 0)
  | .inf n => if n then (canonNan fF32, flIV) else (infBits fF32 false, 0)
  | .fin n m e =>
    if m = 0 then (infBits fF32 true, flDZ)
    else if n then (canonNan fF32, flIV)
    else
      let len := bitLen m
      let k : Int := e + (len : Int) - 1
      if m = 2 ^ (len - 1) then roundF fF32 0 true (decide (k < 0)) k.natAbs 0
      else
        let d := log2Digits 160 (m * 2 ^ (171 - len)) 0
        let v : Int := 2 * (k * ((2 ^ 160 : Nat) : Int) + (d : Int)) + 1
        roundF fF32 0 true (decide (v < 0)) v.natAbs (-161)

/-- The 64-step table of exp2_dev: 2^(j/64) * 2^23 rounded half to even (R219). -/
def t64 : List Nat :=
  [8388608, 8479954, 8572295, 8665641, 8760003, 8855394, 8951823, 9049301] ++
  [9147842, 9247455, 9348154, 9449948, 9552851, 9656875, 9762032, 9868333] ++
  [9975792, 10084422, 10194234, 10305242, 10417458, 10530897, 10645571, 10761494] ++
  [10878679, 10997140, 11116891, 11237946, 11360319, 11484025, 11609078, 11735492] ++
  [11863283, 11992466, 12123055, 12255067, 12388516, 12523418, 12659789, 12797645] ++
  [12937002, 13077877, 13220286, 13364245, 13509772, 13656884, 13805598, 13955931] ++
  [14107901, 14261526, 14416824, 14573813, 14732511, 14892937, 15055111, 15219050] ++
  [15384775, 15552304, 15721658, 15892855, 16065917, 16240863, 16417715, 16596492] ++
  [16777216]

/-- exp2_dev of an exact value (R219): the exact result before the caller's rounding, and the flags raised here. -/
def exp2Dev (y : FVal) : FVal × Word :=
  match y with
  | .nan s => (.nan false, if s then flIV else 0)
  | .inf n => if n then (.fin false 0 0, 0) else (.inf false, 0)
  | .fin n m e =>
    let (u, _) := roundGrid 0 n m e (-10)
    let t : Int := if n then -(u : Int) else (u : Int)
    if 128 * 1024 ≤ t then (.inf false, flOF ||| flNX)
    else if t < -160 * 1024 then (.fin false 0 0, 0)
    else
      let i := t / 1024
      let fr := (t % 1024).toNat
      let hi := fr / 16
      let lo := fr % 16
      let a := t64.getD hi 0
      let b := t64.getD (hi + 1) 0
      (.fin false (a + ((b - a) * lo + 8) / 16) (i - 23), 0)

/-- A value rounded to a format to nearest even, with the flags of the rounding; a NaN is canonical (R202). -/
def packF (f rm : Nat) (ieee : Bool) (v : FVal) : Nat × Word :=
  match v with
  | .nan _ => (canonNan f, 0)
  | .inf n => (infBits f n, 0)
  | .fin n m e => roundF f rm ieee n m e

/-- FEXP2 (R362). -/
def fExp2 (a : Nat) : Nat × Word :=
  let (v, fl) := exp2Dev (unpackF fF32 a)
  let (r, fl') := packF fF32 0 true v
  (r, fl ||| fl')

/-- FDOT2 (R363). -/
def fDot2 (rm : Nat) (a b c : Nat) : Nat × Word :=
  let (p0, i0) := mulVal (unpackF fBF16 (a % 65536)) (unpackF fBF16 (b % 65536))
  let (p1, i1) := mulVal (unpackF fBF16 (a / 65536)) (unpackF fBF16 (b / 65536))
  let vs := [unpackF fBF16 (a % 65536), unpackF fBF16 (b % 65536), unpackF fBF16 (a / 65536), unpackF fBF16 (b / 65536)]
  let (r, fl) := sumRound fF32 rm .dot [p0, p1, unpackF fF32 c] (i0 || i1)
  (r, fl ||| (if vs.any FVal.isSNan then flIV else 0))

/-! ### Logarithmic formats (R209 to R212) -/

/-- T8 (R209). -/
def t8 : List Nat := [65536, 71469, 77935, 84990, 92682, 101071, 110217, 120193]

/-- A log code held in `w` bits, read as signed. -/
def signedOf (w n : Nat) : Int := if n % 2 ^ w < 2 ^ (w - 1) then ((n % 2 ^ w : Nat) : Int) else ((n % 2 ^ w : Nat) : Int) - ((2 ^ w : Nat) : Int)

/-- val8: the device value of sign `s` and log code `l` (R209). -/
def val8 (s : Bool) (l : Int) : FVal := .fin s (t8.getD (l % 8).toNat 0) (l / 8 - 16)

/-- The sign and doubled-to-L8 log code of an L8 code, or none for the zero code (R209). -/
def l8Code (c : Nat) : Option (Bool × Int) :=
  if c % 256 = 0x80 then none else some (decide (c % 256 ≥ 128), signedOf 7 c)

/-- The same of an L6 code: (s, 2L) (R210). -/
def l6Code (c : Nat) : Option (Bool × Int) :=
  if c % 64 = 0x20 then none else some (decide (c % 64 ≥ 32), 2 * signedOf 5 c)

/-- The device value of an L8 or L6 code; the zero code is +0 (R212). -/
def logVal (c : Option (Bool × Int)) : FVal :=
  match c with
  | none => .fin false 0 0
  | some (s, l) => val8 s l

/-- A code from a sign and log code, in the w-bit log field (R209, R210). -/
def logCode (w : Nat) (s : Bool) (l : Int) : Nat := (if s then 2 ^ w else 0) + (l % ((2 ^ w : Nat) : Int)).toNat

/-- to_log of a binary value (R211), for k = 8 (w = 7) or k = 4 (w = 5): by the exact power x^(2k). -/
def toLog (w k : Nat) (x : FVal) : Nat × Word :=
  let lmax : Int := ((2 ^ (w - 1) : Nat) : Int) - 1
  let lmin : Int := -((2 ^ (w - 1) : Nat) : Int)
  let zc := 2 ^ w
  let fix (s : Bool) (lo : Int) (pos : Bool) : Nat :=
    logCode w s (if s && decide (lo = 0) then (if pos then 1 else -1) else lo)
  match x with
  | .nan _ => (zc, flIV)
  | .inf s => (fix s lmax true, flLCL)
  | .fin s m e =>
    if m = 0 then (zc, 0)
    else
      let p := m ^ (2 * k)
      let t : Int := (bitLen p : Int) - 1 + e * ((2 * k : Nat) : Int)
      let exact := decide (p = 2 ^ (bitLen p - 1))
      if 2 * lmax < t || (t = 2 * lmax && !exact) then (fix s lmax true, flLCL)
      else if t < 2 * lmin - 1 then (zc, flLCL)
      else (fix s ((t + 1) / 2) (decide (0 < t) || (t = 0 && !exact)), 0)

/-- to_log of an L8 code to L6 (R211): y = L / 2, ties to even. -/
def l8ToL6 (c : Nat) : Nat × Word :=
  match l8Code c with
  | none => (0x20, 0)
  | some (s, l) =>
    if 30 < l then (logCode 5 s 15, flLCL)
    else if l < -33 then (0x20, flLCL)
    else
      let lo := if l % 2 = 0 then l / 2 else if (l / 2) % 2 = 0 then l / 2 else l / 2 + 1
      (logCode 5 s (if s && decide (lo = 0) then (if 0 < l then 1 else -1) else lo), 0)

/-- lprod (R214): the exact product of two logarithmic elements, in units of 2^-32. -/
def lprod (a b : Option (Bool × Int)) : Int :=
  match a, b with
  | some (sa, la), some (sb, lb) =>
    let l := la + lb
    let mag := shiftInt (t8.getD (l % 8).toNat 0 : Nat) (l / 8 + 16)
    if sa != sb then -mag else mag
  | _, _ => 0

/-! ### Sums in A40, the scale, the carrier -/

/-- An A40 sum of exact terms (R206). -/
def a40Sum (ts : List FVal) (iv : Bool) : Nat × Word := sumRound fA40 0 .a40 ts iv

/-- msca_value (R216). -/
def mscaValue (d : Nat) (p : Int) (sa sb : Nat) : Nat × Word :=
  let v := unpackF fA40 d
  if sa = 255 || sb = 255 then (canonNan fA40, flIV)
  else match v with
    | .nan s => (canonNan fA40, if s then flIV else 0)
    | .inf n => (infBits fA40 n, 0)
    | .fin _ _ _ => a40Sum [v, .fin (decide (p < 0)) p.natAbs ((sa : Int) + (sb : Int) - 286)] false

/-- max_a40 (R221): NaN if either is, +0 above -0. A signalling NaN consumed sets IV. -/
def maxA40 (a b : Nat) : Nat × Word :=
  let x := unpackF fA40 a
  let y := unpackF fA40 b
  let fl : Word := if x.isSNan || y.isSNan then flIV else 0
  if x.isNan || y.isNan then (canonNan fA40, fl)
  else
    let ka := orderKey fA40 a
    let kb := orderKey fA40 b
    (if decide (ka < kb) || (decide (ka = kb) && x.neg) then b else a, fl)

/-- The constant log2 e (R220). -/
def log2e : FVal := unpackF fF32 0x3FB8AA3B

/-- exp2_dev((x - b) * log2 e), the product exact (R220). -/
def expOf (x b : FVal) : FVal × Word :=
  let iv := x.isSNan || b.isSNan
  match x, b with
  | .nan _, _ => (.nan false, if iv then flIV else 0)
  | _, .nan _ => (.nan false, if iv then flIV else 0)
  | .inf n, .inf n' => if n == n' then (.nan false, flIV) else exp2Dev (.inf n)
  | .inf n, _ => exp2Dev (.inf n)
  | _, .inf n => exp2Dev (.inf (!n))
  | .fin nx mx ex, .fin nb mb eb =>
    let q := min ex eb
    let v := sumUnits q [.fin nx mx ex, .fin (!nb) mb eb]
    exp2Dev (mulVal (.fin (decide (v < 0)) v.natAbs q) log2e).1

/-- Division of A40 values, correctly rounded to nearest even, by a nonzero finite value (R221). -/
def a40Div (n1 : Bool) (m1 : Nat) (e1 : Int) (n2 : Bool) (m2 : Nat) (e2 : Int) : Nat × Word :=
  if m1 = 0 then (signBit fA40 (n1 != n2), 0)
  else
    let (q, e) := divExact fA40 m1 e1 m2 e2
    roundF fA40 0 false (n1 != n2) q e

/-- w_conv (R223): the low 128 bits of floor(v * 2^-w), the invalid bit, and WOV; IV where a signalling NaN is consumed (R202). -/
def wConv (v : Nat) (w : Int) : BitVec 128 × Bool × Word :=
  match unpackF fA40 v with
  | .fin n m e =>
    let z : Int := if n then -(m : Int) else (m : Int)
    let k := shiftInt z (e - w)
    (BitVec.ofInt 128 k, false, if 2 ^ 126 ≤ k.natAbs then flWOV else 0)
  | v => (0, true, if v.isSNan then flIV else 0)

/-- w_round (R225). -/
def wRound (s : BitVec 128) (i : Bool) (w : Int) : Nat × Word :=
  if i then (canonNan fA40, flIV)
  else
    let z := s.toInt
    if z = 0 then (0, 0) else roundF fA40 0 false (decide (z < 0)) z.natAbs w

/-! ### Integers and F32 (R364, R365) -/

/-- A finite value rounded to an integer, and whether that is inexact. -/
def roundToInt (rm : Nat) (n : Bool) (m : Nat) (e : Int) : Int × Bool :=
  let (u, nx) := roundGrid rm n m e 0
  (if n then -(u : Int) else (u : Int), nx)

/-- F32 to an integer range (R365). -/
def f32ToInt (rm : Nat) (lo hi : Int) (a : Nat) : Int × Word :=
  match unpackF fF32 a with
  | .nan _ => (0, flIV)
  | .inf n => (if n then lo else hi, flIV)
  | .fin n m e =>
    let (z, nx) := roundToInt rm n m e
    if z < lo then (lo, flIV) else if hi < z then (hi, flIV) else (z, if nx then flNX else 0)

/-- F32 to an integral F32 (R364): the sign of a zero is kept, no flag but IV for a signalling NaN. -/
def f32Integral (rm : Nat) (a : Nat) : Nat × Word :=
  match unpackF fF32 a with
  | .nan s => (canonNan fF32, if s then flIV else 0)
  | .inf n => (infBits fF32 n, 0)
  | .fin n m e => if 0 ≤ e then (a, 0) else ((roundF fF32 rm true n (roundToInt rm n m e).1.natAbs 0).1, 0)

/-- A conversion between binary formats, rounded once; NaN is canonical, IV for a signalling one (R202, R364). -/
def convF (fs fd rm : Nat) (a : Nat) : Nat × Word :=
  match unpackF fs a with
  | .nan s => (canonNan fd, if s then flIV else 0)
  | .inf n => (infBits fd n, 0)
  | .fin n m e => roundF fd rm true n m e

/-- ATFADD at a word (R227): to nearest even, no flag kept. -/
def atFAdd (a b : Word) : Word := BitVec.ofNat 32 (fAdd fF32 0 a.toNat b.toNat).1

end Sys2Proof.Machine
end

