-- ==== Sys2Proof/Machine/Flags.lean ====
section
/-! DEFINITION. Flags: the sticky numeric flags of a string (R207, R208), the rounding direction (R203), and the completion flags of a
path with the operations bound to them (R232, R233, R295). -/

namespace Sys2Proof.Machine

/-- sys.nmode.RM (R203). -/
def Str.rm (t : Str) : Nat := (t.reg 0x0B0).toNat % 4

/-- OR flags into sys.nflags (R208). -/
def Str.orFlags (t : Str) (f : Word) : Str := t.setReg 0x0B1 (t.reg 0x0B1 ||| f.setWidth 64)

/-- The union of the flags the lanes of a mask raise (R208). -/
def laneFlags (m : Lanes) (f : Nat → Word) : Word := (lanesOf m).foldl (fun acc l => acc ||| f l) 0

/-! ### Completion flags -/

/-- Is flag f set: is an operation bound to it (R233)? -/
def Path.flag (p : Path) (f : Nat) : Bool := p.binds.any (fun b => b.1 == f)

/-- The set flags as a mask. -/
def Path.flags (p : Path) : BitVec 12 :=
  (List.range 12).foldl (fun acc f => if p.flag f then acc ||| BitVec.ofNat 12 (2 ^ f) else acc) 0

/-- Is any flag of a mask set? -/
def Path.anyFlag (p : Path) (m : BitVec 12) : Bool := (p.flags &&& m) != 0

/-- The flag a slot of the header names: slot A is SETA, slot B SETB; 15 binds nothing (R292, R295). -/
def slotFlag (h : Word) (slot : BitVec 1) : Option Nat :=
  let f := if slot = 0 then (h.extractLsb' 12 4).toNat else (h.extractLsb' 8 4).toNat
  if f = 15 then none else some f

/-- Bind an operation to the flag of a slot, at issue (R233). -/
def Path.bind (p : Path) (slot : BitVec 1) (op : Nat) : Path :=
  match slotFlag p.hdr slot with
  | none => p
  | some f => { p with binds := p.binds ++ [(f, op)] }

/-- A fresh operation number. -/
def State.takeOp (s : State) : State := { s with nextOp := s.nextOp + 1 }

end Sys2Proof.Machine
end

