-- ==== Sys2Proof/Machine/LaneInt.lean ====
section
/-! DEFINITION. Lane integer, bit, comparison and movement instructions, and the instructions across lanes (R351 to R356,
R369 to R371). -/

namespace Sys2Proof.Machine

/-! ### Helpers on 32-bit values -/

/-- The number of ones. -/
def popcount (w : Word) : Nat := (List.range 32).foldl (fun acc i => if w.getLsbD i then acc + 1 else acc) 0

/-- Leading zeros, 0 to 32. -/
def leadingZeros (w : Word) : Nat := 32 - bitLen w.toNat

/-- Bits reversed. -/
def bitReverse (w : Word) : Word :=
  (List.range 32).foldl (fun acc i => if w.getLsbD i then acc ||| BitVec.ofNat 32 (2 ^ (31 - i)) else acc) 0

/-- An integer clamped to a range. -/
def clampInt (lo hi z : Int) : Int := if z < lo then lo else if hi < z then hi else z

/-- A sum or difference wrapped (m = 0), saturated to .i32 (1) or to .n32 (2) (R351). -/
def addSat (m : Nat) (a b : Word) : Word :=
  match m with
  | 0 => a + b
  | 1 => BitVec.ofInt 32 (clampInt (-2147483648) 2147483647 (a.toInt + b.toInt))
  | _ => BitVec.ofNat 32 (min 4294967295 (a.toNat + b.toNat))

def subSat (m : Nat) (a b : Word) : Word :=
  match m with
  | 0 => a - b
  | 1 => BitVec.ofInt 32 (clampInt (-2147483648) 2147483647 (a.toInt - b.toInt))
  | _ => BitVec.ofNat 32 (a.toNat - b.toNat)

/-- High half of the product, signed (t = 0) or unsigned. -/
def mulHigh (t : BitVec 1) (a b : Word) : Word :=
  if t = 0 then BitVec.ofInt 32 ((a.toInt * b.toInt) / 4294967296) else BitVec.ofNat 32 (a.toNat * b.toNat / 4294967296)

/-- Order of two values, signed (t = 0) or unsigned. -/
def ltBy (t : BitVec 1) (a b : Word) : Bool := if t = 0 then decide (a.toInt < b.toInt) else decide (a.toNat < b.toNat)

def minBy (t : BitVec 1) (a b : Word) : Word := if ltBy t a b then a else b
def maxBy (t : BitVec 1) (a b : Word) : Word := if ltBy t a b then b else a

/-- |a - b|, exact, as an unsigned value. -/
def absDiff (t : BitVec 1) (a b : Word) : Word :=
  if t = 0 then BitVec.ofNat 32 (a.toInt - b.toInt).natAbs else BitVec.ofNat 32 ((a.toNat : Int) - (b.toNat : Int)).natAbs

/-- Shifts by a count of 0 to 63; 32 or more empties the word, or fills it with its sign (R351). -/
def shiftLeft (a : Word) (n : Nat) : Word := if 32 ≤ n then 0 else a <<< n
def shiftRight (a : Word) (n : Nat) : Word := if 32 ≤ n then 0 else a >>> n
def shiftArith (a : Word) (n : Nat) : Word := a.sshiftRight (min n 31)

/-- The shift count in a register: bits [5:0]. -/
def shiftCount (b : Word) : Nat := b.toNat % 64

/-- BFX (R352). -/
def bitExtract (t : BitVec 1) (a b : Word) : Word :=
  let pos := b.toNat % 32
  let len := b.toNat / 256 % 64
  let w := min len (32 - pos)
  if w = 0 then 0
  else
    let f := a.toNat / 2 ^ pos % 2 ^ w
    if t = 1 ∧ 2 ^ (w - 1) ≤ f then BitVec.ofInt 32 ((f : Int) - ((2 ^ w : Nat) : Int)) else BitVec.ofNat 32 f

/-- BFI (R352). -/
def bitInsert (d a b : Word) : Word :=
  let pos := b.toNat % 32
  let len := b.toNat / 256 % 64
  let w := min len (32 - pos)
  let m := BitVec.ofNat 32 ((2 ^ w - 1) * 2 ^ pos)
  (d &&& ~~~m) ||| ((a <<< pos) &&& m)

/-- One byte of PRMT's source (R356): bytes 0 to 3 are va, 4 to 7 the old vd. -/
def permSource (a d : Word) (i : Nat) : Nat := (a.toNat + d.toNat * 4294967296) / 2 ^ (8 * (i % 8)) % 256

/-- PRMT and PRMTS (R356). -/
def bytePermute (a d sel : Word) : Word :=
  BitVec.ofNat 32 ((List.range 4).foldl (fun acc k =>
    let c := sel.toNat / 2 ^ (8 * k) % 32
    let x := permSource a d c
    let r := match c / 8 with
      | 0 => x
      | 1 => 0
      | 2 => if 128 ≤ x then 255 else 0
      | _ => 255
    acc + r * 2 ^ (8 * k)) 0)

/-- ICMP's conditions (R354). -/
def icmpCond (c : Nat) (a b : Word) : Bool :=
  match c with
  | 0 => a == b
  | 1 => a != b
  | 2 => ltBy 0 a b
  | 3 => !ltBy 0 b a
  | 4 => ltBy 1 a b
  | _ => !ltBy 1 b a

/-- The conditions of ICMPS, SCMP and SCMPI, with a type (R320, R354). -/
def scmpCond (t : BitVec 1) (c : Nat) (a b : Word) : Bool :=
  match c with
  | 0 => a == b
  | 1 => a != b
  | 2 => ltBy t a b
  | 3 => !ltBy t b a
  | 4 => ltBy t b a
  | _ => !ltBy t a b

/-! ### Shapes -/

/-- A lane instruction writing one register from the lane's own values: source waybill and value by lane (R348, R349). -/
def laneOp (i : Instr) (d : BitVec 7) (src : Str → Waybill) (f : Str → Path → Nat → Word) (s : State) : Out :=
  issued i s fun t p => finish s (writeLanes t p d.toNat 1 (src t) (fun l => (f t p l).toNat)) p

/-- Two vector sources. -/
def lane2 (i : Instr) (d a b : BitVec 7) (f : Word → Word → Word) (s : State) : Out :=
  laneOp i d (fun t => t.vw a.toNat ||| t.vw b.toNat) (fun t _ l => f (t.vget a.toNat l) (t.vget b.toNat l)) s

/-- Two vector sources and the old destination. -/
def lane3 (i : Instr) (d a b : BitVec 7) (f : Word → Word → Word → Word) (s : State) : Out :=
  laneOp i d (fun t => t.vw a.toNat ||| t.vw b.toNat ||| t.vw d.toNat)
    (fun t _ l => f (t.vget a.toNat l) (t.vget b.toNat l) (t.vget d.toNat l)) s

/-- One vector source. -/
def lane1 (i : Instr) (d a : BitVec 7) (f : Word → Word) (s : State) : Out :=
  laneOp i d (fun t => t.vw a.toNat) (fun t _ l => f (t.vget a.toNat l)) s

/-- A vector and a uniform source. -/
def laneS (i : Instr) (d a : BitVec 7) (u : BitVec 6) (f : Word → Word → Word) (s : State) : Out :=
  laneOp i d (fun t => t.vw a.toNat ||| t.sw u.toNat) (fun t _ l => f (t.vget a.toNat l) (t.sget u.toNat)) s

/-! ### Integer and bit operations (R351, R352) -/

def execIadd (d a b : BitVec 7) (m : BitVec 3) (s : State) : Out := lane2 (.iadd d a b m) d a b (addSat m.toNat) s
def execIsub (d a b : BitVec 7) (m : BitVec 3) (s : State) : Out := lane2 (.isub d a b m) d a b (subSat m.toNat) s
def execImul (d a b : BitVec 7) (s : State) : Out := lane2 (.imul d a b) d a b (fun x y => x * y) s
def execImulh (d a b : BitVec 7) (t : BitVec 1) (s : State) : Out := lane2 (.imulh d a b t) d a b (mulHigh t) s
def execImad (d a b : BitVec 7) (s : State) : Out := lane3 (.imad d a b) d a b (fun x y z => x * y + z) s
def execImin (d a b : BitVec 7) (t : BitVec 1) (s : State) : Out := lane2 (.imin d a b t) d a b (minBy t) s
def execImax (d a b : BitVec 7) (t : BitVec 1) (s : State) : Out := lane2 (.imax d a b t) d a b (maxBy t) s
def execIabsd (d a b : BitVec 7) (t : BitVec 1) (s : State) : Out := lane2 (.iabsd d a b t) d a b (absDiff t) s
def execAndV (d a b : BitVec 7) (s : State) : Out := lane2 (.andV d a b) d a b (fun x y => x &&& y) s
def execOrV (d a b : BitVec 7) (s : State) : Out := lane2 (.orV d a b) d a b (fun x y => x ||| y) s
def execXor (d a b : BitVec 7) (s : State) : Out := lane2 (.xor d a b) d a b (fun x y => x ^^^ y) s
def execAndn (d a b : BitVec 7) (s : State) : Out := lane2 (.andn d a b) d a b (fun x y => x &&& ~~~y) s
def execShl (d a b : BitVec 7) (s : State) : Out := lane2 (.shl d a b) d a b (fun x y => shiftLeft x (shiftCount y)) s
def execShr (d a b : BitVec 7) (s : State) : Out := lane2 (.shr d a b) d a b (fun x y => shiftRight x (shiftCount y)) s
def execSra (d a b : BitVec 7) (s : State) : Out := lane2 (.sra d a b) d a b (fun x y => shiftArith x (shiftCount y)) s
def execBfx (d a b : BitVec 7) (t : BitVec 1) (s : State) : Out := lane2 (.bfx d a b t) d a b (bitExtract t) s
def execBfi (d a b : BitVec 7) (s : State) : Out := lane3 (.bfi d a b) d a b (fun x y z => bitInsert z x y) s
def execPopc (d a : BitVec 7) (s : State) : Out := lane1 (.popc d a) d a (fun x => BitVec.ofNat 32 (popcount x)) s
def execClz (d a : BitVec 7) (s : State) : Out := lane1 (.clz d a) d a (fun x => BitVec.ofNat 32 (leadingZeros x)) s
def execBrev (d a : BitVec 7) (s : State) : Out := lane1 (.brev d a) d a bitReverse s

/-! ### Immediate and uniform forms (R353) -/

def execMovi (d : BitVec 7) (imm : BitVec 10) (s : State) : Out :=
  laneOp (.movi d imm) d (fun _ => 0) (fun _ _ _ => imm.signExtend 32) s
def execIaddi (d a : BitVec 7) (imm : BitVec 10) (s : State) : Out :=
  lane1 (.iaddi d a imm) d a (fun x => x + imm.signExtend 32) s
def execAndi (d a : BitVec 7) (imm : BitVec 10) (s : State) : Out :=
  lane1 (.andi d a imm) d a (fun x => x &&& imm.setWidth 32) s
def execOri (d a : BitVec 7) (imm : BitVec 10) (s : State) : Out :=
  lane1 (.ori d a imm) d a (fun x => x ||| imm.setWidth 32) s
def execXori (d a : BitVec 7) (imm : BitVec 10) (s : State) : Out :=
  lane1 (.xori d a imm) d a (fun x => x ^^^ imm.setWidth 32) s
def execShli (d a : BitVec 7) (n : BitVec 5) (s : State) : Out := lane1 (.shli d a n) d a (fun x => shiftLeft x n.toNat) s
def execShri (d a : BitVec 7) (n : BitVec 5) (s : State) : Out := lane1 (.shri d a n) d a (fun x => shiftRight x n.toNat) s
def execSrai (d a : BitVec 7) (n : BitVec 5) (s : State) : Out := lane1 (.srai d a n) d a (fun x => shiftArith x n.toNat) s
def execIadds (d a : BitVec 7) (u : BitVec 6) (m : BitVec 2) (s : State) : Out :=
  laneS (.iadds d a u m) d a u (addSat m.toNat) s
def execMovs (d : BitVec 7) (u : BitVec 6) (s : State) : Out :=
  laneOp (.movs d u) d (fun t => t.sw u.toNat) (fun t _ _ => t.sget u.toNat) s

/-! ### Comparison and movement (R354 to R356) -/

def execIcmp (p : BitVec 3) (a b : BitVec 7) (c : BitVec 3) (s : State) : Out :=
  issued (.icmp p a b c) s fun t x =>
    finish s (writePred t x p.toNat (t.vw a.toNat ||| t.vw b.toNat)
      (fun l => icmpCond c.toNat (t.vget a.toNat l) (t.vget b.toNat l))) x

def execIcmps (p : BitVec 3) (a : BitVec 7) (u : BitVec 6) (ty : BitVec 1) (c : BitVec 3) (s : State) : Out :=
  issued (.icmps p a u ty c) s fun t x =>
    finish s (writePred t x p.toNat (t.vw a.toNat ||| t.sw u.toNat)
      (fun l => scmpCond ty c.toNat (t.vget a.toNat l) (t.sget u.toNat))) x

def execSel (d a b : BitVec 7) (p : BitVec 3) (s : State) : Out :=
  laneOp (.sel d a b p) d (fun t => t.vw a.toNat ||| t.vw b.toNat ||| t.pw p.toNat)
    (fun t _ l => if lane (t.pget p.toNat) l then t.vget a.toNat l else t.vget b.toNat l) s

def execMov (d a : BitVec 7) (s : State) : Out := lane1 (.mov d a) d a (fun x => x) s

def execLane (d : BitVec 7) (m : BitVec 3) (s : State) : Out :=
  laneOp (.lane d m) d (fun _ => 0) (fun _ _ l => BitVec.ofNat 32 (if m = 0 then l else 2 ^ l - 1)) s

def execPrmt (d a b : BitVec 7) (s : State) : Out := lane3 (.prmt d a b) d a b (fun x y z => bytePermute x z y) s

def execPrmts (d a : BitVec 7) (u : BitVec 6) (s : State) : Out :=
  laneOp (.prmts d a u) d (fun t => t.vw a.toNat ||| t.vw d.toNat ||| t.sw u.toNat)
    (fun t _ l => bytePermute (t.vget a.toNat l) (t.vget d.toNat l) (t.sget u.toNat)) s

/-! ### Across the lanes (R369 to R371) -/

/-- The source lane of SHFL: the segment's first lane plus the selected rank. -/
def shflSource (g : BitVec 1) (m : BitVec 2) (l v : Nat) : Nat :=
  let w := if g = 0 then 32 else 4
  let r := l % w
  let d := v % 32 % w
  let t := match m.toNat with
    | 0 => d
    | 1 => (r + d) % w
    | 2 => (d + w - r) % w
    | _ => r ^^^ d
  l - r + t

def execShfl (d a b : BitVec 7) (g : BitVec 1) (m : BitVec 2) (s : State) : Out :=
  laneOp (.shfl d a b g m) d (fun t => t.vw a.toNat ||| t.vw b.toNat ||| t.vw d.toNat)
    (fun t p l =>
      let src := shflSource g m l (t.vget b.toNat l).toNat
      if lane p.cmask src then t.vget a.toNat src else t.vget d.toNat l) s

/-- VOTE's result in lane l, from the mask of clause lanes where the predicate is 1. -/
def voteOf (m : Nat) (x : Lanes) (l : Nat) : Word :=
  match m with
  | 0 => x
  | 1 => BitVec.ofNat 32 (popcount x)
  | 2 => BitVec.ofNat 32 (popcount (x &&& BitVec.ofNat 32 (2 ^ l - 1)))
  | 3 => BitVec.ofNat 32 ((lanesOf x).headD 32)
  | _ => BitVec.ofNat 32 ((lanesOf x).getLastD 32)

def execVote (d : BitVec 7) (p : BitVec 3) (m : BitVec 3) (s : State) : Out :=
  laneOp (.vote d p m) d (fun t => t.pw p.toNat) (fun t x l => voteOf m.toNat (t.pget p.toNat &&& x.cmask) l) s

/-- MATCH's result in lane l, from the clause lanes whose value equals lane l's. -/
def matchOf (k : Nat) (same : Lanes) (l : Nat) : Word :=
  match k with
  | 0 => BitVec.ofNat 32 ((lanesOf same).headD 0)
  | 1 => BitVec.ofNat 32 (popcount same)
  | _ => BitVec.ofNat 32 (popcount (same &&& BitVec.ofNat 32 (2 ^ l - 1)))

def execMatchV (d a : BitVec 7) (k : BitVec 2) (w : BitVec 1) (s : State) : Out :=
  laneOp (.matchV d a k w) d (fun t => t.vws a.toNat (if w = 1 then 2 else 1))
    (fun t p l =>
      let n := if w = 1 then 2 else 1
      matchOf k.toNat (laneMask (fun x => lane p.cmask x && t.vgroup a.toNat n x == t.vgroup a.toNat n l)) l) s

end Sys2Proof.Machine
end

