-- ==== Sys2Proof/Machine/Lines.lean ====
section
/-! DEFINITION. Lines under access: merging the bytes of lanes (R131, R428), the L1 (R71 to R77), the atomic unit (R87, R88), the
on-chip banks (R65 to R67), and the operations of atomics (R378). -/

namespace Sys2Proof.Machine

/-! ### Merging the lanes of one store -/

/-- The single-copy pieces of a lane's part of a request: a 16-byte access is two halves (R130). -/
def pieces (r : LaneReq) : List LaneReq :=
  if r.size = 16 then
    [{ r with lane := r.lane + 32, size := 8, data := r.data % 2 ^ 64 },
      { r with lane := r.lane + 64, addr := r.addr + 8, size := 8, data := r.data / 2 ^ 64 }]
  else [r]

/-- The bit that names a piece: its lane, or 32 more for an upper half. -/
def LaneReq.bit (r : LaneReq) : Nat := if r.lane < 64 then r.lane % 32 else r.lane - 32

/-- Before another piece of the same store: pieces of different units by address, pieces of one unit in an order that is not
defined (R131). -/
def pieceFirst (rid : Nat) (a b : LaneReq) : Bool :=
  if a.addr / 8 = b.addr / 8 then decide (Config.laneRank rid (a.addr / 8) (a.lane % 32) ≤ Config.laneRank rid (b.addr / 8) (b.lane % 32))
  else decide (a.addr / 8 < b.addr / 8)

def insertPiece (rid : Nat) (a : LaneReq) : List LaneReq → List LaneReq
  | [] => [a]
  | b :: t => if pieceFirst rid a b then a :: b :: t else b :: insertPiece rid a t

/-- The pieces of a store in the order they land. -/
def landing (rid : Nat) (ls : List LaneReq) : List LaneReq := (ls.flatMap pieces).foldr (insertPiece rid) []

/-- The bytes of a line or block that the lanes cover, as a mask. -/
def coverage (unit : Nat) (ls : List LaneReq) : Nat :=
  ls.foldl (fun acc r => acc ||| ((2 ^ r.size - 1) * 2 ^ (r.addr % unit))) 0

/-- A line with a store's bytes merged. -/
def mergeLine (rid : Nat) (ls : List LaneReq) (d : Line) : Line :=
  (landing rid ls).foldl (fun d r => linePut d (r.addr % 128) r.size r.data) d

/-- Halves of a line covered whole. -/
def coveredHalves (cov : Nat) : Nat :=
  (if cov % 2 ^ 64 = 2 ^ 64 - 1 then 1 else 0) + (if cov / 2 ^ 64 % 2 ^ 64 = 2 ^ 64 - 1 then 2 else 0)

/-- The waybill a store leaves on a unit (R428): replaced by a write of every byte, otherwise grown. -/
def storeWb (whole : Bool) (old new : Waybill) : Waybill := if whole then new else old ||| new

/-- Poisoned halves after a store: a half covered whole is clean (R90). -/
def storePoison (cov old : Nat) : Nat := old &&& (3 - coveredHalves cov)

/-- A store of lanes to an L2 line (R81, R82, R90, R428). -/
def L2Line.merge (l : L2Line) (rid : Nat) (ls : List LaneReq) (wb : Waybill) : L2Line :=
  let cov := coverage 128 ls
  { data := mergeLine rid ls l.data, zero := false, dirty := true
    wb := storeWb (cov == 2 ^ 128 - 1) l.wb wb, poison := storePoison cov l.poison }

/-- Stores of one core merged into a line, in order. -/
def mergeAll (l : L2Line) (later : List (Nat × List LaneReq × Waybill)) : L2Line := later.foldl (fun l e => l.merge e.1 e.2.1 e.2.2) l

/-- The pieces of a request performed now and those that stay, of which `mask` names the first, 0 naming all (R130, R131). A store that covers a
whole half goes in one; the lanes a store of the L2 writes to one unit go together, and so do a lane's lower pieces at an atomic unit, which
takes them in ascending order (R87) (DESIGN CHOICE, log 8). -/
def Req.part (r : Req) (mask : Nat) : List LaneReq × List LaneReq :=
  let ls := r.lanes.flatMap pieces
  let cov := coverage (if r.space = 0 then 128 else 256) r.lanes
  let whole := r.kind == .store && (List.range 4).any (fun k => cov / 2 ^ (64 * k) % 2 ^ 64 == 2 ^ 64 - 1)
  let goes := fun (e : LaneReq) => ls.any (fun x => mask.testBit x.bit &&
    (x == e || (r.stage == .l2 && r.kind == .store && x.addr / 8 == e.addr / 8) ||
      (r.stage == .atom && x.lane % 32 == e.lane % 32 && decide (e.addr ≤ x.addr))))
  if mask = 0 || whole || ls.all goes || !ls.any goes then (r.lanes, []) else (ls.filter goes, ls.filter (fun e => !goes e))

/-! ### Atomics (R378) -/

/-- Operations: 0 add, 1 and 2 signed minimum and maximum, 3 and 4 unsigned, 5 and, 6 or, 7 xor, 8 exchange, 9
compare-and-swap, 10 F32 add. -/
def atomNew (op size old data cmp : Nat) : Nat :=
  let a : Word := BitVec.ofNat 32 old
  let b : Word := BitVec.ofNat 32 data
  match op with
  | 0 => (old + data) % 2 ^ (8 * size)
  | 1 => (minBy 0 a b).toNat
  | 2 => (maxBy 0 a b).toNat
  | 3 => (minBy 1 a b).toNat
  | 4 => (maxBy 1 a b).toNat
  | 5 => (a &&& b).toNat
  | 6 => (a ||| b).toNat
  | 7 => (a ^^^ b).toNat
  | 8 => data
  | 9 => if old = cmp then data else old
  | _ => (atFAdd a b).toNat

/-! ### The L1 (R71 to R77) -/

def State.l1Of (s : State) (core : Nat) : List CLine := tget [] s.mem.l1 core
def State.setL1 (s : State) (core : Nat) (l : List CLine) : State := { s with mem := { s.mem with l1 := tset [] s.mem.l1 core l } }

def CLine.is (c : CLine) (world line : Nat) : Bool := c.world == world && c.line == line

/-- The line of a world in a core's L1. -/
def State.l1Find (s : State) (core world line : Nat) : Option CLine := (s.l1Of core).find? (fun c => c.is world line)

/-- A hit makes the line the most recently used (R71). -/
def State.l1Touch (s : State) (core world line : Nat) : State :=
  match s.l1Find core world line with
  | none => s
  | some c => s.setL1 core (c :: (s.l1Of core).filter (fun x => !x.is world line))

/-- Drop a line of a world from a core's L1. -/
def State.l1Drop (s : State) (core world line : Nat) : State := s.setL1 core ((s.l1Of core).filter (fun x => !x.is world line))


/-- The budget mask of a world (R287); world 0 has none (R479). -/
def State.budgetMask (s : State) (world : Nat) : Nat :=
  match s.partOf world with
  | none => 0xFFFF
  | some p =>
    let own := (s.preg p 0x0D7).toNat % 65536
    if s.topOf p = p then own else own &&& ((s.preg (s.topOf p) 0x0D7).toNat % 65536)

/-- The effective way mask (R74). -/
def State.wayMask (s : State) (world : Nat) : Nat := ((s.wreg world 0x050).toNat % 65536) &&& s.budgetMask world

/-- The way a fill takes among `ways` of a set: the lowest free one, otherwise the least recently used (R73). -/
def victimWay (l : List CLine) (set : Nat) (ways : List Nat) : Option Nat :=
  let used := (l.filter (fun c => c.set == set)).map CLine.way
  match ways.find? (fun w => !used.contains w) with
  | some w => some w
  | none => (used.filter (fun w => ways.contains w)).getLast?

/-- Install a line that its fill brought (R73); a zero-flagged one in a zero tag (R76). -/
def State.l1Fill (s : State) (core world line : Nat) (data : Line) (zero : Bool) (wb : Waybill) (poison : Nat) : State :=
  let l := (s.l1Of core).filter (fun x => !x.is world line)
  let set := line % 64
  let ways := if zero then [16, 17, 18, 19] else (List.range 16).filter (fun w => (s.wayMask world).testBit w)
  match victimWay l set ways with
  | none => s.setL1 core l
  | some w =>
    s.setL1 core (⟨set, w, world, line, data, wb, poison⟩ :: l.filter (fun c => !(c.set == set && c.way == w)))

/-- A store that hits updates the line in place, and promotes a zero tag (R72, R76). -/
def State.l1Store (s : State) (core world line rid : Nat) (ls : List LaneReq) (wb : Waybill) : State :=
  match s.l1Find core world line with
  | none => s
  | some c =>
    let cov := coverage 128 ls
    let d := mergeLine rid ls c.data
    let w := storeWb (cov == 2 ^ 128 - 1) c.wb wb
    let p := storePoison cov c.poison
    if 16 ≤ c.way then s.l1Fill core world line d false w p
    else s.setL1 core ({ c with data := d, wb := w, poison := p } :: (s.l1Of core).filter (fun x => !x.is world line))

/-- The stores of a core to a line of a world that its home has yet to perform, in the order they were issued. -/
def State.owed (s : State) (core world line : Nat) : List (Nat × List LaneReq × Waybill) :=
  (s.mem.reqs.filter (fun e => e.core == core && e.world == world && e.space == 0 && e.line == line && e.kind == .store && e.stage != .atom)).map
    (fun e => (e.rid, e.lanes, e.wb))

/-- Requests on their way to a core's L1 for a line of a world, changed. -/
def State.onFills (s : State) (core world line : Nat) (f : Req → Req) : State :=
  { s with mem := { s.mem with reqs := s.mem.reqs.map (fun e =>
      if e.core = core ∧ e.world = world ∧ e.space = 0 ∧ e.line = line ∧ e.stage = Stage.l1 ∧ e.kind ≠ .ifetch ∧ e.kind ≠ .cfetch then f e else e) } }

/-- Once a path has read a line at its home, its core's L1 holds no older copy (R142): a copy there takes what the home holds, with the core's
stores still owed, and so does what a fill on its way installs (DEDUCED, log 14). -/
def State.l1Refresh (s : State) (core world line : Nat) (l : L2Line) : State :=
  let owed := s.owed core world line
  let s := s.onFills core world line (fun e => { e with inst := some (l.data, l.zero, l.wb, l.poison), later := owed })
  match s.l1Find core world line with
  | none => s
  | some c =>
    let x := mergeAll l owed
    if 16 ≤ c.way then (if x.zero then s else s.l1Fill core world line x.data false x.wb x.poison)
    else s.setL1 core ((s.l1Of core).map (fun e => if e.is world line then { e with data := x.data, wb := x.wb, poison := x.poison } else e))

/-- An engine operation of a core has written a line of its world: the core's L1 drops it, and what a fill on its way installs is the line as its home
holds it now (R149, R73). -/
def State.l1Forget (s : State) (core world line : Nat) : State :=
  match s.l2? (world == 0) world line with
  | none => (s.l1Drop core world line).onFills core world line (fun r => { r with noInstall := true })
  | some l => (s.l1Drop core world line).l1Refresh core world line l

/-- The line a core's L1 holds of a world, with its zero flag, waybill and poison, as what its home holds with the stores owed. -/
def State.l1Install (s : State) (core world line : Nat) (l : L2Line) (later : List (Nat × List LaneReq × Waybill)) : State :=
  let x := mergeAll l later
  let s := s.l1Fill core world line x.data x.zero x.wb x.poison
  if (s.l1Find core world line).isNone then s
  else { s with mem := { s.mem with reqs := s.mem.reqs.map (fun e =>
      if e.core = core ∧ e.world = world ∧ e.space = 0 ∧ e.line = line ∧ e.kind = .store then { e with seen := true } else e) } }

/-- An acquire at .cvy or wider removes the world's lines from its core's L1 (R77), and the fills on their way are not
installed (R73). -/
def State.l1Acquire (s : State) (core world : Nat) : State :=
  let s := s.setL1 core ((s.l1Of core).filter (fun c => c.world != world))
  { s with mem := { s.mem with reqs := s.mem.reqs.map (fun r =>
      if r.core == core && r.world == world && r.kind != .ifetch && r.kind != .cfetch then { r with noInstall := true } else r) } }

/-- Scopes at which an acquire reaches the L1 (R77): .cvy, .die, .pkg, .dom. -/
def State.acquireAt (s : State) (core world scope : Nat) : State := if 2 ≤ scope then s.l1Acquire core world else s

/-! ### Sampling (R54 to R57) -/

/-- A random interval between samples when JIT = 1 (R54). -/
def jitter (k x : Nat) : Nat := 2 ^ k - 2 ^ (k - 2) + x % (2 ^ (k - 1) + 1)

/-- The sampler adds 1 to the score of the resident copy an access with HOME = 1 was made to (R115). -/
def State.bumpScore (s : State) (world va : Nat) : State :=
  { s with way := { s.way with copies := s.way.copies.map (fun c =>
      if c.world == world && c.vpn == va % 2 ^ 57 / 2 ^ pageBits c.size * 2 ^ (pageBits c.size - 12) then
        { c with score := min 65535 (c.score + 1) } else c) } }

/-- Count an access of a partition that reaches a slice, and record every 2^K-th (R54 to R57). The sampler is that of the accessing core's die, and
a write of sys.smpctl leaves the interval under way as it is (DESIGN CHOICE, log 125). -/
def State.sampleAt (s : State) (core world ty psize : Nat) (home hit : Bool) (gpa va : Nat) : State :=
  match s.partOf world with
  | none => s
  | some p =>
    let die := dieOf core
    let ctl := tget 0x11E00000 s.partRegs ((p * 4 + die + 32) * 4096 + 0x066)
    let bit := if ty = 0 then 21 else if ty = 1 ∨ ty = 2 then 22 else if ty = 3 then 23 else 24
    if !ctl.getLsbD 31 || !ctl.getLsbD bit || (ctl.getLsbD 12 && (ctl.extractLsb' 13 8).toNat != world) then s
    else
      let k := (ctl.extractLsb' 25 5).toNat
      let key := p * 4 + die
      let draw := fun (s : State) => if ctl.getLsbD 30 then (jitter k (Config.freeWord s.fresh).toNat, { s with fresh := s.fresh + 1 }) else (2 ^ k, s)
      let (left, s) := if tget 0 s.xl.sample key = 0 then draw s else (tget 0 s.xl.sample key, s)
      if 1 < left then { s with xl := { s.xl with sample := tset 0 s.xl.sample key (left - 1) } }
      else
        let (next, s) := draw s
        let s := { s with xl := { s.xl with sample := tset 0 s.xl.sample key next } }
        let ring := (tget 0 s.partRegs ((p * 4 + die + 32) * 4096 + 0x067)).toNat
        let s := if home then s.bumpScore world va else s
        s.ringPut (some p) ring (gpa % 2 ^ 52 * 2 ^ 192 + p * 2 ^ 160 + (if home then 2 ^ 151 else 0) + (if hit then 2 ^ 150 else 0) +
          psize % 4 * 2 ^ 148 + ty % 8 * 2 ^ 145 + core * 2 ^ 136 + world * 2 ^ 128 + s.time % 2 ^ 64 * 2 ^ 64 + va % 2 ^ 57)

/-! ### The atomic unit (R87, R88) -/

/-- Data, waybill and poison of a line at its controller. -/
def State.atomLine (s : State) (h line : Nat) : Line × Waybill × Nat :=
  if regionOf h = .hbm then
    ((readKeyed s.mem (h / 128) (s.memKey (s.ownerOf h)) line).1, s.granWaybill h, hbmPoison s.mem (h / 128))
  else (0, 0, 0)

/-- Write a line at its controller: the granule's waybill grows, the dirty bit is set (R53, R58, R88). -/
def State.atomPut (s : State) (ident : Bool) (tag h line : Nat) (d : Line) (wb : Waybill) (poison : Nat) : State :=
  if regionOf h = .hbm then
    let s := { s with mem := setHbmPoison (writeKeyed s.mem (h / 128) (s.memKey (s.ownerOf h)) line d) (h / 128) poison }
    ((s.orGranWb h wb).markDirtyFor ident tag (line * 128)).charge (stackOf h) (if ident then none else s.partOf tag)
  else s

/-! ### On-chip storage (R65 to R67) -/

/-- A byte of scratchpad (1), convoy memory (2) or depot (3) by its key. -/
def State.chipByte (s : State) (space k : Nat) : Byte :=
  match space with
  | 1 => tget 0 s.mem.sp k
  | 2 => tget 0 s.mem.cv k
  | _ => tget 0 s.mem.dp k

def State.setChipByte (s : State) (space k : Nat) (b : Byte) : State :=
  match space with
  | 1 => { s with mem := { s.mem with sp := tset 0 s.mem.sp k b } }
  | 2 => { s with mem := { s.mem with cv := tset 0 s.mem.cv k b } }
  | _ => { s with mem := { s.mem with dp := tset 0 s.mem.dp k b } }

/-- n bytes of on-chip storage as a number. -/
def State.chipGet (s : State) (space k : Nat) : Nat → Nat
  | 0 => 0
  | n + 1 => (s.chipByte space k).toNat + 256 * State.chipGet s space (k + 1) n

/-- Write n bytes of a number. -/
def State.chipPut (s : State) (space k v : Nat) : Nat → State
  | 0 => s
  | n + 1 => State.chipPut (s.setChipByte space k (BitVec.ofNat 8 v)) space (k + 1) (v / 256) n

/-- The waybill of a 256-byte block. -/
def State.chipWb (s : State) (space blk : Nat) : Waybill :=
  match space with
  | 1 => tget 0 s.mem.spwb blk
  | 2 => tget 0 s.mem.cvwb blk
  | _ => tget 0 s.mem.dpwb blk

def State.setChipWb (s : State) (space blk : Nat) (w : Waybill) : State :=
  match space with
  | 1 => { s with mem := { s.mem with spwb := tset 0 s.mem.spwb blk w } }
  | 2 => { s with mem := { s.mem with cvwb := tset 0 s.mem.cvwb blk w } }
  | _ => { s with mem := { s.mem with dpwb := tset 0 s.mem.dpwb blk w } }

/-- Is a 64-byte region poisoned? -/
def State.chipPoison (s : State) (space reg : Nat) : Bool :=
  match space with
  | 1 => tget false s.mem.sppo reg
  | 2 => tget false s.mem.cvpo reg
  | _ => tget false s.mem.dppo reg

def State.setChipPoison (s : State) (space reg : Nat) (b : Bool) : State :=
  match space with
  | 1 => { s with mem := { s.mem with sppo := tset false s.mem.sppo reg b } }
  | 2 => { s with mem := { s.mem with cvpo := tset false s.mem.cvpo reg b } }
  | _ => { s with mem := { s.mem with dppo := tset false s.mem.dppo reg b } }

/-- A store of lanes to one 256-byte block: bytes, waybill and poison (R90, R428). -/
def State.chipStore (s : State) (space blk rid : Nat) (ls : List LaneReq) (wb : Waybill) : State :=
  let s := (landing rid ls).foldl (fun s r => s.chipPut space r.addr r.data r.size) s
  let cov := coverage 256 ls
  let s := s.setChipWb space blk (storeWb (cov == 2 ^ 256 - 1) (s.chipWb space blk) wb)
  (List.range 4).foldl (fun s k =>
    if cov / 2 ^ (64 * k) % 2 ^ 64 = 2 ^ 64 - 1 then s.setChipPoison space (4 * blk + k) false else s) s

/-- Where a byte range of a party's on-chip space lies, seen from a core, with the core whose storage it is; none outside the
allocation (R65, R66, R67). -/
def State.chipAt (s : State) (party launch core space addr size : Nat) : Option (Nat × Nat) :=
  match space with
  | 1 =>
    match tfind s.sch.parties party with
    | none => none
    | some p => if addr + size ≤ p.spSize then some (core * 2 ^ 20 + p.spBase + addr, core) else none
  | 2 =>
    match tfind s.sch.cvAlloc (party / 8) with
    | none => none
    | some (base, n) =>
      if addr + size ≤ 2 ^ 21 ∧ addr % 2 ^ 18 + size ≤ n then
        some ((convoyOf core * 8 + addr / 2 ^ 18) * 2 ^ 18 + base + addr % 2 ^ 18, convoyOf core * 8 + addr / 2 ^ 18)
      else none
  | _ =>
    match tfind s.sch.dpAlloc (launch * 4 + dieOf core) with
    | none => none
    | some (base, n) => if addr + size ≤ n then some (dieOf core * 2 ^ 26 + base + addr, core) else none

/-- ... for a string. -/
def State.chipAddr (s : State) (t : Str) (core space addr size : Nat) : Option (Nat × Nat) :=
  s.chipAt t.party t.launch core space addr size

end Sys2Proof.Machine
end

