-- ==== Sys2Proof/Machine/Access.lean ====
section
/-! DEFINITION. The issue of a memory access (R38, R97 to R100, R133 to R142, R373, R374): the checks of every lane, parks, the
requests it leaves, and the values it can take at once. -/

namespace Sys2Proof.Machine

/-- A memory instruction with its operand form settled. -/
structure MemOp where
  space : Nat
  kind : ReqKind
  size : Nat
  /-- sys.tinfo ACCESS (R39) -/
  acc : Nat
  strong : Bool
  acq : Bool
  rel : Bool
  scope : Nat
  atop : Nat
  dest : Dest
  /-- the flag slot; none for an instruction that binds nothing -/
  slot : Option (BitVec 1)
  uniform : Bool
deriving DecidableEq, Repr

/-- Write-type: a store or an atomic. -/
def MemOp.write (m : MemOp) : Bool := m.kind == .store || m.kind == .atomic

/-! ### Order (R137 to R140, R146) -/

/-- An access that has yet to be performed or satisfied (R136): a plain load is satisfied once its home has answered. -/
def Req.isOpen (e : Req) : Bool :=
  e.stage != .l1 && (e.kind == .load || e.kind == .store || e.kind == .atomic || e.kind == .cfetch)

/-- Is an access of a path of the string, of an operation, before everything the path issues now (R146)? -/
def Path.follows (p : Path) (pid op : Nat) : Bool :=
  p.id == pid || decide (op < p.since) || p.line.any (fun x => x.1 == pid && decide (op < x.2.getD (op + 1)))

/-- The requests of a unit, still open, that come before what path p issues as operation n. -/
def State.earlier (s : State) (u : Nat) (p : Path) (n : Nat) : List Req :=
  s.mem.reqs.filter (fun e => e.isOpen && e.unit == u && decide (e.op < n) && p.follows e.pid e.op)

/-- Do two lists of parts touch a common byte? -/
def overlap (a b : List LaneReq) : Bool :=
  a.any (fun x => b.any (fun y => decide (x.addr < y.addr + y.size) && decide (y.addr < x.addr + x.size)))

/-- Is the order of request e before a later access r of path p kept (R137, R139, R148, R81)? -/
def kept (e r : Req) (p : Path) : Bool :=
  let write := r.kind == .store || r.kind == .atomic
  (e.space == r.space && (overlap e.lanes r.lanes || (r.kind == .store && e.kind == .store && e.line == r.line))) ||
    (write && e.kind != .store) || (r.strong && r.kind != .store && e.strong && e.kind != .store) || e.acq || r.rel ||
    decide (e.op < p.saved)

/-- A store another string of the core may have read in the L1 comes before what that string reads at its home (R142) (DEDUCED, log 14). -/
def State.seenBefore (s : State) (r : Req) : List Req :=
  s.mem.reqs.filter (fun e => e.seen && e.isOpen && r.kind != .store && r.space == 0 && e.core == r.core && e.world == r.world &&
    decide (e.op < r.op) && overlap e.lanes r.lanes)

/-- The requests that are performed or satisfied before a new one of path p. -/
def State.waitsOf (s : State) (p : Path) (r : Req) : List Nat :=
  (((s.earlier r.unit p r.op).filter (fun e => kept e r p)) ++ s.seenBefore r).map Req.rid

/-- Is a request held back by one before it (R137)? -/
def State.heldBack (s : State) (r : Req) : Bool := s.mem.reqs.any (fun e => e.isOpen && r.waits.contains e.rid)

/-- Has every access of a unit been performed or satisfied? -/
def State.quiet (s : State) (u : Nat) : Bool := !s.mem.reqs.any (fun e => e.unit == u && e.isOpen)

/-- Has every access before what the issuing path does now been performed or satisfied? -/
def State.settled (s : State) (p : Path) : Bool := (s.earlier s.curUnit p s.nextOp).isEmpty

/-! ### Checks of a lane (R373) -/

/-- Alignment, and the address or offset itself: checks 1 and 2. -/
def State.laneShape (s : State) (t : Str) (core : Nat) (m : MemOp) (r : LaneReq) : Option XFault :=
  if r.addr % m.size ≠ 0 then some ⟨1, cALIGN, 0, 0, 0⟩
  else if m.space = 0 then
    if canonical (BitVec.ofNat 64 r.addr) then none else some ⟨2, cPROT, 2, 0, 0⟩
  else if (s.chipAddr t core m.space r.addr m.size).isSome then none else some ⟨2, cPROT, 0, 0, 0⟩

/-- Where a lane's access goes: physical on-chip bytes with the core of the storage, or a translation. -/
inductive Place where
  | chip (phys core : Nat)
  | glob (x : Xlat)
deriving DecidableEq, Repr

/-- Is a range lock hit (R152)? -/
def State.lockHit (s : State) (tab space world : Nat) (write : Bool) (blk : Nat) : Bool :=
  (tget [] s.mem.locks tab).any (fun k =>
    k.space == space && k.world == world && decide (k.first ≤ blk) && decide (blk ≤ k.last) && (write || k.write))

/-- The range-lock check of a lane of a string (R152). -/
def State.laneLock (s : State) (t : Str) (core : Nat) (m : MemOp) (addr : Nat) (pl : Option Place) : Bool :=
  !t.outrider &&
  match pl with
  | some (.chip phys c) => s.lockHit (if m.space = 3 then core else c) m.space t.world m.write (phys / 256)
  | _ => m.space == 0 && s.lockHit core 0 t.world m.write (addr % 2 ^ 57 / 128)

/-- The watchpoint of a string (R256). -/
def watchHit (t : Str) (m : MemOp) (addr : Nat) : Bool :=
  let c := t.reg 0x02D
  let n := 2 ^ (c.extractLsb' 4 4).toNat
  let a := addr % 2 ^ 64
  let w := (t.reg 0x02C).toNat / n * n
  !t.outrider && m.space == 0 && c.getLsbD 31 && (if m.write then c.getLsbD 1 else c.getLsbD 0) &&
    decide (a < w + n) && decide (w < a + m.size)

/-- Translate the lanes in order, keeping what the walks do to the state. -/
def State.xlateLanes (s : State) (core world acc lvl : Nat) : List LaneReq → List (LaneReq × XRes) × State
  | [] => ([], s)
  | r :: t =>
    let (x, s) := s.xlate core world r.addr acc lvl
    let (l, s) := State.xlateLanes s core world acc lvl t
    ((r, x) :: l, s)

/-- The failing lane that is reported: the earliest check, then the lowest lane (R38). -/
def firstFault : List (LaneReq × XFault) → Option (LaneReq × XFault)
  | [] => none
  | a :: t =>
    match firstFault t with
    | none => some a
    | some b => if b.2.rank < a.2.rank then some b else some a

/-- What the checks of translation, range locks and the watchpoint say of each lane. -/
structure Checked where
  bad : List (LaneReq × XFault)
  /-- lanes that park, with the page size and whether ownership is wanted -/
  park : List (LaneReq × Nat × Bool)
  go : List (LaneReq × Place)
deriving DecidableEq, Repr

/-- Locks, then the watchpoint, of a lane that passed translation or would park. -/
def State.laneGuard (s : State) (t : Str) (core : Nat) (m : MemOp) (r : LaneReq) (pl : Option Place) : Option XFault :=
  if s.laneLock t core m r.addr pl then some ⟨40, cRLOCK, 0, 0, 0⟩
  else if watchHit t m r.addr then some ⟨50, cWATCH, 0, 0, 0⟩
  else none

/-- Does a lane's write need the page that its path was woken for with outcome PROT (R113)? -/
def Path.protMet (p : Path) (world : Nat) (m : MemOp) (r : LaneReq) (size : Nat) : Bool :=
  match p.wrec, p.due with
  | some f, some 0 => isWrite m.acc && (f.extractLsb' 120 8).toNat == world &&
      r.addr % 2 ^ 57 / 2 ^ pageBits size == (f.extractLsb' 128 57).toNat / 2 ^ pageBits size
  | _, _ => false

/-- Checks 3 to 5 over all lanes. -/
def State.checkLanes (s : State) (t : Str) (p : Path) (core : Nat) (m : MemOp) (ins : List LaneReq) : Checked × State :=
  if m.space = 0 then
    let (xs, s) := s.xlateLanes core t.world m.acc p.level ins
    (xs.foldr (fun e c =>
      match e.2 with
      | .trap f => { c with bad := (e.1, f) :: c.bad }
      | .park sz own =>
        if p.protMet t.world m e.1 sz then { c with bad := (e.1, ⟨36, cPROT, 4, if sz ≤ 1 then 0 else sz - 1, 0⟩) :: c.bad }
        else match s.laneGuard t core m e.1 none with
        | some f => { c with bad := (e.1, f) :: c.bad }
        | none => { c with park := (e.1, sz, own) :: c.park }
      | .ok x =>
        match s.laneGuard t core m e.1 none with
        | some f => { c with bad := (e.1, f) :: c.bad }
        | none => { c with go := (e.1, .glob x) :: c.go }) ⟨[], [], []⟩, s)
  else
    (ins.foldr (fun r c =>
      match s.chipAddr t core m.space r.addr m.size with
      | none => { c with bad := (r, ⟨2, cPROT, 0, 0, 0⟩) :: c.bad }
      | some (ph, k) =>
        match s.laneGuard t core m r (some (.chip ph k)) with
        | some f => { c with bad := (r, f) :: c.bad }
        | none => { c with go := (r, .chip ph k) :: c.go }) ⟨[], [], []⟩, s)

/-! ### The gate (check 6, R432) -/

/-- The waybill of the copy of a line at its home; a ZERO page's is 0 (R70). -/
def State.homeWb (s : State) (x : Xlat) : Waybill :=
  if lfZero x.leaf then 0
  else if x.atom then ((s.physOf x.ident x.tag x.gpa).map s.granWaybill).getD 0
  else match s.l2? x.ident x.tag (x.gpa / 128) with
    | some l => l.wb
    | none => ((s.physOf x.ident x.tag x.gpa).map s.granWaybill).getD 0

/-- Does a placed lane leave the machine's plain path: a cross-world mapping, the host window or device space? -/
def Place.special : Place → Bool
  | .chip _ _ => false
  | .glob x => x.cross || x.region != .hbm

/-- The parts of the egress of an instruction: operands by ascending owner, then values read by ascending owner; a store to the
host window goes to function 0, a load of world 0 from another world to the steward. -/
def egressParts (s : State) (t : Str) (m : MemOp) (wb : Waybill) (go : List (LaneReq × Place)) : List Egress :=
  let xs : List Xlat := go.filterMap (fun e => match e.2 with
    | .glob x => some x
    | .chip _ _ => none)
  let cross := xs.filter (fun x => x.cross && x.region == .hbm)
  let owners := (List.range 256).filter (fun o => cross.any (fun x => x.owner == o))
  let win := xs.filter (fun x => x.region == .window)
  let out := if m.write then owners.map (fun o =>
      (⟨t.world, wb, destWorld o, m.size * (cross.filter (fun x => x.owner == o)).length⟩ : Egress)) else []
  let w := if m.write && !win.isEmpty then [(⟨t.world, wb, destFunc 0, m.size * win.length⟩ : Egress)] else []
  let back := if m.kind != .store then owners.map (fun o =>
      let ls := cross.filter (fun x => x.owner == o)
      (⟨o, ls.foldl (fun acc x => acc ||| s.homeWb x) 0, if t.world = 0 then destSteward else destWorld t.world,
        m.size * ls.length⟩ : Egress)) else []
  out ++ w ++ back

/-- The lane reported for a refused part: the lowest lane of it. -/
def egressLane (m : MemOp) (e : Egress) (go : List (LaneReq × Place)) : Option LaneReq :=
  (go.find? (fun g => match g.2 with
    | .glob x => if e.dest.kind = 2 then x.region == .window
      else x.cross && (x.owner == (if m.write && e.dest.kind == 1 then e.dest.dworld else e.world) || x.owner == e.world)
    | .chip _ _ => false)).map Prod.fst

/-! ### Loads answered at once -/

/-- A request with the fields most have. -/
def Req.mk0 (rid op : Nat) (kind : ReqKind) (stage : Stage) (t : Str) (u : Nat) (path : Bool) (core : Nat) : Req :=
  { rid, op, kind, stage, unit := u, path, core, world := t.world, space := 0, ident := false, tag := t.world, line := 0
    strong := false, acq := false, scope := 0, rel := false, atop := 0, wb := 0, lanes := [], got := none, inst := none, later := []
    noInstall := false, ty := 0, psize := 0, home := false, va := 0, counted := false, missed := false, vas := []
    pid := (t.path path).id, waits := [], seen := false, arrived := 0, held := false }

/-- The access of a placed global lane as a request, for its order. -/
def laneAccess (s : State) (t : Str) (n : Nat) (m : MemOp) (x : Xlat) (r : LaneReq) : Req :=
  { Req.mk0 0 n m.kind .l2 t s.curUnit s.curPath (coreOf s.curUnit) with
    line := x.gpa / 128, lanes := [{ r with addr := x.gpa }], strong := m.strong || x.atom, acq := m.acq, rel := m.rel }

/-- Is a placed global lane held back by an access of its path that comes before it (R137)? -/
def State.laneHeld (s : State) (t : Str) (p : Path) (n : Nat) (m : MemOp) (x : Xlat) (r : LaneReq) : Bool :=
  let a := laneAccess s t n m x r
  (s.earlier s.curUnit p n).any (fun e => kept e a p)

/-- The line of the L1 that answers a load now (R71, R72), or of the constant cache that answers an LDC (R78, R375). -/
def State.cacheLine (s : State) (t : Str) (p : Path) (n : Nat) (m : MemOp) (x : Xlat) (r : LaneReq) : Option CLine :=
  let core := coreOf s.curUnit
  if x.atom || x.cross || m.strong then none
  else match m.kind with
    | .load => if s.laneHeld t p n m x r then none else s.l1Find core t.world (x.gpa / 128)
    | .cfetch => ((tget [] s.mem.cc core).find? (fun c => c.is t.world (x.gpa / 128))).filter (fun c => s.keeps core c.line)
    | _ => none

/-- A load that is answered at once: of a ZERO page with zeros (R26), or by the core's cache: the value, its waybill. -/
def State.cacheAnswer (s : State) (t : Str) (p : Path) (n : Nat) (m : MemOp) (x : Xlat) (r : LaneReq) : Option (Nat × Waybill) :=
  if lfZero x.leaf && !x.atom && (m.kind == .load || m.kind == .cfetch) then some (0, 0)
  else (s.cacheLine t p n m x r).map (fun c => (lineGet c.data (x.gpa % 128) m.size, c.wb))

/-! ### Poison (check 7, R90, R91) -/

/-- Does a store of the path that comes before a load cover the whole 64 bytes at an address, of the same space and line, so that the load finds them
clean (R90, R137)? -/
def State.cleared (s : State) (p : Path) (n space : Nat) (ident : Bool) (tag a : Nat) : Bool :=
  (s.earlier s.curUnit p n).any (fun e => e.kind == .store && e.space == space && (space != 0 || (e.ident == ident && e.tag == tag)) &&
    (List.range 64).all (fun k => e.lanes.any (fun l => decide (l.addr ≤ a / 64 * 64 + k) && decide (a / 64 * 64 + k < l.addr + l.size))))

/-- Is a byte the lane reads poisoned, as the cache, the L2, the controller or the bank that answers will hold it? -/
def State.lanePoison (s : State) (t : Str) (p : Path) (n : Nat) (m : MemOp) (r : LaneReq) (pl : Place) : Bool :=
  m.kind != .store &&
  match pl with
  | .chip ph _ => s.chipPoison m.space (ph / 64) && !s.cleared p n m.space false 0 ph
  | .glob x => !s.cleared p n 0 x.ident x.tag x.gpa &&
    let half := if x.gpa % 128 < 64 then 0 else 1
    let at_ := fun (k : Nat) => if m.size = 128 then k % 4 != 0 else k / 2 ^ half % 2 == 1
    if lfZero x.leaf && !m.write then false
    else if x.atom then ((s.physOf x.ident x.tag x.gpa).map (fun h => at_ (hbmPoison s.mem (h / 128)))).getD false
    else match s.cacheLine t p n m x r with
      | some c => at_ c.poison
      | none => ((s.l2? x.ident x.tag (x.gpa / 128)).map (fun l => at_ l.poison)).getD false

/-- A POISON trap on a frame adds 1 to CONSUMERS of its newest error record (R93). The record stands in ring `ctl` of a
partition (none: the steward's). -/
def State.countConsumer (s : State) (h : Nat) : State :=
  match tfind s.mem.errRec (h / 4096) with
  | none => s
  | some (ring, idx) =>
    let part := if ring = 0 then none else some (ring - 1)
    let ctl := (match part with
      | none => s.preg 24 0x073
      | some p => s.preg p 0x073).toNat
    match s.hubRead part ctl 8, s.hubRead part (ctl + 24) 8 with
    | some (head, s), some (cap, _) =>
      let k := max 6 (min 20 cap)
      if head ≤ idx + 2 ^ k then
        let a := ctl + 64 + idx % 2 ^ k * 32 + 25
        let (bs, s) := s.hubBytes part a 4
        s.hubPut part a 0 (bytesOf 4 ((ofBytes bs + 1) % 2 ^ 32))
      else s
    | _, _ => s

/-! ### Lines that must be in the L2 before a load can be judged -/

/-- Does a placed lane read a line that neither its cache nor the L2 holds? -/
def State.laneMissing (s : State) (t : Str) (p : Path) (n : Nat) (m : MemOp) (r : LaneReq) (pl : Place) : Option (Bool × Nat × Nat) :=
  match pl with
  | .chip _ _ => none
  | .glob x =>
    if m.kind = .store ∨ x.atom ∨ x.region ≠ .hbm ∨ (lfZero x.leaf ∧ !m.write) then none
    else if (s.cacheLine t p n m x r).isSome || (s.l2? x.ident x.tag (x.gpa / 128)).isSome then none
    else some (x.ident, x.tag, x.gpa / 128)

/-- The outstanding counter of a launch on a core (R282). -/
def outKey (t : Str) (core : Nat) : Nat := t.launch * 512 + core

/-- Ask memory for a line, once. -/
def State.askFill (s : State) (t : Str) (u core : Nat) (path : Bool) (x : Xlat) (va : Nat) : State :=
  if s.mem.reqs.any (fun r => r.kind == .fill && r.stage != .l2 && r.ident == x.ident && r.tag == x.tag && r.line == x.gpa / 128) then s
  else
    let r := { Req.mk0 s.nextOp 0 .fill .hbm t u path core with
      ident := x.ident, tag := x.tag, line := x.gpa / 128, psize := x.size, home := lfHome x.leaf, va := va
      arrived := s.nextOp }
    { s with nextOp := s.nextOp + 1, mem := { s.mem with reqs := s.mem.reqs ++ [r] } }

/-! ### Delivery -/

/-- The value a lane's register takes from a load's bytes (R300): zero- or sign-extended. -/
def extendLoad (size : Nat) (signed : Bool) (v : Nat) : Nat :=
  if signed && decide (2 ^ (8 * size - 1) ≤ v % 2 ^ (8 * size)) then v % 2 ^ (8 * size) + (2 ^ 32 - 2 ^ (8 * size)) else v % 2 ^ (8 * size)

/-- Write one lane's value to a destination; of a 16-byte load that came in halves, the half's two registers. -/
def Str.deliver (t : Str) (d : Dest) (lane v : Nat) : Str :=
  match d with
  | .none => t
  | .vec r n size sg =>
    let x := extendLoad size sg v
    if 32 ≤ lane then (List.range 2).foldl (fun t k => t.vput (r + 2 * (lane / 32 - 1) + k) (lane % 32) (BitVec.ofNat 32 (v / 2 ^ (32 * k)))) t
    else (List.range n).foldl (fun t k => t.vput (r + k) lane (BitVec.ofNat 32 (x / 2 ^ (32 * k)))) t
  | .uni r n => (List.range n).foldl (fun t k => { t with s := tset 0 t.s (r + k) (BitVec.ofNat 32 (v / 2 ^ (32 * k))) }) t

/-- Until an operation completes, a register it writes may hold old or new data: its waybill covers both (R234) (DEDUCED, log 92). -/
def Str.widen (t : Str) (d : Dest) (w : Waybill) : Str :=
  match d with
  | .none => t
  | .vec r n _ _ => (List.range n).foldl (fun t k => { t with vwb := tset 0 t.vwb (r + k) (tget 0 t.vwb (r + k) ||| w) }) t
  | .uni r n => (List.range n).foldl (fun t k => { t with swb := tset 0 t.swb (r + k) (tget 0 t.swb (r + k) ||| w) }) t

/-- Results reach an operation: lanes and values, the waybill of what was read, and whether it was poisoned. -/
def State.opResult (s : State) (n : Nat) (vals : List (Nat × Nat)) (w : Waybill) (bad : Bool) : State :=
  match tfind s.mem.ops n with
  | none => s
  | some o =>
    let s := { s with mem := { s.mem with ops := tput s.mem.ops n { o with acc := o.acc ||| w, bad := o.bad || bad } } }
    match s.str? o.unit with
    | none => s
    | some t => s.putStr o.unit ((vals.foldl (fun t v => t.deliver o.dest v.1 v.2) t).widen o.dest (o.acc ||| w))

/-! ### Performing at once: cross-world mappings, the host window (R72, R83, R432) -/

/-- Free bytes: what a read of the host gives (DESIGN CHOICE, log 17). -/
def freeBytes (k : Nat) : Nat → Nat
  | 0 => 0
  | n + 1 => (Config.freeByte (k + n)).toNat * 256 ^ n + freeBytes k n

/-- The lanes of one store to one line at its home, at one instant (R81, R88, R90, R428): a line that is not there and is written whole is allocated
without a read. -/
def State.homeMerge (s : State) (x : Xlat) (rid : Nat) (ls : List LaneReq) (wb : Waybill) : State :=
  let ln := x.gpa / 128
  if x.atom then
    match s.physOf x.ident x.tag x.gpa with
    | none => s
    | some h =>
      let (d, _, p) := s.atomLine h ln
      s.atomPut x.ident x.tag h ln (mergeLine rid ls d) wb (storePoison (coverage 128 ls) p)
  else if (s.l2? x.ident x.tag ln).isNone && coverage 128 ls == 2 ^ 128 - 1 then
    (s.evictFor ln).putL2 x.ident x.tag ln (L2Line.merge ⟨0, false, true, 0, 0⟩ rid ls wb)
  else match s.ensureL2 x.ident x.tag ln with
    | none => s
    | some s => match s.l2? x.ident x.tag ln with
      | none => s
      | some l => s.putL2 x.ident x.tag ln (l.merge rid ls wb)

/-- A read of a line at its atomic unit is served by its controller (R87, R286). -/
def State.atomRead (s : State) (x : Xlat) : State :=
  match s.physOf x.ident x.tag x.gpa with
  | none => s
  | some h => s.charge (stackOf h) (if x.ident then none else s.partOf x.tag)

/-- One lane's access at the home, at one instant: the value read and its waybill. -/
def State.homeAccess (s : State) (m : MemOp) (x : Xlat) (r : LaneReq) (wb : Waybill) : Nat × Waybill × State :=
  match x.region with
  | .window =>
    if m.kind = .store then (0, 0, { s with outbox := s.outbox ++ [⟨2, [x.gpa, m.size], bytesOf m.size r.data⟩] })
    else (freeBytes s.fresh m.size, 0, { s with fresh := s.fresh + m.size })
  | _ =>
    let ln := x.gpa / 128
    let here : LaneReq := { r with addr := x.gpa }
    if lfZero x.leaf && m.kind == .load then (0, 0, s)
    else if m.kind = .store then (0, 0, s.homeMerge x 0 [here] wb)
    else if x.atom then
      match s.physOf x.ident x.tag x.gpa with
      | none => (0, 0, s)
      | some h =>
        let (d, w, p) := s.atomLine h ln
        let old := lineGet d (x.gpa % 128) m.size
        match m.kind with
        | .atomic =>
          (old, w, s.atomPut x.ident x.tag h ln (linePut d (x.gpa % 128) m.size (atomNew m.atop m.size old r.data r.cmp)) wb p)
        | _ => (old, w, s.atomRead x)
    else
      match s.ensureL2 x.ident x.tag ln with
      | none => (freeBytes s.fresh m.size, 0, { s with fresh := s.fresh + m.size })
      | some s =>
        match s.l2? x.ident x.tag ln with
        | none => (0, 0, s)
        | some l =>
          let old := lineGet l.data (x.gpa % 128) m.size
          match m.kind with
          | .atomic =>
            (old, l.wb, s.putL2 x.ident x.tag ln
              (l.merge 0 [{ here with data := atomNew m.atop m.size old r.data r.cmp }] wb))
          | _ => (old, l.wb, s)

/-- The command windows of R124 in device space: the partition a store of 8 bytes names. -/
def cmdWindow (h : Nat) : Option Nat :=
  if 0x8000001000000 ≤ h ∧ (h - 0x8000001000000) / 4096 < 24 ∧ h % 4096 = 0 then some ((h - 0x8000001000000) / 4096) else none

/-- A waystation command of a partition, as the next act (R124). -/
def wsCommand (part : Nat) (v : Dword) (window : Bool) : List Item :=
  let a : Arg := ⟨[part, v.toNat % 2 ^ 53], []⟩
  match (v.extractLsb' 60 4).toNat with
  | 1 => [⟨0, .event .wake a⟩]
  | 2 => [⟨0, .event .fail a⟩]
  | 3 => [⟨0, .event .answer a⟩]
  | 4 => if window then [⟨0, .event .grant a⟩] else []
  | 5 => if window then [⟨0, .event .refuse a⟩] else []
  | _ => []

/-- An access at its home is counted by the sampler (R54): an access of a kind to a placed address. -/
def State.sampleHome (s : State) (core world : Nat) (kind : ReqKind) (x : Xlat) (va : Nat) (miss : Bool) : State :=
  if x.region ≠ .hbm then s
  else s.sampleAt core world (if kind = .store then 1 else if kind = .atomic then 2 else 0) x.size (lfHome x.leaf)
    (!miss && !x.atom && (s.l2? x.ident x.tag (x.gpa / 128)).isSome) x.gpa va

/-- Perform the special lanes in order, each line counted once (R54) (DESIGN CHOICE, log 19); the lanes of a store to one line go together
(R81, R428). -/
def State.specials (s : State) (core world n : Nat) (m : MemOp) (wb : Waybill) (missed : List Nat) :
    List Nat → List (List (LaneReq × Xlat)) → List (Nat × Nat × Waybill) × State
  | _, [] => ([], s)
  | seen, [] :: t => State.specials s core world n m wb missed seen t
  | seen, ((r, x) :: more) :: t =>
    if x.region = .device then
      let s := { s with agenda := wsCommand ((cmdWindow x.gpa).getD 24) (BitVec.ofNat 64 r.data) true ++ s.agenda }
      State.specials s core world n m wb missed seen t
    else
      let key := l2Key x.ident x.tag (x.gpa / 128)
      let s := if seen.contains key then s else s.sampleHome core world m.kind x r.addr (missed.contains key)
      if m.kind = .store ∧ x.region = .hbm then
        State.specials (s.homeMerge x n (((r, x) :: more).map (fun e => { e.1 with addr := e.2.gpa })) wb) core world n m wb missed (key :: seen) t
      else
        let (v, w, s) := s.homeAccess m x r wb
        let (l, s) := State.specials s core world n m wb missed (key :: seen) t
        ((r.lane, v, w) :: l, s)

/-- The lanes of an instruction in an order that is not defined (R131). -/
def laneOrder (k : Nat) (l : List (LaneReq × Xlat)) : List (LaneReq × Xlat) :=
  l.foldr (fun a acc =>
    let before := acc.filter (fun b => decide (Config.laneRank k 0 b.1.lane < Config.laneRank k 0 a.1.lane))
    before ++ a :: acc.filter (fun b => !decide (Config.laneRank k 0 b.1.lane < Config.laneRank k 0 a.1.lane))) []

/-! ### What a placed lane becomes -/

/-- Lanes grouped by a key, in the order the keys first appear. -/
def groupKey {α β : Type} [DecidableEq β] (key : α → β) : List α → List (β × List α)
  | [] => []
  | a :: t =>
    let g := groupKey key t
    match g.find? (fun e => e.1 == key a) with
    | some e => (key a, a :: e.2) :: g.filter (fun x => x.1 != key a)
    | none => (key a, [a]) :: g

/-- The special lanes of an instruction that go together: those of a store to one line of HBM. -/
def specialGroups (m : MemOp) (l : List (LaneReq × Xlat)) : List (List (LaneReq × Xlat)) :=
  if m.kind = .store then
    (groupKey (fun e => (e.2.atom, l2Key e.2.ident e.2.tag (e.2.gpa / 128))) (l.filter (fun e => e.2.region == .hbm))).map Prod.snd ++
      (l.filter (fun e => e.2.region != .hbm)).map (fun e => [e])
  else l.map (fun e => [e])

/-- The requests of the lanes that go on: one per line or block, one per lane for an atomic, of which the sampler counts the
first of a line (R54) (DESIGN CHOICE, log 8). -/
def reqsOf (base : Req) (m : MemOp) (wb : Waybill) (go : List (LaneReq × Place)) : List Req :=
  let mk (g : List (LaneReq × Place)) : Option Req :=
    match g with
    | [] => none
    | (r, .chip ph _) :: _ =>
      some { base with
        stage := .bank, space := m.space, line := ph / 256, va := r.addr, vas := g.map (fun e => e.1.addr)
        lanes := g.map (fun e => match e.2 with
          | .chip ph _ => { e.1 with addr := ph }
          | .glob _ => e.1) }
    | (r, .glob x) :: _ =>
      some { base with
        stage := if x.atom then .atom else .l2
        kind := if x.atom && base.kind == .cfetch then .load else base.kind
        strong := base.strong || x.atom, scope := if x.atom then 5 else base.scope
        ident := x.ident, tag := x.tag, line := x.gpa / 128, psize := x.size, home := lfHome x.leaf, va := r.addr
        vas := g.map (fun e => e.1.addr)
        lanes := g.map (fun e => match e.2 with
          | .glob x => { e.1 with addr := x.gpa }
          | .chip _ _ => e.1) }
  let key (e : LaneReq × Place) : Bool × Bool × Nat × Nat :=
    match e.2 with
    | .chip ph _ => (false, false, 0, ph / 256)
    | .glob x => (x.ident, x.atom, x.tag + 1, x.gpa / 128)
  let groups := if m.kind = .atomic then go.map (fun e => [e]) else (groupKey key go).map Prod.snd
  (groups.filterMap mk).foldl (fun acc r =>
    let again := acc.any (fun e => r.space == 0 && e.line == r.line && e.tag == r.tag && e.ident == r.ident)
    acc ++ [{ r with wb, counted := again }]) []

/-- Give requests their numbers. -/
def State.named (s : State) (rs : List Req) : List Req := (List.range rs.length).zipWith (fun k r => { r with rid := s.nextOp + k }) rs

/-- Queue requests that have their numbers. -/
def State.post (s : State) (rs : List Req) : State :=
  { s with nextOp := s.nextOp + rs.length, mem := { s.mem with reqs := s.mem.reqs ++ rs } }

/-- What the issue of a global store does to its core's L1 (R72, R76): it updates the line in place, also one on its way. -/
def State.l1Writes (s : State) (core world : Nat) : List Req → State
  | [] => s
  | r :: t =>
    let s :=
      if r.space ≠ 0 ∨ r.stage = .atom ∨ r.kind ≠ .store then s
      else
        let hit := (s.l1Find core world r.line).isSome
        let s := s.l1Store core world r.line r.rid r.lanes r.wb
        let s := s.onFills core world r.line (fun e => { e with later := e.later ++ [(r.rid, r.lanes, r.wb)] })
        if hit then { s with mem := { s.mem with reqs := s.mem.reqs.map (fun e => if e.rid = r.rid then { e with seen := true } else e) } } else s
    State.l1Writes s core world t

/-- The fault record of a park (R102). -/
def faultRecord (s : State) (t : Str) (u core : Nat) (path : Bool) (m : MemOp) (addrWb : Waybill) (umask : Lanes)
    (r : LaneReq) (psize : Nat) (own : Bool) (fetch : Bool) : BitVec 256 :=
  let src := if t.outrider then 4 else if m.uniform || fetch then 1 else 0
  BitVec.ofNat 256 (s.time % 2 ^ 64 * 2 ^ 192 + r.addr % 2 ^ 57 * 2 ^ 128 + t.world * 2 ^ 120 + (s.partOf t.world).getD 0 * 2 ^ 115 +
    psize * 2 ^ 113 + m.acc * 2 ^ 110 + (if own then 2 ^ 109 else 0) + core * 2 ^ 100 +
    (if t.outrider then slotOf u - 32 else slotOf u) * 2 ^ 95 + (if path then 2 ^ 94 else 0) + src * 2 ^ 91 + addrWb.toNat * 2 ^ 75 +
    umask.toNat * 2 ^ 43)

/-- The parked path (R98). -/
def Path.park (p : Path) (umask : Lanes) : Path :=
  { p with state := .parked, parkpc := p.here, umask := umask, woken := false, hold := .none, due := none, vals := [] }

/-- A trap of a memory access at the reported lane. -/
def memTrap (s : State) (t : Str) (p : Path) (m : MemOp) (r : LaneReq) (f : XFault) (gt : Option Word) : Out :=
  takeTrap s (t.setPath s.curPath p)
    ⟨f.cause, p.here, p.pos, BitVec.ofNat 64 r.addr, if f.stage = 1 then 2 else 0,
      some (tinfoWord (if m.uniform then 0 else r.lane) f.reason f.level f.stage m.acc), none, gt, none⟩

/-- The operation's place among the operations: the one it has kept, or a new one. -/
def opNumber (s : State) (p : Path) : Nat := p.parkOp.getD s.nextOp

/-- The effect of an access that passed every check: values that are there now, requests for the rest, the park of the lanes
that wait for a page. `src` is the waybill of the sources, `wb` the data waybill of a write, `addrWb` that of the address. -/
def State.perform (s : State) (t : Str) (p : Path) (m : MemOp) (src wb addrWb : Waybill) (c : Checked) : Out :=
  let u := s.curUnit
  let core := coreOf u
  let n := opNumber s p
  let fresh := p.parkOp.isNone
  let s := if fresh then s.takeOp else s
  let sp := c.go.filterMap (fun e => match e.2 with
    | .glob x => if e.2.special then some (e.1, x) else none
    | .chip _ _ => none)
  let plain := c.go.filter (fun e => !e.2.special)
  let ans : LaneReq × Place → Option (Nat × Waybill) := fun e => match e.2 with
    | .glob x => s.cacheAnswer t p n m x e.1
    | .chip _ _ => none
  let hits := plain.filterMap (fun e => (ans e).map (fun a => (e.1.lane, a.1, a.2)))
  let rest := plain.filter (fun e => (ans e).isNone)
  let zeros := plain.filterMap (fun e => match e.2 with
    | .glob x => if (ans e).isSome && lfZero x.leaf && m.kind == .load && !m.strong then some (x.gpa / 128) else none
    | .chip _ _ => none)
  let touched := plain.filterMap (fun e => match e.2 with
    | .glob x => if (ans e).isSome && m.kind == .load then some (x.gpa / 128) else none
    | .chip _ _ => none)
  let base := { Req.mk0 0 n m.kind .l2 t u s.curPath core with
    strong := m.strong, acq := m.acq, scope := m.scope, rel := m.rel, atop := m.atop
    ty := if m.kind == .store then 1 else if m.kind == .atomic then 2 else 0 }
  let rs := (reqsOf base m wb rest).map (fun r =>
    { r with waits := s.waitsOf p r, missed := r.space == 0 && p.missed.contains (l2Key r.ident r.tag r.line) })
  let (svals, s) := s.specials core t.world n m wb p.missed [] (specialGroups m (laneOrder n sp))
  -- an acquire that was satisfied at once invalidates (R77); at an ATOM page it is one at .dom (R133, R159)
  let s := if m.acq && !(hits.isEmpty && svals.isEmpty) then s.acquireAt core t.world (if sp.any (fun e => e.2.atom) then 5 else m.scope) else s
  let vals := hits ++ svals
  let s := zeros.foldl (fun s l => if (s.l1Find core t.world l).isSome then s else s.l1Fill core t.world l 0 true 0 0) s
  let s := touched.foldl (fun s l => s.l1Touch core t.world l) s
  let rs := s.named rs
  let s := (s.post rs).l1Writes core t.world rs
  let left := rs.length + (if c.park.isEmpty then 0 else 1)
  let cnt := if m.space == 0 && m.write then some (outKey t core) else none
  let full := m.uniform || p.cmask &&& t.lmask == t.lmask
  let acc0 := src ||| (if m.uniform then 0 else predWb t p) ||| p.flow
  let old : Op := (tfind s.mem.ops n).getD ⟨u, s.curPath, m.dest, full, acc0, false, 1, cnt⟩
  let w := vals.foldl (fun a v => a ||| v.2.2) 0
  let o : Op := { old with acc := old.acc ||| acc0 ||| w, left := old.left - 1 + left }
  let s := match fresh, cnt with
    | true, some k => s.outAdd k 1
    | _, _ => s
  -- a park of every lane leaves every waybill as it was (R97)
  let t := if c.go.isEmpty then t else (vals.foldl (fun t v => t.deliver m.dest v.1 v.2.1) t).widen m.dest (acc0 ||| w)
  let p := match m.slot, fresh with
    | some f, true => p.bind f n
    | _, _ => p
  let s := s.putStr u (t.setPath s.curPath p)
  let s := { s with mem := { s.mem with ops := tput s.mem.ops n o } }
  let s := if o.left = 0 then s.opDone n o else s
  match s.str? u with
  | none => .next s
  | some t =>
    let p := t.path s.curPath
    match c.park with
    | [] => finish s t p
    | (r, sz, own) :: _ =>
      let um := if m.uniform then 1 else laneMask (fun l => c.park.any (fun e => e.1.lane == l))
      let rec_ := faultRecord s t u core s.curPath m addrWb um r sz own false
      let s := { s with way := { s.way with posts := s.way.posts ++ [rec_] } }
      .next (s.putCur t { p.park um with parkOp := some n, wrec := some rec_ })

/-- What the checks of an access come to: it stops here, or goes on in a state with its lanes placed. -/
inductive Judged where
  | stop (o : Out)
  | go (s : State) (c : Checked)

/-- Device space answers only a store of a command to a command window (R124). -/
def deviceBad (m : MemOp) (e : LaneReq × Place) : Bool :=
  match e.2 with
  | .glob x => x.region == .device && !(m.kind == .store && m.size == 8 && (cmdWindow x.gpa).isSome)
  | .chip _ _ => false

def nowhere (e : LaneReq × Place) : Bool :=
  match e.2 with
  | .glob x => x.region == .unpopulated
  | .chip _ _ => false

/-- Note a line that an instruction does not find in the L2 (R57). -/
def addMissed (l : List Nat) : Option (Bool × Nat × Nat) → List Nat
  | none => l
  | some (i, g, ln) => if l.contains (l2Key i g ln) then l else l ++ [l2Key i g ln]

/-- Checks 6 and 7 and what must come before them: room in the outstanding counter, order before a special access, lines (DEDUCED, log 13). -/
def judgeLate (s : State) (t : Str) (p : Path) (m : MemOp) (wb : Waybill) (c : Checked) : Judged :=
  let u := s.curUnit
  let core := coreOf u
  let n := opNumber s p
  if c.go.any nowhere then .stop (.fault .unpopulated)
  else if c.go.any (deviceBad m) then .stop (.refused .deviceSpace)
  else if c.go.any (fun e => match e.2 with
      | .glob x => (e.2.special && !(s.earlier u p n).isEmpty) || (lfZero x.leaf && !m.write && s.laneHeld t p n m x e.1)
      | .chip _ _ => false) then .stop (stay s t p)
  else if m.space == 0 && m.write && p.parkOp.isNone && decide (65535 ≤ tget 0 s.sch.outstanding (outKey t core)) then .stop (stay s t p)
  else match s.gate (egressParts s t m wb c.go) with
    | .error (e, g, s) =>
      match egressLane m e c.go with
      | some r => .stop (memTrap s t p m r ⟨60, cEGRESS, 0, 0, 0⟩ (some g))
      | none => .stop (.next s)
    | .ok gated =>
      let missing := c.go.filter (fun e => (s.laneMissing t p n m e.1 e.2).isSome)
      if missing ≠ [] then
        .stop (stay (missing.foldl (fun s e => match e.2 with
          | .glob x => s.askFill t u core s.curPath x e.1.addr
          | .chip _ _ => s) s) t { p with missed := missing.foldl (fun l e => addMissed l (s.laneMissing t p n m e.1 e.2)) p.missed })
      else
        match c.go.find? (fun e => s.lanePoison t p n m e.1 e.2) with
        | some (r, pl) =>
          let s := match pl with
            | .glob x => ((gated.physOf x.ident x.tag x.gpa).map gated.countConsumer).getD gated
            | .chip _ _ => gated
          .stop (memTrap s t p m r ⟨70, cPOISON, 0, 0, 0⟩ none)
        | none => .go gated c

/-- Does a placed lane reach an ATOM page? -/
def atomLane (e : LaneReq × Place) : Bool :=
  match e.2 with
  | .glob x => x.atom
  | .chip _ _ => false

/-- The earliest posted of a path's writes answered negatively; those of a path that has ended answer for any other (R185) (DEDUCED, log 119). -/
def Str.firstNack (t : Str) (p : Path) : Option Nack :=
  (t.nacks.filter (fun k => p.follows k.path k.id || !t.paths.any (fun q => q.live && q.follows k.path k.id))).foldl (fun a k => match a with
    | none => some k
    | some x => if k.id < x.id then some k else some x) none

/-- Has every remote write before what a path does now been acknowledged (R157)? -/
def Str.acked (t : Str) (p : Path) : Bool := !t.unacked.any (fun a => p.follows a.1 a.2)

/-- A trap that reports a posted write answered negatively (R185, R197). -/
def nackTrap (s : State) (t : Str) (p : Path) (k : Nack) (rest : List Nack) : Out :=
  let rf : Word := BitVec.ofNat 32 (2 ^ 31 + k.peer % 1024 * 2 ^ 20 + k.code / 256 % 16 * 2 ^ 16 + k.code % 256 * 2 ^ 8)
  takeTrap s { t.setPath s.curPath p with nacks := rest }
    ⟨cRFAULT, p.here, p.pos, k.offset, 0, some 0, some rf, none, none⟩

/-- A release at .dom waits for the acknowledgements of earlier remote writes, and then takes the first negative one (R157, R185) (DEDUCED, log 24). -/
def domRelease (s : State) (t : Str) (p : Path) (scope : Nat) (k : Out) : Out :=
  if scope ≠ 5 then k
  else if !t.acked p then stay s t p
  else match t.firstNack p with
    | some n => nackTrap s t p n (t.nacks.filter (fun x => x.id != n.id))
    | none => k

/-- A release to an ATOM page is one at .dom, whatever its scope field holds (R133, R159). -/
def atomRelease (s : State) (t : Str) (p : Path) (m : MemOp) (c : Checked) (k : Judged) : Judged :=
  if m.rel && m.scope != 5 && c.go.any atomLane && (!t.acked p || (t.firstNack p).isSome) then .stop (domRelease s t p 5 (.next s)) else k

/-- Every check of an access, in the order of R373. -/
def judge (s : State) (t : Str) (p : Path) (m : MemOp) (ins : List LaneReq) (wb : Waybill) : Judged :=
  let core := coreOf s.curUnit
  match firstFault (ins.filterMap (fun r => (s.laneShape t core m r).map (fun f => (r, f)))) with
  | some (r, f) => .stop (memTrap s t p m r f none)
  | none =>
    let (c, s) := s.checkLanes t p core m ins
    match firstFault c.bad with
    | some (r, f) => .stop (memTrap s t p m r f none)
    | none => atomRelease s t p m c (judgeLate s t p m wb c)

/-- A path that issues again after a park or a wait runs. -/
def Path.resumed (p : Path) : Path := { p with state := .running, woken := false }

/-- The issue of a memory access whose operands are read: every check in the order of R373, then its effect (DEDUCED, log 12). -/
def memAccess (s : State) (t : Str) (p : Path) (m : MemOp) (ins : List LaneReq) (src wb addrWb : Waybill) : Out :=
  match judge s t p.resumed m ins wb with
  | .stop o => o
  | .go s c => s.perform t p.resumed m src wb addrWb c

/-! ### Fields of a fault record (R102) -/

def frVa (r : BitVec 256) : Nat := (r.extractLsb' 128 57).toNat
def frWorld (r : BitVec 256) : Nat := (r.extractLsb' 120 8).toNat
def frSize (r : BitVec 256) : Nat := (r.extractLsb' 113 2).toNat
def frAcc (r : BitVec 256) : Nat := (r.extractLsb' 110 3).toNat
def frOwn (r : BitVec 256) : Bool := r.getLsbD 109
def frCore (r : BitVec 256) : Nat := (r.extractLsb' 100 9).toNat
def frSlot (r : BitVec 256) : Nat := (r.extractLsb' 95 5).toNat
def frPath (r : BitVec 256) : Bool := r.getLsbD 94
def frSrc (r : BitVec 256) : Nat := (r.extractLsb' 91 3).toNat
def frWb (r : BitVec 256) : Waybill := r.extractLsb' 75 16
def frLanes (r : BitVec 256) : Lanes := r.extractLsb' 43 32

/-! ### Wakes (R98, R99, R113) -/

/-- The reported address of a lane, in full. -/
def vaFull (va : Nat) : Dword := (BitVec.ofNat 57 va).signExtend 64

/-- Is a path parked under the record? -/
def parkedOn (p : Path) (r : BitVec 256) : Bool := p.state == .parked && p.wrec == some r

/-- The path that a wake lets go on (R99). -/
def Path.wake (p : Path) : Path := { p with state := .running, woken := true, hold := .none, wrec := none }

/-- The path that a wake with outcome PROT lets go on: its replay knows the page (R113). -/
def Path.wakeProt (p : Path) : Path := { p with state := .running, woken := true, hold := .none, due := some 0 }

/-! ### Capture (R101, R148, R258, R259) -/

/-- Waiters leave the page-pending table; an entry that no context has taken goes with its last waiter (R101, R126). -/
def State.withdrawIf (s : State) (mine : BitVec 256 → Bool) : State :=
  { s with way := { s.way with
    posts := s.way.posts.filter (fun r => !mine r)
    pends := (s.way.pends.map (fun e => { e with waiters := e.waiters.filter (fun r => !mine r) })).filter (fun e =>
      e.st != 0 || !e.waiters.isEmpty) } }

/-- The waiter of a core's slot, of a path and of a source of records, is withdrawn (R101, R418). -/
def State.withdraw (s : State) (core slot : Nat) (path : Bool) (src : List Nat) : State :=
  s.withdrawIf (fun r => frCore r == core && frSlot r == slot && frPath r == path && src.contains (frSrc r))

/-- Every waiter slot of a unit is withdrawn from the page-pending table. -/
def State.withdrawAll (s : State) (u : Nat) : State :=
  if slotOf u < 32 then (s.withdraw (coreOf u) (slotOf u) false [0, 1]).withdraw (coreOf u) (slotOf u) true [0, 1]
  else s.withdraw (coreOf u) (slotOf u - 32) false [4]

/-- The waiter of one record leaves the table. -/
def State.dropWaiter (s : State) (r : Option (BitVec 256)) : State := s.withdrawIf (fun x => some x == r)

/-- What a path keeps when its string stops: its park without the waiter slot; a wait in a frame pool, for the security block or in a SLEEP is over, and
the waiting instruction issues again (R316) (DEDUCED, log 59). -/
def Path.stopped (p : Path) : Path :=
  { p with
    wrec := none, due := none, vals := []
    hold := match p.hold with
      | .frame | .security _ => .again
      | .sleep _ => .sleep 0
      | h => h }

/-- The string as it is captured: the accesses of operations below n come before all that its paths do later (R148). -/
def Str.stopped (t : Str) (n : Nat) : Str :=
  { ((t.endSleep false).endSleep true).mapPaths (fun p => { p.stopped with saved := n }) with captured := true, stopNow := false, stopTenant := false }

/-- Do passes of a remote instruction wait for their answers? -/
def Str.passOut (t : Str) : Bool :=
  t.paths.any (fun p => match p.hold with
    | .remote _ => true
    | _ => false)

/-- The paths of a string that wait for an answer of the security block, by that answer's number. -/
def Str.asks (t : Str) : List Nat :=
  t.paths.filterMap (fun p => match p.hold with
    | .security n => some n
    | _ => none)

/-- The unit's string is captured: its waiter slots, its places in the frame pools and its questions to the security block are given up. -/
def State.captureNow (s : State) (u : Nat) (t : Str) : State :=
  let s := s.withdrawAll u
  { s with
    xl := { s.xl with poolWait := s.xl.poolWait.filter (fun w => (w.who.map Prod.fst) != some u) }
    tr := { s.tr with checks := s.tr.checks.filter (fun c => !t.asks.contains c.id) } }.putStr u (t.stopped s.nextOp)

/-- The trap of a decline of cause `k - 1` at a parked path (R113, R123) (DEDUCED, log 46). -/
def wakeTrap (p : Path) (r : BitVec 256) (k : Nat) : TrapInfo :=
  ⟨cPAGE, p.parkpc, p.pos, vaFull (frVa r), 1, some (tinfoWord (lowLane (frLanes r)) 0 0 0 (frAcc r)), none, none, some (BitVec.ofNat 8 (k - 1))⟩

end Sys2Proof.Machine
end

