-- ==== Sys2Proof/Machine/LaneMem.lean ====
section
/-! DEFINITION. The lane memory instructions: loads and stores of every space, acquires and releases, atomics, prefetch, queue reads
and the REP prefix (R372 to R378, R381 to R383, R313). -/

namespace Sys2Proof.Machine

/-! ### Operand forms -/

/-- Bytes of a size code (R300). -/
def sizeBytes (z : BitVec 3) : Nat :=
  match z.toNat with
  | 0 => 1
  | 1 => 2
  | 2 => 4
  | 3 => 8
  | 4 => 16
  | 5 => 1
  | _ => 2

/-- Does a size code sign-extend (R300)? -/
def sizeSigned (z : BitVec 3) : Bool := decide (5 ≤ z.toNat)

/-- The lane addresses of VM and VX (R372): the base pair plus the sign-extended offset, mod 2^64; on chip the base register
plus the offset, mod 2^32. -/
def laneAddr (t : Str) (space : Nat) (a : BitVec 7) (b : BitVec 6) (l : Nat) : Nat :=
  if space = 0 then (t.spair b.toNat + (t.vget a.toNat l).signExtend 64).toNat else (t.sget b.toNat + t.vget a.toNat l).toNat

/-- The lanes an instruction acts on, with their addresses and data. -/
def laneIns (t : Str) (p : Path) (space : Nat) (a : BitVec 7) (b : BitVec 6) (size : Nat) (data cmp : Nat → Nat) : List LaneReq :=
  (lanesOf (actLanes p)).map (fun l => ⟨l, laneAddr t space a b l, size, data l, cmp l⟩)

/-- The waybill of the address operands (R349, R428). -/
def addrWb (t : Str) (space : Nat) (a : BitVec 7) (b : BitVec 6) : Waybill :=
  t.vw a.toNat ||| (if space = 0 then t.sws b.toNat 2 else t.sw b.toNat)

/-- The data waybill of a lane write (R428): data and address registers, the clause predicate, the flow waybill (DEDUCED, log 39). -/
def dataWb (t : Str) (p : Path) (src : Waybill) : Waybill := src ||| predWb t p ||| p.flow

/-- A plain load. -/
def loadOp (space : Nat) (d : BitVec 7) (z : BitVec 3) (f : BitVec 1) : MemOp :=
  { space, kind := .load, size := sizeBytes z, acc := aLoad, strong := false, acq := false, rel := false, scope := 0, atop := 0
    dest := .vec d.toNat (sizeRegs z) (sizeBytes z) (sizeSigned z), slot := f, uniform := false }

/-- A plain store. -/
def storeOp (space : Nat) (z : BitVec 3) (f : BitVec 1) : MemOp :=
  { space, kind := .store, size := sizeBytes z, acc := aStore, strong := false, acq := false, rel := false, scope := 0, atop := 0
    dest := .none, slot := f, uniform := false }

/-- An atomic of a width at a scope (R378): relaxed and strong. -/
def atomOp (op size : Nat) (d : BitVec 7) (c : BitVec 3) (f : BitVec 1) : MemOp :=
  { space := 0, kind := .atomic, size, acc := aAtomic, strong := true, acq := false, rel := false, scope := c.toNat, atop := op
    dest := .vec d.toNat (size / 4) size false, slot := f, uniform := false }

/-- A lane load (R372 to R374). -/
def laneLoad (i : Instr) (m : MemOp) (a : BitVec 7) (b : BitVec 6) (s : State) : Out :=
  issued i s fun t p =>
    memAccess s t p m (laneIns t p m.space a b m.size (fun _ => 0) (fun _ => 0)) (addrWb t m.space a b) 0 (addrWb t m.space a b)

/-- A lane store of the low bytes of a register, pair or quad (R372 to R374). -/
def laneStore (i : Instr) (m : MemOp) (d a : BitVec 7) (b : BitVec 6) (s : State) : Out :=
  issued i s fun t p =>
    let n := (m.size + 3) / 4
    let w := t.vws d.toNat n ||| addrWb t m.space a b
    memAccess s t p m (laneIns t p m.space a b m.size (fun l => t.vgroup d.toNat n l % 2 ^ (8 * m.size)) (fun _ => 0)) w (dataWb t p w)
      (addrWb t m.space a b)

/-- A lane atomic: the operand in the low registers (R378). -/
def laneAtomic (i : Instr) (m : MemOp) (d a : BitVec 7) (b : BitVec 6) (s : State) : Out :=
  issued i s fun t p =>
    let n := m.size / 4
    let w := t.vws d.toNat n ||| addrWb t 0 a b
    memAccess s t p m (laneIns t p 0 a b m.size (fun l => t.vgroup d.toNat n l) (fun _ => 0)) w (dataWb t p w) (addrWb t 0 a b)

/-- A lane compare-and-swap: the comparand first, the new value after it (R378). -/
def laneCas (i : Instr) (m : MemOp) (d a : BitVec 7) (b : BitVec 6) (s : State) : Out :=
  issued i s fun t p =>
    let n := m.size / 4
    let w := t.vws d.toNat (2 * n) ||| addrWb t 0 a b
    memAccess s t p m (laneIns t p 0 a b m.size (fun l => t.vgroup (d.toNat + n) n l) (fun l => t.vgroup d.toNat n l)) w (dataWb t p w)
      (addrWb t 0 a b)

/-! ### Plain loads and stores (R372) -/

def execLd (d a : BitVec 7) (b : BitVec 6) (z : BitVec 3) (f : BitVec 1) (s : State) : Out :=
  laneLoad (.ld d a b z f) (loadOp 0 d z f) a b s
def execSt (d a : BitVec 7) (b : BitVec 6) (z : BitVec 3) (f : BitVec 1) (s : State) : Out :=
  laneStore (.st d a b z f) (storeOp 0 z f) d a b s
def execLdsp (d a : BitVec 7) (b : BitVec 6) (z : BitVec 3) (f : BitVec 1) (s : State) : Out :=
  laneLoad (.ldsp d a b z f) (loadOp 1 d z f) a b s
def execStsp (d a : BitVec 7) (b : BitVec 6) (z : BitVec 3) (f : BitVec 1) (s : State) : Out :=
  laneStore (.stsp d a b z f) (storeOp 1 z f) d a b s
def execLdcv (d a : BitVec 7) (b : BitVec 6) (z : BitVec 3) (f : BitVec 1) (s : State) : Out :=
  laneLoad (.ldcv d a b z f) (loadOp 2 d z f) a b s
def execStcv (d a : BitVec 7) (b : BitVec 6) (z : BitVec 3) (f : BitVec 1) (s : State) : Out :=
  laneStore (.stcv d a b z f) (storeOp 2 z f) d a b s
def execLddp (d a : BitVec 7) (b : BitVec 6) (z : BitVec 3) (f : BitVec 1) (s : State) : Out :=
  laneLoad (.lddp d a b z f) (loadOp 3 d z f) a b s
def execStdp (d a : BitVec 7) (b : BitVec 6) (z : BitVec 3) (f : BitVec 1) (s : State) : Out :=
  laneStore (.stdp d a b z f) (storeOp 3 z f) d a b s

/-- LDC: a plain global load through the constant cache (R375). -/
def execLdc (d a : BitVec 7) (b : BitVec 6) (z : BitVec 3) (f : BitVec 1) (s : State) : Out :=
  laneLoad (.ldc d a b z f) { loadOp 0 d z f with kind := .cfetch } a b s

/-! ### Acquires and releases (R377) -/

/-- LDA and LDA64. -/
def acquireOp (size : Nat) (d : BitVec 7) (c : BitVec 3) (f : BitVec 1) : MemOp :=
  { space := 0, kind := .load, size, acc := aLoad, strong := true, acq := true, rel := false, scope := c.toNat, atop := 0
    dest := .vec d.toNat (size / 4) size false, slot := f, uniform := false }

/-- STL and STL64. -/
def releaseOp (size : Nat) (c : BitVec 3) (f : BitVec 1) : MemOp :=
  { space := 0, kind := .store, size, acc := aStore, strong := true, acq := false, rel := true, scope := c.toNat, atop := 0
    dest := .none, slot := f, uniform := false }

/-- A releasing lane store. -/
def laneRelease (i : Instr) (m : MemOp) (d a : BitVec 7) (b : BitVec 6) (s : State) : Out :=
  issued i s fun t p =>
    let n := m.size / 4
    let w := t.vws d.toNat n ||| addrWb t 0 a b
    domRelease s t p m.scope (memAccess s t p m (laneIns t p 0 a b m.size (fun l => t.vgroup d.toNat n l) (fun _ => 0)) w (dataWb t p w)
      (addrWb t 0 a b))

def execLda (d a : BitVec 7) (b : BitVec 6) (c : BitVec 3) (f : BitVec 1) (s : State) : Out :=
  laneLoad (.lda d a b c f) (acquireOp 4 d c f) a b s
def execLda64 (d a : BitVec 7) (b : BitVec 6) (c : BitVec 3) (f : BitVec 1) (s : State) : Out :=
  laneLoad (.lda64 d a b c f) (acquireOp 8 d c f) a b s
def execStl (d a : BitVec 7) (b : BitVec 6) (c : BitVec 3) (f : BitVec 1) (s : State) : Out :=
  laneRelease (.stl d a b c f) (releaseOp 4 c f) d a b s
def execStl64 (d a : BitVec 7) (b : BitVec 6) (c : BitVec 3) (f : BitVec 1) (s : State) : Out :=
  laneRelease (.stl64 d a b c f) (releaseOp 8 c f) d a b s

/-! ### Atomics (R378) -/

def execAtadd (d a : BitVec 7) (b : BitVec 6) (c : BitVec 3) (f : BitVec 1) (s : State) : Out :=
  laneAtomic (.atadd d a b c f) (atomOp 0 4 d c f) d a b s
def execAtmin (d a : BitVec 7) (b : BitVec 6) (c : BitVec 3) (f : BitVec 1) (s : State) : Out :=
  laneAtomic (.atmin d a b c f) (atomOp 1 4 d c f) d a b s
def execAtmax (d a : BitVec 7) (b : BitVec 6) (c : BitVec 3) (f : BitVec 1) (s : State) : Out :=
  laneAtomic (.atmax d a b c f) (atomOp 2 4 d c f) d a b s
def execAtminn (d a : BitVec 7) (b : BitVec 6) (c : BitVec 3) (f : BitVec 1) (s : State) : Out :=
  laneAtomic (.atminn d a b c f) (atomOp 3 4 d c f) d a b s
def execAtmaxn (d a : BitVec 7) (b : BitVec 6) (c : BitVec 3) (f : BitVec 1) (s : State) : Out :=
  laneAtomic (.atmaxn d a b c f) (atomOp 4 4 d c f) d a b s
def execAtand (d a : BitVec 7) (b : BitVec 6) (c : BitVec 3) (f : BitVec 1) (s : State) : Out :=
  laneAtomic (.atand d a b c f) (atomOp 5 4 d c f) d a b s
def execAtor (d a : BitVec 7) (b : BitVec 6) (c : BitVec 3) (f : BitVec 1) (s : State) : Out :=
  laneAtomic (.ator d a b c f) (atomOp 6 4 d c f) d a b s
def execAtxor (d a : BitVec 7) (b : BitVec 6) (c : BitVec 3) (f : BitVec 1) (s : State) : Out :=
  laneAtomic (.atxor d a b c f) (atomOp 7 4 d c f) d a b s
def execAtxch (d a : BitVec 7) (b : BitVec 6) (c : BitVec 3) (f : BitVec 1) (s : State) : Out :=
  laneAtomic (.atxch d a b c f) (atomOp 8 4 d c f) d a b s
def execAtcas (d a : BitVec 7) (b : BitVec 6) (c : BitVec 3) (f : BitVec 1) (s : State) : Out :=
  laneCas (.atcas d a b c f) (atomOp 9 4 d c f) d a b s
def execAtfadd (d a : BitVec 7) (b : BitVec 6) (c : BitVec 3) (f : BitVec 1) (s : State) : Out :=
  laneAtomic (.atfadd d a b c f) (atomOp 10 4 d c f) d a b s
def execAtadd64 (d a : BitVec 7) (b : BitVec 6) (c : BitVec 3) (f : BitVec 1) (s : State) : Out :=
  laneAtomic (.atadd64 d a b c f) (atomOp 0 8 d c f) d a b s
def execAtcas64 (d a : BitVec 7) (b : BitVec 6) (c : BitVec 3) (f : BitVec 1) (s : State) : Out :=
  laneCas (.atcas64 d a b c f) (atomOp 9 8 d c f) d a b s

/-! ### Prefetch (R376) -/

/-- One lane's line brought nearer, by a request of the lanes of its instruction on that line: those that are numbered from `n0` on are the
instruction's (R54). A lane is dropped without effect where its translation traps, parks, or meets a cross-world, ATOM or ZERO page. -/
def State.prefetch (s : State) (t : Str) (lvl : Nat) (l1 : Bool) (n0 addr : Nat) : State :=
  let u := s.curUnit
  let core := coreOf u
  if !canonical (BitVec.ofNat 64 addr) then s
  else match s.xlate core t.world addr aLoad lvl with
    | (.ok x, s') =>
      let line := x.gpa / 128
      if x.cross || x.atom || lfZero x.leaf || x.region != .hbm then s
      else if (l1 && (s'.l1Find core t.world line).isSome) ||
          s'.mem.reqs.any (fun e => decide (n0 ≤ e.rid) && e.ident == x.ident && e.tag == x.tag && e.line == line) then s'
      else
        s'.post (s'.named [{ Req.mk0 0 0 (if l1 then .pfetch else .fill) .l2 t u s.curPath core with
          ident := x.ident, tag := x.tag, line, psize := x.size, home := lfHome x.leaf, va := addr }])
    | _ => s

def execPfet (a : BitVec 7) (b : BitVec 6) (l : BitVec 3) (s : State) : Out :=
  issued (.pfet a b l) s fun t p =>
    finish ((lanesOf p.cmask).foldl (fun s1 k => s1.prefetch t p.level (l == 0) s.nextOp (laneAddr t 0 a b k)) s) t p

/-! ### Outrider queues (R381) -/

/-- The rank of a lane among the lanes of a mask. -/
def laneRankIn (m : Lanes) (l : Nat) : Nat := ((lanesOf m).filter (fun k => decide (k < l))).length

def execPopq (d : BitVec 7) (q : BitVec 2) (f : BitVec 1) (s : State) : Out :=
  issued (.popq d q f) s fun t p =>
    let n := (lanesOf p.cmask).length
    let l := tget [] t.oq q.toNat
    if l.length < n then waitOn s t p
    else
      let e := l.take n
      let w := e.foldl (fun acc x => acc ||| x.2) (0 : Waybill)
      let t := { t with oq := tset [] t.oq q.toNat (l.drop n) }
      finish s (writeLanes t p d.toNat 1 w (fun k => (e.getD (laneRankIn p.cmask k) (0, 0)).1.toNat)) p

/-! ### REP (R313, R382) -/

/-- The form of a lane word for REP: its third register field is vb (7 bits at 3), s (6 bits at 4), or none. -/
inductive RepForm where
  | va
  | vs
  | vm
  | vi
  | bare
  | not
deriving DecidableEq, Repr

def repForm (op : Nat) : RepForm :=
  if op = 0x15 ∨ op = 0x19 ∨ op = 0x22 ∨ op = 0x23 ∨ (0x35 ≤ op ∧ op ≤ 0x37) then .vs
  else if 0x1A ≤ op ∧ op ≤ 0x21 then .vi
  else if 0x38 ≤ op ∧ op ≤ 0x3A then .bare
  else if op < 0x40 then .va
  else if op ≤ 0x64 then .vm
  else .not

/-- Predicate destinations (R302). -/
def repPredDest (op : Nat) : Bool := op == 0x16 || op == 0x23 || op == 0x2D

/-- The fields of a governed word at repeat k: values of the first, second and third field, and the width of the third. -/
def repFields (w r : Word) (k : Nat) : Nat × Nat × Nat :=
  let op := (w.extractLsb' 24 7).toNat
  let d := (w.extractLsb' 17 7).toNat + k * (r.extractLsb' 15 3).toNat
  let a := (w.extractLsb' 10 7).toNat + k * (r.extractLsb' 12 3).toNat
  let b := match repForm op with
    | .va => (w.extractLsb' 3 7).toNat + k * (r.extractLsb' 9 3).toNat
    | .vs | .vm => (w.extractLsb' 4 6).toNat + k * (r.extractLsb' 9 3).toNat
    | _ => 0
  (d, a, b)

/-- The governed word as it issues at repeat k. -/
def repStep (w r : Word) (k : Nat) : Word :=
  let op := (w.extractLsb' 24 7).toNat
  let (d, a, b) := repFields w r k
  let hi : Word := (w.extractLsb' 24 8 ++ BitVec.ofNat 7 d ++ BitVec.ofNat 7 a ++ (0 : BitVec 10))
  match repForm op with
  | .va => hi ||| (BitVec.ofNat 32 (b % 128 * 8)) ||| (w &&& 7)
  | .vs | .vm => hi ||| (BitVec.ofNat 32 (b % 64 * 16)) ||| (w &&& 15)
  | _ => hi ||| (w &&& 0x3FF)

/-- Does a stepped field of the last repeat fail R297 or R298, under the strides of r, which step no other? Its value is v, of lim; a field that the word
leaves unused is no register. -/
def repFieldBad (vlim : Nat) (w r : Word) (k v lim : Nat) : Bool :=
  match decodeRaw (repStep w r (min k 1)), decodeRaw (repStep w r k) with
  | .ok _, .ok i => decide (lim ≤ v) || !i.operands.regsOk vlim
  | .ok _, .error _ => decide (lim ≤ v)
  | .error _, _ => false

/-- The REP word with the stride of its first, second or third field alone. -/
def repOnly (r : Word) (f : Nat) : Word := r &&& (if f = 0 then 0xFFFF8000 else if f = 1 then 0xFFFC7000 else 0xFFFC0E00)

/-- The cases in which REP raises ILLEGAL before any repeat (R313). -/
def repBad (t : Str) (r : Word) (next : Option Word) : Bool :=
  match next with
  | none => true
  | some w =>
    let op := (w.extractLsb' 24 7).toNat
    let sd := (r.extractLsb' 15 3).toNat
    let sb := (r.extractLsb' 9 3).toNat
    let k := repCount r - 1
    let (d, a, b) := repFields w r k
    w.getLsbD 31 || op == 0x6C || op == 0x68 ||
    (repForm op == .vi && sb != 0) || (repForm op == .vm && sb % 2 == 1) || (repPredDest op && sd != 0) ||
    (repForm op == .bare && sb != 0) ||
    repFieldBad (32 * t.vblk) w (repOnly r 0) k d 128 || (op == 0x3D && decide (8 ≤ a)) || repFieldBad (32 * t.vblk) w (repOnly r 1) k a 128 ||
    repFieldBad (32 * t.vblk) w (repOnly r 2) k b (if repForm op = .va then 128 else 64)

/-- REP: the next word issues from repeat 0 on (R382). -/
def execRep (n : BitVec 6) (x y w : BitVec 3) (s : State) : Out :=
  issuedIf (.rep n x y w) s (fun t p => repBad t s.curWord p.words[p.pos]?) fun t p =>
    .next (s.putCur { t with repidx := 0 } { p with pos := p.pos + 1, rep := true, hold := .none })

end Sys2Proof.Machine
end

