-- ==== Sys2Proof/Machine/Uniform.lean ====
section
/-! DEFINITION. Uniform arithmetic and predicates (R318 to R322), values between the lanes and the string (R325 to R327), and
reading a waybill (R341). -/

namespace Sys2Proof.Machine

/-- A uniform instruction writing one register: source waybill and value (R314, R315). -/
def uniOp (i : Instr) (d : BitVec 6) (src : Str → Waybill) (f : Str → Path → Word) (s : State) : Out :=
  issued i s fun t p => finish s (t.sput d.toNat (f t p) (uniWb p (src t))) p

/-- Two uniform sources. -/
def uni2 (i : Instr) (d a b : BitVec 6) (f : Word → Word → Word) (s : State) : Out :=
  uniOp i d (fun t => t.sw a.toNat ||| t.sw b.toNat) (fun t _ => f (t.sget a.toNat) (t.sget b.toNat)) s

/-- One uniform source. -/
def uni1 (i : Instr) (d a : BitVec 6) (f : Word → Word) (s : State) : Out :=
  uniOp i d (fun t => t.sw a.toNat) (fun t _ => f (t.sget a.toNat)) s

/-- A uniform predicate result. -/
def uniPred (i : Instr) (q : BitVec 3) (src : Str → Waybill) (f : Str → Bool) (s : State) : Out :=
  issued i s fun t p => finish s (t.qput q.toNat (f t) (uniWb p (src t))) p

/-! ### Arithmetic (R318, R319) -/

def execSadd (d a b : BitVec 6) (s : State) : Out := uni2 (.sadd d a b) d a b (fun x y => x + y) s
def execSsub (d a b : BitVec 6) (s : State) : Out := uni2 (.ssub d a b) d a b (fun x y => x - y) s
def execSmul (d a b : BitVec 6) (s : State) : Out := uni2 (.smul d a b) d a b (fun x y => x * y) s
def execSmulh (d a b : BitVec 6) (t : BitVec 1) (s : State) : Out := uni2 (.smulh d a b t) d a b (mulHigh t) s
def execSand (d a b : BitVec 6) (s : State) : Out := uni2 (.sand d a b) d a b (fun x y => x &&& y) s
def execSor (d a b : BitVec 6) (s : State) : Out := uni2 (.sor d a b) d a b (fun x y => x ||| y) s
def execSxor (d a b : BitVec 6) (s : State) : Out := uni2 (.sxor d a b) d a b (fun x y => x ^^^ y) s
def execSshl (d a b : BitVec 6) (s : State) : Out := uni2 (.sshl d a b) d a b (fun x y => shiftLeft x (shiftCount y)) s
def execSshr (d a b : BitVec 6) (s : State) : Out := uni2 (.sshr d a b) d a b (fun x y => shiftRight x (shiftCount y)) s
def execSsra (d a b : BitVec 6) (s : State) : Out := uni2 (.ssra d a b) d a b (fun x y => shiftArith x (shiftCount y)) s
def execSmin (d a b : BitVec 6) (t : BitVec 1) (s : State) : Out := uni2 (.smin d a b t) d a b (minBy t) s
def execSmax (d a b : BitVec 6) (t : BitVec 1) (s : State) : Out := uni2 (.smax d a b t) d a b (maxBy t) s
def execSmov (d a : BitVec 6) (s : State) : Out := uni1 (.smov d a) d a (fun x => x) s
def execSpopc (d a : BitVec 6) (s : State) : Out := uni1 (.spopc d a) d a (fun x => BitVec.ofNat 32 (popcount x)) s
def execSclz (d a : BitVec 6) (s : State) : Out := uni1 (.sclz d a) d a (fun x => BitVec.ofNat 32 (leadingZeros x)) s
def execSaddi (d a : BitVec 6) (imm : BitVec 12) (s : State) : Out :=
  uni1 (.saddi d a imm) d a (fun x => x + imm.signExtend 32) s
def execSandi (d a : BitVec 6) (imm : BitVec 12) (s : State) : Out :=
  uni1 (.sandi d a imm) d a (fun x => x &&& imm.setWidth 32) s
def execSori (d a : BitVec 6) (imm : BitVec 12) (s : State) : Out :=
  uni1 (.sori d a imm) d a (fun x => x ||| imm.setWidth 32) s
def execSxori (d a : BitVec 6) (imm : BitVec 12) (s : State) : Out :=
  uni1 (.sxori d a imm) d a (fun x => x ^^^ imm.setWidth 32) s
def execSshli (d a : BitVec 6) (n : BitVec 5) (s : State) : Out := uni1 (.sshli d a n) d a (fun x => shiftLeft x n.toNat) s
def execSshri (d a : BitVec 6) (n : BitVec 5) (s : State) : Out := uni1 (.sshri d a n) d a (fun x => shiftRight x n.toNat) s
def execSmovi (d : BitVec 6) (imm : BitVec 18) (s : State) : Out :=
  uniOp (.smovi d imm) d (fun _ => 0) (fun _ _ => imm.signExtend 32) s
def execSlui (d : BitVec 6) (imm : BitVec 18) (s : State) : Out :=
  uniOp (.slui d imm) d (fun t => t.sw d.toNat) (fun t _ => imm ++ (t.sget d.toNat).extractLsb' 0 14) s

/-! ### Comparison and selection (R320, R321) -/

def execScmp (q : BitVec 3) (a b : BitVec 6) (ty : BitVec 1) (c : BitVec 3) (s : State) : Out :=
  uniPred (.scmp q a b ty c) q (fun t => t.sw a.toNat ||| t.sw b.toNat)
    (fun t => scmpCond ty c.toNat (t.sget a.toNat) (t.sget b.toNat)) s

def execScmpi (q : BitVec 3) (a : BitVec 6) (c : BitVec 3) (ty : BitVec 1) (imm : BitVec 8) (s : State) : Out :=
  uniPred (.scmpi q a c ty imm) q (fun t => t.sw a.toNat)
    (fun t => scmpCond ty c.toNat (t.sget a.toNat) (imm.signExtend 32)) s

def execSsel (d a b : BitVec 6) (e : BitVec 1) (q : BitVec 3) (s : State) : Out :=
  uniOp (.ssel d a b e q) d (fun t => t.sw a.toNat ||| t.sw b.toNat ||| t.qw q.toNat)
    (fun t _ => if t.qget q.toNat != (e == 1) then t.sget a.toNat else t.sget b.toNat) s

def execQop (d a b : BitVec 3) (tt : BitVec 4) (s : State) : Out :=
  uniPred (.qop d a b tt) d (fun t => t.qw a.toNat ||| t.qw b.toNat)
    (fun t => tt.getLsbD ((if t.qget a.toNat then 2 else 0) + (if t.qget b.toNat then 1 else 0))) s

/-- SADD64's second operand (R322). -/
def add64Operand (t : Str) (b : BitVec 6) (k : Nat) : Dword :=
  match k with
  | 0 => t.spair b.toNat
  | 1 => (t.sget b.toNat).signExtend 64
  | _ => (t.sget b.toNat).setWidth 64

def execSadd64 (d a b : BitVec 6) (k : BitVec 2) (s : State) : Out :=
  issued (.sadd64 d a b k) s fun t p =>
    finish s (t.sputPair d.toNat (t.spair a.toNat + add64Operand t b k.toNat)
      (uniWb p (t.sws a.toNat 2 ||| t.sws b.toNat (if k = 0 then 2 else 1)))) p

/-! ### Between lanes and the string (R325 to R327) -/

/-- REDV's combination of two values. -/
def redOp (o : Nat) (x y : Word) : Word :=
  match o with
  | 0 => x + y
  | 1 => minBy 0 x y
  | 2 => maxBy 0 x y
  | 3 => minBy 1 x y
  | 4 => maxBy 1 x y
  | 5 => x &&& y
  | 6 => x ||| y
  | _ => x ^^^ y

/-- The values of a list combined, from the first on. -/
def reduceList (o : Nat) : List Word → Word
  | [] => 0
  | w :: ws => ws.foldl (redOp o) w

def execRedv (d : BitVec 6) (v : BitVec 7) (o : BitVec 3) (s : State) : Out :=
  issued (.redv d v o) s fun t p =>
    finish s (t.sput d.toNat (reduceList o.toNat ((lanesOf p.cmask).map (t.vget v.toNat)))
      (uniWb p (t.vw v.toNat ||| predWb t p))) p

def execLmask (d : BitVec 6) (pr : BitVec 3) (k : BitVec 2) (s : State) : Out :=
  issued (.lmask d pr k) s fun t p =>
    let m := match k.toNat with
      | 0 => p.cmask &&& t.pget pr.toNat
      | 1 => p.cmask
      | 2 => p.mask
      | _ => t.lmask
    finish s (t.sput d.toNat m (uniWb p ((if k = 0 then t.pw pr.toNat else 0) ||| predWb t p))) p

def execBcast (d : BitVec 6) (v : BitVec 7) (b : BitVec 6) (m : BitVec 1) (s : State) : Out :=
  issued (.bcast d v b m) s fun t p =>
    if m = 0 then
      finish s (t.sput d.toNat (t.vget v.toNat ((lanesOf p.cmask).headD 0)) (uniWb p (t.vw v.toNat ||| predWb t p))) p
    else
      finish s (t.sput d.toNat (t.vget v.toNat ((t.sget b.toNat).toNat % 32)) (uniWb p (t.vw v.toNat ||| t.sw b.toNat))) p

end Sys2Proof.Machine
end

