-- ==== Sys2Proof/Machine/UniMem.lean ====
section
/-! DEFINITION. The uniform memory instructions (R323, R324), and the uniform reads that other instructions make while they hold
their path (R316, R330, R337). -/

namespace Sys2Proof.Machine

/-- Addresses (R323): the base pair plus the sign-extended offset, mod 2^64; in the scratchpad, mod 2^32. -/
def uniAddr (t : Str) (space : Nat) (a b : BitVec 6) : Nat :=
  if space = 0 then (t.spair a.toNat + (t.sget b.toNat).signExtend 64).toNat else (t.sget a.toNat + t.sget b.toNat).toNat

/-- The waybill of the address operands. -/
def uniAddrWb (t : Str) (space : Nat) (a b : BitVec 6) : Waybill :=
  (if space = 0 then t.sws a.toNat 2 else t.sw a.toNat) ||| t.sw b.toNat

/-- A uniform access of a kind. -/
def uniMemOp (space size : Nat) (kind : ReqKind) (dest : Dest) (f : BitVec 1) : MemOp :=
  { space, kind, size, acc := if kind = .load then aUniLoad else aUniStore, strong := false, acq := false, rel := false, scope := 0
    atop := 0, dest, slot := f, uniform := true }

/-- The n uniform registers from r as one number. -/
def Str.sgroup (t : Str) (r n : Nat) : Nat := (List.range n).foldl (fun acc k => acc + (t.sget (r + k)).toNat * 2 ^ (32 * k)) 0

/-- A uniform load. -/
def uniLoad (i : Instr) (m : MemOp) (a b : BitVec 6) (s : State) : Out :=
  issued i s fun t p =>
    let w := uniAddrWb t m.space a b
    memAccess s t p m [⟨0, uniAddr t m.space a b, m.size, 0, 0⟩] w 0 w

/-- A uniform store of the registers from d. -/
def uniStore (i : Instr) (m : MemOp) (d a b : BitVec 6) (s : State) : Out :=
  issued i s fun t p =>
    let n := m.size / 4
    let w := t.sws d.toNat n ||| uniAddrWb t m.space a b
    domRelease s t p (if m.rel then m.scope else 0)
      (memAccess s t p m [⟨0, uniAddr t m.space a b, m.size, t.sgroup d.toNat n, 0⟩] w (w ||| p.flow) (uniAddrWb t m.space a b))

def execSld (d a b : BitVec 6) (f : BitVec 1) (s : State) : Out :=
  uniLoad (.sld d a b f) (uniMemOp 0 4 .load (.uni d.toNat 1) f) a b s
def execSst (d a b : BitVec 6) (f : BitVec 1) (s : State) : Out :=
  uniStore (.sst d a b f) (uniMemOp 0 4 .store .none f) d a b s
def execSld64 (d a b : BitVec 6) (f : BitVec 1) (s : State) : Out :=
  uniLoad (.sld64 d a b f) (uniMemOp 0 8 .load (.uni d.toNat 2) f) a b s
def execSst64 (d a b : BitVec 6) (f : BitVec 1) (s : State) : Out :=
  uniStore (.sst64 d a b f) (uniMemOp 0 8 .store .none f) d a b s
def execSldsp (d a b : BitVec 6) (f : BitVec 1) (s : State) : Out :=
  uniLoad (.sldsp d a b f) (uniMemOp 1 4 .load (.uni d.toNat 1) f) a b s
def execSstsp (d a b : BitVec 6) (f : BitVec 1) (s : State) : Out :=
  uniStore (.sstsp d a b f) (uniMemOp 1 4 .store .none f) d a b s
def execSlda (d a b : BitVec 6) (c : BitVec 3) (f : BitVec 1) (s : State) : Out :=
  uniLoad (.slda d a b c f) { uniMemOp 0 4 .load (.uni d.toNat 1) f with strong := true, acq := true, scope := c.toNat } a b s
def execSstl (d a b : BitVec 6) (c : BitVec 3) (f : BitVec 1) (s : State) : Out :=
  uniStore (.sstl d a b c f) { uniMemOp 0 4 .store .none f with strong := true, rel := true, scope := c.toNat } d a b s

def execSatadd (d a b : BitVec 6) (c : BitVec 3) (f : BitVec 1) (s : State) : Out :=
  issued (.satadd d a b c f) s fun t p =>
    let w := t.sw d.toNat ||| uniAddrWb t 0 a b
    memAccess s t p { uniMemOp 0 4 .atomic (.uni d.toNat 1) f with strong := true, scope := c.toNat }
      [⟨0, uniAddr t 0 a b, 4, (t.sget d.toNat).toNat, 0⟩] w (w ||| p.flow) (uniAddrWb t 0 a b)

def execSatcas (d a b : BitVec 6) (c : BitVec 3) (f : BitVec 1) (s : State) : Out :=
  issued (.satcas d a b c f) s fun t p =>
    let w := t.sws d.toNat 2 ||| uniAddrWb t 0 a b
    memAccess s t p { uniMemOp 0 4 .atomic (.uni d.toNat 1) f with strong := true, scope := c.toNat, atop := 9 }
      [⟨0, uniAddr t 0 a b, 4, (t.sget (d.toNat + 1)).toNat, (t.sget d.toNat).toNat⟩] w (w ||| p.flow) (uniAddrWb t 0 a b)

/-! ### Reads that hold the path -/

/-- What such a read comes to: it stops here, or gives a value, its waybill and the state it leaves. -/
inductive UniRead where
  | stop (o : Out)
  | got (v : Nat) (w : Waybill) (s : State)

/-- What a plain read at the home leaves in the core's L1: the line is installed, with the stores still owed (R73, R76); a strong one leaves no older
copy (R142). -/
def State.readLeaves (s : State) (core world : Nat) (m : MemOp) (x : Xlat) : State :=
  if x.cross || x.atom || x.region != .hbm then s
  else match s.l2? x.ident x.tag (x.gpa / 128) with
    | none => s
    | some l =>
      if m.strong then s.l1Refresh core world (x.gpa / 128) l
      else s.l1Install core world (x.gpa / 128) l (s.owed core world (x.gpa / 128))

/-- The value of a placed uniform read, as it stands now; an acquire of an ATOM page is at .dom (R133). -/
def readPlaced (s : State) (t : Str) (p : Path) (m : MemOp) (addr : Nat) (pl : Place) : Nat × Waybill × State :=
  match pl with
  | .chip ph _ => (s.chipGet m.space ph m.size, s.chipWb m.space (ph / 256), s)
  | .glob x =>
    let core := coreOf s.curUnit
    let line := x.gpa / 128
    let r : LaneReq := ⟨0, addr, m.size, 0, 0⟩
    match s.cacheAnswer t p s.nextOp m x r with
    | some (v, w) =>
      (v, w, if (s.l1Find core t.world line).isSome then s.l1Touch core t.world line
        else if lfZero x.leaf && !m.strong then s.l1Fill core t.world line 0 true 0 0 else s)
    | none =>
      let s := s.sampleHome core t.world m.kind x addr (p.missed.contains (l2Key x.ident x.tag line))
      let (v, w, s) := s.homeAccess m x r 0
      let s := s.readLeaves core t.world m x
      (v, w, if m.acq && x.atom then s.acquireAt core t.world 5 else s)

/-- A placed uniform read as a request, for its order. -/
def readAccess (s : State) (t : Str) (m : MemOp) (addr : Nat) (pl : Place) : Req :=
  match pl with
  | .chip ph _ =>
    { Req.mk0 0 s.nextOp .load .bank t s.curUnit s.curPath (coreOf s.curUnit) with
      space := m.space, line := ph / 256, lanes := [⟨0, ph, m.size, 0, 0⟩], strong := m.strong }
  | .glob x => laneAccess s t s.nextOp m x ⟨0, addr, m.size, 0, 0⟩

/-- Must a placed uniform read wait for accesses before it (R137, R142)? -/
def readHeld (s : State) (t : Str) (p : Path) (m : MemOp) (addr : Nat) (pl : Place) : Bool :=
  (match pl with
    | .chip _ _ => true
    | .glob x => (s.cacheLine t p s.nextOp m x ⟨0, addr, m.size, 0, 0⟩).isNone) && !(s.waitsOf p (readAccess s t m addr pl)).isEmpty

/-- A uniform instruction's whole park (R97): no operation is bound yet. -/
def parkWhole (s : State) (t : Str) (p : Path) (m : MemOp) (addrWb : Waybill) (r : LaneReq) (sz : Nat) (own : Bool) : Out :=
  let rec_ := faultRecord s t s.curUnit (coreOf s.curUnit) s.curPath m addrWb 1 r sz own false
  .next ({ s with way := { s.way with posts := s.way.posts ++ [rec_] } }.putCur t { p.park 1 with wrec := some rec_ })

/-- A uniform read made while the path holds: every check, then the value once the unit's earlier accesses allow it. -/
def uniRead (s : State) (t : Str) (p : Path) (m : MemOp) (addr : Nat) (addrWb : Waybill) : UniRead :=
  let r : LaneReq := ⟨0, addr, m.size, 0, 0⟩
  match judge s t p.resumed m [r] 0 with
  | .stop o => .stop o
  | .go s c =>
    match c.park, c.go with
    | (r, sz, own) :: _, _ => .stop (parkWhole s t p.resumed m addrWb r sz own)
    | [], (_, pl) :: _ =>
      if readHeld s t p m addr pl then .stop (stay s t p.resumed)
      else
        let (v, w, s) := readPlaced s t p m addr pl
        .got v w s
    | [], [] => .stop (.next s)

end Sys2Proof.Machine
end

