-- ==== Sys2Proof/Machine/MemEvents.lean ====
section
/-! DEFINITION. The memory system's own steps: requests reaching their banks, the L2, the controllers, the atomic units and the caches
(R71 to R88, R136), errors and poison (R89 to R95), sampling (R54 to R57), write-back (R84), zeroing (R69) and walks (R30). What an
event brings stands in State.arg: which request is served, and what the storage's codes found. -/

namespace Sys2Proof.Machine

/-- The k-th number an event brings. -/
def State.argN (s : State) (k : Nat) : Nat := s.arg.n.getD k 0

/-- A request in flight at a stage (DESIGN CHOICE, log 2). -/
def State.reqAt (s : State) (rid : Nat) (st : Stage) : Option Req := s.mem.reqs.find? (fun r => r.rid == rid && r.stage == st)

def State.setReq (s : State) (r : Req) : State :=
  { s with mem := { s.mem with reqs := s.mem.reqs.map (fun e => if e.rid = r.rid then r else e) } }

def State.dropReq (s : State) (rid : Nat) : State :=
  { s with mem := { s.mem with reqs := s.mem.reqs.filter (fun e => e.rid != rid) } }

/-- May a request be performed now (R137)? -/
def State.mayPerform (s : State) (r : Req) : Bool := !s.heldBack r

/-- The part of a request that was performed leaves it; with its last part it is over. -/
def State.partDone (s : State) (r : Req) (rest : List LaneReq) : State :=
  if rest = [] then (s.dropReq r.rid).opLeave r.op else s.setReq { r with lanes := rest }

/-! ### Errors (R90 to R95) -/

/-- The ring of a granule's owner: a partition's, or the steward's (R92). -/
def State.errPart (s : State) (h : Nat) : Option Nat :=
  let o := if s.inSteward h then 0 else s.ownerOf h
  s.topPart o

def State.errCtl (s : State) (part : Option Nat) : Nat := (s.preg (part.getD 24) 0x073).toNat

/-- An error record (R92). -/
def errWord (kind h halves nvfull world ucount addr time : Nat) : Nat :=
  let n := h / 4096
  kind * 2 ^ 252 + n % 12 * 2 ^ 248 + h / 128 % 32 * 2 ^ 243 + halves % 4 * 2 ^ 241 + nvfull * 2 ^ 240 + world * 2 ^ 232 +
    ucount * 2 ^ 192 + addr % 2 ^ 52 / 128 * 128 * 2 ^ 128 + time % 2 ^ 64 * 2 ^ 64

/-- The guest-physical address, below a second-stage table at a level for addresses from `pre` on, that a host-physical address is mapped from: the
lowest one. -/
def s2Scan (s : State) (h : Nat) : Nat → Nat → Nat → Option Nat
  | 0, _, _ => none
  | n + 1, base, pre =>
    (List.range (if n = 3 then 8192 else 512)).findSome? (fun i =>
      let e : Dword := BitVec.ofNat 64 (s.hostRead (base + 8 * i) 8)
      let g := pre + i * 2 ^ (12 + 9 * n)
      let b := pageBits (entSize e)
      if !e.getLsbD 0 then none
      else if decide (1 ≤ n) && entSize e == 0 then s2Scan s h n (entFrame e) g
      else if leafSize n (entSize e) && entFrame e / 2 ^ b == h / 2 ^ b then some (g / 2 ^ b * 2 ^ b + h % 2 ^ b)
      else none)

/-- The guest-physical line of a host-physical line of a partition (R92): the one its second stage maps there, from the complexes' cache or the
tables; where it maps none any more, the one the line was written under (DESIGN CHOICE, log 135). -/
def State.gpaLine (s : State) (part h : Nat) : Nat :=
  let top := s.topOf part
  match (tget [] s.xl.s2c top).find? (fun e => entFrame e.entry / 2 ^ pageBits e.size == h / 2 ^ pageBits e.size) with
  | some e => (e.gpn * 4096 + h % 2 ^ pageBits e.size) / 128
  | none =>
    let root := s.preg top 0x063
    match (if root.getLsbD 0 then s2Scan s h 4 ((root.extractLsb' 16 36).toNat * 65536) 0 else none) with
    | some g => g / 128
    | none => ((tfind s.mem.keyed (h / 128)).map Prod.snd).getD (h / 128)

/-- A record goes to an error ring and, where the ring had room for it, the frame it is about notes where it stands (R92, R93). -/
def State.logRing (s : State) (part : Option Nat) (frame : Option Nat) (rec : Nat) : State :=
  let ctl := s.errCtl part
  match (if ctl = 0 then none else s.hubRead part ctl 8) with
  | none => s
  | some (head, s) =>
    let s := s.ringPut part ctl rec
    match s.hubRead part ctl 8, frame with
    | some (now, s), some g =>
      if now = head then s
      else { s with mem := { s.mem with errRec := tput s.mem.errRec g (match part with
        | none => 0
        | some p => p + 1, head) } }
    | _, _ => s

/-- Log an error record of a frame (R92, R93). -/
def State.logError (s : State) (kind h halves nvfull : Nat) : State :=
  let part := s.errPart h
  let addr := match part with
    | some p => s.gpaLine p h * 128
    | none => h
  let uc := granUcount (s.gran (h / 4096))
  s.logRing part (some (h / 4096)) (errWord kind h halves nvfull (if s.inSteward h then 0 else s.ownerOf h) uc addr s.time)

/-- Has the non-volatile offline list no room (R95)? -/
def State.offlineFull (s : State) : Bool := !(s.nv.offline.drop 4095).isEmpty

/-- A granule goes on the non-volatile offline list, or sys.ecthr.NVFULL is set (R95). -/
def State.listOffline (s : State) (g : Nat) : State :=
  if s.offlineFull then s.setPkg 0x074 (s.pkg 0x074 ||| 0x80000000#64)
  else { s with nv := { s.nv with offline := s.nv.offline ++ [g] } }

/-- A granule is retired (R95): OFFLINE, listed, and recorded with KIND 2 in its owner's ring and in the steward's. -/
def State.retire (s : State) (h halves uc : Nat) : State :=
  let e := s.gran (h / 4096)
  let nf := if s.offlineFull then 1 else 0
  let s := { s with xl := { s.xl with pools := s.xl.pools.map (fun (q : Nat × List Nat) =>
    (q.1, q.2.filter (fun g => !(List.range (2 ^ pageBits (q.1 % 4) / 4096)).any (fun k =>
      (s.s2Leaf (q.1 / 4) (g + 4096 * k)).map (fun (r : Nat × Dword) => (entFrame r.2 + (g + 4096 * k) % 2 ^ pageBits r.1) / 4096) == some (h / 4096))))) } }
  let s := s.setGran (h / 4096) (granMake (granSealed e) true uc (granOwner e) (granWb e))
  let s := (s.listOffline (h / 4096)).logError 2 h halves nf
  if (s.errPart h).isNone then s else s.ringPut none (s.errCtl none) (errWord 2 h halves nf (s.ownerOf h) uc h s.time)

/-- Is a read whose poison has been judged on its way to a line (R91)? -/
def State.readsLine (s : State) (ident : Bool) (tag line : Nat) : Bool :=
  s.mem.reqs.any (fun e => e.isOpen && e.space == 0 && e.kind != .store && e.ident == ident && e.tag == tag && e.line == line)

/-- ... or to a host-physical line? -/
def State.readsHost (s : State) (h : Nat) : Bool :=
  s.mem.reqs.any (fun e => e.isOpen && e.space == 0 && e.kind != .store && (s.physOf e.ident e.tag (e.line * 128)).map (· / 128) == some (h / 128))

/-- An uncorrectable error in halves of a host-physical line, found by an access (kind 0) or by patrol (1): poison, a count, a
record, and the granule retired once the count has reached the threshold (R90, R92, R95) (DEDUCED, log 126). The codes find an error before a read is
judged or after it is satisfied (DESIGN CHOICE, log 15). -/
def State.hbmError (s : State) (kind h halves : Nat) : State :=
  if halves % 4 = 0 ∨ regionOf h ≠ .hbm ∨ s.readsHost h then s
  else
    let s := { s with mem := setHbmPoison s.mem (h / 128) (hbmPoison s.mem (h / 128) ||| halves % 4) }
    let e := s.gran (h / 4096)
    let uc := min 63 (granUcount e + 1)
    let s := s.setGran (h / 4096) (granMake (granSealed e) (granOffline e) uc (granOwner e) (granWb e))
    let s := s.logError kind h halves 0
    if (s.pkg 0x074).toNat % 64 ≤ uc && !granOffline e then s.retire h halves uc else s

/-- A record of KIND 3 to the ring of a world's partition (R92), of the frame it is about if it is about one: STACK, CHANNEL and UCOUNT are 0, and so
are HALVES and ADDR of a bank or a register (DESIGN CHOICE, log 135). -/
def State.logChip (s : State) (world halves addr : Nat) (frame : Option Nat) : State :=
  s.logRing (s.topPart world) frame (errWord 3 0 halves 0 world 0 addr s.time)

/-- An uncorrectable error in on-chip storage (R90, R92): the 64-byte region is poisoned and a record goes to the ring of
the partition whose allocation holds it. -/
def State.chipError (s : State) (space phys world : Nat) : State :=
  if s.mem.reqs.any (fun e => e.isOpen && e.space == space && e.kind != .store && e.lanes.any (fun l => l.addr / 64 == phys / 64)) then s
  else (s.setChipPoison space (phys / 64) true).logChip world 0 0 none

/-- An uncorrectable error in halves of a line of the L2 (R90, R92, R93): the ring is that of the partition of the line's world (DESIGN CHOICE,
log 135). -/
def State.l2Error (s : State) (ident : Bool) (tag line halves : Nat) : State :=
  match s.l2? ident tag line with
  | none => s
  | some l =>
    if halves % 4 = 0 || s.readsLine ident tag line then s
    else (s.putL2 ident tag line { l with poison := l.poison ||| halves % 4 }).logChip tag (halves % 4) (line * 128)
      ((s.physOf ident tag (line * 128)).map (· / 4096))

/-- Sample a request once (R54, R57). -/
def State.sampleReq (s : State) (r : Req) (hit : Bool) : State :=
  if r.counted then s
  else (s.sampleAt r.core r.world r.ty r.psize r.home (hit && !r.missed) (r.line * 128 + r.va % 128) r.va).setReq { r with counted := true }

/-! ### Banks (R136) -/

/-- The values lanes read from a number of bytes at a base. -/
def State.chipVals (s : State) (r : Req) : List (Nat × Nat) := r.lanes.map (fun l => (l.lane, s.chipGet r.space l.addr l.size))

/-- BANK_ACCESS: the request n0 reaches its bank, and the part of it that n2 names is performed or satisfied (R130, R131). With n1 = 1 the codes of a
bank find a region uncorrectable: that of the request's first byte, or without a request byte n3 of space n4, in an allocation of world n5. -/
def execBankAccess (s : State) : Out :=
  match s.reqAt (s.argN 0) .bank with
  | none => .next (if s.argN 1 = 1 then s.chipError (s.argN 4) (s.argN 3) (s.argN 5) else s)
  | some r =>
    if !s.mayPerform r then .next s
    else
      let a := match r.lanes with
        | l :: _ => l.addr
        | [] => r.line * 256
      let s := if s.argN 1 = 1 then s.chipError r.space a r.world else s
      let (now, rest) := r.part (s.argN 2)
      let q := { r with lanes := now }
      match r.kind with
      | .store => .next ((s.chipStore r.space r.line r.rid now r.wb).partDone r rest)
      | _ =>
        let bad := now.any (fun l => s.chipPoison r.space (l.addr / 64))
        .next ((s.opResult r.op (s.chipVals q) (s.chipWb r.space r.line) bad).partDone r rest)

/-! ### The L2 (R80 to R83, R136) -/

/-- A request's lanes read a line. -/
def lineVals (r : Req) (d : Line) : List (Nat × Nat) := r.lanes.map (fun l => (l.lane, lineGet d (l.addr % 128) l.size))

/-- Does a lane of the request read a poisoned half? -/
def lineBad (r : Req) (poison : Nat) : Bool := r.lanes.any (fun l => (poison &&& halvesOf (l.addr % 128) l.size) != 0)

/-- A strong load satisfied: its core's L1 keeps no older copy (R142), and an acquire invalidates (R77, R140). -/
def State.afterStrong (s : State) (r : Req) (l : L2Line) : State :=
  let s := s.l1Refresh r.core r.world r.line l
  if r.acq then s.acquireAt r.core r.world r.scope else s

/-- A plain load satisfied at the L2: it goes on to its cache with what the core's own stores to the line still owe it, and its core's L1 keeps no older
copy (R142). A part of it that is satisfied by itself goes on as a request of its own. -/
def State.l2Plain (s : State) (r : Req) (l : L2Line) (now rest : List LaneReq) : State :=
  let s := if r.kind = .load ∨ r.kind = .cfetch then s.l1Refresh r.core r.world r.line l else s
  let g := some (l.data, l.zero, l.wb, l.poison)
  let q := { r with stage := .l1, lanes := now, got := g, inst := g, later := s.owed r.core r.world r.line }
  if rest = [] then s.setReq q
  else
    let s := (s.setReq { r with lanes := rest }).post [{ q with rid := s.nextOp }]
    match tfind s.mem.ops r.op with
    | none => s
    | some o => { s with mem := { s.mem with ops := tput s.mem.ops r.op { o with left := o.left + 1 } } }

/-- A load satisfied at the L2: a strong one is answered, another goes on to its cache. -/
def State.l2Load (s : State) (r : Req) (l : L2Line) (now rest : List LaneReq) : State :=
  if r.strong then
    let q := { r with lanes := now }
    ((s.afterStrong r l).opResult r.op (lineVals q l.data) l.wb (lineBad q l.poison)).partDone r rest
  else s.l2Plain r l now rest

/-- An atomic performed at the L2 (R378); its core's L1 keeps no older copy (R142). -/
def State.l2Atomic (s : State) (r : Req) (l : L2Line) : State :=
  match r.lanes with
  | [] => s.dropReq r.rid
  | a :: _ =>
    let old := lineGet l.data (a.addr % 128) a.size
    let l' := l.merge r.rid [{ a with data := atomNew r.atop a.size old a.data a.cmp }] r.wb
    ((((s.dropReq r.rid).putL2 r.ident r.tag r.line l').l1Refresh r.core r.world r.line l').opResult r.op [(a.lane, old)] l.wb
      (lineBad r l.poison)).opLeave r.op

/-- The L2's part of a request that misses: it goes to memory through the controllers' second-stage translation (R33). -/
def State.l2Miss (s : State) (r : Req) : State :=
  let s := if r.ident then s else match s.topPart r.tag with
    | none => s
    | some p => s.keepS2 p (r.line * 128)
  { s with nextOp := s.nextOp + 1 }.setReq { r with stage := .hbm, counted := true, arrived := s.nextOp }

/-- L2_REQUEST: request n0 reaches its home slice, and the part of it that n2 names is performed or satisfied (R130, R131). n1: halves the slice's codes
find uncorrectable, of the request's line, or without a request of the line with key n3. -/
def execL2Request (s : State) : Out :=
  match s.reqAt (s.argN 0) .l2 with
  | none => .next (s.l2Error (keyIdent (s.argN 3)) (keyTag (s.argN 3)) (keyLine (s.argN 3)) (s.argN 1))
  | some r =>
    if !s.mayPerform r then .next s
    else
      let s := (s.l2Error r.ident r.tag r.line (s.argN 1)).sampleReq r (s.l2? r.ident r.tag r.line).isSome
      let r := { r with counted := true }
      let (now, rest) := r.part (s.argN 2)
      match s.l2? r.ident r.tag r.line with
      | some l =>
        match r.kind with
        | .store => .next ((s.putL2 r.ident r.tag r.line (l.merge r.rid now r.wb)).partDone r rest)
        | .atomic => .next (s.l2Atomic r l)
        | .fill => .next (s.dropReq r.rid)
        | _ => .next (s.l2Load r l now rest)
      | none =>
        if r.kind = .store ∧ coverage 128 r.lanes = 2 ^ 128 - 1 then
          let l : L2Line := ⟨0, false, true, 0, 0⟩
          .next ((((s.dropReq r.rid).evictFor r.line).putL2 r.ident r.tag r.line (l.merge r.rid r.lanes r.wb)).opLeave r.op)
        else .next (s.l2Miss r)

/-! ### Controllers (R85, R286) -/

/-- Lines a stack can serve in one window: 2.56 TB/s over 1,500 fabric clocks, one microsecond (R85, R286). -/
def windowLines : Nat := 20000

/-- The most lines of a window a partition may take: its ceiling, a child's a fraction of its parent's (R286) (DEDUCED, log 27). -/
def State.bandCap (s : State) (p : Nat) : Nat :=
  let c := ((s.preg p 0x0D6).extractLsb' 16 8).toNat + 1
  let t := s.topOf p
  if t = p then windowLines * c / 256 else windowLines * (((s.preg t 0x0D6).extractLsb' 16 8).toNat + 1) / 256 * c / 256

/-- The lines of a window a partition is guaranteed: its floor, a child's a fraction of its parent's ceiling (R286). -/
def State.bandFloor (s : State) (p : Nat) : Nat :=
  let c := ((s.preg p 0x0D6).extractLsb' 24 8).toNat
  let t := s.topOf p
  if t = p then windowLines * c / 256 else windowLines * (((s.preg t 0x0D6).extractLsb' 16 8).toNat + 1) / 256 * c / 256

/-- Lines of this window already charged to a partition at a stack; 24 is world 0. -/
def State.bandUsed (s : State) (stack p : Nat) : Nat := tget 0 s.mem.bw (stack * 32 + p)

/-- Has a partition, or its parent, reached its ceiling in this window? -/
def State.bandFull (s : State) (stack : Nat) (part : Option Nat) : Bool :=
  match part with
  | none => false
  | some p => decide (s.bandCap p ≤ s.bandUsed stack p) || decide (s.bandCap (s.topOf p) ≤ s.bandUsed stack (s.topOf p))

/-- The requests that wait at the controller of a stack. -/
def State.atStack (s : State) (stack : Nat) : List Req :=
  s.mem.reqs.filter (fun e => e.stage == .hbm && (s.physOf e.ident e.tag (e.line * 128)).map stackOf == some stack)

/-- What has been served to a top-level partition above its floor is not more, by its weight, than to another (R286). -/
def State.bandShare (s : State) (stack t q : Nat) : Bool :=
  let extra := fun p => s.bandUsed stack p - s.bandFloor p
  let weight := fun p => max 1 ((s.preg p 0x0D6).extractLsb' 8 8).toNat
  decide (extra t * weight q ≤ extra q * weight t)

/-- Is it a request's turn at its controller (R286)? World 0 goes ahead up to 1/32 of the window and after every partition beyond that; partitions
below their floors come next, then the rest by weight, each below its ceiling; of one partition's, a child below its floor goes first; and
requests that a ceiling held back go in order of arrival (DEDUCED, log 27). -/
def State.bandTurn (s : State) (stack : Nat) (r : Req) : Bool :=
  let l := (s.atStack stack).filter (fun e => e.rid != r.rid)
  let parts := (l.filterMap (fun e => s.partOf e.world)).filter (fun q => !s.bandFull stack (some q))
  let below := fun q => decide (s.bandUsed stack q < s.bandFloor q)
  let all := ((List.range 25).filter (fun q => q == 24 || s.topOf q == q)).foldl (fun n q => n + s.bandUsed stack q) 0
  let first := decide (s.bandUsed stack 24 < windowLines / 32)
  decide (all < windowLines) && !l.any (fun e => e.held && s.partOf e.world == s.partOf r.world && decide (e.arrived < r.arrived)) &&
  match s.partOf r.world with
  | none => first || parts.isEmpty
  | some p =>
    let t := s.topOf p
    let tops := parts.map s.topOf
    let child := fun q => s.topOf q != q && below q
    !(first && l.any (fun e => (s.partOf e.world).isNone)) && (below t || tops.all (fun q => !below q && s.bandShare stack t q)) &&
      (child p || !parts.any (fun q => s.topOf q == t && child q))

/-- The requests of a partition that its ceiling holds back. -/
def State.bandHold (s : State) (stack : Nat) (part : Option Nat) : State :=
  let held := ((s.atStack stack).filter (fun e => s.partOf e.world == part)).map Req.rid
  { s with mem := { s.mem with reqs := s.mem.reqs.map (fun e => if held.contains e.rid then { e with held := true } else e) } }

/-- HBM_REQUEST: request n0 is read by its controller under the owner's key (R35) when it is its turn; n1: halves found uncorrectable. A partition
at its ceiling waits for the next window (R286). -/
def execHbmRequest (s : State) : Out :=
  match s.reqAt (s.argN 0) .hbm with
  | none => .next s
  | some r =>
    match s.physOf r.ident r.tag (r.line * 128) with
    | none =>
      .next ({ s with fresh := s.fresh + 128 }.setReq
        { r with stage := .fill, got := some (BitVec.ofNat 1024 (freeBytes s.fresh 128), false, 0, 0) })
    | some h =>
      if s.bandFull (stackOf h) (s.partOf r.world) then .next (s.bandHold (stackOf h) (s.partOf r.world))
      else if !s.bandTurn (stackOf h) r then .next s
      else
        let s := (s.charge (stackOf h) (s.partOf r.world)).hbmError 0 h (s.argN 1)
        match s.fetchLine r.ident r.tag r.line with
        | some g => .next (s.setReq { r with stage := .fill, got := some g })
        | none => .next (s.setReq { r with stage := .fill, got := some (0, true, 0, 0) })

/-- L2_FILL: the line of request n0 arrives and is installed (R82); a line that is there already stays. -/
def execL2Fill (s : State) : Out :=
  match s.reqAt (s.argN 0) .fill with
  | none => .next s
  | some r =>
    let s := match r.got, s.l2? r.ident r.tag r.line with
      | some g, none => s.installL2 r.ident r.tag r.line g
      | _, _ => s
    if r.kind = .fill then .next (s.dropReq r.rid) else .next (s.setReq { r with stage := .l2, got := none })

/-! ### Fills of the caches (R73, R78, R79) -/

/-- Other plain loads of the core for a line that has arrived share its fill (R73): those that may be satisfied now. -/
def State.shareFill (s : State) (r : Req) (l : L2Line) : State :=
  (s.mem.reqs.filter (fun e => e.isOpen && e.kind == .load && !e.strong && e.stage != .atom && e.space == 0 && e.core == r.core &&
      e.world == r.world && e.line == r.line && e.ident == r.ident && e.tag == r.tag && !s.heldBack e)).foldl (fun s e =>
    ((s.opResult e.op (lineVals e l.data) l.wb (lineBad e l.poison)).dropReq e.rid).opLeave e.op) s

/-- L1_FILL: the data of request n0 goes to its lanes and to those of the misses that share the fill, and is installed (R73). -/
def execL1Fill (s : State) : Out :=
  match s.reqAt (s.argN 0) .l1 with
  | none => .next s
  | some r =>
    match r.got with
    | none => .next s
    | some (d, z, w, p) =>
      if r.kind ≠ .load ∧ r.kind ≠ .pfetch then .next s
      else
        let s := s.dropReq r.rid
        let (di, zi, wi, pi) := r.inst.getD (d, z, w, p)
        let l : L2Line := ⟨di, zi, false, wi, pi⟩
        let s := if r.noInstall then s
          else
            let s := s.l1Install r.core r.world r.line l r.later
            if r.later ≠ [] ∧ (s.l1Find r.core r.world r.line).isNone then s else s.shareFill r (mergeAll l r.later)
        .next ((s.opResult r.op (lineVals r d) w (lineBad r p)).opLeave r.op)

/-- Put a line in a small cache of `sets` sets of 8 ways, in place of the oldest of a full set. -/
def cachePut (l : List CLine) (sets : Nat) (c : CLine) : List CLine :=
  let l := l.filter (fun x => !x.is c.world c.line)
  let mine := l.filter (fun x => x.set == c.line % sets)
  let l := if 8 ≤ mine.length then l.filter (fun x => some x != mine.getLast?) else l
  { c with set := c.line % sets } :: l

/-- CONSTANT_CACHE_FILL: the data of request n0 is installed and delivered (R78, R375). -/
def execConstantCacheFill (s : State) : Out :=
  match s.reqAt (s.argN 0) .l1 with
  | none => .next s
  | some r =>
    match r.got with
    | none => .next s
    | some (d, _, w, p) =>
      if r.kind ≠ .cfetch then .next s
      else
        let s := s.dropReq r.rid
        let c := cachePut (tget [] s.mem.cc r.core) 32 ⟨0, 0, r.world, r.line, d, w, p⟩
        let s := { s with mem := { s.mem with cc := tset [] s.mem.cc r.core c } }
        .next ((s.opResult r.op (lineVals r d) w (lineBad r p)).opLeave r.op)

/-- INSTRUCTION_CACHE_FILL: the line of request n0 is installed (R79). -/
def execInstructionCacheFill (s : State) : Out :=
  match s.reqAt (s.argN 0) .l1 with
  | none => .next s
  | some r =>
    match r.got with
    | none => .next s
    | some (d, _, w, p) =>
      if r.kind ≠ .ifetch then .next s
      else
        let s := s.dropReq r.rid
        let c := cachePut (tget [] s.mem.ic r.core) 64 ⟨0, 0, r.world, r.line, d, w, p⟩
        .next { s with mem := { s.mem with ic := tset [] s.mem.ic r.core c } }

/-! ### Atomic units (R87, R88, R159) -/

/-- ATOMIC_UNIT_OP: the part of request n0 that n2 names is performed at its unit (R130, R131); n1: halves found uncorrectable, by a store before it merges,
otherwise after the value has been given, and counted in each case (R95) (DESIGN CHOICE, log 15). -/
def execAtomicUnitOp (s : State) : Out :=
  match s.reqAt (s.argN 0) .atom with
  | none => .next s
  | some r =>
    if !s.mayPerform r then .next s
    else
      let s := s.sampleReq r false
      let r := { r with counted := true }
      match s.physOf r.ident r.tag (r.line * 128) with
      | none => .next ((s.dropReq r.rid).opLeave r.op)
      | some h =>
        let s := if r.kind = .store then s.hbmError 0 h (s.argN 1) else s
        let (d, w, p) := s.atomLine h r.line
        let (now, rest) := r.part (s.argN 2)
        let q := { r with lanes := now }
        match r.kind, r.lanes with
        | .store, _ =>
          .next ((s.atomPut r.ident r.tag h r.line (mergeLine r.rid now d) r.wb (storePoison (coverage 128 now) p)).partDone r rest)
        | .atomic, a :: _ =>
          let old := lineGet d (a.addr % 128) a.size
          let d' := linePut d (a.addr % 128) a.size (atomNew r.atop a.size old a.data a.cmp)
          .next (((((s.dropReq r.rid).atomPut r.ident r.tag h r.line d' r.wb p).opResult r.op [(a.lane, old)] w (lineBad r p)).opLeave r.op).hbmError 0 h (s.argN 1))
        | _, _ =>
          let s := s.charge (stackOf h) (if r.ident then none else s.partOf r.tag)
          let s := if r.acq then s.acquireAt r.core r.world r.scope else s
          .next (((s.opResult r.op (lineVals q d) w (lineBad q p)).partDone r rest).hbmError 0 h (s.argN 1))

/-! ### Patrol, write-back, zeroing, walks -/

/-- PATROL_READ: a controller reads host-physical line n0; n1: halves found uncorrectable (R94). -/
def execPatrolRead (s : State) : Out :=
  .next ({ s with mem := { s.mem with patrol := s.argN 0 + 1 } }.hbmError 1 (s.argN 0 * 128) (s.argN 1))

/-- The worlds of a partition. -/
def State.worldIn (s : State) (part w : Nat) : Bool := s.partOf w == some part || s.topPart w == some part

/-- Is a line of a world in the range of sys.wbctl (R84)? -/
def State.inWb (s : State) (tag line : Nat) : Bool :=
  let c := s.pkg 0x072
  let base := ((s.pkg 0x071).extractLsb' 12 40).toNat
  s.worldIn (c.extractLsb' 24 5).toNat tag &&
    (c.getLsbD 29 || (decide (base ≤ line / 32) && decide (line / 32 < base + (c.extractLsb' 0 24).toNat)))

/-- Lines of caches that leave them. -/
def State.dropLines (s : State) (f : Nat → Nat → Bool) : State :=
  let cut := fun (t : Table (List CLine)) =>
    (t.map (fun e => (e.1, e.2.filter (fun c => !f c.world c.line)))).filter (fun e => e.2 != [])
  { s with mem := { s.mem with l1 := cut s.mem.l1, cc := cut s.mem.cc, ic := cut s.mem.ic } }

/-- WRITE_BACK_START: the operation passes over the range: every dirty line is written to its controller, and with INV = 1 the
range leaves every cache (R84). -/
def execWriteBackStart (s : State) : Out :=
  if !(s.pkg 0x072).getLsbD 31 || s.mem.wbBusy then .next s
  else
    let inv := (s.pkg 0x072).getLsbD 30
    let ks := (tkeys s.mem.l2).filter (fun k => !keyIdent k && s.inWb (keyTag k) (keyLine k))
    let s' := ks.foldl (fun s k =>
      let s := s.cleanL2 false (keyTag k) (keyLine k)
      if inv then s.dropL2 false (keyTag k) (keyLine k) else s) s
    let s' := if inv then s'.dropLines (fun w l => w != 0 && s.inWb w l) else s'
    .next { s' with mem := { s'.mem with wbBusy := true } }

/-- WRITE_BACK_COMPLETE: BUSY clears (R84). -/
def execWriteBackComplete (s : State) : Out :=
  if s.mem.wbBusy then
    .next ({ s with mem := { s.mem with wbBusy := false } }.setPkg 0x072 (s.pkg 0x072 &&& ~~~(0x80000000#64)))
  else .next s

/-- Zero n bytes of on-chip storage with their waybills and poison (R69). -/
def State.chipZero (s : State) (space k n : Nat) : State :=
  let cutB := fun (t : Table Byte) => t.filter (fun e => !(decide (k ≤ e.1) && decide (e.1 < k + n)))
  let cutW := fun (t : Table Waybill) => t.filter (fun e => !(decide (k ≤ e.1 * 256) && decide (e.1 * 256 < k + n)))
  let cutP := fun (t : Table Bool) => t.filter (fun e => !(decide (k ≤ e.1 * 64) && decide (e.1 * 64 < k + n)))
  match space with
  | 1 => { s with mem := { s.mem with sp := cutB s.mem.sp, spwb := cutW s.mem.spwb, sppo := cutP s.mem.sppo } }
  | 2 => { s with mem := { s.mem with cv := cutB s.mem.cv, cvwb := cutW s.mem.cvwb, cvpo := cutP s.mem.cvpo } }
  | 3 => { s with mem := { s.mem with dp := cutB s.mem.dp, dpwb := cutW s.mem.dpwb, dppo := cutP s.mem.dppo } }
  | _ => s

/-- ALLOCATION_ZERO: the oldest released allocation is zeroed and becomes grantable (R69), once no store is on its way to it. -/
def execAllocationZero (s : State) : Out :=
  match s.mem.zeroing with
  | [] => .next s
  | (space, k, n) :: rest =>
    if space ≠ 0 ∧ s.mem.reqs.any (fun e => e.isOpen && e.space == space && e.lanes.any (fun l => decide (k ≤ l.addr) && decide (l.addr < k + n))) then
      .next s
    else .next ({ s with mem := { s.mem with zeroing := rest } }.chipZero space k n)

/-- PAGE_WALK: a walker of core n0's die walks for world n1, address n2, access n3 at level n4: the leaf's checks, A and D, the
TLB fills and granule claims (R25, R30, R33, R52). -/
def execPageWalk (s : State) : Out :=
  if canonical (BitVec.ofNat 64 (s.argN 2)) then .next (s.xlate (s.argN 0) (s.argN 1) (s.argN 2) (s.argN 3) (s.argN 4)).2 else .next s

/-- The number of the window of 1,500 fabric clocks, one microsecond or 3,600 time-base cycles, that it is (R255, R286). -/
def State.windowNow (s : State) : Nat := s.time / 3600

/-- BANDWIDTH_WINDOW: a new window has begun, and the accounts of every stack start again (R286). -/
def execBandwidthWindow (s : State) : Out :=
  if s.windowNow = s.mem.window then .next s else .next { s with mem := { s.mem with bw := [], window := s.windowNow } }

end Sys2Proof.Machine
end

