-- ==== Sys2Proof/Machine/Clause.lean ====
section
/-! DEFINITION. Starting a clause (R232, R239, R241, R242, R253, R255, R257, R264, R265, R292 to R294, R334): what is looked at at a
clause boundary, the fetch of the header and the words, joins, loop ends, the wait on flags and the clause mask. -/

namespace Sys2Proof.Machine

/-! ### Fetching a word (R24, R79, R91, R97, R256, R293) -/

/-- What fetching one word comes to. -/
inductive Fetched where
  | word (w : Word) (s : State)
  | bad (f : XFault) (s : State)
  /-- the page is remote: SIZE of its leaf -/
  | park (size : Nat) (s : State)
  /-- the line is on its way -/
  | wait (s : State)

/-- The watchpoint on fetches (R256). -/
def watchFetch (t : Str) (addr : Nat) : Bool :=
  let c := t.reg 0x02D
  let n := 2 ^ (c.extractLsb' 4 4).toNat
  let w := (t.reg 0x02C).toNat / n * n
  !t.outrider && c.getLsbD 31 && c.getLsbD 2 && decide (addr < w + n) && decide (w < addr + 4)

/-- Ask for an instruction line, once a core. -/
def State.askFetch (s : State) (t : Str) (u core : Nat) (path : Bool) (x : Xlat) (va : Nat) : State :=
  if s.mem.reqs.any (fun r => r.kind == .ifetch && r.core == core && r.world == t.world && r.line == x.gpa / 128) then s
  else
    let r := { Req.mk0 s.nextOp 0 .ifetch .l2 t u path core with
      ident := x.ident, tag := x.tag, line := x.gpa / 128, psize := x.size, home := lfHome x.leaf, va := va, ty := 3 }
    { s with nextOp := s.nextOp + 1, mem := { s.mem with reqs := s.mem.reqs ++ [r] } }

/-- The word of a placed fetch: an ATOM page is read at its home and the sampler counts the access (R54), a ZERO page reads zeros, any other comes from the
instruction cache (R79). -/
def State.fetchPlaced (s : State) (t : Str) (u : Nat) (path : Bool) (x : Xlat) (va : Nat) : Fetched :=
  let half := if x.gpa % 128 < 64 then 0 else 1
  if lfZero x.leaf then .word 0 s
  else if x.atom then
    match s.physOf x.ident x.tag x.gpa with
    | none => .word 0 s
    | some h =>
      let s := if x.region ≠ .hbm then s else s.sampleAt (coreOf u) t.world 3 x.size (lfHome x.leaf) false x.gpa va
      let (d, _, p) := s.atomLine h (x.gpa / 128)
      if p / 2 ^ half % 2 = 1 then .bad ⟨70, cPOISON, 0, 0, 0⟩ s else .word (BitVec.ofNat 32 (lineGet d (x.gpa % 128) 4)) s
  else
    match (tget [] s.mem.ic (coreOf u)).find? (fun c => c.is t.world (x.gpa / 128)) with
    | none => .wait (s.askFetch t u (coreOf u) path x va)
    | some c =>
      if !s.keeps (coreOf u) c.line then .wait (s.askFetch t u (coreOf u) path x va)
      else if c.poison / 2 ^ half % 2 = 1 then .bad ⟨70, cPOISON, 0, 0, 0⟩ s
      else .word (BitVec.ofNat 32 (lineGet c.data (x.gpa % 128) 4)) s

/-- Fetch one word of a unit at a level. -/
def State.fetchWord (s : State) (t : Str) (u : Nat) (path : Bool) (lvl : Nat) (a : Dword) : Fetched :=
  if !canonical a then .bad ⟨2, cPROT, 2, 0, 0⟩ s
  else
    match s.xlate (coreOf u) t.world a.toNat aFetch lvl with
    | (.trap f, s) => .bad f s
    | (.park sz _, s) => if watchFetch t a.toNat then .bad ⟨50, cWATCH, 0, 0, 0⟩ s else .park sz s
    | (.ok x, s) => if watchFetch t a.toNat then .bad ⟨50, cWATCH, 0, 0, 0⟩ s else s.fetchPlaced t u path x a.toNat

/-- Fetch n words from an address: all of them, or what the lowest that is not there comes to, with its address. -/
def State.fetchWords (s : State) (t : Str) (u : Nat) (path : Bool) (lvl : Nat) (a : Dword) : Nat → List Word × Fetched × Dword
  | 0 => ([], .word 0 s, a)
  | n + 1 =>
    match s.fetchWord t u path lvl a with
    | .word w s =>
      let (l, r, b) := State.fetchWords s t u path lvl (a + 4) n
      (w :: l, r, b)
    | r => ([], r, a)

/-- The uniform fetch as a memory operation, for its records (R100, R102). -/
def fetchOp : MemOp := { uniMemOp 0 4 .load .none 0 with acc := aFetch }

/-- A fetch that parks parks the path before the clause issues (R97, R98). A path that resumes inside a clause keeps the lanes it owes. -/
def parkFetch (s : State) (t : Str) (p : Path) (a : Dword) (sz : Nat) : Out :=
  let um : Lanes := if p.pos = 0 then 1 else p.umask
  let rec_ := faultRecord s t s.curUnit (coreOf s.curUnit) s.curPath fetchOp 0 (if um = 0 then 1 else um) ⟨0, a.toNat, 4, 0, 0⟩ sz false true
  .next ({ s with way := { s.way with posts := s.way.posts ++ [rec_] } }.putCur t { p.park um with wrec := some rec_ })

/-- A trap of a fetch: at the header with POS 0, or where a path resumes; the value is the lowest faulting word's address (R293) (DEDUCED, log 28). -/
def fetchTrap (s : State) (t : Str) (p : Path) (a : Dword) (f : XFault) : Out :=
  takeTrap s (t.setPath s.curPath p)
    ⟨f.cause, p.here, p.pos, a, if f.stage = 1 then 2 else 0, some (tinfoWord 0 f.reason f.level f.stage aFetch), none, none, none⟩

/-- The state in which a fetch traps: a POISON trap counts at the frame's error record (R93). -/
def State.fetchFault (s : State) (t : Str) (a : Dword) (lvl : Nat) (f : XFault) : State :=
  if f.cause ≠ cPOISON then s
  else match s.xlate (coreOf s.curUnit) t.world a.toNat aFetch lvl with
    | (.ok x, s) => ((s.physOf x.ident x.tag x.gpa).map s.countConsumer).getD s
    | (_, s) => s

/-- The fetch of a vector faults: the trap is raised again at the next higher level with its cause; at the steward's vector the
string halts, FATAL, and the host cores receive the halt (R253): a message of kind 30 that names the unit (DESIGN CHOICE, log 127). -/
def vectorFault (s : State) (t : Str) (p : Path) : Out :=
  if 2 ≤ p.level then
    let s : State := { s with outbox := s.outbox ++ [⟨30, [s.curUnit], []⟩] }
    .next (s.putCur { t with dbg := .fatal } p)
  else
    let t := { t with trapLevel := p.level + 1, traps := t.traps.map (fun r => if r.handler = p.id then { r with user := false } else r) }
    .next (s.putCur t { p with level := p.level + 1, pc := vectorOf s t (p.level + 1) })

/-! ### Joins (R239) -/

/-- Does a path wait at a join, or is its slot empty? -/
def Path.atJoin (p : Path) : Bool := p.state == .joinWait || p.state == .empty

/-- The path that two merging paths become. -/
def mergePaths (a b : Path) : Path :=
  { a with state := .running, mask := a.mask ||| b.mask, flow := a.flow ||| b.flow
           since := max a.since b.since, line := (b.id, none) :: a.line ++ b.line.filter (fun x => !a.line.contains x)
           saved := max a.saved b.saved
           binds := a.binds ++ b.binds.filter (fun x => !a.binds.contains x) }

/-- The traps of a string two of whose paths have become one: b's are a's. -/
def TrapRec.renamed (a b : Nat) (r : TrapRec) : TrapRec :=
  { r with handler := if r.handler = b then a else r.handler, held := if r.held = some b then some a else r.held }

/-- The merge, once every live path waits at the join on top of the stack (DEDUCED, log 33). -/
def Str.merge (t : Str) : Str :=
  match t.stack with
  | .join _ :: rest =>
    if !(t.p0.atJoin && t.p1.atJoin) || !(t.p0.live || t.p1.live) then t
    else
      let t := if t.p0.live && t.p1.live then { t with p0 := mergePaths t.p0 t.p1, p1 := Path.blank, traps := t.traps.map (TrapRec.renamed t.p0.id t.p1.id) }
        else if t.p0.live then { t with p0 := { t.p0 with state := .running } }
        else { t with p1 := { t.p1 with state := .running } }
      match rest with
      | .susp q :: rest => if t.p0.live then { t with p1 := q, stack := rest } else { t with p0 := q, stack := rest }
      | _ => { t with stack := rest }
  | _ => t

/-! ### Starting (R232, R293) -/

/-- A malformed header (R292, R293). -/
def badHeader (h : Word) : Bool :=
  let a := (h.extractLsb' 12 4).toNat
  let b := (h.extractLsb' 8 4).toNat
  hdrLen h == 0 || (decide (12 ≤ a) && decide (a ≤ 14)) || (decide (12 ≤ b) && decide (b ≤ 14)) || h.extractLsb' 0 2 != 0

/-- The flags a header waits for that are still bound (R232). -/
def waitsFlags (p : Path) : Bool := p.binds.any (fun b => p.hdr.getLsbD (16 + b.1))

/-- Does the clause's predicate select anything? For a string its mask; for an outrider all or nothing (R232, R244). -/
def clauseMask (t : Str) (p : Path) : Lanes :=
  let n := hdrPred p.hdr
  let sense := p.hdr.getLsbD 4
  if t.outrider then (if t.qget n != sense then 1 else 0)
  else p.mask &&& t.lmask &&& (if sense then ~~~(t.pget n) else t.pget n)

/-- Steps 4 and 5: the wait on flags, the predicate's waybill, the mask, and the first word or the next clause. -/
def enterClause (s : State) (t : Str) (p : Path) : Out :=
  if waitsFlags p then .next (s.putIdle t p)
  else
    let p := { p with flow := p.flow ||| predWb t p, woken := false, vector := false, umask := 0, state := .running }
    let t := { t with stepping := if t.stepping = 1 then 2 else t.stepping }
    let m := clauseMask t p
    if m = 0 then .next (s.putCur t p.fall)
    else .next (s.putCur t { p with cmask := m, pos := 1 })

/-- A path that resumes inside a clause (R254): the header and words are fetched again, and the position is held against the length
and against a governing REP (DEDUCED, log 21). -/
def enterInside (s : State) (t : Str) (p : Path) : Out :=
  let bad := p.rep && (p.prevWord.extractLsb' 24 8 != 0x6C || decide (p.pos < 2))
  let t := if bad then { t with repidx := 0 } else t
  if p.words.length < p.pos ∨ bad then
    takeTrap s (t.setPath s.curPath p) ⟨cILLEGAL, p.here, p.pos, p.hdr.setWidth 64, 0, none, none, none, none⟩
  else .next (s.putCur t { p with state := .running, woken := false })

/-- Step 3: the words. -/
def fetchClause (s : State) (t : Str) (p : Path) : Out :=
  let k := fun (s : State) (p : Path) => if p.pos = 0 then enterClause s t p else enterInside s t p
  if p.words ≠ [] then k s p
  else
    match s.fetchWords t s.curUnit s.curPath p.level (p.pc + 4) (hdrLen p.hdr) with
    | (l, .word _ s, _) => k s { p with words := l }
    | (_, .wait s, _) => .next (s.putIdle t p)
    | (_, .park sz s, a) => parkFetch s t p a sz
    | (_, .bad f s, a) => fetchTrap (s.fetchFault t a p.level f) t p a f

/-- After the header: the join, then the words. -/
def afterHeader (s : State) (t : Str) (p : Path) (fresh : Bool) : Out :=
  if p.skip.isSome && p.pos == 0 then .next (s.putCur t (p.goto (p.pc + BitVec.ofNat 64 (4 * (hdrLen p.hdr + 1)))))
  else
    if fresh && p.pos == 0 && p.hdr.getLsbD 3 && t.stack.head? == some (.join p.pc) then
      .next (s.putStr s.curUnit ((t.setPath s.curPath { p with state := .joinWait }).merge))
    else fetchClause s t p

/-- Steps 1 and 2: the header. -/
def fetchHeader (s : State) (t : Str) (p : Path) : Out :=
  if p.hdr ≠ 0 then afterHeader s t p false
  else
    match s.fetchWord t s.curUnit s.curPath p.level p.pc with
    | .wait s => .next (s.putIdle t p)
    | .park sz s => parkFetch s t p p.pc sz
    | .bad f s => if p.vector then vectorFault s t p else fetchTrap (s.fetchFault t p.pc p.level f) t p p.pc f
    | .word w s =>
      if badHeader w then
        takeTrap s (t.setPath s.curPath { p with pos := 0 }) ⟨cILLEGAL, p.pc, 0, w.setWidth 64, 0, none, none, none, none⟩
      else afterHeader s t { p with hdr := w, vector := false } true

/-! ### What meets at a boundary (R265) -/

/-- The trap of a report (R264, R91), fixed to the steward's level where its sys.tinfo has STAGE = 1 (R34, R249), with what it names as the next header (DEDUCED, log 25). -/
def reportTrap (s : State) (t : Str) (p : Path) (epc : Dword) (pos : Nat) (r : Report) (rest : List Report) : Out :=
  let t := { t with reports := rest }.setReg 0x016 (BitVec.ofNat 64 (r.unit % 16 * 2 ^ 28 + r.index % 16 * 2 ^ 24 + r.cause % 256 * 2 ^ 16))
  takeTrap s (t.setPath s.curPath p)
    ⟨if r.poison then cPOISON else cENGINE, epc, pos, r.tval, if r.tinfo.getLsbD 16 then 2 else 0, some r.tinfo, some r.rfinfo, some r.gtinfo, some r.wsdecl⟩

/-- A path with no clause under way: halts and stops, engine reports, TICK, the tenant stop, then the clause (R257, R258, R264 to R266). One that leaves a
loop of count 0 goes to the header after the loop first (R333). -/
def atBoundary (s : State) (t : Str) (p : Path) : Out :=
  if p.skip.isSome then fetchHeader s t p
  else if t.stepping = 2 then .next (s.putCur { t with stepping := 0, dbg := .halted } p)
  else if t.stopNow then .next (s.captureNow s.curUnit (t.setPath s.curPath p))
  else match t.reports with
    | r :: rest => reportTrap s t p p.pc 0 r rest
    | [] =>
      if t.tickPending && p.level == 0 && t.userTraps == 0 && !t.outrider then
        takeTrap s ({ t with tickPending := false }.setPath s.curPath p)
          ⟨cTICK, p.pc, 0, BitVec.ofNat 64 s.time, 0, none, none, none, none⟩
      else if t.stopTenant && t.reconverged && decide (p.level < 2) then
        .next (s.captureNow s.curUnit (t.setPath s.curPath p))
      else fetchHeader s t p

/-- The loop end (R241, R242, R334): the innermost level counts down, and a level that closes looks at the next one outward. -/
def loopClose (t : Str) (h : Dword) : Nat → Str × Option Dword
  | 0 => (t, none)
  | d + 1 =>
    if tget 0 t.lend d ≠ h then (t, none)
    else if 1 < (tget 0 t.lcount d).toNat then ({ t with lcount := tset 0 t.lcount d (tget 0 t.lcount d - 1) }, some (tget 0 t.lstart d))
    else loopClose { t with lcount := tset 0 t.lcount d 0 } h d

/-- Active loop levels (R333). -/
def Str.loops (t : Str) : Nat :=
  if tget 0 t.lcount 3 ≠ 0 then 4 else if tget 0 t.lcount 2 ≠ 0 then 3 else if tget 0 t.lcount 1 ≠ 0 then 2
  else if tget 0 t.lcount 0 ≠ 0 then 1 else 0

/-- A path that has left a clause by falling through. -/
def loopEnd (s : State) (t : Str) (p : Path) (h : Dword) : Out :=
  let p := { p with left := none }
  let d := t.loops
  if t.outrider || d == 0 || tget 0 t.lend (d - 1) != h then atBoundary s t p
  else if t.diverged then
    takeTrap s (t.setPath s.curPath p) ⟨cLOOP, p.pc, 0, h, 0, none, none, none, none⟩
  else
    match loopClose t h d with
    | (t, some a) => atBoundary s t { p with pc := a }
    | (t, none) => atBoundary s t p

/-- Does a path stand inside a clause it is issuing, or hold it for the answers of a remote access (R184, R232)? -/
def Path.busy (p : Path) : Bool :=
  p.state == .running && p.pos != 0 && p.words != [] && !p.woken && match p.hold with
    | .none | .again | .remote _ => true
    | _ => false

/-- May a path start a clause now: it runs, its string is neither halted nor stopped nor holds it, and its sibling is not inside a clause
(R232, R250, R259). -/
def mayStart (t : Str) (b : Bool) : Bool :=
  let p := t.path b
  p.state == .running && (p.pos == 0 || p.words == []) && p.hold == .none && t.dbg == .running && !t.captured &&
    (!t.outrider || t.runs) && !t.holds p.id &&
    !(t.path (!b)).busy

/-- An outrider issues nothing while its string is stopped or halted (R266) (DEDUCED, log 71). -/
def State.boundStopped (s : State) (t : Str) : Bool := t.outrider && ((s.str? t.bound).map (fun b => b.captured || b.dbg != .running)).getD false

/-- The trap a resumed path has kept, once its string may take it (R240). -/
def dueTrap (t : Str) (p : Path) : Option TrapInfo :=
  match p.wrec, p.due with
  | some r, some k => if p.state == .parked && t.dbg == .running && !t.captured then some (wakeTrap p r k) else none
  | _, _ => none

/-- The codes of a string's register file find register r uncorrectable (v0 to v127, then s0 to s63): it is poisoned, and a record of KIND 3 is
logged (R90, R92). -/
def State.registerError (s : State) (u r : Nat) : State :=
  match s.str? u with
  | none => s
  | some t => (s.putStr u { t with regPoison := if r ∈ t.regPoison then t.regPoison else r :: t.regPoison }).logChip t.world 0 0 none

/-- The quad of a unit: the strings of a quad take turns (R279); an outrider stands alone. -/
def quadOf (u : Nat) : Nat := if slotOf u < 32 then u / 4 else 2 ^ 30 + u

/-- A string issues on a path, or starts a clause: it goes behind the others of its quad, and what they yielded is over (R279, R339). -/
def State.tookSlot (s : State) (u : Nat) (b : Bool) : State :=
  { s with
    stamp := s.stamp + 1
    strs := s.strs.map (fun e =>
      if e.1 = u then (e.1, { e.2 with stamp := s.stamp, before := e.2.stamp, yielded := false, onPath := b })
      else if quadOf e.1 = quadOf u then (e.1, { e.2 with yielded := false }) else e) }

/-- CLAUSE_START: the issuing path's next clause (R293), or a path that resumes inside one (R254). With n2 not 0, the codes of the string's register
file find register n2 - 1 uncorrectable. -/
def execClauseStart (s : State) : Out :=
  let s := if s.argN 2 = 0 then s else s.registerError s.curUnit (s.argN 2 - 1)
  match s.str? s.curUnit with
  | none => .next s
  | some t =>
    let p := t.path s.curPath
    match dueTrap t p with
    | some ti => takeTrap s t ti
    | none =>
    if !mayStart t s.curPath || s.boundStopped t then .next s
    else
    let s := s.tookSlot s.curUnit s.curPath
    let t := (s.str? s.curUnit).getD t
    if p.pos ≠ 0 then fetchHeader s t p
    else match p.left with
      | some h => loopEnd s t p h
      | none => atBoundary s t p

end Sys2Proof.Machine
end

