-- ==== Sys2Proof/Machine/Control.lean ====
section
/-! DEFINITION. Branches, calls, splits, loops, traps and returns, barriers and waits (R237, R238, R254, R328 to R339, R343). -/

namespace Sys2Proof.Machine

/-! ### Branches (R328 to R331) -/

/-- The target of a branch word. -/
def branchTarget (p : Path) (o : BitVec 20) : Dword := p.here + o.signExtend 64 * 4

/-- A branch condition holds when q xor sense = 1. -/
def condHolds (t : Str) (q : BitVec 3) (e : BitVec 1) : Bool := t.qget q.toNat != (e == 1)

/-- Inside the body of an open loop level: from its start header to its end header (R331, R333). -/
def inBody (t : Str) (k : Nat) (a : Dword) : Bool := decide (tget 0 t.lstart k ≤ a) && decide (a ≤ tget 0 t.lend k)

/-- Inside the innermost active body, or no loop is active. -/
def inLoop (t : Str) (a : Dword) : Bool :=
  match t.loops with
  | 0 => true
  | d + 1 => inBody t d a

/-- The flow waybill grows by the value that steers control (R315, R429) (DEDUCED, log 32). -/
def Path.steer (p : Path) (w : Waybill) : Path := { p with flow := p.flow ||| w }

/-- The path goes to a header. -/
def jump (s : State) (t : Str) (p : Path) (a : Dword) : Out := .next (s.putCur t (p.goto a))

/-- The path leaves its clause for the header after it. -/
def fallOut (s : State) (t : Str) (p : Path) : Out := .next (s.putCur t p.fall)

def execBr (q : BitVec 3) (e : BitVec 1) (o : BitVec 20) (s : State) : Out :=
  issued (.br q e o) s fun t p =>
    let p' := p.steer (t.qw q.toNat)
    if !condHolds t q e then fallOut s t p'
    else if !t.outrider && !inLoop t (branchTarget p o) then trapHere s t p cLOOP (branchTarget p o)
    else jump s t p' (branchTarget p o)

def execCall (q : BitVec 3) (e : BitVec 1) (o : BitVec 20) (s : State) : Out :=
  issued (.call q e o) s fun t p =>
    let p' := p.steer (t.qw q.toNat)
    if !condHolds t q e then fallOut s t p'
    else jump s (t.sputPair 62 p.nextClause p'.flow) p' (branchTarget p o)

def execRet (s : State) : Out :=
  issued .ret s fun t p => jump s t (p.steer (t.sws 62 2)) (t.spair 62 &&& ~~~3#64)

/-! ### Splits (R237, R238, R242) -/

/-- What SETJ would raise. An outrider has no divergence stack (R244) (DEDUCED, log 31). -/
def setjFault (t : Str) (b : Bool) (j : Dword) : Option (Nat × Dword) :=
  if t.outrider || decide (16 < t.stack.length + 1 + (if (t.path (!b)).live then 1 else 0)) then some (cDIVSTK, 0)
  else if !inLoop t j then some (cLOOP, j)
  else none

/-- SETJ: the sibling is suspended and the join is pushed. A sibling that waits for a frame asks again when it is resumed. -/
def setjDo (t : Str) (b : Bool) (j : Dword) : Str :=
  let y := t.path (!b)
  let y := if y.hold = .frame then { y with hold := .again } else y
  if y.live then { t.setPath (!b) Path.blank with stack := .join j :: .susp y :: t.stack } else { t with stack := .join j :: t.stack }

def execSetj (o : BitVec 20) (s : State) : Out :=
  issued (.setj o) s fun t p =>
    match setjFault t s.curPath (branchTarget p o) with
    | some (c, v) => trapHere s t p c v
    | none => finish s (setjDo t s.curPath (branchTarget p o)) p

/-- The path a split opens, with number n: it has the flags, the flow waybill and the path registers of the one that splits, whose accesses so far come
before its own (R146). -/
def splitPath (p : Path) (take : Lanes) (a : Dword) (n : Nat) : Path :=
  { p.goto a with mask := take, umask := 0, woken := false, id := n, line := (p.id, some n) :: p.line }

/-- A path that splits with no other path of its string left comes after all the string has done. -/
def Str.alone (t : Str) (p : Path) (n : Nat) : Path := if t.stack.any StkRec.isSusp then p else { p with since := n, line := [] }

def execBrd (pr : BitVec 3) (e : BitVec 1) (o : BitVec 20) (s : State) : Out :=
  issued (.brd pr e o) s fun t p =>
    let tgt := branchTarget p o
    let take := p.cmask &&& (if e = 1 then ~~~(t.pget pr.toNat) else t.pget pr.toNat)
    let rest := p.mask &&& ~~~take
    let p' := p.steer (t.pw pr.toNat)
    match t.stack with
    | .join _ :: _ =>
      if !inLoop t tgt then trapHere s t p cLOOP tgt
      else if take ≠ 0 ∧ rest ≠ 0 ∧ (t.path (!s.curPath)).live then trapHere s t p cDIVSTK 2
      else if take = 0 then fallOut s t p'
      else if rest = 0 then jump s t p' tgt
      else
        let q := t.alone p' s.nextOp
        fallOut s.takeOp (t.setPath (!s.curPath) (splitPath q take tgt s.nextOp)) { q with mask := rest }
    | _ => trapHere s t p cDIVSTK 1

/-! ### Tables (R330) -/

/-- An address relative to a table: its base plus four times a signed 32-bit offset. -/
def tableTarget (base : Dword) (off : BitVec 32) : Dword := base + off.signExtend 64 * 4

/-- The end of BRI, once the entry is read. -/
def briJump (s : State) (t : Str) (p p' : Path) (base : Dword) (e : BitVec 64) : Out :=
  let tgt := tableTarget base (e.extractLsb' 0 32)
  let join : BitVec 32 := e.extractLsb' 32 32
  if !t.outrider && !inLoop t tgt then trapHere s t p cLOOP tgt
  else if join = 0x80000000 then jump s t p' tgt
  else match setjFault t s.curPath (tableTarget base join) with
    | some (c, v) => trapHere s t p c v
    | none => jump s (setjDo t s.curPath (tableTarget base join)) p' tgt

def execBri (a b : BitVec 6) (s : State) : Out :=
  issued (.bri a b) s fun t p =>
    let base := t.spair a.toNat
    let i := (t.sget b.toNat).toNat
    let w := t.sws a.toNat 2 ||| t.sw b.toNat
    let m := uniMemOp 0 8 .load .none 0
    if base.extractLsb' 0 3 ≠ 0 then trapHere s t { p with tinfo := tinfoWord 0 0 0 0 aUniLoad } cALIGN base
    else match uniRead s t p m base.toNat w with
      | .stop o => o
      | .got c w1 s =>
        let p := p.resumed
        if c % 2 ^ 32 ≤ i then trapWord s t p cBRTAB
        else match uniRead s t p m (base + BitVec.ofNat 64 (8 + 8 * i)).toNat w with
          | .stop o => o
          | .got e w2 s => briJump s t p.resumed (p.resumed.steer (t.sw b.toNat ||| w1 ||| w2)) base (BitVec.ofNat 64 e)

/-! ### Loops (R333, R334, R317) -/

/-- LOOP and LOOPI once the count is known. -/
def loopOpen (s : State) (t : Str) (p : Path) (count : Word) (off : Nat) (w : Waybill) : Out :=
  let start := p.nextClause
  let last := p.here + BitVec.ofNat 64 (4 * off)
  let d := t.loops
  if t.outrider || d == 4 || decide (last < start) ||
      (decide (0 < d) && !(decide (tget 0 t.lstart (d - 1) ≤ start) && decide (last ≤ tget 0 t.lend (d - 1)))) then
    trapHere s t p cLOOP p.here
  else if count = 0 then finish s t { p.steer w with skip := some last }
  else
    finish s { t with lstart := tset 0 t.lstart d start, lend := tset 0 t.lend d last, lcount := tset 0 t.lcount d count } (p.steer w)

def execLoop (c : BitVec 6) (o : BitVec 18) (s : State) : Out :=
  issued (.loop c o) s fun t p => loopOpen s t p (t.sget c.toNat) o.toNat (t.sw c.toNat)

def execLoopi (n o : BitVec 12) (s : State) : Out :=
  issued (.loopi n o) s fun t p => loopOpen s t p (n.setWidth 32) o.toNat 0

/-- LBRK (R334) (DEDUCED, log 30). -/
def execLbrk (q : BitVec 3) (e : BitVec 1) (o : BitVec 20) (s : State) : Out :=
  issued (.lbrk q e o) s fun t p =>
    let tgt := branchTarget p o
    let p' := p.steer (t.qw q.toNat)
    if t.outrider ∨ t.loops = 0 then trapHere s t p cLOOP p.here
    else if !condHolds t q e then fallOut s t p'
    else match t.loops with
      | 0 | 1 => jump s { t with lcount := tset 0 t.lcount 0 0 } p' tgt
      | d + 2 =>
        if !inBody t d tgt then trapHere s t p cLOOP tgt
        else jump s { t with lcount := tset 0 t.lcount (d + 1) 0 } p' tgt

/-! ### Traps and returns (R254, R343) -/

/-- The instruction after the one a path stands at: its address and position (R251); at the end of a clause that a loop of count 0 leaves, the header of
that loop's last clause, which it goes by (R333). -/
def nextInstr (p : Path) : Dword × Nat := if p.pos < p.words.length then (p.here + 4, p.pos + 1) else (p.skip.getD p.nextClause, 0)

/-- TRAP and BRK taken as traps. -/
def softTrap (s : State) (t : Str) (p : Path) (cause : Nat) (i : BitVec 18) : Out :=
  takeTrap s (t.setPath s.curPath p) ⟨cause, (nextInstr p).1, (nextInstr p).2, i.setWidth 64, 0, none, none, none, none⟩

def execTrap (i : BitVec 18) (s : State) : Out := issued (.trap i) s fun t p => softTrap s t p cTRAP i

def execBrk (i : BitVec 18) (s : State) : Out :=
  issued (.brk i) s fun t p =>
    if t.outrider then trapHere s t p cBRK (i.setWidth 64)
    else if t.brkh then finish s { t with dbg := .halted } p
    else softTrap s t p cBRK i

/-- sys.estat.PLEVEL as a level; 3 is none, and is taken as the steward's (DESIGN CHOICE, log 22). -/
def returnLevel (e : Dword) : Nat := min 2 (e.extractLsb' 30 2).toNat

/-- The path TRET leaves: the replay, the clause afresh, or the word at POS with the clause mask of sys.emask. -/
def returnPath (t : Str) (p : Path) : Path :=
  let e := t.reg 0x013
  let pos := (e.extractLsb' 24 4).toNat
  let rep := e.getLsbD 23 && decide (pos ≠ 0)
  let epc := t.reg 0x024 &&& ~~~3#64
  let um : Lanes := (t.reg 0x015).setWidth 32
  { p.goto (epc - BitVec.ofNat 64 (4 * pos)) with
    pos := pos, level := returnLevel e, cmask := if pos = 0 then p.cmask else (t.reg 0x014).setWidth 32
    umask := if pos = 0 then 0 else um, rep := rep }

/-- The path that TRET leaves, with the loop skip it was under when it returns to the clause it trapped in (R333) (DEDUCED, log 23). -/
def Path.rejoin (q : Path) (r : Option TrapRec) : Path :=
  match r.bind TrapRec.skip with
  | some (h, e) => if h = q.pc ∧ (q.pos ≠ 0 ∨ h = e) then { q with skip := some e } else q
  | none => q

/-- TRET, after its checks: the operations of a parked instruction that is not replayed are given up, and the sibling is released. -/
def execTret (s : State) : Out :=
  issued .tret s fun t p =>
    if p.level = 0 ∧ t.userTraps = 0 then trapWord s t p cPRIV
    else
      let q := returnPath t p
      let r := trapOf t.traps p.id (decide (p.level = 0))
      let t := { t with
        traps := (r.map t.traps.erase).getD t.traps
        repidx := if q.rep then t.repidx else 0 }
      .next (s.putCur t (q.rejoin r))

/-! ### Barriers (R335) -/

/-- The strings a barrier counts: of a party, or of the parties of a gang. -/
def State.barUnits (s : State) (t : Str) (gang : Bool) : List Nat :=
  if gang then (s.sch.parties.filter (fun e => e.1 / 8 == t.party / 8)).flatMap (fun e => e.2.units)
  else ((tfind s.sch.parties t.party).map (fun p => p.units)).getD []

def State.barLive (s : State) (t : Str) (gang : Bool) : Nat :=
  if gang then (s.sch.parties.filter (fun e => e.1 / 8 == t.party / 8)).foldl (fun n e => n + e.2.live) 0
  else ((tfind s.sch.parties t.party).map (fun p => p.live)).getD 0

/-- Where a barrier's count stands: (arrivals, needed). -/
def State.barGet (s : State) (t : Str) (n : Nat) : Nat × Nat :=
  if n < 8 then ((tfind s.sch.parties t.party).map (fun p => tget (0, 0) p.bars n)).getD (0, 0)
  else tget (0, 0) s.sch.cvBars (t.party / 8 * 4 + n % 4)

def State.barPut (s : State) (t : Str) (n : Nat) (v : Nat × Nat) : State :=
  if n < 8 then
    match tfind s.sch.parties t.party with
    | none => s
    | some p => { s with sch := { s.sch with parties := tput s.sch.parties t.party { p with bars := tset (0, 0) p.bars n v } } }
  else { s with sch := { s.sch with cvBars := tset (0, 0) s.sch.cvBars (t.party / 8 * 4 + n % 4) v } }

/-- A path that waits at a barrier whose generation has completed. -/
def Path.release (p : Path) (n : Nat) : Path := if p.hold = .barrier n then { p with hold := .released } else p

/-- Complete a generation: the count returns to 0 and every waiting string may go on. -/
def State.barDone (s : State) (t : Str) (n : Nat) : State :=
  (s.barUnits t (decide (8 ≤ n))).foldl (fun s u =>
    match s.str? u with
    | none => s
    | some x => s.putStr u { x with p0 := x.p0.release n, p1 := x.p1.release n }) (s.barPut t n (0, 0))

/-- Has a generation all its arrivals? -/
def barFull (v : Nat × Nat) (live : Nat) : Bool := decide (0 < v.1) && decide ((if v.2 = 0 then live else v.2) ≤ v.1)

/-- The arrivals a generation needs, from its first arrival; 0 is every string counted. -/
def barNeed (c : BitVec 1) (v live : Nat) : Nat := if c = 0 then 0 else max 1 (min v live)

/-- An arrival at a barrier, after its release. -/
def arrive (s : State) (t : Str) (p : Path) (n : Nat) (c : BitVec 1) (v : Nat) : Out :=
  let core := coreOf s.curUnit
  let scope := if n < 8 then 1 else 2
  match p.hold with
  | .barrier _ => .next s
  | .released => finish (s.acquireAt core t.world scope) t p
  | _ =>
    if !s.settled p then waitOn s t p
    else
      let live := s.barLive t (decide (8 ≤ n))
      let old := s.barGet t n
      let now := (old.1 + 1, if old.1 = 0 then barNeed c v live else old.2)
      let s := s.putCur t { p with hold := .barrier n }
      if barFull now live then
        let s := s.barDone t n
        match s.str? s.curUnit with
        | none => .next s
        | some t => finish (s.acquireAt core t.world scope) t (t.path s.curPath)
      else .next (s.barPut t n now)

def execBar (a : BitVec 6) (c : BitVec 1) (n : BitVec 3) (s : State) : Out :=
  issued (.bar a c n) s fun t p => arrive s t p n.toNat c (t.sget a.toNat).toNat

/-- Fields of a launch record (R268). -/
def Launch.bit (l : Launch) (k : Nat) : Bool := l.rec_.getLsbD k
def Launch.num (l : Launch) (k n : Nat) : Nat := (l.rec_.extractLsb' k n).toNat

/-- Was the string's launch a convoy launch (R268)? -/
def State.isConvoy (s : State) (t : Str) : Bool := ((tfind s.sch.launches t.launch).map (fun l => l.bit 335)).getD false

def execBarcv (a : BitVec 6) (c : BitVec 1) (n : BitVec 2) (s : State) : Out :=
  issuedIf (.barcv a c n) s (fun t _ => !s.isConvoy t) fun t p => arrive s t p (8 + n.toNat) c (t.sget a.toNat).toNat

/-- ARRV: a release, then an addition to the word at its home (R336). -/
def execArrv (a b : BitVec 6) (sc : BitVec 3) (s : State) : Out :=
  issued (.arrv a b sc) s fun t p =>
    let w := t.sws a.toNat 2 ||| t.sw b.toNat
    let m : MemOp :=
      { uniMemOp 0 8 .atomic .none 0 with slot := none, strong := true, rel := true, scope := sc.toNat, atop := 0 }
    domRelease s t p sc.toNat
      (memAccess s t p m [⟨0, (t.spair a.toNat).toNat, 8, (t.sget b.toNat).toNat, 0⟩] w (w ||| p.flow) (t.sws a.toNat 2))

/-! ### Waits on a word (R155, R336, R337) -/

/-- WAITW's conditions. -/
def waitCond (c : Nat) (x v : Dword) : Bool :=
  match c with
  | 0 => x == v
  | 1 => x != v
  | 2 => !(x - v).msb
  | 3 => (x - v).msb
  | _ => (x &&& v) != 0

/-- One check of a word: the path goes on, with an acquire, or waits for a re-check. -/
def waitWord (s : State) (t : Str) (p : Path) (m : MemOp) (c addr : Nat) (v : Dword) (aw dw : Waybill) : Out :=
  let held := [addr, v.toNat, aw.toNat, dw.toNat]
  match uniRead s t { p with vals := held } m addr aw with
  | .stop o => o
  | .got x w s =>
    if waitCond c (BitVec.ofNat 64 x) v then finish (s.acquireAt (coreOf s.curUnit) t.world m.scope) t (p.resumed.steer (dw ||| w))
    else waitOn s t { p.resumed with vals := held }

/-- A wait on a word: its operands are read once, at issue, and a re-check has them as they were (R301). -/
def waitHeld (s : State) (t : Str) (p : Path) (m : MemOp) (c addr : Nat) (v : Dword) (aw dw : Waybill) : Out :=
  match p.vals with
  | [a, x, aw', dw'] => waitWord s t p m c a (BitVec.ofNat 64 x) (BitVec.ofNat 16 aw') (BitVec.ofNat 16 dw')
  | _ => waitWord s t p m c addr v aw dw

/-- The read of a wait. -/
def waitOp (space scope : Nat) : MemOp := { uniMemOp space 8 .load .none 0 with slot := none, strong := true, acq := true, scope := scope }

def execBwait (d a : BitVec 6) (sc : BitVec 3) (s : State) : Out :=
  issued (.bwait d a sc) s fun t p =>
    waitHeld s t p (waitOp 0 sc.toNat) 2 (t.spair a.toNat).toNat (t.spair d.toNat) (t.sws a.toNat 2) (t.sws d.toNat 2)

def execWaitw (d a : BitVec 6) (c sp sc : BitVec 3) (s : State) : Out :=
  issued (.waitw d a c sp sc) s fun t p =>
    let addr := if sp = 0 then (t.spair a.toNat).toNat else (t.sget a.toNat).toNat
    let aw := if sp = 0 then t.sws a.toNat 2 else t.sw a.toNat
    waitHeld s t p (waitOp sp.toNat sc.toNat) c.toNat addr (t.spair d.toNat) aw (t.sws d.toNat 2)

/-- WAITW_RECHECK: the unit's path tries its word again (R155) (DEDUCED, log 29). -/
def execWaitwRecheck (s : State) : Out :=
  match s.str? s.curUnit with
  | none => .next s
  | some t =>
    if (t.path s.curPath).hold = .word then .next { s with agenda := ⟨0, .issue s.curUnit s.curPath⟩ :: s.agenda } else .next s

/-! ### Fences and waits (R139, R338, R339) -/

/-- Has every load before what the issuing path does now been satisfied? -/
def State.loadsSettled (s : State) (p : Path) : Bool := (s.earlier s.curUnit p s.nextOp).all (fun e => e.kind == .store)

/-- FENCE (R139, R157, R338): the path issues nothing until .acq has every earlier load satisfied, and .rel, .ar and .sc every earlier access
performed or satisfied. -/
def execFence (sc : BitVec 3) (k : BitVec 2) (s : State) : Out :=
  issued (.fence sc k) s fun t p =>
    if !(if k = 0 then s.loadsSettled p else s.settled p) then stay s t p
    else domRelease s t p (if k = 0 then 0 else sc.toNat)
      (finish (if k = 1 then s else s.acquireAt (coreOf s.curUnit) t.world sc.toNat) t p)

def execWaitf (f : BitVec 12) (s : State) : Out :=
  issued (.waitf f) s fun t p => if p.binds.any (fun b => f.getLsbD b.1) then waitOn s t p else finish s t p

def execYield (s : State) : Out := issued .yield s fun t p => finish s { t with yielded := true } p

def execSleep (a : BitVec 6) (i : BitVec 12) (s : State) : Out :=
  issued (.sleep a i) s fun t p =>
    if t.tickPending ∧ p.level = 0 then finish s t p
    else .next (s.putCur t { p with hold := .sleep (s.time + (t.sget a.toNat + i.setWidth 32).toNat) })

/-- SLEEP_EXPIRY: the wait of the unit's path is over. -/
def execSleepExpiry (s : State) : Out :=
  match s.str? s.curUnit with
  | none => .next s
  | some t =>
    match (t.path s.curPath).hold with
    | .sleep n => if n ≤ s.time then .next (s.putStr s.curUnit (t.endSleep s.curPath)) else .next s
    | _ => .next s

def execNop (s : State) : Out := issued .nop s fun t p => finish s t p

end Sys2Proof.Machine
end

