-- ==== Sys2Proof/Machine/Fabric.lean ====
section
/-! DEFINITION. The fabric (R163 to R181, R188 to R194, R340): membership and the default pairing, flits, allowances and replays, lanes
and leases, and the instructions that request, end and read leases and drain a pair. -/

namespace Sys2Proof.Machine

/-! ### Membership (R166, R167) -/

/-- This package's identifier. -/
def State.me (s : State) : Nat := (s.pkg 0x0A0).toNat % 1024

/-- An entry of the hub's peer table: MEMBER 1, LEAVING 2, FAILED 4; the package's own reads as MEMBER. -/
def State.peerBits (s : State) (p : Nat) : Nat := if p = s.me then 1 else tget 0 s.fab.peers p

def State.isMember (s : State) (p : Nat) : Bool := s.peerBits p % 2 == 1

/-- May new requests name the peer (R182, R189)? -/
def State.reaches (s : State) (p : Nat) : Bool := s.peerBits p == 1

/-- Is a peer attested for a world (R431, R442)? The package itself lies inside the boundary. -/
def State.attestedFor (s : State) (w p : Nat) : Bool := p == s.me || tget false s.tr.attested (w * 1024 + p)

/-- The members in ascending order. -/
def State.members (s : State) : List Nat := (List.range 1024).filter s.isMember

/-- The partner of domain index i in plane j among n members (R167). -/
def defaultPair (j n i : Nat) : Option Nat :=
  if n ≤ 1 then none
  else
    let m := if n % 2 = 0 then n - 1 else n
    if m * (1024 / m) ≤ j then none
    else
      let r := j % m
      if n % 2 = 0 ∧ i = n - 1 then some r
      else
        let k := (2 * r + m - i) % m
        if k ≠ i then some k else if n % 2 = 0 then some (n - 1) else none

/-- The default peer of a plane among members. -/
def defaultIn (ms : List Nat) (me j : Nat) : Option Nat :=
  match ms.findIdx? (fun p => p == me) with
  | none => none
  | some i => (defaultPair j ms.length i).bind (fun k => ms[k]?)

/-- The default peer of a plane. -/
def State.defaultPeer (s : State) (j : Nat) : Option Nat := defaultIn s.members s.me j

/-! ### Lanes and pairs -/

/-- The peer of a lane that joins none. -/
def noPeer : Nat := 1024

/-- A lane of which nothing is known: dark (R175). -/
def Lane.blank : Lane := ⟨noPeer, 2, none, 0, 0, 0, 0, none, false⟩

/-- A lane paired with a peer: dark, unless it retrains, which comes to its end first (R175, R192). -/
def Lane.aim (x : Lane) (peer : Nat) (lease : Option Nat) : Lane :=
  { x with peer := peer, lease := lease, far := none, st := if x.st = 3 then 3 else 2, moved := x.st == 3 }

/-- A lane pooled; one that retrains goes on with that. -/
def Lane.pool (x : Lane) : Lane := { x with peer := noPeer, lease := none, far := none, st := if x.st = 3 then 3 else 1, moved := x.st == 3 }

def State.lane (s : State) (l : Nat) : Lane := tget Lane.blank s.fab.lanes l
def State.setLane (s : State) (l : Nat) (x : Lane) : State := { s with fab := { s.fab with lanes := tset Lane.blank s.fab.lanes l x } }

/-- A pair of which nothing has been sent: eight flits of allowance and eight buffers (R178). -/
def Pair.blank : Pair := ⟨0, 0, 8, [], 0, [], [], 0, [], [], 8, 8⟩

def State.pair (s : State) (p : Nat) : Pair := tget Pair.blank s.fab.pairs p
/-- A package that is no member has no pair: nothing is kept of it, so that one admitted starts afresh (R462). -/
def State.setPair (s : State) (p : Nat) (x : Pair) : State :=
  if s.isMember p then { s with fab := { s.fab with pairs := tset Pair.blank s.fab.pairs p x } } else s

/-- A receive buffer of a pair is free again: it is offered to the peer, or leaves the pair for the pool (R178). -/
def Pair.freed (p : Pair) : Pair := if p.want < p.bufs then { p with bufs := p.bufs - 1 } else { p with owed := p.owed + 1 }

/-- Receive buffers of the package that no pair has (R178). -/
def State.poolFree (s : State) : Nat := 32768 - ((s.members.filter (fun q => q != s.me)).map (fun q => (s.pair q).bufs)).sum

/-- The pair is to have n buffers, at least its 8 and at most what the pool still has; new ones are offered to the peer (R178). -/
def State.share (s : State) (peer n : Nat) : State :=
  let p := s.pair peer
  let want := max 8 (min n (p.bufs + s.poolFree))
  s.setPair peer { p with want := want, bufs := max p.bufs want, owed := p.owed + (want - p.bufs) }

/-- Lanes a pair holds, dark and retraining ones included (R168, R191) (DEDUCED, log 53). -/
def State.lanesTo (s : State) (p : Nat) : Nat :=
  ((List.range 1024).filter (fun l => (s.lane l).peer == p && (s.lane l).st != 1 && (s.lane l).st != 4)).length

/-- Does a live lane reach the peer? -/
def State.liveTo (s : State) (p : Nat) : Bool := s.fab.lanes.any (fun e => e.2.peer == p && e.2.st == 0)

/-! ### Flits (R176, R179) -/

/-- TYPE of the flit a message goes in: drain markers, drain acknowledgements and manager messages have flits of their own. -/
def Flit.ty (f : Flit) : Nat := if 4 ≤ f.kind ∧ f.kind ≤ 6 then f.kind - 1 else 1

/-- Units of 16 bytes a message takes: its header unit and its data (R179). -/
def Flit.units (f : Flit) : Nat := 1 + (f.bytes.length + 15) / 16

/-- A unit of a message. -/
def Flit.unit (f : Flit) (k : Nat) : Nat :=
  if k = 0 then (Config.unitBits (f.kind :: f.n)).toNat else ofBytes ((f.bytes.drop (16 * (k - 1))).take 16)

/-- Messages packed into the room of a flit, from unit `cut` of the first: the parts, what is left, and the units of its first already gone. -/
def packUnits : List Flit → Nat → Nat → List (Flit × Nat × Nat) × List Flit × Nat
  | [], _, _ => ([], [], 0)
  | f :: t, cut, room =>
    if room = 0 ∨ f.ty ≠ 1 then ([], f :: t, cut)
    else if f.units - cut ≤ room then
      let r := packUnits t 0 (room - (f.units - cut))
      ((f, cut, f.units - cut) :: r.1, r.2)
    else ([(f, cut, room)], f :: t, cut + room)

/-- The next flit of a pair's messages. -/
def nextWire (p : Pair) : Option (Wire × Pair) :=
  match p.queued with
  | [] => none
  | f :: t =>
    if f.ty ≠ 1 then some (⟨f.ty, [(f, 0, f.units)]⟩, { p with queued := t, cut := 0 })
    else
      let r := packUnits p.queued p.cut 16
      some (⟨1, r.1⟩, { p with queued := r.2.1, cut := r.2.2 })

/-- The messages whose last unit a flit carries. -/
def Wire.ends (w : Wire) : List Flit := (w.parts.filter (fun x => x.2.1 + x.2.2 == x.1.units)).map Prod.fst

/-- The units of a flit's payload. -/
def Wire.units (w : Wire) : List Nat := w.parts.flatMap (fun x => (List.range x.2.2).map (fun k => x.1.unit (x.2.1 + k)))

/-- CRC-32 (PRESUMED, log 133). -/
def crcByte (c : BitVec 32) (b : Byte) : BitVec 32 :=
  (List.range 8).foldl (fun x _ => if x.getLsbD 0 then (x >>> 1) ^^^ 0xEDB88320#32 else x >>> 1) (c ^^^ b.setWidth 32)
def crc32 (bs : List Byte) : BitVec 32 := ~~~(bs.foldl crcByte 0xFFFFFFFF#32)

/-- A flit's header (R176). -/
def flitHdr (ty src dst seq ack allow units : Nat) (payload : List Byte) : Nat :=
  let h := ty * 2 ^ 124 + src * 2 ^ 114 + dst * 2 ^ 104 + seq * 2 ^ 80 + ack * 2 ^ 56 + allow * 2 ^ 45 + units * 2 ^ 40
  h + (crc32 (bytesOf 12 (h / 2 ^ 32) ++ payload)).toNat

/-- A flit as it leaves: to the outside, with its peer and header, the messages that end in it (kind, numbers, bytes), and its payload. -/
def flitMsg (me peer seq ack allow : Nat) (w : Wire) : Msg :=
  let pay := bytesOf 256 (w.units.foldr (fun u acc => u + 2 ^ 128 * acc) 0)
  ⟨10, peer :: flitHdr w.ty me peer seq ack allow w.units.length pay :: w.ends.flatMap (fun f => f.kind :: f.n.length :: f.bytes.length :: f.n), pay⟩

/-- ACK: the last flit delivered. -/
def Pair.ack (p : Pair) : Nat := (p.nextRecv + 2 ^ 24 - 1) % 2 ^ 24

/-- One flit spent against the allowance; it returns what is owed to the peer. -/
def Pair.spend (p : Pair) : Pair := { p with allow := p.allow - 1, owed := p.owed - min p.owed 2047 }

/-- Send what a pair's allowance lets it send, in order: replay requests, flits asked for again, then its messages (R177, R178, R181). -/
def pumpPair (me peer : Nat) : Nat → Pair → List Msg → Pair × List Msg
  | 0, p, o => (p, o)
  | n + 1, p, o =>
    if p.allow = 0 then (p, o)
    else match p.asks with
      | k :: t => pumpPair me peer n { p.spend with asks := t } (o ++ [flitMsg me peer 0 k (min p.owed 2047) ⟨2, []⟩])
      | [] =>
        match p.again with
        | k :: t =>
          match p.sent.find? (fun e => e.1 == k) with
          | some (_, w) => pumpPair me peer n { p.spend with again := t } (o ++ [flitMsg me peer k p.ack (min p.owed 2047) w])
          | none => pumpPair me peer n { p with again := t } o
        | [] =>
          match nextWire p with
          | none => (p, o)
          | some (w, q) =>
            pumpPair me peer n { q.spend with nextSend := (p.nextSend + 1) % 2 ^ 24, sent := p.sent ++ [(p.nextSend, w)] }
              (o ++ [flitMsg me peer p.nextSend p.ack (min p.owed 2047) w])

/-- Flits a pair has to send at most. -/
def Pair.waiting (p : Pair) : Nat := p.asks.length + p.again.length + (p.queued.map Flit.units).sum

/-- Requests whose last unit has left: a posted write that has left is a part of its RST's flag no more (R380). -/
def State.left (s : State) (fs : List Flit) : State :=
  fs.foldl (fun s f =>
    match f.kind, f.n with
    | 1, id :: _ => match tfind s.fab.rems id with
      | some r => match r.who with
        | .post .. => s.opLeave r.tag
        | _ => s
      | none => s
    | _, _ => s) s

/-- Send what can go to a peer; allowance still owed is returned with an idle flit. -/
def State.pump (s : State) (peer : Nat) : State :=
  if !s.liveTo peer then s
  else
    let p := s.pair peer
    let r := pumpPair s.me peer p.waiting p []
    let idle := if r.1.owed = 0 then [] else [flitMsg s.me peer 0 r.1.ack (min r.1.owed 2047) ⟨0, []⟩]
    ({ s.setPair peer { r.1 with owed := r.1.owed - min r.1.owed 2047 } with outbox := s.outbox ++ r.2 ++ idle } : State).left
      ((r.1.sent.drop p.sent.length).flatMap (fun e => e.2.ends))

/-- Queue a message for a peer. -/
def State.sendFlit (s : State) (peer : Nat) (f : Flit) : State :=
  let p := s.pair peer
  (s.setPair peer { p with queued := p.queued ++ [f] }).pump peer

/-! ### Events to rings (R194) -/

/-- A fabric event record. -/
def fabWord (kind lane peer world lease code time addr : Nat) : Nat :=
  kind * 2 ^ 252 + lane % 1024 * 2 ^ 242 + peer % 1024 * 2 ^ 232 + world % 256 * 2 ^ 224 + lease % 256 * 2 ^ 216 + code % 256 * 2 ^ 208 +
    time % 2 ^ 64 * 2 ^ 64 + addr % 2 ^ 64

/-- To the ring of a world's top-level partition; world 0's and lane events to the steward's. -/
def State.fabEvent (s : State) (w : Nat) (rec : Nat) : State :=
  match s.topPart w with
  | none => s.ringPut none (s.preg 24 0x0A8).toNat rec
  | some p => s.ringPut (some p) (s.preg p 0x0A8).toNat rec

/-! ### Receiving (R176, R177, R181) -/

/-- The step a message begins at this package. -/
def flitEvent (k : Nat) : Option Instr :=
  match k with
  | 1 => some .inboundAccess
  | 2 => some .remoteAck
  | 3 => some .remoteResponse
  | 4 => some .drainMarker
  | 5 => some .drainAcknowledgement
  | 6 => some .managerMessage
  | 7 => some .pageRead
  | 8 => some .invalidation
  | 9 => some .invalidationAck
  | 10 => some .lookupAnswer
  | 11 => some .fetchComplete
  | 12 => some .ownershipRequest
  | 13 => some .ownershipAnswer
  | 14 => some .directoryLookup
  | 15 => some .ownerWriteback
  | 16 => some .pageWriteback
  | 17 => some .directoryEntryUpdate
  | 18 => some .attestNonceReceive
  | 19 => some .attestReportArrival
  | 20 => some .carrierPut
  | _ => none

/-- The act a delivered flit leads to: the message's numbers stand behind the peer. -/
def flitAct (peer : Nat) (f : Flit) : List Item :=
  match flitEvent f.kind with
  | none => []
  | some i => [⟨0, .event i ⟨peer :: f.n, f.bytes⟩⟩]

/-- Is a before b, modulo 2^24? -/
def seqBefore (a b : Nat) : Bool := a != b && decide ((b + 2 ^ 24 - a) % 2 ^ 24 < 2 ^ 23)

/-- Deliver the flits that now stand in order; their buffers are free again. -/
def deliverEarly (peer : Nat) : Nat → Pair → List Item → Pair × List Item
  | 0, p, acc => (p, acc)
  | n + 1, p, acc =>
    match p.early.find? (fun e => e.1 == p.nextRecv) with
    | none => (p, acc)
    | some (k, fs) =>
      deliverEarly peer n { p.freed with nextRecv := (k + 1) % 2 ^ 24, early := p.early.filter (fun e => e.1 != k) }
        (acc ++ fs.flatMap (flitAct peer))

/-- Messages as an event brings them: kind, how many numbers, how many bytes, the numbers. -/
def msgsIn : Nat → List Nat → List Byte → List Flit
  | n + 1, kind :: k :: m :: t, bs => ⟨kind, t.take k, bs.take m⟩ :: msgsIn n (t.drop k) (bs.drop m)
  | _, _, _ => []

/-- The messages that end in a flit of a TYPE. -/
def flitEnds (ty : Nat) (n : List Nat) (bs : List Byte) : List Flit := (msgsIn n.length n bs).filter (fun f => f.ty == ty)

/-- FLIT_RECEIVE: a flit of peer n0 on lane n1 with SEQ n2, TYPE n3, ACK n4 and ALLOW n5; n6 = 1: uncorrectable; from n7 on, the messages that
end in it (R179) (DESIGN CHOICE, log 36). -/
def execFlitReceive (s : State) : Out :=
  let peer := s.argN 0
  let ln := s.lane (s.argN 1)
  let seq := s.argN 2
  let ty := s.argN 3
  let old := s.pair peer
  if !s.isMember peer || !s.fab.started then .next s
  else if s.argN 6 = 1 then
    .next (((s.setLane (s.argN 1) { ln with uncor := min 16383 (ln.uncor + 1) }).setPair peer
      { old.freed with asks := old.asks ++ [seq] }).pump peer)
  else if 6 ≤ ty then
    .next (((s.setLane (s.argN 1) { ln with uncor := min 16383 (ln.uncor + 1) }).setPair peer old.freed).pump peer)
  else
    let p := { old with allow := old.allow + s.argN 5 }
    if ty = 2 then
      .next { (s.setPair peer p.freed).pump peer with
        agenda := ⟨0, .event .replayRequest ⟨[peer, s.argN 4], []⟩⟩ :: s.agenda }
    else
      let p := { p with sent := p.sent.filter (fun e => e.1 != s.argN 4 && !seqBefore e.1 (s.argN 4)) }
      let fs := flitEnds ty (s.arg.n.drop 7) s.arg.bytes
      if ty = 0 then .next ((s.setPair peer p).pump peer)
      else if seq = p.nextRecv then
        let r := deliverEarly peer p.early.length { p.freed with nextRecv := (seq + 1) % 2 ^ 24 } (fs.flatMap (flitAct peer))
        .next { (s.setPair peer r.1).pump peer with agenda := r.2 ++ s.agenda }
      else if seqBefore seq p.nextRecv || p.early.any (fun e => e.1 == seq) then
        .next ((s.setPair peer p.freed).pump peer)
      else .next ((s.setPair peer { p with early := p.early ++ [(seq, fs)] }).pump peer)

/-- REPLAY_REQUEST: peer n0 asks for flit n1 again. -/
def execReplayRequest (s : State) : Out :=
  let p := s.pair (s.argN 0)
  .next ((s.setPair (s.argN 0) { p with again := p.again ++ [s.argN 1] }).pump (s.argN 0))

/-- MISSING_SEQ_TIMEOUT: later flits of peer n0 have waited 2 µs for the next. -/
def execMissingSeqTimeout (s : State) : Out :=
  let p := s.pair (s.argN 0)
  if p.early.isEmpty then .next s else .next ((s.setPair (s.argN 0) { p with asks := p.asks ++ [p.nextRecv] }).pump (s.argN 0))

/-! ### Leases (R169 to R174) -/

def Lease.free : Lease := ⟨0, 0, 0, 0, [], 0, []⟩
def State.leaseAt (s : State) (i : Nat) : Lease := tget Lease.free s.fab.leases i
def State.setLease (s : State) (i : Nat) (l : Lease) : State := { s with fab := { s.fab with leases := tset Lease.free s.fab.leases i l } }

/-- LQRY's word (R169). -/
def leaseWord (s : State) (l : Lease) : Dword :=
  BitVec.ofNat 64 (l.st * 2 ^ 61 + l.peer * 2 ^ 51 + l.world * 2 ^ 43 + l.lanes.length * 2 ^ 36 + l.wanted * 2 ^ 29 +
    (if l.st = 3 then (l.ends - s.time) / 3600 % 2 ^ 29 else 0))

/-- This package's end of lane k, for a grant toward a peer (R168, R171): 0 pooled, 1 of the default allocation above its floor, 2 of a
REVOCABLE lease of this package or of the partner, with the end of its term. No lane that joins them already, is at a floor, of another lease, dark, retraining or failed. -/
def State.endOf (s : State) (k peer : Nat) : Option (Nat × Nat) :=
  let x := s.lane k
  if x.st = 1 then some (0, 0)
  else if x.st = 0 ∧ x.peer ≠ peer ∧ 1 < s.lanesTo x.peer then
    match x.lease with
    | none => match x.far with
      | none => some (1, 0)
      | some e => if e ≤ s.time then some (2, e) else none
    | some i => if (s.leaseAt i).st = 4 then some (2, (s.leaseAt i).ends) else none
  else none

def State.grantable (s : State) (k peer : Nat) : Bool := (s.endOf k peer).isSome

/-- What a peer's manager reports of its ends: (lane, as State.endOf, end of the term); a lane it does not list cannot be granted there. -/
def reports : List Nat → List (Nat × Nat × Nat)
  | j :: k :: e :: t => (j, k, e) :: reports t
  | _ => []

/-- The class of a plane from its two ends (R171). -/
def planeClass (a b : Nat) : Nat := if a = 0 ∧ b = 0 then 1 else if a = 0 ∨ b = 0 then 2 else if a = 1 ∧ b = 1 then 3 else 4

/-- Where a plane stands in the order of preference: its class, in class 4 the end of the term that ended first, its number. -/
def planeKey (a b : Nat × Nat) (j : Nat) : Nat :=
  let c := planeClass a.1 b.1
  let e := if a.1 ≠ 2 then b.2 else if b.1 ≠ 2 then a.2 else min a.2 b.2
  c * 2 ^ 100 + (if c = 4 then e % 2 ^ 80 else 0) * 2 ^ 10 + j

/-- The plane the manager chooses toward a peer, in a class up to `top` (R171). -/
def State.choosePlane (s : State) (peer top : Nat) (rs : List (Nat × Nat × Nat)) : Option Nat :=
  let ok := (List.range 1024).filterMap (fun j =>
    match s.endOf j peer, rs.find? (fun r => r.1 == j) with
    | some a, some r => if planeClass a.1 r.2.1 ≤ top then some (planeKey a r.2 j) else none
    | _, _ => none)
  (ok.min?).map (fun k => k % 1024)

/-- A lane that leaves its lease goes back to its plane's default pairing, when the managers agree on that, and is pooled meanwhile; the last lane
of a pair stays with it (R168, R173) (DESIGN CHOICE, log 35). -/
def State.releaseLane (s : State) (k : Nat) : State :=
  let x := s.lane k
  if x.st = 4 then s.setLane k { x with lease := none }
  else if s.isMember x.peer ∧ (s.defaultPeer k = some x.peer ∨ s.lanesTo x.peer ≤ 1) then s.setLane k { x with lease := none }
  else
    let s := s.setLane k x.pool
    match s.defaultPeer k with
    | some q => s.sendFlit q ⟨6, [k, 1026], []⟩
    | none => s

/-- A lease ends (R173): its lanes are given back, the entry is free, and its LRELs complete. -/
def State.leaseEnd (s : State) (i : Nat) : State :=
  let l := s.leaseAt i
  if l.st = 0 then s
  else
    let s := (List.range 1024).foldl (fun s k => if (s.lane k).lease = some i then s.releaseLane k else s) s
    let s := { s.setLease i Lease.free with fab := { (s.setLease i Lease.free).fab with waiting := s.fab.waiting.filter (fun x => x != i) } }
    let s := s.fabEvent l.world (fabWord 2 0 l.peer l.world i 0 s.time 0)
    l.rels.foldl (fun s o => s.opLeave o) s

/-- A lane leaves the lease it belongs to: revoked (R173), or failed. -/
def State.leaveLease (s : State) (k kind : Nat) : State :=
  match (s.lane k).lease with
  | none => s
  | some i =>
    let l := s.leaseAt i
    let l' := { l with lanes := l.lanes.filter (fun x => x != k) }
    let s := s.setLane k { s.lane k with lease := none }
    let s := s.setLease i l'
    let s := if kind = 1 then s.fabEvent l.world (fabWord 1 k l.peer l.world i 0 s.time 0) else s
    if l'.lanes = [] ∧ l.st = 4 then s.leaseEnd i else s

/-- A lane is retargeted to a peer (R175): dark, and taken from the lease it belonged to. -/
def State.retarget (s : State) (k peer : Nat) (lease : Option Nat) : State :=
  let s := s.leaveLease k 1
  s.setLane k ((s.lane k).aim peer lease)

/-- Take a lane for a lease: it goes dark, to relock to the lease's peer (R171, R175). -/
def State.grantLane (s : State) (i k : Nat) : State :=
  let l := s.leaseAt i
  let s := s.retarget k l.peer (some i)
  if l.st = 1 then s.setLease i { l with st := 2 } else s

/-- Lanes of a lease, the dark ones included. -/
def State.leaseLanes (s : State) (i : Nat) : Nat := ((List.range 1024).filter (fun k => (s.lane k).lease == some i)).length

/-- May a lease take one more lane? -/
def State.leaseOpen (s : State) (i : Nat) : Bool :=
  let l := s.leaseAt i
  decide (1 ≤ l.st) && decide (l.st ≤ 3) && decide (s.leaseLanes i < l.wanted)

/-- Are the requests of a world left to the host (R174)? -/
def State.hostLanes (s : State) (w : Nat) : Bool :=
  match s.partOf w with
  | none => false
  | some p => (s.preg p 0x0A9).getLsbD 0

/-- The request served next: of the worlds after the one served last, round robin, the head of the first whose head still takes a lane and whose
peer can be reached (R171, R172). -/
def State.nextLease (s : State) : Option Nat :=
  ((List.range 256).map (fun k => (s.fab.turn + 1 + k) % 256)).findSome? (fun w =>
    if s.hostLanes w then none
    else (s.fab.waiting.find? (fun i => (s.leaseAt i).world == w)).filter (fun i => s.leaseOpen i && s.reaches (s.leaseAt i).peer))

/-- LANE_GRANT: peer n0's manager reports its ends from n1 on; the next request, where it is toward that peer, takes the plane R171 prefers, or its turn
passes (DESIGN CHOICE, log 35). -/
def execLaneGrant (s : State) : Out :=
  match s.nextLease with
  | none => .next s
  | some i =>
    let l := s.leaseAt i
    if s.argN 0 ≠ l.peer then .next s
    else match s.choosePlane l.peer 4 (reports (s.arg.n.drop 1)) with
      | none => .next { s with fab := { s.fab with turn := l.world } }
      | some k => .next { s.grantLane i k with fab := { (s.grantLane i k).fab with turn := l.world } }

/-- LANE_RELOCK: lane n0 is live with its peer; a lease's first lane starts its term, and a REVOCABLE one takes no more (R170, R175). -/
def execLaneRelock (s : State) : Out :=
  let k := s.argN 0
  let x := s.lane k
  if x.st ≠ 2 ∨ !s.isMember x.peer ∨ !s.fab.started then .next s
  else
    let s := s.setLane k { x with st := 0 }
    match x.lease with
    | none => .next (s.pump x.peer)
    | some i =>
      let l := s.leaseAt i
      if l.st ≠ 2 ∧ l.st ≠ 3 then .next ((s.releaseLane k).pump x.peer)
      else
        let l := { l with lanes := l.lanes ++ [k], st := 3
                          ends := if l.st = 2 then s.time + (s.pkg 0x0A5).toNat % 4096 * 360000 else l.ends }
        let s := (s.setLease i l).fabEvent l.world (fabWord 0 k l.peer l.world i 0 s.time 0)
        let s := if l.wanted ≤ l.lanes.length then { s with fab := { s.fab with waiting := s.fab.waiting.filter (fun j => j != i) } } else s
        .next (s.pump x.peer)

/-- LEASE_TERM_EXPIRY: lease n0's term is over (R170); one that holds no lane is free. -/
def execLeaseTermExpiry (s : State) : Out :=
  let i := s.argN 0
  let l := s.leaseAt i
  if l.st = 3 ∧ l.ends ≤ s.time then
    let s := { s.setLease i { l with st := 4 } with
      fab := { (s.setLease i { l with st := 4 }).fab with waiting := s.fab.waiting.filter (fun j => j != i) } }
    .next (if l.lanes = [] then s.leaseEnd i else s)
  else .next s

/-- GRANT: the host gives a lease of partition n0 a lane (R124, R174): lease [17:10] and lane [9:0] of n1. n2 = 1: the peer's manager answers that its
end of the plane is at a floor or of a HELD lease (DESIGN CHOICE, log 35). -/
def execGrant (s : State) : Out :=
  let i := s.argN 1 / 1024 % 256
  let k := s.argN 1 % 1024
  let l := s.leaseAt i
  if l.st = 0 ∨ s.topPart l.world ≠ some (s.topOf (s.argN 0)) then .next s
  else if s.leaseOpen i && s.grantable k l.peer && s.reaches l.peer && s.argN 2 == 0 then .next (s.grantLane i k)
  else .next (s.fabEvent l.world (fabWord 7 k l.peer l.world i 1 s.time l.wanted))

/-- REFUSE: the host ends a request of partition n0 (R124, R174). -/
def execRefuse (s : State) : Out :=
  let i := s.argN 1 / 1024 % 256
  let l := s.leaseAt i
  if l.st = 0 ∨ s.topPart l.world ≠ some (s.topOf (s.argN 0)) then .next s else .next (s.leaseEnd i)

/-- The first entry of the lease table that is free. -/
def State.freeLease (s : State) : Option Nat := (List.range 256).find? (fun i => (s.leaseAt i).st == 0)

/-- Does every lane of this package lie at a floor or in a plane that joins it to the peer (R169)? -/
def State.noneHere (s : State) (peer : Nat) : Bool :=
  (List.range 1024).all (fun k => let x := s.lane k
    x.st != 1 && x.st != 4 && (x.peer == peer || decide (s.lanesTo x.peer ≤ 1)))

/-- And every lane of the peer: as its manager last said; before it says, as the lanes that join the two packages and, for its others, the default
pairing give them (DEDUCED, log 34)? -/
def State.noneThere (s : State) (peer : Nat) : Bool :=
  let ms := s.members
  let joins := fun (k : Nat) => (s.lane k).peer == peer && (s.lane k).st != 1 && (s.lane k).st != 4
  (tfind s.fab.full peer).getD <| (List.range 1024).all (fun k => joins k || match defaultIn ms peer k with
    | none => false
    | some _ => decide (ms.length ≤ 1) || decide (1024 / (if ms.length % 2 = 0 then ms.length - 1 else ms.length) ≤ 1))

/-- LEASE's refusal code, if any (R169, R340) (DEDUCED, log 34). -/
def State.leaseCode (s : State) (peer n : Nat) : Nat :=
  if s.freeLease.isNone then 1
  else if peer = s.me || !s.reaches peer then 2
  else if s.noneHere peer && s.noneThere peer then 3
  else if n = 0 ∨ 64 < n then 4
  else 0

/-- A result word (R340). -/
def resultWord (code value : Nat) : Word := BitVec.ofNat 32 (code * 2 ^ 24 + value % 2 ^ 24)

def execLease (d a b : BitVec 6) (f : BitVec 1) (s : State) : Out :=
  issued (.lease d a b f) s fun t p =>
    let peer := (t.sget a.toNat).toNat % 1024
    let n := (t.sget b.toNat).toNat
    let w := uniWb p (t.sw a.toNat ||| t.sw b.toNat)
    let c := s.leaseCode peer n
    match s.freeLease with
    | some i =>
      if c ≠ 0 then finish s (t.sput d.toNat (resultWord c 0) w) p
      else
        let s := s.setLease i ⟨1, peer, t.world, n, [], 0, []⟩
        let s := { s with fab := { s.fab with waiting := s.fab.waiting ++ [i] } }
        let s := if s.hostLanes t.world then s.fabEvent t.world (fabWord 7 0 peer t.world i 0 s.time n) else s
        finish s (t.sput d.toNat (resultWord 0 i) w) p
    | none => finish s (t.sput d.toNat (resultWord c 0) w) p

def execLrel (d a : BitVec 6) (f : BitVec 1) (s : State) : Out :=
  issued (.lrel d a f) s fun t p =>
    let i := (t.sget a.toNat).toNat % 256
    let w := uniWb p (t.sw a.toNat)
    if (s.leaseAt i).st = 0 ∨ (s.leaseAt i).world ≠ t.world then finish s (t.sput d.toNat (resultWord 1 0) w) p
    else finish (s.leaseEnd i) (t.sput d.toNat (resultWord 0 0) w) p

def execLqry (d a : BitVec 6) (s : State) : Out :=
  issued (.lqry d a) s fun t p =>
    let l := s.leaseAt ((t.sget a.toNat).toNat % 256)
    let v := if l.st = 0 ∨ l.world ≠ t.world then 0 else leaseWord s l
    finish s (t.sputPair d.toNat v (uniWb p (t.sw a.toNat))) p

/-- A world's leases end when its last string on the package exits (R173). -/
def State.endLeases (s : State) (w : Nat) : State :=
  (List.range 256).foldl (fun s i => if (s.leaseAt i).st ≠ 0 ∧ (s.leaseAt i).world = w then s.leaseEnd i else s) s

/-! ### Drains (R188, R340) -/

/-- The path's carrier operations toward a peer that have still puts to send (R188). -/
def State.putsLeft (s : State) (t : Str) (p : Path) (peer : Nat) : List Nat :=
  (s.eng.queue.filter (fun e => e.2.code == 0x56 && e.2.who == t.key && p.follows e.2.pid e.1 && e.2.vals.getD 3 1024 == peer)).map Prod.fst

/-- DRAIN and DRAIN .all: a marker behind what is queued for the peer, and without .all behind the path's own carrier puts; toward the package itself,
done when the path's own writes are (DEDUCED, log 37). -/
def drainTo (s : State) (t : Str) (p : Path) (a : BitVec 6) (f : BitVec 1) (all : Bool) : Out :=
  let peer := (t.sget a.toNat).toNat % 1024
  if peer = s.me then if s.settled p && (s.putsLeft t p peer).isEmpty then finish s t p else stay s t p
  else if !s.isMember peer || decide (4 ≤ s.peerBits peer) then
    takeTrap s (t.setPath s.curPath p)
      ⟨cUNREACH, p.here, p.pos, 0, 0, none, some (BitVec.ofNat 32 (peer * 2 ^ 20)), none, none⟩
  else
    let n := s.nextOp
    let after := if all then [] else s.putsLeft t p peer
    let s := s.takeOp
    let r : Rem := ⟨peer, .path n, 4, t.world, 0, [], s.time, 0, after⟩
    let s := { s with
      mem := { s.mem with ops := tput s.mem.ops n ⟨s.curUnit, s.curPath, .none, true, 0, false, 1, none⟩ }
      fab := { s.fab with rems := tput s.fab.rems n r } }
    finish (if after = [] then s.sendFlit peer ⟨4, [n], []⟩ else s) t (p.bind f n)

def execDrain (a : BitVec 6) (f : BitVec 1) (s : State) : Out := issued (.drain a f) s fun t p => drainTo s t p a f false
def execDrainAll (a : BitVec 6) (f : BitVec 1) (s : State) : Out := issued (.drainAll a f) s fun t p => drainTo s t p a f true

/-- A carrier operation has sent its last put: the drain markers that waited for it leave (R188). -/
def State.putsSent (s : State) (op : Nat) : State :=
  let mine := s.fab.rems.filter (fun e => e.2.after.contains op)
  mine.foldl (fun s e =>
    let left := e.2.after.filter (fun x => x != op)
    let s := { s with fab := { s.fab with rems := tput s.fab.rems e.1 { e.2 with after := left } } }
    if left = [] then s.sendFlit e.2.peer ⟨4, [e.1], []⟩ else s) s

/-- DRAIN_MARKER: peer n0's marker n1 arrives, every flit before it delivered and performed; it is acknowledged. -/
def execDrainMarker (s : State) : Out := .next (s.sendFlit (s.argN 0) ⟨5, [s.argN 1], []⟩)

/-- DRAIN_ACKNOWLEDGEMENT: peer n0 acknowledges marker n1. -/
def execDrainAcknowledgement (s : State) : Out :=
  match tfind s.fab.rems (s.argN 1) with
  | none => .next s
  | some r =>
    if r.kind ≠ 4 ∨ r.peer ≠ s.argN 0 then .next s
    else .next ({ s with fab := { s.fab with rems := terase s.fab.rems (s.argN 1) } }.opLeave (s.argN 1))

/-! ### Lanes in error (R190 to R193) -/

/-- SYMBOL_WINDOW: lane n0 corrected n1 symbols in a window. -/
def execSymbolWindow (s : State) : Out :=
  let x := s.lane (s.argN 0)
  let x := { x with corr := min 1048575 (s.argN 1) }
  if 2 ^ ((s.pkg 0x0A4).toNat / 4 % 16) < s.argN 1 ∧ x.st = 0 then
    .next ((s.setLane (s.argN 0) { x with st := 3, retr := min 255 (x.retr + 1), tries := 0 }).fabEvent 0
      (fabWord 3 (s.argN 0) x.peer 0 0 0 s.time 0))
  else .next (s.setLane (s.argN 0) x)

/-- RETRAIN_COMPLETE: lane n0 is handed back; one paired anew meanwhile is pooled or dark first. -/
def execRetrainComplete (s : State) : Out :=
  let x := s.lane (s.argN 0)
  if x.st ≠ 3 then .next s
  else .next (((s.setLane (s.argN 0) { x with
      st := if x.peer = noPeer then 1 else if x.moved then 2 else 0, corr := 0, moved := false }).fabEvent 0 (fabWord 4 (s.argN 0) x.peer 0 0 0 s.time 0)).pump x.peer)

/-- Mark a peer FAILED, in the peer table and in the hub's copy (R193). -/
def State.failPeer (s : State) (p : Nat) : State :=
  let a := (s.pkg 0x0A1).toNat + 8 * p
  let s := { s with fab := { s.fab with peers := tset 0 s.fab.peers p (tget 0 s.fab.peers p % 4 + 4) } }
  match s.hubRead none a 8 with
  | none => s
  | some (v, s) => (s.hubWrite none a 8 (v / 8 * 8 + v % 4 + 4) 0).getD s

/-- RETRAIN_FAILURE: a retraining of lane n0 failed. After the last attempt the lane has failed, is pooled and leaves its lease; a pair left without lanes
is given the plane R171 prefers in its first three classes, by the peer's report from n1 on, or it has failed (R192, R193). -/
def execRetrainFailure (s : State) : Out :=
  let k := s.argN 0
  let x := s.lane k
  if x.st ≠ 3 then .next s
  else if x.tries + 1 < (s.pkg 0x0A4).toNat % 4 then .next (s.setLane k { x with tries := x.tries + 1 })
  else
    let s := (s.leaveLease k 0)
    let s := (s.setLane k { s.lane k with st := 4, peer := noPeer, tries := x.tries + 1, far := none, moved := false }).fabEvent 0 (fabWord 5 k x.peer 0 0 0 s.time 0)
    if 0 < s.lanesTo x.peer ∨ !s.isMember x.peer then .next s
    else match (if s.reaches x.peer then s.choosePlane x.peer 3 (reports (s.arg.n.drop 1)) else none) with
      | some j => .next (s.retarget j x.peer none)
      | none => .next (s.failPeer x.peer)

/-- May this package's end of a plane go to its default pairing: it is neither leased nor at a floor (R173)? -/
def State.freeEnd (s : State) (k : Nat) : Bool :=
  let x := s.lane k
  x.st == 1 || (x.st == 0 && x.lease.isNone && x.far.isNone && decide (1 < s.lanesTo x.peer))

/-- A lane joins a package, by what its manager says: for a lease of that package, whose term ends at `far` once it is known (R171). -/
def State.joinLane (s : State) (k q : Nat) (far : Option Nat) : State :=
  let s := s.retarget k q none
  s.setLane k { s.lane k with far := far }

/-- MANAGER_MESSAGE: of peer n0's manager, on lane n1 (R171, R173). n2 below 1,024: the lane joins that package, for a lease of it where n3 is not 0, whose
term ends at n3 - 1; 1,024: it is pooled; 1,026: the peer's end is given back, and it is asked whether the default pairing can be taken; 1,025: the answer to
that, n3 = 0 yes; 1,027: whether every lane of the peer is at a floor or joins the two packages, n3 = 1 yes (R169); 1,028: this package's own manager gives the
pair n3 receive buffers (R178) (DESIGN CHOICE, log 35). -/
def execManagerMessage (s : State) : Out :=
  let k := s.argN 1
  let q := s.argN 2
  if q < 1024 then
    if s.grantable k q ∧ s.reaches q then .next (s.joinLane k q (if s.argN 3 = 0 then none else some (s.argN 3 - 1))) else .next s
  else if q = 1024 then
    if s.grantable k 1024 then
      let s := s.leaveLease k 1
      .next (s.setLane k (s.lane k).pool)
    else .next s
  else if q = 1027 then .next (if s.isMember (s.argN 0) then { s with fab := { s.fab with full := tput s.fab.full (s.argN 0) (s.argN 3 == 1) } } else s)
  else if q = 1028 then .next ((s.share (s.argN 0) (s.argN 3)).pump (s.argN 0))
  else if s.defaultPeer k ≠ some (s.argN 0) ∨ !s.reaches (s.argN 0) then .next s
  else if q = 1025 then if (s.lane k).peer = noPeer ∧ ((s.lane k).st = 1 ∨ (s.lane k).st = 3) ∧ s.argN 3 = 0 then .next (s.retarget k (s.argN 0) none) else .next s
  else
    let ok := s.freeEnd k && ((s.lane k).st == 1 || (s.lane k).peer != s.argN 0)
    let s := if ok then s.retarget k (s.argN 0) none else s
    .next (s.sendFlit (s.argN 0) ⟨6, [k, 1025, if ok then 0 else 1], []⟩)

/-! ### Membership changes (R166, R167, R175, R189, R462) -/

/-- The default pairing is computed again, once no member is leaving, and the planes whose pairing changes go dark (R189, R461) (DESIGN CHOICE, log 35). -/
def State.repair (s : State) : State :=
  let ms := s.members
  if ms.any (fun p => s.peerBits p / 2 % 2 == 1) ∨ (s.fab.started ∧ ms = s.fab.basis) then s
  else
    let s' := (List.range 1024).foldl (fun s k =>
      let x := s.lane k
      if x.st = 4 ∨ ((x.lease.isSome ∨ x.far.isSome) ∧ s.isMember x.peer) then s
      else if s.fab.started ∧ defaultIn s.fab.basis s.me k = defaultIn ms s.me k ∧ (x.st = 1 ∨ s.isMember x.peer) then s
      else match defaultIn ms s.me k with
        | some q => if x.peer = q ∧ x.st ≠ 1 ∧ s.fab.started then s else s.setLane k (x.aim q none)
        | none => s.setLane k x.pool) s
    { s' with fab := { s'.fab with basis := ms, started := true } }

/-- A peer ceases to be a member: the pair's state is discarded, its requests complete with GONE, its leases end, and it is attested for
nobody (R189, R442, R462). -/
def State.dropPeer (s : State) (p : Nat) : State :=
  let gone := s.fab.rems.filter (fun e => e.2.peer == p)
  let acts : List Item := gone.map (fun e => ⟨0, .event (if e.2.kind = 1 ∨ e.2.kind = 3 then .remoteAck else .remoteResponse) ⟨[p, e.1, 0x26, 0, 0], []⟩⟩)
  let s := { s with
    agenda := acts ++ s.agenda, fab := { s.fab with pairs := terase s.fab.pairs p, full := terase s.fab.full p }
    tr := { s.tr with attested := s.tr.attested.filter (fun e => e.1 % 1024 != p) } }
  (List.range 256).foldl (fun s i => if (s.leaseAt i).st ≠ 0 ∧ (s.leaseAt i).peer = p then s.leaseEnd i else s) s

/-- FBSYNC: the hub reads entry n0 of the peer table again. -/
def execFbsync (s : State) : Out :=
  let p := s.argN 0 % 1024
  match s.hubRead none ((s.pkg 0x0A1).toNat + 8 * p) 8 with
  | none => .next s
  | some (v, s) =>
    let was := s.isMember p
    let s := { s with fab := { s.fab with peers := tset 0 s.fab.peers p (v % 8) } }
    .next (if was && !s.isMember p then s.dropPeer p else s).repair

end Sys2Proof.Machine
end

