-- ==== Sys2Proof/Machine/Remote.lean ====
section
/-! DEFINITION. Remote accesses (R45, R46, R125, R156, R157, R182 to R187, R379, R380): the checks before any lane sends, the passes, the
answers, and the accesses that arrive from peers. -/

namespace Sys2Proof.Machine

/-! ### The symmetric window (R45, R46) -/

/-- sys.rbase of a world: log2 of the window's size and its base; none without a window. -/
def State.window (s : State) (w : Nat) : Option (Nat × Nat) :=
  let r := (s.wreg w 0x040).toNat
  let lg := r % 32
  if 27 ≤ lg then none else some (30 + lg, r / 32 % 2 ^ 27 * 2 ^ 30 / 2 ^ (30 + lg) * 2 ^ (30 + lg))

/-- Is an offset inside a world's window? -/
def State.inWindow (s : State) (w off : Nat) : Bool :=
  match s.window w with
  | none => false
  | some (k, _) => decide (off < 2 ^ k)

/-! ### The target's side (R125) -/

/-- A decline record (R122). -/
def declineWord (cause step attempts target peer detail reason waiters : Nat) (fault : BitVec 256) : Nat :=
  cause * 2 ^ 504 + step * 2 ^ 501 + attempts * 2 ^ 498 + target * 2 ^ 497 + peer * 2 ^ 487 + detail * 2 ^ 479 + reason * 2 ^ 475 +
    waiters % 2 ^ 16 * 2 ^ 459 + fault.toNat

/-- Put a decline record in a partition's ring, and count a decline (R122, R127). -/
def State.declineRing (s : State) (part : Nat) (rec : Nat) (wb : Waybill) : State :=
  s.ringPutN (some part) (s.preg part 0x082).toNat 64 rec wb

/-- The record of an inbound access (R102: SRC 5). -/
def inboundFault (s : State) (w acc va psize : Nat) (own : Bool) (wb : Waybill) : BitVec 256 :=
  BitVec.ofNat 256 (s.time % 2 ^ 64 * 2 ^ 192 + va % 2 ^ 57 * 2 ^ 128 + w * 2 ^ 120 + (s.partOf w).getD 0 * 2 ^ 115 + psize * 2 ^ 113 +
    acc * 2 ^ 110 + (if own then 2 ^ 109 else 0) + 5 * 2 ^ 91 + wb.toNat * 2 ^ 75 + 2 ^ 43)

/-- An inbound access that is refused: its code and reason (R186), the target address, and SIZE and OWN of the leaf that parks it. -/
structure Denied where
  code : Nat
  reason : Nat
  va : Nat
  size : Nat
  own : Bool

/-- The target address of an offset (R46): the world's window base plus the offset. -/
def State.targetVa (s : State) (w off : Nat) : Nat := (((s.window w).map Prod.snd).getD 0 + off) % 2 ^ 57

/-- A refused inbound access: one record in the ring of the partition that holds the world (R125). DETAIL is the code it is answered with, also where it
met no trap (DESIGN CHOICE, log 142). -/
def State.inboundDecline (s : State) (peer w acc : Nat) (d : Denied) (wb : Waybill) : State :=
  match s.partOf w with
  | none => s
  | some p => s.declineRing p (declineWord 0x11 0 0 0 peer d.code d.reason 0 (inboundFault s w acc d.va d.size d.own wb)) wb

/-- The operation an inbound access performs: 0 read, 1 write, 2 atomic, 3 put. -/
def inboundOp (kind size atop : Nat) : MemOp :=
  { space := 0, kind := if kind = 0 then .load else if kind = 1 then .store else .atomic, size := size
    acc := if kind = 0 then aLoad else if kind = 1 then aStore else aAtomic, strong := true, acq := false, rel := false, scope := 5
    atop := atop, dest := .none, slot := none, uniform := false }

/-- Where an inbound access goes, or what it is answered with (R46, R125, R186). The world's offset is translated at user
level through its own window (DEDUCED, log 38). -/
def State.inboundPlace (s : State) (w off acc : Nat) : Except Denied Xlat × State :=
  let va := s.targetVa w off
  if w ≠ 0 ∧ (s.partOf w).isNone then (.error ⟨0x23, 0, va, 0, false⟩, s)
  else if !s.inWindow w off then (.error ⟨cPROT, 3, va, 0, false⟩, s)
  else
    match s.xlate 0 w (if va < 2 ^ 56 then va else va + (2 ^ 64 - 2 ^ 57)) acc 0 with
    | (.trap f, s) => (.error ⟨f.cause, f.reason, va, 0, false⟩, s)
    | (.park sz own, s) => (.error ⟨0x20, 0, va, sz, own⟩, s)
    | (.ok x, s) => (.ok x, s)

/-- What stops an access of world 0 through its window that meets space to which the spec gives no outcome. -/
def State.nowhereAt (s : State) (w acc : Nat) : List Nat → Option Out
  | [] => none
  | off :: t =>
    match (s.inboundPlace w off acc).1 with
    | .ok x =>
      if x.region = .unpopulated then some (.fault .unpopulated)
      else if x.region = .device then some (.refused .deviceSpace)
      else State.nowhereAt s w acc t
    | .error _ => State.nowhereAt s w acc t

/-- The gate's parts of an inbound access: through a cross-world mapping (R432), or to the host window (R196). -/
def inboundParts (s : State) (w : Nat) (m : MemOp) (x : Xlat) (n : Nat) (wb : Waybill) : List Egress :=
  if x.region = .window then (if m.write then [⟨w, wb, destFunc 0, n⟩] else [])
  else if !x.cross then []
  else (if m.write then [(⟨w, wb, destWorld x.owner, n⟩ : Egress)] else []) ++
    (if m.kind != .store then [(⟨x.owner, s.homeWb x, destWorld w, n⟩ : Egress)] else [])

/-- A line is in the L2, where its accesses are performed there and not at the atomic unit (R27, R59, R81). -/
def State.homeLine (s : State) (x : Xlat) : State :=
  if x.atom ∨ x.region ≠ .hbm then s else (s.ensureL2 x.ident x.tag (x.gpa / 128)).getD s

/-- Store the pieces of a request at their home, as one merge. -/
def State.homeStore (s : State) (x : Xlat) (ls : List LaneReq) (wb : Waybill) : State :=
  let ln := x.gpa / 128
  let here := ls.map (fun r => { r with addr := ln * 128 + r.addr % 128 })
  if x.region = .window then
    here.foldl (fun s r => (s.homeAccess { inboundOp 1 r.size 0 with size := r.size } { x with gpa := r.addr } r wb).2.2) s
  else s.homeMerge x 0 here wb

/-- Is what an inbound read would read poisoned? -/
def State.homePoison (s : State) (x : Xlat) (ls : List LaneReq) : Bool :=
  let p := if lfZero x.leaf ∨ x.region ≠ .hbm then 0
    else if x.atom then ((s.physOf x.ident x.tag x.gpa).map (fun h => hbmPoison s.mem (h / 128))).getD 0
    else ((s.l2? x.ident x.tag (x.gpa / 128)).map (fun l => l.poison)).getD 0
  ls.any (fun r => (p &&& halvesOf (r.addr % 128) r.size) != 0)

/-- Read the pieces of a request at their home, in order. -/
def State.homeReads (s : State) (m : MemOp) (x : Xlat) : List LaneReq → List (Nat × Nat) × Waybill × State
  | [] => ([], 0, s)
  | r :: t =>
    let g := x.gpa / 128 * 128 + r.addr % 128
    let (v, w, s) := s.homeAccess { m with size := r.size } { x with gpa := g } { r with addr := g } 0
    let (l, w', s) := State.homeReads s m x t
    ((r.lane, v) :: l, w ||| w', s)

/-- The outcome of an inbound access: what it is answered with, the values read, and where it was performed. -/
structure Inbound where
  code : Nat
  reason : Nat
  vals : List (Nat × Nat)
  wb : Waybill
  place : Option Xlat

/-- Is a transaction of the subset of R180: a read of 1 to 128 bytes of one aligned 128-byte block, a write of bytes of one, each once, or one of the
atomics? -/
def supported (kind atop : Nat) (ls : List LaneReq) : Bool :=
  let blk := (ls.head?.map (fun r => r.addr / 128)).getD 0
  ls != [] && ls.all (fun r => r.size != 0 && r.addr / 128 == blk && (r.addr + r.size - 1) / 128 == blk) &&
    decide (ls.foldl (fun a r => a + r.size) 0 ≤ 128) &&
    (kind == 1 || (kind == 0 && ls.length == 1) || (kind == 2 && ls.length == 1 &&
      ls.all (fun r => if atop = 10 then r.size == 4 else (atop == 0 || atop == 9) && (r.size == 4 || r.size == 8))))

/-- An inbound access of a world at one aligned 128-byte block, or at one lane for an atomic (R46, R125, R160, R180). -/
def State.inbound (s : State) (peer kind w : Nat) (atop : Nat) (ls : List LaneReq) (wb : Waybill) : Inbound × State :=
  match ls with
  | [] => (⟨0x25, 0, [], 0, none⟩, s)
  | r :: _ =>
    if !supported kind atop ls then (⟨0x25, 0, [], 0, none⟩, s)
    else
      let m := inboundOp kind r.size atop
      let n := ls.foldl (fun a l => a + l.size) 0
      match s.inboundPlace w r.addr m.acc with
      | (.error d, s) => (⟨d.code, d.reason, [], 0, none⟩, s.inboundDecline peer w m.acc d wb)
      | (.ok x, s) =>
        let deny := fun (s : State) c => s.inboundDecline peer w m.acc ⟨c, 0, s.targetVa w r.addr, x.size, false⟩ wb
        match s.gate (inboundParts s w m x n wb) with
        | .error (_, _, s) => (⟨cEGRESS, 0, [], 0, none⟩, deny s cEGRESS)
        | .ok s =>
          let s := if kind = 1 then s else s.homeLine x
          if kind ≠ 1 && s.homePoison x ls then (⟨cPOISON, 0, [], 0, none⟩, deny s cPOISON)
          else match kind with
            | 0 => let (v, wv, s) := s.homeReads m x ls; (⟨0, 0, v, wv, some x⟩, s)
            | 1 => (⟨0, 0, [], 0, some x⟩, s.homeStore x ls wb)
            | _ =>
              let (v, wv, s) := s.homeAccess m x { r with addr := x.gpa } wb
              (⟨0, 0, [(r.lane, v)], wv, some x⟩, s)

/-- After an access of the package's own core to a line of its world: its L1 holds no older copy of it (R137, R142, R149). -/
def State.refreshOwn (s : State) (core w : Nat) (r : Inbound) : State :=
  match r.place with
  | none => s
  | some x =>
    if x.atom || x.cross || x.region != .hbm then s
    else match s.l2? x.ident x.tag (x.gpa / 128) with
      | none => s
      | some l => s.l1Refresh core w (x.gpa / 128) l

/-- The runs of ones of a mask of 128 bytes: first byte and length. -/
def byteRuns (cov : Nat) : List (Nat × Nat) :=
  (List.range 128).foldr (fun k acc =>
    if !cov.testBit k then acc
    else match acc with
      | (a, n) :: t => if a = k + 1 then (k, n + 1) :: t else (k, 1) :: acc
      | [] => [(k, 1)]) []

/-- The least address of lanes. -/
def lowAddr (ls : List LaneReq) : Nat := (ls.map LaneReq.addr).min?.getD 0

/-- What a request for lanes in one aligned block asks for (R180): a read the bytes from the first to the last, a write each byte once (of lanes that
overlap the winner is free: R131), an atomic its lane. -/
def wirePieces (rid kind : Nat) (ls : List LaneReq) : List LaneReq :=
  match kind with
  | 0 =>
    let lo := lowAddr ls
    [⟨0, lo, ls.foldl (fun h r => max h (r.addr + r.size)) 0 - lo, 0, 0⟩]
  | 1 =>
    let base := lowAddr ls / 128 * 128
    let d := mergeLine rid ls 0
    (byteRuns (coverage 128 ls)).map (fun x => ⟨0, base + x.1, x.2, lineGet d x.1 x.2, 0⟩)
  | _ => ls

/-- The values of lanes in what a request brought. -/
def laneVals (kind : Nat) (ls : List LaneReq) (vals : List Nat) : List (Nat × Nat) :=
  if kind = 0 then ls.map (fun r => (r.lane, vals.headD 0 / 256 ^ (r.addr - lowAddr ls) % 256 ^ r.size))
  else (ls.zip vals).map (fun e => (e.1.lane, e.2))

/-- The bytes of values read. -/
def valBytes (ls : List LaneReq) (vals : List (Nat × Nat)) : List Byte := (ls.zip vals).flatMap (fun e => bytesOf e.1.size e.2.2)

/-- Pieces as numbers, and back. -/
def piecesOut (ls : List LaneReq) : List Nat := ls.flatMap (fun r => [r.lane, r.addr, r.size, r.data, r.cmp])
def piecesIn : List Nat → List LaneReq
  | a :: b :: c :: d :: e :: t => ⟨a, b, c, d, e⟩ :: piecesIn t
  | _ => []

/-- INBOUND_ACCESS: peer n0's request n1 of kind n2 for world n3 with waybill n4 and atomic operation n5; the pieces follow. -/
def execInboundAccess (s : State) : Out :=
  let peer := s.argN 0
  let ls := piecesIn (s.arg.n.drop 6)
  let ok := supported (s.argN 2) (s.argN 5) ls
  match if ok then s.nowhereAt (s.argN 3) (inboundOp (s.argN 2) 8 0).acc (ls.map (fun r => r.addr)) else none with
  | some o => o
  | none =>
    let (r, s) := s.inbound peer (s.argN 2) (s.argN 3) (s.argN 5) ls (BitVec.ofNat 16 (s.argN 4))
    .next (s.sendFlit peer
      ⟨if s.argN 2 = 1 then 2 else 3, [s.argN 1, r.code, r.reason, r.wb.toNat] ++ r.vals.map Prod.snd, valBytes ls r.vals⟩)

/-- TARGET_TIMEOUT: peer n0's request n1 of world n2 at offset n3, of kind n4 with waybill n5, did not complete in sys.fbto.TGT here (R186). -/
def execTargetTimeout (s : State) : Out :=
  .next ((s.inboundDecline (s.argN 0) (s.argN 2) (inboundOp (s.argN 4) 8 0).acc ⟨0x22, 0, s.targetVa (s.argN 2) (s.argN 3), 0, false⟩
    (BitVec.ofNat 16 (s.argN 5))).sendFlit (s.argN 0) ⟨if s.argN 4 = 1 then 2 else 3, [s.argN 1, 0x22, 0, 0], []⟩)

/-! ### The initiator's side (R182 to R185, R379, R380) -/

/-- One lane of a remote instruction. -/
structure RemLane where
  peer : Nat
  r : LaneReq
deriving DecidableEq, Repr

/-- The lanes an instruction acts on: window offset and peer (R379). -/
def remLanes (t : Str) (p : Path) (a : BitVec 7) (b : BitVec 6) (size : Nat) (data cmp : Nat → Nat) : List RemLane :=
  (lanesOf (actLanes p)).map (fun l =>
    ⟨(t.vget (a.toNat + 1) l).toNat % 1024, l, (t.spair b.toNat + (t.vget a.toNat l).setWidth 64).toNat, size, data l, cmp l⟩)

/-- A trap of a remote instruction at a lane (DEDUCED, log 91). -/
def remTrap (s : State) (t : Str) (p : Path) (cause reason acc : Nat) (x : RemLane) (rf gt : Option Word) : Out :=
  takeTrap s (t.setPath s.curPath p)
    ⟨cause, p.here, p.pos, BitVec.ofNat 64 x.r.addr, 0, some (tinfoWord x.r.lane reason 0 0 acc), rf, gt, none⟩

/-- The peers of lanes, ascending. -/
def remPeers (ls : List RemLane) : List Nat := (List.range 1024).filter (fun q => ls.any (fun x => x.peer == q))

/-- The gate's parts, one for each peer not attested for the world (R182, R432, R438). -/
def remParts (s : State) (w : Nat) (wb : Waybill) (ls : List RemLane) : List Egress :=
  ((remPeers ls).filter (fun q => !s.attestedFor w q)).map (fun q =>
    ⟨w, wb, destPackage q, (ls.filter (fun x => x.peer == q)).foldl (fun a x => a + x.r.size) 0⟩)

/-- The checks of the lanes themselves before any sends, in order (R182): alignment, the window, the peer. -/
def remShape (s : State) (t : Str) (p : Path) (acc : Nat) (ls : List RemLane) : Option Out :=
  match ls.find? (fun x => x.r.addr % x.r.size != 0) with
  | some x => some (remTrap s t p cALIGN 0 acc x none none)
  | none =>
    match ls.find? (fun x => !s.inWindow t.world x.r.addr) with
    | some x => some (remTrap s t p cPROT 3 acc x none none)
    | none => (ls.find? (fun x => !s.reaches x.peer)).map (fun x =>
        remTrap s t p cUNREACH 0 acc x (some (BitVec.ofNat 32 (x.peer * 2 ^ 20))) none)

/-- Then the gate, once the instruction can go on (R182, R432); and lanes that name the package itself and meet no memory. -/
def remGate (s : State) (t : Str) (p : Path) (acc : Nat) (wb : Waybill) (ls : List RemLane) : Except Out State :=
  let parts := remParts s t.world wb ls
  match s.gate parts with
  | .ok s =>
    match s.nowhereAt t.world acc ((ls.filter (fun x => x.peer == s.me)).map (fun x => x.r.addr)) with
    | some o => .error o
    | none => .ok s
  | .error (e, g, s1) =>
    -- the lowest lane toward a peer that the gate refuses (R38)
    let alone := parts.filter (fun y => match s.gate [y] with
      | .error _ => true
      | .ok _ => false)
    match ls.find? (fun x => (if alone = [] then [e] else alone).any (fun y => y.dest.pkg == x.peer)) with
    | none => .error (.next s1)
    | some x => match s.gate (parts.filter (fun y => y.dest.pkg == x.peer)) with
      | .error (_, g, s1) => .error (remTrap s1 t p cEGRESS 0 acc x none (some g))
      | .ok _ => .error (remTrap s1 t p cEGRESS 0 acc x none (some g))

/-- The requests of a pass: one per aligned 128-byte block, one per lane for an atomic (R184). -/
def passReqs (atomic : Bool) (ls : List RemLane) : List (List LaneReq) :=
  if atomic then ls.map (fun x => [x.r]) else (groupKey (fun r => r.addr / 128) (ls.map (fun x => x.r))).map Prod.snd

/-- Send one request, and note who waits for it. -/
def State.sendReq (s : State) (peer kind w atop : Nat) (who : Asker) (ls : List LaneReq) (wb : Waybill) (tag : Nat) : State :=
  let id := s.nextOp
  let off := (ls.head?.map (fun r => r.addr)).getD 0
  let s := { s.takeOp with fab := { s.fab with rems := tput s.fab.rems id ⟨peer, who, kind, w, off, ls, s.time, tag, []⟩ } }
  let ws := wirePieces id kind ls
  let data := if kind = 0 then [] else ws.flatMap (fun r => bytesOf r.size r.data ++ if atop = 9 then bytesOf r.size r.cmp else [])
  s.sendFlit peer ⟨1, [id, kind, w, wb.toNat, atop] ++ piecesOut ws, data⟩

/-- One part more of an operation. -/
def State.opMore (s : State) (n : Nat) : State :=
  match tfind s.mem.ops n with
  | none => s
  | some o => { s with mem := { s.mem with ops := tput s.mem.ops n { o with left := o.left + 1 } } }

/-- A posted write of an operation: it counts as unacknowledged, and in the outstanding counter, and until it has left in its operation (R157, R282,
R380). -/
def State.sendPost (s : State) (t : Str) (u : Nat) (path op : Nat) (peer : Nat) (ls : List LaneReq) (wb : Waybill) : State :=
  let id := s.nextOp
  let s := (s.opMore op).outAdd (outKey t (coreOf u)) 1
  let s := match s.str? u with
    | none => s
    | some t => s.putStr u { t with unacked := t.unacked ++ [(path, id)] }
  s.sendReq peer 1 t.world 0 (.post u path (t.party * 32 + t.index) (outKey t (coreOf u))) ls wb op

/-- A negative acknowledgement that finds its string exited (R185). -/
def State.nackGone (s : State) (r : Rem) (code : Nat) : State := s.fabEvent r.world (fabWord 6 0 r.peer r.world 0 code s.time r.offset)

/-- A negative acknowledgement of a posted write joins those of its string, earliest posted first; for an exited string it is an event
(R185). -/
def State.nackPost (s : State) (id : Nat) (r : Rem) (code reason who : Nat) (path : Nat) : State :=
  let gone := s.nackGone r code
  if (s.strOf who).isNone && !s.isStored who then gone
  else s.onStr who (fun t => { t with nacks := t.nacks ++ [⟨r.peer, BitVec.ofNat 64 r.offset, reason * 256 + code, path, id⟩] })

/-- A local lane, answered at once as a peer would answer (R183). -/
def localPass (s : State) (op kind atop w : Nat) (wb : Waybill) : List (List LaneReq) → State
  | [] => s
  | ls :: rest =>
    let (r, s) := s.inbound s.me kind w atop (wirePieces s.nextOp kind ls) wb
    let s := s.refreshOwn (coreOf s.curUnit) w r
    let s :=
      if r.code = 0 then (if kind = 1 then s else s.opResult op (laneVals kind ls (r.vals.map Prod.snd)) r.wb false)
      else
        let f := ls.map (fun l => [l.lane, l.addr, s.me, r.code, r.reason])
        { s with fab := { s.fab with fails := tset [] s.fab.fails op (tget [] s.fab.fails op ++ f) } }
    localPass s op kind atop w wb rest

/-- Lanes of an operation that have not failed leave UMASK. -/
def okLanes (s : State) (op : Nat) (ls : List RemLane) : Lanes :=
  laneMask (fun l => ls.any (fun x => x.r.lane == l) && !(tget [] s.fab.fails op).any (fun f => f.headD 32 == l))

/-- The trap of a pass some of whose lanes were refused: at the lowest such lane (R184, R185). -/
def rfault (s : State) (t : Str) (p : Path) (op acc : Nat) : Out :=
  let fs := tget [] s.fab.fails op
  let lane := fs.foldl (fun m f => min m (f.headD 32)) 32
  let f := (fs.find? (fun f => f.headD 32 == lane)).getD []
  let s := { s with fab := { s.fab with fails := terase s.fab.fails op } }
  let rf : Word := BitVec.ofNat 32 (f.getD 2 0 * 2 ^ 20 + f.getD 4 0 % 16 * 2 ^ 16 + f.getD 3 0 % 256 * 2 ^ 8)
  takeTrap s (t.setPath s.curPath p)
    ⟨cRFAULT, p.here, p.pos, BitVec.ofNat 64 (f.getD 1 0), 0, some (tinfoWord lane (f.getD 4 0) 0 0 acc), some rf, none, none⟩

/-- One pass of a load or an atomic toward the lowest peer of the lanes still owed; the path holds until it is answered. -/
def remPass (s : State) (t : Str) (p : Path) (op kind atop : Nat) (wb : Waybill) (ls : List RemLane) : Out :=
  match remPeers ls with
  | [] => .next s
  | q :: _ =>
    let pass := ls.filter (fun x => x.peer == q)
    let reqs := passReqs (kind == 2) pass
    if q = s.me then
      let s := localPass (s.putCur t p) op kind atop t.world wb reqs
      match s.str? s.curUnit with
      | none => .next s
      | some t =>
        let p := t.path s.curPath
        .next (s.putCur t { p with umask := p.umask &&& ~~~(okLanes s op pass), hold := .none })
    else
      let s := reqs.foldl (fun s r => s.sendReq q kind t.world atop (.path op) r wb 0) (s.putCur t { p with hold := .remote op })
      .next s

/-- The lanes of a remote load or atomic that has begun: the next pass, the trap of a refused lane, or the end. -/
def remGoOn (s : State) (t : Str) (p : Path) (op kind atop acc : Nat) (wb : Waybill) (ls : List RemLane) : Out :=
  if s.fab.rems.any (fun e => e.2.who == .path op) then .next s
  else if tget [] s.fab.fails op ≠ [] then rfault s t p op acc
  else if p.umask = 0 then
    let s := (s.putCur t p).opLeave op
    match s.str? s.curUnit with
    | none => .next s
    | some t => finish s t (t.path s.curPath)
  else remPass s t p op kind atop wb ls

/-- A remote load or atomic (R184). -/
def remLoad (i : Instr) (kind atop size n : Nat) (signed : Bool) (d a : BitVec 7) (b : BitVec 6) (f : BitVec 1) (data cmp : Str → Nat → Nat)
    (src : Str → Waybill) (s : State) : Out :=
  issued i s fun t p =>
    let acc := if kind = 0 then aLoad else aAtomic
    let w := src t ||| t.vws a.toNat 2 ||| t.sws b.toNat 2
    let wb := dataWb t p w
    let ls := remLanes t p a b size (data t) (cmp t)
    match p.parkOp with
    | some op => remGoOn s t p op kind atop acc wb ls
    | none =>
      match remShape s t p acc ls with
      | some o => o
      | none =>
        if !s.settled p then stay s t p
        else match remGate s t p acc wb ls with
        | .error o => o
        | .ok s =>
          let op := s.nextOp
          let o : Op := ⟨s.curUnit, s.curPath, .vec d.toNat n size signed, p.cmask &&& t.lmask == t.lmask, wb, false, 1, none⟩
          let s := { s.takeOp with mem := { s.mem with ops := tput s.mem.ops op o } }
          let p := { p.resumed.bind f op with parkOp := some op, umask := actLanes p }
          remPass s (t.widen o.dest wb) p op kind atop wb ls

/-- The requests of a remote store that leave the package. -/
def remCount (s : State) (ls : List RemLane) : Nat :=
  (((remPeers ls).filter (fun q => q != s.me)).map (fun q => (passReqs false (ls.filter (fun x => x.peer == q))).length)).sum

/-- RST: every pass is sent, and its flag is set until the last has left the package; local lanes are performed, and a refused one is an RFAULT here
(R183, R184, R380). -/
def remStore (i : Instr) (size : Nat) (d a : BitVec 7) (b : BitVec 6) (f : BitVec 1) (s : State) : Out :=
  issued i s fun t p =>
    let w := t.vws d.toNat ((size + 3) / 4) ||| t.vws a.toNat 2 ||| t.sws b.toNat 2
    let wb := dataWb t p w
    let ls := remLanes t p a b size (fun l => t.vgroup d.toNat ((size + 3) / 4) l % 2 ^ (8 * size)) (fun _ => 0)
    match remShape s t p aStore ls with
    | some o => o
    | none =>
      if decide (65535 < tget 0 s.sch.outstanding (outKey t (coreOf s.curUnit)) + remCount s ls) || !s.settled p then stay s t p
      else match remGate s t p aStore wb ls with
      | .error o => o
      | .ok s =>
        let op := s.nextOp
        let p := { p.resumed.bind f op with umask := actLanes p }
        let o : Op := ⟨s.curUnit, s.curPath, .none, true, 0, false, 1, none⟩
        let s := { s.takeOp with mem := { s.mem with ops := tput s.mem.ops op o } }
        let s := (remPeers ls).foldl (fun s q =>
          let pass := ls.filter (fun x => x.peer == q)
          if tget [] s.fab.fails op ≠ [] then s
          else if q = s.me then localPass s op 1 0 t.world wb (passReqs false pass)
          else (passReqs false pass).foldl (fun s r => s.sendPost t s.curUnit p.id op q r wb) s) (s.putCur t p)
        let s := s.opLeave op
        match s.str? s.curUnit with
        | none => .next s
        | some t =>
          let fs := tget [] s.fab.fails op
          let q := (fs.head?.map (fun f => f.getD 2 0)).getD 1024
          let done := if fs = [] then ls else ls.filter (fun x => decide (x.peer ≤ q))
          let p := { t.path s.curPath with umask := p.umask &&& ~~~(okLanes s op done) }
          if fs = [] then finish s t p else rfault s t p op aStore

def execRld (d a : BitVec 7) (b : BitVec 6) (z : BitVec 3) (f : BitVec 1) (s : State) : Out :=
  remLoad (.rld d a b z f) 0 0 (sizeBytes z) (sizeRegs z) (sizeSigned z) d a b f (fun _ _ => 0) (fun _ _ => 0) (fun _ => 0) s
def execRst (d a : BitVec 7) (b : BitVec 6) (z : BitVec 3) (f : BitVec 1) (s : State) : Out :=
  remStore (.rst d a b z f) (sizeBytes z) d a b f s

/-- The operand of a remote atomic (R378, R379). -/
def remData (d : BitVec 7) (n : Nat) (t : Str) (l : Nat) : Nat := t.vgroup d.toNat n l

def execRatadd (d a : BitVec 7) (b : BitVec 6) (z : BitVec 3) (f : BitVec 1) (s : State) : Out :=
  let n := sizeRegs z
  remLoad (.ratadd d a b z f) 2 0 (4 * n) n false d a b f (remData d n) (fun _ _ => 0) (fun t => t.vws d.toNat n) s
def execRatcas (d a : BitVec 7) (b : BitVec 6) (z : BitVec 3) (f : BitVec 1) (s : State) : Out :=
  let n := sizeRegs z
  remLoad (.ratcas d a b z f) 2 9 (4 * n) n false d a b f (fun t l => t.vgroup (d.toNat + n) n l) (remData d n)
    (fun t => t.vws d.toNat (2 * n)) s
def execRatfadd (d a : BitVec 7) (b : BitVec 6) (z : BitVec 3) (f : BitVec 1) (s : State) : Out :=
  remLoad (.ratfadd d a b z f) 2 10 4 1 false d a b f (remData d 1) (fun _ _ => 0) (fun t => t.vws d.toNat 1) s

/-! ### Answers (R157, R184 to R187) -/

/-- The last answer of a pass is in: the path goes on, unless it has to stop first. -/
def Path.answered (p : Path) (op : Nat) : Path := if p.hold = .remote op then { p with hold := .none } else p

/-- Lanes answered leave UMASK. -/
def Path.cutMask (p : Path) (op : Nat) (m : Lanes) : Path := if p.parkOp = some op then { p with umask := p.umask &&& ~~~m } else p

/-- A string whose passes have got answers; a stop asked for while a pass was out is taken with its last answer (R184). -/
def State.putPassed (s : State) (u : Nat) (t : Str) : State :=
  if t.stopNow && !t.passOut then s.captureNow u t else s.putStr u t

/-- An answer to a path's request: values to its lanes, or the lanes noted as refused. -/
def State.pathAnswer (s : State) (id op : Nat) (r : Rem) (code reason : Nat) (vals : List Nat) (wb : Waybill) : State :=
  let s := { s with fab := { s.fab with rems := terase s.fab.rems id } }
  let s :=
    if code = 0 then s.opResult op (laneVals r.kind r.lanes vals) wb false
    else { s with fab := { s.fab with
      fails := tset [] s.fab.fails op (tget [] s.fab.fails op ++ r.lanes.map (fun l => [l.lane, l.addr, r.peer, code, reason])) } }
  match tfind s.mem.ops op with
  | none => s
  | some o =>
    match s.str? o.unit with
    | none => s
    | some t =>
      let m : Lanes := if code = 0 then laneMask (fun l => r.lanes.any (fun x => x.lane == l)) else 0
      let last := !s.fab.rems.any (fun e => e.2.who == .path op)
      s.putPassed o.unit (t.mapPaths (fun p => if last then (p.cutMask op m).answered op else p.cutMask op m))

/-- A posted write is acknowledged: it leaves the path's unacknowledged writes and the outstanding counter (R157, R282). -/
def State.postAck (s : State) (id : Nat) (r : Rem) (code reason who launch path : Nat) : State :=
  let s := { s with fab := { s.fab with rems := terase s.fab.rems id } }.outSub launch 1
  let s := s.onStr who (fun t => { t with unacked := t.unacked.filter (fun x => x.2 != id) })
  if code = 0 then s else s.nackPost id r code reason who path

/-- The string, resident or stored, and the path whose unacknowledged write has a number. -/
def State.writerOf (s : State) (id : Nat) : Option (Nat × Nat) :=
  (s.strs.map Prod.snd ++ s.stored.flatMap Saved.strs).findSome? (fun t =>
    (t.unacked.find? (fun x => x.2 == id)).map (fun x => (t.key, x.1)))

/-- A carrier put is acknowledged as a posted write is (R157, R185, R465). -/
def State.putAck (s : State) (id : Nat) (r : Rem) (code reason : Nat) : State :=
  match s.writerOf id with
  | some (who, path) => s.postAck id r code reason who (r.tag / 4096) path
  | none =>
    let s := { s with fab := { s.fab with rems := terase s.fab.rems id } }.outSub (r.tag / 4096) 1
    if code = 0 then s else s.nackGone r code

end Sys2Proof.Machine
end

