-- ==== Sys2Proof/Machine/Engine.lean ====
section
/-! DEFINITION. The engines at issue (R384 to R410, R415 to R419, R422): tiles and their tokens, queues, range locks, the checks of an
engine word in order, and the words that act at once. -/

namespace Sys2Proof.Machine

/-! ### Tiles and tokens (R388, R389) -/

/-- A tile of a granted allocation (R388). -/
def Tile.blank : Tile := ⟨[], [], [], 0, 0, .none, []⟩

/-- The running maximum of a row whose statistics are reset: minus infinity (R221). -/
def mInf : BitVec 40 := 0xFF80000000#40

def State.tile (s : State) (k : Nat) : Tile := tget Tile.blank s.eng.tiles k
def State.setTile (s : State) (k : Nat) (t : Tile) : State := { s with eng := { s.eng with tiles := tset Tile.blank s.eng.tiles k t } }

def State.partyOf (s : State) (t : Str) : Option Party := tfind s.sch.parties t.party

/-- The party on a core among the n that were placed with a string's party: its pair (2) or its gang (8). -/
def State.partyNear (s : State) (t : Str) (n core : Nat) : Option (Nat × Party) :=
  s.sch.parties.find? (fun e => e.1 / n == t.party / n && e.2.core == core)

/-- Is the string's launch PAIRED (R268)? -/
def State.isPaired (s : State) (t : Str) : Bool := ((tfind s.sch.launches t.launch).map (fun l => l.bit 336)).getD false

/-- The neighbour of a core in a pair. -/
def pairCore (core : Nat) : Nat := core ^^^ 1

/-- Tile n of the issuing party, or of the partner party of a pair; none at or above its TILES. -/
def State.tileOf (s : State) (t : Str) (core n : Nat) (partner : Bool) : Option Nat :=
  let p := if partner then (if s.isPaired t then (s.partyNear t 2 (pairCore core)).map Prod.snd else none) else s.partyOf t
  match p with
  | none => none
  | some p => (p.tiles[n]?).map (fun k => p.core * 8 + k)

/-- Does a token stand with a string, or return to it? -/
def Token.has (k : Token) (who : Nat) : Bool := k == .str who || k == .eng who

/-! ### Queues and locks (R386, R150) -/

def queueSize (unit : Nat) : Nat := if unit = 1 then 16 else 8

/-- Does an entry occupy the unit of a core? MMAP occupies both cores of its pair (DEDUCED, log 44). -/
def Eng.on (e : Eng) (unit core : Nat) : Bool := e.unit == unit && (e.core == core || (e.code == 0x4C && pairCore e.core == core))

def State.queueOf (s : State) (unit core : Nat) : Table Eng := s.eng.queue.filter (fun e => e.2.on unit core)

def State.queueFull (s : State) (unit core : Nat) : Bool := decide (queueSize unit ≤ (s.queueOf unit core).length)

/-- The lowest free index of a queue. -/
def State.freeIdx (s : State) (unit core : Nat) : Nat :=
  ((List.range (queueSize unit)).find? (fun k => !(s.queueOf unit core).any (fun e => e.2.idx == k))).getD 0

/-- Do the locks of an operation fit their tables? -/
def State.locksFit (s : State) (ls : List (Nat × Lock)) : Bool :=
  ls.all (fun l => decide ((tget [] s.mem.locks l.1).length + (ls.filter (fun x => x.1 == l.1)).length ≤ 64))

/-- Register locks in their tables; the peak of each follows (R161). -/
def State.addLocks (s : State) : List (Nat × Lock) → State
  | [] => s
  | (k, l) :: t =>
    let ls := tget [] s.mem.locks k ++ [l]
    State.addLocks { s with mem := { s.mem with
      locks := tput s.mem.locks k ls, lockPeak := tset 0 s.mem.lockPeak k (max ls.length (tget 0 s.mem.lockPeak k)) } } t

/-- Take an operation's locks away; `write` says which. -/
def State.dropLocks (s : State) (op : Nat) (f : Lock → Bool) : State :=
  { s with mem := { s.mem with
    locks := (s.mem.locks.map (fun e => (e.1, e.2.filter (fun l => l.op != op || !f l)))).filter (fun e => e.2 != []) } }

/-- The lock of an on-chip range of a core's storage. -/
def chipLock (space core world : Nat) (write : Bool) (phys n : Nat) : Lock :=
  ⟨space, core, world, write, phys / 256, (phys + n - 1) / 256, 0, 0⟩

/-- The lock of a global range. -/
def globLock (core world : Nat) (write : Bool) (addr n : Nat) : Lock :=
  ⟨0, core, world, write, addr % 2 ^ 57 / 128, (addr + n - 1) % 2 ^ 57 / 128, 0, 0⟩

/-! ### The issue of an engine word (R385) -/

/-- What one engine word asks for. -/
structure EngPlan where
  unit : Nat
  code : Nat
  /-- tiles named; none marks one that is not allocated -/
  tiles : List Nat
  /-- check 4: values that must be multiples, with the access -/
  aligns : List (Nat × Nat × Nat)
  /-- check 5: ranges and fields, with the value reported and the access -/
  prots : List (Bool × Nat × Nat)
  locks : List (Nat × Lock)
  vals : List Nat
  src : Waybill

/-- A trap of an engine word (R385). -/
def engTrap (s : State) (t : Str) (p : Path) (cause acc v : Nat) (rf gt : Option Word) : Out :=
  takeTrap s (t.setPath s.curPath p) ⟨cause, p.here, p.pos, BitVec.ofNat 64 v, 0, some (tinfoWord 0 0 0 0 acc), rf, gt, none⟩

/-- The token a tile has while a matrix operation is on it. -/
def State.tileBusy (s : State) (who : Nat) (ks : List Nat) : State :=
  ks.foldl (fun s k => s.setTile k { s.tile k with token := .eng who }) s

/-- Put an accepted operation in its queue, bound to its flag. -/
def State.engAccept (s : State) (t : Str) (p : Path) (f : BitVec 1) (pl : EngPlan) : State × Path × Nat :=
  let core := coreOf s.curUnit
  let op := s.nextOp
  let idx := s.freeIdx pl.unit core
  let e : Eng :=
    { unit := pl.unit, core, idx, party := t.party, who := t.key, world := t.world, level := p.level, path := s.curPath, code := pl.code
      st := 1, done := 0, vals := pl.vals, tiles := pl.tiles, wb := pl.src ||| p.flow, flags := 0, acked := [], asks := [], data := none
      posted := false, launch := outKey t core, ccan := [], waits := (s.earlier s.curUnit p op).map Req.rid, pid := p.id
      acks := (t.unacked.filter (fun x => p.follows x.1 x.2)).map Prod.snd, parts := [] }
  let o : Op := ⟨s.curUnit, s.curPath, .none, false, 0, false, 1, some (outKey t core)⟩
  let s := { s.takeOp with mem := { s.mem with ops := tput s.mem.ops op o }, eng := { s.eng with queue := tput s.eng.queue op e } }
  let s := (s.outAdd (outKey t core) 1).addLocks (pl.locks.map (fun l => (l.1, { l.2 with op := op })))
  (s.tileBusy t.key pl.tiles, p.bind f op, idx)

/-- Checks 3 to 5, then room, then the queue. `after` writes what the word writes at issue. -/
def engPut (s : State) (t : Str) (p : Path) (f : BitVec 1) (pl : EngPlan) (after : State → Str → Nat → State × Str) : Out :=
  let core := coreOf s.curUnit
  if !pl.tiles.all (fun k => (s.tile k).token.has t.key) then trapWord s t p cTOKEN
  else match pl.aligns.find? (fun a => a.1 % a.2.1 != 0) with
    | some a => engTrap s t p cALIGN a.2.2 a.1 none none
    | none =>
      match pl.prots.find? (fun a => !a.1) with
      | some a => engTrap s t p cPROT a.2.2 a.2.1 none none
      | none =>
        if s.queueFull pl.unit core || (pl.code == 0x4C && s.queueFull 0 (pairCore core)) || !s.locksFit pl.locks ||
            decide (65535 ≤ tget 0 s.sch.outstanding (outKey t core)) then waitOn s t p
        else
          let (s, p, idx) := s.engAccept t p f pl
          let (s, t) := after s t idx
          finish s t p

/-- An engine word with nothing to write at issue. -/
def engIssue (i : Instr) (f : BitVec 1) (ill : State → Str → Path → Bool) (plan : State → Str → Path → EngPlan) (s : State) : Out :=
  issuedIf i s (ill s) fun t p => engPut s t p f (plan s t p) (fun s t _ => (s, t))

/-- A named tile of the issuing party that is not allocated (R384). -/
def noTile (s : State) (t : Str) (n : BitVec 3) : Bool := (s.tileOf t (coreOf s.curUnit) n.toNat false).isNone
def noPair (s : State) (t : Str) (n : BitVec 3) : Bool := (s.tileOf t (coreOf s.curUnit) n.toNat true).isNone
def myTile (s : State) (t : Str) (n : BitVec 3) : Nat := (s.tileOf t (coreOf s.curUnit) n.toNat false).getD 0
def pairTile (s : State) (t : Str) (n : BitVec 3) : Nat := (s.tileOf t (coreOf s.curUnit) n.toNat true).getD 0

/-- Where a range of the issuing party's scratchpad lies. -/
def spAt (s : State) (t : Str) (off n : Nat) : Option Nat := (s.chipAddr t (coreOf s.curUnit) 1 off n).map Prod.fst

/-- Check 5 of a scratchpad range. -/
def spRange (s : State) (t : Str) (off n acc : Nat) : Bool × Nat × Nat := ((spAt s t off n).isSome, off, acc)

/-- The range lock of a scratchpad range of the issuing party. -/
def spLock (s : State) (t : Str) (off n : Nat) (write : Bool) : List (Nat × Lock) :=
  match spAt s t off n with
  | none => []
  | some ph => [(coreOf s.curUnit, chipLock 1 (coreOf s.curUnit) t.world write ph n)]

/-! ### MACQ, MREL, MZERO (R390, R391, R397) -/

/-- May a strong read-modify-write be decided now: every load before it is satisfied, and every acquire and what a saved state holds back (R137, R148)? -/
def State.rmwReady (s : State) (p : Path) : Bool :=
  (s.earlier s.curUnit p s.nextOp).all (fun e => e.kind == .store && !e.acq && decide (p.saved ≤ e.op))

/-- MACQ reads and changes the token table as one strong read-modify-write (R455), decided against the table as it stands (DEDUCED, log 145). -/
def execMacq (f : BitVec 1) (n : BitVec 3) (pr : BitVec 1) (d : BitVec 6) (s : State) : Out :=
  issuedIf (.macq f n pr d) s (fun t _ => if pr = 1 then noPair s t n else noTile s t n) fun t p =>
    let k := if pr = 1 then pairTile s t n else myTile s t n
    let x := s.tile k
    if !s.rmwReady p then stay s t p
    else
    let s := if x.token = .none then s.setTile k { x with token := .str t.key } else s
    finish s (t.sput d.toNat (if x.token == .none || x.token.has t.key then 1 else 0) p.flow) p

def execMrel (f : BitVec 1) (n : BitVec 3) (pr : BitVec 1) (s : State) : Out :=
  issuedIf (.mrel f n pr) s (fun t _ => if pr = 1 then noPair s t n else noTile s t n) fun t p =>
    let k := if pr = 1 then pairTile s t n else myTile s t n
    let x := s.tile k
    if x.token = .str t.key then finish (s.setTile k { x with token := .none }) t p
    else if x.token = .eng t.key then
      let op := s.nextOp
      let o : Op := ⟨s.curUnit, s.curPath, .none, false, 0, false, 1, none⟩
      let s := { s.takeOp with mem := { s.mem with ops := tput s.mem.ops op o } }
      finish (s.setTile k { x with rels := x.rels ++ [op] }) t (p.bind f op)
    else trapWord s t p cTOKEN

def execMzeroE (f : BitVec 1) (n : BitVec 3) (s : State) : Out :=
  engIssue (.mzeroE f n) f (fun s t _ => noTile s t n) (fun s t _ => ⟨0, 0x4A, [myTile s t n], [], [], [], [0], 0⟩) s
def execMzeroAll (f : BitVec 1) (n : BitVec 3) (s : State) : Out :=
  engIssue (.mzeroAll f n) f (fun s t _ => noTile s t n) (fun s t _ => ⟨0, 0x4A, [myTile s t n], [], [], [], [1], 0⟩) s

/-! ### MMA, MMAP (R392 to R395) -/

/-- Fields of an operand descriptor. -/
def dBase (d : Dword) : Nat := (d.extractLsb' 0 20).toNat
def dStride (d : Dword) : Nat := (d.extractLsb' 20 16).toNat
def dKb (d : Dword) : Nat := (d.extractLsb' 40 8).toNat
def dTag (d : Dword) : Nat := (d.extractLsb' 48 8).toNat
def dIdx (d : Dword) : Nat := (d.extractLsb' 56 3).toNat

/-- The party that holds an operand: the issuing one, or with CV = 1 the one at core CIDX of its gang or pair. -/
def dParty (s : State) (t : Str) (d : Dword) : Option (Nat × Party) :=
  if !d.getLsbD 59 then (s.partyOf t).map (fun p => (t.party, p))
  else
    let c := coreOf s.curUnit / 8 * 8 + dIdx d
    if s.isConvoy t then s.partyNear t 8 c
    else if s.isPaired t && c / 2 == coreOf s.curUnit / 2 then s.partyNear t 2 c
    else none

/-- Bytes of a line of KB blocks. -/
def lineBytes (fmt kb : Nat) : Nat := if fmt = 0 then kb * 64 else kb * 32

/-- Bytes from the first of line 0 to the last of the last line. -/
def dSpan (d : Dword) (lines fmt kb : Nat) : Nat := (lines - 1) * dStride d + lineBytes fmt kb

/-- Check 5 of a descriptor (DEDUCED, log 40). -/
def dOk (s : State) (t : Str) (d : Dword) (lines fmt kb : Nat) : Bool :=
  match dParty s t d with
  | none => false
  | some (_, p) => decide (dBase d + dSpan d lines fmt kb ≤ p.spSize)

/-- The read lock of an operand, in the table of the core whose scratchpad holds it. -/
def dLock (s : State) (t : Str) (d : Dword) (lines fmt kb : Nat) : List (Nat × Lock) :=
  match dParty s t d with
  | none => []
  | some (_, p) => [(p.core, chipLock 1 p.core t.world false (p.core * 2 ^ 20 + p.spBase + dBase d) (dSpan d lines fmt kb))]

/-- MMA and MMAP: a product of `lines` lines of A. -/
def mmaPlan (code lines : Nat) (tiles : List Nat) (m : BitVec 3) (a b : BitVec 6) (s : State) (t : Str) : EngPlan :=
  let da := t.spair a.toNat
  let db := t.spair b.toNat
  let fmt := m.toNat
  let kb := dKb da
  let pk := fun d => ((dParty s t d).map Prod.fst).getD 0
  { unit := 0, code, tiles
    aligns := [(dBase da, 8, aEngRead), (dStride da, 8, aEngRead), (dBase db, 8, aEngRead), (dStride db, 8, aEngRead)]
    prots := [(kb != 0 && (fmt == 0 || kb == 1), da.toNat, aEngRead), (dOk s t da lines fmt kb, da.toNat, aEngRead),
      (dOk s t db 64 fmt kb, db.toNat, aEngRead)]
    locks := dLock s t da lines fmt kb ++ dLock s t db 64 fmt kb
    vals := [fmt, kb, da.toNat, pk da, db.toNat, pk db], src := t.sws a.toNat 2 ||| t.sws b.toNat 2 }

def execMma (f : BitVec 1) (n m : BitVec 3) (a b : BitVec 6) (s : State) : Out :=
  engIssue (.mma f n m a b) f (fun s t _ => noTile s t n) (fun s t _ => mmaPlan 0x4B 64 [myTile s t n] m a b s t) s
def execMmap (f : BitVec 1) (n m : BitVec 3) (a b : BitVec 6) (s : State) : Out :=
  engIssue (.mmap f n m a b) f (fun s t _ => decide (coreOf s.curUnit % 2 = 1) || noTile s t n || noPair s t n)
    (fun s t _ => mmaPlan 0x4C 128 [myTile s t n, pairTile s t n] m a b s t) s

/-! ### Tiles and scratchpad (R396, R398, R399) -/

def execMsca (f : BitVec 1) (d q : BitVec 3) (a b : BitVec 6) (s : State) : Out :=
  engIssue (.msca f d q a b) f (fun s t _ => noTile s t d || noTile s t q) (fun s t _ =>
    let x := (t.sget a.toNat).toNat
    let y := (t.sget b.toNat).toNat
    { unit := 0, code := 0x4D, tiles := [myTile s t d, myTile s t q]
      aligns := [(x, 8, aEngRead), (y, 8, aEngRead)]
      prots := [spRange s t x 64 aEngRead, spRange s t y 64 aEngRead]
      locks := [], vals := [x, y], src := t.sw a.toNat ||| t.sw b.toNat }) s

/-- Bytes of an element of a tile move. -/
def tileElem (fmt : Nat) : Nat := if fmt = 0 then 8 else if fmt = 1 then 4 else 2

/-- MLD and MST. -/
def tileMove (code : Nat) (write : Bool) (n : BitVec 3) (m : BitVec 2) (a b : BitVec 6) (s : State) (t : Str) : EngPlan :=
  let off := (t.sget a.toNat).toNat
  let stride := (t.sget b.toNat).toNat
  let e := tileElem m.toNat
  let acc := if write then aEngWrite else aEngRead
  let span := 63 * stride + 64 * e
  { unit := 0, code, tiles := [myTile s t n], aligns := [(off, e, acc), (stride, e, acc)], prots := [spRange s t off span acc]
    locks := spLock s t off span write, vals := [m.toNat, off, stride], src := t.sw a.toNat ||| t.sw b.toNat }

def execMld (f : BitVec 1) (n : BitVec 3) (m : BitVec 2) (a b : BitVec 6) (s : State) : Out :=
  engIssue (.mld f n m a b) f (fun s t _ => noTile s t n) (fun s t _ => tileMove 0x4E false n m a b s t) s
def execMst (f : BitVec 1) (n : BitVec 3) (m : BitVec 2) (a b : BitVec 6) (s : State) : Out :=
  engIssue (.mst f n m a b) f (fun s t _ => noTile s t n) (fun s t _ => tileMove 0x4F true n m a b s t) s

/-- MSTAT.st (0) and MSTAT.ld (1). -/
def statMove (o : Nat) (n : BitVec 3) (a : BitVec 6) (s : State) (t : Str) : EngPlan :=
  let off := (t.sget a.toNat).toNat
  let acc := if o = 0 then aEngWrite else aEngRead
  { unit := 0, code := 0x53, tiles := [myTile s t n], aligns := [(off, 16, acc)], prots := [spRange s t off 1024 acc]
    locks := [], vals := [o, off], src := t.sw a.toNat }

def execMstatSt (f : BitVec 1) (n : BitVec 3) (a : BitVec 6) (s : State) : Out :=
  engIssue (.mstatSt f n a) f (fun s t _ => noTile s t n) (fun s t _ => statMove 0 n a s t) s
def execMstatLd (f : BitVec 1) (n : BitVec 3) (a : BitVec 6) (s : State) : Out :=
  engIssue (.mstatLd f n a) f (fun s t _ => noTile s t n) (fun s t _ => statMove 1 n a s t) s
def execMstatRst (f : BitVec 1) (n : BitVec 3) (s : State) : Out :=
  engIssue (.mstatRst f n) f (fun s t _ => noTile s t n) (fun s t _ => ⟨0, 0x53, [myTile s t n], [], [], [], [2], 0⟩) s

/-! ### Softmax (R400 to R403) -/

def execSmxu (f : BitVec 1) (o q : BitVec 3) (pd k : BitVec 6) (x : BitVec 1) (m : BitVec 2) (s : State) : Out :=
  engIssue (.smxu f o q pd k x m) f (fun s t _ => noTile s t o || noTile s t q) (fun s t _ =>
    let off := (t.sget pd.toNat).toNat
    let mk := (t.sget (k.toNat + 1)).toNat
    { unit := 0, code := 0x50, tiles := [myTile s t o, myTile s t q]
      aligns := (off, 8, aEngWrite) :: (if m = 1 then [(mk, 8, aEngRead)] else [])
      prots := spRange s t off (if x = 0 then 8192 else 4096) aEngWrite :: (if m = 1 then [spRange s t mk 512 aEngRead] else [])
      locks := [], vals := [off, (t.sget k.toNat).toNat, mk, x.toNat, m.toNat], src := t.sw pd.toNat ||| t.sws k.toNat 2 }) s

def execSmxm (f : BitVec 1) (a b : BitVec 3) (pr : BitVec 1) (s : State) : Out :=
  engIssue (.smxm f a b pr) f
    (fun s t _ => noTile s t a || (if pr = 1 then noPair s t b else noTile s t b || decide (a = b)))
    (fun s t _ => ⟨0, 0x51, [myTile s t a, if pr = 1 then pairTile s t b else myTile s t b], [], [], [], [], 0⟩) s

def execSmxn (f : BitVec 1) (o : BitVec 3) (s : State) : Out :=
  engIssue (.smxn f o) f (fun s t _ => noTile s t o) (fun s t _ => ⟨0, 0x52, [myTile s t o], [], [], [], [], 0⟩) s

/-! ### The carrier (R404 to R407) -/

/-- XCV and XRND: an array of 64 rows. -/
def arrayMove (code : Nat) (write : Bool) (n : BitVec 3) (a w : BitVec 6) (s : State) (t : Str) : EngPlan :=
  let off := (t.sget a.toNat).toNat
  let acc := if write then aEngWrite else aEngRead
  { unit := 2, code, tiles := [myTile s t n], aligns := [(off, 256, acc)], prots := [spRange s t off 66048 acc]
    locks := spLock s t off 66048 write, vals := [off, (t.sget w.toNat).toNat % 65536], src := t.sw a.toNat ||| t.sw w.toNat }

def execXcv (f : BitVec 1) (n : BitVec 3) (a w : BitVec 6) (s : State) : Out :=
  engIssue (.xcv f n a w) f (fun s t _ => noTile s t n) (fun s t _ => arrayMove 0x54 true n a w s t) s
def execXrnd (f : BitVec 1) (n : BitVec 3) (a w : BitVec 6) (s : State) : Out :=
  engIssue (.xrnd f n a w) f (fun s t _ => noTile s t n) (fun s t _ => arrayMove 0x57 false n a w s t) s

def execXadd (f : BitVec 1) (d q c : BitVec 6) (s : State) : Out :=
  engIssue (.xadd f d q c) f (fun _ _ _ => false) (fun s t _ =>
    let x := (t.sget d.toNat).toNat
    let y := (t.sget q.toNat).toNat
    let n := (t.sget c.toNat).toNat % 128
    { unit := 2, code := 0x55, tiles := [], aligns := [(x, 256, aEngWrite), (y, 256, aEngRead)]
      prots := [(decide (1 ≤ n ∧ n ≤ 64), (t.sget c.toNat).toNat, aEngRead), spRange s t x (1032 * n) aEngWrite,
        spRange s t y (1032 * n) aEngRead]
      locks := spLock s t x (1032 * n) true ++ spLock s t y (1032 * n) false
      vals := [x, y, n], src := t.sw d.toNat ||| t.sw q.toNat ||| t.sw c.toNat }) s

/-- The waybill of the blocks of an on-chip range. -/
def State.rangeWb (s : State) (space phys n : Nat) : Waybill :=
  (List.range ((phys + n - 1) / 256 + 1 - phys / 256)).foldl (fun w k => w ||| s.chipWb space (phys / 256 + k)) 0

/-- The plan of XPUT once checks 3 to 5 are known to hold. -/
def xputPlan (a b c : BitVec 6) (s : State) (t : Str) : EngPlan :=
  let x := (t.sget a.toNat).toNat
  let w := (t.spair b.toNat).toNat
  let n := (t.sget c.toNat).toNat / 65536 % 128
  { unit := 2, code := 0x56, tiles := [], aligns := [(x, 256, aEngRead), (w, 128, aEngWrite)]
    prots := [(decide (1 ≤ n ∧ n ≤ 64), (t.sget c.toNat).toNat, aEngRead), spRange s t x (1032 * n) aEngRead]
    locks := spLock s t x (1032 * n) false
    vals := [x, w, n, (t.sget c.toNat).toNat % 1024], src := t.sw a.toNat ||| t.sws b.toNat 2 ||| t.sw c.toNat }

/-- Check 7 of XPUT: the whole destination range, the peer, and the gate over the whole array (R182, R407). -/
def xputRemote (s : State) (t : Str) (p : Path) (pl : EngPlan) : Except Out State :=
  match pl.vals with
  | [x, w, n, peer] =>
    if !(s.inWindow t.world w && s.inWindow t.world (w + 1032 * n - 1)) then
      .error (takeTrap s (t.setPath s.curPath p)
        ⟨cPROT, p.here, p.pos, BitVec.ofNat 64 w, 0, some (tinfoWord 0 3 0 0 aEngWrite), none, none, none⟩)
    else if !s.reaches peer then
      .error (engTrap s t p cUNREACH aEngWrite w (some (BitVec.ofNat 32 (peer * 2 ^ 20))) none)
    else if s.attestedFor t.world peer then .ok s
    else
      let data := s.rangeWb 1 ((spAt s t x (1032 * n)).getD 0) (1032 * n)
      match s.gate [⟨t.world, data ||| pl.src ||| p.flow, destPackage peer, 1032 * n⟩] with
      | .ok s => .ok s
      | .error (_, g, s) => .error (engTrap s t p cEGRESS aEngWrite w none (some g))
  | _ => .ok s

def execXput (f : BitVec 1) (a b c : BitVec 6) (s : State) : Out :=
  issuedIf (.xput f a b c) s (fun _ _ => false) fun t p =>
    let pl := xputPlan a b c s t
    let bad := pl.aligns.any (fun a => a.1 % a.2.1 != 0) || pl.prots.any (fun a => !a.1)
    let full := s.queueFull 2 (coreOf s.curUnit) || !s.locksFit pl.locks ||
      decide (65535 ≤ tget 0 s.sch.outstanding (outKey t (coreOf s.curUnit)))
    if bad || full then engPut s t p f pl (fun s t _ => (s, t))
    else match xputRemote s t p pl with
      | .error o => o
      | .ok s => engPut s t p f pl (fun s t _ => (s, t))

/-! ### Porter commands (R408 to R410) -/

/-- Fields of a command descriptor, held as one number. -/
def cd (d k n : Nat) : Nat := d / 2 ^ k % 2 ^ n
def cdFrom (d : Nat) : Nat := cd d 0 64
def cdTo (d : Nat) : Nat := cd d 64 64
def cdLen (d : Nat) : Nat := cd d 128 32
def cdFsp (d : Nat) : Nat := cd d 162 4
def cdTsp (d : Nat) : Nat := cd d 166 4
def cdCwsp (d : Nat) : Nat := cd d 170 2
def cdScope (d : Nat) : Nat := cd d 172 3
def cdCw (d : Nat) : Bool := cd d 175 1 == 1
def cdPeer (d : Nat) : Nat := cd d 176 16
def cdCwaddr (d : Nat) : Nat := cd d 192 64
def cdCval (d : Nat) : Nat := cd d 256 64
def cdTstride (d : Nat) : Nat := cd d 320 32
def cdFstride (d : Nat) : Nat := cd d 352 32
def cdCount (d : Nat) : Nat := cd d 384 32
def cdBs (d : Nat) : Nat := cd d 444 4
def cdAux (d : Nat) : Nat := cd d 448 64

/-- Runs of bytes a command moves: 1, its rows, or its table entries. -/
def cdRuns (code d : Nat) : Nat := if code = 0x59 ∨ code = 0x5B then cdCount d else 1

/-- FORM (R410) (DEDUCED, log 42). -/
def cdForm (code d : Nat) : Bool :=
  let fsp := if code = 0x5A then 0 else cdFsp d
  decide (6 ≤ fsp) || decide (6 ≤ cdTsp d) || (decide (4 ≤ fsp) && decide (4 ≤ cdTsp d)) ||
  cdLen d % 8 != 0 || cdTo d % 8 != 0 || cdCwaddr d % 8 != 0 || (code != 0x5A && cdFrom d % 8 != 0) ||
  ((code == 0x59 || code == 0x5B) && cdTstride d % 8 != 0) || ((code == 0x59 || code == 0x5B) && cdFstride d % 8 != 0) ||
  cdLen d == 0 || (code == 0x59 && cdCount d == 0) ||
  (code == 0x5B && (cdCount d == 0 || decide (4096 < cdCount d) || decide (cdBs d < 8) ||
    decide (2 ^ cdBs d < cdFstride d + cdLen d) || decide (1 < cdFsp d) || decide (cdTsp d < 1) || decide (3 < cdTsp d))) ||
  (code == 0x5A && decide (4 ≤ cdTsp d)) || (cdCw d && decide (6 ≤ cdScope d))

/-- The last byte beyond a strided range. -/
def stridedEnd (base stride runs len : Nat) : Nat := base + (runs - 1) * stride + len

/-- The source and destination ranges as (base, stride, runs, bytes a run). -/
def cdSrc (code d : Nat) : Nat × Nat × Nat × Nat :=
  if code = 0x59 then (cdFrom d, cdFstride d, cdCount d, cdLen d)
  else if code = 0x5B then (cdFrom d, 4, 1, 4 * cdCount d)
  else (cdFrom d, 0, 1, cdLen d)
def cdDst (code d : Nat) : Nat × Nat × Nat × Nat :=
  if code = 0x59 ∨ code = 0x5B then (cdTo d, cdTstride d, cdCount d, cdLen d) else (cdTo d, 0, 1, cdLen d)

/-- The pieces of a convoy range by slice; another space's range is one piece. -/
def bySlice (space : Nat) : Nat → Nat → Nat → List (Nat × Nat)
  | 0, _, _ => []
  | f + 1, a, n =>
    if n = 0 then []
    else
      let k := if space = 2 then min n (2 ^ 18 - a % 2 ^ 18) else n
      (a, k) :: bySlice space f (a + k) (n - k)

/-- Is a range of bytes inside the allocation of its space, or inside the window (R65, R46, R410)? -/
def State.inRange (s : State) (party launch core world space a n : Nat) : Bool :=
  match space with
  | 0 => true
  | 4 => s.inWindow world a && s.inWindow world (a + n - 1)
  | 5 => true
  | _ => (bySlice space 9 a n).all (fun x => (s.chipAt party launch core space x.1 x.2).isSome) && decide (n ≤ 2 ^ 26)

/-- RANGE (R410). -/
def State.cdRange (s : State) (t : Str) (code d : Nat) : Bool :=
  let core := coreOf s.curUnit
  let ok := fun space (r : Nat × Nat × Nat × Nat) =>
    (r.2.2.1 == 1 || space == 0 || space == 5 || decide (stridedEnd r.1 r.2.1 r.2.2.1 r.2.2.2 ≤ 2 ^ 64)) &&
      s.inRange t.party t.launch core t.world space r.1 r.2.2.2 &&
      s.inRange t.party t.launch core t.world space (r.1 + (r.2.2.1 - 1) * r.2.1) r.2.2.2 &&
      (space != 2 || r.2.1 == 0 || (List.range (r.2.2.1 % 2 ^ 18)).all (fun k =>
        s.inRange t.party t.launch core t.world space (r.1 + k * r.2.1) r.2.2.2))
  !(code == 0x5A || ok (cdFsp d) (cdSrc code d)) || !ok (cdTsp d) (cdDst code d) ||
    (cdCw d && !s.inRange t.party t.launch core t.world (cdCwsp d) (cdCwaddr d) 8)

/-- The refusal code of a porter command (R410). -/
def State.cdCode (s : State) (t : Str) (code d : Nat) : Nat :=
  if cdForm code d then 1
  else if s.cdRange t code d then 2
  else if ((code != 0x5A && cdFsp d == 4) || cdTsp d == 4) && !(s.reaches (cdPeer d % 1024)) then 3
  else 0

/-- Units of 4 KiB that hold the first n bytes a command moves. -/
def unitsOf (n : Nat) : Nat := (n + 4095) / 4096

/-- Locks of a range: one for each row of a rectangle, else one in all (R151), with the units that read it (R153). -/
def State.cdLocks (s : State) (t : Str) (code space : Nat) (r : Nat × Nat × Nat × Nat) (write : Bool) : List (Nat × Lock) :=
  let core := coreOf s.curUnit
  let runs : List (Nat × Nat × Nat) :=
    if code ≠ 0x59 ∨ r.2.1 = r.2.2.2 ∨ r.2.2.1 = 1 then [(r.1, (r.2.2.1 - 1) * r.2.1 + r.2.2.2, 0)]
    else (List.range r.2.2.1).map (fun k => (r.1 + k * r.2.1, r.2.2.2, unitsOf ((k + 1) * r.2.2.2)))
  match space with
  | 0 => runs.map (fun x => (core, { globLock core t.world write x.1 x.2.1 with units := x.2.2 }))
  | 4 => []
  | 5 => []
  | _ => runs.flatMap (fun x => (bySlice space 9 x.1 x.2.1).filterMap (fun y =>
      (s.chipAddr t core space y.1 y.2).map (fun ph =>
        let c := if space = 3 then core else ph.2
        (c, { chipLock space c t.world write ph.1 y.2 with units := x.2.2 }))))

/-- The access of a descriptor: a scratchpad load of 64 bytes by the string. -/
def cdOp : MemOp := { uniMemOp 1 4 .load .none 0 with size := 64, acc := aEngRead, slot := none }

/-- A porter word: the descriptor read as a load, its check, and its place in the queue (R408, R410). -/
def porter (i : Instr) (code : Nat) (f : BitVec 1) (d a : BitVec 6) (s : State) : Out :=
  issuedIf i s (fun _ _ => false) fun t p =>
    let off := (t.sget a.toNat).toNat
    let core := coreOf s.curUnit
    if off % 64 ≠ 0 then engTrap s t p cALIGN aEngRead off none none
    else match spAt s t off 64 with
      | none => engTrap s t p cPROT aEngRead off none none
      | some ph =>
        if s.lockHit core 1 t.world false (ph / 256) then engTrap s t p cRLOCK aEngRead off none none
        else if s.chipPoison 1 (ph / 64) then engTrap s t p cPOISON aEngRead off none none
        else if !s.settled p then stay s t p
        else
          let v := s.chipGet 1 ph 64
          let w := t.sw a.toNat ||| s.chipWb 1 (ph / 256)
          let c := s.cdCode t code v
          if c ≠ 0 then finish s (t.sput d.toNat (resultWord c 0) (w ||| p.flow)) p
          else
            engPut s t p f
              { unit := 1, code, tiles := [], aligns := [], prots := []
                locks := (if code = 0x5A then [] else s.cdLocks t code (cdFsp v) (cdSrc code v) false) ++
                  s.cdLocks t code (cdTsp v) (cdDst code v) true
                vals := [v], src := w }
              (fun s t idx => (s, t.sput d.toNat (resultWord 0 idx) (w ||| p.flow)))

def execCpy (f : BitVec 1) (d a : BitVec 6) (s : State) : Out := porter (.cpy f d a) 0x58 f d a s
def execCpy2d (f : BitVec 1) (d a : BitVec 6) (s : State) : Out := porter (.cpy2d f d a) 0x59 f d a s
def execCfill (f : BitVec 1) (d a : BitVec 6) (s : State) : Out := porter (.cfill f d a) 0x5A f d a s
def execGath (f : BitVec 1) (d a : BitVec 6) (s : State) : Out := porter (.gath f d a) 0x5B f d a s

/-! ### CSTAT (R415) -/

/-- The entry of a party at an index of a unit. -/
def State.engEntry (s : State) (t : Str) (unit idx : Nat) : Option (Nat × Eng) :=
  s.eng.queue.find? (fun e => e.2.unit == unit && e.2.core == coreOf s.curUnit && e.2.idx == idx && e.2.party == t.party)

/-- Committed units as CSTAT counts them. -/
def Eng.doneCount (e : Eng) : Nat :=
  if e.code = 0x56 then e.acked.length + e.done * 256
  else if e.unit = 2 then e.done * 4096
  else if e.unit = 1 ∧ e.code ≠ 0x5B then e.done * 4096
  else e.done

/-- The opcode KIND counts from. -/
def kindBase (unit : Nat) : Nat := if unit = 0 then 0x48 else if unit = 1 then 0x58 else 0x54

def Eng.statWord (e : Eng) : Dword :=
  BitVec.ofNat 64 (e.st % 16 * 2 ^ 60 + (e.code - kindBase e.unit) % 16 * 2 ^ 56 + e.who % 32 * 2 ^ 48 + e.doneCount % 2 ^ 32)

def execCstat (f : BitVec 1) (d a : BitVec 6) (u : BitVec 2) (s : State) : Out :=
  issued (.cstat f d a u) s fun t p =>
    let v := ((s.engEntry t u.toNat ((t.sget a.toNat).toNat % 16)).map (fun e => e.2.statWord)).getD 0
    finish s (t.sputPair d.toNat v (t.sw a.toNat ||| p.flow)) p

/-! ### Outriders (R417 to R419) -/

/-- The unit of outrider n of a party. -/
def outUnit (p : Party) (n : Nat) : Nat := p.core * 64 + 32 + p.outrs.getD n 0

/-- An N at or above the party's OUTR. -/
def noOutr (s : State) (t : Str) (n : BitVec 2) : Bool :=
  match s.partyOf t with
  | none => true
  | some p => decide (p.outrs.length ≤ n.toNat)

/-- The record of a bound outrider as OSTART starts it: its registers and flow are the issuing path's, its level the bound string's (R244). -/
def outStart (t old : Str) (p : Path) (level bound : Nat) (entry : Dword) : Str :=
  { old with
    outrider := true, runs := true, bound := bound, told := false, world := t.world, launch := t.launch, party := t.party, s := t.s, swb := t.swb
    regPoison := t.regPoison.filter (fun r => decide (128 ≤ r)), q := t.q, qwb := t.qwb, lmask := 1, launchLanes := 1, stack := []
    p0 := { Path.blank with pc := entry, state := .running, level := level, mask := 1, flow := p.flow }
    p1 := Path.blank, dbg := .running, captured := false, stopNow := false, stopTenant := false, reports := [] }

/-- A blank outrider. -/
def Str.blankOut : Str :=
  { outrider := true, runs := false, bound := 0, told := false, world := 0, launch := 0, party := 0, index := 0, vblk := 0, lmask := 1, launchLanes := 1
    stack := [], p0 := Path.blank, p1 := Path.blank, s := [], swb := [], v := [], vwb := [], regPoison := [], p := [], pwb := [], q := 0
    qwb := [], lstart := [], lend := [], lcount := [], repidx := 0, sys := [], tickPending := false, trapLevel := 0, traps := []
    dbg := .running, brkh := false, stepping := 0, stopTenant := false, stopNow := false, stopAt := 0, captured := false
    reports := [], oq := [], nacks := [], unacked := [], stamp := 0, before := 0, yielded := false, onPath := false, tried := 0, served := 0 }

/-- The outrider stops; a parked one leaves its waiter slot. -/
def State.outStop (s : State) (u : Nat) : State :=
  match s.str? u with
  | none => s
  | some o =>
    let s := s.putStr u { o with runs := false, told := false, stopNow := false, captured := false, p0 := if o.p0.state = .parked then { o.p0 with state := .running } else o.p0 }
    if o.p0.state = .parked then s.withdraw (coreOf u) (slotOf u - 32) false [4] else s

/-- Is an outrider between clauses, so that it stops at once? -/
def Str.atRest (t : Str) : Bool := !t.runs || t.captured || t.p0.state == .parked || t.p0.pos == 0

/-- Is an outrider inside a clause, so that a stop waits for its boundary? -/
def State.outBusy (s : State) (u : Nat) : Bool := ((s.str? u).map (fun o => !o.atRest)).getD false

/-- An outrider stops, and starts anew where OSTART stopped it for that, while the string it is bound to is still there (R417, R418). -/
def State.outHalt (s : State) (u : Nat) (next : Option Str) : State :=
  let s := s.outStop u
  match next with
  | some o => if ((s.str? o.bound).map (fun b => b.party == o.party && b.index == o.index)).getD false then s.putStr u o else s
  | none => s

/-- Is a stop asked of an outrider? -/
def State.outAsked (s : State) (u : Nat) : Bool := s.eng.stops.any (fun e => e.2.unit == u)

/-- OSTOP and OSTART at an outrider inside a clause: it stops at its next boundary, and the flag clears then. The issuing path goes on. -/
def outAsk (s : State) (t : Str) (p : Path) (f : BitVec 1) (u : Nat) (next : Option Str) : Out :=
  let op := s.nextOp
  let s := match s.str? u with
    | none => s.takeOp
    | some o => s.takeOp.putStr u { o with stopNow := true }
  finish { s with
    mem := { s.mem with ops := tput s.mem.ops op ⟨s.curUnit, s.curPath, .none, false, 0, false, 1, none⟩ }
    eng := { s.eng with stops := tput s.eng.stops op ⟨u, next⟩ } } t (p.bind f op)

/-- The first stop asked of an outrider that has come to rest is carried out: ENGINE_COMMIT of its operation. -/
def State.outCommit (s : State) (op : Nat) (x : OutStop) : State :=
  if s.outBusy x.unit || s.eng.stops.any (fun e => decide (e.1 < op) && e.2.unit == x.unit) then s
  else ({ s with eng := { s.eng with stops := terase s.eng.stops op } }.outHalt x.unit x.next).opLeave op

def execOstart (f : BitVec 1) (n : BitVec 2) (a b d : BitVec 6) (s : State) : Out :=
  issuedIf (.ostart f n a b d) s (fun t _ => noOutr s t n) fun t p =>
    match s.partyOf t with
    | none => .next s
    | some pa =>
      let w := t.sw a.toNat ||| t.sws b.toNat 2 ||| p.flow
      let u := outUnit pa n.toNat
      let target := pa.units.find? (fun x => ((s.str? x).map (fun y => y.index == (t.sget a.toNat).toNat % 32 && y.party == t.party)).getD false)
      match target with
      | none => finish s (t.sput d.toNat (resultWord 1 0) w) p
      | some x =>
        let lvl := if x = s.curUnit then p.level else ((s.str? x).map (fun y => (y.path y.onPath).level)).getD p.level
        let o := { outStart t ((s.str? u).getD Str.blankOut) p lvl x (t.spair b.toNat &&& ~~~3#64) with
          index := (t.sget a.toNat).toNat % 32 }
        let t := t.sput d.toNat (resultWord 0 0) w
        if s.outBusy u || s.outAsked u then outAsk s t p f u (some o) else finish (s.outHalt u (some o)) t p

def execOstop (f : BitVec 1) (n : BitVec 2) (s : State) : Out :=
  issuedIf (.ostop f n) s (fun t _ => noOutr s t n) fun t p =>
    match s.partyOf t with
    | none => .next s
    | some pa =>
      let u := outUnit pa n.toNat
      if s.outBusy u || s.outAsked u then outAsk s t p f u none else finish (s.outHalt u none) t p

/-- Entries a queue of a string holds at most (R381). -/
def oqSize : Nat := 64

def execOpush (f : BitVec 1) (n : BitVec 2) (a : BitVec 6) (c : BitVec 3) (s : State) : Out :=
  issued (.opush f n a c) s fun t p =>
    match s.str? t.bound with
    | none => .next s
    | some b =>
      let q := tget [] b.oq n.toNat
      let new := (List.range (c.toNat + 1)).map (fun k => (t.sget (a.toNat + k), t.sw (a.toNat + k) ||| p.flow))
      if oqSize < q.length + new.length then waitOn s t p
      else finish (s.putStr t.bound { b with oq := tset [] b.oq n.toNat (q ++ new) }) t p

end Sys2Proof.Machine
end

