-- ==== Sys2Proof/Machine/Matrix.lean ====
section
/-! DEFINITION. What the matrix and carrier units compute (R393 to R407, R422): one commit unit of each operation. -/

namespace Sys2Proof.Machine

/-! ### Scratchpad as an engine sees it -/

/-- The first byte of a party's scratchpad in its core's storage. -/
def State.spBase (s : State) (party : Nat) : Nat := ((tfind s.sch.parties party).map (fun p => p.core * 2 ^ 20 + p.spBase)).getD 0

/-- Cut n bytes from an address at the boundaries of a unit. -/
def cutBy (unit : Nat) : Nat → Nat → Nat → List (Nat × Nat)
  | 0, _, _ => []
  | f + 1, a, n =>
    if n = 0 then []
    else
      let k := min n (unit - a % unit)
      (a, k) :: cutBy unit f (a + k) (n - k)

/-- The pieces of n bytes. -/
def cuts (unit a n : Nat) : List (Nat × Nat) := cutBy unit (n / unit + 2) a n

/-- Note that an operation has written n bytes from address a of its destination, in a unit of sz bytes of a kind. The waybill the unit takes is
answered where the operation has now written the whole of it: the union of what it wrote there; till then the unit's waybill grows (R422, R428). lo
and hi bound the part of the destination that the operation writes without a gap (DEDUCED, log 41). -/
def State.cover (s : State) (e : Eng) (kind sz a n lo hi : Nat) (wb : Waybill) : Option Waybill × State :=
  let u := a / sz
  if u * sz < lo ∨ hi < u * sz + sz then (none, s)
  else
    let all := 2 ^ sz - 1
    let bits := (2 ^ n - 1) * 2 ^ (a % sz)
    match s.eng.queue.find? (fun x => x.2.unit == e.unit && x.2.core == e.core && x.2.idx == e.idx) with
    | none => (if bits = all then some wb else none, s)
    | some (op, x) =>
      let (m, w) := tget (0, 0) x.parts (4 * u + kind)
      let m := m ||| bits
      let w := w ||| wb
      let parts := if m = all then terase x.parts (4 * u + kind) else tput x.parts (4 * u + kind) (m, w)
      (if m = all then some w else none, { s with eng := { s.eng with queue := tput s.eng.queue op { x with parts := parts } } })

/-- Write bytes to on-chip storage block by block (R90, R428); `own` is the first byte's address in the destination's own numbering. -/
def State.chipWrite (s : State) (e : Eng) (space phys v n : Nat) (wb : Waybill) (own lo hi : Nat) : State :=
  (cuts 256 phys n).foldl (fun s c =>
    let r : LaneReq := ⟨0, c.1, c.2, v / 256 ^ (c.1 - phys) % 256 ^ c.2, 0⟩
    match (s.chipStore space (c.1 / 256) 0 [r] wb).cover e 0 256 (own + (c.1 - phys)) c.2 lo hi wb with
    | (some w, s) => s.setChipWb space (c.1 / 256) w
    | (none, s) => s) s

/-- The first poisoned byte of a range, as an offset in it (R91). -/
def State.chipBad (s : State) (space phys n : Nat) : Option Nat :=
  ((cuts 64 phys n).find? (fun c => s.chipPoison space (c.1 / 64))).map (fun c => c.1 - phys)

/-- What one unit of an operation comes to. -/
inductive UnitRes where
  /-- committed, with the flags it raises -/
  | ok (s : State) (flags : Word)
  /-- not now: it is tried again -/
  | wait (s : State)
  /-- a remote page: its address, PSIZE, whether ownership is wanted, and the access -/
  | park (s : State) (va size : Nat) (own : Bool) (acc : Nat)
  /-- a fault or poison: the report -/
  | bad (s : State) (r : Report)
  /-- device or unpopulated space -/
  | stop (o : Out)

/-- A report of an entry. -/
def Eng.report (e : Eng) (cause : Nat) (addr : Nat) (ti rf gt : Word) (ws : Byte) : Report :=
  ⟨e.unit, e.idx, cause, cause == cPOISON, BitVec.ofNat 64 addr, ti, rf, gt, ws⟩

/-- The report of poison read in scratchpad at a party's offset. -/
def Eng.poisoned (e : Eng) (off : Nat) : Report := e.report cPOISON off (tinfoWord 0 0 0 0 aEngRead) 0 0 0

/-- The k-th operand of an entry. -/
def Eng.val (e : Eng) (k : Nat) : Nat := e.vals.getD k 0

/-- The k-th tile of an entry. -/
def Eng.tile (e : Eng) (k : Nat) : Nat := e.tiles.getD k 0

/-! ### Entries and rows -/

/-- An entry read as A40 (R205) and as P56. -/
def Tile.a40 (t : Tile) (i j : Nat) : Nat := (tget 0 t.e (64 * i + j)).toNat % 2 ^ 40
def Tile.p56 (t : Tile) (i j : Nat) : Int := signedOf 56 (tget 0 t.e (64 * i + j)).toNat

/-- Replace a row of entries. -/
def Tile.putRow (t : Tile) (i : Nat) (f : Nat → Dword) : Tile :=
  { t with e := t.e.filter (fun x => decide (x.1 < 64 * i)) ++
      (List.range 64).filterMap (fun j => if f j = 0 then none else some (64 * i + j, f j)) ++
      t.e.filter (fun x => decide (64 * i + 64 ≤ x.1)) }

/-- The statistics of a row. -/
def Tile.mAt (t : Tile) (i : Nat) : Nat := (tget mInf t.m i).toNat
def Tile.lAt (t : Tile) (i : Nat) : Nat := (tget 0 t.l i).toNat
def Tile.putM (t : Tile) (i v : Nat) : Tile := { t with m := tset mInf t.m i (BitVec.ofNat 40 v) }
def Tile.putL (t : Tile) (i v : Nat) : Tile := { t with l := tset 0 t.l i (BitVec.ofNat 40 v) }
def Tile.putZ (t : Tile) (i : Nat) (b : Bool) : Tile :=
  { t with z := (t.z &&& ~~~BitVec.ofNat 64 (2 ^ i)) ||| (if b then BitVec.ofNat 64 (2 ^ i) else 0) }

/-- OR the flags of 64 results, and keep the results. -/
def rowOf (f : Nat → Nat × Word) : List Nat × Word :=
  let r := (List.range 64).map f
  (r.map Prod.fst, r.foldl (fun w x => w ||| x.2) 0)

def dw (l : List Nat) (j : Nat) : Dword := BitVec.ofNat 64 (l.getD j 0)

/-! ### Products (R214 to R218, R393) -/

/-- The 32 codes of K-block kb of a line. -/
def blockCodes (fmt kb : Nat) (v : Nat) : List Nat :=
  if fmt = 0 then (List.range 32).map (fun k => v / 2 ^ (16 * (32 * kb + k)) % 65536)
  else (List.range 32).map (fun k => v / 2 ^ (8 * (32 * kb + k)) % 256)

/-- A BF16 element: the exact sum of the accumulator and 32 exact products, rounded once (R217). -/
def bfElem (acc : Nat) (a b : List Nat) : Nat × Word :=
  let ps := a.zipWith (fun x y => mulVal (unpackF fBF16 x) (unpackF fBF16 y)) b
  a40Sum (unpackF fA40 acc :: ps.map Prod.fst) (ps.any Prod.snd)

/-- The logarithmic formats of A and B: .l8, .l6, .l8l6, .l6l8. -/
def logOf (six : Bool) (c : Nat) : Option (Bool × Int) := if six then l6Code c else l8Code c

/-- A P56 block partial (R215). -/
def logElem (fmt : Nat) (a b : List Nat) : Int :=
  (a.zipWith (fun x y => lprod (logOf (fmt == 2 || fmt == 4) x) (logOf (fmt == 2 || fmt == 3) y)) b).foldl (· + ·) 0

/-- One element of a product. -/
def mmaElem (fmt acc : Nat) (a b : List Nat) : Nat × Word :=
  if fmt = 0 then bfElem acc a b else ((BitVec.ofInt 64 (logElem fmt a b)).toNat, 0)

/-- Line n of an operand, one K-block of it: the codes, its poisoned byte and its waybill. -/
def State.opLine (s : State) (party : Nat) (d : Dword) (fmt kb n : Nat) : List Nat × Option Nat × Waybill :=
  let w := if fmt = 0 then 64 else 32
  let off := dBase d + n * dStride d + kb * w
  let ph := s.spBase party + off
  (blockCodes fmt 0 (s.chipGet 1 ph w), (s.chipBad 1 ph w).map (fun x => off + x), s.rangeWb 1 ph w)

/-- One K-block into one tile, with A lines from `a0`. -/
def mmaTile (fmt : Nat) (t : Tile) (as bs : List (List Nat)) : Tile × Word :=
  let r := (List.range 64).map (fun i => rowOf (fun j =>
    mmaElem fmt ((tget 0 t.e (64 * i + j)).toNat % 2 ^ 40) (as.getD i []) (bs.getD j [])))
  ({ t with e := (List.range 4096).filterMap (fun k =>
      let v := BitVec.ofNat 64 (((r.getD (k / 64) ([], 0)).1).getD (k % 64) 0)
      if v = 0 then none else some (k, v)) }, r.foldl (fun w x => w ||| x.2) 0)

/-- Do two descriptors agree in CV, CIDX, BASE, STRIDE, KB and MTAG (R395)? -/
def dAgree (w : Nat) (d : Dword) : Bool := w / 2 ^ 40 % 2 ^ 20 == d.toNat / 2 ^ 40 % 2 ^ 20 && w % 2 ^ 36 == d.toNat % 2 ^ 36

/-- Matched operations of the convoy that wait for the block of an operand (R395). -/
def State.sharers (s : State) (op : Nat) (e : Eng) (d : Dword) (party : Nat) : List Nat :=
  let head := fun (x : Nat × Eng) => !s.eng.queue.any (fun y => y.2.on 0 x.2.core && decide (y.1 < x.1))
  let same := fun (w : Nat) (p : Nat) => dAgree w d && p == party
  if dTag d = 0 then []
  else (s.eng.queue.filter (fun x => x.1 != op && x.2.unit == 0 && (x.2.code == 0x4B || x.2.code == 0x4C) && x.2.world == e.world &&
    x.2.core / 8 == e.core / 8 && x.2.done == e.done && head x &&
    (same (x.2.val 2) (x.2.val 3) || same (x.2.val 4) (x.2.val 5)))).map Prod.fst

/-- Count a transfer of a block over the convoy network in sys.mcstat (R395, R423). -/
def State.countTransfer (s : State) (op : Nat) (e : Eng) (which : Nat) (d : Dword) (party : Nat) : State :=
  let holder := ((tfind s.sch.parties party).map (fun p => p.core)).getD e.core
  let tag := e.done * 2 + which
  if !d.getLsbD 59 || holder == e.core || e.acked.contains tag then s
  else
    let bump := fun (s : State) c hi => { s with eng := { s.eng with mcstat := tset 0 s.eng.mcstat c (bumpHalf (tget 0 s.eng.mcstat c) hi) } }
    (s.sharers op e d party).foldl (fun s o =>
      match tfind s.eng.queue o with
      | none => s
      | some x =>
        let w := if dAgree (x.val 2) d ∧ x.val 3 = party then 0 else 1
        let s := { s with eng := { s.eng with queue := tput s.eng.queue o { x with acked := x.acked ++ [x.done * 2 + w] } } }
        bump s x.core true) (bump s holder false)

/-- A K-block of MMA or MMAP. -/
def mmaUnit (s : State) (op : Nat) (e : Eng) : UnitRes :=
  let fmt := e.val 0
  let da : Dword := BitVec.ofNat 64 (e.val 2)
  let db : Dword := BitVec.ofNat 64 (e.val 4)
  let na := if e.code = 0x4C then 128 else 64
  let as := (List.range na).map (fun i => s.opLine (e.val 3) da fmt e.done i)
  let bs := (List.range 64).map (fun j => s.opLine (e.val 5) db fmt e.done j)
  match (as ++ bs).findSome? (fun x => x.2.1) with
  | some off => .bad s (e.poisoned off)
  | none =>
    let w := (as ++ bs).foldl (fun w x => w ||| x.2.2) e.wb
    let s := (s.countTransfer op e 0 da (e.val 3)).countTransfer op e 1 db (e.val 5)
    let go := fun (s : State) (k a0 : Nat) =>
      let t := s.tile k
      let r := mmaTile fmt t ((as.drop a0).map Prod.fst) (bs.map Prod.fst)
      (s.setTile k { r.1 with wb := t.wb ||| w }, r.2)
    let (s, f) := go s (e.tile 0) 0
    if e.code = 0x4C then
      let (s, g) := go s (e.tile 1) 64
      .ok s (f ||| g)
    else .ok s f

/-! ### Rows -/

/-- MSCA, row i (R396). -/
def mscaRow (s : State) (e : Eng) (i : Nat) : UnitRes :=
  let b := s.spBase e.party
  match s.chipBad 1 (b + e.val 0) 64, s.chipBad 1 (b + e.val 1) 64 with
  | some x, _ => .bad s (e.poisoned (e.val 0 + x))
  | none, some x => .bad s (e.poisoned (e.val 1 + x))
  | none, none =>
    let d := s.tile (e.tile 0)
    let p := s.tile (e.tile 1)
    let sa := s.chipGet 1 (b + e.val 0 + i) 1
    let (r, f) := rowOf (fun j => mscaValue (d.a40 i j) (p.p56 i j) sa (s.chipGet 1 (b + e.val 1 + j) 1))
    let w := d.wb ||| p.wb ||| s.rangeWb 1 (b + e.val 0) 64 ||| s.rangeWb 1 (b + e.val 1) 64 ||| e.wb
    .ok (s.setTile (e.tile 0) { d.putRow i (dw r) with wb := w }) f

/-- MZERO, row i; the last row of .all leaves W alone (R397, R422). -/
def mzeroRow (s : State) (e : Eng) (i : Nat) : UnitRes :=
  let t := (s.tile (e.tile 0)).putRow i (fun _ => 0)
  let all := e.val 0 == 1
  let t := if all then ((t.putM i mInf.toNat).putL i 0).putZ i false else t
  .ok (s.setTile (e.tile 0) { t with wb := if all && i == 63 then e.wb else t.wb ||| e.wb }) 0

/-- One element read by MLD (R398). -/
def mldElem (fmt v : Nat) : Nat × Word :=
  match fmt with
  | 0 => (v, 0)
  | 1 => convF fF32 fA40 0 v
  | _ => convF fBF16 fA40 0 v

/-- One element written by MST. -/
def mstElem (fmt v : Nat) : Nat × Word :=
  match fmt with
  | 0 => (v, 0)
  | 1 => convF fA40 fF32 0 (v % 2 ^ 40)
  | _ => convF fA40 fBF16 0 (v % 2 ^ 40)

def mldRow (s : State) (e : Eng) (i : Nat) : UnitRes :=
  let sz := tileElem (e.val 0)
  let off := e.val 1 + i * e.val 2
  let ph := s.spBase e.party + off
  match s.chipBad 1 ph (64 * sz) with
  | some x => .bad s (e.poisoned (off + x))
  | none =>
    let t := s.tile (e.tile 0)
    let (r, f) := rowOf (fun j => mldElem (e.val 0) (s.chipGet 1 (ph + j * sz) sz))
    .ok (s.setTile (e.tile 0) { t.putRow i (dw r) with wb := t.wb ||| s.rangeWb 1 ph (64 * sz) ||| e.wb }) f

def mstRow (s : State) (e : Eng) (i : Nat) : UnitRes :=
  let sz := tileElem (e.val 0)
  let ph := s.spBase e.party + e.val 1 + i * e.val 2
  let t := s.tile (e.tile 0)
  let (r, f) := rowOf (fun j => mstElem (e.val 0) (tget 0 t.e (64 * i + j)).toNat)
  let v := r.foldr (fun x acc => x % 256 ^ sz + 256 ^ sz * acc) 0
  let own := e.val 1 + i * e.val 2
  let run := if e.val 2 ≤ 64 * sz then (e.val 1, e.val 1 + 63 * e.val 2 + 64 * sz) else (own, own + 64 * sz)
  .ok (s.chipWrite e 1 ph v (64 * sz) (t.wb ||| e.wb) own run.1 run.2) f

/-- MSTAT, row i (R399). -/
def mstatRow (s : State) (e : Eng) (i : Nat) : UnitRes :=
  let t := s.tile (e.tile 0)
  let off := e.val 1 + 16 * i
  let ph := s.spBase e.party + off
  match e.val 0 with
  | 0 =>
    let v := t.mAt i + (if t.z.getLsbD i then 2 ^ 63 else 0) + t.lAt i * 2 ^ 64
    .ok (s.chipWrite e 1 ph v 16 (t.wb ||| e.wb) off (e.val 1) (e.val 1 + 1024)) 0
  | 1 =>
    match s.chipBad 1 ph 16 with
    | some x => .bad s (e.poisoned (off + x))
    | none =>
      let v := s.chipGet 1 ph 16
      let t' := ((t.putM i (v % 2 ^ 40)).putL i (v / 2 ^ 64 % 2 ^ 40)).putZ i (v / 2 ^ 63 % 2 == 1)
      .ok (s.setTile (e.tile 0) { t' with wb := t.wb ||| s.rangeWb 1 ph 16 ||| e.wb }) 0
  | _ =>
    let t' := ((t.putM i mInf.toNat).putL i 0).putZ i false
    .ok (s.setTile (e.tile 0) { t' with wb := t.wb ||| e.wb }) 0

/-! ### Softmax (R400 to R403, R219 to R221) -/

/-- A product rounded once to A40. -/
def a40Mul (a b : FVal) : Nat × Word :=
  let (p, iv) := mulVal a b
  let (r, f) := packF fA40 0 false p
  (r, f ||| (if iv || p.isSNan then flIV else 0))

/-- The rescaling factor from one maximum to another. -/
def rescale (m mn : Nat) : Nat × Word :=
  if m = mInf.toNat ∧ mn = mInf.toNat then (0x3F80000000, 0)
  else
    let (v, f) := expOf (unpackF fA40 m) (unpackF fA40 mn)
    let (r, g) := packF fA40 0 false v
    (r, f ||| g)

/-- One element of P in its format, from its argument: round_a40 of exp2_dev (R221), then the format's own rounding (R401). -/
def pElem (l8 : Bool) (x mn : Nat) : Nat × Word :=
  if x = mInf.toNat then (if l8 then 0x80 else 0, 0)
  else
    let (v, f) := expOf (unpackF fA40 x) (unpackF fA40 mn)
    let (a, h) := packF fA40 0 false v
    let (r, g) := if l8 then toLog 7 8 (unpackF fA40 a) else packF fBF16 0 true (unpackF fA40 a)
    (r, f ||| h ||| g)

/-- The value a stored P element stands for. -/
def pVal (l8 : Bool) (p : Nat) : FVal := if l8 then logVal (l8Code p) else unpackF fBF16 p

/-- Is element (i, j) masked? -/
def smMasked (mask i j : Nat) (word : Nat) (d : Int) : Bool :=
  match mask with
  | 1 => word.testBit j
  | 2 => decide ((i : Int) + d < (j : Int))
  | _ => false

/-- The maximum of a row with its statistic. -/
def rowMax (m : Nat) (xs : List Nat) : Nat × Word := xs.foldl (fun a x => let r := maxA40 a.1 x; (r.1, a.2 ||| r.2)) (m, 0)

/-- One row of SMXU: the P elements, the new m and l, the new O row and the flags (R401). -/
def smxuCore (l8 : Bool) (xs : List Nat) (m l : Nat) (o : Nat → Nat) : List Nat × Nat × Nat × List Nat × Word :=
  let (mn, f0) := rowMax m xs
  if (unpackF fA40 mn).isNan then
    (xs.map (fun _ => if l8 then 0x80 else 0x7FC0), canonNan fA40, canonNan fA40, (List.range 64).map (fun _ => canonNan fA40),
      f0 ||| (if l8 then flIV else 0))
  else
    let (al, f1) := rescale m mn
    let (ps, f2) := rowOf (fun j => pElem l8 (xs.getD j 0) mn)
    let (pl, iv) := mulVal (unpackF fA40 l) (unpackF fA40 al)
    let (l', f3) := a40Sum (pl :: ps.map (pVal l8)) iv
    let (os, f4) := rowOf (fun j => a40Mul (unpackF fA40 (o j)) (unpackF fA40 al))
    (ps, mn, l', os, f0 ||| f1 ||| f2 ||| f3 ||| f4)

def smxuRow (s : State) (e : Eng) (i : Nat) : UnitRes :=
  let b := s.spBase e.party
  let l8 := e.val 3 == 1
  let mask := e.val 4
  let mo := e.val 2 + 8 * i
  match (if mask = 1 then s.chipBad 1 (b + mo) 8 else none) with
  | some x => .bad s (e.poisoned (mo + x))
  | none =>
    let o := s.tile (e.tile 0)
    let q := s.tile (e.tile 1)
    let word := if mask = 1 then s.chipGet 1 (b + mo) 8 else 0
    let (xs, f0) := rowOf (fun j =>
      if smMasked mask i j word (signedOf 32 (e.val 2)) then (mInf.toNat, 0)
      else a40Mul (unpackF fA40 (q.a40 i j)) (unpackF fF32 (e.val 1)))
    let (ps, mn, l', os, f1) := smxuCore l8 xs (o.mAt i) (o.lAt i) (o.a40 i)
    let w := o.wb ||| q.wb ||| (if mask = 1 then s.rangeWb 1 (b + mo) 8 else 0) ||| e.wb
    let sz := if l8 then 1 else 2
    let v := ps.foldr (fun x acc => x % 256 ^ sz + 256 ^ sz * acc) 0
    let pb := b + e.val 0
    let s := s.chipWrite e 1 (pb + i * 64 * sz) v (64 * sz) w (e.val 0 + i * 64 * sz) (e.val 0) (e.val 0 + 4096 * sz)
    .ok (s.setTile (e.tile 0) { ((o.putRow i (dw os)).putM i mn).putL i l' with wb := w }) (f0 ||| f1)

/-- SMXM, row i (R402). -/
def smxmRow (s : State) (e : Eng) (i : Nat) : UnitRes :=
  let x := s.tile (e.tile 0)
  let y := s.tile (e.tile 1)
  let (mn, f0) := maxA40 (x.mAt i) (y.mAt i)
  let (a1, f1) := rescale (x.mAt i) mn
  let (a2, f2) := rescale (y.mAt i) mn
  let mix := fun (p q : Nat) =>
    let u := mulVal (unpackF fA40 p) (unpackF fA40 a1)
    let v := mulVal (unpackF fA40 q) (unpackF fA40 a2)
    a40Sum [u.1, v.1] (u.2 || v.2)
  let (r, f3) := rowOf (fun j => mix (x.a40 i j) (y.a40 i j))
  let (l', f4) := mix (x.lAt i) (y.lAt i)
  let t := ((x.putRow i (dw r)).putL i l').putM i mn
  .ok (s.setTile (e.tile 0) { t with wb := x.wb ||| y.wb ||| e.wb }) (f0 ||| f1 ||| f2 ||| f3 ||| f4)

/-- An entry divided by a row's l, which is not a zero (R221). -/
def a40Quot (a l : Nat) : Nat × Word :=
  match unpackF fA40 a, unpackF fA40 l with
  | .nan x, y => (canonNan fA40, if x || y.isSNan then flIV else 0)
  | _, .nan y => (canonNan fA40, if y then flIV else 0)
  | .inf _, .inf _ => (canonNan fA40, flIV)
  | .inf n, .fin k _ _ => (infBits fA40 (n != k), 0)
  | .fin n _ _, .inf k => (signBit fA40 (n != k), 0)
  | .fin n m x, .fin k d y => a40Div n m x k d y

/-- SMXN, row i (R403). -/
def smxnRow (s : State) (e : Eng) (i : Nat) : UnitRes :=
  let t := s.tile (e.tile 0)
  let zero := (unpackF fA40 (t.lAt i)).isZero
  let (r, f) := if zero then ([], 0) else rowOf (fun j => a40Quot (t.a40 i j) (t.lAt i))
  let t' := t.putRow i (dw r)
  .ok (s.setTile (e.tile 0) { (if zero then t'.putZ i true else t') with wb := t.wb ||| e.wb }) f

/-! ### Carrier chunks (R404 to R407) -/

/-- The elements (i, j) of an array of n rows that lie in chunk c, and the I words. -/
def chunkElems (n c : Nat) : List (Nat × Nat) :=
  (List.range 256).filterMap (fun k => let i := 4 * c + k / 64; if i < n then some (i, k % 64) else none)
def chunkWords (n c : Nat) : List Nat := (List.range n).filter (fun i => (1024 * n + 8 * i) / 4096 == c)

/-- XCV, chunk c of 17 (R405). -/
def xcvChunk (s : State) (e : Eng) (c : Nat) : UnitRes :=
  let t := s.tile (e.tile 0)
  let b := s.spBase e.party + e.val 0
  let w := signedOf 16 (e.val 1)
  let conv := fun i j => wConv (t.a40 i j) w
  let f := (chunkElems 64 c).foldl (fun f x => f ||| (conv x.1 x.2).2.2) 0
  let s := (chunkElems 64 c).foldl (fun s x =>
    let o := 1024 * x.1 + 16 * x.2
    s.chipWrite e 1 (b + o) (conv x.1 x.2).1.toNat 16 (t.wb ||| e.wb) (e.val 0 + o) (e.val 0) (e.val 0 + 66048)) s
  let s := (chunkWords 64 c).foldl (fun s i =>
    let v := (List.range 64).foldl (fun a j => a + (if (conv i j).2.1 then 2 ^ j else 0)) 0
    s.chipWrite e 1 (b + 65536 + 8 * i) v 8 (t.wb ||| e.wb) (e.val 0 + 65536 + 8 * i) (e.val 0) (e.val 0 + 66048)) s
  .ok s f

/-- XRND, chunk c of the 8 of the tile: rows 8c to 8c + 7. -/
def xrndChunk (s : State) (e : Eng) (c : Nat) : UnitRes :=
  let b := s.spBase e.party + e.val 0
  let w := signedOf 16 (e.val 1)
  match s.chipBad 1 (b + 8192 * c) 8192, s.chipBad 1 (b + 65536 + 64 * c) 64 with
  | some x, _ => .bad s (e.poisoned (e.val 0 + 8192 * c + x))
  | none, some x => .bad s (e.poisoned (e.val 0 + 65536 + 64 * c + x))
  | none, none =>
    let t := s.tile (e.tile 0)
    let rows := (List.range 8).map (fun k =>
      let i := 8 * c + k
      let iw := s.chipGet 1 (b + 65536 + 8 * i) 8
      (i, rowOf (fun j => wRound (BitVec.ofNat 128 (s.chipGet 1 (b + 1024 * i + 16 * j) 16)) (iw.testBit j) w)))
    let t' := rows.foldl (fun t r => t.putRow r.1 (dw r.2.1)) t
    let wb := t.wb ||| s.rangeWb 1 (b + 8192 * c) 8192 ||| s.rangeWb 1 (b + 65536 + 64 * c) 64 ||| e.wb
    .ok (s.setTile (e.tile 0) { t' with wb := wb }) (rows.foldl (fun f r => f ||| r.2.2) 0)

/-- XADD, chunk c: destination elements that an unequal source overlaps take free values (R406). -/
def xaddChunk (s : State) (e : Eng) (c : Nat) : UnitRes :=
  let n := e.val 2
  let len := min 4096 (1032 * n - 4096 * c)
  let b := s.spBase e.party
  let db := b + e.val 0
  let sb := b + e.val 1
  match s.chipBad 1 (db + 4096 * c) len, s.chipBad 1 (sb + 4096 * c) len with
  | some x, _ => .bad s (e.poisoned (e.val 0 + 4096 * c + x))
  | none, some x => .bad s (e.poisoned (e.val 1 + 4096 * c + x))
  | none, none =>
    let hitBy := fun a k => db != sb && decide (sb < a + k) && decide (a < sb + 1032 * n)
    let wb := s.rangeWb 1 (sb + 4096 * c) len ||| e.wb
    let s1 := (chunkElems n c).foldl (fun (r : State) x =>
      let o := 1024 * x.1 + 16 * x.2
      let v := if hitBy (db + o) 16 then freeBytes (s.fresh + o % 4096) 16 else (s.chipGet 1 (db + o) 16 + s.chipGet 1 (sb + o) 16) % 2 ^ 128
      r.chipWrite e 1 (db + o) v 16 wb 0 0 0) s
    let s2 := (chunkWords n c).foldl (fun (r : State) i =>
      let o := 1024 * n + 8 * i
      let v := if hitBy (db + o) 8 then freeBytes (s.fresh + o % 4096) 8 else s.chipGet 1 (db + o) 8 ||| s.chipGet 1 (sb + o) 8
      r.chipWrite e 1 (db + o) v 8 wb 0 0 0) s1
    .ok { s2 with fresh := s.fresh + 4096 } 0

/-! ### Carrier puts (R407) -/

/-- What one carrier put does at its destination's home: S is added modulo 2^128 and the I bit ORed into the row's word. Code, reason and the lines it
wrote. -/
def State.putAt (s : State) (peer w : Nat) (off word bit v : Nat) (inv : Bool) (wb : Waybill) : Nat × Nat × List Nat × State :=
  let bad := fun (c q : Nat) (s : State) => ((c, q, [], s) : Nat × Nat × List Nat × State)
  let m := inboundOp 3 16 0
  match s.inboundPlace w off m.acc with
  | (.error d, s) => bad d.code d.reason (s.inboundDecline peer w m.acc d wb)
  | (.ok x, s) =>
    match s.inboundPlace w word m.acc with
    | (.error d, s) => bad d.code d.reason (s.inboundDecline peer w m.acc d wb)
    | (.ok y, s) =>
      let out := fun (z : Xlat) n => inboundParts s w { m with kind := .store } z n wb
      let deny := fun (s : State) c => s.inboundDecline peer w m.acc ⟨c, 0, s.targetVa w off, x.size, false⟩ wb
      match s.gate (out x 16 ++ (if x.owner = y.owner then [] else out y 8)) with
      | .error (_, _, s) => bad cEGRESS 0 (deny s cEGRESS)
      | .ok s =>
        let s := (s.homeLine x).homeLine y
        if s.homePoison x [⟨0, off, 16, 0, 0⟩] || (inv && s.homePoison y [⟨0, word, 8, 0, 0⟩]) then
          bad cPOISON 0 (deny s cPOISON)
        else
          let rd := { inboundOp 0 16 0 with size := 16 }
          let (old, _, s) := s.homeAccess rd x ⟨0, x.gpa, 16, 0, 0⟩ 0
          let (_, _, s) := s.homeAccess { inboundOp 1 16 0 with size := 16 } x ⟨0, x.gpa, 16, (old + v) % 2 ^ 128, 0⟩ wb
          let (ow, _, s) := s.homeAccess { rd with size := 8 } y ⟨0, y.gpa, 8, 0, 0⟩ 0
          let nw := if inv then ow ||| 2 ^ bit else ow
          let (_, _, s) := s.homeAccess { inboundOp 1 8 0 with size := 8 } y ⟨0, y.gpa, 8, nw, 0⟩ wb
          (0, 0, [x.gpa / 128, y.gpa / 128], s)

/-- The elements of chunk c of an XPUT that are neither acknowledged nor on their way: 256 elements a chunk. -/
def xputLeft (s : State) (e : Eng) (c : Nat) : List Nat :=
  let sent := e.asks.filterMap (fun id => (tfind s.fab.rems id).map (fun r => r.tag % 4096))
  ((List.range 256).map (fun k => 256 * c + k)).filter (fun k =>
    decide (k < 64 * e.val 2) && !e.acked.contains k && !sent.contains k)

/-- Send the puts of a chunk (R407): the element k's put names its offset, its I word and its bit. A put is an unacknowledged remote write of the issuing
path; one toward the package itself is performed at once, and answered as a peer would answer (R183). -/
def xputSend (s : State) (op : Nat) (e : Eng) : List Nat → State
  | [] => s
  | k :: t =>
    let n := e.val 2
    let b := s.spBase e.party + e.val 0
    let i := k / 64
    let j := k % 64
    let inv := (s.chipGet 1 (b + 1024 * n + 8 * i) 8).testBit j
    let v := s.chipGet 1 (b + 16 * k) 16
    let wb := e.wb ||| s.rangeWb 1 (b + 16 * k) 16 ||| s.rangeWb 1 (b + 1024 * n + 8 * i) 8
    let off := e.val 1 + 16 * k
    let word := e.val 1 + 1024 * n + 8 * i
    if e.val 3 = s.me then
      let (c, q, lines, s) := s.putAt s.me e.world off word j v inv wb
      match tfind s.eng.queue op with
      | none => s
      | some x =>
        let x := { x with acked := x.acked ++ [k] }
        let s := { s with eng := { s.eng with queue := tput s.eng.queue op x } }
        let s := lines.foldl (fun s l => s.l1Forget e.core e.world l) s
        xputSend (if c = 0 then s else s.nackPost s.nextOp ⟨s.me, .eng op, 3, e.world, off, [], s.time, 0, []⟩ c q e.who e.pid) op x t
    else
      let id := s.nextOp
      let r : LaneReq := ⟨0, off, 16, v, 0⟩
      let s := { s.takeOp with fab := { s.fab with rems := tput s.fab.rems id ⟨e.val 3, .eng op, 3, e.world, off, [r], s.time, e.launch * 4096 + k, []⟩ } }
      let s := s.onStr e.who (fun t => { t with unacked := t.unacked ++ [(e.pid, id)] })
      let s := (s.sendFlit (e.val 3) ⟨20, [id, e.world, wb.toNat, off, word, j, v, if inv then 1 else 0], bytesOf 16 v⟩).outAdd e.launch 1
      match tfind s.eng.queue op with
      | none => s
      | some x =>
        let x := { x with asks := x.asks ++ [id] }
        xputSend { s with eng := { s.eng with queue := tput s.eng.queue op x } } op x t

end Sys2Proof.Machine
end

