-- ==== Sys2Proof/Machine/Porter.lean ====
section
/-! DEFINITION. The porter's chunks (R409 to R414, R433), the commit of every engine operation (R263, R386, R387, R420), its end (R389,
R391, R414, R416), reports (R264, R421) and restarts. -/

namespace Sys2Proof.Machine

/-! ### Where bytes lie -/

/-- A located piece of a transfer: on chip, or a line of global memory. -/
inductive ELoc where
  | chip (space phys : Nat)
  | glob (x : Xlat) (va : Nat)

/-- A virtual address from a number modulo 2^64. -/
def vaOf (a : Nat) : Nat := a % 2 ^ 64

/-- The report of a translation trap of an engine (R40, R413). -/
def Eng.xreport (e : Eng) (f : XFault) (va acc : Nat) : Report := e.report f.cause va (tinfoWord 0 f.reason f.level f.stage acc) 0 0 0

/-- Translate the pieces of a global range in order. -/
def locGlob (e : Eng) (acc : Nat) : List (Nat × Nat) → State → List (ELoc × Nat) × Option UnitRes × State
  | [], s => ([], none, s)
  | (a, n) :: t, s =>
    if !canonical (BitVec.ofNat 64 a) then ([], some (.bad s (e.xreport ⟨2, cPROT, 2, 0, 0⟩ a acc)), s)
    else match s.xlate e.core e.world a acc e.level with
      | (.trap f, s) => ([], some (.bad s (e.xreport f a acc)), s)
      | (.park sz own, s) => ([], some (.park s a sz own acc), s)
      | (.ok x, s) =>
        if x.region = .unpopulated then ([], some (.stop (.fault .unpopulated)), s)
        else if x.region = .device then ([], some (.stop (.refused .deviceSpace)), s)
        else
          let (l, r, s) := locGlob e acc t s
          ((.glob x a, n) :: l, r, s)

/-- Locate n bytes at an address of a space. -/
def State.engLoc (s : State) (e : Eng) (acc space a n : Nat) : List (ELoc × Nat) × Option UnitRes × State :=
  if space = 0 then locGlob e acc ((cuts 128 (vaOf a) n).map (fun c => (vaOf c.1, c.2))) s
  else
    let ps := (bySlice space 9 a n).map (fun x => (x, s.chipAt e.party (e.launch / 512) e.core space x.1 x.2))
    match ps.find? (fun x => x.2.isNone) with
    | some x => ([], some (.bad s (e.report cPROT x.1.1 (tinfoWord 0 0 0 0 acc) 0 0 0)), s)
    | none => (ps.flatMap (fun x => match x.2 with
        | none => []
        | some ph => (cuts 256 ph.1 x.1.2).map (fun c => (ELoc.chip space c.1, c.2))), none, s)

/-- Is a piece poisoned: how far into it the first poisoned byte lies (R91), and in which host-physical frame? -/
def State.locBad (s : State) (l : ELoc × Nat) : Option (Nat × Option Nat) :=
  match l.1 with
  | .chip sp ph => (s.chipBad sp ph l.2).map (fun k => (k, none))
  | .glob x _ =>
    if lfZero x.leaf ∨ x.region ≠ .hbm then none
    else
      let s := s.homeLine x
      if !s.homePoison x [⟨0, x.gpa, l.2, 0, 0⟩] then none
      else
        (if s.homePoison x [⟨0, x.gpa, min l.2 (64 - x.gpa % 64), 0, 0⟩] then some 0 else some (64 - x.gpa % 64)).map
          (fun k => (k, s.physOf x.ident x.tag x.gpa))

/-- Read a piece: its number, its waybill (R411: from the L2, never the L1). -/
def State.locRead (s : State) (e : Eng) (l : ELoc × Nat) : Nat × Waybill × State :=
  match l.1 with
  | .chip sp ph => (s.chipGet sp ph l.2, s.rangeWb sp ph l.2, s)
  | .glob x va =>
    if lfZero x.leaf then (0, 0, s)
    else
      let s := s.sampleAt e.core e.world 4 x.size (lfHome x.leaf) (s.l2? x.ident x.tag (x.gpa / 128)).isSome x.gpa va
      s.homeAccess { inboundOp 0 l.2 0 with size := l.2 } x ⟨0, x.gpa, l.2, 0, 0⟩ 0

/-- Read pieces in order: the bytes as one number with their count, and the union of waybills. -/
def State.locReads (s : State) (e : Eng) : List (ELoc × Nat) → Nat × Nat × Waybill × State
  | [] => (0, 0, 0, s)
  | l :: t =>
    let (v, w, s) := s.locRead e l
    let (v', n, w', s) := State.locReads s e t
    (v % 256 ^ l.2 + 256 ^ l.2 * v', l.2 + n, w ||| w', s)

/-- Write a piece; the core's L1 drops the line (R149); the waybill of a line or granule that the command has now written whole is the command's (R53,
R422). `at_` is the piece's address in the destination's own numbering, lo and hi as in State.cover. -/
def State.locWrite (s : State) (e : Eng) (l : ELoc × Nat) (v : Nat) (wb : Waybill) (at_ lo hi : Nat) : State :=
  match l.1 with
  | .chip sp ph => s.chipWrite e sp ph v l.2 wb at_ lo hi
  | .glob x va =>
    let s := s.sampleAt e.core e.world 5 x.size (lfHome x.leaf) (s.l2? x.ident x.tag (x.gpa / 128)).isSome x.gpa va
    let (_, _, s) := s.homeAccess { inboundOp 1 l.2 0 with size := l.2 } x ⟨0, x.gpa, l.2, v, 0⟩ wb
    let (gw, s) := (s.l1Forget e.core e.world (x.gpa / 128)).cover e 2 4096 at_ l.2 lo hi wb
    let s := match gw, s.physOf x.ident x.tag x.gpa with
      | some w, some h => s.setGranWb h w
      | _, _ => s
    match s.cover e 1 128 at_ l.2 lo hi wb with
    | (none, s) => s
    | (some w, s) =>
      match s.l2? x.ident x.tag (x.gpa / 128) with
      | some d => s.putL2 x.ident x.tag (x.gpa / 128) { d with wb := w }
      | none => s

/-- Write a number to pieces in order. -/
def State.locWrites (s : State) (e : Eng) (wb : Waybill) (lo hi : Nat) : Nat → Nat → List (ELoc × Nat) → State
  | _, _, [] => s
  | v, a, l :: t => State.locWrites (s.locWrite e l (v % 256 ^ l.2) wb a lo hi) e wb lo hi (v / 256 ^ l.2) (a + l.2) t

/-! ### The gate of a chunk (R413, R432) -/

/-- Pieces of global memory. -/
def globs (ls : List (ELoc × Nat)) : List (Xlat × Nat) := ls.filterMap (fun l => match l.1 with
  | .glob x _ => some (x, l.2)
  | .chip _ _ => none)

/-- What a chunk sends out and takes from other worlds. -/
def State.chunkParts (s : State) (e : Eng) (src dst : List (ELoc × Nat)) (wb : Waybill) : List Egress :=
  let own := fun (l : List (Xlat × Nat)) => (List.range 256).filter (fun o => l.any (fun x => x.1.cross && x.1.region == .hbm && x.1.owner == o))
  let bytes := fun (l : List (Xlat × Nat)) o => (l.filter (fun x => x.1.cross && x.1.region == .hbm && x.1.owner == o)).foldl (fun n x => n + x.2) 0
  let win := (globs dst).filter (fun x => x.1.region == .window)
  (own (globs dst)).map (fun o => (⟨e.world, wb, destWorld o, bytes (globs dst) o⟩ : Egress)) ++
    (if win.isEmpty then [] else [⟨e.world, wb, destFunc 0, win.foldl (fun n x => n + x.2) 0⟩]) ++
    (own (globs src)).map (fun o =>
      (⟨o, ((globs src).filter (fun x => x.1.cross && x.1.owner == o)).foldl (fun w x => w ||| s.homeWb x.1) 0,
        if e.world = 0 then destSteward else destWorld e.world, bytes (globs src) o⟩ : Egress))

/-- The address reported for a refused chunk. -/
def firstVa (ls : List (ELoc × Nat)) : Nat := ((ls.findSome? (fun l => match l.1 with
  | .glob x va => if x.cross || x.region != .hbm then some va else none
  | .chip _ _ => none)).getD 0)

/-! ### One run of a chunk -/

/-- A run of a chunk: where it reads, where it writes, its place in the command's byte stream and its length. -/
structure Run where
  src : Nat
  dst : Nat
  pos : Nat
  n : Nat

/-- The runs of chunk c of CPY, CPY2D or CFILL. -/
def chunkRuns (code d c : Nat) : List Run :=
  let len := cdLen d
  let total := len * cdRuns code d
  (cuts len (4096 * c) (min 4096 (total - 4096 * c))).map (fun x =>
    let r := x.1 / len
    let k := x.1 % len
    if code = 0x59 then ⟨cdFrom d + r * cdFstride d + k, cdTo d + r * cdTstride d + k, x.1, x.2⟩
    else ⟨cdFrom d + k, cdTo d + k, x.1, x.2⟩)

/-- The part of a command's destination without a gap that holds a run: the bounds within which a whole unit is the command's. -/
def dstBounds (code d : Nat) (r : Run) : Nat × Nat :=
  let len := cdLen d
  if code = 0x59 ∨ code = 0x5B then
    if cdTstride d ≤ len then (cdTo d, stridedEnd (cdTo d) (cdTstride d) (cdCount d) len) else (r.dst - r.pos % len, r.dst - r.pos % len + len)
  else (cdTo d, cdTo d + len)

/-- Does a destination byte lie in the command's own source (R411): in the last of its rows that begins no later? -/
def inSource (code d a : Nat) : Bool :=
  if code = 0x5A ∨ cdFsp d ≠ cdTsp d then false
  else
    let (b, st, n, len) := cdSrc code d
    decide (b ≤ a) && decide (a < b + min (n - 1) ((a - b) / st) * st + len)

/-- Bytes of an overlapping destination take free values (DESIGN CHOICE, log 9). -/
def blur (code d fresh dst n v : Nat) : Nat :=
  (List.range n).foldl (fun acc k =>
    acc + (if inSource code d (dst + k) then (Config.freeByte (fresh + k)).toNat else v / 256 ^ k % 256) * 256 ^ k) 0

/-- Does a command's destination overlap its source at all? -/
def overlaps (code d : Nat) : Bool :=
  if code = 0x5A ∨ cdFsp d ≠ cdTsp d then false
  else
    let s := cdSrc code d
    let t := cdDst code d
    decide (s.1 < stridedEnd t.1 t.2.1 t.2.2.1 t.2.2.2) && decide (t.1 < stridedEnd s.1 s.2.1 s.2.2.1 s.2.2.2)

/-- CFILL's bytes of a run (R411). -/
def fillBytes (aux pos n : Nat) : Nat :=
  (List.range n).foldl (fun acc k => acc + aux / 256 ^ ((pos + k) % 8) % 256 * 256 ^ k) 0

/-! ### Granule moves (R433) -/

/-- Is the command a CPY of world 0 between aligned global ranges whose source granules one other world owns? -/
def State.isMove (s : State) (e : Eng) (d : Nat) : Option Nat :=
  if e.code = 0x58 ∧ e.world = 0 ∧ cdFsp d = 0 ∧ cdTsp d = 0 ∧ cdFrom d % 4096 = 0 ∧ cdTo d % 4096 = 0 ∧ cdLen d % 4096 = 0 then
    let w := s.ownerOf (cdFrom d)
    if w ≠ 0 ∧ (List.range (cdLen d / 4096)).all (fun k => s.ownerOf (cdFrom d + 4096 * k) == w) then some w else none
  else none

/-- May the move write a granule: is it unowned or the same world's? -/
def State.moveTo (s : State) (w h : Nat) : Bool :=
  regionOf h == .hbm && !s.inSteward h && (s.ownerOf h == 0 || s.ownerOf h == w)

/-- Move one granule as memory holds it; the core's L1 drops the lines (R149). -/
def State.moveGranule (s : State) (core src dst : Nat) : State :=
  let m := (List.range 32).foldl (fun (m : MemS) k =>
    let a := src / 128 + k
    let b := dst / 128 + k
    let m' := setHbmPoison (putRaw m b (rawLine m a)) b (hbmPoison m a)
    match tfind m.keyed a with
    | some x => { m' with keyed := tput m'.keyed b x }
    | none => { m' with keyed := terase m'.keyed b }) s.mem
  let g := s.gran (src / 4096)
  let o := s.gran (dst / 4096)
  (List.range 32).foldl (fun s k => s.l1Forget core 0 (dst / 128 + k))
    ({ s with mem := m }.setGran (dst / 4096) (granMake (granSealed g) (granOffline o) (granUcount o) (granOwner g) (granWb g)))

/-! ### Endpoints (R108) -/

/-- An entry of a world's endpoint table. -/
def State.endpoint (s : State) (w ep : Nat) : Option (Nat × State) :=
  match s.topPart w with
  | none => none
  | some p =>
    let (b, s) := s.hubBytes (some p) ((s.preg p 0x087).toNat / 32 * 32 + 32 * ep) 32
    some (ofBytes b, s)

def epValid (x : Nat) : Bool := x.testBit 63
def epReg (x : Nat) : Bool := x.testBit 62
def epPorts (x : Nat) : Nat := x / 2 ^ 58 % 16
def epJob (x : Nat) : Nat := x / 2 ^ 80 % 2 ^ 32
def epOrigins (x : Nat) : Waybill := BitVec.ofNat 16 (x / 2 ^ 64)
def epDest (x : Nat) : GDest := destEndpoint (x / 2 ^ 128 % 2 ^ 128) (x / 2 ^ 112 % 65536)

/-- The packets of a transfer with an endpoint, of 4,096 bytes at most (R195): what they answer to, the address and the length, the pair of ports,
ADDR6 and PORT, and the UEC job. -/
def epPackets (kind id x : Nat) (pre : List Nat) (a n : Nat) (bs : List Byte) : List Msg :=
  let ok := (List.range 4).filter (fun k => (epPorts x).testBit k)
  let pair := ok.getD (Config.portPair id % ok.length) 0
  (List.range ((n + 4095) / 4096)).map (fun k =>
    ⟨kind, pre ++ [a + 4096 * k, min 4096 (n - 4096 * k), pair, x / 2 ^ 128 % 2 ^ 128, x / 2 ^ 112 % 65536, epJob x], (bs.drop (4096 * k)).take 4096⟩)

/-- Is an endpoint a registered home of a world: REG = 1, and its ADDR6 and PORT in a valid home entry (R426)? -/
def State.epHome (s : State) (w x : Nat) : Bool :=
  epReg x && match tfind s.tr.origins w with
    | none => false
    | some img => (List.range 64).any (fun h =>
      let y := ofBytes ((img.drop (1536 + 32 * h)).take 32)
      y % 2 == 1 && y / 2 ^ 112 == x / 2 ^ 112 % 2 ^ 144)

/-! ### Requests of a chunk to peers and endpoints (R413) -/

def rfWord (peer reason code : Nat) : Word := BitVec.ofNat 32 (peer % 1024 * 2 ^ 20 + reason % 16 * 2 ^ 16 + code % 256 * 2 ^ 8)

/-- A report of a remote failure. -/
def Eng.rfault (e : Eng) (addr peer reason code : Nat) (acc : Nat) : Report :=
  e.report cRFAULT addr (tinfoWord 0 reason 0 0 acc) (rfWord peer reason code) 0 0

def State.putEng (s : State) (op : Nat) (e : Eng) : State := { s with eng := { s.eng with queue := tput s.eng.queue op e } }

/-- Pieces of 8 bytes of a block. -/
def eights (a n v : Nat) : List LaneReq := (List.range ((n + 7) / 8)).map (fun k => ⟨0, a + 8 * k, 8, v / 256 ^ (8 * k) % 2 ^ 64, 0⟩)

/-- Fill bytes of a chunk's buffer. -/
def fillBuf (buf : List Byte) (pos : Nat) (bs : List Byte) : List Byte := buf.take pos ++ bs ++ buf.drop (pos + bs.length)

/-- Bytes arrive for an entry's chunk. -/
def Eng.arrive (e : Eng) (pos : Nat) (bs : List Byte) (w : Waybill) : Eng :=
  match e.data with
  | some (buf, w0) => { e with data := some (fillBuf buf pos bs, w0 ||| w) }
  | none => e

/-- Note a request of an entry. -/
def State.engAsk (s : State) (op id : Nat) : State :=
  match tfind s.eng.queue op with
  | none => s
  | some e => s.putEng op { e with asks := e.asks ++ [id] }

/-- Ask a peer for the blocks of a chunk; `pos` is where they stand in the chunk. The package itself answers at once (R183). -/
def askPeer (op peer : Nat) (e : Eng) : List (Nat × Nat × Nat) → State → State × Option Report
  | [], s => (s, none)
  | (a, n, pos) :: t, s =>
    let ls : List LaneReq := [⟨0, a, n, 0, 0⟩]
    if peer = s.me then
      let (r, s) := s.inbound peer 0 e.world 0 ls e.wb
      let s := s.refreshOwn e.core e.world r
      if r.code ≠ 0 then (s, some (e.rfault a peer r.reason r.code aEngRead))
      else
        let s := match tfind s.eng.queue op with
          | none => s
          | some x => s.putEng op (x.arrive pos (r.vals.flatMap (fun v => bytesOf n v.2)) r.wb)
        askPeer op peer e t s
    else
      let id := s.nextOp
      askPeer op peer e t ((s.sendReq peer 0 e.world 0 (.eng op) ls e.wb pos).engAsk op id)

/-- Send a chunk's blocks to a peer; each counts until it is acknowledged (R282). -/
def tellPeer (op peer : Nat) (e : Eng) (wb : Waybill) : List (Nat × Nat × Nat) → State → State × Option Report
  | [], s => (s, none)
  | (a, n, v) :: t, s =>
    let ls : List LaneReq := [⟨0, a, n, v % 256 ^ n, 0⟩]
    if peer = s.me then
      let (r, s) := s.inbound peer 1 e.world 0 ls wb
      let s := (r.place.map (fun x => s.l1Forget e.core e.world (x.gpa / 128))).getD s
      if r.code ≠ 0 then (s, some (e.rfault a peer r.reason r.code aEngWrite)) else tellPeer op peer e wb t s
    else
      let id := s.nextOp
      tellPeer op peer e wb t (((s.sendReq peer 1 e.world 0 (.eng op) ls wb (e.launch * 4096)).engAsk op id).outAdd e.launch 1)

/-- A transfer with an endpoint: to the outside, and noted as a request (kind 5 read, 6 write). -/
def State.epSend (s : State) (op ep x : Nat) (e : Eng) (kind a n pos : Nat) (bs : List Byte) : State :=
  let id := s.nextOp
  let tag := if kind = 5 then pos else e.launch * 4096
  let s := { s.takeOp with
    fab := { s.fab with rems := tput s.fab.rems id ⟨1024 + ep, .eng op, kind, e.world, a, [⟨0, a, n, 0, 0⟩], s.time, tag, []⟩ }
    outbox := s.outbox ++ epPackets 12 id x [id, kind, e.world, ep] a n bs }
  let s := if kind = 6 then s.outAdd e.launch 1 else s
  s.engAsk op id

/-! ### One chunk -/

/-- What the source of a chunk is, once it can be read: the bytes, their waybill, and where local ones lie. -/
inductive Source where
  | stop (r : UnitRes)
  | got (s : State) (v n : Nat) (wb : Waybill) (locs : List (ELoc × Nat))

/-- Locate the runs of a chunk in one space, in order. -/
def State.locRuns (s : State) (e : Eng) (acc space : Nat) (f : Run → Nat) : List Run → List (List (ELoc × Nat)) × Option UnitRes × State
  | [] => ([], none, s)
  | r :: t =>
    match s.engLoc e acc space (f r) r.n with
    | (_, some u, s) => ([], some u, s)
    | (l, none, s) =>
      let (ls, u, s) := State.locRuns s e acc space f t
      (l :: ls, u, s)

/-- The first poisoned byte among located pieces from an address on, in the source's numbering, and its frame. -/
def State.piecesBad (s : State) : Nat → List (ELoc × Nat) → Option (Nat × Option Nat)
  | _, [] => none
  | a, l :: m =>
    match s.locBad l with
    | some (k, h) => some (a + k, h)
    | none => State.piecesBad s (a + l.2) m

/-- The POISON report of the first poisoned byte among located runs, counted on its frame's newest record (R91, R93). -/
def State.runsBad (s : State) (e : Eng) (rs : List (Nat × List (ELoc × Nat))) : Option UnitRes :=
  (rs.findSome? (fun r => s.piecesBad r.1 r.2)).map (fun x =>
    .bad ((x.2.map s.countConsumer).getD s) (e.poisoned x.1))

/-- The egress of a request to an unattested peer (R432). -/
def State.peerPart (s : State) (e : Eng) (peer n : Nat) (wb : Waybill) : List Egress :=
  if s.attestedFor e.world peer then [] else [⟨e.world, wb, destPackage peer, n⟩]

/-- The report of a refused chunk. -/
def Eng.egress (e : Eng) (addr acc : Nat) (g : Word) : Report := e.report cEGRESS addr (tinfoWord 0 0 0 0 acc) 0 g 0

/-- Blocks of 128 bytes of the runs: address, length, place in the chunk. -/
def runBlocks (f : Run → Nat) (base : Nat) (rs : List Run) : List (Nat × Nat × Nat) :=
  rs.flatMap (fun r => (cuts 128 (f r) r.n).map (fun c => (c.1, c.2, r.pos - base + (c.1 - f r))))

/-- Bytes of a chunk that a peer or an endpoint supplies: asked for once, then waited for (DEDUCED, log 43). -/
def askChunk (s : State) (op : Nat) (e : Eng) (d : Nat) (rs : List Run) (n : Nat) : UnitRes :=
  let base := (rs.head?.map (fun r => r.pos)).getD 0
  let s := s.putEng op { e with st := 2, data := some (List.replicate n 0, 0), asks := [] }
  let addr := (rs.head?.map (fun r => r.src)).getD 0
  if cdFsp d = 4 then
    let peer := cdPeer d % 1024
    if !s.reaches peer then .bad s (e.report cUNREACH addr (tinfoWord 0 0 0 0 aEngRead) (rfWord peer 0 0) 0 0)
    else match if peer = s.me then s.nowhereAt e.world aEngRead ((runBlocks (fun r => r.src) base rs).map Prod.fst) else none with
    | some o => .stop o
    | none => match s.gate (s.peerPart e peer n e.wb) with
      | .error (_, g, s) => .bad s (e.egress addr aEngRead g)
      | .ok s =>
        match askPeer op peer e (runBlocks (fun r => r.src) base rs) s with
        | (s, some r) => .bad s r
        | (s, none) => .wait s
  else
    match s.endpoint e.world (cdPeer d) with
    | none => .bad s (e.rfault addr 0 0 0x28 aEngRead)
    | some (x, s) =>
      if !epValid x then .bad s (e.rfault addr 0 0 0x28 aEngRead)
      else if epPorts x = 0 then .bad s (e.report cUNREACH addr (tinfoWord 0 0 0 0 aEngRead) 0 0 0)
      else .wait (rs.foldl (fun s r => s.epSend op (cdPeer d) x e 5 r.src r.n (r.pos - base) []) s)

/-- The bytes of a chunk of CPY, CPY2D or CFILL. -/
def chunkSource (s : State) (op : Nat) (e : Eng) (d : Nat) (rs : List Run) (n : Nat) : Source :=
  if e.code = 0x5A then
    .got s (rs.foldr (fun r acc => fillBytes (cdAux d) r.pos r.n + 256 ^ r.n * acc) 0) n 0 []
  else if 4 ≤ cdFsp d then
    match e.data with
    | none => .stop (askChunk s op e d rs n)
    | some (buf, w) => if e.asks ≠ [] then .stop (.wait s) else .got s (ofBytes buf) n w []
  else
    match s.locRuns e aEngRead (cdFsp d) (fun r => r.src) rs with
    | (_, some u, _) => .stop u
    | (ls, none, s) =>
      match s.runsBad e ((rs.map (fun r => r.src)).zip ls) with
      | some u => .stop u
      | none =>
        let (v, k, w, s') := s.locReads e ls.flatten
        .got s' v k w ls.flatten

/-- Write a chunk's bytes to local runs. -/
def writeRuns (e : Eng) (d : Nat) (wb : Waybill) : Nat → List (Run × List (ELoc × Nat)) → State → State
  | _, [], s => s
  | v, (r, ls) :: t, s =>
    let x := v % 256 ^ r.n
    let (x, s) := if overlaps e.code d then (blur e.code d s.fresh r.dst r.n x, { s with fresh := s.fresh + r.n }) else (x, s)
    let b := dstBounds e.code d r
    writeRuns e d wb (v / 256 ^ r.n) t (s.locWrites e wb b.1 b.2 x r.dst ls)

/-- Blocks of the destination with their bytes. -/
def valBlocks (base v : Nat) (bs : List (Nat × Nat × Nat)) : List (Nat × Nat × Nat) :=
  bs.map (fun b => (b.1, b.2.1, v / 256 ^ (b.2.2 - base) % 256 ^ b.2.1))

/-- Send a chunk to a peer or an endpoint; it commits when every write is acknowledged (R387). -/
def tellChunk (s : State) (op : Nat) (e : Eng) (d : Nat) (rs : List Run) (v n : Nat) (wb : Waybill) (locs : List (ELoc × Nat)) : UnitRes :=
  let base := (rs.head?.map (fun r => r.pos)).getD 0
  let addr := (rs.head?.map (fun r => r.dst)).getD 0
  let blocks := valBlocks 0 v (runBlocks (fun r => r.dst) base rs)
  let mark := fun (s : State) => s.putEng op { e with st := 2, data := some ([], 0), asks := [] }
  if 65535 < tget 0 s.sch.outstanding e.launch + blocks.length then .wait s
  else if cdTsp d = 4 then
    let peer := cdPeer d % 1024
    if !s.reaches peer then .bad s (e.report cUNREACH addr (tinfoWord 0 0 0 0 aEngWrite) (rfWord peer 0 0) 0 0)
    else match if peer = s.me then s.nowhereAt e.world aEngWrite (blocks.map Prod.fst) else none with
    | some o => .stop o
    | none => match s.gate (s.peerPart e peer n wb ++ s.chunkParts e locs [] wb) with
      | .error (_, g, s) => .bad s (e.egress addr aEngWrite g)
      | .ok s =>
        match tellPeer op peer e wb blocks (mark s) with
        | (s, some r) => .bad s r
        | (s, none) => .wait s
  else
    match s.endpoint e.world (cdPeer d) with
    | none => .bad s (e.rfault addr 0 0 0x28 aEngWrite)
    | some (x, s) =>
      if !epValid x then .bad s (e.rfault addr 0 0 0x28 aEngWrite)
      else if epPorts x = 0 then .bad s (e.report cUNREACH addr (tinfoWord 0 0 0 0 aEngWrite) 0 0 0)
      else
        match s.gate ((if s.epHome e.world x then [] else [⟨e.world, wb, epDest x, n⟩]) ++ s.chunkParts e locs [] wb) with
        | .error (_, g, s) => .bad s (e.egress addr aEngWrite g)
        | .ok s => .wait (rs.foldl (fun s r => s.epSend op (cdPeer d) x e 6 r.dst r.n 0 (bytesOf r.n (v / 256 ^ (r.pos - base)))) (mark s))

/-- One chunk of CPY, CPY2D or CFILL. -/
def copyChunk (s : State) (op : Nat) (e : Eng) (c : Nat) : UnitRes :=
  let d := e.val 0
  let rs := chunkRuns e.code d c
  let n := rs.foldl (fun n r => n + r.n) 0
  let sent := decide (4 ≤ cdTsp d) && e.data.isSome
  if sent then (if e.asks = [] then .ok s 0 else .wait s)
  else
    match s.isMove e d with
    | some w =>
      match s.locRuns e aEngRead 0 (fun r => r.src) rs with
      | (_, some u, _) => u
      | (_, none, s) =>
        if !s.moveTo w (cdTo d + 4096 * c) then .bad s (e.report cPROT (cdTo d + 4096 * c) (tinfoWord 0 0 0 0 aEngWrite) 0 0 0)
        else match s.locRuns e aEngWrite 0 (fun r => r.dst) rs with
        | (_, some u, _) => u
        | (_, none, s) => .ok (s.moveGranule e.core (cdFrom d + 4096 * c) (cdTo d + 4096 * c)) 0
    | none =>
      match chunkSource s op e d rs n with
      | .stop u => u
      | .got s v n w locs =>
        let wb := w ||| e.wb
        if 4 ≤ cdTsp d then tellChunk s op e d rs v n wb locs
        else
          match s.locRuns e aEngWrite (cdTsp d) (fun r => r.dst) rs with
          | (_, some u, _) => u
          | (ls, none, s) =>
            match s.gate (s.chunkParts e locs ls.flatten wb) with
            | .error (_, g, s) => .bad s (e.egress (firstVa (ls.flatten ++ locs)) aEngWrite g)
            | .ok s => .ok (writeRuns e d wb v (rs.zip ls) s) 0

/-! ### Gather (R411, R412) -/

/-- Count a hit or a miss (R412). -/
def State.btcCount (s : State) (core : Nat) (hit : Bool) : State :=
  { s with eng := { s.eng with btcstat := tset 0 s.eng.btcstat core (bumpHalf (tget 0 s.eng.btcstat core) hit) } }

/-- A byte of a block in the cache: the checks of its kept translation for this command, its granule's among them (R24, R33). -/
def BtcE.piece (b : BtcE) (s : State) (e : Eng) (gpa va : Nat) : XRes × BtcE × State :=
  match s.physOf false b.world gpa with
  | none => (.trap ⟨34, cPAGE, 9, 0, 1⟩, b, s)
  | some h =>
    let (g, t, s) := s.granCheck b.world gpa h b.tlb
    match leafCheck t aEngRead e.level true 0 g.2.1 g.2.2 with
    | some r => (r, b, s)
    | none =>
      let r := s.xlateDone e.core b.world va aEngRead false t gpa g.1 h none
      (r.1, { b with tlb := t }, r.2)

/-- The pieces of a block in the cache, in order. -/
def BtcE.pieces (s : State) (e : Eng) : List (Nat × Nat) → BtcE → List (ELoc × Nat) × Option UnitRes × BtcE × State
  | [], b => ([], none, b, s)
  | (off, n) :: t, b =>
    let va := vaOf (b.base + b.blk * 2 ^ b.bs) + off
    match b.piece s e (b.gpa + off) va with
    | (.trap f, b, s) => ([], some (.bad s (e.xreport f va aEngRead)), b, s)
    | (.park sz own, b, s) => ([], some (.park s va sz own aEngRead), b, s)
    | (.ok x, b, s) =>
      if x.region = .unpopulated then ([], some (.stop (.fault .unpopulated)), b, s)
      else if x.region = .device then ([], some (.stop (.refused .deviceSpace)), b, s)
      else
        let (l, r, b, s) := BtcE.pieces s e t b
        ((.glob x (vaOf va), n) :: l, r, b, s)

/-- Is a hit the miss it would have been before the fill that another gather has under way (R459) (DESIGN CHOICE, log 146)? -/
def State.missesFill (s : State) (op k : Nat) (b : BtcE) : Bool := b.op != op && thas s.eng.queue b.op && Config.lookupFirst op k

/-- Locate the bytes of a gather's block, entry k of its table: through the cache, or by translation. -/
def gathBlock (s : State) (op : Nat) (e : Eng) (d k blk : Nat) : List (ELoc × Nat) × Option UnitRes × State :=
  let bs := cdBs d
  let pool := cdAux d
  let va := vaOf (pool + blk * 2 ^ bs)
  let l := tget [] s.eng.btc e.core
  let same := fun (x : BtcE) => x.world == e.world && x.base == pool && x.blk == blk && x.bs == bs
  let keep := fun (s : State) (b : BtcE) =>
    { s with eng := { s.eng with btc := tput s.eng.btc e.core ((b :: (tget [] s.eng.btc e.core).filter (fun x => !same x)).take 64) } }
  match (l.find? same).filter (fun b => !s.missesFill op k b) with
  | some b =>
    let s := s.btcCount e.core true
    if e.world = 0 then
      let (ls, u, s) := s.engLoc e aEngRead 0 (va + cdFstride d) (cdLen d)
      (ls, u, keep s b)
    else
      let (ls, u, b, s) := BtcE.pieces s e ((cuts 128 (b.gpa + cdFstride d) (cdLen d)).map (fun c => (c.1 - b.gpa, c.2))) b
      (ls, u, keep s b)
  | none =>
    let s := s.btcCount e.core false
    match s.engLoc e aEngRead 0 (va + cdFstride d) (cdLen d) with
    | (ls, none, s) =>
      match ls with
      | (.glob x v, _) :: _ =>
        let pb := pageBits (if e.world = 0 then 0 else x.size)
        let blank : TlbE := ⟨0, va / 4096, 0, va / 4096, 0, true, true, true, []⟩
        let tlb := if e.world = 0 then some blank else (tget [] s.xl.ctlb e.core).find? (fun t => t.covers e.world (v % 2 ^ 57 / 4096))
        match tlb with
        | some t => if va / 2 ^ pb = (va + 2 ^ bs - 1) / 2 ^ pb then (ls, none, keep s ⟨e.world, pool, blk, bs, x.gpa - (v - va), t, op⟩) else (ls, none, s)
        | none => (ls, none, s)
      | _ => (ls, none, s)
    | r => r

/-- The waybill of the table's blocks (R422), as far as they can be reached now. -/
def State.tableWb (s : State) (e : Eng) (d : Nat) : Waybill :=
  ((s.engLoc e aEngRead (cdFsp d) (cdFrom d) (4 * cdCount d)).1).foldl (fun w l => w ||| match l.1 with
    | .chip sp ph => s.rangeWb sp ph l.2
    | .glob x _ => s.homeWb x) 0

/-- The pieces of a gather's block as they are read: bytes, count and waybill of each. -/
def State.locParts (s : State) (e : Eng) : List (ELoc × Nat) → List (Nat × Nat × Waybill) × State
  | [] => ([], s)
  | l :: t =>
    let (v, w, s) := s.locRead e l
    let (r, s) := State.locParts s e t
    ((v, l.2, w) :: r, s)

/-- The waybill of n bytes from byte a of a gather's block: its own source lines' (R424). -/
def partsWb (a n : Nat) : Nat → List (Nat × Nat × Waybill) → Waybill
  | _, [] => 0
  | p, x :: t => (if p < a + n ∧ a < p + x.2.1 then x.2.2 else 0) ||| partsWb a n (p + x.2.1) t

/-- What a gather's entry names: its pieces' bytes, their waybill, the table's waybill and where they lie. -/
inductive GathSrc where
  | stop (r : UnitRes)
  | got (s : State) (parts : List (Nat × Nat × Waybill)) (tw : Waybill) (locs : List (ELoc × Nat))

/-- The bytes of table entry k. -/
def gathSource (s : State) (op : Nat) (e : Eng) (d k : Nat) : GathSrc :=
  match s.engLoc e aEngRead (cdFsp d) (cdFrom d + 4 * k) 4 with
  | (_, some u, _) => .stop u
  | (tl, none, s) =>
    match s.runsBad e [(cdFrom d + 4 * k, tl)] with
    | some u => .stop u
    | none =>
      let (blk, _, tw, s) := s.locReads e tl
      let tw := tw ||| s.tableWb e d
      if blk = 0xFFFFFFFF then .got s [(0, cdLen d, 0)] tw tl
      else
        match gathBlock s op e d k blk with
        | (_, some u, _) => .stop u
        | (ls, none, s) =>
          match s.runsBad e [(vaOf (cdAux d + blk * 2 ^ cdBs d + cdFstride d), ls)] with
          | some u => .stop u
          | none =>
            let (ps, s) := s.locParts e ls
            .got s ps tw (tl ++ ls)

/-- Write a gather's bytes piece by piece of the destination: each takes the waybill of its own source lines, the table's and W (R424). -/
def gathWrites (e : Eng) (w : Waybill) (ps : List (Nat × Nat × Waybill)) (lo hi a0 : Nat) : Nat → Nat → List (ELoc × Nat) → State → State
  | _, _, [], s => s
  | v, a, l :: t, s =>
    gathWrites e w ps lo hi a0 (v / 256 ^ l.2) (a + l.2) t (s.locWrite e l (v % 256 ^ l.2) (w ||| partsWb (a - a0) l.2 0 ps) a lo hi)

/-- Table entry k of GATH. -/
def gathUnit (s : State) (op : Nat) (e : Eng) (k : Nat) : UnitRes :=
  let d := e.val 0
  match gathSource s op e d k with
  | .stop u => u
  | .got s ps tw locs =>
    let n := cdLen d
    let r : Run := ⟨0, cdTo d + k * cdTstride d, k * n, n⟩
    match s.engLoc e aEngWrite (cdTsp d) r.dst n with
    | (_, some u, _) => u
    | (ls, none, s) =>
      match s.gate (s.chunkParts e locs ls (ps.foldl (fun w x => w ||| x.2.2) (tw ||| e.wb))) with
      | .error (_, g, s) => .bad s (e.egress (firstVa locs) aEngRead g)
      | .ok s =>
        let v := ps.foldr (fun x acc => x.1 % 256 ^ x.2.1 + 256 ^ x.2.1 * acc) 0
        let (v, s) := if overlaps e.code d then (blur e.code d s.fresh r.dst n v, { s with fresh := s.fresh + n }) else (v, s)
        let b := dstBounds e.code d r
        .ok (gathWrites e (tw ||| e.wb) ps b.1 b.2 r.dst v r.dst ls s) 0

/-! ### XPUT's chunks (R407) -/

/-- Has every put of chunk c of an XPUT been acknowledged? -/
def Eng.putsDone (e : Eng) (c : Nat) : Bool :=
  (List.range 256).all (fun k => decide (64 * e.val 2 ≤ 256 * c + k) || e.acked.contains (256 * c + k))

/-- Chunk c of XPUT: its puts are sent, and it commits when each has been acknowledged. The operation's read lock goes once the last is sent (R153). -/
def xputChunk (s : State) (op : Nat) (e : Eng) (c : Nat) : UnitRes :=
  let n := e.val 2
  let b := s.spBase e.party + e.val 0
    let left := xputLeft s e c
    if left = [] then
      if e.putsDone c then .ok (s.putEng op { e with acked := e.acked.filter (fun k => k / 256 != c) }) 0 else .wait s
    else if 65535 < tget 0 s.sch.outstanding e.launch + left.length then .wait s
    else if !s.reaches (e.val 3) then .bad s (e.report cUNREACH (e.val 1) (tinfoWord 0 0 0 0 aEngWrite) (rfWord (e.val 3) 0 0) 0 0)
    else
      let len := min 4096 (1024 * n - 4096 * c)
      match s.chipBad 1 (b + 4096 * c) len, s.chipBad 1 (b + 1024 * n + 32 * c) (len / 128) with
      | some x, _ => .bad s (e.poisoned (e.val 0 + 4096 * c + x))
      | none, some x => .bad s (e.poisoned (e.val 0 + 1024 * n + 32 * c + x))
      | none, none =>
        let offs := left.flatMap (fun k => [e.val 1 + 16 * k, e.val 1 + 1024 * n + 8 * (k / 64)])
        match if e.val 3 = s.me then s.nowhereAt e.world aAtomic offs else none with
        | some o => .stop o
        | none =>
          let s := xputSend (s.putEng op { e with st := 2 }) op { e with st := 2 } left
          .wait (if 64 * n ≤ 256 * (c + 1) then (s.putsSent op).dropLocks op (fun l => !l.write) else s)

/-! ### The commit (R263, R386, R387) -/

/-- Units an operation commits (R420). -/
def Eng.units (e : Eng) : Nat :=
  match e.code with
  | 0x4B => e.val 1
  | 0x4C => e.val 1
  | 0x54 => 17
  | 0x57 => 8
  | 0x55 => (1032 * e.val 2 + 4095) / 4096
  | 0x56 => (64 * e.val 2 + 255) / 256
  | 0x5B => cdCount (e.val 0)
  | _ => if e.unit = 1 then (cdLen (e.val 0) * cdRuns e.code (e.val 0) + 4095) / 4096 else 64

/-- One unit of an operation. -/
def engUnit (s : State) (op : Nat) (e : Eng) : UnitRes :=
  match e.code with
  | 0x4A => mzeroRow s e e.done
  | 0x4B => mmaUnit s op e
  | 0x4C => mmaUnit s op e
  | 0x4D => mscaRow s e e.done
  | 0x4E => mldRow s e e.done
  | 0x4F => mstRow s e e.done
  | 0x50 => smxuRow s e e.done
  | 0x51 => smxmRow s e e.done
  | 0x52 => smxnRow s e e.done
  | 0x53 => mstatRow s e e.done
  | 0x54 => xcvChunk s e e.done
  | 0x55 => xaddChunk s e e.done
  | 0x56 => xputChunk s op e e.done
  | 0x57 => xrndChunk s e e.done
  | 0x5B => gathUnit s op e e.done
  | _ => copyChunk s op e e.done

/-- A tile no operation names any more: its token returns to its string, or goes to nobody under a pending MREL or after the string's exit
(R389, R391). -/
def State.tileFree (s : State) (who k : Nat) : State :=
  if s.eng.queue.any (fun x => x.2.tiles.contains k) then s
  else
    let t := s.tile k
    let none_ := t.rels ≠ [] || (s.strOf who).isNone
    let s := s.setTile k { t with token := if none_ then .none else .str who, rels := [] }
    t.rels.foldl (fun s o => s.opLeave o) s

/-- An operation ends: its entry, its locks and its tokens are given up, its flags ORed in, its flag cleared (R389, R414, R416). -/
def State.engEnd (s : State) (op : Nat) (e : Eng) : State :=
  let s := { s with eng := { s.eng with queue := terase s.eng.queue op } }.putsSent op
  let s := s.dropLocks op (fun _ => true)
  let s := e.tiles.foldl (fun s k => s.tileFree e.who k) s
  let s := match s.strOf e.who with
    | none => s
    | some (u, t) => s.putStr u (t.orFlags e.flags)
  s.opLeave op

/-- A report reaches its string; an exited string's operation is cancelled (R264). -/
def State.engReport (s : State) (op : Nat) (e : Eng) (r : Report) : State :=
  match s.strOf e.who with
  | none => s.engEnd op e
  | some (u, t) => (s.putEng op { e with st := 4 }).putStr u { t with reports := t.reports ++ [r] }

/-- The fault record of an engine's park (R102): SRC 2 the porter, 3 the matrix unit. -/
def State.engRecord (s : State) (e : Eng) (va size : Nat) (own : Bool) (acc : Nat) : BitVec 256 :=
  BitVec.ofNat 256 (s.time % 2 ^ 64 * 2 ^ 192 + va % 2 ^ 57 * 2 ^ 128 + e.world * 2 ^ 120 + (s.partOf e.world).getD 0 * 2 ^ 115 +
    size * 2 ^ 113 + acc * 2 ^ 110 + (if own then 2 ^ 109 else 0) + e.core * 2 ^ 100 + e.idx * 2 ^ 95 +
    (if e.unit = 1 then 2 else 3) * 2 ^ 91 + e.wb.toNat * 2 ^ 75 + 2 ^ 43)

/-- Accesses of the issuing path before the operation, its remote writes among them, that have still to be performed or satisfied (R149, R154). -/
def State.engBefore (s : State) (e : Eng) : Bool :=
  e.done == 0 && (s.mem.reqs.any (fun r => r.isOpen && e.waits.contains r.rid) || e.acks.any (fun id => thas s.fab.rems id))

/-- Is an operation held at its checkpoint: its string is stopped, or a string of its party is halted (R263, R266)? -/
def State.engHeld (s : State) (e : Eng) : Bool :=
  s.strs.any (fun x => !x.2.outrider && ((x.2.key == e.who && x.2.captured) || (x.2.party == e.party && x.2.dbg != .running)))

/-- Is an operation inside a unit: has it asked for bytes, or sent puts of the unit it is in (R263)? -/
def Eng.midUnit (e : Eng) : Bool := e.data.isSome || e.asks != [] || (e.code == 0x56 && e.acked.any (fun k => k / 256 == e.done))

/-- May an entry's unit run now: in issue order, four porter commands at a time (R386)? A held operation finishes the unit it is in (R263). -/
def State.engMay (s : State) (op : Nat) (e : Eng) : Bool :=
  (e.st == 1 || e.st == 2) && decide (e.done < e.units) && !s.engBefore e && (!s.engHeld e || e.midUnit) &&
  if e.unit = 1 then
    e.st == 2 || (!(s.queueOf 1 e.core).any (fun x => decide (x.1 < op) && x.2.st == 1) &&
      decide (((s.queueOf 1 e.core).filter (fun x => x.2.st != 1)).length < 4))
  else
    !(s.queueOf e.unit e.core).any (fun x => decide (x.1 < op)) &&
      (e.code != 0x4C || !(s.queueOf 0 (pairCore e.core)).any (fun x => decide (x.1 < op)))

/-- ENGINE_COMMIT: operation n0 commits one unit, holds on a remote page, or reports (R263, R264, R413, R420); a read lock goes with the last read of its
range (R153). An outrider asked to stop under that number has stopped (R417, R418). -/
def execEngineCommit (s : State) : Out :=
  let op := s.argN 0
  match tfind s.eng.queue op with
  | none => .next (((tfind s.eng.stops op).map (s.outCommit op)).getD s)
  | some e =>
    if !s.engMay op e then .next s
    else match engUnit s op e with
      | .stop o => o
      | .wait s => .next s
      | .park s va size own acc =>
        .next (({ s with way := { s.way with posts := s.way.posts ++ [s.engRecord e va size own acc] } }).putEng op { e with st := 3, posted := true })
      | .bad s r => .next (s.engReport op { (tfind s.eng.queue op).getD e with data := none, asks := if e.unit = 2 then ((tfind s.eng.queue op).getD e).asks else [] } r)
      | .ok s f =>
        let x := (tfind s.eng.queue op).getD e
        let e := { x with st := 2, done := e.done + 1, flags := e.flags ||| f, data := none, asks := if e.unit = 2 then x.asks else [] }
        let s := s.putEng op e
        if e.done < e.units then .next (s.dropLocks op (fun l => !l.write && l.units != 0 && decide (l.units ≤ e.done)))
        else if e.unit = 1 then .next (s.dropLocks op (fun l => !l.write))
        else .next (s.engEnd op e)

/-- Write a completion word (R154, R414): the state, or what it meets. -/
def cwWrite (s : State) (e : Eng) (d : Nat) : UnitRes :=
  if !cdCw d then .ok s 0
  else
    match s.engLoc e aEngWrite (cdCwsp d) (cdCwaddr d) 8 with
    | (_, some u, _) => u
    | (ls, none, s) =>
      match s.gate (s.chunkParts e [] ls e.wb) with
      | .error (_, g, s) => .bad s (e.egress (cdCwaddr d) aEngWrite g)
      | .ok s => .ok (s.locWrites e e.wb 0 0 (cdCval d) (cdCwaddr d) ls) 0

/-- PORTER_COMPLETE: command n0 has committed every chunk: write locks go, the word is written, the flag clears (R414). -/
def execPorterComplete (s : State) : Out :=
  let op := s.argN 0
  match tfind s.eng.queue op with
  | none => .next s
  | some e =>
    if e.unit ≠ 1 ∨ e.st ≠ 2 ∨ e.done < e.units ∨ s.engHeld e then .next s
    else
      match cwWrite (s.dropLocks op (fun _ => true)) e (e.val 0) with
      | .stop o => o
      | .wait s => .next s
      | .park s va size own acc =>
        .next (({ s with way := { s.way with posts := s.way.posts ++ [s.engRecord e va size own acc] } }).putEng op { e with st := 3, posted := true })
      | .bad s r => .next (s.engReport op e r)
      | .ok s _ => .next (s.engEnd op e)

/-- ENGINE_RESTART: the operation or outrider (unit n1, index n2) that unit n0's string was told of goes on from its checkpoint (R263,
R264). -/
def execEngineRestart (s : State) : Out :=
  match s.str? (s.argN 0) with
  | none => .next s
  | some t =>
    if s.argN 1 = 3 then
      let u := coreOf (s.argN 0) * 64 + 32 + s.argN 2
      match s.str? u with
      | none => .next s
      | some o => if o.bound = s.argN 0 ∧ o.outrider ∧ o.told then .next (s.putStr u { o with runs := true, told := false }) else .next s
    else
      match s.eng.queue.find? (fun x => x.2.unit == s.argN 1 && x.2.core == coreOf (s.argN 0) && x.2.idx == s.argN 2 && x.2.who == t.key) with
      | none => .next s
      | some (op, e) => if e.st = 4 then .next (s.putEng op { e with st := 2 }) else .next s

/-! ### Cancelling (R416) -/

/-- An engine entry's waiter record is withdrawn: SRC 2 the porter's, 3 the matrix unit's (R102). -/
def State.withdrawEng (s : State) (e : Eng) : State :=
  if e.unit = 1 then s.withdraw e.core e.idx false [2] else if e.unit = 0 then s.withdraw e.core e.idx false [3] else s

/-- CCAN (R416) (DEDUCED, log 54). -/
def execCcan (f : BitVec 1) (a : BitVec 6) (u : BitVec 2) (s : State) : Out :=
  issued (.ccan f a u) s fun t p =>
    match s.engEntry t u.toNat ((t.sget a.toNat).toNat % 16) with
    | none => finish s t p
    | some (op, e) =>
      let s := (s.putCur t p).withdrawEng e
      let s := s.engEnd op e
      match s.str? s.curUnit with
      | none => .next s
      | some t => finish s t (t.path s.curPath)

/-- BTC_INVALIDATE: every entry of world n1 leaves core n0's block translation cache (R412, R423). -/
def execBtcInvalidate (s : State) : Out :=
  .next { s with eng := { s.eng with
    btc := tset [] s.eng.btc (s.argN 0) ((tget [] s.eng.btc (s.argN 0)).filter (fun b => b.world != s.argN 1)) } }

/-! ### Answers to engines (R157, R413) -/

/-- An answer to a request of an engine operation. A carrier put that was refused is complete, and its refusal the string's as a posted write's is (R185,
R465) (DEDUCED, log 147). -/
def State.engAnswer (s : State) (id op : Nat) (r : Rem) (code reason : Nat) (bs : List Byte) (wb : Waybill) : State :=
  let s := if r.kind = 3 then s.putAck id r code reason
    else
      let s := { s with fab := { s.fab with rems := terase s.fab.rems id } }
      if r.kind = 1 ∨ r.kind = 6 then s.outSub (r.tag / 4096) 1 else s
  match tfind s.eng.queue op with
  | none => s
  | some e =>
    let mine := e.asks.contains id
    let e := { e with asks := e.asks.filter (fun x => x != id) }
    if r.kind = 3 then s.putEng op { e with acked := e.acked ++ [r.tag % 4096] }
    else if code = 0 then
      if (r.kind = 0 ∨ r.kind = 5) ∧ mine then s.putEng op (e.arrive r.tag bs wb)
      else s.putEng op e
    else if e.st = 4 then s.putEng op e
    else
      let peer := if r.peer < 1024 then r.peer else 0
      s.engReport op { e with data := none, asks := if e.unit = 2 then e.asks else [] }
        (e.rfault r.offset peer reason code (if r.kind = 0 ∨ r.kind = 5 then aEngRead else aEngWrite))

/-- CARRIER_PUT: peer n0's put n1 for world n2 with waybill n3: offset n4, I word n5, bit n6, value n7 and I bit n8 (R136, R407). -/
def execCarrierPut (s : State) : Out :=
  match s.nowhereAt (s.argN 2) aAtomic [s.argN 4, s.argN 5] with
  | some o => o
  | none =>
    let (c, q, _, s) := s.putAt (s.argN 0) (s.argN 2) (s.argN 4) (s.argN 5) (s.argN 6 % 64) (s.argN 7) (s.argN 8 == 1) (BitVec.ofNat 16 (s.argN 3))
    .next (s.sendFlit (s.argN 0) ⟨2, [s.argN 1, c, q], []⟩)

end Sys2Proof.Machine
end

