-- ==== Sys2Proof/Machine/Kernel.lean ====
section
/-! DEFINITION. What the kernel asks of translation and frames (R41 to R51, R341, R346): WBRD, shootdowns with TLBI, scrubbing and the
frame pools. -/

namespace Sys2Proof.Machine

/-! ### WBRD (R341) -/

/-- The waybill WBRD reads; none for a tile beyond the party's. -/
def wbrdValue (s : State) (t : Str) (p : Path) (src : BitVec 7) (k : BitVec 3) : Option Waybill :=
  match k.toNat with
  | 0 => some (t.sw src.toNat)
  | 1 => some (t.vw src.toNat)
  | 2 => some (t.pw src.toNat)
  | 3 => some (t.qw src.toNat)
  | 4 => some p.flow
  | _ => (s.tileOf t (coreOf s.curUnit) src.toNat false).map (fun n => (s.tile n).wb)

def execWbrd (d : BitVec 6) (src : BitVec 7) (k : BitVec 3) (s : State) : Out :=
  issuedIf (.wbrd d src k) s (fun t p => (wbrdValue s t p src k).isNone) fun t p =>
    let w := (wbrdValue s t p src k).getD 0
    finish s (t.sput d.toNat (w.setWidth 32) (uniWb p w)) p

/-! ### Shootdowns (R42) -/

/-- Second-stage entries that cover a guest-physical address leave a partition's complexes. -/
def State.s2Drop (s : State) (part : Nat) (f : S2E → Bool) : State :=
  { s with xl := { s.xl with s2c := tset [] s.xl.s2c part ((tget [] s.xl.s2c part).filter (fun e => !f e)) } }

/-- Does a second-stage entry cover a guest-physical address? -/
def S2E.covers (e : S2E) (gpa : Nat) : Bool := e.gpn * 4096 / 2 ^ pageBits e.size == gpa / 2 ^ pageBits e.size

/-- Does a cached page of guest-physical memory overlap the second-stage page of an address? -/
def overS2 (gpn size gpa bits : Nat) : Bool :=
  let b := max bits (pageBits size)
  gpn * 4096 / 2 ^ b == gpa / 2 ^ b

/-- Kinds of TLBI: 0 page, 1 world, 2 partition, 3 all, 4 second-stage page, 5 second-stage partition. Remove what matches.
The kinds of the second stage go by top-level partition, so one that names a child removes nothing (DESIGN CHOICE, log 139). -/
def State.shoot (s : State) (kind who addr : Nat) : State :=
  match kind with
  | 0 => s.shootPage who addr
  | 1 => (s.tlbDrop (fun e => e.world == who) (fun w => w.world == who)).btcDrop (fun b => b.world == who)
  | 2 =>
    (s.tlbDrop (fun e => s.partOf e.world == some who) (fun w => s.partOf w.world == some who)).btcDrop (fun b => s.partOf b.world == some who)
  | 3 => (s.tlbDrop (fun _ => true) (fun _ => true)).btcDrop (fun _ => true)
  | 4 =>
    let bits := ((tget [] s.xl.s2c who).filter (fun e => e.covers addr)).foldl (fun n e => max n (pageBits e.size)) 12
    let mine := fun w => s.topPart w == some who
    ((s.tlbDrop (fun e => mine e.world && overS2 e.gpn e.size addr bits) (fun w => mine w.world)).btcDrop
      (fun b => mine b.world && overS2 (b.gpa / 4096) b.tlb.size addr bits)).s2Drop who (fun e => e.covers addr)
  | _ =>
    let mine := fun w => s.topPart w == some who
    ((s.tlbDrop (fun e => mine e.world) (fun w => mine w.world)).btcDrop (fun b => mine b.world)).s2Drop who (fun _ => true)

/-- Accesses in flight that may have used what a shootdown removes. -/
def State.shootWaits (s : State) (kind who addr : Nat) : List Nat :=
  (s.mem.reqs.filter (fun r =>
    r.space == 0 && !r.ident && r.kind != .fill &&
    match kind with
    | 0 => r.world == who && (r.va :: r.vas).any (fun v => v % 2 ^ 57 / 2 ^ pageBits r.psize == addr % 2 ^ 57 / 2 ^ pageBits r.psize)
    | 1 => r.world == who
    | 2 => s.partOf r.world == some who
    | 3 => true
    | _ => s.topPart r.world == some who)).map Req.rid

/-- May the level name this operand (R42)? -/
def State.mayShoot (s : State) (t : Str) (p : Path) (kind who : Nat) : Bool :=
  let own := fun (x : Option Nat) => 2 ≤ p.level || (x.isSome && x == s.topPart t.world)
  match kind with
  | 0 => decide (who ≤ 255) && own (s.partOf who)
  | 1 => decide (who ≤ 255) && own (s.partOf who)
  | 3 => true
  | _ => decide (who ≤ 23) && own (some (s.topOf who))

/-- TLBI: the privilege of its operand, the implied release, the removal, and the operation that completes with the accesses that used
what was removed (DEDUCED, log 55). -/
def tlbi (i : Instr) (kind : Nat) (f : BitVec 1) (who : Str → Word) (addr : Str → Nat) (s : State) : Out :=
  issued i s fun t p =>
    let w := (who t).toNat
    let a := addr t
    if !s.mayShoot t p kind w then trapWord s t p cPRIV
    else if p.rep then trapWord s t p cILLEGAL
    else if !s.settled p then stay s t p
    else
      let waits := s.shootWaits kind w a
      let s := s.shoot kind w a
      if waits = [] then finish s t p
      else
        let op := s.nextOp
        let o : Op := ⟨s.curUnit, s.curPath, .none, false, 0, false, 1, none⟩
        let s := { s.takeOp with
          mem := { s.mem with ops := tput s.mem.ops op o }
          xl := { s.xl with shoots := s.xl.shoots ++ [⟨kind, w, a, op, s.curUnit, s.curPath, waits⟩] } }
        finish s t (p.bind f op)

def execTlbiPage (a b : BitVec 6) (f : BitVec 1) (s : State) : Out :=
  tlbi (.tlbiPage a b f) 0 f (fun t => t.sget a.toNat) (fun t => (t.spair b.toNat).toNat) s
def execTlbiWorld (a : BitVec 6) (f : BitVec 1) (s : State) : Out := tlbi (.tlbiWorld a f) 1 f (fun t => t.sget a.toNat) (fun _ => 0) s
def execTlbiPart (a : BitVec 6) (f : BitVec 1) (s : State) : Out := tlbi (.tlbiPart a f) 2 f (fun t => t.sget a.toNat) (fun _ => 0) s
def execTlbiAll (f : BitVec 1) (s : State) : Out := tlbi (.tlbiAll f) 3 f (fun _ => 0) (fun _ => 0) s
def execTlbiG2page (a b : BitVec 6) (f : BitVec 1) (s : State) : Out :=
  tlbi (.tlbiG2page a b f) 4 f (fun t => t.sget a.toNat) (fun t => (t.spair b.toNat).toNat) s
def execTlbiG2part (a : BitVec 6) (f : BitVec 1) (s : State) : Out := tlbi (.tlbiG2part a f) 5 f (fun t => t.sget a.toNat) (fun _ => 0) s

/-! ### Frame pools (R47, R48) -/

/-- Entries of a pool ring (R47). -/
def poolSize : Nat := 2 ^ 18

/-- The frames of a pool, oldest first. The ring of R47 is plain state here, and no bytes of the steward region (DESIGN CHOICE, log 128). -/
def State.pool (s : State) (part size : Nat) : List Nat := tget [] s.xl.pools (part * 4 + size)
def State.setPool (s : State) (part size : Nat) (l : List Nat) : State :=
  { s with xl := { s.xl with pools := tset [] s.xl.pools (part * 4 + size) l } }

/-- sys.poolcnt. -/
def State.poolCounts (s : State) (part : Nat) : Dword :=
  BitVec.ofNat 64 ((s.pool part 0).length + (s.pool part 1).length * 2 ^ 21 + (s.pool part 2).length * 2 ^ 42)

/-- A scrubbed frame goes to its pool; false where the pool is full. -/
def State.poolPut (s : State) (part size gpa : Nat) : Bool × State :=
  if poolSize ≤ (s.pool part size).length then (false, s) else (true, s.setPool part size (s.pool part size ++ [gpa]))

/-- Take the oldest frame of a pool. -/
def State.poolTake (s : State) (part size : Nat) : Option (Nat × State) :=
  match s.pool part size with
  | [] => none
  | g :: t => some (g, s.setPool part size t)

/-! ### Scrubbing (R49, R51, R346) -/

/-- A frame's lines leave every cache without write-back; its lines become zero lines, its granules unowned with waybill 0, and its dirty
bits are set. OFFLINE and UCOUNT stay. The lines are charged to the partition that the frame belongs to (R286) (DEDUCED, log 27). -/
def State.scrubFrame (s : State) (part gpa size : Nat) : State :=
  let n := 2 ^ pageBits size
  let mine := fun (w l : Nat) => s.topPart w == some part && decide (gpa ≤ l * 128) && decide (l * 128 < gpa + n)
  let s := s.dropLines mine
  let s := { s with mem := { s.mem with l2 := s.mem.l2.filter (fun e => keyIdent e.1 || !mine (keyTag e.1) (keyLine e.1)) } }
  (List.range (n / 4096)).foldl (fun s k =>
    let g := gpa + 4096 * k
    match s.s2Leaf part g with
    | none => s
    | some (sz, e) =>
      let h := entFrame e + g % 2 ^ pageBits sz
      if regionOf h ≠ .hbm then s
      else
        let s := { s with mem := (List.range 32).foldl (fun m j => zeroLine m (h / 128 + j)) s.mem }.chargeLines (stackOf h) (some part) 32
        let x := s.gran (h / 4096)
        (s.setGran (h / 4096) (granMake false (granOffline x) (granUcount x) 0 0)).markDirty part g) s

/-- The granules of a frame, as second-stage leaves with their table entries. -/
def State.frameGrans (s : State) (part gpa size : Nat) : List (Nat × Option (Dword × Word)) :=
  (List.range (2 ^ pageBits size / 4096)).map (fun k =>
    let g := gpa + 4096 * k
    (g, (s.s2Leaf part g).map (fun r => (r.2, s.gran ((entFrame r.2 + g % 2 ^ pageBits r.1) / 4096)))))

/-- What stops SCRUB before anything is changed: an unmapped or unwritable granule, or a sealed one. -/
def scrubFault (s : State) (part : Nat) (l : List (Nat × Option (Dword × Word))) : Option (Nat × XFault) :=
  l.findSome? (fun x => match x.2 with
    | none => some (x.1, ⟨34, cPAGE, 9, s.s2Level part x.1, 1⟩)
    | some (e, g) =>
      if !e.getLsbD 2 then some (x.1, ⟨34, cPROT, 10, s.s2Level part x.1, 1⟩)
      else if granSealed g then some (x.1, ⟨35, cSEALED, 12, 0, 0⟩) else none)

/-- SCRUB (R346). A guest-physical address is bits [51:0] of its pair (DESIGN CHOICE, log 128). -/
def execScrub (d a : BitVec 6) (f : BitVec 1) (z : BitVec 2) (s : State) : Out :=
  issued (.scrub d a f z) s fun t p =>
    let gpa := (t.spair a.toNat).toNat % 2 ^ 52
    let size := z.toNat
    let w := uniWb p (t.sws a.toNat 2)
    let done := fun (s : State) c => finish s (t.sput d.toNat (resultWord c 0) w) p
    if gpa % 2 ^ pageBits size ≠ 0 ∨ gpa = 0 then done s 3
    else match s.topPart t.world with
      | none => done s 3
      | some part =>
        let gs := s.frameGrans part gpa size
        match scrubFault s part gs with
        | some (g, x) =>
          takeTrap s (t.setPath s.curPath p)
            ⟨x.cause, p.here, p.pos, BitVec.ofNat 64 g, if x.stage = 1 then 2 else 0,
              some (tinfoWord 0 x.reason x.level x.stage aUniStore), none, none, none⟩
        | none =>
          let off := gs.any (fun x => match x.2 with
            | some (_, g) => granOffline g
            | none => false)
          let s := s.scrubFrame part gpa size
          if off then done s 1
          else match s.poolPut part size gpa with
            | (true, s) => done s 0
            | (false, s) => done s 2

end Sys2Proof.Machine
end

