-- ==== Sys2Proof/Machine/Way.lean ====
section
/-! DEFINITION. The waystation (R100 to R128): fault records, contexts, lookups, frames, fetches, installs, wakes, declines, and the
commands that answer for it. -/

namespace Sys2Proof.Machine

/-- va[56:12] of the base of a page. -/
def pageVpn (va size : Nat) : Nat := va % 2 ^ 57 / 2 ^ pageBits size * 2 ^ (pageBits size - 12)

/-- Microseconds on the time base (R255). -/
def usec (n : Nat) : Nat := 3600 * n

/-! ### Registers -/

/-- sys.wsmode bits of a partition; sys.wsto of its top-level partition (R110, R120). -/
def State.wsmode (s : State) (p k : Nat) : Bool := (s.preg p 0x080).getLsbD k
def State.wsto (s : State) (p : Nat) : Nat := (s.preg (s.topOf p) 0x081).toNat
def State.wsMl (s : State) (p : Nat) : Nat := usec (s.wsto p % 256)
def State.wsFr (s : State) (p : Nat) : Nat := usec (s.wsto p / 256 % 256)
def State.wsEv (s : State) (p : Nat) : Nat := usec (s.wsto p / 65536 % 256)
def State.wsEt (s : State) (p : Nat) : Nat := usec (1000 * (s.wsto p / 2 ^ 24 % 64))
def State.wsRt (s : State) (p : Nat) : Nat := s.wsto p / 2 ^ 30 % 4

/-- A saturating count in bits [k + n - 1 : k] of a register. -/
def bumpField (v : Dword) (k n : Nat) : Dword := if v.toNat / 2 ^ k % 2 ^ n + 1 = 2 ^ n then v else v + BitVec.ofNat 64 (2 ^ k)

/-- sys.wsstat: 0 faults admitted, 32 evictions, 48 declines. -/
def State.wsCount (s : State) (p k : Nat) : State := s.setPreg p 0x088 (bumpField (s.preg p 0x088) k (if k = 0 then 32 else 16))

/-- The partition of an entry's world. -/
def State.pendPart (s : State) (e : Pend) : Nat := (s.partOf e.world).getD 0

def State.putPend (s : State) (e : Pend) : State :=
  { s with way := { s.way with pends := s.way.pends.map (fun x => if x.id = e.id then e else x) } }
def State.dropPend (s : State) (id : Nat) : State := { s with way := { s.way with pends := s.way.pends.filter (fun x => x.id != id) } }
def State.pend? (s : State) (id : Nat) : Option Pend := s.way.pends.find? (fun x => x.id == id)

/-- The resident copy of a page. -/
def State.copy? (s : State) (w size vpn : Nat) : Option Copy :=
  s.way.copies.find? (fun c => c.world == w && c.size == size && c.vpn == vpn)
def State.dropCopy (s : State) (c : Copy) : State :=
  { s with way := { s.way with copies := s.way.copies.filter (fun x => !(x.world == c.world && x.size == c.size && x.vpn == c.vpn)) } }
def State.putCopy (s : State) (c : Copy) : State := { s.dropCopy c with way := { (s.dropCopy c).way with copies := (s.dropCopy c).way.copies ++ [c] } }

/-! ### Leaves of a page (R109, R112, R117) -/

/-- The entries that map a page, in ascending order, with their values: sixteen for a 64 KiB page. -/
def State.leavesOf (s : State) (world va size : Nat) : List (Nat × Dword) × State :=
  match s.walk world (va % 2 ^ 57) 0 with
  | (.bad _ _ _ _, s) => ([], s)
  | (.leaf e a n, s) =>
    if size = 1 ∧ n = 0 then
      let base := a / 128 * 128
      ((List.range 16).filterMap (fun k => match s.tableRead world (base + 8 * k) with
        | .ok r => some (base + 8 * k, r.1)
        | .error _ => none), s)
    else ([(a, e)], s)

/-- Swap the entries of a page, each compared against its old value; nothing is changed when one compare fails. -/
def State.swapLeaves (s : State) (world va size : Nat) (old : List Dword) (f : Dword → Dword) : Option State :=
  let (ls, s) := s.leavesOf world va size
  if ls.map Prod.snd = old ∧ old ≠ [] then some (ls.foldl (fun s l => s.tableWrite world l.1 (f l.2)) s) else none

/-- Does a leaf park an access (R22, R97)? -/
def leafParks (e : Dword) (acc : Nat) : Bool := lfHome e && (!lfV e || (isWrite acc && !lfW e))

/-- Do the leaves still map a copy: V = 1, HOME = 1 and its frame (R115)? -/
def Copy.mapped (c : Copy) (ls : List Dword) : Bool := ls != [] && ls.all (fun l => lfV l && lfHome l && entFrame l == c.frame)

/-- The resident copy of a page whose leaves are given. -/
def State.resident (s : State) (w size vpn : Nat) (ls : List Dword) : Option Copy := (s.copy? w size vpn).filter (fun c => c.mapped ls)

/-- The kernel's write permission for a page: the leaf's, or the one kept with a resident copy (R112). -/
def State.kernelW (s : State) (w size vpn : Nat) (ls : List (Nat × Dword)) : Bool :=
  match s.resident w size vpn (ls.map Prod.snd) with
  | some c => c.kw
  | none => (ls.head?.map (fun l => lfW l.2)).getD false

/-! ### Admission (R100, R102, R103) -/

/-- May the hub admit a record: 256 records a partition, 4,096 entries? The records of entries that no context holds yet count (DESIGN CHOICE, log 140). A
full table keeps out a record that would only join an entry, too (DESIGN CHOICE, log 130). -/
def State.admits (s : State) (r : BitVec 256) : Bool :=
  let p := s.partOf (frWorld r)
  let queued : Nat := (s.way.pends.filter (fun e => e.st == 0 && s.partOf e.world == p)).foldl (fun n e => n + e.waiters.length) (0 : Nat)
  decide (queued < 256) && !(decide (4096 ≤ s.way.pends.length))

/-- FAULT_ADMIT: the oldest posted record that can be admitted joins the entry of its page or makes a new one. -/
def execFaultAdmit (s : State) : Out :=
  match s.way.posts.find? s.admits with
  | none => .next s
  | some r =>
    let s := { s with way := { s.way with posts := s.way.posts.erase r } }
    let s := s.wsCount ((s.partOf (frWorld r)).getD 0) 0
    let vpn := pageVpn (frVa r) (frSize r)
    let (ls, s) := s.leavesOf (frWorld r) (frVa r) (frSize r)
    let need := (frOwn r || isWrite (frAcc r)) && s.kernelW (frWorld r) (frSize r) vpn ls
    match s.way.pends.find? (fun e => e.world == frWorld r && e.size == frSize r && e.vpn == vpn && e.st != 7) with
    | some e => .next (s.putPend { e with waiters := e.waiters ++ [r], need := e.need || need })
    | none =>
      let e : Pend :=
        { id := s.way.nextId, world := frWorld r, size := frSize r, vpn, st := 0, need, waiters := [r], frame := none, entry := 0
          attempts := 0, leaves := [], since := s.time, owned := false, stuck := false, moves := 0, ownMoves := 0 }
      .next { s with way := { s.way with pends := s.way.pends ++ [e], nextId := s.way.nextId + 1 } }

/-- FAULT_REPOST: the oldest record that could not be admitted is posted again, behind the others (R100). -/
def execFaultRepost (s : State) : Out :=
  match s.way.posts.find? (fun r => !s.admits r) with
  | none => .next s
  | some r => .next { s with way := { s.way with posts := s.way.posts.erase r ++ [r] } }

/-! ### Wakes (R113) -/

/-- Raise a trap at a given path. -/
def State.trapAt (s : State) (u : Nat) (b : Bool) (t : Str) (ti : TrapInfo) : State :=
  if t.outrider then outriderTrap s u t ti
  else
    let p := t.path b
    let s' := match p.parkOp with
      | none => s.putStr u t
      | some n => (s.putStr u (t.setPath b { p with parkOp := none })).opLeave n
    s'.putStr u (Str.trap s' ((s'.str? u).getD t) b ti)

/-- Outcomes of a wake. -/
inductive WakeKind where
  | replay
  | prot
  | trap (cause : Nat)
deriving DecidableEq, Repr

/-- The trap is taken at a path in its slot; a halted string keeps it until it is released (R101), a suspended path until it is resumed (R240). -/
def State.wakeTrapAt (s : State) (u : Nat) (t : Str) (r : BitVec 256) (k : Nat) : State :=
  if t.dbg != .running then s.putStr u (t.mapPaths (fun p => if parkedOn p r then { p with due := some k } else p))
  else if parkedOn t.p0 r then s.trapAt u false t (wakeTrap t.p0 r k)
  else if parkedOn t.p1 r then s.trapAt u true t (wakeTrap t.p1 r k)
  else s.putStr u (t.mapPaths (fun p => if parkedOn p r then { p with due := some k } else p))

/-- One wake. A replay sets the path running at its instruction. -/
def State.wakeOne (s : State) (r : BitVec 256) (size : Nat) (k : WakeKind) : State :=
  let lvl := if size ≤ 1 then 0 else size - 1
  if frSrc r = 2 ∨ frSrc r = 3 then
    let unit := if frSrc r = 2 then 1 else 0
    match s.eng.queue.find? (fun x => x.2.core == frCore r && x.2.idx == frSlot r && (x.2.unit == unit || (unit == 0 && x.2.unit == 2)) && x.2.st == 3) with
    | none => s
    | some (op, e) =>
      let e := { e with posted := false }
      match k with
      | .replay => s.putEng op { e with st := 2 }
      | .prot => s.engReport op e (e.report cPROT (vaFull (frVa r)).toNat (tinfoWord 0 4 lvl 0 (frAcc r)) 0 0 0)
      | .trap c => s.engReport op e (e.report cPAGE (vaFull (frVa r)).toNat (tinfoWord 0 0 0 0 (frAcc r)) 0 0 (BitVec.ofNat 8 c))
  else
    let u := frCore r * 64 + frSlot r + (if frSrc r = 4 then 32 else 0)
    match s.str? u with
    | none => s
    | some t =>
      match k with
      | .replay => s.putStr u (t.mapPaths (fun p => if parkedOn p r then p.wake else p))
      | .prot => s.putStr u (t.mapPaths (fun p => if parkedOn p r then p.wakeProt else p))
      | .trap c => s.wakeTrapAt u t r (c + 1)

/-- WAKE: every waiter in order, and the entry is freed. Write-type waiters of a page the kernel lets nobody write take PROT. -/
def State.wakeEntry (s : State) (e : Pend) (k : WakeKind) : State :=
  let (ls, s) := s.leavesOf e.world (e.vpn * 4096) e.size
  let kw := s.kernelW e.world e.size e.vpn ls
  let s := s.dropPend e.id
  e.waiters.foldl (fun s r =>
    s.wakeOne r e.size (if k == .replay && isWrite (frAcc r) && !kw && (ls.head?.map (fun l => leafParks l.2 (frAcc r))).getD false then .prot else k)) s

/-- REPLAY: the unit's woken path issues its instruction again (R99). -/
def execReplay (s : State) : Out :=
  match s.str? s.curUnit with
  | none => .next s
  | some t =>
    let p := t.path s.curPath
    if p.woken ∧ p.state = .running then
      .next { s with agenda := (if p.pos ≠ 0 ∧ p.words ≠ [] then ⟨0, .issue s.curUnit s.curPath⟩
        else ⟨0, .event .clauseStart ⟨[s.curUnit, if s.curPath then 1 else 0], []⟩⟩) :: s.agenda }
    else .next s

/-! ### Frames the hardware frees (R445) -/

/-- A frame is freed: to the scrub engine, or under SCRB = 1 to the frame ring, the frame of a victim among them: the entry it was evicted for goes on
waiting for a frame (DESIGN CHOICE, log 144). -/
def State.freeFrame (s : State) (part size gpa world : Nat) (for_ : Option Nat) : State :=
  if (s.preg part 0x0EA).getLsbD 0 && s.preg (s.topOf part) 0x0EB != 0 then
    { s with xl := { s.xl with ringWait := s.xl.ringWait ++ [(part, gpa, size * 256 + world)] } }
  else { s with xl := { s.xl with scrubs := s.xl.scrubs ++ [⟨s.topOf part, size, gpa, for_⟩] } }

/-! ### Declines (R121 to R123, R128) -/

/-- The decline record of an entry (DESIGN CHOICE, log 129). -/
def State.declineRec (s : State) (e : Pend) (cause peer detail : Nat) : Nat :=
  let p := s.pendPart e
  declineWord cause e.st (if cause = 1 then 0 else e.attempts) (if s.wsmode p 2 then 1 else 0) peer detail 0 e.waiters.length
    ((e.waiters.head?).getD 0)

/-- Has the kernel written the waystation's registers (R128)? A register that holds 0 counts as not written (DESIGN CHOICE, log 131). -/
def State.waySet (s : State) (p : Nat) : Bool :=
  s.preg (s.topOf p) 0x085 != 0 && s.preg (s.topOf p) 0x086 != 0 && s.preg p 0x082 != 0

/-- A decline. The record of one for want of the waystation's registers is lost (R128). -/
def State.decline (s : State) (e : Pend) (cause peer detail : Nat) : State :=
  let p := s.pendPart e
  let s := if cause = 3 ∧ !s.waySet p then s else s.declineRing p (s.declineRec e cause peer detail) (((e.waiters.head?).map frWb).getD 0)
  let s := s.wsCount p 48
  let s := match e.frame with
    | some g => if ((s.copy? e.world e.size e.vpn).map Copy.frame) = some g then s else s.freeFrame p e.size g e.world none
    | none => s
  let s := { s with xl := { s.xl with poolWait := s.xl.poolWait.filter (fun w => !(w.who.isNone && w.entry == e.id)) } }
  if s.wsmode p 2 then s.putPend { e with st := 8, frame := none } else s.wakeEntry e (.trap cause)

/-! ### The manifest (R105 to R107) -/

/-- Fields of a manifest entry, held as one number. -/
def meVpn (x : Nat) : Nat := x % 2 ^ 45
def meWorld (x : Nat) : Nat := x / 2 ^ 45 % 256
def meHkind (x : Nat) : Nat := x / 2 ^ 56 % 4
def meState (x : Nat) : Nat := x / 2 ^ 58 % 4
def meSize (x : Nat) : Nat := x / 2 ^ 60 % 4
def meBusy (x : Nat) : Bool := x.testBit 62
def meValid (x : Nat) : Bool := x.testBit 63
def meVersion (x : Nat) : Nat := x / 2 ^ 64 % 2 ^ 32
def meShval (x : Nat) : Nat := x / 2 ^ 100 % 64
def meShovf (x : Nat) : Bool := x.testBit 106
def meOwnv (x : Nat) : Bool := x.testBit 107
def meOwner (x : Nat) : Nat := x / 2 ^ 108 % 1024
def meHome (x : Nat) : Nat := x / 2 ^ 118 % 1024
def meSharer (x i : Nat) : Nat := x / 2 ^ (128 + 10 * i) % 1024
def meEp (x : Nat) : Nat := x / 2 ^ 240 % 65536
def meAddr (x : Nat) : Nat := x / 2 ^ 256 % 2 ^ 64

/-- Replace bits [k + n - 1 : k]. -/
def setBits (x k n v : Nat) : Nat := x - x / 2 ^ k % 2 ^ n * 2 ^ k + v % 2 ^ n * 2 ^ k

/-- The listed sharers. -/
def meSharers (x : Nat) : List Nat := ((List.range 6).filter (fun i => (meShval x).testBit i)).map (meSharer x)
def meLists (x p : Nat) : Bool := (meSharers x).contains p

/-- Enter a package as a sharer: the first free slot, otherwise SHOVF (R109). -/
def meAdd (x p : Nat) : Nat :=
  if meLists x p then x
  else match (List.range 6).find? (fun i => !(meShval x).testBit i) with
    | some i => setBits (setBits x (128 + 10 * i) 10 p) 100 6 (meShval x + 2 ^ i)
    | none => setBits x 106 1 1

/-- Keep only some sharers. -/
def meKeep (x : Nat) (f : Nat → Bool) : Nat :=
  setBits x 100 6 (((List.range 6).filter (fun i => (meShval x).testBit i && f (meSharer x i))).foldl (fun n i => n + 2 ^ i) 0)

/-- mf_locate's hash (R105). -/
def mfHash (world size vpn : Nat) : Nat := ((world * 2 ^ 47 + size * 2 ^ 45 + vpn) * 0x9E3779B97F4A7C15) % 2 ^ 64 / 2 ^ 32

/-- The directory package of a page; none where the map has no entry (R106, R128). -/
def State.dirOf (s : State) (world size vpn : Nat) : Option (Nat × State) :=
  match s.topPart world with
  | none => none
  | some p =>
    let m := (s.preg p 0x086).toNat / 2048 * 2048
    if s.preg p 0x086 = 0 then none
    else match s.hubRead (some p) (m + 2 * (mfHash world size vpn % 1024)) 2 with
      | none => none
      | some (v, s) => if v.testBit 15 then some (v % 1024, s) else none

/-- Read a manifest entry; replace it. -/
def State.mfRead (s : State) (part addr : Nat) : Nat × State :=
  let (b, s) := s.hubBytes (some part) addr 64
  (ofBytes b, s)
def State.mfWrite (s : State) (part addr x : Nat) : State := s.hubPut (some part) addr 0 (bytesOf 64 x)

/-- Search addresses in order. -/
def mfScan (part world size vpn : Nat) : List Nat → State → Option (Nat × Nat) × State
  | [], s => (none, s)
  | a :: t, s =>
    let (x, s) := s.mfRead part a
    if meValid x && meWorld x == world && meSize x == size && meVpn x == vpn then (some (a, x), s) else mfScan part world size vpn t s

/-- The entry of a page at this directory: its address and value. -/
def State.mfFind (s : State) (part world size vpn : Nat) : Option (Nat × Nat) × State :=
  let b := (s.preg part 0x085).toNat
  let logb := max 6 (min 22 (b % 64))
  let base := b / 4096 % 2 ^ 40 * 4096
  if s.preg part 0x085 = 0 then (none, s)
  else
    let h := mfHash world size vpn / 1024 % 2 ^ logb
    mfScan part world size vpn ((List.range 8).flatMap (fun k => (List.range 8).map (fun j => base + (h + k) % 2 ^ logb * 512 + 64 * j))) s

/-! ### Messages between waystations -/

/-- Can a package be reached: itself, or a member with a live lane? -/
def State.near (s : State) (p : Nat) : Bool := p == s.me || (s.reaches p && decide (0 < s.lanesTo p))

/-- Send a message; one to the package itself arrives at once (DESIGN CHOICE, log 49). -/
def State.sendWay (s : State) (peer kind : Nat) (n : List Nat) (bs : List Byte) : State :=
  if peer = s.me then { s with agenda := flitAct peer ⟨kind, n, bs⟩ ++ s.agenda } else s.sendFlit peer ⟨kind, n, bs⟩

/-! ### Requests that wait (R107, R118) -/

/-- A request looked at again: marked behind its own numbers (DESIGN CHOICE, log 49). -/
def Arg.retry (a : Arg) : Arg := { a with n := (a.n ++ List.replicate 15 0).take 15 ++ [1] }
def Arg.again (a : Arg) : Bool := a.n.getD 15 0 == 1

/-- The page a request names, and whether it waits at the directory or at the holder of a copy. -/
def waitKey (i : Instr) (a : Arg) : Bool × List Nat :=
  if i = .directoryEntryUpdate then (true, (a.n.drop 1).take 3) else (i == .directoryLookup || i == .ownershipRequest, (a.n.drop 2).take 3)

/-- Those of the waiting requests that are next for their page. -/
def State.waitHeads (s : State) : List (Instr × Arg) :=
  (groupKey (fun w => waitKey w.1 w.2) s.way.waits).filterMap (fun g => g.2.head?)

/-- A request is served unless its page is busy or others wait before it; then it waits in arrival order. -/
def State.waitTurn (s : State) (i : Instr) (busy : Bool) (k : State → Out) : Out :=
  if s.arg.again then
    if busy then .next s else k { s with way := { s.way with waits := s.way.waits.eraseP (fun w => w.1 == i && w.2.retry == s.arg) } }
  else if busy || s.way.waits.any (fun w => waitKey w.1 w.2 == waitKey i s.arg) then
    .next { s with way := { s.way with waits := s.way.waits ++ [(i, s.arg)] } }
  else k s

/-! ### LOOKUP (R109, R110, R120) -/

/-- Send a lookup to the directory. -/
def State.askDirectory (s : State) (e : Pend) : State :=
  let e := { e with st := 2, since := s.time, attempts := e.attempts + 1 }
  match s.dirOf e.world e.size e.vpn with
  | none => s.decline e 3 0 0
  | some (d, s) =>
    if !s.near d then s.decline e 0x0B d 0
    else (s.putPend e).sendWay d 14 [e.id, e.world, e.size, e.vpn] []

/-- LOOKUP left to the kernel: a LOOKUP record, and a wait for ANSWER (R120). -/
def State.askKernel (s : State) (e : Pend) : State :=
  let e := { e with st := 2, since := s.time, attempts := e.attempts + 1 }
  let p := s.pendPart e
  (s.putPend e).declineRing p (s.declineRec e 0x10 0 0) (((e.waiters.head?).map frWb).getD 0)

/-- Begin OWN (R118). A directory that the map no longer names declines with NOLANE (DESIGN CHOICE, log 141). -/
def State.askOwner (s : State) (e : Pend) : State :=
  let e := { e with st := 5, since := s.time, attempts := e.attempts + 1 }
  match s.dirOf e.world e.size e.vpn with
  | none => s.decline e 0x0B 0 0
  | some (d, s) =>
    if !s.near d then s.decline e 0x0B d 0
    else (s.putPend e).sendWay d 12 [e.id, e.world, e.size, e.vpn, meVersion e.entry] []

/-! ### INSTALL (R112, R117) -/

/-- The new leaf. -/
def newLeaf (e : Dword) (frame : Nat) (w : Bool) : Dword :=
  (e &&& 0xFFF0000000000CFC#64) ||| BitVec.ofNat 64 (frame / 4096 * 4096) ||| 1#64 ||| (if w then 2#64 else 0)

/-- The leaf of a page that leaves: V clear, the kernel's W back, A and D as they were. -/
def goneLeaf (kw : Bool) (e : Dword) : Dword := (e &&& ~~~3#64) ||| (if kw then 2#64 else 0)

/-- INSTALL, and WAKE or the way back to CHECK: the frame is scrubbed back to its pool, a 64 KiB page is shot down, and the context keeps the
entry (R112, R117). -/
def State.install (s : State) (e : Pend) : State :=
  let p := s.pendPart e
  let old := s.resident e.world e.size e.vpn e.leaves
  let frame := match e.frame, old with
    | some g, _ => g
    | none, some c => c.frame
    | none, none => 0
  let va := e.vpn * 4096
  let kw := match old with
    | some c => c.kw
    | none => (e.leaves.head?.map lfW).getD false
  match s.swapLeaves e.world va e.size e.leaves (fun l => newLeaf l frame e.owned) with
  | none =>
    let s := if e.size = 1 then s.shoot 0 e.world va else s
    let s := match e.frame with
      | some g => s.freeFrame p e.size g e.world none
      | none => s
    s.putPend { e with st := 1, frame := none, leaves := [], entry := 0, attempts := 0, owned := false }
  | some s =>
    let c : Copy := match old with
      | some c => { c with own := e.owned, frame := frame, entry := e.entry }
      | none => ⟨e.world, e.vpn, e.size, frame, kw, e.owned, 0, s.way.nextId, false, e.entry⟩
    let s := (s.putCopy c).btcDrop (fun b => b.inPage e.world va (pageBits e.size))
    let s := match old with
      | some o => if o.frame = frame then s else s.freeFrame p e.size o.frame e.world none
      | none => s
    let s := { s with way := { s.way with nextId := s.way.nextId + 1 } }
    if old.isSome && e.owned then
      let waits := s.shootWaits 0 e.world va
      let s := s.shoot 0 e.world va
      if waits = [] then s.wakeEntry e .replay
      else
        { s.putPend { e with st := 6 } with
          xl := { s.xl with shoots := s.xl.shoots ++ [⟨6, e.world, va, s.nextOp, e.id, false, waits⟩] }, nextOp := s.nextOp + 1 }
    else s.wakeEntry e .replay

/-! ### FETCH (R109 to R111) -/

/-- Granules of a page. -/
def pageGrans (size : Nat) : Nat := 2 ^ pageBits size / 4096

/-- A fetched page enters its frame (R111): owner, waybills, data under the world's key, poison by half-line; a page of which nothing is read is
zero lines (R109). No cache keeps a line of what the frame held. -/
def State.fillFrame (s : State) (world size gpa : Nat) (bs : List Byte) (wbs poison : List Nat) : State :=
  match s.topPart world with
  | none => s
  | some part =>
    let mine := fun (t l : Nat) => t == world && decide (gpa ≤ l * 128) && decide (l * 128 < gpa + 2 ^ pageBits size)
    let s := s.dropLines mine
    let s := { s with mem := { s.mem with l2 := s.mem.l2.filter (fun e => keyIdent e.1 || !mine (keyTag e.1) (keyLine e.1)) } }
    (List.range (pageGrans size)).foldl (fun s k =>
      let g := gpa + 4096 * k
      match s.s2Leaf part g with
      | none => s
      | some (sz, l) =>
        let h := entFrame l + g % 2 ^ pageBits sz
        if regionOf h ≠ .hbm then s
        else
          let x := s.gran (h / 4096)
          let s := s.setGran (h / 4096) (granMake false (granOffline x) (granUcount x) world (BitVec.ofNat 16 (wbs.getD k 0)))
          let part4k := (bs.drop (4096 * k)).take 4096
          let s := if bs = [] then { s with mem := (List.range 32).foldl (fun m j => zeroLine m (h / 128 + j)) s.mem } else
            { s with mem := (List.range 32).foldl (fun m j =>
              setHbmPoison (writeKeyed m (h / 128 + j) (s.memKey world) (g / 128 + j) (BitVec.ofNat 1024 (ofBytes ((part4k.drop (128 * j)).take 128))))
                (h / 128 + j) ((if poison.contains (64 * k + 2 * j) then 1 else 0) + (if poison.contains (64 * k + 2 * j + 1) then 2 else 0))) s.mem }
          s.markDirty part g) s

/-- The fetch is performed: OWN where it is still wanted, otherwise INSTALL. -/
def State.afterFetch (s : State) (e : Pend) : State := if e.need && !e.owned then s.askOwner { e with attempts := e.ownMoves } else s.install { e with st := 6 }

/-- FETCH from the page's holder. -/
def State.fetch (s : State) (e : Pend) : State :=
  let x := e.entry
  let e := { e with st := 4, since := s.time, attempts := e.attempts + 1 }
  let frame := e.frame.getD 0
  match meHkind x with
  | 0 =>
    if !s.near (meHome x) then s.decline e 0x0B (meHome x) 0
    else (s.putPend e).sendWay (meHome x) 7 [e.id, e.world, e.size, e.vpn, meAddr x, meVersion x, e.attempts] []
  | 1 =>
    match s.endpoint e.world (meEp x) with
    | none => s.decline e 6 0 0x28
    | some (ep, s) =>
      if !epValid ep then s.decline e 6 0 0x28
      else if epPorts ep = 0 then s.decline e 0x0B 0 0
      else { s.putPend e with outbox := s.outbox ++ epPackets 13 e.id ep [e.id, e.attempts, e.world, meEp x] (meAddr x) (2 ^ pageBits e.size) [] }
  | _ => (s.fillFrame e.world e.size frame [] [] []).afterFetch { e with entry := setBits x 56 2 0 }

/-! ### FRAME (R114, R115) -/

/-- A frame has come for an entry. -/
def State.frameFor (s : State) (e : Pend) (gpa : Nat) : State :=
  let e := { e with frame := some gpa, stuck := false, attempts := e.moves }
  { s with xl := { s.xl with poolWait := s.xl.poolWait.filter (fun w => !(w.who.isNone && w.entry == e.id)) } }.fetch e

/-- FRAME: from the pool in arrival order; otherwise the entry waits, for an eviction or for the pool. -/
def State.drawFrame (s : State) (e : Pend) : State :=
  let part := s.topOf (s.pendPart e)
  let e := { e with st := 3, since := s.time, attempts := 1 }
  if 3 ≤ e.size then s.decline e 8 0 0
  else if let some g := e.frame then (s.putPend e).frameFor e g
  else
    let first := !s.xl.poolWait.any (fun w => w.part == part && w.size == e.size)
    match (if first then s.poolTake part e.size else none) with
    | some (g, s) => (s.putPend e).frameFor e g
    | none =>
      { s.putPend e with xl := { s.xl with poolWait := s.xl.poolWait ++ [⟨part, e.size, none, e.id, 0⟩] } }

/-- After LOOKUP: OWN for a listed sharer that holds its copy, otherwise FRAME (R109, R118). -/
def State.afterLookup (s : State) (e : Pend) (x : Nat) : State :=
  let e := { e with entry := x }
  if 3 ≤ meHkind x ∨ 2 ≤ meState x then s.decline e 6 0 0x24
  else if e.need && meLists x s.me && meState x == 0 && (s.resident e.world e.size e.vpn e.leaves).isSome then s.askOwner { e with attempts := e.ownMoves }
  else s.drawFrame e

/-- Keep an entry in the manifest cache, newest first, 8,192 at most. -/
def State.cacheEntry (s : State) (x : Nat) : State :=
  { s with way := { s.way with
    mcache := (x :: s.way.mcache.filter (fun y => !(meWorld y == meWorld x && meSize y == meSize x && meVpn y == meVpn x))).take 8192 } }
def State.uncache (s : State) (world size vpn : Nat) : State :=
  { s with way := { s.way with mcache := s.way.mcache.filter (fun y => !(meWorld y == world && meSize y == size && meVpn y == vpn)) } }

/-- LOOKUP: the kernel's answer under MLK = 1; a cached entry that lists this package; otherwise the directory (DEDUCED, log 45). -/
def State.lookup (s : State) (e : Pend) : State :=
  if !s.waySet (s.pendPart e) then s.decline { e with st := 2, attempts := 1 } 3 0 0
  else if s.wsmode (s.pendPart e) 3 then s.askKernel e
  else match s.way.mcache.find? (fun y => meWorld y == e.world && meSize y == e.size && meVpn y == e.vpn && meLists y s.me) with
    | some x => s.afterLookup { e with st := 2, attempts := 1 } x
    | none => s.askDirectory e

/-- CHECK: the leaf is read again (R109) (DEDUCED, log 48). -/
def State.check (s : State) (e : Pend) : State :=
  let va := e.vpn * 4096
  let (ls, s) := s.leavesOf e.world va e.size
  let leaf := (ls.head?.map Prod.snd).getD 0
  let kw := s.kernelW e.world e.size e.vpn ls
  let parks := e.waiters.any (fun r => leafParks leaf (frAcc r) && !(lfV leaf && !kw))
  let e := { e with st := 1, leaves := ls.map Prod.snd, attempts := 0, moves := 0, ownMoves := 0 }
  if !parks then s.wakeEntry e .replay
  else if s.wsmode (s.pendPart e) 0 then s.decline e 1 0 0
  else s.lookup e

/-- Is an eviction of a page past its first step (R116)? -/
def State.leaving (s : State) (world size vpn : Nat) : Bool :=
  s.way.evicts.any (fun x => x.st != 0 && x.copy.world == world && x.copy.size == size && x.copy.vpn == vpn)

/-- The oldest entry a free context may take: round robin among partitions (R104, R120). -/
def State.nextPend (s : State) : Option Pend :=
  let ok := s.way.pends.filter (fun e => e.st == 0 && !s.wsmode (s.pendPart e) 31 && !s.leaving e.world e.size e.vpn)
  ((List.range 24).map (fun k => (s.way.turn + 1 + k) % 24)).findSome? (fun p => ok.find? (fun e => s.pendPart e == p))

/-- CONTEXT_TAKE: a context whose entry has returned to CHECK checks it again; a free context, of 32, takes an entry and checks it. -/
def execContextTake (s : State) : Out :=
  if let some e := s.way.pends.find? (fun e => e.st == 1) then .next (s.check e)
  else if 32 ≤ (s.way.pends.filter (fun e => decide (1 ≤ e.st) && decide (e.st ≤ 7))).length then .next s
  else match s.nextPend with
    | none => .next s
    | some e => .next ({ s with way := { s.way with turn := s.pendPart e } }.check e)

/-- LOOKUP_ANSWER: directory n0 answers entry n1's lookup with code n2 (1: no entry; a code of R186) and manifest entry n3. -/
def execLookupAnswer (s : State) : Out :=
  match s.pend? (s.argN 1) with
  | none => .next s
  | some e =>
    if e.st ≠ 2 ∨ e.since + s.wsMl (s.pendPart e) ≤ s.time then .next s
    else match s.argN 2 with
      | 0 => .next ((s.cacheEntry (s.argN 3)).afterLookup e (s.argN 3))
      | 1 => .next (s.decline e 3 (s.argN 0) 0)
      | 0x29 => .next (s.decline e 0x0A (s.argN 0) 0)
      | c => .next (s.decline e 6 (s.argN 0) c)

/-- LOOKUP_TIMEOUT: entry n0's lookup has not been answered in ML (R110). -/
def execLookupTimeout (s : State) : Out :=
  match s.pend? (s.argN 0) with
  | none => .next s
  | some e =>
    let p := s.pendPart e
    if e.st ≠ 2 ∨ s.time < e.since + s.wsMl p then .next s
    else if s.wsRt p < e.attempts then .next (s.decline e 2 (if s.wsmode p 3 then 0 else ((s.dirOf e.world e.size e.vpn).map Prod.fst).getD 0) 0)
    else if s.wsmode p 3 then .next (s.askKernel e)
    else .next (s.askDirectory e)

/-- How long an attempt of an entry's FETCH may take: FR, or ET for an endpoint (R110). -/
def State.fetchTime (s : State) (e : Pend) : Nat := if meHkind e.entry = 1 then s.wsEt (s.pendPart e) else s.wsFr (s.pendPart e)

/-- FETCH_COMPLETE: holder n0 answers entry n1's fetch with code n2 for attempt n3; the granules' waybills, then the poisoned half-lines,
follow; the page is in the bytes. An endpoint's page takes its ORIGINS (R111, R427). -/
def execFetchComplete (s : State) : Out :=
  match s.pend? (s.argN 1) with
  | none => .next s
  | some e =>
    let peer := if meHkind e.entry = 1 then 0 else s.argN 0
    if e.st ≠ 4 ∨ e.attempts ≠ s.argN 3 ∨ e.since + s.fetchTime e ≤ s.time then .next s
    else if s.argN 2 = 0x21 then
      if s.wsRt (s.pendPart e) < e.attempts then .next (s.decline e 6 peer 0x21)
      else .next ((s.uncache e.world e.size e.vpn).askDirectory { e with moves := e.attempts, attempts := 0, owned := false })
    else if s.argN 2 ≠ 0 then .next (s.decline e 6 peer
      (if meHkind e.entry = 1 then (if ((s.endpoint e.world (meEp e.entry)).map (fun x => epValid x.1)).getD false then 0x30 else 0x28) else s.argN 2))
    else
      let g := pageGrans e.size
      let own := ((s.endpoint e.world (meEp e.entry)).map (fun x => (epOrigins x.1).toNat)).getD 0
      let wbs := if meHkind e.entry = 1 then List.replicate g own else (s.arg.n.drop 4).take g
      .next ((s.fillFrame e.world e.size (e.frame.getD 0) s.arg.bytes wbs (s.arg.n.drop (4 + g))).afterFetch e)

/-- FETCH_TIMEOUT: entry n0's fetch is over FR, or ET for an endpoint (R110). -/
def execFetchTimeout (s : State) : Out :=
  match s.pend? (s.argN 0) with
  | none => .next s
  | some e =>
    let eth := meHkind e.entry == 1
    if e.st ≠ 4 ∨ s.time < e.since + s.fetchTime e then .next s
    else if s.wsRt (s.pendPart e) < e.attempts then .next (s.decline e (if eth then 5 else 4) (if eth then 0 else meHome e.entry) 0)
    else .next (s.fetch e)

/-- POOL_WAIT_TIMEOUT: with EVC = 1 entry n0 has waited EV for the pool (R114). -/
def execPoolWaitTimeout (s : State) : Out :=
  match s.pend? (s.argN 0) with
  | none => .next s
  | some e =>
    let p := s.pendPart e
    if e.st = 3 ∧ e.frame.isNone ∧ s.wsmode p 4 ∧ e.since + s.wsEv p ≤ s.time then .next (s.decline e 8 0 0) else .next s

/-! ### Victims and evictions (R115, R116, R119) -/

/-- Is a copy pinned (R115)? -/
def State.pinned (s : State) (c : Copy) : Bool :=
  let lo := c.vpn * 32
  let hi := lo + 2 ^ pageBits c.size / 128
  let hits := fun (l : Lock) => l.space == 0 && l.world == c.world && decide (l.first < hi) && decide (lo ≤ l.last)
  c.pinned || s.mem.locks.any (fun t => t.2.any hits) || s.stored.any (fun x => x.locks.any hits) ||
    s.way.pends.any (fun e => e.world == c.world && e.size == c.size && e.vpn == c.vpn) ||
    s.way.evicts.any (fun x => x.copy.world == c.world && x.copy.size == c.size && x.copy.vpn == c.vpn)

/-- The victim for a frame of a size, among the copies the leaves still map: the lowest score, then the earliest installed. -/
def State.victim (s : State) (part size : Nat) : Option Copy :=
  (s.way.copies.filter (fun c => s.topPart c.world == some part && c.size == size && !s.pinned c &&
    c.mapped ((s.leavesOf c.world (c.vpn * 4096) c.size).1.map Prod.snd))).foldl (fun b c =>
    match b with
    | none => some c
    | some x => if c.score < x.score ∨ (c.score = x.score ∧ c.order < x.order) then some c else some x) none

def State.putEvict (s : State) (x : Evict) : State :=
  { s with way := { s.way with evicts := s.way.evicts.map (fun y =>
      if y.copy.world = x.copy.world ∧ y.copy.size = x.copy.size ∧ y.copy.vpn = x.copy.vpn then x else y) } }
def State.dropEvict (s : State) (x : Evict) : State :=
  { s with way := { s.way with evicts := s.way.evicts.filter (fun y =>
      !(y.copy.world == x.copy.world && y.copy.size == x.copy.size && y.copy.vpn == x.copy.vpn)) } }

/-- Steps 1 and 2: V is cleared (an owner that keeps a read copy loses W instead), and the page shot down. None where a compare fails. -/
def State.evictStart (s : State) (x : Evict) : Option State :=
  let va := x.copy.vpn * 4096
  let (ls, s) := s.leavesOf x.copy.world va x.copy.size
  let old := ls.map Prod.snd
  if !x.copy.mapped old then none
  else
    match s.swapLeaves x.copy.world va x.copy.size old (fun l => if x.keep then l &&& ~~~0x102#64 else goneLeaf x.copy.kw l) with
    | none => none
    | some s =>
      let s := s.shoot 0 x.copy.world va
      let x := { x with st := 1, dirty := old.any lfD, leaves := old }
      let s := if x.keep then s else s.dropCopy x.copy
      let s := s.dropEvict x
      some { s with way := { s.way with evicts := s.way.evicts ++ [x] } }

/-- The page of a copy as its caches and memory hold it: bytes, granule waybills and poisoned half-lines. -/
def State.pageData (s : State) (world size gpa : Nat) : List Byte × List Nat × List Nat × State :=
  match s.topPart world with
  | none => ([], [], [], s)
  | some part =>
    let n := 2 ^ pageBits size / 128
    let s := (List.range n).foldl (fun s k => s.cleanL2 false world (gpa / 128 + k)) s
    let at_ := fun g => (s.s2Leaf part g).map (fun r => entFrame r.2 + g % 2 ^ pageBits r.1)
    let bs := (List.range n).flatMap (fun k => match at_ (gpa + 128 * k) with
      | some h => bytesOf 128 (readKeyed s.mem (h / 128) (s.memKey (s.ownerOf h)) (gpa / 128 + k)).1.toNat
      | none => List.replicate 128 0)
    let wbs := (List.range (pageGrans size)).map (fun k => ((at_ (gpa + 4096 * k)).map (fun h => (s.granWaybill h).toNat)).getD 0)
    let po := (List.range n).flatMap (fun k => match at_ (gpa + 128 * k) with
      | some h => (if hbmPoison s.mem (h / 128) % 2 = 1 then [2 * k] else []) ++ (if 2 ≤ hbmPoison s.mem (h / 128) then [2 * k + 1] else [])
      | none => [])
    (bs, wbs, po, s)

/-- The copy stays after all (R119): resident, dirty and pinned, with a decline record of FRAME; a pending entry chooses another victim (DESIGN
CHOICE, log 47). -/
def State.evictRefused (s : State) (x : Evict) (cause peer detail : Nat) : State :=
  let va := x.copy.vpn * 4096
  let (ls, s) := s.leavesOf x.copy.world va x.copy.size
  let s := if ls.length = x.leaves.length then (ls.zip x.leaves).foldl (fun s l => s.tableWrite x.copy.world l.1.1 l.2) s else s
  let s := (s.putCopy { x.copy with pinned := true }).dropEvict x
  let rec_ := declineWord cause 3 1 (if s.wsmode ((s.partOf x.copy.world).getD 0) 2 then 1 else 0) peer detail 0 0
    (BitVec.ofNat 256 (s.time % 2 ^ 64 * 2 ^ 192 + va % 2 ^ 57 * 2 ^ 128 + x.copy.world * 2 ^ 120 + (s.partOf x.copy.world).getD 0 * 2 ^ 115 +
      x.copy.size * 2 ^ 113))
  let s := s.declineRing ((s.partOf x.copy.world).getD 0) rec_ 0
  match x.reply with
  | none => s
  | some (d, job) => s.sendWay d 9 [job, if cause = 0x0A then 2 else 3] []

/-- Steps 4 and 5 once the page is home: the directory is told, the frame freed. It counts as an eviction in sys.wsstat, whatever asked for it (DESIGN
CHOICE, log 143). -/
def State.evictEnd (s : State) (x : Evict) : State :=
  let c := x.copy
  let s := s.dropEvict x
  let s := (s.uncache c.world c.size c.vpn).wsCount ((s.partOf c.world).getD 0) 32
  let s := s.btcDrop (fun b => b.inPage c.world (c.vpn * 4096) (pageBits c.size))
  match x.reply with
  | some (d, job) =>
    let s := if x.keep then s.putCopy { c with own := false } else s.freeFrame ((s.partOf c.world).getD 0) c.size c.frame c.world x.for_
    s.sendWay d 9 [job, 0] []
  | none =>
    let s := s.freeFrame ((s.partOf c.world).getD 0) c.size c.frame c.world x.for_
    match s.dirOf c.world c.size c.vpn with
    | none => s
    | some (d, s) => s.sendWay d 17 [c.world, c.size, c.vpn, if c.own then 1 else 0] []

/-- The number of an eviction's write-back among waystation requests. -/
def Evict.key (x : Evict) : Nat := x.copy.world * 2 ^ 47 + x.copy.size * 2 ^ 45 + x.copy.vpn

/-- Step 3: the write-back to the home, through the gate for an endpoint with REG = 0; home as the directory's entry `e` names it. -/
def State.evictWrite (s : State) (x : Evict) (e : Nat) : State :=
  let c := x.copy
  let (bs, wbs, po, s) := s.pageData c.world c.size c.frame
  let n := 2 ^ pageBits c.size
  let id := s.nextOp
  let note := fun (s : State) peer kind =>
    { s.takeOp with fab := { s.fab with rems := tput s.fab.rems id ⟨peer, .way x.key, kind, c.world, meAddr e, [], s.time, 0, []⟩ } }
  let x' := { x with st := 2 }
  if meHkind e = 1 then
    match s.endpoint c.world (meEp e) with
    | none => s.evictRefused x 6 0 0x28
    | some (ep, s) =>
      let wb := wbs.foldl (fun w v => w ||| BitVec.ofNat 16 v) (0 : Waybill)
      if !epValid ep then s.evictRefused x 6 0 0x28
      else if epPorts ep = 0 then s.evictRefused x 0x0B 0 0
      else match s.gate (if s.epHome c.world ep then [] else [⟨c.world, wb, epDest ep, n⟩]) with
        | .error (_, _, s) => s.evictRefused x 0x0A 0 0
        | .ok s => { (note s (1024 + meEp e) 6).putEvict x' with outbox := s.outbox ++ epPackets 12 id ep [id, 6, c.world, meEp e] (meAddr e) n bs }
  else if !s.near (meHome e) then s.evictRefused x 0x0B (meHome e) 0
  else ((note s (meHome e) 1).putEvict x').sendWay (meHome e) 16 ([id, c.world, c.size, c.vpn, meAddr e, pageGrans c.size, meVersion e] ++ wbs ++ po) bs

/-- An eviction goes on as far as it can: from waiting for the pin, for the accesses of the old translation, to the write-back. A copy the kernel
has unmapped itself is no copy any more, and is acknowledged as none (R118). -/
def State.evictGo (s : State) (x : Evict) : State :=
  let c := x.copy
  match x.st with
  | 0 =>
    let others := { s with way := { s.way with evicts := s.way.evicts.filter (fun y => y.key != x.key) } }
    if others.pinned c then s
    else match s.evictStart x with
      | some s => s
      | none =>
        let s := (s.dropEvict x).dropCopy c
        match x.reply with
        | some (d, job) => (s.uncache c.world c.size c.vpn).sendWay d 9 [job, 0] []
        | none => s
  | 1 =>
    if s.shootWaits 0 c.world (c.vpn * 4096) ≠ [] then s
    else if x.dirty || c.own then
      s.evictWrite x c.entry
    else s.evictEnd x
  | 3 => s.evictEnd x
  | _ => s

/-- Does an entry without a frame wait for nothing that is on its way to it: no frame in its pool, no eviction and no scrub for it? -/
def State.frameless (s : State) (e : Pend) : Bool :=
  e.st == 3 && e.frame.isNone && (tget [] s.xl.pools (s.topOf (s.pendPart e) * 4 + e.size)).isEmpty &&
    !s.way.evicts.any (fun x => x.for_ == some e.id) && !s.xl.scrubs.any (fun j => j.for_ == some e.id)

/-- EVICTION: with n0 = 0, entry n1, which has no frame, has a victim chosen; with n0 = 1 the eviction of page n1 (its key) goes on. -/
def execEviction (s : State) : Out :=
  if s.argN 0 = 1 then
    match s.way.evicts.find? (fun x => x.key == s.argN 1) with
    | none => .next s
    | some x => .next (s.evictGo x)
  else match s.pend? (s.argN 1) with
    | none => .next s
    | some e =>
      let p := s.pendPart e
      if !s.frameless e ∨ s.wsmode p 4 then .next s
      else match s.victim (s.topOf p) e.size with
        | none => .next (if e.stuck then s else s.putPend { e with stuck := true, since := s.time })
        | some c =>
          let s := s.putPend { e with stuck := false }
          .next ((s.evictStart ⟨c, p, false, 0, some e.id, none, false, [], s.time⟩).getD s)

/-- PINNED_TIMEOUT: every candidate victim of entry n0 has stayed pinned for EV (R115). -/
def execPinnedTimeout (s : State) : Out :=
  match s.pend? (s.argN 0) with
  | none => .next s
  | some e =>
    let p := s.pendPart e
    if s.frameless e ∧ e.stuck ∧ (s.victim (s.topOf p) e.size).isNone ∧ e.since + s.wsEv p ≤ s.time then .next (s.decline e 7 0 0)
    else .next s

/-- SCORE_HALVING: each 2^20 fabric clocks, which are 12/5 of that many time-base cycles (R6, R115). -/
def execScoreHalving (s : State) : Out :=
  if 5 * (s.time - s.way.halved) < 12 * 2 ^ 20 then .next s
  else .next { s with way := { s.way with halved := s.time, copies := s.way.copies.map (fun c => { c with score := c.score / 2 }) } }

/-- RELINQUISH: the resident copies of held partition n0 are evicted, once its contexts are done; a pinned one when it is so no more (R126). -/
def execRelinquish (s : State) : Out :=
  let part := s.argN 0
  if !s.wsmode part 31 || s.way.pends.any (fun e => s.pendPart e == part && decide (1 ≤ e.st) && decide (e.st ≤ 7)) then .next s
  else .next ((s.way.copies.filter (fun c => s.partOf c.world == some part)).foldl (fun s c =>
    let x : Evict := ⟨c, part, false, 0, none, none, false, [], s.time⟩
    if s.way.evicts.any (fun y => y.key == x.key) then s
    else { s with way := { s.way with evicts := s.way.evicts ++ [x] } }.evictGo x) s)

/-- A write-back's answer: the page is home, or was refused there. -/
def State.wayAnswer (s : State) (id key code peer : Nat) : State :=
  let s := { s with fab := { s.fab with rems := terase s.fab.rems id } }
  match s.way.evicts.find? (fun x => x.key == key) with
  | none => s
  | some x => if x.st ≠ 2 then s else if code = 0 then (s.putEvict { x with st := 3 }).evictGo { x with st := 3 } else s.evictRefused x 6 peer code

/-! ### Scrubbing freed frames (R445) -/

/-- SCRUB_ENGINE_SCRUB: the oldest freed frame is scrubbed, and goes to the entry it was freed for or to its pool. -/
def execScrubEngineScrub (s : State) : Out :=
  match s.xl.scrubs with
  | [] => .next s
  | j :: rest =>
    let s := { s with xl := { s.xl with scrubs := rest } }.scrubFrame j.part j.gpa j.size
    let off := (s.frameGrans j.part j.gpa j.size).any (fun x => match x.2 with
      | some (_, g) => granOffline g
      | none => false)
    match j.for_.bind s.pend? with
    | some e =>
      if off then .next s
      else if e.st = 3 ∧ e.frame.isNone then .next (s.frameFor e j.gpa) else .next (s.poolPut j.part j.size j.gpa).2
    | none => .next (if off then s else (s.poolPut j.part j.size j.gpa).2)

/-- Has the frame ring of a partition room for a record? -/
def State.ringRoom (s : State) (top : Nat) : Bool :=
  let ctl := (s.preg top 0x0EB).toNat
  match s.hubRead (some top) ctl 8, s.hubRead (some top) (ctl + 8) 8, s.hubRead (some top) (ctl + 24) 8 with
  | some (head, _), some (tail, _), some (cap, _) => (head + 2 ^ 64 - tail) % 2 ^ 64 != 2 ^ max 6 (min 20 cap)
  | _, _, _ => false

/-- The oldest waiting frame that can leave: each partition's leave in the order they were freed, and no partition waits for another. One without a
ring goes to the scrub engine. -/
def State.ringNext (s : State) : List (Nat × Nat × Nat) → List Nat → Option (Nat × Nat × Nat)
  | [], _ => none
  | w :: t, seen =>
    let top := s.topOf w.1
    if !seen.contains top && (s.preg top 0x0EB == 0 || s.ringRoom top) then some w else s.ringNext t (top :: seen)

/-- FRAME_RING_WRITE: the oldest frame that its partition's frame ring has room for is written to it. -/
def execFrameRingWrite (s : State) : Out :=
  match s.ringNext s.xl.ringWait [] with
  | none => .next s
  | some (p, gpa, x) =>
    let top := s.topOf p
    let s := { s with xl := { s.xl with ringWait := s.xl.ringWait.erase (p, gpa, x) } }
    if (s.preg top 0x0EB).toNat = 0 then .next { s with xl := { s.xl with scrubs := s.xl.scrubs ++ [⟨top, x / 256 % 4, gpa, none⟩] } }
    else .next (s.ringPut (some top) (s.preg top 0x0EB).toNat (gpa % 2 ^ 52 * 2 ^ 192 + x / 256 % 4 * 2 ^ 148 + x % 256 * 2 ^ 128))

/-! ### Commands (R120, R124) -/

/-- The entry a command names, not held by a context. -/
def State.named? (s : State) (part arg : Nat) : Option Pend :=
  let w := arg / 2 ^ 45 % 256
  let va := arg % 2 ^ 45 * 4096
  s.way.pends.find? (fun e => e.world == w && s.topPart w == some (s.topOf part) && e.vpn == pageVpn va e.size && (decide (e.st ≤ 1) || e.st == 8))

/-- WAKE and FAIL: partition n0's command for the page n1. -/
def execWake (s : State) : Out :=
  match s.named? (s.argN 0) (s.argN 1) with
  | none => .next s
  | some e => .next (s.wakeEntry e .replay)
def execFail (s : State) : Out :=
  match s.named? (s.argN 0) (s.argN 1) with
  | none => .next s
  | some e => .next (s.wakeEntry e (.trap 0x0C))

/-- ANSWER: the manifest entry at n1 in partition n0's memory answers a lookup that waits for the kernel. -/
def execAnswer (s : State) : Out :=
  let top := s.topOf (s.argN 0)
  let (x, s) := s.mfRead top (s.argN 1 % 2 ^ 52 / 64 * 64)
  match s.way.pends.find? (fun e => e.st == 2 && s.topOf (s.pendPart e) == top && s.wsmode (s.pendPart e) 3 && meWorld x == e.world &&
      meSize x == e.size && meVpn x == e.vpn) with
  | none => .next s
  | some e => .next (if meValid x then s.afterLookup e x else s.decline e 3 0 0)

/-! ### The completion of a shootdown (R42, R112) -/

/-- TLBI_COMPLETE: the shootdown of operation n0 is complete once every access that used a removed entry is performed; an install's then wakes
its waiters. -/
def execTlbiComplete (s : State) : Out :=
  match s.xl.shoots.find? (fun x => x.op == s.argN 0) with
  | none => .next s
  | some x =>
    if s.mem.reqs.any (fun r => x.waits.contains r.rid) then .next s
    else
      let s := { s with xl := { s.xl with shoots := s.xl.shoots.filter (fun y => y.op != x.op) } }
      if x.kind = 6 then
        match s.pend? x.unit with
        | some e => .next (s.wakeEntry e .replay)
        | none => .next s
      else .next (s.opLeave x.op)

end Sys2Proof.Machine
end

