-- ==== Sys2Proof/Machine/Directory.lean ====
section
/-! DEFINITION. The other side of remote pages (R106, R107, R109, R116, R118, R119, R125): the directory's lookups, ownership and updates,
the holders' invalidations and write-backs, the home's reads and writes; and the answers to requests (R157, R184 to R187). -/

namespace Sys2Proof.Machine

/-! ### An entry at its directory -/

/-- What a directory finds for a page: a code to answer, an entry that is BUSY, or the entry with its partition and address. -/
inductive DirEntry where
  | nack (code : Nat)
  | busy
  | at_ (part addr x : Nat)

/-- Look an entry up: UNBOUND (R106), no entry (1), BADENT (R107). -/
def State.dirEntry (s : State) (world size vpn : Nat) : DirEntry × State :=
  match s.topPart world with
  | none => (.nack 0x23, s)
  | some part =>
    match s.mfFind part world size vpn with
    | (none, s) => (.nack 1, s)
    | (some (a, x), s) =>
      if meBusy x then (.busy, s) else if 3 ≤ meHkind x ∨ 2 ≤ meState x then (.nack 0x24, s) else (.at_ part a x, s)

def DirEntry.isBusy : DirEntry → Bool
  | .busy => true
  | _ => false

def setBusy (x : Nat) (b : Bool) : Nat := setBits x 62 1 (if b then 1 else 0)

/-- A job's number in its messages. -/
def DirJob.key (j : DirJob) : Nat := j.addr * 32 + j.part

def State.dirJob? (s : State) (k : Nat) : Option DirJob := s.way.jobs.find? (fun j => j.key == k)
def State.dropJob (s : State) (k : Nat) : State := { s with way := { s.way with jobs := s.way.jobs.filter (fun j => j.key != k) } }
def State.putJob (s : State) (j : DirJob) : State :=
  { s.dropJob j.key with way := { (s.dropJob j.key).way with jobs := (s.dropJob j.key).way.jobs ++ [j] } }

/-- Ask the owner to write its page back, keeping a read copy or not (R109, R118). -/
def State.askBack (s : State) (j : DirJob) (x : Nat) (keep : Bool) : State :=
  (s.putJob { j with asked := true, since := s.time }).sendWay (meOwner x) 15
    ([j.key, meWorld x, meSize x, meVpn x, if keep then 1 else 0, x]) []

/-- The answer to a lookup: the requester is a sharer from now on, and HKIND 2 becomes 0 behind the answer (R109). -/
def State.grantRead (s : State) (part addr x peer ask : Nat) : State :=
  let y := setBusy (meAdd x peer) false
  (s.mfWrite part addr (if meHkind y = 2 then setBits y 56 2 0 else y)).sendWay peer 10 [ask, 0, y] []

/-- DIRECTORY_LOOKUP: package n0 asks for entry n1 of its own: world n2, size n3, page n4. -/
def execDirectoryLookup (s : State) : Out :=
  let peer := s.argN 0
  let ask := s.argN 1
  let (d, s) := s.dirEntry (s.argN 2) (s.argN 3) (s.argN 4)
  s.waitTurn .directoryLookup d.isBusy fun s =>
  match d with
  | .busy => .next s
  | .nack c => .next (s.sendWay peer 10 [ask, c, 0] [])
  | .at_ part addr x =>
    if meState x = 1 ∧ meOwnv x then
      let j : DirJob := ⟨part, addr, peer, ask, meVersion x, false, [], [], true, false, false, s.time⟩
      .next ((s.mfWrite part addr (setBusy x true)).askBack j x true)
    else .next (s.grantRead part addr (setBits x 58 2 0) peer ask)

/-- The grant of ownership (R118 step 4). -/
def State.grantOwn (s : State) (j : DirJob) (x : Nat) : State :=
  let current := meState x = 0 ∧ !meOwnv x ∧ meVersion x = j.version
  let v := (meVersion x + 1) % 2 ^ 32
  let y := setBits (setBits (setBits (setBits (setBits (setBits (setBusy x false) 108 10 j.peer) 107 1 1) 106 1 0) 100 6 0) 58 2 1) 64 32 v
  (s.mfWrite j.part j.addr y).sendWay j.peer 13 [j.ask, 0, if current then 1 else 0, v] []

/-- A request goes on: once the sharers have answered, the owner writes back; then it is granted, or fails. -/
def State.dirGo (s : State) (j : DirJob) : State :=
  let j := { j with left := j.left.filter (fun p => s.isMember p) }
  let (x, s) := s.mfRead j.part j.addr
  if j.left ≠ [] then s.putJob j
  else if j.failed ≠ [] then
    ((s.dropJob j.key).mfWrite j.part j.addr (setBusy (meKeep x (fun p => j.failed.contains p || p == j.peer)) false)).sendWay
      j.peer 13 [j.ask, 0x100, 0, 0] []
  else if j.writeback then (if j.asked then s.putJob j else s.askBack j x (!j.own))
  else if j.own then (s.dropJob j.key).grantOwn j x
  else
    let y := setBits (setBits (meAdd x (meOwner x)) 58 2 0) 107 1 0
    (s.dropJob j.key).grantRead j.part j.addr y j.peer j.ask

/-- A request ends with a code, the entry as it stood (R119) (DEDUCED, log 52). -/
def State.dirFail (s : State) (j : DirJob) (code : Nat) : State :=
  let (x, s) := s.mfRead j.part j.addr
  let s := (s.dropJob j.key).mfWrite j.part j.addr (setBusy x false)
  if j.own then s.sendWay j.peer 13 [j.ask, code, 0, 0] [] else s.sendWay j.peer 10 [j.ask, code, 0] []

/-- OWNERSHIP_REQUEST: package n0 wants ownership for entry n1 of its own: world n2, size n3, page n4, the VERSION of its lookup n5. -/
def execOwnershipRequest (s : State) : Out :=
  let peer := s.argN 0
  let ask := s.argN 1
  let (d, s) := s.dirEntry (s.argN 2) (s.argN 3) (s.argN 4)
  s.waitTurn .ownershipRequest d.isBusy fun s =>
  match d with
  | .busy => .next s
  | .nack c => .next (s.sendWay peer 13 [ask, if c = 1 then 0x21 else c, 0, 0] [])
  | .at_ part addr x =>
    let owner := if meOwnv x ∧ meOwner x ≠ peer then some (meOwner x) else none
    let who := (if meShovf x then s.members else meSharers x).filter (fun p => p != peer && some p != owner && s.isMember p)
    let j : DirJob := ⟨part, addr, peer, ask, s.argN 5, false, who, [], owner.isSome, true, false, s.time⟩
    let s := s.mfWrite part addr (setBusy x true)
    let s := who.foldl (fun s p => s.sendWay p 8 [j.key, s.argN 2, s.argN 3, s.argN 4] []) s
    .next (s.dirGo j)

/-- INVALIDATION_ACK: package n0 answers request n1 with 0 done, 1 pinned, 2 refused by its gate, or 3 not written back. -/
def execInvalidationAck (s : State) : Out :=
  match s.dirJob? (s.argN 1) with
  | none => .next s
  | some j =>
    let p := s.argN 0
    let st := s.argN 2
    if j.left.contains p then
      .next (s.dirGo { j with left := j.left.filter (fun q => q != p), failed := if st = 0 then j.failed else j.failed ++ [p] })
    else if j.writeback ∧ j.asked then
      .next (match st with
        | 0 => s.dirGo { j with writeback := false }
        | 1 => s.dirFail j (if j.own then 0x100 else 0x22)
        | 2 => s.dirFail j 0x29
        | _ => s.dirFail j 0x30)
    else .next s

/-- INVALIDATION_TIMEOUT: FR + EV have passed since request n0's questions left: who is silent has not acknowledged. -/
def execInvalidationTimeout (s : State) : Out :=
  match s.dirJob? (s.argN 0) with
  | none => .next s
  | some j =>
    if j.left.any (fun p => !s.isMember p) then .next (s.dirGo j)
    else if s.time < j.since + s.wsFr j.part + s.wsEv j.part then .next s
    else if j.left ≠ [] then .next (s.dirGo { j with left := [], failed := j.failed ++ j.left })
    else if j.writeback ∧ j.asked then .next (s.dirFail j 0x30)
    else .next s

/-- DIRECTORY_ENTRY_UPDATE: package n0 has evicted page n3 (size n2) of world n1, which it owned where n4 = 1 (R116 step 4). -/
def execDirectoryEntryUpdate (s : State) : Out :=
  let (d, s) := s.dirEntry (s.argN 1) (s.argN 2) (s.argN 3)
  s.waitTurn .directoryEntryUpdate d.isBusy fun s =>
  match d with
  | .busy => .next s
  | .nack _ => .next s
  | .at_ part addr x =>
    let p := s.argN 0
    let y := meKeep x (fun q => q != p)
    let y := if s.argN 4 = 1 ∧ meOwnv x ∧ meOwner x = p then setBits (setBits y 107 1 0) 58 2 0 else y
    .next (s.mfWrite part addr y)

/-! ### The holder of a copy (R109, R118, R119) -/

/-- A directory asks for a copy back: nothing to do without one; behind an eviction of the page that is under way; otherwise an eviction of
its own, once the copy is unpinned. -/
def State.giveBack (s : State) (i : Instr) (dir job world size vpn : Nat) (keep : Bool) (entry : Option Nat) : Out :=
  s.waitTurn i (s.way.evicts.any (fun x => x.copy.world == world && x.copy.size == size && x.copy.vpn == vpn)) fun s =>
    match s.copy? world size vpn with
    | none => .next ((s.uncache world size vpn).sendWay dir 9 [job, 0] [])
    | some c =>
      let x : Evict := ⟨{ c with entry := entry.getD c.entry }, (s.partOf world).getD 0, false, 0, none, some (dir, job), keep, [], s.time⟩
      .next ({ s with way := { s.way with evicts := s.way.evicts ++ [x] } }.evictGo x)

/-- INVALIDATION: directory n0 asks, under request n1, for the copy of world n2, size n3, page n4 to go. -/
def execInvalidation (s : State) : Out := s.giveBack .invalidation (s.argN 0) (s.argN 1) (s.argN 2) (s.argN 3) (s.argN 4) false none

/-- OWNER_WRITEBACK: ... for the owner's page to be written back to the home that entry n6 names; with n5 = 1 a read copy stays. -/
def execOwnerWriteback (s : State) : Out :=
  s.giveBack .ownerWriteback (s.argN 0) (s.argN 1) (s.argN 2) (s.argN 3) (s.argN 4) (s.argN 5 == 1) (some (s.argN 6))

/-- INVALIDATION_PINNED_TIMEOUT: the copy of eviction n0 has stayed pinned for EV since it was asked for: "pinned" (R118). -/
def execInvalidationPinnedTimeout (s : State) : Out :=
  match s.way.evicts.find? (fun x => x.key == s.argN 0) with
  | none => .next s
  | some x =>
    match x.st, x.reply with
    | 0, some (d, job) => if x.since + s.wsEv x.part ≤ s.time then .next ((s.dropEvict x).sendWay d 9 [job, 1] []) else .next s
    | _, _ => .next s

/-! ### The requester (R118) -/

/-- OWNERSHIP_ANSWER: directory n0 answers entry n1 with code n2; n3 = 1: its data is current; n4: the new VERSION. -/
def execOwnershipAnswer (s : State) : Out :=
  match s.pend? (s.argN 1) with
  | none => .next s
  | some e =>
    if e.st ≠ 5 then .next s
    else
      let p := s.pendPart e
      match s.argN 2 with
      | 0 =>
        let e := { e with owned := true, entry := setBits e.entry 64 32 (s.argN 4) }
        if s.argN 3 = 1 then .next (s.install { e with st := 6 })
        else .next (s.drawFrame e)
      | 0x21 =>
        if s.wsRt p < e.attempts then .next (s.decline e 6 (s.argN 0) 0x21)
        else .next ((s.uncache e.world e.size e.vpn).askDirectory { e with ownMoves := e.attempts, attempts := 0, owned := false })
      | 0x29 => .next (s.decline e 0x0A (s.argN 0) 0)
      | 0x100 => .next (s.decline e 9 (s.argN 0) 0)
      | c => .next (s.decline e 6 (s.argN 0) c)

/-- OWNERSHIP_TIMEOUT: entry n0's request has not been answered in FR + EV. -/
def execOwnershipTimeout (s : State) : Out :=
  match s.pend? (s.argN 0) with
  | none => .next s
  | some e =>
    let p := s.pendPart e
    if e.st ≠ 5 ∨ s.time < e.since + s.wsFr p + s.wsEv p then .next s
    else if s.wsRt p < e.attempts then .next (s.decline e 9 (((s.dirOf e.world e.size e.vpn).map Prod.fst).getD 0) 0)
    else .next (s.askOwner e)

/-! ### The home (R116, R125) -/

/-- The granules of a backing frame that no world owns are claimed for the kernel world of the partition (R480). -/
def State.claimFrame (s : State) (part gpa size : Nat) : State :=
  (List.range (2 ^ pageBits size / 4096)).foldl (fun s k => ((s.hubWorld (some part) (gpa + 4096 * k)).map (fun r => r.2.2)).getD s) s

/-- Does the world own every granule of a backing frame? -/
def State.ownsFrame (s : State) (part world gpa size : Nat) : Bool :=
  (s.frameGrans part gpa size).all (fun x => match x.2 with
    | some (_, g) => granOwner g == world
    | none => false)

/-- The number of a page. -/
def pageKey (world size vpn : Nat) : Nat := world * 2 ^ 47 + size * 2 ^ 45 + vpn

/-- Has the entry changed since requester `peer` read it (R125)? The home knows the VERSION its last write-back was made under, and, where it is
the directory too, the entry itself (DEDUCED, log 50). -/
def State.entryMoved (s : State) (peer world size vpn version : Nat) : Bool × State :=
  if version < tget 0 s.way.homeVer (pageKey world size vpn) then (true, s)
  else match s.dirOf world size vpn with
  | some (d, s) =>
    if d ≠ s.me then (false, s)
    else match s.topPart world with
      | none => (false, s)
      | some part =>
        match s.mfFind part world size vpn with
        | (some (_, x), s) => (meVersion x != version || meState x == 1 && meOwnv x && !meBusy x && meOwner x != peer, s)
        | (none, s) => (true, s)
  | none => (false, s)

/-- PAGE_READ: package n0's entry n1 reads page n4 (size n3) of world n2 at backing frame n5, VERSION n6, attempt n7. Page data to a package not attested
for the world passes the gate (R431, R432). -/
def execPageRead (s : State) : Out :=
  let peer := s.argN 0
  let answer := fun (s : State) (c : Nat) => s.sendWay peer 11 [s.argN 1, c, s.argN 7] []
  let w := s.argN 2
  match s.topPart w with
  | none => .next (answer s 0x23)
  | some part =>
    let s := s.claimFrame part (s.argN 5) (s.argN 3)
    if !s.ownsFrame part w (s.argN 5) (s.argN 3) then .next (answer s 0x27)
    else match s.entryMoved peer w (s.argN 3) (s.argN 4) (s.argN 6) with
    | (true, s) => .next (answer s 0x21)
    | (false, s) =>
      let (bs, wbs, po, s) := s.pageData w (s.argN 3) (s.argN 5)
      let wb := wbs.foldl (fun w v => w ||| BitVec.ofNat 16 v) (0 : Waybill)
      match s.gate (if s.attestedFor w peer then [] else [⟨w, wb, destPackage peer, 2 ^ pageBits (s.argN 3)⟩]) with
      | .error (_, _, s) => .next (answer s cEGRESS)
      | .ok s => .next (s.sendWay peer 11 ([s.argN 1, 0, s.argN 7] ++ wbs ++ po) bs)

/-- PAGE_WRITEBACK: package n0's request n1 writes page n4 (size n3) of world n2 to backing frame n5; n6 granules, under VERSION n7;
their waybills, then the poisoned half-lines, follow (DEDUCED, log 51). -/
def execPageWriteback (s : State) : Out :=
  let answer := fun (s : State) (c q : Nat) => s.sendWay (s.argN 0) 2 [s.argN 1, c, q] []
  let w := s.argN 2
  let gpa := s.argN 5
  match s.topPart w with
  | none => .next (answer s 0x23 0)
  | some part =>
    let s := s.claimFrame part gpa (s.argN 3)
    let gs := s.frameGrans part gpa (s.argN 3)
    if !s.ownsFrame part w gpa (s.argN 3) then .next (answer s 0x27 0)
    else if gs.any (fun x => match x.2 with
      | some (_, g) => granSealed g
      | none => false) then .next (answer s cSEALED 12)
    else
      let s := { s with way := { s.way with homeVer := tset 0 s.way.homeVer (pageKey w (s.argN 3) (s.argN 4)) (s.argN 7) } }
      .next (answer (s.fillFrame w (s.argN 3) gpa s.arg.bytes ((s.arg.n.drop 8).take (s.argN 6)) (s.arg.n.drop (8 + s.argN 6))) 0 0)

/-! ### Answers to requests (R157, R184 to R187) -/

/-- An answer reaches whoever asked. -/
def State.remAnswer (s : State) (id : Nat) (r : Rem) (code reason : Nat) (vals : List Nat) (bs : List Byte) (wb : Waybill) : State :=
  if r.kind = 4 then { s with fab := { s.fab with rems := terase s.fab.rems id } }.opLeave id
  else match r.who with
    | .path op => s.pathAnswer id op r code reason vals wb
    | .eng op => s.engAnswer id op r code reason (if r.kind = 0 then (r.lanes.zip vals).flatMap (fun e => bytesOf e.1.size e.2) else bs) wb
    | .way key => s.wayAnswer id key code (if r.peer < 1024 then r.peer else 0)
    | .post _ path who launch => s.postAck id r code reason who launch path

/-- REMOTE_ACK: peer n0 answers write or put n1 with code n2 and reason n3. -/
def execRemoteAck (s : State) : Out :=
  match tfind s.fab.rems (s.argN 1) with
  | none => .next s
  | some r => if r.peer = s.argN 0 then .next (s.remAnswer (s.argN 1) r (s.argN 2) (s.argN 3) [] [] 0) else .next s

/-- REMOTE_RESPONSE: peer n0 answers request n1 with code n2, reason n3, waybill n4 and the values behind it. -/
def execRemoteResponse (s : State) : Out :=
  match tfind s.fab.rems (s.argN 1) with
  | none => .next s
  | some r =>
    if r.peer = s.argN 0 then
      .next (s.remAnswer (s.argN 1) r (s.argN 2) (s.argN 3) (s.arg.n.drop 5) s.arg.bytes (BitVec.ofNat 16 (s.argN 4)))
    else .next s

/-- REMOTE_TIMEOUT: request n0 has not been answered in sys.fbto.RTO; a drain waits on (R186 to R188). -/
def execRemoteTimeout (s : State) : Out :=
  match tfind s.fab.rems (s.argN 0) with
  | none => .next s
  | some r =>
    if r.kind = 4 ∨ s.time < r.since + usec ((s.pkg 0x0A3).toNat / 65536 % 65536) then .next s
    else .next (s.remAnswer (s.argN 0) r 0x30 0 [] [] 0)

/-- ETHERNET_RESPONSE: the transport answers request n0, with an error where n1 is not 0: EPINVAL when the endpoint's entry is invalid by now, and
NOANSWER otherwise (R195); a read brings its bytes, which take the endpoint's ORIGINS (R108, R413, R427). -/
def execEthernetResponse (s : State) : Out :=
  match tfind s.fab.rems (s.argN 0) with
  | none => .next s
  | some r =>
    let x := (s.endpoint r.world (r.peer - 1024)).map Prod.fst
    let o := (x.map epOrigins).getD 0
    let code := if s.argN 1 = 0 then 0 else if (x.map epValid).getD false then 0x30 else 0x28
    .next (s.remAnswer (s.argN 0) r code 0 [] s.arg.bytes o)

/-! ### Frames of the pools (R48) -/

/-- The size code of a pool register: 0x068 to 0x06A, 0x06C to 0x06E. -/
def poolCode (n : Nat) : Nat := n % 4

/-- A frame goes to a path that reads a pool register: the pair, and the next word. -/
def State.frameTo (s : State) (u : Nat) (b : Bool) (t : Str) (reg gpa : Nat) : State :=
  let p := t.path b
  let t := t.sputPair reg (BitVec.ofNat 64 gpa) p.flow
  s.putStr u ((advance t p).1.setPath b (advance t p).2)

/-- FRAME_READ_SERVED: the oldest reader of partition n0's pool of size n1 has its frame (R48). -/
def execFrameReadServed (s : State) : Out :=
  match s.xl.poolWait.find? (fun w => w.part == s.argN 0 && w.size == s.argN 1) with
  | none => .next s
  | some w =>
    let stale : Bool := match w.who with
      | none => false
      | some (u, b) => !((s.str? u).map (fun t => (t.path b).hold == .frame && !t.captured)).getD false
    if stale then .next { s with xl := { s.xl with poolWait := s.xl.poolWait.filter (fun x => x != w) } }
    else match s.poolTake w.part w.size with
    | none => .next s
    | some (g, s) =>
      match w.who with
      | none =>
        match s.pend? w.entry with
        | some e => .next (s.frameFor e g)
        | none => .next { s with xl := { s.xl with poolWait := s.xl.poolWait.filter (fun x => x != w) } }
      | some (u, b) =>
        let s := { s with xl := { s.xl with poolWait := s.xl.poolWait.filter (fun x => x != w) } }
        match s.str? u with
        | none => .next s
        | some t => .next (s.frameTo u b t w.reg g)

end Sys2Proof.Machine
end

