-- ==== Sys2Proof/Machine/Sys.lean ====
section
/-! DEFINITION. The system registers (R60, R304, R342): what each reads, what a write stores or starts, SYSR and SYSW, and the frame-pool
reads (R48). -/

namespace Sys2Proof.Machine

/-! ### Scopes -/

/-- sys.pselect of a string; 24 to 31 select no partition (R60). -/
def Str.pselect (t : Str) : Option Nat := if (t.reg 0x062).toNat < 24 then some (t.reg 0x062).toNat else none

/-- The partition a per-partition register stands for: the selected one at steward level, otherwise that of the current world (DEDUCED, log 56). -/
def State.ownPart (s : State) (t : Str) (p : Path) : Option Nat := if 2 ≤ p.level then t.pselect else s.partOf t.world

/-- ... the top-level one. The error and fabric rings of world 0 are the steward's, kept at 24. -/
def State.ownTop (s : State) (t : Str) (p : Path) (n : Nat) : Option Nat :=
  if (n = 0x073 ∨ n = 0x0A8) ∧ t.world = 0 then some 24 else (s.ownPart t p).map s.topOf

/-- Where a register is kept. -/
inductive RegHome where
  | str
  | path
  | world
  | part
  | top
  | sel
  | die
  | pkg
deriving DecidableEq, Repr

def regHome (n : Nat) : RegHome :=
  match n with
  | 0x021 | 0x040 | 0x050 | 0x060 | 0x0D3 | 0x0E9 => .world
  | 0x012 | 0x080 | 0x082 | 0x088 | 0x0A9 | 0x0D4 | 0x0D5 | 0x0D6 | 0x0D7 | 0x0DA | 0x0E1 | 0x0E7 | 0x0EA => .part
  | 0x073 | 0x081 | 0x085 | 0x086 | 0x087 | 0x0A8 | 0x0C5 | 0x0D9 | 0x0EB => .top
  | 0x063 | 0x064 | 0x065 | 0x0C0 | 0x0C4 => .sel
  | 0x066 | 0x067 => .die
  | 0x022 | 0x06F | 0x071 | 0x072 | 0x074 | 0x0A0 | 0x0A1 | 0x0A3 | 0x0A4 | 0x0A5 | 0x0C1 | 0x0F0 | 0x0F1 | 0x0F2 | 0x0F3 | 0x0F5 => .pkg
  | _ => .str

/-- The string whose registers a unit reads: an outrider reads those of the string it is bound to (DEDUCED, log 57). -/
def State.regStr (s : State) (u : Nat) (t : Str) : Nat × Str :=
  if t.outrider then (t.bound, (s.str? t.bound).getD t) else (u, t)

/-- The key of a per-die register. -/
def dieKey (p core n : Nat) : Nat := (p * 4 + dieOf core + 32) * 4096 + n

/-! ### Reading -/

/-- sys.occ (R75). -/
def State.occ (s : State) (t : Str) (p : Path) (core : Nat) : Nat :=
  let sel := t.reg 0x052
  let w := (sel.extractLsb' 0 8).toNat
  let count := fun (w : Nat) =>
    let l := (s.l1Of core).filter (fun c => c.world == w)
    (l.filter (fun c => decide (16 ≤ c.way))).length * 65536 + (l.filter (fun c => decide (c.way < 16))).length
  if p.level = 0 ∨ !sel.getLsbD 31 then count t.world
  else if 2 ≤ p.level then count w
  else if (s.partOf w).isSome ∧ s.partOf w = s.partOf t.world then count w else 0

/-- sys.tstat (R423). -/
def State.tstat (s : State) (t : Str) (core : Nat) : Nat :=
  (List.range 8).foldl (fun a k =>
    let v := match s.tileOf t core k false with
      | none => 8
      | some n => match (s.tile n).token with
        | .none => 0
        | .str w => if w = t.key then 1 else 2
        | .eng w => if w = t.key then 3 else 4
    a + v * 16 ^ k) 0

/-- sys.lnstat (R198) (DEDUCED, log 90). -/
def laneWord (x : Lane) : Nat :=
  x.peer % 1024 * 2 ^ 54 + x.st % 8 * 2 ^ 51 + (x.lease.getD 0) % 256 * 2 ^ 43 + (if x.lease.isSome then 2 ^ 42 else 0) +
    min 255 x.retr * 2 ^ 34 + min 16383 x.uncor * 2 ^ 20 + min 1048575 x.corr

/-- A queue's configuration, in the register's layout (R271). -/
def Queue.word (q : Queue) : Nat := (if q.en then 2 ^ 31 else 0) + (if q.ord then 2 ^ 30 else 0) + q.next % 4 * 2 ^ 28 + q.part % 32
def Queue.blank : Queue := ⟨false, false, 0, 0, 0, 0, []⟩
def State.queue (s : State) (q : Nat) : Queue := tget Queue.blank s.sch.queues q

/-- A quantum of the time base, and the priority of a queue in a quantum: a written PRIO takes effect at the next boundary (R271, R272). -/
def quantum : Nat := 3600000
def State.prioAt (s : State) (k q : Nat) : Nat := if (s.queue q).wrote < k then (s.queue q).next else (s.queue q).prio
def State.prioNow (s : State) (q : Nat) : Nat := s.prioAt (s.time / quantum) q

def State.setQueue (s : State) (k : Nat) (q : Queue) : State :=
  { s with sch := { s.sch with queues := if q = Queue.blank then terase s.sch.queues k else tput s.sch.queues k q } }

/-- May a path at its level configure the queue (R271)? -/
def State.ownsQueue (s : State) (t : Str) (p : Path) (q : Nat) : Bool := decide (2 ≤ p.level) || some (s.queue q).part == s.topPart t.world

/-- Dies where a queue is mapped. -/
def State.mappedDies (s : State) (q : Nat) : Nat :=
  (List.range 4).foldl (fun a d => a + (if ((tfind s.sch.maps (d * 4096 + q)).map MapE.mapped).getD false then 2 ^ d else 0)) 0

/-- Slot time of the whole package in a period (R285). -/
def periodSlots : Nat := 384 * 32 * 36000000

/-- The string sys.dbgsel selects (R266). -/
def State.dbgUnit (s : State) : Nat := (s.pkg 0x0C1).toNat % 512 * 64 + (s.pkg 0x0C1).toNat / 512 % 32

def State.dbgState (s : State) (u : Nat) : Nat :=
  match s.str? u with
  | none => 3
  | some t => match t.dbg with
    | .running => 0
    | .halted => 1
    | .fatal => 2

/-- The registers computed from other state; none for one kept as written. -/
def State.regNow (s : State) (u : Nat) (t : Str) (p : Path) (n : Nat) : Option Nat :=
  let core := coreOf u
  let (hu, h) := s.regStr u t
  match n with
  | 0x000 => some h.world
  | 0x001 => some p.level
  | 0x002 => some (slotOf hu % 32 * 32 + h.index % 32)
  | 0x003 => some (h.party % 2 ^ 24)
  | 0x004 => some (core % 8 * 65536 + core)
  | 0x005 => some (convoyOf core % 12 * 256 + convoyOf core)
  | 0x006 => some (dieOf core)
  | 0x007 => some ((s.members.findIdx (fun q => q == s.me)) * 65536 + s.me)
  | 0x008 => some p.mask.toNat
  | 0x010 => some (s.time % 2 ^ 64)
  | 0x026 => some h.lmask.toNat
  | 0x027 => some h.repidx
  | 0x030 => some p.flow.toNat
  | 0x050 => some (s.wayMask h.world)
  | 0x051 => some (s.occ h p core)
  | 0x061 => some p.tinfo.toNat
  | 0x06B => (s.ownTop h p n).map (fun q => (s.poolCounts q).toNat)
  | 0x084 => some p.wsdecl.toNat
  | 0x090 => some ((tget 0 s.mem.lockPeak core) % 128 * 256 + (tget [] s.mem.locks core).length % 128)
  | 0x0A7 => some (if s.fab.started then laneWord (s.lane (h.reg 0x0A6).toNat) else 0)
  | 0x0AA => some p.rfinfo.toNat
  | 0x0B8 => some ((s.queueOf 1 core).length + (s.queueOf 0 core).length * 256 + (s.queueOf 2 core).length * 65536)
  | 0x0B9 => some (s.tstat h core)
  | 0x0BB => some (tget 0 s.eng.btcstat core).toNat
  | 0x0BC => some (tget 0 s.eng.mcstat core).toNat
  | 0x0C2 => some (if ((s.str? s.dbgUnit).map Str.brkh).getD false then 2 ^ 28 else 0)
  | 0x0C3 => some (s.dbgState s.dbgUnit * 2 ^ 30)
  | 0x0D1 => some (if s.ownsQueue h p (h.reg 0x0D0).toNat then (s.queue (h.reg 0x0D0).toNat).word else 0)
  | 0x0D2 => some (min 65535 (s.queue (h.reg 0x0D0).toNat).items.length * 65536 + s.mappedDies (h.reg 0x0D0).toNat * 4096)
  | 0x0D8 => some (match s.ownPart h p with
    | none => 0
    | some q => min 65535 (tget 0 s.sch.slotTime q * 65536 / periodSlots))
  | 0x0E3 => some (match tfind s.tr.policies (h.reg 0x0E2).toNat with
    | none => 0
    | some x => if x.world = h.world ∧ s.mono < x.expiry then 2 ^ 31 + x.world * 65536 + x.origins.toNat else 0)
  | 0x0E4 => some (match tfind s.tr.policies (h.reg 0x0E2).toNat with
    | none => 0
    | some x => if x.world = h.world ∧ s.mono < x.expiry then x.remaining else 0)
  | 0x0E5 => some p.gtinfo.toNat
  | 0x0E6 => some (s.mono % 2 ^ 64)
  | 0x0E8 => some ((if 65536 ≤ s.tr.log.length then 2 ^ 31 else 0) + (s.tr.log.filter (fun r => r.world == h.world)).length)
  | _ => none

/-- What a read of a defined register returns; the frame pools are read by their own operation. -/
def State.regRead (s : State) (u : Nat) (t : Str) (p : Path) (n : Nat) : Dword :=
  match s.regNow u t p n with
  | some v => BitVec.ofNat 64 v
  | none =>
    let h := (s.regStr u t).2
    let at_ := fun (q : Option Nat) => match q with
      | none => (0 : Dword)
      | some q => s.preg q n
    if n = 0x028 then (if 2 ≤ p.level then at_ h.pselect else s.kernelDeleg h.world)
    else match regHome n with
      | .str => h.reg n
      | .path => 0
      | .world => s.wreg h.world n
      | .part => at_ (s.ownPart h p)
      | .top => at_ (s.ownTop h p n)
      | .sel => at_ h.pselect
      | .die => match s.ownPart h p with
        | none => 0
        | some q => regGet s.partRegs (dieKey q (coreOf u) n)
      | .pkg => s.pkg n

/-! ### What a write stores (R7, and each register's own table) -/

/-- Bits [k + n - 1 : k] of a number moved into a range; made 1 where they are 0. -/
def clampBits (v k n lo hi : Nat) : Nat := setBits v k n (max lo (min hi (v / 2 ^ k % 2 ^ n)))
def oneBits (v k n : Nat) : Nat := if v / 2 ^ k % 2 ^ n = 0 then setBits v k n 1 else v

/-- The bits of a register that are not reserved (DEDUCED, log 58). -/
def regMask (n : Nat) : Nat :=
  match n with
  | 0x012 => 0xFFFF
  | 0x013 => 0xFFC00000
  | 0x014 | 0x015 => 0xFFFFFFFF
  | 0x016 => 0xFFFF0000
  | 0x020 | 0x021 | 0x022 => 0xFFFFFFFFFFFFFFFC
  | 0x023 => 0xFF
  | 0x028 => 0x3FFFFE
  | 0x02D => 0x800000F7
  | 0x040 => 0xFFFFFFFF
  | 0x050 => 0xFFFF
  | 0x052 => 0x800000FF
  | 0x060 => 0xFFFFFFFFFF001
  | 0x062 => 0x1F
  | 0x063 => 0xFFFFFFFFF0001
  | 0x065 => 0xC000003F
  | 0x066 => 0xFFFFF000
  | 0x067 | 0x073 | 0x082 | 0x0A8 | 0x0D9 | 0x0EB => 0xFFFFFFFFFFFC0
  | 0x06F => 0x3FF
  | 0x070 => 0xFFFFFFFFFFFFFF80
  | 0x071 | 0x0C0 => 0xFFFFFFFFFF000
  | 0x072 => 0xFFFFFFFF
  | 0x074 => 0x8000003F
  | 0x080 => 0x8000001D
  | 0x081 => 0xFFFFFFFF
  | 0x085 => 0xFFFFFFFFFF03F
  | 0x086 => 0xFFFFFFFFFF800
  | 0x087 => 0xFFFFFFFFFFFE0
  | 0x0A0 => 0x3FF
  | 0x0A1 => 0xFFFFFFFFFE000
  | 0x0A3 => 0xFFFFFF00
  | 0x0A4 => 0x3F
  | 0x0A5 => 0xFFF
  | 0x0A6 => 0x3FF
  | 0x0A9 => 1
  | 0x0B0 => 3
  | 0x0B1 => 0x7F
  | 0x0C1 => 0x3FFF
  | 0x0C4 => 0xFFFFFF
  | 0x0C5 => 0xFFFFFFFE0FFFF
  | 0x0D0 => 0xFFF
  | 0x0D3 => 0x81FFFFFF
  | 0x0D4 => 0xC00003E0
  | 0x0D5 | 0x0D6 => 0xFFFFFF00
  | 0x0D7 => 0xFFFF
  | 0x0DA => 0x800000FF
  | 0x0E2 => 0x3FF
  | 0x0E9 => 0xFFFF
  | 0x0EA => 1
  | 0x0F0 => 0xFFFF
  | _ => 0xFFFFFFFFFFFFFFFF

/-- A value as a register takes it: reserved bits dropped, fields moved into their ranges. -/
def regClamp (n old v : Nat) : Nat :=
  let v := v &&& regMask n
  match n with
  | 0x02D => clampBits v 4 4 0 12
  | 0x040 => if 27 ≤ v % 32 then v / 32 * 32 + 31 else v
  | 0x065 => clampBits v 0 6 30 52
  | 0x066 => clampBits v 25 5 8 24
  | 0x06F => clampBits v 0 10 0x200 0x238
  | 0x070 => ((BitVec.ofNat 57 v).signExtend 64).toNat
  | 0x074 => oneBits (if v.testBit 31 then setBits v 31 1 (old / 2 ^ 31) else v) 0 6
  | 0x081 => oneBits (oneBits (oneBits (oneBits v 24 6) 16 8) 8 8) 0 8
  | 0x085 => clampBits v 0 6 6 22
  | 0x088 | 0x0E7 => 0
  | 0x0A3 => oneBits (oneBits v 16 16) 8 8
  | 0x0A4 => oneBits (clampBits v 2 4 6 15) 0 2
  | 0x0A5 => oneBits v 0 12
  | 0x0C5 => clampBits v 0 16 0 32768
  | 0x0D5 | 0x0D6 => oneBits v 8 8
  | 0x0DA => oneBits v 0 8
  | 0x0F0 => clampBits v 0 16 1200 3200
  | _ => v

/-- Is a write of sys.pcfg ignored (R284)? -/
def State.pcfgBad (s : State) (q old v : Nat) : Bool :=
  (old.testBit 31 && (old ^^^ v) &&& 0x400003E0 != 0) ||
    (v.testBit 30 && (v / 32 % 32 == q || (s.preg (v / 32 % 32) 0x0D4).getLsbD 30 ||
      (List.range 24).any (fun n => (s.preg n 0x0D4).getLsbD 30 && ((s.preg n 0x0D4).extractLsb' 5 5).toNat == q)))

/-- sys.pcfg: the partition's parent follows CHILD and PARENT (R11, R284), a PARENT of 24 to 31 too (DESIGN CHOICE, log 138). -/
def State.pcfgWrite (s : State) (q v : Nat) : State :=
  let old := (s.preg q 0x0D4).toNat
  if s.pcfgBad q old v then s
  else
    let s := s.setPreg q 0x0D4 (BitVec.ofNat 64 v)
    { s with xl := { s.xl with parent := if v.testBit 30 then tput s.xl.parent q (v / 32 % 32) else terase s.xl.parent q } }

/-- sys.wbctl (R84): ignored while busy, or for no partition. -/
def State.wbWrite (s : State) (v : Nat) : State :=
  if (s.pkg 0x072).getLsbD 31 ∨ 24 ≤ v / 2 ^ 24 % 32 then s
  else
    let s := s.setPkg 0x072 (BitVec.ofNat 64 v)
    if v.testBit 31 then { s with agenda := ⟨0, .event .writeBackStart ⟨[], []⟩⟩ :: s.agenda } else s

/-- sys.qctl of the selected queue (R271). -/
def State.qctlWrite (s : State) (t : Str) (p : Path) (v : Nat) : State :=
  let k := (t.reg 0x0D0).toNat
  let q := s.queue k
  if !s.ownsQueue t p k then s
  else s.setQueue k { q with en := v.testBit 31, ord := v.testBit 30, prio := s.prioNow k, next := v / 2 ^ 28 % 4, wrote := s.time / quantum, part := if 2 ≤ p.level then v % 32 else q.part }

/-- sys.dbgctl of the selected string (R266). -/
def State.dbgWrite (s : State) (v : Nat) : State :=
  let u := s.dbgUnit
  let s := match s.str? u with
    | none => s
    | some t => s.putStr u { t with brkh := v.testBit 28 }
  let acts : List Item := (if v.testBit 31 then [(⟨0, .event .debugHalt ⟨[u], []⟩⟩ : Item)] else []) ++
    (if v.testBit 30 then [(⟨0, .event .debugResume ⟨[u], []⟩⟩ : Item)] else []) ++
    (if v.testBit 29 then [(⟨0, .event .debugStep ⟨[u], []⟩⟩ : Item)] else [])
  { s with agenda := acts ++ s.agenda }

/-- sys.trcmd (R446): ignored while busy. -/
def State.trWrite (s : State) (part world v : Nat) : State :=
  let i : Option Instr := match v / 2 ^ 60 with
    | 1 => some .orgload
    | 2 => some .attest
    | 3 => some .report
    | 4 => some .ack
    | 5 => some .logrd
    | _ => none
  match i with
  | none => s
  | some i =>
    if (s.preg part 0x0E1).getLsbD 31 then s
    else
      { s.setPreg part 0x0E1 0x80000000 with
        tr := { s.tr with cmds := tput s.tr.cmds part ⟨v / 2 ^ 60, v % 2 ^ 52, world, s.time⟩ }
        agenda := ⟨0, .event i ⟨[part], []⟩⟩ :: s.agenda }

/-- sys.plcmd (R278). -/
def State.plWrite (s : State) (v : Nat) : State :=
  let a : Arg := ⟨[v / 2 ^ 40 % 4096, v / 2 ^ 16 % 2 ^ 24, v % 512], []⟩
  match v / 2 ^ 60 with
  | 1 => { s with agenda := ⟨0, .event .place a⟩ :: s.agenda }
  | 2 => { s with agenda := ⟨0, .event .defer a⟩ :: s.agenda }
  | _ => s

/-- A write that is privileged for what it names (R124, R278). -/
def State.writePriv (s : State) (t : Str) (p : Path) (n v : Nat) : Bool :=
  let out := fun (x : Option Nat) => decide (p.level < 2) && (x.isNone || x != s.topPart t.world)
  match n with
  | 0x083 => (v / 2 ^ 60 == 1 || v / 2 ^ 60 == 2) && out (s.topPart (v / 2 ^ 45 % 256))
  | 0x0DB => (v / 2 ^ 60 == 1 || v / 2 ^ 60 == 2) && out (some (s.queue (v / 2 ^ 40 % 4096)).part)
  | _ => false

/-- The write of a register at a unit's path, its string in its slot. -/
def State.regWrite (s : State) (u : Nat) (t : Str) (p : Path) (n : Nat) (w : Dword) : State :=
  let v := w.toNat
  let core := coreOf u
  let kept := fun (old : Dword) => BitVec.ofNat 64 (regClamp n old.toNat v)
  let at_ := fun (q : Option Nat) => match q with
    | none => s
    | some q => s.setPreg q n (kept (s.preg q n))
  match n with
  | 0x000 => s.putStr u { t with world := v % 256 }
  | 0x016 =>
    let s := s.putStr u (t.setReg n (kept 0))
    if v.testBit 15 then { s with agenda := ⟨0, .event .engineRestart ⟨[u, v / 2 ^ 28 % 16, v / 2 ^ 24 % 16], []⟩⟩ :: s.agenda } else s
  | 0x028 =>
    if 2 ≤ p.level then at_ t.pselect else s.setWreg t.world n (kept 0)
  | 0x050 => s.setWreg t.world n (kept 0)
  | 0x06F => if s.xl.part.isEmpty then s.setPkg n (kept 0) else s
  | 0x072 => s.wbWrite (v % 2 ^ 32)
  | 0x083 => match s.ownTop t p n with
    | none => s
    | some q => { s with agenda := wsCommand q w false ++ s.agenda }
  | 0x090 => { s with mem := { s.mem with lockPeak := tset 0 s.mem.lockPeak core (tget [] s.mem.locks core).length } }
  | 0x0A2 => { s with agenda := ⟨0, .event .fbsync ⟨[v % 1024], []⟩⟩ :: s.agenda }
  | 0x0BA => if v.testBit 31 then { s with agenda := ⟨0, .event .btcInvalidate ⟨[core, t.world], []⟩⟩ :: s.agenda } else s
  | 0x0BB => { s with eng := { s.eng with btcstat := terase s.eng.btcstat core } }
  | 0x0BC => { s with eng := { s.eng with mcstat := terase s.eng.mcstat core } }
  | 0x0C2 => s.dbgWrite v
  | 0x0D1 => s.qctlWrite t p v
  | 0x0D4 => match s.ownPart t p with
    | none => s
    | some q => s.pcfgWrite q (regClamp n 0 v)
  | 0x0DB => s.plWrite v
  | 0x0E0 => match s.ownPart t p with
    | none => s
    | some q => s.trWrite q t.world v
  | 0x0F4 => if v.testBit 31 then { s with agenda := ⟨0, .event .rstctlWarm ⟨[], []⟩⟩ :: s.agenda } else s
  | _ =>
    match regHome n with
    | .str => s.putStr u (t.setReg n (kept (t.reg n)))
    | .path => s
    | .world => s.setWreg t.world n (kept (s.wreg t.world n))
    | .part => at_ (s.ownPart t p)
    | .top => at_ (s.ownTop t p n)
    | .sel => at_ t.pselect
    | .die => match s.ownPart t p with
      | none => s
      | some q => { s with partRegs := regSet s.partRegs (dieKey q core n) (kept (regGet s.partRegs (dieKey q core n))) }
    | .pkg => s.setPkg n (kept (s.pkg n))

/-! ### Levels (R60, R267, R304) -/

/-- Does the level allow the access to the registers of string t? A column that reads "none" asks for nothing here. -/
def sysLevel (t : Str) (p : Path) (a : SysAccess) : Bool :=
  match a with
  | .level l => decide (l ≤ p.level)
  | .handler => decide (t.trapLevel ≤ p.level)
  | .none => true

/-! ### The frame pools (R48) -/

/-- The size code of a pool register. -/
def poolSizeOf (n : Nat) : Nat := n % 4

/-- A read of sys.frame*: the oldest frame once no earlier reader waits; otherwise the path waits in arrival order. -/
def framePool (s : State) (t : Str) (p : Path) (n d : Nat) : Out :=
  match s.ownTop t p n with
  | none => finish s (t.sputPair d 0 (uniWb p 0)) p
  | some part =>
    let z := poolSizeOf n
    let s := { s with xl := { s.xl with poolWait := s.xl.poolWait.filter (fun w => w.who != some (s.curUnit, s.curPath)) } }
    match (if s.xl.poolWait.any (fun w => w.part == part && w.size == z) then none else s.poolTake part z) with
      | some (g, s) => finish s (t.sputPair d (BitVec.ofNat 64 g) (uniWb p 0)) p
      | none =>
        .next { s.putCur t { p with hold := .frame } with
          xl := { s.xl with poolWait := s.xl.poolWait ++ [⟨part, z, some (s.curUnit, s.curPath), 0, d⟩] } }

/-- A read of sys.ftry*: 0 at once from an empty pool, or from one whose frames earlier readers wait for (R48). -/
def frameTry (s : State) (t : Str) (p : Path) (n d : Nat) : Out :=
  match (s.ownTop t p n).bind (fun part =>
    if s.xl.poolWait.any (fun w => w.part == part && w.size == poolSizeOf n) then none else s.poolTake part (poolSizeOf n)) with
  | some (g, s) => finish s (t.sputPair d (BitVec.ofNat 64 g) (uniWb p 0)) p
  | none => finish s (t.sputPair d 0 (uniWb p 0)) p

/-- The SYSR a path stands at. -/
def Path.sysrHere (p : Path) : Option (Nat × Nat) :=
  match decode (p.words.getD (p.pos - 1) 0) with
  | .ok (.sysr d r) => if p.pos = 0 then none else some (r.toNat, d.toNat)
  | _ => none

/-- FRAME_POOL_READ: unit n0's path n1, which stands at a read of a frame pool at kernel level, reads it. -/
def execFramePoolRead (s : State) : Out :=
  match s.str? s.curUnit with
  | none => .next s
  | some t =>
    let p := t.path s.curPath
    match p.sysrHere with
    | some (r, d) =>
      if 0x068 ≤ r ∧ r ≤ 0x06A ∧ 1 ≤ p.level ∧ p.state = .running ∧ (p.hold = .none ∨ p.hold = .again) then framePool s t p r d else .next s
    | none => .next s

/-- FRAME_TRY_READ: the same for sys.ftry*. -/
def execFrameTryRead (s : State) : Out :=
  match s.str? s.curUnit with
  | none => .next s
  | some t =>
    let p := t.path s.curPath
    match p.sysrHere with
    | some (r, d) =>
      if 0x06C ≤ r ∧ r ≤ 0x06E ∧ 1 ≤ p.level ∧ p.state = .running ∧ (p.hold = .none ∨ p.hold = .again) then frameTry s t p r d else .next s
    | none => .next s

/-! ### SYSR and SYSW (R342) -/

def execSysr (d : BitVec 6) (r : BitVec 12) (s : State) : Out :=
  issued (.sysr d r) s fun t p =>
    let n := r.toNat
    match sysRow n with
    | none => trapWord s t p cILLEGAL
    | some row =>
      if !sysLevel (s.regStr s.curUnit t).2 p row.rd then trapWord s t p cPRIV
      else if row.rd = .none then
        finish s (if row.pair then t.sputPair d.toNat 0 (uniWb p 0) else t.sput d.toNat 0 (uniWb p 0)) p
      else if 0x068 ≤ n ∧ n ≤ 0x06A then framePool s t p n d.toNat
      else if 0x06C ≤ n ∧ n ≤ 0x06E then frameTry s t p n d.toNat
      else
        let v := s.regRead s.curUnit t p n
        finish s (if row.pair then t.sputPair d.toNat v (uniWb p 0) else t.sput d.toNat (v.setWidth 32) (uniWb p 0)) p

/-- A write by the issuing path: PRIV, or the store. -/
def sysStore (s : State) (t : Str) (p : Path) (n : Nat) (v : Dword) (k : State → Out) : Out :=
  match sysRow n with
  | none => trapWord s t p cILLEGAL
  | some row =>
    if row.wr = .none then trapWord s t p cILLEGAL
    else if !sysLevel (s.regStr s.curUnit t).2 p row.wr || s.writePriv t p n v.toNat then trapWord s t p cPRIV
    else k ((s.putCur t p).regWrite s.curUnit (t.setPath s.curPath p) p n v)

/-- Is a number no register, or one that nothing writes (R304)? -/
def sysUnwritten (n : Nat) : Bool := ((sysRow n).map (fun row => row.wr == .none)).getD true

/-- Does a register's own column want a higher level of its writer (R60)? -/
def sysWriteHigh (s : State) (t : Str) (p : Path) (n : Nat) : Bool :=
  ((sysRow n).map (fun row => !sysLevel (s.regStr s.curUnit t).2 p row.wr)).getD false

/-- SYSW (R342, R315): the level comes before the source (R301) (DEDUCED, log 115). -/
def execSysw (a : BitVec 6) (r : BitVec 12) (s : State) : Out :=
  issuedAt (.sysw a r) s (fun _ _ => sysUnwritten r.toNat) (fun t p => sysWriteHigh s t p r.toNat) fun t p =>
    let pair := ((sysRow r.toNat).map SysRow.pair).getD false
    let v : Dword := if pair then t.spair a.toNat else (t.sget a.toNat).setWidth 64
    let w := t.sws a.toNat (if pair then 2 else 1)
    sysStore s t p r.toNat v fun s =>
      match s.str? s.curUnit with
      | none => .next s
      | some t => finish s t ((t.path s.curPath).steer w)

end Sys2Proof.Machine
end

