-- ==== Sys2Proof/Machine/Stops.lean ====
section
/-! DEFINITION. What stops a string and lets it go on (R101, R148, R255, R257 to R259, R265, R266): TICK, the tenant and the immediate
grade of a stop, and the debugger. -/

namespace Sys2Proof.Machine

/-! ### Capture (R101, R258, R259) -/

/-- The immediate grade: a string is captured where it stands; one with passes of a remote instruction out, once they are answered (R184)
(DEDUCED, log 89). -/
def State.capture (s : State) (u : Nat) : State :=
  match s.str? u with
  | none => s
  | some t =>
    if t.captured then s
    else if t.passOut then s.putStr u { t with stopNow := true }
    else s.captureNow u t

/-- A captured string goes on: parked paths replay at once, and the restore acts as an acquire (R101, R148). -/
def Str.released (t : Str) : Str :=
  { t.mapPaths (fun p => if p.state = .parked then p.wake else p) with captured := false, stopNow := false, stopTenant := false }

def State.resume (s : State) (u : Nat) : State :=
  match s.str? u with
  | none => s
  | some t => if t.captured ∨ t.stopTenant ∨ t.stopNow then (s.putStr u t.released).acquireAt (coreOf u) t.world 4 else s

/-! ### The tenant grade (R257) -/

/-- sys.slicewait of a string's partition, on the time base; a world of no partition has the reset value. -/
def State.sliceWait (s : State) (w : Nat) : Nat :=
  usec ((match s.partOf w with
    | none => regReset 0x012
    | some p => s.preg p 0x012).toNat % 65536)

/-- May the tenant stop be taken where the string stands: reconverged and parked, below the steward's level? -/
def Str.parkedAlone (t : Str) : Bool :=
  let p := if t.p0.live then t.p0 else t.p1
  t.reconverged && p.state == .parked && decide (p.level < 2)

/-- Is a stop of the string put off: a path stands at the steward's level, until its TRET (R257), or the debugger holds it, until its release (R101)? -/
def Str.stopLater (t : Str) : Bool := t.dbg != .running || t.paths.any (fun p => p.live && decide (2 ≤ p.level))

/-- A string is asked to stop at reconvergence; WAIT = 0 is the immediate grade at once. -/
def State.askStop (s : State) (u : Nat) : State :=
  match s.str? u with
  | none => s
  | some t =>
    if t.captured then s
    else if (s.sliceWait t.world = 0 ∨ t.parkedAlone) ∧ !t.stopLater then s.capture u
    else if t.stopTenant then s
    else s.putStr u { t with stopTenant := true, stopAt := s.time }

/-- SLICE_WAIT_TIMEOUT: unit n0's string has not reconverged in time, and is stopped by the immediate grade. -/
def execSliceWaitTimeout (s : State) : Out :=
  match s.str? (s.argN 0) with
  | none => .next s
  | some t =>
    if t.stopTenant ∧ !t.stopLater ∧ (t.stopAt + s.sliceWait t.world ≤ s.time ∨ t.parkedAlone) then .next (s.capture (s.argN 0)) else .next s

/-! ### TICK (R255) -/

/-- TICK at a parked path of a string all of whose live paths are parked, at user level and in no handler: its waiter slot is withdrawn, PARK = 1. -/
def Str.tickPath (t : Str) : Option Bool :=
  let parked := fun (p : Path) => p.state == .parked || p.state == .empty
  if !(parked t.p0 && parked t.p1) || t.dbg != .running || t.captured || t.userTraps != 0 || t.p0.level != 0 || t.p1.level != 0 then none
  else if t.p0.state == .parked then some false
  else if t.p1.state == .parked then some true
  else none

/-- TICK_EXPIRY: unit n0's comparator; and the delivery of a pending TICK to a string that only waits on remote pages, or to a SLEEP. -/
def execTickExpiry (s : State) : Out :=
  let u := s.argN 0
  match s.str? u with
  | none => .next s
  | some t =>
    let due := t.reg 0x011 != 0 && decide ((t.reg 0x011).toNat ≤ s.time)
    let t := if due then { t.setReg 0x011 0 with tickPending := true } else t
    if !t.tickPending then .next s
    else
      let t := if t.p0.level = 0 ∧ t.dbg = .running then t.endSleep false else t
      let t := if t.p1.level = 0 ∧ t.dbg = .running then t.endSleep true else t
      match t.tickPath with
      | none => .next (s.putStr u t)
      | some b =>
        let p := t.path b
        .next ((s.dropWaiter p.wrec).trapAt u b { t with tickPending := false }
          ⟨cTICK, p.parkpc, p.pos, BitVec.ofNat 64 s.time, 0, none, none, none, none⟩)

/-! ### The debugger (R266) -/

/-- DEBUG_HALT: unit n0's string is halted by the immediate grade; a wake that arrives is kept, a SLEEP ends. -/
def execDebugHalt (s : State) : Out :=
  match s.str? (s.argN 0) with
  | none => .next s
  | some t => if t.dbg = .running then .next (s.putStr (s.argN 0) { (t.endSleep false).endSleep true with dbg := .halted, stepping := 0 }) else .next s

/-- DEBUG_RESUME: it is released. -/
def execDebugResume (s : State) : Out :=
  match s.str? (s.argN 0) with
  | none => .next s
  | some t => .next (s.putStr (s.argN 0) { t with dbg := .running, stepping := 0 })

/-- Does a path stand inside a clause? -/
def Path.inside (p : Path) : Bool := p.live && p.pos != 0

/-- DEBUG_STEP: it is released for one clause, or for the rest of the clause it stands in (DEDUCED, log 88). -/
def execDebugStep (s : State) : Out :=
  match s.str? (s.argN 0) with
  | none => .next s
  | some t => .next (s.putStr (s.argN 0) { t with dbg := .running, stepping := if t.p0.inside || t.p1.inside then 2 else 1 })

end Sys2Proof.Machine
end

