-- ==== Sys2Proof/Machine/Place.lean ====
section
/-! DEFINITION. Launch records and placement (R62, R65 to R69, R230, R262, R268, R274, R275, R281, R288): what a party needs, where it
fits, how its strings begin, how a party retires, is written to its context store and comes back. -/

namespace Sys2Proof.Machine

/-! ### The launch record (R268) -/

def Launch.cword (l : Launch) : Nat := l.num 128 64
def Launch.cval (l : Launch) : Nat := l.num 192 64
def Launch.parties (l : Launch) : Nat := l.num 256 24 + 1
def Launch.threads (l : Launch) : Nat := l.num 280 10 + 1
def Launch.vblk (l : Launch) : Nat := l.num 290 2 + 1
def Launch.scr (l : Launch) : Nat := l.num 292 6
def Launch.tiles (l : Launch) : Nat := l.num 298 4
def Launch.cvm (l : Launch) : Nat := l.num 302 7
def Launch.depot (l : Launch) : Nat := l.num 309 11
def Launch.world (l : Launch) : Nat := l.num 320 8
def Launch.outr (l : Launch) : Nat := l.num 332 3
def Launch.onDie (l : Launch) (d : Nat) : Bool := l.bit (328 + d)
def Launch.convoy (l : Launch) : Bool := l.bit 335
def Launch.paired (l : Launch) : Bool := l.bit 336
def Launch.cor (l : Launch) : Bool := l.bit 337
/-- The level of its strings. -/
def Launch.level (l : Launch) : Nat := if l.bit 338 then 1 else 0
/-- Strings of a party. -/
def Launch.strings (l : Launch) : Nat := (l.threads + 31) / 32

/-- Parties of a placement unit: eight of a gang, two of a pair (R274, R275). -/
def Launch.unitSize (l : Launch) : Nat := if l.convoy then 8 else if l.paired then 2 else 1
def Launch.units (l : Launch) : Nat := l.parties / l.unitSize

/-- The dies of DIES, rising. -/
def Launch.dies (l : Launch) : List Nat := (List.range 4).filter l.onDie

/-- Units that go to a die: unit u goes to the (u mod k)-th die (R274). -/
def Launch.unitsOn (l : Launch) (d : Nat) : Nat :=
  if l.onDie d then (l.units + l.dies.length - 1 - l.dies.findIdx (fun x => x == d)) / l.dies.length else 0

/-- The next unit of a die, once `placed` of its units are. -/
def Launch.unitAt (l : Launch) (d placed : Nat) : Nat := placed * l.dies.length + l.dies.findIdx (fun x => x == d)

def Launch.placedOn (l : Launch) (d : Nat) : Nat := tget 0 l.placed d
/-- Is every unit of a launch placed? It then leaves its queue (DEDUCED, log 63). -/
def Launch.whole (l : Launch) : Bool := l.dies.all (fun d => decide (l.unitsOn d ≤ l.placedOn d))
def Launch.begun (l : Launch) : Bool := l.dies.any (fun d => decide (0 < l.placedOn d))

/-! ### Room on a core (R62, R274) -/

/-- The strings in a core's slots. -/
def State.coreStrs (s : State) (core : Nat) : Table Str := s.strs.filter (fun x => !x.2.outrider && x.1 / 64 == core)

/-- Register blocks of a quad that are free: 16, less those held, less those being zeroed (R62, R69). -/
def State.quadFree (s : State) (core q : Nat) : Nat :=
  16 - ((s.coreStrs core).filter (fun x => slotOf x.1 / 4 == q)).foldl (fun n x => n + x.2.vblk) 0 -
    (s.mem.zeroing.filter (fun z => z.1 == 0 && z.2.1 / 64 == core && slotOf z.2.1 / 4 == q)).foldl (fun n z => n + z.2.2) 0

/-- The free slots of a quad. -/
def State.quadSlots (s : State) (core q : Nat) : List Nat := ((List.range 4).map (fun k => 4 * q + k)).filter (fun k => !thas s.strs (core * 64 + k))

/-- The quad with the most free blocks of those that can take a string, the lowest of equals. -/
def pickQuad (vblk : Nat) : Nat → List (Nat × List Nat) → Option Nat
  | _, [] => none
  | i, (f, sl) :: rest =>
    match pickQuad vblk (i + 1) rest with
    | none => if vblk ≤ f ∧ sl ≠ [] then some i else none
    | some j => if vblk ≤ f ∧ sl ≠ [] ∧ (rest.getD (j - i - 1) (0, [])).1 ≤ f then some i else some j

/-- Slots for n strings, the first first; a quad's lowest free slot is taken (DESIGN CHOICE, log 62). -/
def pickSlots (vblk : Nat) : Nat → List (Nat × List Nat) → Option (List Nat)
  | 0, _ => some []
  | n + 1, qs =>
    match pickQuad vblk 0 qs with
    | none => none
    | some i =>
      match qs.getD i (0, []) with
      | (f, k :: sl) => (pickSlots vblk n (qs.set i (f - vblk, sl))).map (fun l => k :: l)
      | (_, []) => none

/-- The lowest run of n free units of `total`, none of them used. -/
def freeRun (used : Nat → Bool) (total n : Nat) : Option Nat :=
  (List.range (total + 1)).find? (fun b => decide (b + n ≤ total) && (List.range n).all (fun k => !used (b + k)))

/-- Does a range of bytes being zeroed meet a unit? -/
def State.zeroingAt (s : State) (space a n : Nat) : Bool :=
  s.mem.zeroing.any (fun z => z.1 == space && decide (z.2.1 < a + n) && decide (a < z.2.1 + z.2.2))

/-- Is a 16 KiB scratchpad unit of a core held? -/
def State.spUsed (s : State) (core k : Nat) : Bool :=
  s.sch.parties.any (fun e => e.2.core == core && decide (e.2.spBase < (k + 1) * 16384) && decide (k * 16384 < e.2.spBase + e.2.spSize)) ||
    s.zeroingAt 1 (core * 2 ^ 20 + k * 16384) 16384

/-- What a party takes of a core. -/
structure Room where
  slots : List Nat
  sp : Nat
  tiles : List Nat
  outrs : List Nat
deriving DecidableEq, Repr

/-- Everything a party needs, free at once (R274): n strings of `vblk` blocks, `scr` units, tiles and outriders. -/
def State.room (s : State) (core n vblk scr tiles outr : Nat) : Option Room :=
  let ps := (s.sch.parties.map Prod.snd).filter (fun p => p.core == core)
  let ft := (List.range 8).filter (fun k => !ps.any (fun p => p.tiles.contains k))
  let fo := (List.range 4).filter (fun k => !ps.any (fun p => p.outrs.contains k))
  match pickSlots vblk n ((List.range 8).map (fun q => (s.quadFree core q, s.quadSlots core q))), freeRun (s.spUsed core) 48 scr with
  | some sl, some b => if ft.length < tiles ∨ fo.length < outr then none else some ⟨sl, b * 16384, ft.take tiles, fo.take outr⟩
  | _, _ => none

def State.roomFor (s : State) (l : Launch) (core : Nat) : Option Room := s.room core l.strings l.vblk l.scr l.tiles l.outr

/-- Is a 4 KiB unit of a convoy's slices held? -/
def State.cvUsed (s : State) (convoy k : Nat) : Bool :=
  s.sch.cvAlloc.any (fun e =>
    (s.sch.parties.any (fun p => p.1 / 8 == e.1 && convoyOf p.2.core == convoy)) &&
      decide (e.2.1 < (k + 1) * 4096) && decide (k * 4096 < e.2.1 + e.2.2)) ||
    (List.range 8).any (fun i => s.zeroingAt 2 ((convoy * 8 + i) * 2 ^ 18 + k * 4096) 4096)

/-- Is a 64 KiB unit of a die's depot held? -/
def State.dpUsed (s : State) (d k : Nat) : Bool :=
  s.sch.dpAlloc.any (fun e => e.1 % 4 == d && decide (e.2.1 < (k + 1) * 65536) && decide (k * 65536 < e.2.1 + e.2.2)) ||
    s.zeroingAt 3 (d * 2 ^ 26 + k * 65536) 65536

/-- Where the slices of a gang, and the depot of a launch on a die, can lie. -/
def State.cvRoom (s : State) (l : Launch) (core : Nat) : Option Nat := if l.convoy then freeRun (s.cvUsed (convoyOf core)) 64 l.cvm else some 0
def State.dpRoom (s : State) (id : Nat) (l : Launch) (d : Nat) : Option Nat :=
  if l.depot = 0 ∨ thas s.sch.dpAlloc (id * 4 + d) then some 0 else freeRun (s.dpUsed d) 1024 l.depot

/-- The sites of a die a unit could take: cores, even pairs, or convoys. -/
def Launch.sites (l : Launch) (d : Nat) : List (List Nat) :=
  if l.convoy then (List.range 12).map (fun v => (List.range 8).map (fun i => d * 96 + v * 8 + i))
  else if l.paired then (List.range 48).map (fun c => [d * 96 + 2 * c, d * 96 + 2 * c + 1])
  else (List.range 96).map (fun c => [d * 96 + c])

/-- Does a unit of a launch fit a site (R274, R275)? -/
def State.fits (s : State) (id : Nat) (l : Launch) (site : List Nat) : Bool :=
  site.all (fun c => (s.roomFor l c).isSome) && (s.cvRoom l (site.headD 0)).isSome && (s.dpRoom id l (dieOf (site.headD 0))).isSome

/-- Strings resident at a site. -/
def State.siteLoad (s : State) (site : List Nat) : Nat := site.foldl (fun n c => n + (s.coreStrs c).length) 0

/-- The site with the fewest resident strings, the lowest of equals. -/
def State.bestSite (s : State) (id : Nat) (l : Launch) (d : Nat) : Option (List Nat) :=
  ((l.sites d).filter (s.fits id l)).foldl (fun b x => match b with
    | none => some x
    | some y => if s.siteLoad x < s.siteLoad y then some x else some y) none

/-! ### A string begins (R230) -/

/-- Lanes of string i of a party of n threads. -/
def launchMask (threads i : Nat) : Lanes := laneMask (fun k => decide (32 * i + k < threads))

/-- A string in its first state: s0:s1 holds the argument address, everything else is zero (DEDUCED, log 60). -/
def Str.fresh (world launch party index vblk level : Nat) (lanes : Lanes) (entry arg : Dword) (stamp : Nat) : Str :=
  { outrider := false, runs := false, bound := 0, told := false, world, launch, party, index, vblk, lmask := lanes, launchLanes := lanes, stack := []
    p0 := { Path.blank with pc := entry, state := .running, mask := lanes, level := level }, p1 := Path.blank
    s := tset 0 (tset 0 [] 0 (arg.setWidth 32)) 1 (arg.extractLsb' 32 32), swb := [], v := [], vwb := [], regPoison := [], p := [], pwb := []
    q := 0, qwb := [], lstart := [], lend := [], lcount := [], repidx := 0, sys := [], tickPending := false, trapLevel := 0, traps := []
    dbg := .running, brkh := false, stepping := 0, stopTenant := false, stopNow := false, stopAt := 0, captured := false
    reports := [], oq := [], nacks := [], unacked := [], stamp, before := 0, yielded := false, onPath := false, tried := 0, served := 0 }

/-- The first party of a launch on a core, placed or recalled, empties its constant cache of that world (R78) (DEDUCED, log 72). -/
def State.freshConst (s : State) (id core world : Nat) : State :=
  if s.sch.parties.any (fun e => e.2.launch == id && e.2.core == core) then s
  else { s with mem := { s.mem with cc := tset [] s.mem.cc core ((tget [] s.mem.cc core).filter (fun c => c.world != world)) } }

/-- A party is placed on a core with room. -/
def State.placeParty (s : State) (id : Nat) (l : Launch) (idx core : Nat) : State :=
  match s.roomFor l core with
  | none => s
  | some r =>
    let key := id * 2 ^ 24 + idx
    let units := r.slots.map (fun k => core * 64 + k)
    let s := s.freshConst id core l.world
    let s := (List.range units.length).foldl (fun s i =>
      { s with stamp := s.stamp + 1 }.putStr (units.getD i 0)
        (Str.fresh l.world id key i l.vblk l.level (launchMask l.threads i) (BitVec.ofNat 64 (l.num 0 64)) (BitVec.ofNat 64 (l.num 64 64)) s.stamp)) s
    let p : Party :=
      { launch := id, idx, core, world := l.world, level := l.level, spBase := r.sp, spSize := l.scr * 16384, tiles := r.tiles, outrs := r.outrs
        live := units.length, bars := [], units, stamp := s.stamp, stopping := false, slice := s.time, sleeping := false }
    { s with stamp := s.stamp + 1, sch := { s.sch with parties := tput s.sch.parties key p } }

/-- The depot allocation of a die, made with its first party; the convoy allocation of a gang (DEDUCED, log 61). -/
def State.placeAllocs (s : State) (id : Nat) (l : Launch) (idx core : Nat) : State :=
  let d := dieOf core
  let s := match s.dpRoom id l d with
    | some b =>
      if l.depot = 0 ∨ thas s.sch.dpAlloc (id * 4 + d) then s
      else { s with sch := { s.sch with dpAlloc := tput s.sch.dpAlloc (id * 4 + d) (b * 65536, l.depot * 65536) } }
    | none => s
  match l.convoy && l.cvm != 0, s.cvRoom l core with
  | true, some b => { s with sch := { s.sch with cvAlloc := tput s.sch.cvAlloc ((id * 2 ^ 24 + idx) / 8) (b * 4096, l.cvm * 4096) } }
  | _, _ => s

/-- Note the progress of a launch (DEDUCED, log 63). -/
def State.putLaunch (s : State) (id : Nat) (l : Launch) : State := { s with sch := { s.sch with launches := tput s.sch.launches id l } }

/-- The next unit of a launch on a die is placed at a site; a launch wholly placed leaves its queue (R271). -/
def State.placeUnit (s : State) (id : Nat) (l : Launch) (d : Nat) (site : List Nat) : State :=
  let first := l.unitAt d (l.placedOn d) * l.unitSize
  let s := s.placeAllocs id l first (site.headD 0)
  let s := (List.range site.length).foldl (fun s i => s.placeParty id l (first + i) (site.getD i 0)) s
  let l := { l with placed := tset 0 l.placed d (l.placedOn d + 1) }
  let s := s.putLaunch id l
  let q := s.queue l.queue
  if l.whole then s.setQueue l.queue { q with items := q.items.filter (fun x => x != id) } else s

/-- Every unit of a launch, die after die; none if one of them does not fit (R275, COR). -/
def State.placeAll (s : State) (id d : Nat) : Nat → Option State
  | 0 => some s
  | n + 1 =>
    match tfind s.sch.launches id with
    | none => none
    | some l =>
      if l.unitsOn d ≤ l.placedOn d then some s
      else match s.bestSite id l d with
        | none => none
        | some site => State.placeAll (s.placeUnit id l d site) id d n

def State.placeCor (s : State) (id : Nat) (l : Launch) : Option State :=
  l.dies.foldl (fun o d => o.bind (fun s => s.placeAll id d (l.unitsOn d))) (some s)

/-- The machine with nothing resident, for the question whether a launch could fit at all (R269). -/
def State.bare (s : State) : State :=
  { s with
    strs := []
    sch := { s.sch with parties := [], cvAlloc := [], dpAlloc := [] }
    mem := { s.mem with zeroing := [] } }

/-! ### Retiring (R69, R283) -/

/-- The table without a range of keys. -/
def tdrop {α : Type} (t : Table α) (a n : Nat) : Table α := t.filter (fun e => !(decide (a ≤ e.1) && decide (e.1 < a + n)))

/-- Does an engine operation still name a party or its tiles? -/
def State.engNames (s : State) (key : Nat) (p : Party) : Bool :=
  s.eng.queue.any (fun e => e.2.party == key || e.2.tiles.any (fun k => k / 8 == p.core && p.tiles.contains (k % 8)))

/-- A party whose strings have exited and whose operations are over gives up its allocations. The gang's slices go with its last party. -/
def State.retireParty (s : State) (key : Nat) (p : Party) : State :=
  let s := { s with
    sch := { s.sch with parties := terase s.sch.parties key }
    mem := { s.mem with zeroing := if p.spSize = 0 then s.mem.zeroing else s.mem.zeroing ++ [(1, p.core * 2 ^ 20 + p.spBase, p.spSize)] }
    eng := { s.eng with
      tiles := p.tiles.foldl (fun t k => terase t (p.core * 8 + k)) s.eng.tiles
      stops := s.eng.stops.filter (fun e => !p.outrs.any (fun k => p.core * 64 + 32 + k == e.2.unit)) }
    strs := p.outrs.foldl (fun t k => terase t (p.core * 64 + 32 + k)) s.strs }
  let s := match tfind s.sch.launches p.launch with
    | none => s
    | some l => s.putLaunch p.launch { l with retired := l.retired + 1 }
  if s.sch.parties.any (fun e => e.1 / 8 == key / 8) then s
  else
    let s := { s with sch := { s.sch with cvBars := tdrop s.sch.cvBars (key / 8 * 4) 4 } }
    match tfind s.sch.cvAlloc (key / 8) with
    | none => s
    | some (b, n) =>
      { s with
        sch := { s.sch with cvAlloc := terase s.sch.cvAlloc (key / 8) }
        mem := { s.mem with zeroing := s.mem.zeroing ++ (List.range 8).map (fun i => (2, (convoyOf p.core * 8 + i) * 2 ^ 18 + b, n)) } }

/-- Is a launch over on a die: its units there are placed, none of its parties is there or stored from there, and its counters of the die's cores
are 0 (R69, R283)? -/
def State.dieOver (s : State) (id d : Nat) (l : Launch) : Bool :=
  decide (l.unitsOn d ≤ l.placedOn d) && !s.sch.parties.any (fun e => e.2.launch == id && dieOf e.2.core == d) &&
    !s.stored.any (fun x => x.party.launch == id && dieOf x.party.core == d) &&
    !s.sch.outstanding.any (fun e => e.1 / 512 == id && e.1 % 512 / 96 == d && e.2 != 0)

/-- The depot of a launch on a die where it is over is released (R69). -/
def State.freeDepots (s : State) : State :=
  let gone := fun (e : Nat × Nat × Nat) => ((tfind s.sch.launches (e.1 / 4)).map (s.dieOver (e.1 / 4) (e.1 % 4))).getD true
  { s with
    sch := { s.sch with dpAlloc := s.sch.dpAlloc.filter (fun e => !gone e) }
    mem := { s.mem with zeroing := s.mem.zeroing ++ (s.sch.dpAlloc.filter gone).map (fun e => (3, e.1 % 4 * 2 ^ 26 + e.2.1, e.2.2)) } }

/-- Every party that can retire does, and the depots of the launches that are over on a die go. -/
def State.retireAll (s : State) : State :=
  (s.sch.parties.foldl (fun s e => if e.2.live = 0 ∧ !s.engNames e.1 e.2 then s.retireParty e.1 e.2 else s) s).freeDepots

/-! ### The context store (R259, R262, R281, R288) -/

/-- The part of a table that lies in a range of keys, counted from its start. -/
def tcut {α : Type} (t : Table α) (a n : Nat) : Table α :=
  (t.filter (fun e => decide (a ≤ e.1) && decide (e.1 < a + n))).map (fun e => (e.1 - a, e.2))
/-- A table laid over another from a key on. -/
def tlay {α : Type} (t : Table α) (a : Nat) (u : Table α) : Table α := u.foldl (fun t e => tput t (a + e.1) e.2) t

/-- The counter of a launch's parties that are in a context store (R282). -/
def storedKey (launch : Nat) : Nat := launch * 512 + 511

/-- The launch's counts of a party's units move to another counter: its operations in flight and its unacknowledged writes. -/
def State.moveCounts (s : State) (units : List Nat) (whos : List Nat) (launch key : Nat) : State :=
  let mine := fun (o : Op) => units.contains o.unit && (o.launch.map (fun k => k / 512 == launch)).getD false
  let s := s.mem.ops.foldl (fun s e =>
    match mine e.2, e.2.launch with
    | true, some k => { s.outSub k 1 |>.outAdd key 1 with mem := { (s.outSub k 1 |>.outAdd key 1).mem with ops := tput s.mem.ops e.1 { e.2 with launch := some key } } }
    | _, _ => s) s
  s.fab.rems.foldl (fun s e =>
    match e.2.who with
    | .post u b w k =>
      if whos.contains w then
        let s := (s.outSub k 1).outAdd key 1
        { s with fab := { s.fab with rems := tput s.fab.rems e.1 { e.2 with who := .post u b w key } } }
      else s
    | _ => s) s

/-- A unit number no string has. -/
def noUnit : Nat := 2 ^ 20

/-- Units of a party: its strings, then its outriders. -/
def Party.allUnits (p : Party) : List Nat := p.units ++ p.outrs.map (fun k => p.core * 64 + 32 + k)

/-- May a party be written out: every string captured, every outrider at rest, nothing in flight of them, and every engine operation at a
checkpoint with nothing asked for (R148, R262)? -/
def State.restful (s : State) (key : Nat) (p : Party) : Bool :=
  p.units.all (fun u => ((s.str? u).map (fun t => t.captured || t.party != key)).getD true) &&
    p.allUnits.all (fun u => !s.mem.reqs.any (fun r => r.unit == u)) &&
    !s.fab.rems.any (fun e => match e.2.who with
      | .path op => ((tfind s.mem.ops op).map (fun o => p.allUnits.contains o.unit)).getD false
      | _ => false) &&
    !s.eng.queue.any (fun e => e.2.party == key && (!e.2.asks.isEmpty || e.2.data.isSome))

/-- The image of a party (R262). -/
def State.image (s : State) (key : Nat) (p : Party) (asleep : Bool) : Saved :=
  let sp := p.core * 2 ^ 20 + p.spBase
  let v := convoyOf p.core
  let lead := decide (key % 8 = 0)
  let cv := if lead then (tfind s.sch.cvAlloc (key / 8)) else none
  let slice := fun (i : Nat) (u : Nat) => ((v * 8 + i) * 2 ^ 18 + (cv.getD (0, 0)).1) / u
  let gather := fun {α : Type} (t : Table α) (u : Nat) => (match cv with
    | none => []
    | some (_, n) => (List.range 8).flatMap (fun i => (tcut t (slice i u) (n / u)).map (fun e => (i * 2 ^ 18 / u + e.1, e.2))) : Table α)
  let strs := p.units.filterMap (fun u => (s.str? u).bind (fun t => if t.party = key then some t else none))
  { party := p, key, strs, outrs := p.outrs.map (fun k => (s.str? (p.core * 64 + 32 + k)).getD Str.blankOut)
    sp := tcut s.mem.sp sp p.spSize, spwb := tcut s.mem.spwb (sp / 256) (p.spSize / 256), sppo := tcut s.mem.sppo (sp / 64) (p.spSize / 64)
    tiles := p.tiles.map (fun k => s.tile (p.core * 8 + k))
    locks := s.mem.locks.flatMap (fun e => e.2.filter (fun k => ((tfind s.eng.queue k.op).map (fun x => x.party == key)).getD false))
    outstanding := 0, engs := s.eng.queue.filter (fun e => e.2.party == key)
    ops := s.mem.ops.filter (fun e => p.allUnits.contains e.2.unit)
    stops := s.eng.stops.filter (fun e => p.allUnits.contains e.2.unit)
    cvBase := (cv.getD (0, 0)).1, cvSize := (cv.getD (0, 0)).2, cvBars := if lead then tcut s.sch.cvBars (key / 8 * 4) 4 else []
    cv := gather s.mem.cv 1, cvwb := gather s.mem.cvwb 256, cvpo := gather s.mem.cvpo 64, asleep, ready := !asleep }

/-- A party leaves its core for the context store. What it held is free, and is zeroed as on release. -/
def State.saveParty (s : State) (key : Nat) (p : Party) (asleep : Bool) : State :=
  let x := s.image key p asleep
  let s := s.moveCounts p.allUnits (x.strs.map Str.key) p.launch (storedKey p.launch)
  let s := x.engs.foldl (fun s e => (s.withdrawEng e.2).dropLocks e.1 (fun _ => true)) s
  let s := { s with
    stored := s.stored ++ [x]
    eng := { s.eng with
      queue := s.eng.queue.filter (fun e => e.2.party != key)
      stops := s.eng.stops.filter (fun e => !thas x.stops e.1) }
    strs := s.strs.filter (fun (e : Nat × Str) => !(p.units.contains e.1 && e.2.party == key))
    mem := { s.mem with
      ops := s.mem.ops.map (fun (e : Nat × Op) => if thas x.ops e.1 then (e.1, { e.2 with unit := noUnit }) else e)
      zeroing := s.mem.zeroing ++ x.strs.map (fun (t : Str) => ((0, p.units.getD t.index 0, t.vblk) : Nat × Nat × Nat)) } }
  let l := tfind s.sch.launches p.launch
  let s := s.retireParty key p
  match l with
  | none => s
  | some l => s.putLaunch p.launch l

/-- Units of 64 KiB a party's image takes (R288): one for each string, and the party's own, a gang's slices with its first party's (DESIGN CHOICE, log 65). -/
def Saved.size (x : Saved) : Nat :=
  let tile := 64 * 64 * 8 + 64 * 5 * 2 + 8 + 2
  x.party.units.length + (x.party.spSize + x.party.spSize / 128 + x.party.tiles.length * tile + x.party.outrs.length * 1024 +
    8 * (x.cvSize + x.cvSize / 128) + 65535) / 65536

/-- Units a partition's context store has left. -/
def State.storeRoom (s : State) (part : Nat) : Nat :=
  (s.preg part 0x0C4).toNat % 2 ^ 24 -
    (s.stored.filter (fun x => s.partOf x.party.world == some part)).foldl (fun n x => n + x.size) 0

/-- The registers of a restored party's core: where a string image's party lies now. -/
def State.roomAgain (s : State) (x : Saved) (core : Nat) : Option Room :=
  let vblk := (x.strs.map Str.vblk).foldl max 1
  s.room core x.strs.length vblk (x.party.spSize / 16384) x.party.tiles.length x.party.outrs.length

/-- Where an old place of a unit lies now: the new core of an old core. -/
def mapCore (xs : List Saved) (site : List Nat) (c : Nat) : Nat :=
  ((xs.zip site).find? (fun e => e.1.party.core == c)).elim c Prod.snd

/-- Does a recalled unit fit a site, its locks their tables (R150, R262) among the rest? -/
def State.fitsAgain (s : State) (xs : List Saved) (site : List Nat) (cvm : Nat) : Bool :=
  (xs.zip site).all (fun e => (s.roomAgain e.1 e.2).isSome) &&
    s.locksFit (xs.flatMap (fun x => x.locks.map (fun k => (mapCore xs site k.core, k)))) &&
    (cvm == 0 || (freeRun (s.cvUsed (convoyOf (site.headD 0))) 64 cvm).isSome)

/-- A lock as it is registered again (R262): its storage moved with its party or its gang's slices. -/
def moveLock (s : State) (xs : List Saved) (site : List Nat) (oldCv newCv : Nat) (k : Lock) : Lock :=
  let c := mapCore xs site k.core
  let move := fun (old new : Nat) => { k with core := c, first := k.first + new / 256 - old / 256, last := k.last + new / 256 - old / 256 }
  match k.space with
  | 1 =>
    let old := ((xs.find? (fun x => x.party.core == k.core)).map (fun x => x.party.spBase)).getD 0
    let new := ((s.sch.parties.find? (fun e => e.2.core == c && xs.any (fun x => x.key == e.1))).map (fun e => e.2.spBase)).getD 0
    move (k.core * 2 ^ 20 + old) (c * 2 ^ 20 + new)
  | 2 => move (k.core * 2 ^ 18 + oldCv) (c * 2 ^ 18 + newCv)
  | _ => { k with core := c }

/-- One party of a recalled unit takes its room. -/
def State.takeAgain (s : State) (x : Saved) (core : Nat) : State :=
  match s.roomAgain x core with
  | none => s
  | some r =>
    let placed := r.slots.map (fun k => core * 64 + k)
    let units := (List.range x.party.units.length).map (fun i => placed.getD (x.strs.findIdx (fun t => t.index == i)) noUnit)
    let p := { x.party with core, spBase := r.sp, tiles := r.tiles, outrs := r.outrs, units, stamp := s.stamp, stopping := false, slice := s.time, sleeping := false }
    let sp := core * 2 ^ 20 + r.sp
    let live := fun (b : Nat × Nat) => thas s.mem.ops b.2
    let unbindGone := fun (t : Str) => t.mapPaths (fun q => { q with binds := q.binds.filter live })
    let back := fun (t : Str) => { (unbindGone t).released with unacked := t.unacked.filter (fun a => thas s.fab.rems a.2) }
    let s := s.freshConst x.party.launch core x.party.world
    let s := { s with
      stamp := s.stamp + 1
      strs := ((placed.zip x.strs).foldl (fun (t : Table Str) (e : Nat × Str) => tput t e.1 (back e.2)) s.strs)
      mem := { s.mem with sp := tlay s.mem.sp sp x.sp, spwb := tlay s.mem.spwb (sp / 256) x.spwb, sppo := tlay s.mem.sppo (sp / 64) x.sppo }
      eng := { s.eng with tiles := (r.tiles.zip x.tiles).foldl (fun (t : Table Tile) (e : Nat × Tile) => tset Tile.blank t (core * 8 + e.1) e.2) s.eng.tiles }
      sch := { s.sch with parties := tput s.sch.parties x.key p } }
    let s := { s with strs := (r.outrs.zip x.outrs).foldl (fun (t : Table Str) (e : Nat × Str) =>
      tput t (core * 64 + 32 + e.1) { (unbindGone e.2).released with bound := units.getD (x.party.units.findIdx (fun u => u == e.2.bound)) 0 }) s.strs }
    let old := x.party.allUnits
    let now := fun (u : Nat) => p.allUnits.getD (old.findIdx (fun y => y == u)) noUnit
    let stops := x.stops.foldl (fun (t : Table OutStop) (e : Nat × OutStop) =>
      tput t e.1 ⟨now e.2.unit, e.2.next.map (fun o => { o with bound := now o.bound })⟩) s.eng.stops
    let s := { s with eng := { s.eng with stops := stops } }
    let s := { s with mem := { s.mem with ops := s.mem.ops.map (fun (e : Nat × Op) => match tfind x.ops e.1 with
      | some o => (e.1, { e.2 with unit := now o.unit })
      | none => e) } }
    (s.moveCounts (p.allUnits.filter (fun u => u != noUnit)) (x.strs.map Str.key) p.launch (p.launch * 512 + core)).acquireAt core p.world 4

/-- A queue entry's place on its new core: its index stays where it is free (DEDUCED, log 73). -/
def State.newIdx (s : State) (unit core idx : Nat) : Nat :=
  if (s.queueOf unit core).any (fun e => e.2.idx == idx) then s.freeIdx unit core else idx

/-- A recalled unit is placed at a site: each party, the gang's slices, then its engine operations and their locks (R262, R281). -/
def State.recallUnit (s : State) (xs : List Saved) (site : List Nat) : State :=
  let lead := xs.headD ⟨⟨0, 0, 0, 0, 0, 0, 0, [], [], 0, [], [], 0, false, 0, false⟩, 0, [], [], [], [], [], [], [], 0, [], [], [], 0, 0, [], [], [], [], false, false⟩
  let l := tfind s.sch.launches lead.party.launch
  let cvm := (l.map Launch.cvm).getD 0
  let base := ((freeRun (s.cvUsed (convoyOf (site.headD 0))) 64 cvm).getD 0) * 4096
  let s := (xs.zip site).foldl (fun s e => s.takeAgain e.1 e.2) s
  let v := convoyOf (site.headD 0)
  let s := if cvm = 0 then s
    else
      let lay := fun {α : Type} (t : Table α) (u : Nat) (y : Table α) =>
        (y.foldl (fun t e => tput t (((v * 8 + e.1 / (2 ^ 18 / u)) * 2 ^ 18 + base) / u + e.1 % (2 ^ 18 / u)) e.2) t : Table α)
      { s with
        sch := { s.sch with cvAlloc := tput s.sch.cvAlloc (lead.key / 8) (base, cvm * 4096) }
        mem := { s.mem with cv := lay s.mem.cv 1 lead.cv, cvwb := lay s.mem.cvwb 256 lead.cvwb, cvpo := lay s.mem.cvpo 64 lead.cvpo } }
  let s := { s with
    stored := s.stored.filter (fun x => !xs.any (fun y => y.key == x.key))
    sch := { s.sch with cvBars := if lead.key % 8 = 0 then tlay s.sch.cvBars (lead.key / 8 * 4) lead.cvBars else s.sch.cvBars } }
  let tileNow := fun (s : State) (k : Nat) =>
    match xs.find? (fun x => x.party.core == k / 8 && x.party.tiles.contains (k % 8)) with
    | none => k
    | some x => match tfind s.sch.parties x.key with
      | none => k
      | some p => p.core * 8 + p.tiles.getD (x.party.tiles.findIdx (fun y => y == k % 8)) 0
  let s := xs.foldl (fun s x => x.engs.foldl (fun s e =>
    let c := mapCore xs site e.2.core
    s.putEng e.1 { e.2 with
      core := c, idx := s.newIdx e.2.unit c e.2.idx, tiles := e.2.tiles.map (tileNow s), posted := false
      launch := e.2.launch / 512 * 512 + c
      st := if e.2.st = 3 then 2 else e.2.st }) s) s
  xs.foldl (fun s x => s.addLocks (x.locks.map (fun k =>
    let k' := moveLock s xs site lead.cvBase base k
    (k'.core, k')))) s

end Sys2Proof.Machine
end

