-- ==== Sys2Proof/Machine/Sched.lean ====
section
/-! DEFINITION. Launch queues, active slots, placement, victims, completion and budgets (R269 to R290). -/

namespace Sys2Proof.Machine

/-- Sort by insertion, keeping the order of equals. -/
def insertBy {α : Type} (le : α → α → Bool) (a : α) : List α → List α
  | [] => [a]
  | b :: t => if le a b then a :: b :: t else b :: insertBy le a t
def sortBy {α : Type} (le : α → α → Bool) (l : List α) : List α := l.foldr (insertBy le) []

/-! ### LNCH (R269, R270, R332) -/

/-- May a user-level issuer name the queue (R270)? -/
def State.userQueue (s : State) (w q : Nat) : Bool :=
  let r := (s.wreg w 0x0D3).toNat
  let base := r % 4096
  r.testBit 31 && decide (base ≤ q) && decide (q < base + r / 4096 % 8192)

/-- Code 1, QUEUE. -/
def State.queueBad (s : State) (w level : Nat) (q : Nat) : Bool :=
  decide (4096 ≤ q) || !(s.queue q).en || (decide (level < 2) && some (s.queue q).part != s.topPart w) || (level == 0 && !s.userQueue w q)

/-- Code 2, WORLD. -/
def State.worldBad (s : State) (w level : Nat) (l : Launch) : Bool :=
  s.topPart l.world != some (s.queue l.queue).part || (level == 1 && s.topPart l.world != s.topPart w) || (level == 0 && l.world != w)

/-- Code 4, FORM. -/
def Launch.formBad (l : Launch) : Bool :=
  l.dies.isEmpty || decide (48 < l.scr) || decide (8 < l.tiles) || decide (64 < l.cvm) || decide (1024 < l.depot) || decide (4 < l.outr) ||
    (l.cvm != 0 && !l.convoy) || (l.convoy && l.parties % 8 != 0) || (l.paired && l.parties % 2 != 0) ||
    !canonical (BitVec.ofNat 64 (l.num 0 64)) || l.num 0 2 != 0

/-- Code 5, FIT: against an empty machine. -/
def State.fitBad (s : State) (id : Nat) (l : Launch) : Bool :=
  let s := s.bare.putLaunch id l
  !(l.dies.all (fun d => (s.bestSite id l d).isSome)) || (l.cor && (s.placeCor id l).isNone)

/-- Code 6, CWORD: aligned, and a writable page with HOME = 0 at the strings' level (DEDUCED, log 84). -/
def State.cwordBad (s : State) (core : Nat) (l : Launch) : Bool :=
  l.cword % 8 != 0 || !canonical (BitVec.ofNat 64 l.cword) || match (s.xlate core l.world l.cword aUniStore l.level).1 with
    | .ok x => lfHome x.leaf
    | _ => true

/-- The first refusal of LNCH, or 0. -/
def State.launchCode (s : State) (core w level : Nat) (l : Launch) : Nat :=
  if s.queueBad w level l.queue then 1
  else if s.worldBad w level l then 2
  else if l.level = 1 ∧ level = 0 then 3
  else if l.formBad then 4
  else if s.fitBad s.sch.nextLaunch l then 5
  else if s.cwordBad core l then 6
  else if decide (65536 ≤ s.sch.launches.length) || decide (256 ≤ (s.queue l.queue).items.length) then 7
  else 0

/-- An accepted launch joins the tail of its queue. -/
def State.launchIn (s : State) (l : Launch) : State :=
  let id := s.sch.nextLaunch
  let s := { s.putLaunch id l with sch := { (s.putLaunch id l).sch with nextLaunch := id + 1 } }
  s.setQueue l.queue { s.queue l.queue with items := (s.queue l.queue).items ++ [id] }

/-! ### Active slots (R272) -/

/-- The head launch of a queue. -/
def State.headOf (s : State) (q : Nat) : Option (Nat × Launch) := (s.queue q).items.head?.bind (fun id => (tfind s.sch.launches id).map (fun l => (id, l)))

/-- Has a queue work on a die? (DEDUCED, log 64) -/
def State.hasWork (s : State) (d q : Nat) : Bool := ((s.headOf q).map (fun x => decide (x.2.placedOn d < x.2.unitsOn d))).getD false

/-- The queues that hold something. -/
def State.busyQueues (s : State) : List Nat := tkeys (s.sch.queues.filter (fun e => !e.2.items.isEmpty))

def State.mapOf (s : State) (d q : Nat) : Option MapE := tfind s.sch.maps (d * 4096 + q)
def State.setMap (s : State) (d q : Nat) (m : MapE) : State := { s with sch := { s.sch with maps := tput s.sch.maps (d * 4096 + q) m } }

/-- Mapped queues of a die. -/
def State.mapped (s : State) (d : Nat) : List Nat :=
  (s.sch.maps.filter (fun e => e.1 / 4096 == d && e.2.mapped)).map (fun e => e.1 % 4096)

/-- Waiting queues of a die at a priority and a time, longest waiting first. -/
def State.waitingAt (s : State) (now d p : Nat) : List Nat :=
  let l := (s.sch.maps.filter (fun e => e.1 / 4096 == d && !e.2.mapped && s.prioAt (now / quantum) (e.1 % 4096) == p && decide (e.2.since ≤ now))).map
    (fun e => (e.2.since, e.1 % 4096))
  (sortBy (fun a b => decide (a.1 < b.1) || (a.1 == b.1 && decide (a.2 ≤ b.2))) l).map Prod.snd

/-- Map and unmap a queue at a time. -/
def State.mapNow (s : State) (now d q : Nat) : State := s.setMap d q ⟨true, now⟩
def State.unmapNow (s : State) (now d q : Nat) : State := s.setMap d q ⟨false, now⟩

/-- Free slots go to the longest-waiting queues of the highest priority with one waiting. -/
def State.fillSlots (s : State) (d : Nat) : State :=
  let want := (List.range 4).flatMap (fun p => s.waitingAt s.time d p)
  (want.take (64 - (s.mapped d).length)).foldl (fun s q => s.mapNow s.time d q) s

/-- Queues that lost their work leave, queues that gained work wait, and free slots are given (R272, between boundaries). -/
def State.refreshMaps (s : State) (d : Nat) : State :=
  let s := { s with sch := { s.sch with maps := s.sch.maps.filter (fun e => e.1 / 4096 != d || s.hasWork d (e.1 % 4096)) } }
  let s := s.busyQueues.foldl (fun s q => if s.hasWork d q && (s.mapOf d q).isNone then s.setMap d q ⟨false, s.time⟩ else s) s
  s.fillSlots d
def State.refreshAll (s : State) : State := (List.range 4).foldl (fun s d => s.refreshMaps d) s

/-- LNCH (R269) (DEDUCED, log 85). -/
def execLnch (d a b : BitVec 6) (f : BitVec 1) (s : State) : Out :=
  issued (.lnch d a b f) s fun t p =>
    match uniRead s t p (uniMemOp 0 128 .load .none f) (t.spair a.toNat).toNat (t.sws a.toNat 2) with
    | .stop o => o
    | .got v w s =>
      let p := p.resumed
      let q := (t.sget b.toNat).toNat
      let l : Launch := ⟨BitVec.ofNat 1024 v, q, 0, [], 0⟩
      let l := { l with part := (s.partOf l.world).getD 0 }
      let c := s.launchCode (coreOf s.curUnit) t.world p.level l
      finish (if c = 0 then (s.launchIn l).refreshAll else s) (t.sput d.toNat (BitVec.ofNat 32 c) (uniWb p (w ||| t.sws a.toNat 2 ||| t.sw b.toNat))) p

/-- map_die of one priority, at the boundary `now`; it maps a queue once at most. -/
def State.mapPrio (s : State) (now d p : Nat) : State :=
  let prio := s.prioAt (now / quantum)
  let wait := s.waitingAt now d p
  let held := (s.sch.maps.filter (fun e => e.1 / 4096 == d && e.2.mapped && prio (e.1 % 4096) == p && decide (e.2.since + quantum ≤ now))).map
    (fun e => (e.2.since, e.1 % 4096))
  let held := (sortBy (fun a b => decide (a.1 < b.1) || (a.1 == b.1 && decide (a.2 ≤ b.2))) held).map Prod.snd
  let work := wait.length + ((s.mapped d).filter (fun q => prio q == p)).length
  let over_ := ((s.mapped d).filter (fun q => decide (prio q < p))).length
  let k := min wait.length (min held.length (work - (64 - over_)))
  let s := (held.take k).foldl (fun s q => s.unmapNow now d q) s
  let short := wait.length - (64 - (s.mapped d).length)
  let low := (s.sch.maps.filter (fun e => e.1 / 4096 == d && e.2.mapped && decide (p < prio (e.1 % 4096)))).map
    (fun e => (prio (e.1 % 4096), e.2.since, e.1 % 4096))
  let low := (sortBy (fun a b => decide (b.1 < a.1) || (a.1 == b.1 && decide (b.2.1 ≤ a.2.1))) low).map (fun x => x.2.2)
  let s := (low.take short).foldl (fun s q => s.unmapNow now d q) s
  (wait.take (64 - (s.mapped d).length)).foldl (fun s q => s.mapNow now d q) s

/-! ### Scheduling events (R290) -/

def schWord (kind queue party world part die code cand2 time addr : Nat) : Nat :=
  kind % 16 * 2 ^ 252 + queue % 4096 * 2 ^ 240 + party % 2 ^ 24 * 2 ^ 216 + world % 256 * 2 ^ 208 + part % 32 * 2 ^ 203 + die % 4 * 2 ^ 200 +
    code % 256 * 2 ^ 192 + cand2 % 2 ^ 32 * 2 ^ 128 + time % 2 ^ 64 * 2 ^ 64 + addr % 2 ^ 64

/-- A record in the ring of a partition's top-level partition (DEDUCED, log 69). -/
def State.schEvent (s : State) (part : Nat) (rec_ : Nat) : State :=
  s.ringPut (some (s.topOf part)) (s.preg (s.topOf part) 0x0D9).toNat rec_

/-- An event about a party. -/
def State.partyEvent (s : State) (kind : Nat) (p : Party) : State :=
  match s.partOf p.world, tfind s.sch.launches p.launch with
  | some n, some l => s.schEvent n (schWord kind l.queue p.idx p.world n 0 0 0 s.time 0)
  | _, _ => s

/-! ### Budgets (R284, R285) -/

def ptFloor (v : Dword) : Nat := (v.extractLsb' 24 8).toNat
def ptCeil (v : Dword) : Nat := (v.extractLsb' 16 8).toNat
def ptSlice (v : Dword) : Nat := (v.extractLsb' 8 8).toNat

/-- The parent of a child partition. -/
def State.parentOf (s : State) (n : Nat) : Option Nat := tfind s.xl.parent n

/-- A partition's ceiling in slot time of one period. -/
def State.ceiling (s : State) (n : Nat) : Nat :=
  let c := ptCeil (s.preg n 0x0D5) + 1
  match s.parentOf n with
  | none => c * periodSlots / 256
  | some q => c * ((ptCeil (s.preg q 0x0D5) + 1) * periodSlots / 256) / 256

/-- A partition's floor: floors that exceed their base are honoured in ascending number (DEDUCED, log 68). -/
def State.floor (s : State) (n : Nat) : Nat :=
  let before := (List.range n).filter (fun q => (s.preg q 0x0D4).getLsbD 31 && s.parentOf q == s.parentOf n)
  let taken := before.foldl (fun a q => a + ptFloor (s.preg q 0x0D5)) 0
  let f := min (ptFloor (s.preg n 0x0D5)) (256 - taken)
  match s.parentOf n with
  | none => f * periodSlots / 256
  | some q => f * s.ceiling q / 256

def State.used (s : State) (n : Nat) : Nat := tget 0 s.sch.slotTime n
def State.belowFloor (s : State) (n : Nat) : Bool := decide (s.used n < s.floor n)
def State.aboveFloor (s : State) (n : Nat) : Bool := decide (s.floor n < s.used n)

/-! ### Victims (R280, R281) -/

/-- The parties that go together with one: its gang, its pair, or itself; of a COR launch all. -/
def State.groupOf (s : State) (key : Nat) (l : Launch) : Table Party :=
  if l.cor then s.sch.parties.filter (fun e => e.1 / 2 ^ 24 == key / 2 ^ 24)
  else s.sch.parties.filter (fun e => e.1 / l.unitSize == key / l.unitSize)

/-- Does every path of a string that could go on wait in BWAIT? -/
def Str.inBwait (t : Str) : Bool :=
  let ps := [t.p0, t.p1].filter (fun p => p.live && p.state != .joinWait)
  !ps.isEmpty && ps.all (fun p => p.hold == .word && match decode (p.words.getD (p.pos - 1) 0) with
    | .ok (.bwait ..) => true
    | _ => false)

/-- Do all strings of a party wait in BWAIT? -/
def State.allBwait (s : State) (key : Nat) (p : Party) : Bool :=
  decide (0 < p.live) && p.units.all (fun u => ((s.str? u).map (fun t => t.party != key || t.inBwait)).getD true)

/-- Wake-up records of a die. -/
def State.wakeRecs (s : State) (d : Nat) : Nat := (s.stored.filter (fun x => x.asleep && !x.ready && dieOf x.party.core == d)).length

def State.prioOf (s : State) (p : Party) : Nat := ((tfind s.sch.launches p.launch).map (fun l => s.prioNow l.queue)).getD 0

/-- Do the images of a group fit the context store of its partition? -/
def State.storeFits (s : State) (g : Table Party) : Bool :=
  match g.head?.bind (fun e => s.partOf e.2.world) with
  | none => false
  | some n => decide (g.foldl (fun a e => a + (s.image e.1 e.2 false).size) 0 ≤ s.storeRoom n)

/-- Candidates on a die, one for each group, first the sleepers, then by the order of step 2: (key, step). `prio` and `part` are those of
the party that wants room. -/
def State.victims (s : State) (d prio : Nat) (part : Nat) : List (Nat × Nat) :=
  let here := s.sch.parties.filter (fun e => dieOf e.2.core == d && (s.partOf e.2.world).isSome && decide (0 < e.2.live))
  let leads := here.filter (fun e => match tfind s.sch.launches e.2.launch with
    | none => false
    | some l => ((s.groupOf e.1 l).find? (fun x => dieOf x.2.core == d)).map Prod.fst == some e.1 && s.storeFits (s.groupOf e.1 l))
  let grp := fun (e : Nat × Party) => ((tfind s.sch.launches e.2.launch).map (fun l => s.groupOf e.1 l)).getD []
  let sleep := leads.filter (fun e => (grp e).all (fun x => s.allBwait x.1 x.2) && decide (s.wakeRecs d < 1024))
  let takes := fun (e : Nat × Party) =>
    let q := (s.partOf e.2.world).getD 0
    decide (prio < s.prioOf e.2) || s.sch.capped.contains q || (s.belowFloor part && s.aboveFloor q)
  let low := leads.filter (fun e => !(((tfind s.sch.launches e.2.launch).map Launch.cor).getD false) && takes e)
  let low := sortBy (fun a b => decide (s.prioOf b.2 < s.prioOf a.2) || (s.prioOf a.2 == s.prioOf b.2 && decide (b.2.stamp ≤ a.2.stamp))) low
  sleep.map (fun e => (e.1, 1)) ++ low.map (fun e => (e.1, 2))

/-- The machine as if groups had been taken. -/
def State.without (s : State) (keys : List Nat) : State :=
  keys.foldl (fun s k => match tfind s.sch.parties k with
    | none => s
    | some p => match tfind s.sch.launches p.launch with
      | none => s
      | some l =>
        let g := s.groupOf k l
        { s with
          strs := s.strs.filter (fun e => !g.any (fun x => x.2.units.contains e.1))
          sch := { s.sch with parties := s.sch.parties.filter (fun e => !thas g e.1) } }) s

/-- The fewest candidates, in their order, without which the unit fits: take until it fits, then give back those not needed. -/
def State.choose (s : State) (fit : State → Bool) : List (Nat × Nat) → List (Nat × Nat) → Option (List (Nat × Nat))
  | took, [] => if fit (s.without (took.map Prod.fst)) then some took else none
  | took, c :: rest => if fit (s.without (took.map Prod.fst)) then some took else State.choose s fit (took ++ [c]) rest

def State.spare (s : State) (fit : State → Bool) : List (Nat × Nat) → List (Nat × Nat) → List (Nat × Nat)
  | kept, [] => kept
  | kept, c :: rest => if fit (s.without ((kept ++ rest).map Prod.fst)) then State.spare s fit kept rest else State.spare s fit (kept ++ [c]) rest

/-- A group is taken: captured at once under step 1, asked to stop under step 2. -/
def State.takeGroup (s : State) (key step : Nat) : State :=
  match (tfind s.sch.parties key).bind (fun p => (tfind s.sch.launches p.launch).map (fun l => s.groupOf key l)) with
  | none => s
  | some g => g.foldl (fun s e =>
      let s := { s with sch := { s.sch with parties := tput s.sch.parties e.1 { e.2 with stopping := true, sleeping := step == 1 } } }
      let s := s.partyEvent 2 e.2
      let mine := (if step = 1 then e.2.allUnits else e.2.units).filter (fun u => ((s.str? u).map (fun t => t.party == e.1)).getD false)
      mine.foldl (fun s u => if step = 1 then s.capture u else s.askStop u) s) s

/-- Has the steward pre-empted the partition of a world, or its parent (R289)? -/
def State.isHeld (s : State) (w : Nat) : Bool :=
  match s.partOf w with
  | none => false
  | some n => s.sch.held.contains n || s.sch.held.contains (s.topOf n)

/-- A stopped group whose strings are all captured goes to the context store: under step 1 it sleeps, else it is queued for recall (R281). Where the
store lacks room, the group goes on (R280). -/
def State.reclaim (s : State) (d : Nat) : State :=
  s.sch.parties.foldl (fun s e =>
    match tfind s.sch.parties e.1, tfind s.sch.launches e.2.launch with
    | some p, some l =>
      let g := s.groupOf e.1 l
      if !p.stopping || dieOf p.core != d || (g.head?.map Prod.fst) != some e.1 then s
      else if !s.storeFits g then
        if s.isHeld p.world then s
        else g.foldl (fun s x => { (x.2.allUnits.foldl State.resume s) with
          sch := { s.sch with parties := tput (x.2.allUnits.foldl State.resume s).sch.parties x.1 { x.2 with stopping := false } } }) s
      else
        let s := g.foldl (fun s x => x.2.units.foldl (fun s u => if ((s.str? u).map Str.parkedAlone).getD false then s.askStop u else s) s) s
        let s := g.foldl (fun s x => if x.2.units.all (fun u => ((s.str? u).map (fun t => t.captured || t.party != x.1)).getD true) then
          (x.2.outrs.foldl (fun s k => s.capture (x.2.core * 64 + 32 + k)) s) else s) s
        if g.all (fun x => s.restful x.1 x.2) then
          let asleep := g.all (fun x => x.2.sleeping)
          g.foldl (fun s x => s.saveParty x.1 x.2 asleep) s
        else s
    | _, _ => s) s

/-! ### Placing (R274 to R278, R281) -/

/-- May a partition's parties be placed now? -/
def State.mayPlace (s : State) (w : Nat) : Bool :=
  match s.partOf w with
  | none => false
  | some n => !s.sch.capped.contains n && !s.isHeld w

/-- May the head launch of a queue be placed: the queue is enabled or the launch has begun, and under ORD = 1 the launches before it are
complete (R271)? -/
def State.headReady (s : State) (q id : Nat) (l : Launch) : Bool :=
  ((s.queue q).en || l.begun) && (!(s.queue q).ord || !s.sch.launches.any (fun e => decide (e.1 < id) && e.2.queue == q)) && s.mayPlace l.world

/-- Something a die could place: a recalled unit, or the next unit of a queue. -/
inductive Want where
  | recall (lead : Nat)
  | queue (q id : Nat)
deriving DecidableEq, Repr

/-- Recalled groups of a die at a priority, in order of recall: the lead party of each. -/
def State.recalls (s : State) (d p : Nat) : List Nat :=
  (s.stored.filter (fun x => x.ready && dieOf x.party.core == d && s.prioOf x.party == p && s.mayPlace x.party.world &&
    ((tfind s.sch.launches x.party.launch).map (fun l => x.key % l.unitSize == 0)).getD false)).map Saved.key

/-- The images that come back with a lead. -/
def State.storedUnit (s : State) (lead : Nat) : List Saved :=
  match tfind s.sch.launches (lead / 2 ^ 24) with
  | none => []
  | some l => s.stored.filter (fun x => x.key / l.unitSize == lead / l.unitSize)

/-- Mapped queues of a priority whose head may be placed, in round-robin order after the last served. -/
def State.turns (s : State) (d p : Nat) : List (Nat × Nat) :=
  let last := tget 4096 s.sch.turn (d * 4 + p)
  let qs := (s.mapped d).filter (fun q => s.prioNow q == p && !thas s.sch.preqs (d * 4096 + q))
  let qs := qs.filter (fun q => decide (last < q)) ++ qs.filter (fun q => decide (q ≤ last))
  qs.filterMap (fun q => (s.headOf q).bind (fun x => if s.headReady q x.1 x.2 && s.hasWork d q then some (q, x.1) else none))

/-- What a die would place, in order (R276). -/
def State.wants (s : State) (d : Nat) : List Want :=
  (List.range 4).flatMap (fun p => (s.recalls d p).map Want.recall ++ (s.turns d p).map (fun x => Want.queue x.1 x.2))

/-- Is the queue's launch to be placed by the kernel (R277)? -/
def State.kdir (s : State) (l : Launch) : Bool := !l.cor && ((s.partOf l.world).map (fun n => (s.preg n 0x0DA).getLsbD 31)).getD false

/-- The candidates of a die as bits of die-local cores. -/
def State.candidates (s : State) (id : Nat) (l : Launch) (d : Nat) : Nat :=
  ((l.sites d).filter (s.fits id l)).foldl (fun a x => a + 2 ^ (x.headD 0 - 96 * d)) 0

/-- A request to the kernel: the KIND 4 event, with the candidates it names, and its timer; no event without a candidate, the placement waits (R277). -/
def State.askKernelPlace (s : State) (d q id : Nat) (l : Launch) : State :=
  let n := (s.partOf l.world).getD 0
  let first := l.unitAt d (l.placedOn d) * l.unitSize
  let c := s.candidates id l d
  let unit := if l.convoy then 2 else if l.paired then 1 else 0
  if c = 0 then { s with sch := { s.sch with preqs := terase s.sch.preqs (d * 4096 + q) } }
  else
    let s := s.schEvent n (schWord 4 q first l.world n d unit (c / 2 ^ 64) s.time (c % 2 ^ 64))
    { s with sch := { s.sch with preqs := tput s.sch.preqs (d * 4096 + q) ⟨first, s.time, false, c⟩ } }

/-- The round robin of a die goes past a queue it has placed for (R276); what the queue gained or lost is seen to at once (R272). -/
def State.served (s : State) (d q : Nat) : State :=
  { s with sch := { s.sch with turn := tset 4096 s.sch.turn (d * 4 + s.prioNow q) q, preqs := terase s.sch.preqs (d * 4096 + q) } }

/-- The unit is placed, and the round robin goes past its queue. -/
def State.placeAt (s : State) (d q id : Nat) (l : Launch) (site : List Nat) : State := ((s.placeUnit id l d site).served d q).refreshAll

/-- Place what is wanted where there is room now. -/
def State.placeNow (s : State) (d : Nat) : Want → Option State
  | .recall lead =>
    let xs := s.storedUnit lead
    match tfind s.sch.launches (lead / 2 ^ 24) with
    | none => none
    | some l =>
      if !xs.all Saved.ready then none
      else match (l.sites d).filter (fun site => s.fitsAgain xs site (if l.convoy then l.cvm else 0)) with
        | [] => none
        | x :: rest =>
          let site := rest.foldl (fun b y => if s.siteLoad y < s.siteLoad b then y else b) x
          some (xs.foldl (fun s y => s.partyEvent 3 y.party) (s.recallUnit xs site))
  | .queue q id =>
    match tfind s.sch.launches id with
    | none => none
    | some l =>
      if l.cor then
        if l.dies.all (fun e => l.unitsOn e == 0 || (s.mapped e).contains q) then
          (s.placeCor id l).map (fun s => ((l.dies.filter (fun e => l.unitsOn e != 0)).foldl (fun s e => s.served e q) s).refreshAll)
        else none
      else if s.kdir l then
        if s.candidates id l d = 0 then none else some (s.askKernelPlace d q id l)
      else (s.bestSite id l d).map (fun site => s.placeAt d q id l site)

/-- Would it fit once groups are gone? -/
def State.wantFits (s : State) (d : Nat) (w : Want) (s' : State) : Bool :=
  match w with
  | .recall lead =>
    match tfind s.sch.launches (lead / 2 ^ 24) with
    | none => false
    | some l => (l.sites d).any (fun site => s'.fitsAgain (s.storedUnit lead) site (if l.convoy then l.cvm else 0))
  | .queue _ id =>
    match tfind s.sch.launches id with
    | none => false
    | some l => if l.cor then (s'.placeCor id l).isSome else (s'.bestSite id l d).isSome

/-- Who wants: priority and partition. -/
def State.wantBy (s : State) (w : Want) : Nat × Nat :=
  let id := match w with
    | .recall lead => lead / 2 ^ 24
    | .queue _ id => id
  ((tfind s.sch.launches id).map (fun l => (s.prioNow l.queue, (s.partOf l.world).getD 0))).getD (0, 0)

/-- Free room for what cannot be placed (R280): nothing more while the groups already stopping are enough; none if no choice is. -/
def State.freeRoom (s : State) (d : Nat) (w : Want) : Option State :=
  let going := (s.sch.parties.filter (fun e => e.2.stopping && dieOf e.2.core == d)).map (fun e => (e.1, 0))
  let fit := s.wantFits d w
  if fit (s.without (going.map Prod.fst)) then some s
  else
    let (prio, part) := s.wantBy w
    let cs := (s.victims d prio part).filter (fun c => !((tfind s.sch.parties c.1).map (fun p => p.stopping)).getD true)
    (s.choose fit going cs).map (fun got =>
      ((s.without (going.map Prod.fst)).spare fit [] (got.filter (fun c => c.2 != 0))).foldl (fun s c => s.takeGroup c.1 c.2) s)

/-- The first thing wanted that can be placed, or for which room can be freed. -/
def State.placeFirst (s : State) (d : Nat) : List Want → State
  | [] => s
  | w :: rest =>
    match s.placeNow d w with
    | some s => s
    | none => match s.freeRoom d w with
      | some s => s
      | none => State.placeFirst s d rest

/-- PLACEMENT: die n0's distributor retires what is over, writes out what has stopped, and places one unit, or frees room for it. -/
def execPlacement (s : State) : Out :=
  let d := s.argN 0 % 4
  let s := (s.retireAll.reclaim d).refreshMaps d
  .next (s.placeFirst d (s.wants d))

/-- May the head launch of a queue be placed on a die now: mapped there, and ready (R271, R272, R285)? (DEDUCED, log 86) -/
def State.mayPlaceOn (s : State) (d q id : Nat) (l : Launch) : Bool := (s.mapped d).contains q && s.headReady q id l

/-- QUANTUM_BOUNDARY: the slots of every die rotate at each boundary that has come (R272), and deferred requests are written again (R278). -/
def execQuantumBoundary (s : State) : Out :=
  if s.time / quantum ≤ s.sch.quantum then .next s
  else
    let first := s.sch.quantum + 1
    let s := { s.refreshAll with sch := { s.refreshAll.sch with quantum := s.time / quantum } }
    let s := (List.range (s.time / quantum + 1 - first)).foldl (fun s k => (List.range 4).foldl (fun s d =>
      (List.range 4).foldl (fun s p => s.mapPrio ((first + k) * quantum) d p) s) s) s
    .next (s.sch.preqs.foldl (fun s e =>
      if e.2.deferred then match s.headOf (e.1 % 4096) with
        | some (id, l) => s.askKernelPlace (e.1 / 4096) (e.1 % 4096) id l
        | none => s
      else s) s)

/-- PLACEMENT_TIMEOUT: die n0 has waited TO × 10 µs for the kernel's answer about queue n1, and places the unit itself (R277). -/
def execPlacementTimeout (s : State) : Out :=
  let d := s.argN 0
  let q := s.argN 1
  match tfind s.sch.preqs (d * 4096 + q), s.headOf q with
  | some r, some (id, l) =>
    let wait := usec (10 * ((s.preg ((s.partOf l.world).getD 0) 0x0DA).toNat % 256))
    if r.deferred ∨ s.time < r.since + wait then .next s
    else match s.mayPlaceOn d q id l, s.bestSite id l d with
      | true, some site => .next (s.placeAt d q id l site)
      | _, _ => .next { s with sch := { s.sch with preqs := terase s.sch.preqs (d * 4096 + q) } }
  | _, _ => .next s

/-- The pending request a command names: its die. -/
def State.requestDie (s : State) (q first : Nat) : Option Nat :=
  (List.range 4).find? (fun d => ((tfind s.sch.preqs (d * 4096 + q)).map (fun r => r.first == first)).getD false)

/-- PLACE: queue n0, first party n1, core n2 (R278). -/
def execPlace (s : State) : Out :=
  let q := s.argN 0
  match s.requestDie q (s.argN 1), s.headOf q with
  | some d, some (id, l) =>
    match (l.sites d).find? (fun x => x.headD 0 == s.argN 2) with
    | some site =>
      let named := ((tfind s.sch.preqs (d * 4096 + q)).map (fun r => r.cands.testBit (site.headD 0 - 96 * d))).getD false
      if named && s.mayPlaceOn d q id l && s.fits id l site then .next (s.placeAt d q id l site) else .next (s.askKernelPlace d q id l)
    | none => .next (s.askKernelPlace d q id l)
  | _, _ => .next s

/-- DEFER: the timer of queue n0's request for party n1 stops until the next quantum boundary. -/
def execDefer (s : State) : Out :=
  let q := s.argN 0
  match s.requestDie q (s.argN 1) with
  | none => .next s
  | some d => match tfind s.sch.preqs (d * 4096 + q) with
    | none => .next s
    | some r => .next { s with sch := { s.sch with preqs := tput s.sch.preqs (d * 4096 + q) { r with deferred := true } } }

/-! ### Wake-up records (R281) -/

/-- Does the BWAIT a path waits in hold now? An address that no longer translates ends the wait: the string finds out itself (DEDUCED, log 83). -/
def State.bwaitHolds (s : State) (t : Str) (p : Path) (core : Nat) : Bool :=
  match decode (p.words.getD (p.pos - 1) 0) with
  | .ok (.bwait d a sc) =>
    let addr := (t.spair a.toNat).toNat
    (match (s.xlate core t.world addr aUniLoad p.level).1 with
    | .ok x => waitCond 2 (BitVec.ofNat 64 (s.homeAccess (waitOp 0 sc.toNat) x ⟨0, addr, 8, 0, 0⟩ 0).1) (t.spair d.toNat)
    | _ => true)
  | _ => true

/-- WAKEUP_RECHECK: the record of the party with key n0; the party is queued for recall once every string's condition holds. -/
def execWakeupRecheck (s : State) : Out :=
  match s.stored.find? (fun x => x.key == s.argN 0) with
  | none => .next s
  | some x =>
    if !x.asleep || x.ready then .next s
    else
      let ok := x.strs.all (fun t => ([t.p0, t.p1].filter (fun p => p.live && p.hold == .word)).all (fun p => s.bwaitHolds t p x.party.core))
      if ok then .next { s with stored := s.stored.map (fun y => if y.key = x.key then { y with ready := true } else y) } else .next s

/-! ### Completion (R283) -/

/-- Is a launch over: all placed, every party retired of its strings, every counter 0? -/
def State.launchOver (s : State) (id : Nat) (l : Launch) : Bool :=
  l.whole && l.retired == l.parties && !s.sch.outstanding.any (fun e => e.1 / 512 == id && e.2 != 0)

/-- A launch leaves the pool: its depot goes (R69). -/
def State.launchGone (s : State) (id : Nat) : State :=
  let mine := s.sch.dpAlloc.filter (fun e => e.1 / 4 == id)
  { s with
    sch := { s.sch with launches := terase s.sch.launches id, dpAlloc := s.sch.dpAlloc.filter (fun e => e.1 / 4 != id) }
    mem := { s.mem with zeroing := s.mem.zeroing ++ mine.map (fun e => (3, e.1 % 4 * 2 ^ 26 + e.2.1, e.2.2)) } }

/-- LAUNCH_COMPLETE: launch n0 writes its completion word, or a KIND 0 event (DEDUCED, log 87). -/
def execLaunchComplete (s : State) : Out :=
  let id := s.argN 0
  let s := s.retireAll
  match tfind s.sch.launches id with
  | none => .next s
  | some l =>
    if !s.launchOver id l then .next s
    else
      let n := (s.partOf l.world).getD 0
      let fail := fun (s : State) (reason : Nat) => Host.Outcome.next ((s.launchGone id).schEvent n (schWord 0 l.queue 0 l.world n 0 reason 0 s.time l.cword))
      match s.xlate 0 l.world l.cword aUniStore l.level with
      | (.ok x, s) => .next ((s.homeAccess { uniMemOp 0 8 .store .none 0 with strong := true, rel := true, scope := 4 } x ⟨0, l.cword, 8, l.cval, 0⟩ 0).2.2.launchGone id)
      | (.park _ _, s) => fail s 0
      | (.trap f, s) => fail s f.reason

/-! ### Time (R257, R285) -/

/-- Does a party of another partition wait for room on a die? -/
def State.otherWaits (s : State) (d n : Nat) : Bool := (s.wants d).any (fun w => (s.wantBy w).2 != n && (s.placeNow d w).isNone)

/-- SLICE_EXPIRY: the time slice of the party with key n0 ends; it is asked to stop if its partition stands above its floor, a party of
another partition waits for room on the die, and its partition has a context store (R288). -/
def execSliceExpiry (s : State) : Out :=
  let key := s.argN 0
  match tfind s.sch.parties key with
  | none => .next s
  | some p =>
    match s.partOf p.world with
    | none => .next s
    | some n =>
      if s.time < p.slice + usec (100 * ptSlice (s.preg n 0x0D5)) then .next s
      else
        let s := { s with sch := { s.sch with parties := tput s.sch.parties key { p with slice := s.time } } }
        if s.aboveFloor n && s.otherWaits (dieOf p.core) n && !p.stopping && (s.preg n 0x0C4).toNat % 2 ^ 24 != 0 then .next (s.takeGroup key 2) else .next s

/-- CEILING_REACHED: partition n0's slot time in the period has reached its ceiling (DEDUCED, log 70). -/
def execCeilingReached (s : State) : Out :=
  let n := s.argN 0
  if s.sch.capped.contains n ∨ s.used n < s.ceiling n then .next s
  else
    let s := { s with sch := { s.sch with capped := n :: s.sch.capped } }
    let s := s.schEvent n (schWord 1 0 0 0 n 0 0 0 s.time 0)
    .next (s.strs.foldl (fun s x => if !x.2.outrider && s.partOf x.2.world == some n then s.askStop x.1 else s) s)

/-- The steward pre-empts a partition: its strings and its children's are asked to stop by the tenant grade, and their groups go to the context store
(R289, steps 3 and 4) (DESIGN CHOICE, log 148). -/
def State.preempt (s : State) (n : Nat) : State :=
  let s := { s with sch := { s.sch with held := n :: s.sch.held.filter (fun x => x != n) } }
  s.sch.parties.foldl (fun s e => if s.isHeld e.2.world && !e.2.stopping then
    match (tfind s.sch.launches e.2.launch).map (fun l => (s.groupOf e.1 l).head?.map Prod.fst == some e.1) with
    | some true => s.takeGroup e.1 2
    | _ => s
  else s) s

/-- ... and restores it: what is captured on its cores goes on, and what is stored is placed as recalled parties are (R276). -/
def State.restorePart (s : State) (n : Nat) : State :=
  let mine := fun (s : State) (w : Nat) => s.isHeld w
  let free := { s with sch := { s.sch with held := s.sch.held.filter (fun x => x != n) } }
  let back := s.sch.parties.filter (fun e => mine s e.2.world && !mine free e.2.world)
  back.foldl (fun s e => { (e.2.allUnits.foldl State.resume s) with
    sch := { s.sch with parties := tput s.sch.parties e.1 { e.2 with stopping := false } } }) free

/-- PERIOD_BOUNDARY: the accounts restart, and what stopped at a ceiling goes on. -/
def execPeriodBoundary (s : State) : Out :=
  if s.time / 36000000 ≤ s.sch.period then .next s
  else
    let old := s.sch.capped
    let s := { s with sch := { s.sch with period := s.time / 36000000, slotTime := [], capped := [] } }
    .next (s.strs.foldl (fun s x =>
      let stopping := ((tfind s.sch.parties x.2.party).map (fun p => p.stopping)).getD false
      if !stopping && !s.isHeld x.2.world && ((s.partOf x.2.world).map (fun n => old.contains n)).getD false then s.resume x.1 else s) s)

end Sys2Proof.Machine
end

