-- ==== Sys2Proof/Machine/Exit.lean ====
section
/-! DEFINITION. EXIT (R231, R317, R332): the lanes of a path end, the divergence stack unwinds, and what a string leaves when its last lane
ends (R69, R173, R335, R389, R418). -/

namespace Sys2Proof.Machine

/-- No path is live: JOIN records are popped, and the newest suspended path resumes. -/
def unwind (t : Str) : List StkRec → Str
  | [] => { t with stack := [] }
  | .join _ :: rest => unwind t rest
  | .susp q :: rest => ({ t with p0 := q, stack := rest }).merge

/-- The string without the lanes of a path; the traps it handled are over, and hold and mask nothing any more (R250, R255). -/
def Str.exitPath (t : Str) (b : Bool) : Str :=
  let t := { t with lmask := t.lmask &&& ~~~(t.path b).mask, traps := t.traps.filter (fun r => decide (r.handler ≠ (t.path b).id)) }.setPath b Path.blank
  if (t.path (!b)).live then t.merge else unwind t t.stack

/-- The tokens a string holds are released as MREL releases them (R389). -/
def State.dropTokens (s : State) (key : Nat) : State :=
  s.eng.tiles.foldl (fun s e => if e.2.token = .str key then s.setTile e.1 { e.2 with token := .none } else s) s

/-- An exit recounts the barriers that count every string (R335). -/
def State.recount (s : State) (t : Str) : State :=
  (List.range 12).foldl (fun s n =>
    let v := s.barGet t n
    if v.2 = 0 ∧ barFull v (s.barLive t (decide (8 ≤ n))) then s.barDone t n else s) s

/-- What is still in flight of a unit belongs to no string any more. -/
def State.orphan (s : State) (u : Nat) : State :=
  { s with mem := { s.mem with
    reqs := s.mem.reqs.map (fun r => if r.unit = u then { r with unit := noUnit } else r)
    ops := s.mem.ops.map (fun e => if e.2.unit = u then (e.1, { e.2 with unit := noUnit }) else e) } }

/-- The party of an exited string has one string less. -/
def State.partyLess (s : State) (key : Nat) : State :=
  match tfind s.sch.parties key with
  | none => s
  | some p => { s with sch := { s.sch with parties := tput s.sch.parties key { p with live := p.live - 1 } } }

/-- Has a world a string on the package? -/
def State.hasStrings (s : State) (w : Nat) : Bool :=
  s.strs.any (fun x => !x.2.outrider && x.2.world == w) || s.stored.any (fun x => x.strs.any (fun t => t.world == w))

/-- A string has exited: its slot and blocks, its outriders and queues, its tokens, its place in its party. -/
def State.exitStr (s : State) (u : Nat) (t : Str) : State :=
  let outs := (s.strs.filter (fun x => x.2.outrider && x.2.runs && x.2.bound == u && x.2.party == t.party)).map Prod.fst
  let s := outs.foldl (fun s o => s.outStop o) s
  let s := { s with strs := terase s.strs u, mem := { s.mem with zeroing := s.mem.zeroing ++ [(0, u, t.vblk)] } }
  let s := ((s.orphan u).dropTokens t.key).partyLess t.party
  let s := s.recount t
  let s := if s.hasStrings t.world then s else s.endLeases t.world
  s.retireAll

def execExit (s : State) : Out :=
  issued .exit s fun t p =>
    if t.outrider then .next ((s.putCur t p.fall).outStop s.curUnit)
    else match t.reports with
      | r :: rest => reportTrap s t p p.here p.pos r rest
      | [] =>
        if s.eng.queue.any (fun e => e.2.who == t.key && e.2.st == 4) then waitOn s t p
        else
          let t := (t.setPath s.curPath p).exitPath s.curPath
          if t.lmask = 0 then .next (s.exitStr s.curUnit t) else .next (s.putStr s.curUnit t)

end Sys2Proof.Machine
end

