-- ==== Sys2Proof/Machine/Context.lean ====
section
/-! DEFINITION. The string image (R260, R261, R305) and CTXSV and CTXLD (R347, R148, R259). -/

namespace Sys2Proof.Machine

/-! ### The image as one number -/

/-- n fields of `sz` bytes from an offset. -/
def fields (off sz n : Nat) (f : Nat → Nat) : Nat := (List.range n).foldl (fun a k => a + f k % 2 ^ (8 * sz) * 2 ^ (8 * (off + sz * k))) 0

/-- Field k of `sz` bytes from an offset. -/
def fieldAt (img off sz k : Nat) : Nat := img / 2 ^ (8 * (off + sz * k)) % 2 ^ (8 * sz)

/-- STATE of a path. -/
def PState.code : PState → Nat
  | .empty => 0
  | .running => 1
  | .joinWait => 2
  | .parked => 3

/-- The 64-byte record of a path (R261); KIND 0 in a slot, 2 on the stack (DEDUCED, log 76) (DEDUCED, log 77). -/
def Path.record (p : Path) (kind : Nat) : Nat :=
  if !p.live then 0
  else
    p.here.toNat * 2 ^ 448 + p.parkpc.toNat * 2 ^ 384 + p.mask.toNat * 2 ^ 352 + p.umask.toNat * 2 ^ 320 +
      (if p.pos = 0 then 0 else p.cmask.toNat) * 2 ^ 288 + p.flow.toNat * 2 ^ 272 + p.flags.toNat * 2 ^ 260 + p.pos % 16 * 2 ^ 256 +
      (if p.woken then 3 else p.state.code) * 2 ^ 254 + (if p.rep then 2 ^ 253 else 0) + (if p.woken then 2 ^ 252 else 0) + kind * 2 ^ 250 + p.level % 4 * 2 ^ 248 +
      p.tinfo.toNat * 2 ^ 216 + p.rfinfo.toNat * 2 ^ 184 + p.wsdecl.toNat * 2 ^ 176 + p.gtinfo.toNat * 2 ^ 144

def StkRec.record : StkRec → Nat
  | .join a => a.toNat * 2 ^ 448 + 2 ^ 250
  | .susp p => p.record 2

/-- The registers of R305, rising. -/
def imageRegs : List Nat :=
  [0x000, 0x011, 0x013, 0x014, 0x015, 0x016, 0x020, 0x023, 0x024, 0x025, 0x029, 0x02A, 0x02B, 0x02C, 0x02D, 0x052, 0x062, 0x070, 0x0A6,
   0x0B0, 0x0B1, 0x0D0, 0x0E2]

/-- The image of a string (DEDUCED, log 78). -/
def Str.image (t : Str) : Nat :=
  let st := t.stack.reverse
  1 + t.vblk * 2 ^ 32 + t.stack.length * 2 ^ 64 + t.lmask.toNat * 2 ^ 96 + t.q.toNat * 2 ^ 128 + t.repidx * 2 ^ 160 +
    t.p0.record 0 * 2 ^ (8 * 0x40) + t.p1.record 0 * 2 ^ (8 * 0x80) + fields 0xC0 64 16 (fun k => ((st[k]?).map StkRec.record).getD 0) +
    fields 0x4C0 4 64 (fun k => (t.sget k).toNat) + fields 0x5C0 8 4 (fun k => (tget 0 t.lstart k).toNat) +
    fields 0x5E0 8 4 (fun k => (tget 0 t.lend k).toNat) +
    fields 0x600 8 23 (fun k => if k = 0 then t.world else (t.reg (imageRegs.getD k 0)).toNat) +
    fields 0x700 2 128 (fun k => (t.vw k).toNat) + fields 0x800 2 64 (fun k => (t.sw k).toNat) +
    fields 0x880 2 7 (fun k => (t.pw k).toNat) + fields 0x88E 2 7 (fun k => (t.qw k).toNat) +
    fields 0x89C 4 4 (fun k => (tget 0 t.lcount k).toNat) + fields 0x900 4 7 (fun k => (t.pget k).toNat) +
    fields 0x1000 4 (1024 * t.vblk) (fun k => (t.vget (k / 32) (k % 32)).toNat)

/-- The waybill of everything an image holds (DEDUCED, log 75). -/
def Str.imageWb (t : Str) : Waybill :=
  t.vws 0 128 ||| t.sws 0 64 ||| (List.range 7).foldl (fun a k => a ||| t.pw k ||| t.qw k) 0 ||| t.paths.foldl (fun a p => a ||| p.flow) 0

/-! ### Reading an image back -/

/-- A path of a record, with its number; its flags are bound to the operations given, and its waybill widened. A parked path replays at once. Reserved
bits of its registers read zero (R7). -/
def pathOf (r : Nat) (ops : List Nat) (w : Waybill) (id : Nat) : Path :=
  let f := fun (k n : Nat) => r / 2 ^ k % 2 ^ n
  let pos := f 256 4
  if f 254 2 = 0 then Path.blank
  else
    let p : Path := { Path.blank with
      pc := BitVec.ofNat 64 (f 448 64) - BitVec.ofNat 64 (4 * pos), parkpc := BitVec.ofNat 64 (f 384 64), mask := BitVec.ofNat 32 (f 352 32)
      umask := BitVec.ofNat 32 (f 320 32), cmask := BitVec.ofNat 32 (f 288 32), flow := BitVec.ofNat 16 (f 272 16) ||| w
      binds := (List.range 12).flatMap (fun k => if f 260 12 / 2 ^ k % 2 = 1 then ops.map (fun o => (k, o)) else [])
      pos, state := if f 254 2 = 2 then .joinWait else .running, rep := f 253 1 == 1, woken := f 252 1 == 1, level := f 248 2
      tinfo := BitVec.ofNat 32 (f 216 32) &&& 0xF8FFE000, rfinfo := BitVec.ofNat 32 (f 184 32) &&& 0xBFFFFF00, wsdecl := BitVec.ofNat 8 (f 176 8)
      gtinfo := BitVec.ofNat 32 (f 144 32) &&& 0xF0FFFFFF, id, since := id }
    if f 254 2 = 3 then { p with pc := p.parkpc - BitVec.ofNat 64 (4 * pos), woken := true } else p

/-- The stack of an image, top first. -/
def imageStack (img : Nat) (ops : List Nat) (w : Waybill) (n : Nat) : List StkRec :=
  ((List.range (fieldAt img 8 4 0)).map (fun k =>
    let r := fieldAt img 0xC0 64 k
    if r / 2 ^ 250 % 4 = 1 then StkRec.join (BitVec.ofNat 64 (r / 2 ^ 448)) else StkRec.susp (pathOf r ops w (n + k)))).reverse

/-- A table of n entries. -/
def tableOf {α : Type} [DecidableEq α] (d : α) (n : Nat) (f : Nat → α) : Table α := (List.range n).foldl (fun t k => tset d t k (f k)) []

/-- The string that an image replaces a string with: waybills take the union with those of the lines read, lanes stay within the
launch's (DEDUCED, log 18). Its paths are numbered from n on: all they do comes after what the string has done (R148). -/
def Str.restore (t : Str) (img : Nat) (ops : List Nat) (w : Waybill) (n : Nat) : Str :=
  let wb := fun (off k : Nat) => BitVec.ofNat 16 (fieldAt img off 2 k) ||| w
  let t := { t with
    world := fieldAt img 0x600 8 0 % 256, lmask := BitVec.ofNat 32 (fieldAt img 0xC 4 0) &&& t.launchLanes
    q := BitVec.ofNat 7 (fieldAt img 0x10 4 0), repidx := fieldAt img 0x14 4 0 % 64
    p0 := pathOf (fieldAt img 0x40 64 0) ops w n, p1 := pathOf (fieldAt img 0x80 64 0) ops w (n + 1), stack := imageStack img ops w (n + 2)
    s := tableOf 0 64 (fun k => BitVec.ofNat 32 (fieldAt img 0x4C0 4 k))
    lstart := tableOf 0 4 (fun k => (BitVec.ofNat 57 (fieldAt img 0x5C0 8 k)).signExtend 64)
    lend := tableOf 0 4 (fun k => (BitVec.ofNat 57 (fieldAt img 0x5E0 8 k)).signExtend 64)
    lcount := tableOf 0 4 (fun k => BitVec.ofNat 32 (fieldAt img 0x89C 4 k))
    vwb := tableOf 0 128 (wb 0x700), swb := tableOf 0 64 (wb 0x800), pwb := tableOf 0 7 (wb 0x880), qwb := tableOf 0 7 (wb 0x88E)
    p := tableOf 0 7 (fun k => BitVec.ofNat 32 (fieldAt img 0x900 4 k))
    v := tableOf 0 (1024 * t.vblk) (fun k => BitVec.ofNat 32 (fieldAt img 0x1000 4 k)), regPoison := [], traps := t.traps.map (fun r => { r with held := none }) }
  (List.range 22).foldl (fun t k => t.setReg (imageRegs.getD (k + 1) 0)
    (BitVec.ofNat 64 (regClamp (imageRegs.getD (k + 1) 0) 0 (fieldAt img 0x600 8 (k + 1))))) t

/-- What CTXLD finds wrong with an image, or 0 (R347) (DEDUCED, log 80) (DEDUCED, log 82). -/
def State.imageCode (s : State) (t : Str) (img : Nat) : Nat :=
  let depth := fieldAt img 8 4 0
  let slots := [fieldAt img 0x40 64 0, fieldAt img 0x80 64 0]
  let recs := (List.range depth).map (fun k => fieldAt img 0xC0 64 k)
  let kind := fun (r : Nat) => r / 2 ^ 250 % 4
  let high := fun (r : Nat) => r / 2 ^ 254 % 4 != 0 && decide (1 < r / 2 ^ 248 % 4)
  if fieldAt img 0 4 0 ≠ 1 ∨ 16 < depth ∨ slots.any (fun r => kind r != 0) ∨ recs.any (fun r => kind r != 1 && kind r != 2) then 1
  else if fieldAt img 4 4 0 ≠ t.vblk then 2
  else if (s.partOf (fieldAt img 0x600 8 0 % 256)).isNone ∨ s.partOf (fieldAt img 0x600 8 0 % 256) ≠ s.partOf t.world then 3
  else if slots.any high ∨ recs.any (fun r => kind r == 2 && high r) then 4
  else 0

/-! ### The instructions -/

/-- The lines of a range as accesses of one instruction. -/
def lineReqs (addr n : Nat) (img : Nat) : List LaneReq :=
  (List.range n).map (fun k => ⟨0, (addr + 128 * k) % 2 ^ 64, 128, img / 2 ^ (1024 * k) % 2 ^ 1024, 0⟩)

/-- The path of the image CTXSV writes: the word after it, the loop end looked at (R334). -/
def Str.afterSave (t : Str) (b : Bool) : Str :=
  let (t, p) := advance t (t.path b)
  match p.left with
  | none => t.setPath b p
  | some h =>
    let p := { p with left := none }
    if t.loops = 0 then t.setPath b p
    else match loopClose t h t.loops with
      | (t, some a) => t.setPath b { p with pc := a }
      | (t, none) => t.setPath b p

/-- Write the lines of a checked store at their homes, each counted by the sampler (R54). -/
def State.writeLines (s : State) (t : Str) (m : MemOp) (wb : Waybill) : List (LaneReq × Place) → State
  | [] => s
  | (r, pl) :: rest =>
    let s := match pl with
      | .chip _ _ => s
      | .glob x => ((s.sampleHome (coreOf s.curUnit) t.world .store x r.addr false).homeAccess m x r wb).2.2.l1Drop
        (coreOf s.curUnit) t.world (x.gpa / 128)
    State.writeLines s t m wb rest

/-- Read the lines of a checked load at their homes, each counted by the sampler (R54): their bytes as one number, and their waybills. -/
def State.readLines (s : State) (t : Str) (m : MemOp) : List (LaneReq × Place) → Nat × Waybill × State
  | [] => (0, 0, s)
  | (r, pl) :: rest =>
    match pl with
    | .chip _ _ => State.readLines s t m rest
    | .glob x =>
      let (v, w, s) := (s.sampleHome (coreOf s.curUnit) t.world .load x r.addr false).homeAccess m x r 0
      let (v', w', s) := State.readLines s t m rest
      (v + v' * 2 ^ 1024, w ||| w', s)

/-- An image at an address that is not 4 KiB-aligned (DEDUCED, log 81). -/
def imageAlign (s : State) (t : Str) (p : Path) (acc : Nat) (a : Dword) : Out :=
  trapHere s t { p with tinfo := tinfoWord 0 0 0 0 acc } cALIGN a

/-- CTXSV (R347) (DEDUCED, log 74). -/
def execCtxsv (d a : BitVec 6) (f : BitVec 1) (s : State) : Out :=
  issued (.ctxsv d a f) s fun t p =>
    let addr := t.spair a.toNat
    let aw := t.sws a.toNat 2
    if addr.extractLsb' 0 12 ≠ 0 then imageAlign s t p aUniStore addr
    else if p.binds ≠ [] ∨ !s.quiet s.curUnit then waitOn s t p
    else match t.regPoison with
      | r :: rest => trapHere s t { p with tinfo := 0 } cPOISON (BitVec.ofNat 64 (rest.foldl min r % 128))
      | [] =>
        let p := p.resumed
        let m := { uniMemOp 0 128 .store .none f with rel := true, scope := 4 }
        let save := ((t.setPath s.curPath p).sput d.toNat 1 (uniWb p aw)).afterSave s.curPath
        let wb := t.imageWb ||| aw ||| p.flow
        match judge s t p m (lineReqs addr.toNat (32 * (t.vblk + 1)) save.image) wb with
        | .stop o => o
        | .go s c =>
          match c.park with
          | (r, sz, own) :: _ => parkWhole s t p m aw r sz own
          | [] => finish ((s.writeLines t m wb c.go).acquireAt (coreOf s.curUnit) t.world 4) (t.sput d.toNat 0 (uniWb p aw)) p

/-- One part of the image read: n lines from an address (DEDUCED, log 79). -/
def ctxRead (s : State) (t : Str) (p : Path) (m : MemOp) (addr n : Nat) (aw : Waybill) (k : Nat → Waybill → State → Out) : Out :=
  match judge s t p m (lineReqs addr n 0) 0 with
  | .stop o => o
  | .go s c =>
    match c.park with
    | (r, sz, own) :: _ => parkWhole s t p m aw r sz own
    | [] =>
      let (v, w, s) := s.readLines t m c.go
      k v w s

def execCtxld (d a : BitVec 6) (f : BitVec 1) (s : State) : Out :=
  issued (.ctxld d a f) s fun t p =>
    let addr := t.spair a.toNat
    let aw := t.sws a.toNat 2
    if addr.extractLsb' 0 12 ≠ 0 then imageAlign s t p aUniLoad addr
    else if !s.quiet s.curUnit then waitOn s t p
    else
      let p := p.resumed
      let m := { uniMemOp 0 128 .load .none f with strong := true, acq := true, scope := 4 }
      ctxRead s t p m addr.toNat 32 aw fun v w s =>
        let c := s.imageCode t v
        if c ≠ 0 then finish s (t.sput d.toNat (resultWord c 0) (uniWb p (aw ||| w))) p
        else ctxRead s t p m (addr.toNat + 4096) (32 * t.vblk) aw fun v' w' s =>
          let ops := (s.mem.ops.filter (fun e => e.2.unit == s.curUnit)).map Prod.fst
          .next (({ s with nextOp := s.nextOp + 18 }.putStr s.curUnit (t.restore (v + v' * 2 ^ 32768) ops (w ||| w') s.nextOp)).acquireAt (coreOf s.curUnit) t.world 4)

/-! ### The debug window (R266) -/

/-- What a read of the debug window shows of the string that sys.dbgsel selects: its image (R260) (DEDUCED, log 149). -/
def State.debugString (s : State) : Option Nat := (s.str? s.dbgUnit).map Str.image

/-- ... and of its party: R262's image, with the tiles' tokens, the engine entries and their progress, and the barriers' counts (DEDUCED, log 149). -/
def State.debugParty (s : State) : Option Saved :=
  (s.str? s.dbgUnit).bind (fun t => (tfind s.sch.parties t.party).map (fun p => s.image t.party p false))

end Sys2Proof.Machine
end

