-- ==== Sys2Proof/Machine/Shake.lean ====
section
/-! DEFINITION. The two public algorithms that chapter 13 names without writing them out: SHAKE256 with 32 bytes of output, and the check of
an XMSS-SHAKE256 signature (R426, R434, R439). Both are the published standards (PRESUMED, log 6). -/

namespace Sys2Proof.Machine

/-! ### SHAKE256

The permutation of FIPS 202 over 25 lanes; lane (x, y) stands at 5 y + x. Its offsets and round constants are computed as the standard
defines them. -/

/-- Lane (x, y), each taken modulo 5; and 25 lanes from what each holds. -/
def laneAt (a : List Dword) (x y : Nat) : Dword := a.getD (x % 5 + 5 * (y % 5)) 0
def lanes25 (f : Nat → Nat → Dword) : List Dword := (List.range 25).map (fun k => f (k % 5) (k / 5))

/-- Where the walk of the offsets stands after t steps from (1, 0): (x, y) goes to (y, 2 x + 3 y). -/
def turnAt : Nat → Nat × Nat
  | 0 => (1, 0)
  | t + 1 => ((turnAt t).2, (2 * (turnAt t).1 + 3 * (turnAt t).2) % 5)

/-- The rotation of lane (x, y): the triangular number of its step, and 0 for lane (0, 0). -/
def laneTurn (x y : Nat) : Nat :=
  match (List.range 24).find? (fun t => turnAt t == (x, y)) with
  | some t => (t + 1) * (t + 2) / 2 % 64
  | none => 0

/-- The register of the round constants after n steps: bit 0 leaves, and goes into the bits of x^8 + x^6 + x^5 + x^4 + 1. -/
def roundBits : Nat → Nat
  | 0 => 1
  | n + 1 => if roundBits n < 128 then 2 * roundBits n else 2 * roundBits n % 256 ^^^ 0x71

/-- The constant of round i: bit j of the seven that stand at 2^j - 1. -/
def roundConst (i : Nat) : Dword :=
  BitVec.ofNat 64 ((List.range 7).foldl (fun acc j => acc + roundBits (7 * i + j) % 2 * 2 ^ (2 ^ j - 1)) 0)

/-- The sum of a column of lanes. -/
def column (a : List Dword) (x : Nat) : Dword := (List.range 5).foldl (fun acc y => acc ^^^ laneAt a x y) 0

/-- Round i: columns added in, lanes turned and moved, rows combined, the constant added to lane (0, 0). -/
def permRound (a : List Dword) (i : Nat) : List Dword :=
  let cs := (List.range 5).map (column a)
  let mixed := lanes25 (fun x y => laneAt a x y ^^^ cs.getD ((x + 4) % 5) 0 ^^^ (cs.getD ((x + 1) % 5) 0).rotateLeft 1)
  let moved := lanes25 (fun x y => (laneAt mixed (x + 3 * y) x).rotateLeft (laneTurn ((x + 3 * y) % 5) x))
  lanes25 (fun x y =>
    laneAt moved x y ^^^ (laneAt moved (x + 2) y &&& ~~~ laneAt moved (x + 1) y) ^^^ (if x + y = 0 then roundConst i else 0))

def permute (a : List Dword) : List Dword := (List.range 24).foldl permRound a

/-- Eight bytes as a lane. -/
def laneOf (bs : List Byte) : Dword := BitVec.ofNat 64 ((bs.take 8).foldr (fun b acc => b.toNat + 256 * acc) 0)

/-- A block of 136 bytes goes into the first 17 lanes. -/
def absorb (a : List Dword) (bs : List Byte) : List Dword :=
  permute (lanes25 (fun x y => laneAt a x y ^^^ (if x + 5 * y < 17 then laneOf (bs.drop (8 * (x + 5 * y))) else 0)))

/-- The padding of a message: 0x1F after it, and the top bit of the last byte of its last block. -/
def shakePad (bs : List Byte) : List Byte :=
  let n := (bs.length / 136 + 1) * 136
  bs ++ (List.range (n - bs.length)).map (fun k =>
    (if k = 0 then 0x1F else 0) ||| (if bs.length + k + 1 = n then 0x80 else 0))

/-- The blocks of a padded message absorbed in turn. -/
def absorbAll : Nat → List Dword → List Byte → List Dword
  | 0, a, _ => a
  | n + 1, a, bs => absorbAll n (absorb a (bs.take 136)) (bs.drop 136)

/-- SHAKE256, 32 bytes (PRESUMED, log 6). -/
def shake256 (bs : List Byte) : List Byte :=
  let m := shakePad bs
  let a := absorbAll (m.length / 136) (List.replicate 25 0) m
  (List.range 32).map (fun k => BitVec.ofNat 8 ((a.getD (k / 8) 0).toNat / 2 ^ (8 * (k % 8))))

/-! ### XMSS (RFC 8391, SP 800-208: n = 32, w = 16) -/

/-- A number as n bytes, highest first. -/
def bytesBE (n v : Nat) : List Byte := (List.range n).map (fun k => BitVec.ofNat 8 (v / 256 ^ (n - 1 - k)))
def natBE (bs : List Byte) : Nat := bs.foldl (fun a b => 256 * a + b.toNat) 0

/-- The hash address: type, three words, and keyAndMask; layer and tree are 0. -/
def xAdrs (ty a b c km : Nat) : List Byte := bytesBE 4 0 ++ bytesBE 8 0 ++ bytesBE 4 ty ++ bytesBE 4 a ++ bytesBE 4 b ++ bytesBE 4 c ++ bytesBE 4 km
def xPrf (seed adrs : List Byte) : List Byte := shake256 (bytesBE 32 3 ++ seed ++ adrs)
def xXor (a b : List Byte) : List Byte := (a.zip b).map (fun (p : Byte × Byte) => p.1 ^^^ p.2)

/-- `n` steps of a chain from step i. -/
def xChain (seed : List Byte) (ots ci : Nat) : Nat → Nat → List Byte → List Byte
  | 0, _, x => x
  | n + 1, i, x =>
    xChain seed ots ci n (i + 1)
      (shake256 (bytesBE 32 0 ++ xPrf seed (xAdrs 0 ots ci i 0) ++ xXor x (xPrf seed (xAdrs 0 ots ci i 1))))

/-- The randomised hash of two nodes. -/
def xNode (seed : List Byte) (ty a b c : Nat) (l r : List Byte) : List Byte :=
  shake256 (bytesBE 32 1 ++ xPrf seed (xAdrs ty a b c 0) ++ xXor l (xPrf seed (xAdrs ty a b c 1)) ++ xXor r (xPrf seed (xAdrs ty a b c 2)))

/-- One level of an L-tree. -/
def xPairs (seed : List Byte) (idx height : Nat) : Nat → List (List Byte) → List (List Byte)
  | i, l :: r :: t => xNode seed 1 idx height i l r :: xPairs seed idx height (i + 1) t
  | _, t => t

def xLtree (seed : List Byte) (idx : Nat) : Nat → Nat → List (List Byte) → List Byte
  | 0, _, l => l.headD []
  | n + 1, h, l => if l.length ≤ 1 then l.headD [] else xLtree seed idx n (h + 1) (xPairs seed idx h 0 l)

/-- The 67 digits of a digest: 64 of four bits, then the checksum's. -/
def xDigits (d : List Byte) : List Nat :=
  let a := d.flatMap (fun b => [b.toNat / 16, b.toNat % 16])
  let c := a.foldl (fun s x => s + (15 - x)) 0
  a ++ [c / 256 % 16, c / 16 % 16, c % 16]

/-- The n bytes at place k. -/
def part (bs : List Byte) (k n : Nat) : List Byte := (bs.drop k).take n

/-- The root a signature leads to, climbing the authentication path. -/
def xClimb (seed sig : List Byte) (idx : Nat) : Nat → Nat → List Byte → List Byte
  | 0, _, node => node
  | n + 1, k, node =>
    let auth := part sig (36 + 32 * 67 + 32 * k) 32
    let t := idx / 2 ^ (k + 1)
    xClimb seed sig idx n (k + 1) (if idx / 2 ^ k % 2 = 0 then xNode seed 2 0 k t node auth else xNode seed 2 0 k t auth node)

/-- The height of a parameter set: 1, 2, 3 are 10, 16, 20 (R426). -/
def psetHeight (pset : Nat) : Nat :=
  match pset with
  | 1 => 10
  | 2 => 16
  | _ => 20

/-- Does a signature verify over a message under a root and a seed? -/
def xmssVerify (pset : Nat) (root seed msg sig : List Byte) : Bool :=
  let h := psetHeight pset
  let idx := natBE (part sig 0 4)
  if sig.length < 36 + 32 * (67 + h) ∨ 2 ^ h ≤ idx then false
  else
    let d := xDigits (shake256 (bytesBE 32 2 ++ part sig 4 32 ++ root ++ bytesBE 32 idx ++ msg))
    let pk := ((List.range 67).zip d).map (fun (p : Nat × Nat) => xChain seed idx p.1 (15 - p.2) p.2 (part sig (36 + 32 * p.1) 32))
    xClimb seed sig idx h 0 (xLtree seed idx 7 0 pk) == root

end Sys2Proof.Machine
end

