-- ==== Sys2Proof/Machine/Trust.lean ====
section
/-! DEFINITION. The security block (R344, R345, R425, R426, R434 to R446): release policies, sealing and the measurement, origin tables, the
measurement log, reports, acknowledgements and attestation, and the binding of worlds. -/

namespace Sys2Proof.Machine

/-! ### Little-endian fields of byte strings -/

/-- The n-byte number at place k. -/
def leAt (bs : List Byte) (k n : Nat) : Nat := ofBytes (part bs k n)
/-- Are the n bytes at place k zero? -/
def zeroAt (bs : List Byte) (k n : Nat) : Bool := (part bs k n).all (fun b => b == 0)

/-! ### Origin tables (R425, R426) -/

/-- An origin entry: valid, with its PSET, ROOT and SEED. -/
def originEntry (img : List Byte) (k : Nat) : Option (Nat × List Byte × List Byte) :=
  if (leAt img (96 * k) 96).testBit 160 then some (leAt img (96 * k + 31) 1, part img (96 * k + 64) 32, part img (96 * k + 32) 32) else none

def State.origin (s : State) (w k : Nat) : Option (Nat × List Byte × List Byte) := (tfind s.tr.origins w).bind (fun img => originEntry img k)

/-- Is an image well formed: PSET of each valid entry, reserved fields zero? -/
def originForm (img : List Byte) : Bool :=
  decide (img.length = 3584) &&
  (List.range 16).all (fun k =>
    leAt img (96 * k) 96 / 2 ^ 161 % 2 ^ 87 == 0 && (match originEntry img k with
      | none => true
      | some (p, _, _) => decide (1 ≤ p ∧ p ≤ 3))) &&
  (List.range 64).all (fun h => leAt img (1536 + 32 * h) 32 / 2 % 2 ^ 111 == 0)

/-- ORGD of a world. -/
def State.orgd (s : State) (w : Nat) : List Byte :=
  match tfind s.tr.origins w with
  | some img => shake256 img
  | none => (List.range 32).map Config.orgdUnset

/-! ### Commands of sys.trcmd (R446) -/

/-- A command of a partition is over: BUSY clears, VALUE and CODE are set. -/
def State.trDone (s : State) (part code value : Nat) : State :=
  { s.setPreg part 0x0E1 (BitVec.ofNat 64 (value % 65536 * 256 + code)) with tr := { s.tr with cmds := terase s.tr.cmds part } }

/-- The command of an operation in progress for a partition. -/
def State.trCmd (s : State) (part op : Nat) : Option TrCmd := (tfind s.tr.cmds part).filter (fun c => c.op == op)

/-- Do n bytes lie in the partition, aligned: every granule mapped with the permission (bit 1 read, 2 write of the leaf)? -/
def State.trBuffer (s : State) (part addr n align bit : Nat) : Bool :=
  addr % align == 0 && (List.range ((addr % 4096 + n + 4095) / 4096)).all (fun k =>
    match s.s2Leaf (s.topOf part) (4096 * (addr / 4096 + k)) with
    | none => false
    | some (_, e) => e.getLsbD bit)

/-- ORGLOAD of partition n0 (DEDUCED, log 96). -/
def execOrgload (s : State) : Out :=
  let part := s.argN 0
  match s.trCmd part 1 with
  | none => .next s
  | some c =>
    if thas s.tr.origins c.world then .next (s.trDone part 2 0)
    else if !s.trBuffer part c.arg 3584 512 1 then .next (s.trDone part 1 0)
    else
      let (img, s) := s.hubBytes (some part) c.arg 3584
      if !originForm img then .next (s.trDone part 1 0)
      else .next ({ s with tr := { s.tr with origins := tput s.tr.origins c.world img } }.trDone part 0 0)

/-- The 96 bytes of a measurement record (R439). -/
def MRec.bytes (r : MRec) : List Byte :=
  bytesOf 96 (r.meas.toNat + r.world * 2 ^ 256 + r.va % 2 ^ 57 * 2 ^ 327 + r.gpa % 2 ^ 52 * 2 ^ 396 + r.mono % 2 ^ 64 * 2 ^ 448 + r.hash.toNat * 2 ^ 512)

def State.records (s : State) (w : Nat) : List MRec := s.tr.log.filter (fun r => r.world == w)

/-- LOGRD of partition n0: up to 42 records from the index at the start of the buffer, from offset 64. -/
def execLogrd (s : State) : Out :=
  let part := s.argN 0
  match s.trCmd part 5 with
  | none => .next s
  | some c =>
    if !(s.trBuffer part c.arg 4096 4096 1 && s.trBuffer part c.arg 4096 4096 2) then .next (s.trDone part 1 0)
    else
      let (ix, s) := s.hubBytes (some part) c.arg 4
      let rs := ((s.records c.world).drop (ofBytes ix)).take 42
      .next ((s.hubPut (some part) (c.arg + 64) 0 (rs.flatMap MRec.bytes)).trDone part 0 rs.length)

/-! ### Keys and signed buffers (R440, R441) -/

/-- The public key block of a key: PSET in 4 bytes, ROOT, SEED. Key 0 is the identity key, key k + 1 boot key k. -/
def keyBlock (pset k : Nat) : List Byte := bytesOf 4 pset ++ (List.range 64).map (Config.keyByte k)

/-- The identity key's block, and DEVID (R434). -/
def identityBlock : List Byte := keyBlock 3 0
def devid : List Byte := shake256 identityBlock

def signature (k leaf n : Nat) (msg : List Byte) : List Byte := (List.range n).map (Config.signByte k leaf msg)

/-- Bytes filled up with zeros to n. -/
def padTo (n : Nat) (bs : List Byte) : List Byte := bs.take n ++ List.replicate (n - bs.length) 0

/-- Every leaf of the identity key is used. -/
def State.exhausted (s : State) : Bool := decide (2 ^ 20 ≤ s.nv.idLeaf)

/-- A fresh boot key, signed by the identity key's next leaf (DEDUCED, log 99). -/
def State.newBootKey (s : State) : State :=
  { s with
    tr := { s.tr with bootKey := s.tr.bootKey + 1, bootLeaf := 0, bootCert := if s.exhausted then none else some s.nv.idLeaf }
    nv := { s.nv with idLeaf := if s.exhausted then s.nv.idLeaf else s.nv.idLeaf + 1 } }

/-- The next leaf of the boot key is used; a key with none left is replaced. -/
def State.useLeaf (s : State) : State :=
  let s := { s with tr := { s.tr with bootLeaf := s.tr.bootLeaf + 1 } }
  if 1024 ≤ s.tr.bootLeaf then s.newBootKey else s

/-- A signed buffer of 12 KiB around its first 256 bytes. -/
def State.signed (s : State) (head : List Byte) : List Byte :=
  let boot := keyBlock 1 (s.tr.bootKey + 1)
  head ++ padTo 2560 (signature (s.tr.bootKey + 1) s.tr.bootLeaf 2500 head) ++ padTo 128 boot ++
    padTo 2944 (signature 0 (s.tr.bootCert.getD 0) 2820 boot) ++ padTo 128 identityBlock ++
    padTo 6272 ((List.range 2820).map Config.certByte)

/-- The first 256 bytes of a report of a world. -/
def State.reportHead (s : State) (w : Nat) (nonce : List Byte) : List Byte :=
  padTo 256 (padTo 32 nonce ++ bytesOf 4 1 ++ bytesOf 2 s.me ++ bytesOf 2 (w % 256) ++ bytesOf 8 s.mono ++ bytesOf 32 s.tr.fwm.toNat ++
    bytesOf 32 (tget 0 s.tr.meas w).toNat ++ bytesOf 4 (s.records w).length ++ bytesOf 2 (s.wreg w 0x0E9).toNat ++ List.replicate 10 0 ++ s.orgd w)

/-- The first 256 bytes of an acknowledgement of a policy. -/
def State.ackHead (s : State) (slot : Nat) (p : Policy) : List Byte :=
  padTo 256 (bytesOf 32 slot ++ bytesOf 4 2 ++ bytesOf 2 s.me ++ bytesOf 2 (p.world % 256) ++ bytesOf 8 s.mono ++ shake256 p.body ++
    bytesOf 8 p.remaining)

/-- A live policy of a world in a slot (R436). -/
def State.policyOf (s : State) (w slot : Nat) : Option Policy :=
  (tfind s.tr.policies slot).filter (fun p => p.world == w && decide (s.mono < p.expiry))

/-- The slot an ACK names: 4 bytes at the start of its buffer. -/
def State.ackSlot (s : State) (part addr : Nat) : Nat := ofBytes (s.hubBytes (some part) addr 4).1

/-- ... and reading it claims its granule (R480). -/
def State.ackRead (s : State) (part : Nat) (c : TrCmd) : State :=
  if c.op = 4 ∧ s.trBuffer part c.arg 12288 4096 1 && s.trBuffer part c.arg 12288 4096 2 && !s.exhausted then (s.hubBytes (some part) c.arg 4).2 else s

/-- What refuses a signing command: FORM, EXHAUSTED, NOSLOT. -/
def State.signCode (s : State) (part : Nat) (c : TrCmd) : Nat :=
  if !(s.trBuffer part c.arg 12288 4096 1 && s.trBuffer part c.arg 12288 4096 2) then 1
  else if s.exhausted then 6
  else if c.op = 4 ∧ (s.policyOf c.world (s.ackSlot part c.arg)).isNone then 7
  else 0

/-- REPORT and ACK begin: refused at once, or left to the signer. -/
def beginSigning (s : State) (op : Nat) : Out :=
  match s.trCmd (s.argN 0) op with
  | none => .next s
  | some c => if s.signCode (s.argN 0) c = 0 then .next (s.ackRead (s.argN 0) c) else .next ((s.ackRead (s.argN 0) c).trDone (s.argN 0) (s.signCode (s.argN 0) c) 0)

def execReport (s : State) : Out := beginSigning s 3
def execAck (s : State) : Out := beginSigning s 4

/-- The head of what a signing command writes. -/
def State.signHead (s : State) (part : Nat) (c : TrCmd) : List Byte :=
  if c.op = 3 then s.reportHead c.world (s.hubBytes (some part) c.arg 32).1
  else match s.policyOf c.world (s.ackSlot part c.arg) with
    | some p => s.ackHead (s.ackSlot part c.arg) p
    | none => []

/-- TRUST_COMMAND_DONE: the signing command of partition n0 is finished (DEDUCED, log 97). -/
def execTrustCommandDone (s : State) : Out :=
  let part := s.argN 0
  match tfind s.tr.cmds part with
  | none => .next s
  | some c =>
    if c.op ≠ 3 ∧ c.op ≠ 4 then .next s
    else if s.signCode part c ≠ 0 then .next ((s.ackRead part c).trDone part (s.signCode part c) 0)
    else .next (((s.hubPut (some part) c.arg 0 (s.signed (s.signHead part c))).useLeaf).trDone part 0 0)

/-! ### Attestation (R442) -/

/-- sys.fbto.RTO. -/
def State.rto (s : State) : Nat := usec ((s.pkg 0x0A3).toNat / 65536 % 65536)

def TrCmd.attWorld (c : TrCmd) : Nat := c.arg / 1024 % 256
def TrCmd.attPeer (c : TrCmd) : Nat := c.arg % 1024

/-- ATTEST of partition n0: a fresh nonce goes to the peer's security block (DEDUCED, log 98). -/
def execAttest (s : State) : Out :=
  let part := s.argN 0
  match s.trCmd part 2 with
  | none => .next s
  | some c =>
    if s.partOf c.attWorld ≠ some part then .next (s.trDone part 1 0)
    else if s.exhausted then .next (s.trDone part 6 0)
    else if c.attPeer = s.me ∨ !s.reaches c.attPeer ∨ s.lanesTo c.attPeer = 0 then .next (s.trDone part 8 0)
    else
      let nonce := (List.range 32).map (fun k => Config.freeByte (s.fresh + k))
      let s := { s with fresh := s.fresh + 32, tr := { s.tr with nonces := tput s.tr.nonces part (BitVec.ofNat 256 (ofBytes nonce)) } }
      .next (s.sendWay c.attPeer 18 [c.attWorld, part] nonce)

/-- ATTEST_NONCE_RECEIVE: peer n0's nonce for world n1 and its partition n2; the answer is a signed report. -/
def execAttestNonceReceive (s : State) : Out :=
  if s.exhausted || !s.boot.started then .next s
  else .next ((s.sendWay (s.argN 0) 19 [s.argN 2] (s.signed (s.reportHead (s.argN 1) s.arg.bytes))).useLeaf)

/-- Do the three signatures of a report chain to the vendor root? -/
def chained (r : List Byte) : Bool :=
  let vendor := (List.range 64).map Config.vendorByte
  leAt r 0xB00 4 == 1 && leAt r 0x1700 4 == 3 &&
  xmssVerify 1 (part r 0xB04 32) (part r 0xB24 32) (part r 0 256) (part r 0x100 2500) &&
  xmssVerify 3 (part r 0x1704 32) (part r 0x1724 32) (part r 0xB00 68) (part r 0xB80 2820) &&
  xmssVerify 3 (vendor.take 32) (vendor.drop 32) (part r 0x1700 68) (part r 0x1780 2820)

/-- ATTEST_REPORT_ARRIVAL: peer n0's report for the attestation of partition n1. -/
def execAttestReportArrival (s : State) : Out :=
  let part_ := s.argN 1
  let r := s.arg.bytes
  match s.trCmd part_ 2 with
  | none => .next s
  | some c =>
    if c.attPeer ≠ s.argN 0 then .next s
    else if c.since + s.rto < s.time then .next (s.trDone part_ 5 0)
    else if !chained r then .next (s.trDone part_ 3 0)
    else if leAt r 0x20 4 ≠ 1 ∨ leAt r 0x24 2 ≠ c.attPeer ∨ leAt r 0x26 1 ≠ c.attWorld ∨ leAt r 0 32 ≠ (tget 0 s.tr.nonces part_).toNat ∨
        leAt r 0x30 32 ≠ s.tr.fwm.toNat ∨ part r 0x80 32 ≠ s.orgd c.attWorld ∨ !s.isMember c.attPeer then .next (s.trDone part_ 4 0)
    else .next ({ s with tr := { s.tr with attested := tput s.tr.attested (c.attWorld * 1024 + c.attPeer) true } }.trDone part_ 0 0)

/-- ATTEST_TIMEOUT: the peer of partition n0's attestation has not answered in time. -/
def execAttestTimeout (s : State) : Out :=
  match s.trCmd (s.argN 0) 2 with
  | none => .next s
  | some c => if c.since + s.rto ≤ s.time then .next (s.trDone (s.argN 0) 5 0) else .next s

/-! ### Release policies (R434, R436) -/

/-- Is a destination entry well formed: its KIND, and zero in every field the kind does not use? (DEDUCED, log 101) -/
def destForm (e : Nat) : Bool :=
  let f := fun (k n : Nat) => e / 2 ^ k % 2 ^ n
  let kind := f 56 8
  decide (1 ≤ kind ∧ kind ≤ 6) && f 64 48 == 0 && f 48 8 == 0 && f 24 6 == 0 && f 0 16 == 0 &&
    (kind == 3 || f 112 144 == 0) && (kind == 1 || f 40 8 == 0) && (kind == 4 || f 30 10 == 0) &&
    (if kind = 2 then decide (f 16 8 ≤ 64) else f 16 8 == 0)

/-- The origins of a record, rising. -/
def recOrigins (r : List Byte) : List Nat := (List.range 16).filter (fun k => (leAt r 0x0A 2).testBit k)

/-- The shape of a record's body. -/
def recShape (r : List Byte) : Bool :=
  leAt r 0 4 == 1 && leAt r 4 4 == 512 + 3072 * (recOrigins r).length && decide (1 ≤ leAt r 9 1 ∧ leAt r 9 1 ≤ 8) && leAt r 0x0A 2 != 0 &&
    leAt r 0x18 8 != 0 && zeroAt r 0x0C 4 && zeroAt r 0x28 8 && zeroAt r 0x150 176 &&
    (List.range 8).all (fun i => if i < leAt r 9 1 then destForm (leAt r (0x50 + 32 * i) 32) else zeroAt r (0x50 + 32 * i) 32)

/-- Does the signature of the i-th origin of a record verify? -/
def State.recSigned (s : State) (w : Nat) (r : List Byte) (i k : Nat) : Bool :=
  match s.origin w k with
  | none => false
  | some (pset, root, seed) => xmssVerify pset root seed (part r 0 512) (part r (512 + 3072 * i) 3072)

/-- The lowest free policy slot. -/
def State.freeSlot (s : State) : Option Nat := tfree s.tr.policies 0 1024

/-- The checks of GPOL .ins in their order (R436): the code of the first that fails. -/
def State.polCode (s : State) (w : Nat) (r : List Byte) : Nat :=
  let ks := recOrigins r
  if !recShape r || ks.any (fun k => (s.origin w k).isNone) then 1
  else if leAt r 8 1 ≠ w ∨ (!zeroAt r 0x30 32 && part r 0x30 32 != devid) then 3
  else if leAt r 0x10 8 ≤ s.mono ∨ ((tfind s.tr.serial w).map (fun h => decide (leAt r 0x20 8 ≤ h))).getD false then 4
  else if !((List.range ks.length).zip ks).all (fun (p : Nat × Nat) => s.recSigned w r p.1 p.2) then 2
  else if s.freeSlot.isNone then 5
  else 0

/-- The policy a record installs. -/
def recPolicy (r : List Byte) : Policy :=
  { world := leAt r 8 1, origins := BitVec.ofNat 16 (leAt r 0x0A 2), remaining := leAt r 0x18 8, expiry := leAt r 0x10 8
    dests := (List.range (leAt r 9 1)).map (fun i => BitVec.ofNat 256 (leAt r (0x50 + 32 * i) 32)), body := part r 0 512 }

/-- Policies whose EXPIRY is reached are gone. -/
def State.purge (s : State) : State :=
  { s with tr := { s.tr with policies := s.tr.policies.filter (fun e => decide (s.mono < e.2.expiry)) } }

/-- The checks, and the installation where they pass: the result word too. -/
def State.installPolicy (s : State) (w : Nat) (r : List Byte) : Word × State :=
  let s := s.purge
  match s.polCode w r, s.freeSlot with
  | 0, some k =>
    (resultWord 0 k, { s with tr := { s.tr with policies := tput s.tr.policies k (recPolicy r), serial := tput s.tr.serial w (leAt r 0x20 8) } })
  | c, _ => (resultWord c 0, s)

/-- A path that holds for an answer of the security block gets it: its destination is written, and it goes on. -/
def Str.answer (id : Nat) (v : Word) (wb : Waybill) (t : Str) : Str :=
  let waits := fun (p : Path) => p.hold == .security id
  match t.paths.find? waits with
  | none => t
  | some p =>
    match decode (p.words.getD (p.pos - 1) 0) with
    | .ok (.gpolIns d _) => (t.sput d.toNat v wb).mapPaths (fun q => if waits q then q.after else q)
    | _ => t

/-- POLICY_VERIFIED: the security block has finished with check n0. -/
def execPolicyVerified (s : State) : Out :=
  match s.tr.checks.find? (fun c => c.id == s.argN 0) with
  | none => .next s
  | some c =>
    let (v, s) := { s with tr := { s.tr with checks := s.tr.checks.filter (fun x => x.id != c.id) } }.installPolicy c.world c.bytes
    .next (s.onStr c.who (Str.answer c.id v c.wb))

/-- POLICY_EXPIRY: slots whose EXPIRY sys.mono has reached are freed. -/
def execPolicyExpiry (s : State) : Out := .next s.purge

/-- The bytes of placed loads, one after the other, and their waybills. -/
def State.readEach (s : State) (t : Str) (p : Path) (m : MemOp) : List (LaneReq × Place) → List Byte × Waybill × State
  | [] => ([], 0, s)
  | (r, pl) :: rest =>
    let (v, w, s) := readPlaced s t p m r.addr pl
    let (bs, w', s) := State.readEach s t p m rest
    (bytesOf m.size v ++ bs, w ||| w', s)

/-- Bytes read as uniform loads of 8 bytes (R436), all of them one access with one gate decision; a park leaves the state as it was, for the replay
(DEDUCED, log 102). -/
def polRead (s : State) (t : Str) (p : Path) (ls : List LaneReq) (aw : Waybill) (k : List Byte → Waybill → State → Out) : Out :=
  let m := uniMemOp 0 8 .load .none 0
  match judge s t p m ls 0 with
  | .stop o => o
  | .go s' c =>
    match c.park with
    | (r, sz, own) :: _ => parkWhole s t p m aw r sz own
    | [] =>
      let (bs, w, s) := s'.readEach t p m c.go
      k bs w s

def execGpolIns (d a : BitVec 6) (s : State) : Out :=
  issued (.gpolIns d a) s fun t p =>
    let addr := t.spair a.toNat
    let aw := t.sws a.toNat 2
    if addr.extractLsb' 0 3 ≠ 0 then imageAlign s t p aUniLoad addr
    else if !s.settled p then stay s t p
    else
      let p := p.resumed
      let ask := fun (r : List Byte) (w : Waybill) (s : State) =>
        let id := s.nextOp
        .next { s.takeOp.putCur t { p with hold := .security id } with
          tr := { s.tr with checks := s.tr.checks ++ [⟨id, t.key, t.world, r, uniWb p (aw ||| w)⟩] } }
      let head := eights addr.toNat 512 0
      polRead s t p head aw fun b w s' =>
        if recShape b then
          polRead s t p (head ++ eights ((addr.toNat + 512) % 2 ^ 64) (3072 * (recOrigins b).length) 0) aw ask
        else ask b w s'

def execGpolRev (d b : BitVec 6) (s : State) : Out :=
  issued (.gpolRev d b) s fun t p =>
    let k := (t.sget b.toNat).toNat
    let w := uniWb p (t.sw b.toNat)
    match s.policyOf t.world k with
    | none => finish s (t.sput d.toNat (resultWord 6 0) w) p
    | some _ => finish { s with tr := { s.tr with policies := terase s.tr.policies k } } (t.sput d.toNat (resultWord 0 0) w) p

/-! ### SEAL (R345, R439) -/

/-- The measurement of a world after a granule, with the record of it. -/
def State.measure (s : State) (w va gpa : Nat) (bytes : List Byte) : State :=
  let hash := shake256 bytes
  let meas := BitVec.ofNat 256 (ofBytes (shake256 (bytesOf 32 (tget 0 s.tr.meas w).toNat ++ bytesOf 8 va ++ hash)))
  { s with tr := { s.tr with
    meas := tset 0 s.tr.meas w meas
    log := s.tr.log ++ [⟨w, va, gpa, s.mono, BitVec.ofNat 256 (ofBytes hash), meas⟩] } }

/-- The bytes of a granule as they stand, through the L2. -/
def State.granBytes (s : State) (x : Xlat) : List Byte × State :=
  (List.range 32).foldl (fun (r : List Byte × State) k =>
    match r.2.readL2 x.ident x.tag (x.gpa + 128 * k) 128 with
    | none => (r.1 ++ List.replicate 128 0, r.2)
    | some (v, _, s) => (r.1 ++ bytesOf 128 v, s)) ([], s)

/-- A granule is sealed: its bit, the shootdown of its page, and of every kept copy of its state. -/
def State.sealGran (s : State) (w va : Nat) (x : Xlat) (h : Nat) : State :=
  let s := s.setGran (h / 4096) (s.gran (h / 4096) ||| 0x80000000#32)
  (s.shoot 0 w va).tlbDrop (fun e => s.topPart e.world == s.topPart w && e.grans.any (fun g => g.1 == x.gpa / 4096)) (fun _ => false)

/-- Where a granule stands: a fault, nothing to seal, already sealed, or to be sealed at a host-physical address. -/
inductive SealAt where
  | bad (f : XFault)
  | no
  | done
  | todo (x : Xlat) (h : Nat)
deriving DecidableEq, Repr

/-- Steps 1 to 3 for one granule. A page that would park is HOME (DEDUCED, log 94). -/
def State.sealLook (s : State) (core lvl w va : Nat) : SealAt × State :=
  if !canonical (BitVec.ofNat 64 va) then (.bad ⟨2, cPROT, 2, 0, 0⟩, s)
  else match s.xlate core w va aUniLoad lvl with
    | (.trap f, s) => (.bad f, s)
    | (.park _ _, s) => (.no, s)
    | (.ok x, s) =>
      if lfHome x.leaf || x.atom || lfZero x.leaf || x.cross || x.region != .hbm then (.no, s)
      else match s.physOf x.ident x.tag x.gpa with
        | none => (.no, s)
        | some h => if granSealed (s.gran (h / 4096)) then (.done, s) else (.todo x h, s)

/-- Writes in flight to a granule (DEDUCED, log 95). -/
def State.sealWaits (s : State) (x : Xlat) : Bool :=
  s.mem.reqs.any (fun r => r.space == 0 && r.ident == x.ident && r.tag == x.tag && r.line / 32 == x.gpa / 4096 &&
    (r.kind == .store || r.kind == .atomic))

/-- Must SEAL wait: does an access that used a translation of the range, or a write to a granule of it, wait to be performed? -/
def State.sealHeld (s : State) (core lvl w va n : Nat) : Bool :=
  (List.range n).any (fun k =>
    let a := (va + 4096 * k) % 2 ^ 64
    match (s.sealLook core lvl w a).1 with
    | .todo x _ => !(s.shootWaits 0 w a).isEmpty || s.sealWaits x
    | _ => false)

/-- The granules in order: `n` are left, `new` are sealed so far. -/
def sealFrom (s : State) (t : Str) (p : Path) (w va : Nat) (done : State → Nat → Nat → Out) : Nat → Nat → Out
  | 0, new => done s 0 new
  | n + 1, new =>
    let va := va % 2 ^ 64
    match s.sealLook (coreOf s.curUnit) p.level w va with
    | (.bad f, s) => memTrap s t p (uniMemOp 0 8 .load .none 0) ⟨0, va, 8, 0, 0⟩ f none
    | (.no, s) => done s 2 new
    | (.done, s) => sealFrom s t p w (va + 4096) done n new
    | (.todo x h, s) =>
      if 65536 ≤ s.tr.log.length then done s 3 new
      else
        let s := s.sealGran w va x h
        let (bs, s) := s.granBytes x
        sealFrom (s.measure w va x.gpa bs) t p w (va + 4096) done n (new + 1)

def execSeal (d a b : BitVec 6) (s : State) : Out :=
  issued (.seal d a b) s fun t p =>
    let va := (t.spair a.toNat).toNat
    let n := (t.sget b.toNat).toNat
    let w := uniWb p (t.sws a.toNat 2 ||| t.sw b.toNat)
    let done := fun (s : State) c v => finish s (t.sput d.toNat (resultWord c v) w) p
    if va % 4096 ≠ 0 ∨ n = 0 ∨ 65536 < n then done s 1 0
    else if s.sealHeld (coreOf s.curUnit) p.level t.world va n then stay s t p
    else sealFrom s t p t.world va done n 0

/-! ### Bindings (R10, R35, R443) -/

/-- The binding of a world ends: what the security block keeps of it is gone, and its memory key destroyed. -/
def State.unbindWorld (s : State) (w : Nat) : State :=
  { s with
    xl := { s.xl with part := terase s.xl.part w }
    tr := { s.tr with
      policies := s.tr.policies.filter (fun e => e.2.world != w)
      origins := terase s.tr.origins w, meas := terase s.tr.meas w, serial := terase s.tr.serial w
      attested := s.tr.attested.filter (fun e => e.1 / 1024 != w)
      keys := tput s.tr.keys w s.tr.nextKey, nextKey := s.tr.nextKey + 1 } }

/-- The steward binds a world to a partition: a fresh key, and a measurement of zero. -/
def State.bindWorld (s : State) (w q : Nat) : State :=
  let s := s.unbindWorld w
  { s with xl := { s.xl with part := tput s.xl.part w q } }

/-- May a world's binding change: it has no resident string, and no TLB entry anywhere in the package (R10)? -/
def State.unused (s : State) (w : Nat) : Bool :=
  let no := fun (t : Table (List TlbE)) => t.all (fun e => e.2.all (fun x => x.world != w))
  w != 0 && decide (w < 256) && !s.strs.any (fun e => !e.2.outrider && e.2.world == w) && no s.xl.dtlb && no s.xl.ctlb && no s.xl.ftlb

/-- SYSTEM_REGISTER_WRITE: unit n0's path n1 writes register n2 with n3: the level, the reserved bits and ranges, the store (R60). The numbers from 2^12 on are no registers: they are what the steward does
to the security block and the distributor without an instruction of its own. 2^12 binds world n3 to partition n4 (R10), 2^12 + 1 ends the binding of world
n3 (R443), 2^12 + 2 pre-empts partition n3 and 2^12 + 3 restores it (R289) (DESIGN CHOICE, log 148). -/
def execSystemRegisterWrite (s : State) : Out :=
  match s.str? s.curUnit with
  | none => .next s
  | some t =>
    let p := t.path s.curPath
    if !p.live then .next s
    else if s.argN 2 < 4096 then sysStore s t p (s.argN 2) (BitVec.ofNat 64 (s.argN 3)) (fun s => .next s)
    else if p.level ≠ 2 then .next s
    else match s.argN 2 - 4096 with
      | 0 => if s.unused (s.argN 3) && decide (s.argN 4 < 24) then .next (s.bindWorld (s.argN 3) (s.argN 4)) else .next s
      | 1 => if s.unused (s.argN 3) then .next (s.unbindWorld (s.argN 3)) else .next s
      | 2 => if s.argN 3 < 24 then .next (s.preempt (s.argN 3)) else .next s
      | 3 => .next (s.restorePart (s.argN 3))
      | _ => .next s

end Sys2Proof.Machine
end

