-- ==== Sys2Proof/Machine/Boot.lean ====
section
/-! DEFINITION. Resets, the start order, the firmware, power and cooling, and what the host reads and writes (R18, R196, R427, R432, R435,
R444, R468 to R478). -/

namespace Sys2Proof.Machine

/-! ### Resets (R468, R469) -/

/-- Events that come from outside the machine: a reset does not take them back. -/
def isOutside : Instr → Bool
  | .powerOn | .powerLoss | .thermalTrip | .pcieFundamentalReset | .pcieHotReset | .bcmdWarmReset | .stagingAreaWrite | .bcmdSubmit => true
  | .hostLinkTrain | .powerSample | .hostBar2Read | .hostBar2Write | .hostCoreRead | .flitReceive | .replayRequest | .grant | .refuse => true
  | _ => false

/-- The agenda after a reset (DEDUCED, log 104). -/
def afterReset (l : List Item) : List Item :=
  l.filter (fun x => match x.act with
    | .event i _ => isOutside i
    | .issue _ _ => false)

/-- Every unit stops and everything volatile is erased; what HBM held stays, under keys that are gone. -/
def State.restart (s : State) (cause : Nat) : State :=
  let keys := (List.range 256).map (fun w => (w, s.tr.nextKey + w))
  let r := { State.reset with
    agenda := afterReset s.agenda, turn := s.turn, fresh := s.fresh, nextOp := s.nextOp, stamp := s.stamp, outbox := s.outbox, nv := s.nv
    mem := { MemS.reset with hbm := s.mem.hbm, keyed := s.mem.keyed, hpoison := s.mem.hpoison }
    tr := { TrS.reset with keys := keys, nextKey := s.tr.nextKey + 256, bootKey := s.tr.bootKey + 1 } }
  (r.setPkg 0x0E6 (BitVec.ofNat 64 (s.nv.mono + 2 ^ 20))).setPkg 0x0F5 (BitVec.ofNat 64 cause)

/-- A warm reset; without power nothing happens. -/
def State.warm (s : State) (cause : Nat) : State := if s.boot.powered then s.restart cause else s

/-- Power goes: no unit runs until it comes back (DEDUCED, log 105). -/
def State.dark (s : State) (trip : Bool) : State :=
  let r := s.restart 0
  { r with boot := { r.boot with powered := false, tripped := trip } }

/-- POWER_ON: a cold reset; it records cause 4 after a thermal trip. -/
def execPowerOn (s : State) : Out := if s.boot.powered then .next s else .next (s.restart (if s.boot.tripped then 4 else 0))

/-- POWER_LOSS. -/
def execPowerLoss (s : State) : Out := if s.boot.powered then .next (s.dark false) else .next s

/-- THERMAL_TRIP: the hottest junction stands at n0 °C. -/
def execThermalTrip (s : State) : Out := if s.boot.powered ∧ 110 ≤ s.argN 0 then .next (s.dark true) else .next s

def execPcieFundamentalReset (s : State) : Out := .next (s.warm 1)
def execPcieHotReset (s : State) : Out := .next (s.warm 2)
/-- BCMD = 2 reaches the window once the host link is up. -/
def execBcmdWarmReset (s : State) : Out := if s.boot.linkUp then .next (s.warm 3) else .next s
def execRstctlWarm (s : State) : Out := .next (s.warm 5)

/-! ### The start order (R196, R444, R469 to R472) -/

def State.setBoot (s : State) (b : BootS) : State := { s with boot := b }

/-- HOST_LINK_TRAIN: the host supports PCIe generation n0 and n1 lanes work. -/
def execHostLinkTrain (s : State) : Out :=
  let g := min 7 (s.argN 0)
  let w := s.argN 1
  if !s.boot.powered || s.boot.linkUp || decide (g < 5) || decide (w < 4) then .next s
  else .next (s.setBoot { s.boot with linkUp := true, gen := g, width := if 16 ≤ w then 16 else if 8 ≤ w then 8 else 4 })

/-- HBM_TRAINED. -/
def execHbmTrained (s : State) : Out :=
  if s.boot.linkUp ∧ !s.boot.hbmUp then .next (s.setBoot { s.boot with hbmUp := true, bstat := 1 }) else .next s

/-- Mark the granules of the non-volatile list OFFLINE. -/
def State.markOffline (s : State) : State := s.nv.offline.foldl (fun s g => s.setGran g (granMake false true 0 0 0)) s

/-- FULL_SCRUB_COMPLETE: every line is a zero line and every granule-table entry zero. -/
def execFullScrubComplete (s : State) : Out :=
  if !s.boot.hbmUp || s.boot.scrubbed then .next s
  else
    let s := { s with mem := { s.mem with hbm := [], keyed := [], hpoison := [] } }
    .next (s.markOffline.setBoot { s.boot with scrubbed := true, bstat := if s.boot.bstat = 1 then 2 else s.boot.bstat })

/-- VERSION of an image, and the offset of its entry (R472). -/
def imageVersion (img : List Byte) : Nat := leAt img 4 4
def imageEntry (img : List Byte) : Nat := leAt img 16 8

/-- Does the security block accept an image (R470)? (DEDUCED, log 108) -/
def State.accepts (s : State) (img : List Byte) : Bool := Config.imageSigned img && decide (s.nv.minVer ≤ imageVersion img)

/-- An accepted image: stored, and the minimum version raised. -/
def State.accept (s : State) (img : List Byte) : State :=
  { s with
    nv := { s.nv with image := img, minVer := max s.nv.minVer (imageVersion img) }
    boot := { s.boot with verified := true, bstat := if s.boot.scrubbed then 2 else 1 } }

/-- FIRMWARE_VERIFIED: the stored image has been checked; with none stored the device waits for one (DEDUCED, log 106). -/
def execFirmwareVerified (s : State) : Out :=
  if !s.boot.hbmUp || s.boot.verified || decide (4 ≤ s.boot.bstat) then .next s
  else if s.nv.image = [] then .next (s.setBoot { s.boot with bstat := 4 })
  else if s.accepts s.nv.image then .next (s.accept s.nv.image)
  else .next (s.setBoot { s.boot with bstat := 5 })

/-- Bytes of the staging area. -/
def stagingBytes : Nat := 2 ^ 26

/-- STAGING_AREA_WRITE: the host writes the bytes at offset n0 of the bring-up window: BLEN, or the staging area (DEDUCED, log 107). -/
def execStagingAreaWrite (s : State) : Out :=
  let off := s.argN 0
  if !s.boot.linkUp then .next s
  else if off = 8 ∧ s.arg.bytes.length = 4 then .next (s.setBoot { s.boot with blen := min stagingBytes (ofBytes s.arg.bytes) })
  else if off < 0x100000 then .next s
  else
    let bs := ((List.range s.arg.bytes.length).zip s.arg.bytes).filter (fun (e : Nat × Byte) => decide (off - 0x100000 + e.1 < stagingBytes))
    .next (s.setBoot { s.boot with staging := bs.foldl (fun t e => tset 0 t (off - 0x100000 + e.1) e.2) s.boot.staging })

/-- BCMD_SUBMIT: the staged image is verified, and stored where it is accepted. -/
def execBcmdSubmit (s : State) : Out :=
  if s.boot.bstat ≠ 4 ∧ s.boot.bstat ≠ 5 then .next s
  else
    let img := (List.range s.boot.blen).map (fun k => tget 0 s.boot.staging k)
    if s.accepts img then .next (s.accept img) else .next (s.setBoot { s.boot with bstat := 5 })

/-- A read of the bring-up window (R471) (DEDUCED, log 114). -/
def State.bringUpRead (s : State) (off : Nat) : Nat :=
  match off with
  | 0 => s.boot.bstat
  | 8 => s.boot.blen
  | _ => 0

/-- Where the firmware image lies. -/
def State.imageBase (s : State) : Nat := s.stwBase + 576 * 2 ^ 20

/-- Write an image into the steward region, and seal its granules. -/
def State.loadImage (s : State) (img : List Byte) : State :=
  let base := s.imageBase
  let s := { s with mem := (List.range ((img.length + 127) / 128)).foldl (fun m k =>
    writeKeyed m (base / 128 + k) (s.memKey 0) (base / 128 + k) (BitVec.ofNat 1024 (leAt img (128 * k) 128))) s.mem }
  (List.range ((img.length + 4095) / 4096)).foldl (fun s k => s.setGran (base / 4096 + k) (granMake true (granOffline (s.gran (base / 4096 + k))) 0 0 0)) s

/-- The first steward string: party 0 of no launch, on core 0 (R472). -/
def State.firstString (s : State) (base len : Nat) : State :=
  let t := Str.fresh 0 0 0 0 4 2 (BitVec.allOnes 32) (s.pkg 0x022) (BitVec.ofNat 64 base) s.stamp
  let t := { t with s := tset 0 (tset 0 t.s 2 (BitVec.ofNat 32 len)) 3 (BitVec.ofNat 32 (len / 2 ^ 32)) }
  let p : Party :=
    { launch := 0, idx := 0, core := 0, world := 0, level := 2, spBase := 0, spSize := 0, tiles := [], outrs := [], live := 1, bars := []
      units := [0], stamp := s.stamp, stopping := false, slice := s.time, sleeping := false }
  { s with stamp := s.stamp + 1, strs := tput s.strs 0 t, sch := { s.sch with parties := tput s.sch.parties 0 p } }

/-- FIRMWARE_START: scrub and verification have both succeeded. -/
def execFirmwareStart (s : State) : Out :=
  if !s.boot.scrubbed || !s.boot.verified || s.boot.started then .next s
  else
    let img := s.nv.image
    let s := s.newBootKey.loadImage img
    let s := { s with tr := { s.tr with fwm := BitVec.ofNat 256 (ofBytes (shake256 img)) }, boot := { s.boot with started := true, bstat := 3 } }
    let s := (s.setPkg 0x022 (BitVec.ofNat 64 (s.imageBase + imageEntry img))).setPkg 0x0F3 (BitVec.ofNat 64 (imageVersion img))
    .next (s.firstString s.imageBase img.length)

/-! ### Power, cooling and the stored counter (R435, R475 to R477) -/

/-- Fields of sys.pwrstat. -/
def pwrWord (power freq thr ms : Nat) : Dword := BitVec.ofNat 64 (power % 65536 * 2 ^ 48 + freq % 256 * 2 ^ 40 + thr % 8 * 2 ^ 32 + min (2 ^ 32 - 1) ms)

/-- The throttle causes of a sample: power above the limit, junction, inlet. -/
def throttle (limit power tj inlet : Nat) : Nat := (if limit < power then 1 else 0) + (if 95 ≤ tj then 2 else 0) + (if 40 < inlet then 4 else 0)

/-- The arithmetic clock after a sample, in 100 MHz. -/
def nextFreq (limit power thr freq : Nat) : Nat :=
  if thr ≠ 0 then max 12 (freq - 1) else if 100 * power ≤ 95 * limit then min 36 (freq + 1) else freq

/-- POWER_SAMPLE: a millisecond is over with power n0 W, junction n1, HBM n2 and inlet n3 °C (DEDUCED, log 109). -/
def execPowerSample (s : State) : Out :=
  if !s.boot.powered then .next s
  else
    let limit := (s.pkg 0x0F0).toNat % 65536
    let old := (s.pkg 0x0F1).toNat
    let freq := old / 2 ^ 40 % 256
    let thr := throttle limit (s.argN 0) (s.argN 1) (s.argN 3)
    let s := (s.setPkg 0x0F1 (pwrWord (s.argN 0) (nextFreq limit (s.argN 0) thr freq) thr (old % 2 ^ 32 + if freq < 36 then 1 else 0))).setPkg 0x0F2
      (BitVec.ofNat 64 (s.argN 1 % 256 * 2 ^ 24 + s.argN 2 % 256 * 2 ^ 16 + s.argN 3 % 256 * 2 ^ 8))
    .next (if 110 ≤ s.argN 1 then { s with agenda := ⟨0, .event .thermalTrip ⟨[s.argN 1], []⟩⟩ :: s.agenda } else s)

/-- MONO_STORE. -/
def execMonoStore (s : State) : Out := if s.boot.powered then .next { s with nv := { s.nv with mono := s.mono } } else .next s

/-! ### The host (R12, R18, R432) -/

/-- The pieces of a range by line: address and bytes. -/
def lineSegs : Nat → Nat → Nat → List (Nat × Nat)
  | 0, _, _ => []
  | f + 1, a, n => if n = 0 then [] else (a, min n (128 - a % 128)) :: lineSegs f (a + (128 - a % 128)) (n - (128 - a % 128))
def segsOf (a n : Nat) : List (Nat × Nat) := lineSegs (n / 128 + 2) a n

/-- The owner and the SEALED bit of a granule of a partition, where the host may touch it with a permission. -/
def State.hostGran (s : State) (part gpa bit : Nat) : Option (Nat × Bool) :=
  match s.s2Leaf part gpa with
  | none => none
  | some (sz, e) =>
    let h := entFrame e + gpa % 2 ^ pageBits sz
    let g := s.gran (h / 4096)
    if !e.getLsbD bit || regionOf h != .hbm || granOffline g || granOwner g == 0 then none else some (granOwner g, granSealed g)

/-- The mailbox address of a request through a function, with its partition (DEDUCED, log 110). -/
def State.mailbox (s : State) (f off n : Nat) : Option (Nat × Nat) :=
  match tfind s.xl.pcie f with
  | none => none
  | some q =>
    let b := (s.preg q 0x0C5).toNat
    if s.boot.bstat = 3 ∧ off + n ≤ b % 65536 * 2 ^ 21 then some (q, b / 2 ^ 21 % 2 ^ 31 * 2 ^ 21 + off) else none

/-- Granules a range touches. -/
def gransOf (a n : Nat) : List Nat := if n = 0 then [] else (List.range ((a + n - 1) / 4096 - a / 4096 + 1)).map (fun k => (a / 4096 + k) * 4096)

/-- A completion to the host: function or partition, offset, status 0 done, 1 Unsupported Request, 2 Completer Abort; and the data. -/
def State.complete (s : State) (kind f off status : Nat) (bs : List Byte) : State := { s with outbox := s.outbox ++ [⟨kind, [f, off, status], bs⟩] }

/-- Read a range line by line through the L2: the bytes, and (owner, bytes, waybill) of each piece (DEDUCED, log 112). -/
def State.readRange (s : State) (own : Nat → Option (Bool × Nat)) : List (Nat × Nat) → List Byte × List (Nat × Nat × Waybill) × State
  | [] => ([], [], s)
  | (a, n) :: rest =>
    match own a with
    | none => ([], [], s)
    | some (ident, w) =>
      match s.readL2 ident w a n with
      | none => ([], [], s)
      | some (v, wb, s) =>
        let (bs, l, s) := State.readRange s own rest
        (bytesOf n v ++ bs, (w, n, wb) :: l, s)

/-- The parts of a host read: one for each owner world, rising (R438). -/
def hostParts (d : GDest) (l : List (Nat × Nat × Waybill)) : List Egress :=
  ((List.range 256).filter (fun w => l.any (fun e => e.1 == w))).map (fun w =>
    let mine := l.filter (fun e => e.1 == w)
    ⟨w, mine.foldl (fun x e => x ||| e.2.2) 0, d, mine.foldl (fun x e => x + e.2.1) 0⟩)

/-- HOST_BAR2_READ: n2 bytes at offset n1 of function n0's BAR2. -/
def execHostBar2Read (s : State) : Out :=
  let f := s.argN 0
  let off := s.argN 1
  match s.mailbox f off (s.argN 2) with
  | none => .next (s.complete 3 f off 1 [])
  | some (q, a) =>
    if (gransOf a (s.argN 2)).any (fun g => (s.hostGran q g 1).isNone) then .next (s.complete 3 f off 1 [])
    else
      let (bs, l, s) := s.readRange (fun x => (s.hostGran q x 1).map (fun r => (false, r.1))) (segsOf a (s.argN 2))
      match s.gate (hostParts (destFunc f) l) with
      | .error (_, _, s) => .next (s.complete 3 f off 2 [])
      | .ok s => .next (s.complete 3 f off 0 bs)

/-- Write bytes line by line at the L2, with the ingress waybill of each granule's owner, which the granule takes too (R427, R53). -/
def State.writeRange (s : State) (q a : Nat) (bs : List Byte) : State :=
  (segsOf a bs.length).foldl (fun s e =>
    match s.hostGran q e.1 2 with
    | none => s
    | some (w, _) =>
      let wb : Waybill := (s.wreg w 0x0E9).setWidth 16
      let s := (s.writeL2 false w e.1 e.2 (leAt bs (e.1 - a) e.2) wb).getD s
      ((s.physOf false w e.1).map (fun h => s.orGranWb h wb)).getD s) s

/-- HOST_BAR2_WRITE: the bytes at offset n1 of function n0's BAR2. -/
def execHostBar2Write (s : State) : Out :=
  let f := s.argN 0
  let off := s.argN 1
  match s.mailbox f off s.arg.bytes.length with
  | none => .next (s.complete 3 f off 1 [])
  | some (q, a) =>
    let gs := (gransOf a s.arg.bytes.length).map (fun g => s.hostGran q g 2)
    if gs.any Option.isNone then .next (s.complete 3 f off 1 [])
    else if gs.any (fun g => (g.map Prod.snd).getD false) then .next (s.complete 3 f off 2 [])
    else .next ((s.writeRange q a s.arg.bytes).complete 3 f off 0 [])

/-- HOST_CORE_READ: the host cores read n2 bytes at guest-physical address n1 of partition n0, or host-physical where n0 = 24. Status 1 is
a load access fault (DEDUCED, log 111). -/
def execHostCoreRead (s : State) : Out :=
  let q := s.argN 0
  let a := s.argN 1
  let own := fun (s : State) (x : Nat) =>
    if q = 24 then (if regionOf x = .hbm then some (true, s.ownerOf x) else none)
    else match s.s2Leaf (s.topOf q) x with
      | none => none
      | some (sz, e) =>
        let h := entFrame e + x % 2 ^ pageBits sz
        if !e.getLsbD 1 || regionOf h != .hbm then none else some (false, s.ownerOf h)
  if !s.boot.started then .next s
  else if (gransOf a (s.argN 2)).any (fun g => (own s g).isNone) then .next (s.complete 4 q a 1 [])
  else
    let (bs, l, s') := s.readRange (own s) (segsOf a (s.argN 2))
    match s'.gate (hostParts destHostCores l) with
    | .error (_, _, s) => .next (s.complete 4 q a 1 [])
    | .ok s => .next (s.complete 4 q a 0 bs)

end Sys2Proof.Machine
end

