-- ==== Sys2Proof/Machine/LaneFloat.lean ====
section
/-! DEFINITION. Lane floating-point arithmetic and conversions (R357 to R368). Each lane gives its bits and the flags it raises;
the flags of the clause mask's lanes are ORed into sys.nflags (R208). -/

namespace Sys2Proof.Machine

/-- A lane result of `n` registers with flags. -/
def laneFloat (i : Instr) (d : BitVec 7) (n : Nat) (src : Str → Waybill) (f : Str → Nat → Nat × Word) (s : State) : Out :=
  issued i s fun t p =>
    finish s ((writeLanes t p d.toNat n (src t) (fun l => (f t l).1)).orFlags (laneFlags p.cmask (fun l => (f t l).2))) p

/-- A lane predicate result with flags. -/
def laneFloatPred (i : Instr) (d : BitVec 3) (src : Str → Waybill) (f : Str → Nat → Bool × Word) (s : State) : Out :=
  issued i s fun t p =>
    finish s ((writePred t p d.toNat (src t) (fun l => (f t l).1)).orFlags (laneFlags p.cmask (fun l => (f t l).2))) p

/-- An F32 operation, or a BF16 operation on each half, by type bit (R357). -/
def byType (ty : BitVec 1) (g : Nat → Nat → Nat → Nat → Nat × Word) (a b c : Word) : Nat × Word :=
  if ty = 0 then g fF32 a.toNat b.toNat c.toNat
  else
    let lo := g fBF16 (a.toNat % 65536) (b.toNat % 65536) (c.toNat % 65536)
    let hi := g fBF16 (a.toNat / 65536) (b.toNat / 65536) (c.toNat / 65536)
    (lo.1 + hi.1 * 65536, lo.2 ||| hi.2)

/-- Two vector sources by type. -/
def float2 (i : Instr) (d a b : BitVec 7) (ty : BitVec 1) (g : Str → Nat → Nat → Nat → Nat × Word) (s : State) : Out :=
  laneFloat i d 1 (fun t => t.vw a.toNat ||| t.vw b.toNat)
    (fun t l => byType ty (fun f x y _ => g t f x y) (t.vget a.toNat l) (t.vget b.toNat l) 0) s

/-- A vector and a uniform source by type. -/
def floatS (i : Instr) (d a : BitVec 7) (u : BitVec 6) (ty : BitVec 1) (g : Str → Nat → Nat → Nat → Nat × Word) (s : State) : Out :=
  laneFloat i d 1 (fun t => t.vw a.toNat ||| t.sw u.toNat)
    (fun t l => byType ty (fun f x y _ => g t f x y) (t.vget a.toNat l) (t.sget u.toNat) 0) s

/-- One F32 source. -/
def float1 (i : Instr) (d a : BitVec 7) (g : Str → Nat → Nat × Word) (s : State) : Out :=
  laneFloat i d 1 (fun t => t.vw a.toNat) (fun t l => g t (t.vget a.toNat l).toNat) s

/-! ### Arithmetic (R358 to R363) -/

def execFadd (d a b : BitVec 7) (ty : BitVec 1) (s : State) : Out :=
  float2 (.fadd d a b ty) d a b ty (fun t f x y => fAdd f t.rm x y) s
def execFmul (d a b : BitVec 7) (ty : BitVec 1) (s : State) : Out :=
  float2 (.fmul d a b ty) d a b ty (fun t f x y => fMul f t.rm x y) s
def execFfma (d a b : BitVec 7) (ty : BitVec 1) (s : State) : Out :=
  laneFloat (.ffma d a b ty) d 1 (fun t => t.vw a.toNat ||| t.vw b.toNat ||| t.vw d.toNat)
    (fun t l => byType ty (fun f x y z => fFma f t.rm x y z) (t.vget a.toNat l) (t.vget b.toNat l) (t.vget d.toNat l)) s
def execFmin (d a b : BitVec 7) (ty : BitVec 1) (s : State) : Out :=
  float2 (.fmin d a b ty) d a b ty (fun _ f x y => fMinMax f false x y) s
def execFmax (d a b : BitVec 7) (ty : BitVec 1) (s : State) : Out :=
  float2 (.fmax d a b ty) d a b ty (fun _ f x y => fMinMax f true x y) s
def execFadds (d a : BitVec 7) (u : BitVec 6) (ty : BitVec 1) (s : State) : Out :=
  floatS (.fadds d a u ty) d a u ty (fun t f x y => fAdd f t.rm x y) s
def execFmuls (d a : BitVec 7) (u : BitVec 6) (ty : BitVec 1) (s : State) : Out :=
  floatS (.fmuls d a u ty) d a u ty (fun t f x y => fMul f t.rm x y) s
def execFfmas (d a : BitVec 7) (u : BitVec 6) (ty : BitVec 1) (s : State) : Out :=
  laneFloat (.ffmas d a u ty) d 1 (fun t => t.vw a.toNat ||| t.sw u.toNat ||| t.vw d.toNat)
    (fun t l => byType ty (fun f x y z => fFma f t.rm x y z) (t.vget a.toNat l) (t.sget u.toNat) (t.vget d.toNat l)) s

def execFcmp (p : BitVec 3) (a b : BitVec 7) (c : BitVec 3) (s : State) : Out :=
  laneFloatPred (.fcmp p a b c) p (fun t => t.vw a.toNat ||| t.vw b.toNat)
    (fun t l => fCmp fF32 c.toNat (t.vget a.toNat l).toNat (t.vget b.toNat l).toNat) s

/-- FABS on one element: the sign bit only (R361). -/
def signOp (k : Nat) (f x : Nat) : Nat :=
  let mag := x % 2 ^ (f + 8)
  match k with
  | 0 => mag
  | 1 => if x / 2 ^ (f + 8) % 2 = 1 then mag else mag + 2 ^ (f + 8)
  | _ => mag + 2 ^ (f + 8)

def execFabs (d a : BitVec 7) (k : BitVec 2) (ty : BitVec 1) (s : State) : Out :=
  laneFloat (.fabs d a k ty) d 1 (fun t => t.vw a.toNat)
    (fun t l => byType ty (fun f x _ _ => (signOp k.toNat f x, 0)) (t.vget a.toNat l) 0 0) s

def execFrcp (d a : BitVec 7) (s : State) : Out := float1 (.frcp d a) d a (fun t x => fRcp t.rm x) s
def execFsqrt (d a : BitVec 7) (s : State) : Out := float1 (.fsqrt d a) d a (fun t x => fSqrt t.rm x) s
def execFrsq (d a : BitVec 7) (s : State) : Out := float1 (.frsq d a) d a (fun _ x => fRsq x) s
def execFexp2 (d a : BitVec 7) (s : State) : Out := float1 (.fexp2 d a) d a (fun _ x => fExp2 x) s
def execFlog2 (d a : BitVec 7) (s : State) : Out := float1 (.flog2 d a) d a (fun _ x => fLog2 x) s

def execFdot2 (d a b : BitVec 7) (s : State) : Out :=
  laneFloat (.fdot2 d a b) d 1 (fun t => t.vw a.toNat ||| t.vw b.toNat ||| t.vw d.toNat)
    (fun t l => fDot2 t.rm (t.vget a.toNat l).toNat (t.vget b.toNat l).toNat (t.vget d.toNat l).toNat) s

/-! ### Conversions (R364 to R368) -/

/-- A rounding control: .rn, .rz or sys.nmode.RM. -/
def rcRound (t : Str) (rc : Nat) : Nat :=
  match rc with
  | 0 => 0
  | 1 => 1
  | _ => t.rm

/-- The range of an integer type code (R299). -/
def intRange (ty : Nat) : Int × Int :=
  match ty with
  | 5 => (-128, 127)
  | 6 => (-32768, 32767)
  | 7 => (-2147483648, 2147483647)
  | 8 => (0, 255)
  | 9 => (0, 65535)
  | _ => (0, 4294967295)

/-- An integer held in a lane register (R299): sign- or zero-extended to 32 bits. -/
def holdInt (z : Int) : Nat := (BitVec.ofInt 32 z).toNat

/-- CVT of a register group value (R364, R365). -/
def cvtValue (dt st rm : Nat) (x : Nat) : Nat × Word :=
  if st = 11 then
    if dt = 11 then f32Integral rm (x % 2 ^ 32)
    else if dt = 15 then convF fF32 fA40 0 (x % 2 ^ 32)
    else
      let r := f32ToInt rm (intRange dt).1 (intRange dt).2 (x % 2 ^ 32)
      (holdInt r.1, r.2)
  else if st = 15 then convF fA40 fF32 rm (x % 2 ^ 40)
  else
    let z : Int := if st = 7 then (BitVec.ofNat 32 x).toInt else ((x % 2 ^ 32 : Nat) : Int)
    if dt = 11 then roundF fF32 rm true (decide (z < 0)) z.natAbs 0
    else (holdInt (clampInt (intRange dt).1 (intRange dt).2 z), 0)

def execCvt (d a : BitVec 7) (x y : BitVec 4) (r : BitVec 2) (s : State) : Out :=
  laneFloat (.cvt d a x y r) d (cvtRegs x) (fun t => t.vws a.toNat (cvtRegs y))
    (fun t l => cvtValue x.toNat y.toNat (rcRound t r.toNat) (t.vgroup a.toNat (cvtRegs y) l)) s

/-- Replace bits [lo + w - 1 : lo] of a register. -/
def replaceBits (old lo w v : Nat) : Nat := old - old / 2 ^ lo % 2 ^ w * 2 ^ lo + v % 2 ^ w * 2 ^ lo

/-- CVTB's element (R366): its width in bits, its value and flags. -/
def cvtbElem (k f src rm : Nat) (x : Nat) : Nat × Word :=
  let v := if src = 0 then unpackF fF32 (x % 2 ^ 32) else unpackF fA40 (x % 2 ^ 40)
  match f with
  | 0 => toLog 7 8 v
  | 1 => if src = 2 then l8ToL6 (x / 2 ^ (8 * k) % 256) else toLog 5 4 v
  | _ => if src = 0 then convF fF32 fBF16 rm (x % 2 ^ 32) else convF fA40 fBF16 rm (x % 2 ^ 40)

def execCvtb (d a : BitVec 7) (k f sc : BitVec 2) (r : BitVec 2) (s : State) : Out :=
  laneFloat (.cvtb d a k f sc r) d 1 (fun t => t.vws a.toNat (if sc = 1 then 2 else 1) ||| t.vw d.toNat)
    (fun t l =>
      let e := cvtbElem k.toNat f.toNat sc.toNat (rcRound t r.toNat) (t.vgroup a.toNat (if sc = 1 then 2 else 1) l)
      let w := if f = 2 then 16 else 8
      (replaceBits (t.vget d.toNat l).toNat (w * k.toNat) w e.1, e.2)) s

/-- UNPKL's F32 value (R367). -/
def unpackElem (k f x : Nat) : Nat × Word :=
  match f with
  | 0 => packF fF32 0 true (logVal (l8Code (x / 2 ^ (8 * k) % 256)))
  | 1 => packF fF32 0 true (logVal (l6Code (x / 2 ^ (8 * k) % 64)))
  | _ => convF fBF16 fF32 0 (x / 2 ^ (16 * k) % 65536)

def execUnpkl (d a : BitVec 7) (k f : BitVec 2) (s : State) : Out :=
  laneFloat (.unpkl d a k f) d 1 (fun t => t.vw a.toNat) (fun t l => unpackElem k.toNat f.toNat (t.vget a.toNat l).toNat) s

def execPackh (d a b : BitVec 7) (r : BitVec 2) (s : State) : Out :=
  laneFloat (.packh d a b r) d 1 (fun t => t.vw a.toNat ||| t.vw b.toNat)
    (fun t l =>
      let lo := convF fF32 fBF16 (rcRound t r.toNat) (t.vget a.toNat l).toNat
      let hi := convF fF32 fBF16 (rcRound t r.toNat) (t.vget b.toNat l).toNat
      (lo.1 + hi.1 * 65536, lo.2 ||| hi.2)) s

end Sys2Proof.Machine
end

