-- ==== Sys2Proof/Machine/Dispatch.lean ====
section
/-! DEFINITION. The one match over the instructions: one arm per constructor, each a direct call of its meaning. -/

namespace Sys2Proof.Machine

def exec (i : Instr) (s : State) : Host.Outcome State Fault Refusal :=
  match i with
  | .powerOn => Sys2Proof.Machine.execPowerOn s
  | .thermalTrip => Sys2Proof.Machine.execThermalTrip s
  | .pcieFundamentalReset => Sys2Proof.Machine.execPcieFundamentalReset s
  | .pcieHotReset => Sys2Proof.Machine.execPcieHotReset s
  | .bcmdWarmReset => Sys2Proof.Machine.execBcmdWarmReset s
  | .rstctlWarm => Sys2Proof.Machine.execRstctlWarm s
  | .hostLinkTrain => Sys2Proof.Machine.execHostLinkTrain s
  | .hbmTrained => Sys2Proof.Machine.execHbmTrained s
  | .fullScrubComplete => Sys2Proof.Machine.execFullScrubComplete s
  | .firmwareVerified => Sys2Proof.Machine.execFirmwareVerified s
  | .stagingAreaWrite => Sys2Proof.Machine.execStagingAreaWrite s
  | .bcmdSubmit => Sys2Proof.Machine.execBcmdSubmit s
  | .firmwareStart => Sys2Proof.Machine.execFirmwareStart s
  | .powerSample => Sys2Proof.Machine.execPowerSample s
  | .monoStore => Sys2Proof.Machine.execMonoStore s
  | .systemRegisterWrite => Sys2Proof.Machine.execSystemRegisterWrite s
  | .clauseStart => Sys2Proof.Machine.execClauseStart s
  | .tickExpiry => Sys2Proof.Machine.execTickExpiry s
  | .sliceExpiry => Sys2Proof.Machine.execSliceExpiry s
  | .sliceWaitTimeout => Sys2Proof.Machine.execSliceWaitTimeout s
  | .debugHalt => Sys2Proof.Machine.execDebugHalt s
  | .debugResume => Sys2Proof.Machine.execDebugResume s
  | .debugStep => Sys2Proof.Machine.execDebugStep s
  | .pageWalk => Sys2Proof.Machine.execPageWalk s
  | .faultRepost => Sys2Proof.Machine.execFaultRepost s
  | .faultAdmit => Sys2Proof.Machine.execFaultAdmit s
  | .contextTake => Sys2Proof.Machine.execContextTake s
  | .directoryLookup => Sys2Proof.Machine.execDirectoryLookup s
  | .lookupAnswer => Sys2Proof.Machine.execLookupAnswer s
  | .lookupTimeout => Sys2Proof.Machine.execLookupTimeout s
  | .poolWaitTimeout => Sys2Proof.Machine.execPoolWaitTimeout s
  | .eviction => Sys2Proof.Machine.execEviction s
  | .pinnedTimeout => Sys2Proof.Machine.execPinnedTimeout s
  | .scoreHalving => Sys2Proof.Machine.execScoreHalving s
  | .pageRead => Sys2Proof.Machine.execPageRead s
  | .fetchComplete => Sys2Proof.Machine.execFetchComplete s
  | .fetchTimeout => Sys2Proof.Machine.execFetchTimeout s
  | .replay => Sys2Proof.Machine.execReplay s
  | .ownershipRequest => Sys2Proof.Machine.execOwnershipRequest s
  | .invalidation => Sys2Proof.Machine.execInvalidation s
  | .invalidationAck => Sys2Proof.Machine.execInvalidationAck s
  | .invalidationTimeout => Sys2Proof.Machine.execInvalidationTimeout s
  | .ownerWriteback => Sys2Proof.Machine.execOwnerWriteback s
  | .pageWriteback => Sys2Proof.Machine.execPageWriteback s
  | .ownershipAnswer => Sys2Proof.Machine.execOwnershipAnswer s
  | .ownershipTimeout => Sys2Proof.Machine.execOwnershipTimeout s
  | .inboundAccess => Sys2Proof.Machine.execInboundAccess s
  | .wake => Sys2Proof.Machine.execWake s
  | .fail => Sys2Proof.Machine.execFail s
  | .answer => Sys2Proof.Machine.execAnswer s
  | .grant => Sys2Proof.Machine.execGrant s
  | .refuse => Sys2Proof.Machine.execRefuse s
  | .framePoolRead => Sys2Proof.Machine.execFramePoolRead s
  | .frameReadServed => Sys2Proof.Machine.execFrameReadServed s
  | .frameTryRead => Sys2Proof.Machine.execFrameTryRead s
  | .writeBackStart => Sys2Proof.Machine.execWriteBackStart s
  | .writeBackComplete => Sys2Proof.Machine.execWriteBackComplete s
  | .hostBar2Write => Sys2Proof.Machine.execHostBar2Write s
  | .hostBar2Read => Sys2Proof.Machine.execHostBar2Read s
  | .hostCoreRead => Sys2Proof.Machine.execHostCoreRead s
  | .l2Request => Sys2Proof.Machine.execL2Request s
  | .l2Fill => Sys2Proof.Machine.execL2Fill s
  | .l1Fill => Sys2Proof.Machine.execL1Fill s
  | .hbmRequest => Sys2Proof.Machine.execHbmRequest s
  | .atomicUnitOp => Sys2Proof.Machine.execAtomicUnitOp s
  | .patrolRead => Sys2Proof.Machine.execPatrolRead s
  | .allocationZero => Sys2Proof.Machine.execAllocationZero s
  | .waitwRecheck => Sys2Proof.Machine.execWaitwRecheck s
  | .remoteAck => Sys2Proof.Machine.execRemoteAck s
  | .remoteResponse => Sys2Proof.Machine.execRemoteResponse s
  | .remoteTimeout => Sys2Proof.Machine.execRemoteTimeout s
  | .targetTimeout => Sys2Proof.Machine.execTargetTimeout s
  | .carrierPut => Sys2Proof.Machine.execCarrierPut s
  | .flitReceive => Sys2Proof.Machine.execFlitReceive s
  | .replayRequest => Sys2Proof.Machine.execReplayRequest s
  | .missingSeqTimeout => Sys2Proof.Machine.execMissingSeqTimeout s
  | .drainMarker => Sys2Proof.Machine.execDrainMarker s
  | .drainAcknowledgement => Sys2Proof.Machine.execDrainAcknowledgement s
  | .managerMessage => Sys2Proof.Machine.execManagerMessage s
  | .laneGrant => Sys2Proof.Machine.execLaneGrant s
  | .laneRelock => Sys2Proof.Machine.execLaneRelock s
  | .leaseTermExpiry => Sys2Proof.Machine.execLeaseTermExpiry s
  | .symbolWindow => Sys2Proof.Machine.execSymbolWindow s
  | .retrainComplete => Sys2Proof.Machine.execRetrainComplete s
  | .retrainFailure => Sys2Proof.Machine.execRetrainFailure s
  | .ethernetResponse => Sys2Proof.Machine.execEthernetResponse s
  | .fbsync => Sys2Proof.Machine.execFbsync s
  | .quantumBoundary => Sys2Proof.Machine.execQuantumBoundary s
  | .placement => Sys2Proof.Machine.execPlacement s
  | .placementTimeout => Sys2Proof.Machine.execPlacementTimeout s
  | .place => Sys2Proof.Machine.execPlace s
  | .defer => Sys2Proof.Machine.execDefer s
  | .wakeupRecheck => Sys2Proof.Machine.execWakeupRecheck s
  | .launchComplete => Sys2Proof.Machine.execLaunchComplete s
  | .periodBoundary => Sys2Proof.Machine.execPeriodBoundary s
  | .ceilingReached => Sys2Proof.Machine.execCeilingReached s
  | .bandwidthWindow => Sys2Proof.Machine.execBandwidthWindow s
  | .engineCommit => Sys2Proof.Machine.execEngineCommit s
  | .porterComplete => Sys2Proof.Machine.execPorterComplete s
  | .engineRestart => Sys2Proof.Machine.execEngineRestart s
  | .btcInvalidate => Sys2Proof.Machine.execBtcInvalidate s
  | .orgload => Sys2Proof.Machine.execOrgload s
  | .attest => Sys2Proof.Machine.execAttest s
  | .attestNonceReceive => Sys2Proof.Machine.execAttestNonceReceive s
  | .attestReportArrival => Sys2Proof.Machine.execAttestReportArrival s
  | .attestTimeout => Sys2Proof.Machine.execAttestTimeout s
  | .report => Sys2Proof.Machine.execReport s
  | .ack => Sys2Proof.Machine.execAck s
  | .logrd => Sys2Proof.Machine.execLogrd s
  | .trustCommandDone => Sys2Proof.Machine.execTrustCommandDone s
  | .policyVerified => Sys2Proof.Machine.execPolicyVerified s
  | .policyExpiry => Sys2Proof.Machine.execPolicyExpiry s
  | .scrubEngineScrub => Sys2Proof.Machine.execScrubEngineScrub s
  | .frameRingWrite => Sys2Proof.Machine.execFrameRingWrite s
  | .iadd d a b m => Sys2Proof.Machine.execIadd d a b m s
  | .isub d a b m => Sys2Proof.Machine.execIsub d a b m s
  | .imul d a b => Sys2Proof.Machine.execImul d a b s
  | .imulh d a b t => Sys2Proof.Machine.execImulh d a b t s
  | .imad d a b => Sys2Proof.Machine.execImad d a b s
  | .imin d a b t => Sys2Proof.Machine.execImin d a b t s
  | .imax d a b t => Sys2Proof.Machine.execImax d a b t s
  | .iabsd d a b t => Sys2Proof.Machine.execIabsd d a b t s
  | .andV d a b => Sys2Proof.Machine.execAndV d a b s
  | .orV d a b => Sys2Proof.Machine.execOrV d a b s
  | .xor d a b => Sys2Proof.Machine.execXor d a b s
  | .andn d a b => Sys2Proof.Machine.execAndn d a b s
  | .shl d a b => Sys2Proof.Machine.execShl d a b s
  | .shr d a b => Sys2Proof.Machine.execShr d a b s
  | .sra d a b => Sys2Proof.Machine.execSra d a b s
  | .bfx d a b t => Sys2Proof.Machine.execBfx d a b t s
  | .bfi d a b => Sys2Proof.Machine.execBfi d a b s
  | .popc d a => Sys2Proof.Machine.execPopc d a s
  | .clz d a => Sys2Proof.Machine.execClz d a s
  | .brev d a => Sys2Proof.Machine.execBrev d a s
  | .prmt d a b => Sys2Proof.Machine.execPrmt d a b s
  | .prmts d a fs => Sys2Proof.Machine.execPrmts d a fs s
  | .icmp p a b c => Sys2Proof.Machine.execIcmp p a b c s
  | .sel d a b p => Sys2Proof.Machine.execSel d a b p s
  | .mov d a => Sys2Proof.Machine.execMov d a s
  | .movs d fs => Sys2Proof.Machine.execMovs d fs s
  | .movi d fi => Sys2Proof.Machine.execMovi d fi s
  | .iaddi d a fi => Sys2Proof.Machine.execIaddi d a fi s
  | .andi d a fi => Sys2Proof.Machine.execAndi d a fi s
  | .ori d a fi => Sys2Proof.Machine.execOri d a fi s
  | .xori d a fi => Sys2Proof.Machine.execXori d a fi s
  | .shli d a n => Sys2Proof.Machine.execShli d a n s
  | .shri d a n => Sys2Proof.Machine.execShri d a n s
  | .srai d a n => Sys2Proof.Machine.execSrai d a n s
  | .iadds d a fs m => Sys2Proof.Machine.execIadds d a fs m s
  | .icmps p a fs t c => Sys2Proof.Machine.execIcmps p a fs t c s
  | .lane d m => Sys2Proof.Machine.execLane d m s
  | .fadd d a b t => Sys2Proof.Machine.execFadd d a b t s
  | .fmul d a b t => Sys2Proof.Machine.execFmul d a b t s
  | .ffma d a b t => Sys2Proof.Machine.execFfma d a b t s
  | .fmin d a b t => Sys2Proof.Machine.execFmin d a b t s
  | .fmax d a b t => Sys2Proof.Machine.execFmax d a b t s
  | .fcmp p a b c => Sys2Proof.Machine.execFcmp p a b c s
  | .fabs d a k t => Sys2Proof.Machine.execFabs d a k t s
  | .frcp d a => Sys2Proof.Machine.execFrcp d a s
  | .fsqrt d a => Sys2Proof.Machine.execFsqrt d a s
  | .frsq d a => Sys2Proof.Machine.execFrsq d a s
  | .fexp2 d a => Sys2Proof.Machine.execFexp2 d a s
  | .flog2 d a => Sys2Proof.Machine.execFlog2 d a s
  | .fdot2 d a b => Sys2Proof.Machine.execFdot2 d a b s
  | .fadds d a fs t => Sys2Proof.Machine.execFadds d a fs t s
  | .fmuls d a fs t => Sys2Proof.Machine.execFmuls d a fs t s
  | .ffmas d a fs t => Sys2Proof.Machine.execFfmas d a fs t s
  | .cvt d a x y r => Sys2Proof.Machine.execCvt d a x y r s
  | .cvtb d a k f fs r => Sys2Proof.Machine.execCvtb d a k f fs r s
  | .unpkl d a k f => Sys2Proof.Machine.execUnpkl d a k f s
  | .packh d a b r => Sys2Proof.Machine.execPackh d a b r s
  | .shfl d a b g m => Sys2Proof.Machine.execShfl d a b g m s
  | .vote d p m => Sys2Proof.Machine.execVote d p m s
  | .matchV d a k w => Sys2Proof.Machine.execMatchV d a k w s
  | .ld d a fs z f => Sys2Proof.Machine.execLd d a fs z f s
  | .st d a fs z f => Sys2Proof.Machine.execSt d a fs z f s
  | .ldsp d a fs z f => Sys2Proof.Machine.execLdsp d a fs z f s
  | .stsp d a fs z f => Sys2Proof.Machine.execStsp d a fs z f s
  | .ldcv d a fs z f => Sys2Proof.Machine.execLdcv d a fs z f s
  | .stcv d a fs z f => Sys2Proof.Machine.execStcv d a fs z f s
  | .lddp d a fs z f => Sys2Proof.Machine.execLddp d a fs z f s
  | .stdp d a fs z f => Sys2Proof.Machine.execStdp d a fs z f s
  | .ldc d a fs z f => Sys2Proof.Machine.execLdc d a fs z f s
  | .pfet a fs l => Sys2Proof.Machine.execPfet a fs l s
  | .lda d a fs c f => Sys2Proof.Machine.execLda d a fs c f s
  | .stl d a fs c f => Sys2Proof.Machine.execStl d a fs c f s
  | .lda64 d a fs c f => Sys2Proof.Machine.execLda64 d a fs c f s
  | .stl64 d a fs c f => Sys2Proof.Machine.execStl64 d a fs c f s
  | .atadd d a fs c f => Sys2Proof.Machine.execAtadd d a fs c f s
  | .atmin d a fs c f => Sys2Proof.Machine.execAtmin d a fs c f s
  | .atmax d a fs c f => Sys2Proof.Machine.execAtmax d a fs c f s
  | .atminn d a fs c f => Sys2Proof.Machine.execAtminn d a fs c f s
  | .atmaxn d a fs c f => Sys2Proof.Machine.execAtmaxn d a fs c f s
  | .atand d a fs c f => Sys2Proof.Machine.execAtand d a fs c f s
  | .ator d a fs c f => Sys2Proof.Machine.execAtor d a fs c f s
  | .atxor d a fs c f => Sys2Proof.Machine.execAtxor d a fs c f s
  | .atxch d a fs c f => Sys2Proof.Machine.execAtxch d a fs c f s
  | .atcas d a fs c f => Sys2Proof.Machine.execAtcas d a fs c f s
  | .atfadd d a fs c f => Sys2Proof.Machine.execAtfadd d a fs c f s
  | .atadd64 d a fs c f => Sys2Proof.Machine.execAtadd64 d a fs c f s
  | .atcas64 d a fs c f => Sys2Proof.Machine.execAtcas64 d a fs c f s
  | .rld d a fs z f => Sys2Proof.Machine.execRld d a fs z f s
  | .rst d a fs z f => Sys2Proof.Machine.execRst d a fs z f s
  | .ratadd d a fs z f => Sys2Proof.Machine.execRatadd d a fs z f s
  | .ratcas d a fs z f => Sys2Proof.Machine.execRatcas d a fs z f s
  | .ratfadd d a fs z f => Sys2Proof.Machine.execRatfadd d a fs z f s
  | .popq d q f => Sys2Proof.Machine.execPopq d q f s
  | .rep n x y w => Sys2Proof.Machine.execRep n x y w s
  | .sadd d a b => Sys2Proof.Machine.execSadd d a b s
  | .ssub d a b => Sys2Proof.Machine.execSsub d a b s
  | .smul d a b => Sys2Proof.Machine.execSmul d a b s
  | .smulh d a b t => Sys2Proof.Machine.execSmulh d a b t s
  | .sand d a b => Sys2Proof.Machine.execSand d a b s
  | .sor d a b => Sys2Proof.Machine.execSor d a b s
  | .sxor d a b => Sys2Proof.Machine.execSxor d a b s
  | .sshl d a b => Sys2Proof.Machine.execSshl d a b s
  | .sshr d a b => Sys2Proof.Machine.execSshr d a b s
  | .ssra d a b => Sys2Proof.Machine.execSsra d a b s
  | .smin d a b t => Sys2Proof.Machine.execSmin d a b t s
  | .smax d a b t => Sys2Proof.Machine.execSmax d a b t s
  | .scmp q a b t c => Sys2Proof.Machine.execScmp q a b t c s
  | .ssel d a b e p => Sys2Proof.Machine.execSsel d a b e p s
  | .smov d a => Sys2Proof.Machine.execSmov d a s
  | .spopc d a => Sys2Proof.Machine.execSpopc d a s
  | .sclz d a => Sys2Proof.Machine.execSclz d a s
  | .saddi d a fi => Sys2Proof.Machine.execSaddi d a fi s
  | .sandi d a fi => Sys2Proof.Machine.execSandi d a fi s
  | .sori d a fi => Sys2Proof.Machine.execSori d a fi s
  | .sxori d a fi => Sys2Proof.Machine.execSxori d a fi s
  | .sshli d a n => Sys2Proof.Machine.execSshli d a n s
  | .sshri d a n => Sys2Proof.Machine.execSshri d a n s
  | .scmpi q a c t fi => Sys2Proof.Machine.execScmpi q a c t fi s
  | .smovi d fi => Sys2Proof.Machine.execSmovi d fi s
  | .slui d fi => Sys2Proof.Machine.execSlui d fi s
  | .sadd64 d a b k => Sys2Proof.Machine.execSadd64 d a b k s
  | .qop d a b t => Sys2Proof.Machine.execQop d a b t s
  | .sld d a b f => Sys2Proof.Machine.execSld d a b f s
  | .sst d a b f => Sys2Proof.Machine.execSst d a b f s
  | .sld64 d a b f => Sys2Proof.Machine.execSld64 d a b f s
  | .sst64 d a b f => Sys2Proof.Machine.execSst64 d a b f s
  | .sldsp d a b f => Sys2Proof.Machine.execSldsp d a b f s
  | .sstsp d a b f => Sys2Proof.Machine.execSstsp d a b f s
  | .slda d a b c f => Sys2Proof.Machine.execSlda d a b c f s
  | .sstl d a b c f => Sys2Proof.Machine.execSstl d a b c f s
  | .satadd d a b c f => Sys2Proof.Machine.execSatadd d a b c f s
  | .satcas d a b c f => Sys2Proof.Machine.execSatcas d a b c f s
  | .redv d v o => Sys2Proof.Machine.execRedv d v o s
  | .lmask d p k => Sys2Proof.Machine.execLmask d p k s
  | .bcast d v b m => Sys2Proof.Machine.execBcast d v b m s
  | .br q e o => Sys2Proof.Machine.execBr q e o s
  | .brd p e o => Sys2Proof.Machine.execBrd p e o s
  | .setj o => Sys2Proof.Machine.execSetj o s
  | .call q e o => Sys2Proof.Machine.execCall q e o s
  | .ret => Sys2Proof.Machine.execRet s
  | .bri a b => Sys2Proof.Machine.execBri a b s
  | .loop c o => Sys2Proof.Machine.execLoop c o s
  | .loopi n o => Sys2Proof.Machine.execLoopi n o s
  | .lbrk q e o => Sys2Proof.Machine.execLbrk q e o s
  | .exit => Sys2Proof.Machine.execExit s
  | .lnch d a b f => Sys2Proof.Machine.execLnch d a b f s
  | .bar a c n => Sys2Proof.Machine.execBar a c n s
  | .barcv a c n => Sys2Proof.Machine.execBarcv a c n s
  | .arrv a b fs => Sys2Proof.Machine.execArrv a b fs s
  | .bwait d a fs => Sys2Proof.Machine.execBwait d a fs s
  | .waitw d a c p fs => Sys2Proof.Machine.execWaitw d a c p fs s
  | .fence fs k => Sys2Proof.Machine.execFence fs k s
  | .waitf f => Sys2Proof.Machine.execWaitf f s
  | .yield => Sys2Proof.Machine.execYield s
  | .sleep a fi => Sys2Proof.Machine.execSleep a fi s
  | .sleepExpiry => Sys2Proof.Machine.execSleepExpiry s
  | .macq f t p d => Sys2Proof.Machine.execMacq f t p d s
  | .mrel f t p => Sys2Proof.Machine.execMrel f t p s
  | .mzeroE f t => Sys2Proof.Machine.execMzeroE f t s
  | .mzeroAll f t => Sys2Proof.Machine.execMzeroAll f t s
  | .mma f t m a b => Sys2Proof.Machine.execMma f t m a b s
  | .mmap f t m a b => Sys2Proof.Machine.execMmap f t m a b s
  | .msca f d p a b => Sys2Proof.Machine.execMsca f d p a b s
  | .mld f t m a b => Sys2Proof.Machine.execMld f t m a b s
  | .mst f t m a b => Sys2Proof.Machine.execMst f t m a b s
  | .smxu f o fs p k x m => Sys2Proof.Machine.execSmxu f o fs p k x m s
  | .smxm f a b p => Sys2Proof.Machine.execSmxm f a b p s
  | .smxn f o => Sys2Proof.Machine.execSmxn f o s
  | .mstatSt f t a => Sys2Proof.Machine.execMstatSt f t a s
  | .mstatLd f t a => Sys2Proof.Machine.execMstatLd f t a s
  | .mstatRst f t => Sys2Proof.Machine.execMstatRst f t s
  | .xcv f t a w => Sys2Proof.Machine.execXcv f t a w s
  | .xadd f d fs c => Sys2Proof.Machine.execXadd f d fs c s
  | .xput f a b c => Sys2Proof.Machine.execXput f a b c s
  | .xrnd f t a w => Sys2Proof.Machine.execXrnd f t a w s
  | .cpy f d a => Sys2Proof.Machine.execCpy f d a s
  | .cpy2d f d a => Sys2Proof.Machine.execCpy2d f d a s
  | .cfill f d a => Sys2Proof.Machine.execCfill f d a s
  | .gath f d a => Sys2Proof.Machine.execGath f d a s
  | .cstat f d a u => Sys2Proof.Machine.execCstat f d a u s
  | .ccan f a u => Sys2Proof.Machine.execCcan f a u s
  | .ostart f n a b d => Sys2Proof.Machine.execOstart f n a b d s
  | .ostop f n => Sys2Proof.Machine.execOstop f n s
  | .opush f n a c => Sys2Proof.Machine.execOpush f n a c s
  | .lease d a b f => Sys2Proof.Machine.execLease d a b f s
  | .lrel d a f => Sys2Proof.Machine.execLrel d a f s
  | .lqry d a => Sys2Proof.Machine.execLqry d a s
  | .drain a f => Sys2Proof.Machine.execDrain a f s
  | .drainAll a f => Sys2Proof.Machine.execDrainAll a f s
  | .wbrd d fs k => Sys2Proof.Machine.execWbrd d fs k s
  | .sysr d r => Sys2Proof.Machine.execSysr d r s
  | .sysw a r => Sys2Proof.Machine.execSysw a r s
  | .trap fi => Sys2Proof.Machine.execTrap fi s
  | .brk fi => Sys2Proof.Machine.execBrk fi s
  | .tret => Sys2Proof.Machine.execTret s
  | .gpolIns d a => Sys2Proof.Machine.execGpolIns d a s
  | .gpolRev d b => Sys2Proof.Machine.execGpolRev d b s
  | .seal d a b => Sys2Proof.Machine.execSeal d a b s
  | .tlbiPage a b f => Sys2Proof.Machine.execTlbiPage a b f s
  | .tlbiWorld a f => Sys2Proof.Machine.execTlbiWorld a f s
  | .tlbiPart a f => Sys2Proof.Machine.execTlbiPart a f s
  | .tlbiAll f => Sys2Proof.Machine.execTlbiAll f s
  | .tlbiG2page a b f => Sys2Proof.Machine.execTlbiG2page a b f s
  | .tlbiG2part a f => Sys2Proof.Machine.execTlbiG2part a f s
  | .tlbiComplete => Sys2Proof.Machine.execTlbiComplete s
  | .scrub d a f z => Sys2Proof.Machine.execScrub d a f z s
  | .ctxsv d a f => Sys2Proof.Machine.execCtxsv d a f s
  | .ctxld d a f => Sys2Proof.Machine.execCtxld d a f s
  | .nop => Sys2Proof.Machine.execNop s
  | .powerLoss => Sys2Proof.Machine.execPowerLoss s
  | .bankAccess => Sys2Proof.Machine.execBankAccess s
  | .instructionCacheFill => Sys2Proof.Machine.execInstructionCacheFill s
  | .constantCacheFill => Sys2Proof.Machine.execConstantCacheFill s
  | .invalidationPinnedTimeout => Sys2Proof.Machine.execInvalidationPinnedTimeout s
  | .directoryEntryUpdate => Sys2Proof.Machine.execDirectoryEntryUpdate s
  | .relinquish => Sys2Proof.Machine.execRelinquish s

end Sys2Proof.Machine
end

