-- ==== Sys2Proof/Machine/Schedule.lean ====
section
/-! DEFINITION. What one step does (R232, R243, R279, R293): the issue of one word, an event, the time that passes, and the acts the machine
takes by itself when its agenda names none. -/

namespace Sys2Proof.Machine

/-! ### Issuing -/

/-- May a path issue the word it stands at: it runs inside a clause and waits for nothing that an event ends, its string is neither halted
nor stopped, and its sibling, which the string last issued for, is not inside a clause (R232, R259, R266)? -/
def mayIssue (t : Str) (b : Bool) : Bool :=
  let p := t.path b
  p.state == .running && p.pos != 0 && p.words != [] &&
    (p.hold == .none || p.hold == .again || p.hold == .word || p.hold == .released) &&
    t.dbg == .running && !t.captured && (!t.outrider || t.runs) &&
    !((t.path (!b)).busy && t.onPath != b)

/-- The word a path stands at, as memory holds it; and as it issues, stepped under a REP (R382). -/
def Path.wordHere (p : Path) : Word := p.words.getD (p.pos - 1) 0
def issueWord (t : Str) (p : Path) : Word := if p.rep then repStep p.wordHere p.prevWord t.repidx else p.wordHere

/-- The issue of the word a unit's path stands at; a word that is no instruction is ILLEGAL (R301). -/
def issueAt (s : State) (u : Nat) (b : Bool) : Out :=
  match s.str? u with
  | none => .next s
  | some t =>
    if !mayIssue t b || s.boundStopped t then .next s
    else
      let p := t.path b
      let s := { s.tookSlot u b with curUnit := u, curPath := b, curWord := p.wordHere }
      match decode (issueWord t p) with
      | .ok i => exec i s
      | .error _ => trapWord s ((s.str? u).getD t) p cILLEGAL

/-! ### Acts -/

/-- An event with what it brings; its first two numbers name the unit and the path it is about, if any. -/
def eventAt (s : State) (i : Instr) (a : Arg) : Out :=
  exec i { s with arg := a, curUnit := a.n.getD 0 0, curPath := a.n.getD 1 0 == 1 }

def State.act (s : State) (a : Act) : Out :=
  match a with
  | .event i x => eventAt s i x
  | .issue u b => issueAt s u b

/-- The slot time one string holds in a time is its partition's (R285) (DEDUCED, log 67). -/
def State.chargeSlot (s : State) (dt : Nat) (a : Table Nat) (t : Str) : Table Nat :=
  match t.outrider, s.partOf t.world with
  | false, some q => tset 0 a q (tget 0 a q + dt)
  | _, _ => a

/-- Time passes: the counter, and the slot time of every resident string (R255, R285). -/
def State.pass (s : State) (dt : Nat) : State :=
  { s with
    time := s.time + dt
    sch := { s.sch with slotTime := s.strs.foldl (fun a e => s.chargeSlot dt a e.2) s.sch.slotTime } }

/-! ### What the machine does by itself -/

/-- An event with numbers. -/
def ev (i : Instr) (n : List Nat) : Act := .event i ⟨n, []⟩

/-- The start order (R469), with a host that supports everything (DESIGN CHOICE, log 11). -/
def State.bootActs (s : State) : List Act :=
  if !s.boot.powered then [ev .powerOn []]
  else if !s.boot.linkUp then [ev .hostLinkTrain [7, 16]]
  else if !s.boot.hbmUp then [ev .hbmTrained []]
  else if !s.boot.scrubbed then [ev .fullScrubComplete []]
  else if !s.boot.verified then [ev .firmwareVerified []]
  else if !s.boot.started then [ev .firmwareStart []]
  else []

/-- The next stage of a request. -/
def reqAct (r : Req) : Act :=
  match r.stage with
  | .bank => ev .bankAccess [r.rid]
  | .l2 => ev .l2Request [r.rid]
  | .hbm => ev .hbmRequest [r.rid]
  | .fill => ev .l2Fill [r.rid]
  | .atom => ev .atomicUnitOp [r.rid]
  | .l1 => match r.kind with
    | .ifetch => ev .instructionCacheFill [r.rid]
    | .cfetch => ev .constantCacheFill [r.rid]
    | _ => ev .l1Fill [r.rid]

def actIf (c : Bool) (a : Act) : List Act := if c then [a] else []

/-- Memory, translation and frames. -/
def State.memActs (s : State) : List Act :=
  s.mem.reqs.map reqAct ++ actIf (!s.mem.zeroing.isEmpty) (ev .allocationZero []) ++ actIf s.mem.wbBusy (ev .writeBackComplete []) ++
    actIf (s.windowNow != s.mem.window) (ev .bandwidthWindow []) ++ s.xl.shoots.map (fun x => ev .tlbiComplete [x.op]) ++
    s.xl.poolWait.map (fun w => ev .frameReadServed [w.part, w.size]) ++ actIf (!s.xl.scrubs.isEmpty) (ev .scrubEngineScrub []) ++
    actIf (!s.xl.ringWait.isEmpty) (ev .frameRingWrite [])

/-- The waystation and the directories. -/
def State.wayActs (s : State) : List Act :=
  actIf (s.way.posts.any s.admits) (ev .faultAdmit []) ++ actIf (s.way.posts.any (fun r => !s.admits r)) (ev .faultRepost []) ++
    actIf (decide (12 * 2 ^ 20 ≤ 5 * (s.time - s.way.halved))) (ev .scoreHalving []) ++ s.waitHeads.map (fun w => .event w.1 w.2.retry) ++
    s.way.pends.flatMap (fun e =>
      if e.st ≤ 1 then [ev .contextTake []]
      else [ev .eviction [0, e.id], ev .lookupTimeout [e.id], ev .fetchTimeout [e.id], ev .ownershipTimeout [e.id], ev .pinnedTimeout [e.id],
        ev .poolWaitTimeout [e.id]]) ++
    s.way.evicts.flatMap (fun x => [ev .eviction [1, x.key], ev .invalidationPinnedTimeout [x.key]]) ++
    s.way.jobs.map (fun j => ev .invalidationTimeout [j.key])

/-- Engines, the fabric and the security block. -/
def State.unitActs (s : State) : List Act :=
  s.eng.queue.flatMap (fun e => [ev .engineCommit [e.1], ev .porterComplete [e.1]]) ++ s.eng.stops.map (fun e => ev .engineCommit [e.1]) ++
    s.fab.lanes.flatMap (fun e => actIf (e.2.st == 2) (ev .laneRelock [e.1])) ++
    s.fab.leases.map (fun e => ev .leaseTermExpiry [e.1]) ++
    s.fab.rems.map (fun e => ev .remoteTimeout [e.1]) ++
    s.tr.checks.map (fun c => ev .policyVerified [c.id]) ++
    s.tr.cmds.flatMap (fun e => [ev .trustCommandDone [e.1], ev .attestTimeout [e.1]]) ++
    actIf (s.tr.policies.any (fun e => decide (e.2.expiry ≤ s.mono))) (ev .policyExpiry []) ++
    actIf (decide (s.nv.mono + 1000000 ≤ s.mono)) (ev .monoStore [])

/-- Queues, placement and time. -/
def State.schActs (s : State) : List Act :=
  actIf (decide (s.sch.quantum < s.time / quantum)) (ev .quantumBoundary []) ++
    actIf (decide (s.sch.period < s.time / 36000000)) (ev .periodBoundary []) ++
    (if s.sch.launches = [] ∧ s.stored = [] then [] else (List.range 4).map (fun d => ev .placement [d])) ++
    s.sch.launches.map (fun e => ev .launchComplete [e.1]) ++ s.sch.preqs.map (fun e => ev .placementTimeout [e.1 / 4096, e.1 % 4096]) ++
    s.stored.map (fun x => ev .wakeupRecheck [x.key]) ++ s.sch.parties.map (fun e => ev .sliceExpiry [e.1]) ++
    s.sch.slotTime.map (fun e => ev .ceilingReached [e.1])

/-- Is an instruction line of a unit's core and world on its way? -/
def State.fetching (s : State) (u : Nat) (t : Str) : Bool :=
  s.mem.reqs.any (fun r => r.kind == .ifetch && r.core == coreOf u && r.world == t.world)

/-- May a path start a clause at once: it waits for no flag and for no line (R232, R279)? -/
def readyStart (s : State) (u : Nat) (t : Str) (b : Bool) : Bool :=
  let p := t.path b
  mayStart t b && !(p.words != [] && p.pos == 0 && waitsFlags p) && !(p.words == [] && s.fetching u t)

/-- Is a path ready: it may issue its next instruction, or start a clause (R279)? A path that waits for a word, a line, a counter or accesses before it
holds no slot, until it is tried again. -/
def pathReady (s : State) (u : Nat) (t : Str) (b : Bool) : Bool :=
  !s.boundStopped t && ((mayIssue t b && (t.path b).hold != .word && (t.path b).hold != .again) || readyStart s u t b)

/-- What a unit's path could do now: issue, start a clause, or end a SLEEP. Of two paths ready to start a clause it is the turn of the one that did
not issue last (R279). -/
def pathActs (s : State) (u : Nat) (t : Str) (b : Bool) : List Act :=
  let n := [u, if b then 1 else 0]
  if s.boundStopped t then []
  else actIf (mayIssue t b) (.issue u b) ++
    actIf ((mayStart t b && !(readyStart s u t b && readyStart s u t (!b) && t.onPath == b)) || (dueTrap t (t.path b)).isSome) (ev .clauseStart n) ++
    (match (t.path b).hold with
    | .sleep _ => [ev .sleepExpiry n]
    | _ => [])

/-- Does a string wait behind another of its quad that is ready (R279, R339)? -/
def State.behind (s : State) (u : Nat) (t : Str) : Bool :=
  s.strs.any (fun e => e.1 != u && quadOf e.1 == quadOf u && (pathReady s e.1 e.2 false || pathReady s e.1 e.2 true) &&
    (if e.2.yielded == t.yielded then decide (e.2.stamp < t.stamp) else t.yielded))

/-- What a string could do now, by kind: its two paths if it is its turn, its comparator, its stop. -/
def State.actsOf (s : State) (u : Nat) (t : Str) : Nat → List Act
  | 0 => if s.behind u t then [] else pathActs s u t false
  | 1 => if s.behind u t then [] else pathActs s u t true
  | 2 => actIf (t.tickPending || (t.reg 0x011 != 0 && decide ((t.reg 0x011).toNat ≤ s.time))) (ev .tickExpiry [u])
  | _ => actIf t.stopTenant (ev .sliceWaitTimeout [u])

/-- The k-th act of a list, counted round. -/
def pick (l : List Act) (k : Nat) : Act := l.getD (k % l.length) (ev .monoStore [])

/-- The next kind of act of a string after the one it was last tried at, and an act of it. -/
def State.strAct (s : State) (u : Nat) (t : Str) : Option (Nat × Act) :=
  ((List.range 4).map (fun k => (t.served + 1 + k) % 4)).findSome? (fun k =>
    match s.actsOf u t k with
    | [] => none
    | l => some (k, pick l t.tried))

/-- The string that the default order has tried longest ago, of those that could do something, with the kind of act and the act it could do next: no
kind of act of a string is passed over while another is tried twice (R243). -/
def State.strActs (s : State) : Option (Nat × Nat × Act) :=
  (s.strs.foldl (fun best e =>
    match s.strAct e.1 e.2, best with
    | none, b => b
    | some x, none => some (e.1, e.2.tried, x)
    | some x, some (u, n, y) => if e.2.tried < n then some (e.1, e.2.tried, x) else some (u, n, y)) none).map (fun x => (x.1, x.2.2))

/-- What the machine could do next by itself, beside its strings. -/
def State.ownActs (s : State) : List Act :=
  match s.bootActs with
  | [] => s.memActs ++ s.wayActs ++ s.unitActs ++ s.schActs
  | l => l

/-- The next act: the agenda's first; or in turn one of the strings', the one tried longest ago first so that each is tried again in bounded time
(R243), and one of the machine's own (DESIGN CHOICE, log 3). -/
def State.nextItem (s : State) : Item × State :=
  match s.agenda with
  | x :: rest => (x, { s with agenda := rest })
  | [] =>
    let own := s.ownActs
    let s' := { s with turn := s.turn + 1 }
    let dt := 1 + Config.stepCycles s.turn
    match (if s.bootActs = [] then s.strActs else none) with
    | none => (⟨dt, pick own s.turn⟩, s')
    | some (u, k, a) =>
      if s.turn % 2 = 1 ∧ own ≠ [] then (⟨dt, pick own (s.turn / 2)⟩, s')
      else (⟨dt, a⟩, { s' with strs := s'.strs.map (fun e => if e.1 = u then (e.1, { e.2 with tried := s'.turn, served := k }) else e) })

/-! ### A word about to issue -/

/-- A fetched clause of one word with no wait, no flag and predicate p7. -/
def oneWordHdr : Word := 0x1000FFE0

/-- The first steward string in a clause of one word, as its next act (log 11). -/
def State.placeWord (s : State) (w : Word) : State :=
  let s := s.firstString s.imageBase 0
  let t := (s.str? 0).getD Str.blankOut
  let p := { t.p0 with pos := 1, hdr := oneWordHdr, words := [w], cmask := t.p0.mask }
  { s with
    boot := { s.boot with linkUp := true, hbmUp := true, scrubbed := true, verified := true, started := true, bstat := 3 }
    strs := tput s.strs 0 { t with p0 := p }
    agenda := [⟨0, .issue 0 false⟩] }

end Sys2Proof.Machine
end

