-- ==== Sys2Proof/Machine/Step.lean ====
section
/-! DEFINITION. One step of the machine, and a state whose next step issues a given word. -/

namespace Sys2Proof.Machine

/-- One step: the time to the next act passes, and the act is done. -/
def step (s : State) : Out :=
  let x := s.nextItem
  (x.2.pass x.1.dt).act x.1.act

/-- The state with a word as the one word of the clause that the first steward string stands in, about to issue it: the machine is started,
and the clause is fetched (log 11). -/
def State.withFetchWord (s : State) (nbits w : Nat) : State := s.placeWord (BitVec.ofNat 32 (w % 2 ^ nbits))

end Sys2Proof.Machine
end

