-- ==== Sys2Proof/Safety.lean ====
section
/-! DEFINITION. What a safe run is, and the terms the claims use: when an instruction acts, what a result is, what stays as it was. -/

namespace Sys2Proof.Machine

/-! ### Runs -/

/-- A step that goes on. -/
def Out.goesOn : Out → Bool
  | .next _ => true
  | .fault _ => false
  | .refused _ => false

/-- A run is safe for n steps: none of them is a fault or a refusal. -/
def safeFor : Nat → State → Prop
  | 0, _ => True
  | n + 1, s => ∃ s', step s = .next s' ∧ safeFor n s'

/-- The memory's canonical form: strictly rising addresses, and no byte listed that an unlisted address reads as. -/
abbrev Memory.wf (m : List Host.Cell) : Prop := Table.wf (0 : Byte) m = true

/-- Every store of bytes of the machine is canonical: HBM, the scratchpads, convoy memory and the depots. -/
abbrev MemS.wf (m : MemS) : Prop :=
  Memory.wf m.hbm ∧ Memory.wf m.sp ∧ Memory.wf m.cv ∧ Memory.wf m.dp

/-! ### Words -/

/-- The words of an opcode (bits 31 to 24): those that fit stand for the instruction `i` reads from them, the others for none (R296, R301). -/
def Encodes (opcode : BitVec 8) (i : Word → Instr) (fits : Word → Prop) : Prop :=
  ∀ w : Word, w.extractLsb' 24 8 = opcode → (fits w → decode w = .ok (i w)) ∧ (¬ fits w → ∃ e, decode w = .error e)

/-! ### When an instruction acts -/

/-- The string or outrider an instruction acts for, and the path that issues it. -/
def State.cur (s : State) : Str := (s.str? s.curUnit).getD Str.blankOut
def State.curp (s : State) : Path := s.cur.path s.curPath

/-- Nothing of R301 stops the instruction: it is allowed where it issues, its level and its string's paths are as it needs, and no
source register is poisoned. -/
def ready (i : Instr) (s : State) : Bool :=
  (s.str? s.curUnit).isSome && legal s.cur i && decide (minLevel i ≤ s.curp.level) && !(oncePerString i && s.cur.diverged) &&
    (poisonedRead s.cur i).isNone

/-- The instruction answers a next state, which is as P says. -/
def Completes (i : Instr) (s : State) (P : State → Prop) : Prop := ∃ s', exec i s = .next s' ∧ P s'

/-- The state once the issuing path has gone on to its next word, or its next repeat, with a string and a path. -/
def State.goOn (s : State) (t : Str) (p : Path) : State := s.putCur (advance t p).1 (advance t p).2

/-- The issuing path has gone on from path p, and its sibling stands where it stood. -/
def MovedOn (s : State) (p : Path) (t : Str) : Prop :=
  t.path s.curPath = (advance s.cur p).2 ∧ t.path (!s.curPath) = s.cur.path (!s.curPath) ∧ t.repidx = (advance s.cur p).1.repidx

/-! ### Results of instructions -/

/-- A lane result (R208, R348 to R350): the n vector registers from d take, in the lanes of the clause mask, the bits of `f`, and the
waybill of R349; the flags `fl` are raised; the path goes on; nothing else of the string changes, and nothing else of the machine:
no byte of memory, no other string, no register of another kind. -/
structure LaneResult (s s' : State) (d n : Nat) (src : Waybill) (f : Nat → Nat) (fl : Word) : Prop where
  rest : s' = s.putStr s.curUnit s'.cur
  value : ∀ r l, l < 32 → s'.cur.vget r l =
    if d ≤ r ∧ r < d + n ∧ lane s.curp.cmask l then BitVec.ofNat 32 (f l / 2 ^ (32 * (r - d))) else s.cur.vget r l
  waybill : ∀ r, s'.cur.vw r =
    if d ≤ r ∧ r < d + n then
      src ||| predWb s.cur s.curp ||| s.curp.flow ||| (if s.curp.cmask &&& s.cur.lmask = s.cur.lmask then 0 else s.cur.vw r)
    else s.cur.vw r
  poison : ∀ r, r ∈ s'.cur.regPoison ↔
    r ∈ s.cur.regPoison ∧ ¬(s.curp.cmask &&& s.cur.lmask = s.cur.lmask ∧ d ≤ r ∧ r < d + n)
  sys : ∀ k, s'.cur.reg k = if k = 0x0B1 then s.cur.reg k ||| fl.setWidth 64 else s.cur.reg k
  path : MovedOn s s.curp s'.cur
  frame : { s'.cur with
    v := s.cur.v, vwb := s.cur.vwb, regPoison := s.cur.regPoison, sys := s.cur.sys
    p0 := s.cur.p0, p1 := s.cur.p1, repidx := s.cur.repidx } = s.cur

/-- A lane predicate result (R297, R349, R354): predicate n takes `f` in the lanes of the clause mask, and pt discards it. -/
structure PredResult (s s' : State) (n : Nat) (src : Waybill) (f : Nat → Bool) (fl : Word) : Prop where
  rest : s' = s.putStr s.curUnit s'.cur
  value : ∀ k l, l < 32 → lane (s'.cur.pget k) l =
    if k = n ∧ n ≠ 7 ∧ lane s.curp.cmask l then f l else lane (s.cur.pget k) l
  waybill : ∀ k, s'.cur.pw k =
    if k = n ∧ n ≠ 7 then
      src ||| predWb s.cur s.curp ||| s.curp.flow ||| (if s.curp.cmask &&& s.cur.lmask = s.cur.lmask then 0 else s.cur.pw n)
    else s.cur.pw k
  sys : ∀ k, s'.cur.reg k = if k = 0x0B1 then s.cur.reg k ||| fl.setWidth 64 else s.cur.reg k
  path : MovedOn s s.curp s'.cur
  frame : { s'.cur with
    p := s.cur.p, pwb := s.cur.pwb, sys := s.cur.sys
    p0 := s.cur.p0, p1 := s.cur.p1, repidx := s.cur.repidx } = s.cur

/-- A uniform result (R314, R315): the n registers from d take the bits of x with the waybill of the sources and the flow waybill. -/
structure UniResult (s s' : State) (d n : Nat) (src : Waybill) (x : Nat) : Prop where
  rest : s' = s.putStr s.curUnit s'.cur
  value : ∀ r, s'.cur.sget r = if d ≤ r ∧ r < d + n then BitVec.ofNat 32 (x / 2 ^ (32 * (r - d))) else s.cur.sget r
  waybill : ∀ r, s'.cur.sw r = if d ≤ r ∧ r < d + n then src ||| s.curp.flow else s.cur.sw r
  poison : ∀ r, r ∈ s'.cur.regPoison ↔ r ∈ s.cur.regPoison ∧ ¬(128 + d ≤ r ∧ r < 128 + d + n)
  path : MovedOn s s.curp s'.cur
  frame : { s'.cur with
    s := s.cur.s, swb := s.cur.swb, regPoison := s.cur.regPoison
    p0 := s.cur.p0, p1 := s.cur.p1, repidx := s.cur.repidx } = s.cur

/-- A uniform predicate result (R297, R315, R320): qt discards it. -/
structure UniPredResult (s s' : State) (n : Nat) (src : Waybill) (x : Bool) : Prop where
  rest : s' = s.putStr s.curUnit s'.cur
  value : ∀ k, k < 8 → s'.cur.qget k = if k = n ∧ n ≠ 7 then x else s.cur.qget k
  waybill : ∀ k, s'.cur.qw k = if k = n ∧ n ≠ 7 then src ||| s.curp.flow else s.cur.qw k
  path : MovedOn s s.curp s'.cur
  frame : { s'.cur with
    q := s.cur.q, qwb := s.cur.qwb, p0 := s.cur.p0, p1 := s.cur.p1, repidx := s.cur.repidx } = s.cur

/-- A lane instruction with two vector sources (R351): its result in each lane of the clause mask, without flags. -/
def Lane2 (i : Instr) (d a b : BitVec 7) (f : Word → Word → Word) : Prop :=
  ∀ s, ready i s = true → Completes i s fun s' =>
    LaneResult s s' d.toNat 1 (s.cur.vw a.toNat ||| s.cur.vw b.toNat) (fun l => (f (s.cur.vget a.toNat l) (s.cur.vget b.toNat l)).toNat) 0

/-- ... that also reads its destination. -/
def Lane3 (i : Instr) (d a b : BitVec 7) (f : Word → Word → Word → Word) : Prop :=
  ∀ s, ready i s = true → Completes i s fun s' =>
    LaneResult s s' d.toNat 1 (s.cur.vw a.toNat ||| s.cur.vw b.toNat ||| s.cur.vw d.toNat)
      (fun l => (f (s.cur.vget a.toNat l) (s.cur.vget b.toNat l) (s.cur.vget d.toNat l)).toNat) 0

/-- ... with one vector source. -/
def Lane1 (i : Instr) (d a : BitVec 7) (f : Word → Word) : Prop :=
  ∀ s, ready i s = true → Completes i s fun s' =>
    LaneResult s s' d.toNat 1 (s.cur.vw a.toNat) (fun l => (f (s.cur.vget a.toNat l)).toNat) 0

/-- A uniform instruction with two sources (R318). -/
def Uni2 (i : Instr) (d a b : BitVec 6) (f : Word → Word → Word) : Prop :=
  ∀ s, ready i s = true → Completes i s fun s' =>
    UniResult s s' d.toNat 1 (s.cur.sw a.toNat ||| s.cur.sw b.toNat) (f (s.cur.sget a.toNat) (s.cur.sget b.toNat)).toNat

/-- ... with one source. -/
def Uni1 (i : Instr) (d a : BitVec 6) (f : Word → Word) : Prop :=
  ∀ s, ready i s = true → Completes i s fun s' =>
    UniResult s s' d.toNat 1 (s.cur.sw a.toNat) (f (s.cur.sget a.toNat)).toNat

/-- A floating-point instruction (R208, R357): bits and flags by lane; the flags of the clause mask's lanes are raised. -/
def LaneF (i : Instr) (d : BitVec 7) (n : Nat) (src : Str → Waybill) (f : Str → Nat → Nat × Word) : Prop :=
  ∀ s, ready i s = true → Completes i s fun s' =>
    LaneResult s s' d.toNat n (src s.cur) (fun l => (f s.cur l).1) (laneFlags s.curp.cmask (fun l => (f s.cur l).2))

/-! ### Where a path goes -/

/-- The issuing path has gone to a clause header, its flow waybill grown by w (R315, R328); of the string only what `t` says has
changed, of the path only its place. -/
structure WentTo (s s' : State) (t : Str) (a : Dword) (w : Waybill) : Prop where
  rest : s' = s.putStr s.curUnit (t.setPath s.curPath s'.curp)
  pc : s'.curp.pc = a
  start : s'.curp.pos = 0
  flow : s'.curp.flow = s.curp.flow ||| w
  afresh : s'.curp.umask = 0 ∧ s'.curp.woken = false
  frame : { s'.curp with
    pc := s.curp.pc, pos := s.curp.pos, words := s.curp.words, hdr := s.curp.hdr, left := s.curp.left, rep := s.curp.rep
    hold := s.curp.hold, parkOp := s.curp.parkOp, skip := s.curp.skip, wrec := s.curp.wrec, due := s.curp.due
    flow := s.curp.flow, missed := s.curp.missed, vals := s.curp.vals, umask := s.curp.umask, woken := s.curp.woken } = s.curp

/-- The issuing path has left its clause for the one after it, H + 4 (LEN + 1), and has the loop end to look at (R328, R334). -/
def FellOut (s s' : State) (w : Waybill) : Prop :=
  WentTo s s' s.cur (s.curp.pc + BitVec.ofNat 64 (4 * (s.curp.words.length + 1))) w ∧ s'.curp.left = some s.curp.pc

/-- The trap of the instruction the issuing path stands at (R251): its address and position, a cause and a value. -/
def Traps (i : Instr) (s : State) (cause : Nat) (tval : Dword) : Prop :=
  exec i s = takeTrap s s.cur ⟨cause, s.curp.here, s.curp.pos, tval, 0, none, none, none, none⟩

/-- The issuing path has gone on after its word, with the flow waybill grown by w and the string otherwise as `t` says. -/
def WentOn (s s' : State) (t : Str) (w : Waybill) : Prop :=
  s' = s.goOn t { s.curp with flow := s.curp.flow ||| w }

/-! ### Accesses -/

/-- An access has passed its checks (R373) in the state `s1`, its lanes placed as `c` says: nothing stops it and nothing parks. -/
def Passed (s : State) (m : MemOp) (ins : List LaneReq) (wb : Waybill) (s1 : State) (c : Checked) : Prop :=
  judge s s.cur s.curp.resumed m ins wb = .go s1 c ∧ c.park = []

/-- The access is under way in `s'` (R136, R137, R233): every lane whose value was not there at once, and that goes to plain memory or on-chip
storage, has its request in flight with its address, its data, its waybill, its scope and its order, under one operation number. -/
def UnderWay (s1 s' : State) (t : Str) (p : Path) (m : MemOp) (wb : Waybill) (c : Checked) : Prop :=
  ∀ e ∈ c.go, e.2.special = false →
    (match e.2 with
      | .glob x => s1.cacheAnswer t p (opNumber s1 p) m x e.1 = none
      | .chip _ _ => True) →
    ∃ r ∈ s'.mem.reqs, r.op = opNumber s1 p ∧ r.unit = s1.curUnit ∧ r.world = t.world ∧ r.wb = wb ∧ r.acq = m.acq ∧ r.rel = m.rel ∧
      r.atop = m.atop ∧
      (match e.2 with
        | .glob x => r.line = x.gpa / 128 ∧ { e.1 with addr := x.gpa } ∈ r.lanes ∧ (x.atom = false → r.kind = m.kind ∧ r.stage = .l2)
        | .chip ph _ => r.space = m.space ∧ r.line = ph / 256 ∧ { e.1 with addr := ph } ∈ r.lanes ∧ r.kind = m.kind ∧ r.stage = .bank)

/-- A memory instruction whose access has passed its checks and parks no lane completes: what is not answered at once is under way, and
the path goes on, standing where the next word stands. -/
def Accesses (i : Instr) (s : State) (m : MemOp) (ins : List LaneReq) (wb : Waybill) : Prop :=
  ready i s = true → ∀ s1 c, Passed s m ins wb s1 c →
    Completes i s fun s' =>
      UnderWay s1 s' s.cur s.curp.resumed m wb c ∧ s'.curp.pos = (advance s.cur s.curp).2.pos ∧ s'.curp.pc = (advance s.cur s.curp).2.pc

/-! ### Engine words -/

/-- An engine word has been accepted (R385, R386, R389, R422): in the state `s1`, which its checks leave, its entry stands in the unit's queue under
the next operation number at an index no other entry has, with the operands read at issue and the issue waybill; its locks are registered, its
tiles' tokens are with the unit and will return to its string, its flag is bound, and it counts as outstanding; the path goes on and the string
is otherwise as `t` says; memory stands. -/
structure Queued (s s1 s' : State) (t : Str) (f : BitVec 1) (unit code : Nat) (tiles vals : List Nat) (src : Waybill)
    (locks : List (Nat × Lock)) : Prop where
  entry : ∃ e, tfind s'.eng.queue s1.nextOp = some e ∧ e.unit = unit ∧ e.code = code ∧ e.core = coreOf s.curUnit ∧ e.party = s.cur.party ∧
    e.who = s.cur.key ∧ e.world = s.cur.world ∧ e.level = s.curp.level ∧ e.st = 1 ∧ e.done = 0 ∧ e.vals = vals ∧ e.tiles = tiles ∧
    e.wb = src ||| s.curp.flow ∧ (∀ x ∈ s1.queueOf unit (coreOf s.curUnit), x.2.idx ≠ e.idx)
  others : ∀ n, n ≠ s1.nextOp → tfind s'.eng.queue n = tfind s1.eng.queue n
  tokens : ∀ k ∈ tiles, s'.tile k = { s1.tile k with token := .eng s.cur.key }
  tiles : ∀ k, k ∉ tiles → s'.tile k = s1.tile k
  locked : ∀ l ∈ locks, { l.2 with op := s1.nextOp } ∈ tget [] s'.mem.locks l.1
  flag : ∀ k, slotFlag s.curp.hdr f = some k → (k, s1.nextOp) ∈ s'.curp.binds
  counted : tget 0 s'.sch.outstanding (outKey s.cur (coreOf s.curUnit)) = tget 0 s1.sch.outstanding (outKey s.cur (coreOf s.curUnit)) + 1
  path : s'.curp.pos = (advance s.cur s.curp).2.pos ∧ s'.curp.pc = (advance s.cur s.curp).2.pc ∧ s'.curp.flow = s.curp.flow
  string : s'.cur.s = t.s ∧ s'.cur.swb = t.swb ∧ s'.cur.v = s.cur.v ∧ s'.cur.vwb = s.cur.vwb ∧ s'.cur.p = s.cur.p ∧ s'.cur.q = s.cur.q ∧
    s'.cur.sys = s.cur.sys
  memory : s'.mem.hbm = s1.mem.hbm ∧ s'.mem.l2 = s1.mem.l2 ∧ s'.mem.sp = s1.mem.sp ∧ s'.mem.cv = s1.mem.cv ∧ s'.mem.dp = s1.mem.dp

/-- HasRoom for an engine word (R150, R282, R386): in its unit's queue, in the lock tables and in the outstanding counter. -/
def HasRoom (s : State) (unit : Nat) (locks : List (Nat × Lock)) : Prop :=
  s.queueFull unit (coreOf s.curUnit) = false ∧ s.locksFit locks = true ∧ tget 0 s.sch.outstanding (outKey s.cur (coreOf s.curUnit)) < 65535

/-- An engine word that finds its tiles' tokens with its string, its operands as `fit` says and room is accepted; one of whose tiles' tokens is
elsewhere is TOKEN; one without room waits, holding its clause (R385, R386, R389). -/
def EngineWord (i : Instr) (s : State) (f : BitVec 1) (unit code : Nat) (tiles vals : List Nat) (src : Waybill) (locks : List (Nat × Lock))
    (fit : Prop) : Prop :=
  ready i s = true →
    ((∃ k ∈ tiles, (s.tile k).token.has s.cur.key = false) → Traps i s cTOKEN (s.curWord.setWidth 64)) ∧
    ((∀ k ∈ tiles, (s.tile k).token.has s.cur.key = true) → fit →
      (HasRoom s unit locks → Completes i s fun s' => Queued s s s' s.cur f unit code tiles vals src locks) ∧
      (s.queueFull unit (coreOf s.curUnit) = true → Completes i s fun s' => s' = s.putIdle s.cur { s.curp with hold := .word }))

/-! ### Placement -/

/-- The next party of a launch of single parties has been placed on a core of die d (R65, R230, R271, R274): its allocations, its strings in
their first state, its launch and queue; the strings of other units stand. -/
structure Placed (s s' : State) (d q id : Nat) (l : Launch) (core : Nat) : Prop where
  party : ∃ r p, s.roomFor l core = some r ∧ tfind s'.sch.parties (id * 2 ^ 24 + l.unitAt d (l.placedOn d)) = some p ∧ p.launch = id ∧
    p.idx = l.unitAt d (l.placedOn d) ∧ p.core = core ∧ p.world = l.world ∧ p.level = l.level ∧ p.spBase = r.sp ∧ p.spSize = l.scr * 16384 ∧
    p.tiles = r.tiles ∧ p.outrs = r.outrs ∧ p.live = l.strings ∧ p.units = r.slots.map (fun k => core * 64 + k) ∧ p.stopping = false ∧
    (∀ i, i < l.strings → ∃ t, s'.str? (core * 64 + r.slots.getD i 0) = some t ∧ t.outrider = false ∧ t.world = l.world ∧ t.launch = id ∧
      t.party = id * 2 ^ 24 + l.unitAt d (l.placedOn d) ∧ t.index = i ∧ t.vblk = l.vblk ∧
      (∀ k, k < 32 → lane t.lmask k = decide (32 * i + k < l.threads)) ∧ t.launchLanes = t.lmask ∧ t.stack = [] ∧
      t.p0 = { Path.blank with pc := BitVec.ofNat 64 (l.num 0 64), state := .running, mask := t.lmask, level := l.level } ∧ t.p1 = Path.blank ∧
      t.spair 0 = BitVec.ofNat 64 (l.num 64 64) ∧ (∀ k, 2 ≤ k → t.sget k = 0) ∧ (∀ k j, t.vget k j = 0) ∧ (∀ k, t.pget k = if k = 7 then t.pget 7 else 0) ∧
      t.q = 0 ∧ (∀ k, t.vw k = 0 ∧ t.sw k = 0 ∧ t.pw k = 0 ∧ t.qw k = 0) ∧ t.sys = []) ∧
    (∀ u, (∀ k ∈ r.slots, u ≠ core * 64 + k) → s'.str? u = s.str? u)
  launch : tfind s'.sch.launches id = some { l with placed := tset 0 l.placed d (l.placedOn d + 1) }
  queue : (s'.queue q).items =
    if (({ l with placed := tset 0 l.placed d (l.placedOn d + 1) } : Launch).whole) = true then (s.queue q).items.filter (fun x => x != id)
    else (s.queue q).items
  asked : tfind s'.sch.preqs (d * 4096 + q) = none
  served : tget 4096 s'.sch.turn (d * 4 + s.prioNow q) = q

/-- The core R274 chooses among those of a die where the launch's next party fits: the fewest resident strings, then the lowest number. -/
def BestCore (s : State) (d id : Nat) (l : Launch) (core : Nat) : Prop :=
  d * 96 ≤ core ∧ core < d * 96 + 96 ∧ s.fits id l [core] = true ∧
    ∀ c, d * 96 ≤ c → c < d * 96 + 96 → s.fits id l [c] = true →
      s.siteLoad [core] < s.siteLoad [c] ∨ (s.siteLoad [core] = s.siteLoad [c] ∧ core ≤ c)

/-! ### Resets -/

/-- What a reset does before anything else (R435, R468, R474): everything stops and everything volatile is erased, the keys are new, DRAM and
what is non-volatile stay, and the cause is recorded. -/
structure Erased (s s' : State) (cause : Nat) : Prop where
  stopped : s'.strs = [] ∧ s'.stored = [] ∧ s'.sch = State.reset.sch ∧ s'.eng = State.reset.eng ∧ s'.way = State.reset.way ∧
    s'.fab = State.reset.fab ∧ s'.xl = State.reset.xl
  memory : s'.mem = { MemS.reset with hbm := s.mem.hbm, keyed := s.mem.keyed, hpoison := s.mem.hpoison }
  trust : s'.tr.policies = [] ∧ s'.tr.attested = [] ∧ s'.tr.origins = [] ∧ s'.tr.meas = [] ∧ s'.tr.log = []
  keys : ∀ w, w < 256 → s.tr.nextKey ≤ s'.memKey w ∧ ∀ v, v < 256 → s'.memKey w = s'.memKey v → w = v
  kept : s'.nv = s.nv
  mono : s.nv.mono + 2 ^ 20 < 2 ^ 64 → s'.mono = s.nv.mono + 2 ^ 20
  time : s'.time = 0
  cause : s'.pkg 0x0F5 = BitVec.ofNat 64 cause
  regs : (∀ k, k < 4096 → k ≠ 0x0E6 → k ≠ 0x0F5 → s'.pkg k = regReset k) ∧ s'.worldRegs = [] ∧ s'.partRegs = []
  boot : s'.boot = BootS.reset
  bootKey : s.tr.bootKey < s'.tr.bootKey ∧ s'.tr.bootLeaf = 0

/-- An accepted firmware image is stored, and a higher version raises the minimum (R470). -/
def Accepted (s s' : State) (img : List Byte) : Prop :=
  s'.nv.image = img ∧ s'.nv.minVer = max s.nv.minVer (ofBytes ((img.drop 4).take 4)) ∧ s'.boot.verified = true ∧
    s' = { s with nv := s'.nv, boot := s'.boot } ∧ s'.nv = { s.nv with image := s'.nv.image, minVer := s'.nv.minVer } ∧
    s'.boot = { s.boot with verified := true, bstat := s'.boot.bstat }

end Sys2Proof.Machine
end

