-- ==== Sys2Proof/Certificates/Slice0/Obligations.lean ====
section
/-! DEFINITION. The statements for the provers. -/

open Sys2Proof Sys2Proof.Machine

/-! ### Lane instructions -/

/-- R351: the two-register integer instructions, except shifts.
R351 to R353: shifts, counts, fields and the immediate and uniform forms. A shift count of 32 or more empties the word, or fills it
with its sign. The bits of BFX and BFI are said one by one. -/
def Obligations.LaneIntegerAndBits : Prop :=
  (∀ d a b : BitVec 7,
    (∀ m : BitVec 3, m = 0 → Lane2 (.iadd d a b m) d a b (fun x y => x + y)) ∧
    Lane2 (.iadd d a b 1) d a b (fun x y => BitVec.ofInt 32 (max (-2 ^ 31) (min (2 ^ 31 - 1) (x.toInt + y.toInt)))) ∧
    Lane2 (.iadd d a b 2) d a b (fun x y => BitVec.ofNat 32 (min (2 ^ 32 - 1) (x.toNat + y.toNat))) ∧
    (∀ m : BitVec 3, m = 0 → Lane2 (.isub d a b m) d a b (fun x y => x - y)) ∧
    Lane2 (.isub d a b 1) d a b (fun x y => BitVec.ofInt 32 (max (-2 ^ 31) (min (2 ^ 31 - 1) (x.toInt - y.toInt)))) ∧
    Lane2 (.isub d a b 2) d a b (fun x y => BitVec.ofInt 32 (max 0 ((x.toNat : Int) - y.toNat))) ∧
    Lane2 (.imul d a b) d a b (fun x y => BitVec.ofNat 32 (x.toNat * y.toNat)) ∧
    Lane2 (.imulh d a b 0) d a b (fun x y => BitVec.ofInt 32 (x.toInt * y.toInt / 2 ^ 32)) ∧
    Lane2 (.imulh d a b 1) d a b (fun x y => BitVec.ofNat 32 (x.toNat * y.toNat / 2 ^ 32)) ∧
    Lane3 (.imad d a b) d a b (fun x y z => BitVec.ofNat 32 (x.toNat * y.toNat + z.toNat)) ∧
    Lane2 (.imin d a b 0) d a b (fun x y => BitVec.ofInt 32 (min x.toInt y.toInt)) ∧
    Lane2 (.imin d a b 1) d a b (fun x y => BitVec.ofNat 32 (min x.toNat y.toNat)) ∧
    Lane2 (.imax d a b 0) d a b (fun x y => BitVec.ofInt 32 (max x.toInt y.toInt)) ∧
    Lane2 (.imax d a b 1) d a b (fun x y => BitVec.ofNat 32 (max x.toNat y.toNat)) ∧
    Lane2 (.iabsd d a b 0) d a b (fun x y => BitVec.ofNat 32 (x.toInt - y.toInt).natAbs) ∧
    Lane2 (.iabsd d a b 1) d a b (fun x y => BitVec.ofNat 32 (max x.toNat y.toNat - min x.toNat y.toNat)) ∧
    Lane2 (.andV d a b) d a b (fun x y => x &&& y) ∧
    Lane2 (.orV d a b) d a b (fun x y => x ||| y) ∧
    Lane2 (.xor d a b) d a b (fun x y => x ^^^ y) ∧
    Lane2 (.andn d a b) d a b (fun x y => x &&& ~~~y)) ∧
  (∀ d a b : BitVec 7, ∀ u : BitVec 6, ∀ imm : BitVec 10, ∀ n : BitVec 5,
    Lane2 (.shl d a b) d a b (fun x y => BitVec.ofNat 32 (x.toNat * 2 ^ (y.toNat % 64))) ∧
    Lane2 (.shr d a b) d a b (fun x y => BitVec.ofNat 32 (x.toNat / 2 ^ (y.toNat % 64))) ∧
    Lane2 (.sra d a b) d a b (fun x y => BitVec.ofInt 32 (x.toInt / 2 ^ (y.toNat % 64))) ∧
    (∀ t, Lane2 (.bfx d a b t) d a b (bitExtract t)) ∧
    Lane3 (.bfi d a b) d a b (fun x y z => bitInsert z x y) ∧
    Lane1 (.popc d a) d a (fun x => BitVec.ofNat 32 ((List.range 32).filter (fun k => x.getLsbD k)).length) ∧
    Lane1 (.clz d a) d a (fun x => if x = 0 then 32 else BitVec.ofNat 32 (31 - Nat.log2 x.toNat)) ∧
    Lane1 (.brev d a) d a (fun x => x.reverse) ∧
    (∀ s, ready (.movi d imm) s = true → Completes (.movi d imm) s fun s' => LaneResult s s' d.toNat 1 0 (fun _ => (imm.signExtend 32).toNat) 0) ∧
    Lane1 (.iaddi d a imm) d a (fun x => x + imm.signExtend 32) ∧
    Lane1 (.andi d a imm) d a (fun x => x &&& imm.setWidth 32) ∧
    Lane1 (.ori d a imm) d a (fun x => x ||| imm.setWidth 32) ∧
    Lane1 (.xori d a imm) d a (fun x => x ^^^ imm.setWidth 32) ∧
    Lane1 (.shli d a n) d a (fun x => x <<< n.toNat) ∧
    Lane1 (.shri d a n) d a (fun x => x >>> n.toNat) ∧
    Lane1 (.srai d a n) d a (fun x => x.sshiftRight n.toNat) ∧
    (∀ m s, ready (.iadds d a u m) s = true → Completes (.iadds d a u m) s fun s' =>
      LaneResult s s' d.toNat 1 (s.cur.vw a.toNat ||| s.cur.sw u.toNat)
        (fun l =>
          let x := s.cur.vget a.toNat l
          let y := s.cur.sget u.toNat
          (match m.toNat with
          | 0 => x + y
          | 1 => BitVec.ofInt 32 (max (-2 ^ 31) (min (2 ^ 31 - 1) (x.toInt + y.toInt)))
          | _ => BitVec.ofNat 32 (min (2 ^ 32 - 1) (x.toNat + y.toNat))).toNat) 0) ∧
    (∀ s, ready (.movs d u) s = true → Completes (.movs d u) s fun s' =>
      LaneResult s s' d.toNat 1 (s.cur.sw u.toNat) (fun _ => (s.cur.sget u.toNat).toNat) 0) ∧
    (∀ (t : BitVec 1) (x y : Word) (k : Nat), k < 32 → (bitExtract t x y).getLsbD k =
      (let pos := y.toNat % 32
       let w := min (y.toNat / 256 % 64) (32 - pos)
       if k < w then x.getLsbD (pos + k) else decide (0 < w) && t == 1 && x.getLsbD (pos + w - 1))) ∧
    (∀ (z x y : Word) (k : Nat), k < 32 → (bitInsert z x y).getLsbD k =
      (let pos := y.toNat % 32
       let w := min (y.toNat / 256 % 64) (32 - pos)
       if pos ≤ k ∧ k < pos + w then x.getLsbD (k - pos) else z.getLsbD k)))

/-- R354 to R356: comparisons, selection, movement and byte permutation. -/
def Obligations.LaneCompareAndMove : Prop :=
  ∀ (d a b : BitVec 7) (u : BitVec 6) (p : BitVec 3),
    (∀ c s, ready (.icmp p a b c) s = true → Completes (.icmp p a b c) s fun s' =>
      PredResult s s' p.toNat (s.cur.vw a.toNat ||| s.cur.vw b.toNat)
        (fun l =>
          let x := s.cur.vget a.toNat l
          let y := s.cur.vget b.toNat l
          match c.toNat with
          | 0 => decide (x = y)
          | 1 => decide (x ≠ y)
          | 2 => decide (x.toInt < y.toInt)
          | 3 => decide (x.toInt ≤ y.toInt)
          | 4 => decide (x.toNat < y.toNat)
          | _ => decide (x.toNat ≤ y.toNat)) 0) ∧
    (∀ (t : BitVec 1) c s, ready (.icmps p a u t c) s = true → Completes (.icmps p a u t c) s fun s' =>
      PredResult s s' p.toNat (s.cur.vw a.toNat ||| s.cur.sw u.toNat)
        (fun l =>
          let v := fun (w : Word) => if t = 0 then w.toInt else (w.toNat : Int)
          let x := v (s.cur.vget a.toNat l)
          let y := v (s.cur.sget u.toNat)
          match c.toNat with
          | 0 => decide (x = y)
          | 1 => decide (x ≠ y)
          | 2 => decide (x < y)
          | 3 => decide (x ≤ y)
          | 4 => decide (y < x)
          | _ => decide (y ≤ x)) 0) ∧
    (∀ s, ready (.sel d a b p) s = true → Completes (.sel d a b p) s fun s' =>
      LaneResult s s' d.toNat 1 (s.cur.vw a.toNat ||| s.cur.vw b.toNat ||| s.cur.pw p.toNat)
        (fun l => (s.cur.vget (if lane (s.cur.pget p.toNat) l then a.toNat else b.toNat) l).toNat) 0) ∧
    Lane1 (.mov d a) d a (fun x => x) ∧
    (∀ s, ready (.lane d 0) s = true → Completes (.lane d 0) s fun s' => LaneResult s s' d.toNat 1 0 (fun l => l) 0) ∧
    (∀ s, ready (.lane d 1) s = true → Completes (.lane d 1) s fun s' => LaneResult s s' d.toNat 1 0 (fun l => 2 ^ l - 1) 0) ∧
    Lane3 (.prmt d a b) d a b (fun x y z => bytePermute x z y) ∧
    (∀ s, ready (.prmts d a u) s = true → Completes (.prmts d a u) s fun s' =>
      LaneResult s s' d.toNat 1 (s.cur.vw a.toNat ||| s.cur.vw d.toNat ||| s.cur.sw u.toNat)
        (fun l => (bytePermute (s.cur.vget a.toNat l) (s.cur.vget d.toNat l) (s.cur.sget u.toNat)).toNat) 0) ∧
    (∀ (x z sel : Word) (k : Nat), k < 4 → (bytePermute x z sel).extractLsb' (8 * k) 8 =
      (let src := (z ++ x).extractLsb' (8 * (sel.extractLsb' (8 * k) 3).toNat) 8
       match (sel.extractLsb' (8 * k + 3) 2).toNat with
       | 0 => src
       | 1 => 0
       | 2 => if src.msb then 0xFF else 0
       | _ => 0xFF)) ∧
    Encodes 0x16 (fun w => .icmp (w.extractLsb' 17 3) (w.extractLsb' 10 7) (w.extractLsb' 3 7) (w.extractLsb' 0 3))
      (fun w => w.extractLsb' 20 4 = 0 ∧ (w.extractLsb' 0 3).toNat ≤ 5) ∧
    Encodes 0x23 (fun w => .icmps (w.extractLsb' 17 3) (w.extractLsb' 10 7) (w.extractLsb' 4 6) (w.extractLsb' 3 1) (w.extractLsb' 0 3))
      (fun w => w.extractLsb' 20 4 = 0 ∧ (w.extractLsb' 0 3).toNat ≤ 5) ∧
    Encodes 0x17 (fun w => .sel (w.extractLsb' 17 7) (w.extractLsb' 10 7) (w.extractLsb' 3 7) (w.extractLsb' 0 3)) (fun _ => True) ∧
    Encodes 0x18 (fun w => .mov (w.extractLsb' 17 7) (w.extractLsb' 10 7)) (fun w => w.extractLsb' 0 10 = 0) ∧
    Encodes 0x24 (fun w => .lane (w.extractLsb' 17 7) (w.extractLsb' 0 3)) (fun w => w.extractLsb' 3 14 = 0 ∧ (w.extractLsb' 0 3).toNat ≤ 1) ∧
    Encodes 0x14 (fun w => .prmt (w.extractLsb' 17 7) (w.extractLsb' 10 7) (w.extractLsb' 3 7)) (fun w => w.extractLsb' 0 3 = 0) ∧
    Encodes 0x15 (fun w => .prmts (w.extractLsb' 17 7) (w.extractLsb' 10 7) (w.extractLsb' 4 6)) (fun w => w.extractLsb' 0 4 = 0)

/-- R369 to R371: values move between the lanes of a string, and are counted over the clause mask. -/
def Obligations.AcrossLanes : Prop :=
  ∀ (d a b : BitVec 7) (p : BitVec 3),
    (∀ (g : BitVec 1) (m : BitVec 2) s, ready (.shfl d a b g m) s = true → Completes (.shfl d a b g m) s fun s' =>
      LaneResult s s' d.toNat 1 (s.cur.vw a.toNat ||| s.cur.vw b.toNat ||| s.cur.vw d.toNat)
        (fun l =>
          let w := if g = 0 then 32 else 4
          let r := l % w
          let x := (s.cur.vget b.toNat l).toNat % 32 % w
          let t : Nat := match m.toNat with
            | 0 => x
            | 1 => (r + x) % w
            | 2 => (((x : Int) - r) % w).toNat
            | _ => r ^^^ x
          let src := l - r + t
          (s.cur.vget (if lane s.curp.cmask src then a.toNat else d.toNat) (if lane s.curp.cmask src then src else l)).toNat) 0) ∧
    (∀ (m : BitVec 3) s, ready (.vote d p m) s = true → Completes (.vote d p m) s fun s' =>
      LaneResult s s' d.toNat 1 (s.cur.pw p.toNat)
        (fun l =>
          let yes := (List.range 32).filter (fun k => lane s.curp.cmask k && lane (s.cur.pget p.toNat) k)
          match m.toNat with
          | 0 => (s.curp.cmask &&& s.cur.pget p.toNat).toNat
          | 1 => yes.length
          | 2 => (yes.filter (fun k => decide (k < l))).length
          | 3 => yes.headD 32
          | _ => yes.getLastD 32) 0) ∧
    (∀ (k : BitVec 2) (w : BitVec 1) s, ready (.matchV d a k w) s = true → Completes (.matchV d a k w) s fun s' =>
      LaneResult s s' d.toNat 1 (if w = 1 then s.cur.vw a.toNat ||| s.cur.vw (a.toNat + 1) else s.cur.vw a.toNat)
        (fun l =>
          let same := (List.range 32).filter (fun x => lane s.curp.cmask x && decide (s.cur.vget a.toNat x = s.cur.vget a.toNat l) &&
            (w != 1 || decide (s.cur.vget (a.toNat + 1) x = s.cur.vget (a.toNat + 1) l)))
          match k.toNat with
          | 0 => same.headD 0
          | 1 => same.length
          | _ => (same.filter (fun x => decide (x < l))).length) 0) ∧
    Encodes 0x3C (fun w => .shfl (w.extractLsb' 17 7) (w.extractLsb' 10 7) (w.extractLsb' 3 7) (w.extractLsb' 2 1) (w.extractLsb' 0 2)) (fun _ => True) ∧
    Encodes 0x3D (fun w => .vote (w.extractLsb' 17 7) (w.extractLsb' 10 3) (w.extractLsb' 0 3))
      (fun w => w.extractLsb' 13 4 = 0 ∧ w.extractLsb' 3 7 = 0 ∧ (w.extractLsb' 0 3).toNat ≤ 4) ∧
    Encodes 0x3E (fun w => .matchV (w.extractLsb' 17 7) (w.extractLsb' 10 7) (w.extractLsb' 1 2) (w.extractLsb' 0 1))
      (fun w => w.extractLsb' 3 7 = 0 ∧ w.extractLsb' 1 2 ≠ 3 ∧ (w.extractLsb' 0 1 = 1 → w.extractLsb' 10 1 = 0))

/-- R358, R362, R363: floating-point arithmetic completes with the rounded results, and the flags of the clause mask's lanes are raised.
FMIN, FMAX, FCMP and FABS have statements of their own.
R364 to R368: conversions complete; CVT of a group reads and writes the registers its types take. -/
def Obligations.LaneFloatAndConversions : Prop :=
  (∀ (d a b : BitVec 7) (u : BitVec 6) (ty : BitVec 1),
    LaneF (.fadd d a b ty) d 1 (fun t => t.vw a.toNat ||| t.vw b.toNat)
      (fun t l => byType ty (fun f x y _ => fAdd f t.rm x y) (t.vget a.toNat l) (t.vget b.toNat l) 0) ∧
    LaneF (.fmul d a b ty) d 1 (fun t => t.vw a.toNat ||| t.vw b.toNat)
      (fun t l => byType ty (fun f x y _ => fMul f t.rm x y) (t.vget a.toNat l) (t.vget b.toNat l) 0) ∧
    LaneF (.ffma d a b ty) d 1 (fun t => t.vw a.toNat ||| t.vw b.toNat ||| t.vw d.toNat)
      (fun t l => byType ty (fun f x y z => fFma f t.rm x y z) (t.vget a.toNat l) (t.vget b.toNat l) (t.vget d.toNat l)) ∧
    LaneF (.fadds d a u ty) d 1 (fun t => t.vw a.toNat ||| t.sw u.toNat)
      (fun t l => byType ty (fun f x y _ => fAdd f t.rm x y) (t.vget a.toNat l) (t.sget u.toNat) 0) ∧
    LaneF (.fmuls d a u ty) d 1 (fun t => t.vw a.toNat ||| t.sw u.toNat)
      (fun t l => byType ty (fun f x y _ => fMul f t.rm x y) (t.vget a.toNat l) (t.sget u.toNat) 0) ∧
    LaneF (.ffmas d a u ty) d 1 (fun t => t.vw a.toNat ||| t.sw u.toNat ||| t.vw d.toNat)
      (fun t l => byType ty (fun f x y z => fFma f t.rm x y z) (t.vget a.toNat l) (t.sget u.toNat) (t.vget d.toNat l)) ∧
    LaneF (.frcp d a) d 1 (fun t => t.vw a.toNat) (fun t l => fRcp t.rm (t.vget a.toNat l).toNat) ∧
    LaneF (.fsqrt d a) d 1 (fun t => t.vw a.toNat) (fun t l => fSqrt t.rm (t.vget a.toNat l).toNat) ∧
    LaneF (.frsq d a) d 1 (fun t => t.vw a.toNat) (fun t l => fRsq (t.vget a.toNat l).toNat) ∧
    LaneF (.fexp2 d a) d 1 (fun t => t.vw a.toNat) (fun t l => fExp2 (t.vget a.toNat l).toNat) ∧
    LaneF (.flog2 d a) d 1 (fun t => t.vw a.toNat) (fun t l => fLog2 (t.vget a.toNat l).toNat) ∧
    LaneF (.fdot2 d a b) d 1 (fun t => t.vw a.toNat ||| t.vw b.toNat ||| t.vw d.toNat)
      (fun t l => fDot2 t.rm (t.vget a.toNat l).toNat (t.vget b.toNat l).toNat (t.vget d.toNat l).toNat)) ∧
  (∀ (d a b : BitVec 7) (r : BitVec 2),
    (∀ x y, LaneF (.cvt d a x y r) d (cvtRegs x) (fun t => t.vws a.toNat (cvtRegs y))
      (fun t l => cvtValue x.toNat y.toNat (rcRound t r.toNat) (t.vgroup a.toNat (cvtRegs y) l))) ∧
    (∀ k f sc : BitVec 2, LaneF (.cvtb d a k f sc r) d 1 (fun t => t.vws a.toNat (if sc = 1 then 2 else 1) ||| t.vw d.toNat)
      (fun t l =>
        let e := cvtbElem k.toNat f.toNat sc.toNat (rcRound t r.toNat) (t.vgroup a.toNat (if sc = 1 then 2 else 1) l)
        let w := if f = 2 then 16 else 8
        (replaceBits (t.vget d.toNat l).toNat (w * k.toNat) w e.1, e.2))) ∧
    (∀ k f, LaneF (.unpkl d a k f) d 1 (fun t => t.vw a.toNat) (fun t l => unpackElem k.toNat f.toNat (t.vget a.toNat l).toNat)) ∧
    LaneF (.packh d a b r) d 1 (fun t => t.vw a.toNat ||| t.vw b.toNat)
      (fun t l =>
        let lo := convF fF32 fBF16 (rcRound t r.toNat) (t.vget a.toNat l).toNat
        let hi := convF fF32 fBF16 (rcRound t r.toNat) (t.vget b.toNat l).toNat
        (lo.1 + hi.1 * 65536, lo.2 ||| hi.2)) ∧
    (∀ (w v old : Nat) (k j : Nat), old < 2 ^ 32 → w * k + w ≤ 32 → j < 32 → (replaceBits old (w * k) w v).testBit j =
      if w * k ≤ j ∧ j < w * k + w then v.testBit (j - w * k) else old.testBit j))

/-- R359: FMIN and FMAX on each element of F32 or BF16: the other operand where one is a NaN, the canonical NaN where both are, otherwise
the operand that is less or greater with -0 below +0; only a signalling NaN raises IV. Elements are given by their format's number of
fraction bits.
R360: FCMP writes a lane predicate from the comparison of F32 values, zeros equal, and raises IV as each condition says.
R361: FABS acts on the sign bit of each element only, and raises no flag.
R361: FABS's word, of which the sign mode 3 is ILLEGAL. -/
def Obligations.FloatSelectionAndSign : Prop :=
  ((∀ (d a b : BitVec 7) (ty : BitVec 1),
    LaneF (.fmin d a b ty) d 1 (fun t => t.vw a.toNat ||| t.vw b.toNat)
      (fun t l => byType ty (fun f x y _ => fMinMax f false x y) (t.vget a.toNat l) (t.vget b.toNat l) 0) ∧
    LaneF (.fmax d a b ty) d 1 (fun t => t.vw a.toNat ||| t.vw b.toNat)
      (fun t l => byType ty (fun f x y _ => fMinMax f true x y) (t.vget a.toNat l) (t.vget b.toNat l) 0)) ∧
  ∀ (f : Nat) (up : Bool) (x y : Nat), f = 23 ∨ f = 7 → x < 2 ^ (f + 9) → y < 2 ^ (f + 9) →
    let nan := fun w : Nat => decide (255 * 2 ^ f < w % 2 ^ (f + 8))
    let signalling := fun w : Nat => nan w && decide (w / 2 ^ (f - 1) % 2 = 0)
    let key := fun w : Nat => if 2 ^ (f + 8) ≤ w then -1 - ((w % 2 ^ (f + 8) : Nat) : Int) else (w : Int)
    fMinMax f up x y =
      (if nan x && nan y then 511 * 2 ^ (f - 1)
       else if nan x then y
       else if nan y then x
       else if up then (if key x < key y then y else x)
       else (if key x < key y then x else y),
       if signalling x || signalling y then 0x10 else 0) ∧
    Encodes 0x2B (fun w => .fmin (w.extractLsb' 17 7) (w.extractLsb' 10 7) (w.extractLsb' 3 7) (w.extractLsb' 0 1)) (fun w => w.extractLsb' 1 2 = 0) ∧
    Encodes 0x2C (fun w => .fmax (w.extractLsb' 17 7) (w.extractLsb' 10 7) (w.extractLsb' 3 7) (w.extractLsb' 0 1)) (fun w => w.extractLsb' 1 2 = 0)) ∧
  (Encodes 0x2D (fun w => .fcmp (w.extractLsb' 17 3) (w.extractLsb' 10 7) (w.extractLsb' 3 7) (w.extractLsb' 0 3))
    (fun w => w.extractLsb' 20 4 = 0 ∧ (w.extractLsb' 0 3).toNat ≤ 5) ∧
  ∀ (p : BitVec 3) (a b : BitVec 7) (c : BitVec 3) (s : State), ready (.fcmp p a b c) s = true →
    let nan := fun w : Word => decide (0x7F800000 < w.toNat % 2 ^ 31)
    let signalling := fun w : Word => nan w && !w.getLsbD 22
    let val := fun w : Word => if w.msb then -((w.toNat % 2 ^ 31 : Nat) : Int) else (w.toNat : Int)
    let un := fun l => nan (s.cur.vget a.toNat l) || nan (s.cur.vget b.toNat l)
    let sn := fun l => signalling (s.cur.vget a.toNat l) || signalling (s.cur.vget b.toNat l)
    let x := fun l => val (s.cur.vget a.toNat l)
    let y := fun l => val (s.cur.vget b.toNat l)
    Completes (.fcmp p a b c) s fun s' =>
      PredResult s s' p.toNat (s.cur.vw a.toNat ||| s.cur.vw b.toNat)
        (fun l => match c.toNat with
          | 0 => !un l && decide (x l = y l)
          | 1 => un l || decide (x l ≠ y l)
          | 2 => !un l && decide (x l < y l)
          | 3 => !un l && decide (x l ≤ y l)
          | 4 => un l
          | _ => !un l)
        (if (List.range 32).any (fun l => lane s.curp.cmask l && (if c.toNat = 2 ∨ c.toNat = 3 then un l else sn l)) then 0x10 else 0)) ∧
  (∀ (d a : BitVec 7) (k : BitVec 2) (ty : BitVec 1) (s : State), ready (.fabs d a k ty) s = true →
    Completes (.fabs d a k ty) s fun s' =>
      LaneResult s s' d.toNat 1 (s.cur.vw a.toNat)
        (fun l =>
          let x := s.cur.vget a.toNat l
          let m : Word := if ty = 0 then 0x80000000 else 0x80008000
          (match k.toNat with
          | 0 => x &&& ~~~m
          | 1 => x ^^^ m
          | _ => x ||| m).toNat) 0) ∧
  (Encodes 0x2E (fun w => .fabs (w.extractLsb' 17 7) (w.extractLsb' 10 7) (w.extractLsb' 1 2) (w.extractLsb' 0 1))
    (fun w => w.extractLsb' 3 7 = 0 ∧ w.extractLsb' 1 2 ≠ 3))

/-- R201, R203: the exact value of any finite number of F32, BF16 or A40 rounds to that number, in every direction and without a flag. -/
def Obligations.RoundingKeepsExactValues : Prop :=
  ∀ (f rm : Nat) (ieee : Bool) (bits : Nat) (neg : Bool) (m : Nat) (e : Int),
    f = 23 ∨ f = 7 ∨ f = 31 → bits < 2 ^ (f + 9) → unpackF f bits = .fin neg m e → roundF f rm ieee neg m e = (bits, 0)

/-! ### Uniform instructions -/

/-- R318, R319: uniform arithmetic.
R320 to R322, R297: comparison, selection, uniform predicates and 64-bit addition. -/
def Obligations.UniformInstructions : Prop :=
  (∀ (d a b : BitVec 6) (imm : BitVec 12) (n : BitVec 5) (c : BitVec 18),
    Uni2 (.sadd d a b) d a b (fun x y => x + y) ∧
    Uni2 (.ssub d a b) d a b (fun x y => x - y) ∧
    Uni2 (.smul d a b) d a b (fun x y => BitVec.ofNat 32 (x.toNat * y.toNat)) ∧
    Uni2 (.smulh d a b 0) d a b (fun x y => BitVec.ofInt 32 (x.toInt * y.toInt / 2 ^ 32)) ∧
    Uni2 (.smulh d a b 1) d a b (fun x y => BitVec.ofNat 32 (x.toNat * y.toNat / 2 ^ 32)) ∧
    Uni2 (.sand d a b) d a b (fun x y => x &&& y) ∧
    Uni2 (.sor d a b) d a b (fun x y => x ||| y) ∧
    Uni2 (.sxor d a b) d a b (fun x y => x ^^^ y) ∧
    Uni2 (.sshl d a b) d a b (fun x y => BitVec.ofNat 32 (x.toNat * 2 ^ (y.toNat % 64))) ∧
    Uni2 (.sshr d a b) d a b (fun x y => BitVec.ofNat 32 (x.toNat / 2 ^ (y.toNat % 64))) ∧
    Uni2 (.ssra d a b) d a b (fun x y => BitVec.ofInt 32 (x.toInt / 2 ^ (y.toNat % 64))) ∧
    Uni2 (.smin d a b 0) d a b (fun x y => BitVec.ofInt 32 (min x.toInt y.toInt)) ∧
    Uni2 (.smin d a b 1) d a b (fun x y => BitVec.ofNat 32 (min x.toNat y.toNat)) ∧
    Uni2 (.smax d a b 0) d a b (fun x y => BitVec.ofInt 32 (max x.toInt y.toInt)) ∧
    Uni2 (.smax d a b 1) d a b (fun x y => BitVec.ofNat 32 (max x.toNat y.toNat)) ∧
    Uni1 (.smov d a) d a (fun x => x) ∧
    Uni1 (.spopc d a) d a (fun x => BitVec.ofNat 32 ((List.range 32).filter (fun k => x.getLsbD k)).length) ∧
    Uni1 (.sclz d a) d a (fun x => if x = 0 then 32 else BitVec.ofNat 32 (31 - Nat.log2 x.toNat)) ∧
    Uni1 (.saddi d a imm) d a (fun x => x + imm.signExtend 32) ∧
    Uni1 (.sandi d a imm) d a (fun x => x &&& imm.setWidth 32) ∧
    Uni1 (.sori d a imm) d a (fun x => x ||| imm.setWidth 32) ∧
    Uni1 (.sxori d a imm) d a (fun x => x ^^^ imm.setWidth 32) ∧
    Uni1 (.sshli d a n) d a (fun x => x <<< n.toNat) ∧
    Uni1 (.sshri d a n) d a (fun x => x >>> n.toNat) ∧
    (∀ s, ready (.smovi d c) s = true → Completes (.smovi d c) s fun s' => UniResult s s' d.toNat 1 0 (c.signExtend 32).toNat) ∧
    (∀ s, ready (.slui d c) s = true → Completes (.slui d c) s fun s' =>
      UniResult s s' d.toNat 1 (s.cur.sw d.toNat) (c.toNat * 2 ^ 14 + (s.cur.sget d.toNat).toNat % 2 ^ 14))) ∧
  (∀ (d a b : BitVec 6) (q x y : BitVec 3) (t e : BitVec 1),
    let cond : BitVec 3 → Word → Word → Bool := fun (c : BitVec 3) (i j : Word) =>
      let v := fun (w : Word) => if t = 0 then w.toInt else (w.toNat : Int)
      match c.toNat with
      | 0 => decide (i = j)
      | 1 => decide (i ≠ j)
      | 2 => decide (v i < v j)
      | 3 => decide (v i ≤ v j)
      | 4 => decide (v j < v i)
      | _ => decide (v j ≤ v i)
    (∀ c s, ready (.scmp q a b t c) s = true → Completes (.scmp q a b t c) s fun s' =>
      UniPredResult s s' q.toNat (s.cur.sw a.toNat ||| s.cur.sw b.toNat) (cond c (s.cur.sget a.toNat) (s.cur.sget b.toNat))) ∧
    (∀ c imm s, ready (.scmpi q a c t imm) s = true → Completes (.scmpi q a c t imm) s fun s' =>
      UniPredResult s s' q.toNat (s.cur.sw a.toNat) (cond c (s.cur.sget a.toNat) (imm.signExtend 32))) ∧
    (∀ s, ready (.ssel d a b e q) s = true → Completes (.ssel d a b e q) s fun s' =>
      UniResult s s' d.toNat 1 (s.cur.sw a.toNat ||| s.cur.sw b.toNat ||| s.cur.qw q.toNat)
        (s.cur.sget (if s.cur.qget q.toNat = (e == 0) then a.toNat else b.toNat)).toNat) ∧
    (∀ tt s, ready (.qop q x y tt) s = true → Completes (.qop q x y tt) s fun s' =>
      UniPredResult s s' q.toNat (s.cur.qw x.toNat ||| s.cur.qw y.toNat)
        (tt.getLsbD ((s.cur.qget x.toNat).toNat * 2 + (s.cur.qget y.toNat).toNat))) ∧
    (∀ s, ready (.sadd64 d a b 0) s = true → Completes (.sadd64 d a b 0) s fun s' =>
      UniResult s s' d.toNat 2 (s.cur.sw a.toNat ||| s.cur.sw (a.toNat + 1) ||| (s.cur.sw b.toNat ||| s.cur.sw (b.toNat + 1)))
        (s.cur.spair a.toNat + s.cur.spair b.toNat).toNat) ∧
    (∀ s, ready (.sadd64 d a b 1) s = true → Completes (.sadd64 d a b 1) s fun s' =>
      UniResult s s' d.toNat 2 (s.cur.sw a.toNat ||| s.cur.sw (a.toNat + 1) ||| s.cur.sw b.toNat)
        (s.cur.spair a.toNat + (s.cur.sget b.toNat).signExtend 64).toNat) ∧
    (∀ s, ready (.sadd64 d a b 2) s = true → Completes (.sadd64 d a b 2) s fun s' =>
      UniResult s s' d.toNat 2 (s.cur.sw a.toNat ||| s.cur.sw (a.toNat + 1) ||| s.cur.sw b.toNat)
        (s.cur.spair a.toNat + (s.cur.sget b.toNat).setWidth 64).toNat))

/-- R325 to R327: values between the lanes and the string. -/
def Obligations.BetweenLanesAndString : Prop :=
  ∀ (d b : BitVec 6) (v : BitVec 7) (p : BitVec 3) (s : State),
    (∀ o, ready (.redv d v o) s = true → Completes (.redv d v o) s fun s' =>
      UniResult s s' d.toNat 1 (s.cur.vw v.toNat ||| predWb s.cur s.curp)
        (reduceList o.toNat (((List.range 32).filter (lane s.curp.cmask)).map (fun l => s.cur.vget v.toNat l))).toNat) ∧
    (∀ k : BitVec 2, ready (.lmask d p k) s = true → Completes (.lmask d p k) s fun s' =>
      UniResult s s' d.toNat 1 ((if k = 0 then s.cur.pw p.toNat else 0) ||| predWb s.cur s.curp)
        (match k.toNat with
        | 0 => s.curp.cmask &&& s.cur.pget p.toNat
        | 1 => s.curp.cmask
        | 2 => s.curp.mask
        | _ => s.cur.lmask).toNat) ∧
    (ready (.bcast d v b 0) s = true → Completes (.bcast d v b 0) s fun s' =>
      UniResult s s' d.toNat 1 (s.cur.vw v.toNat ||| predWb s.cur s.curp)
        (s.cur.vget v.toNat (((List.range 32).filter (lane s.curp.cmask)).headD 0)).toNat) ∧
    (ready (.bcast d v b 1) s = true → Completes (.bcast d v b 1) s fun s' =>
      UniResult s s' d.toNat 1 (s.cur.vw v.toNat ||| s.cur.sw b.toNat) (s.cur.vget v.toNat ((s.cur.sget b.toNat).toNat % 32)).toNat) ∧
    (∀ (x : Word) (l : List Word),
      let r := fun k : Nat => reduceList k (x :: l)
      (r 0).toNat = ((x :: l).map BitVec.toNat).sum % 2 ^ 32 ∧
      (r 1 ∈ x :: l ∧ ∀ y ∈ x :: l, (r 1).toInt ≤ y.toInt) ∧ (r 2 ∈ x :: l ∧ ∀ y ∈ x :: l, y.toInt ≤ (r 2).toInt) ∧
      (r 3 ∈ x :: l ∧ ∀ y ∈ x :: l, (r 3).toNat ≤ y.toNat) ∧ (r 4 ∈ x :: l ∧ ∀ y ∈ x :: l, y.toNat ≤ (r 4).toNat) ∧
      ∀ k, (r 5).getLsbD k = (x :: l).all (fun y => y.getLsbD k) ∧ (r 6).getLsbD k = (x :: l).any (fun y => y.getLsbD k) ∧
        (r 7).getLsbD k = (((x :: l).filter (fun y => y.getLsbD k)).length % 2 == 1)) ∧
    Encodes 0xAC (fun w => .redv (w.extractLsb' 18 6) (w.extractLsb' 11 7) (w.extractLsb' 8 3)) (fun w => w.extractLsb' 0 8 = 0) ∧
    Encodes 0xAD (fun w => .lmask (w.extractLsb' 18 6) (w.extractLsb' 15 3) (w.extractLsb' 0 2))
      (fun w => w.extractLsb' 2 13 = 0 ∧ (w.extractLsb' 0 2 = 0 ∨ w.extractLsb' 15 3 = 0)) ∧
    Encodes 0xAE (fun w => .bcast (w.extractLsb' 18 6) (w.extractLsb' 11 7) (w.extractLsb' 5 6) (w.extractLsb' 0 1))
      (fun w => w.extractLsb' 1 4 = 0 ∧ (w.extractLsb' 0 1 = 1 ∨ w.extractLsb' 5 6 = 0))

/-- R341: WBRD gives the waybill of its source, and the result's waybill is that waybill too. -/
def Obligations.ReadingWaybills : Prop :=
  ∀ (d : BitVec 6) (n : BitVec 7) (s : State),
    let gives := fun (k : BitVec 3) (w : Waybill) => ready (.wbrd d n k) s = true →
      Completes (.wbrd d n k) s fun s' => UniResult s s' d.toNat 1 w w.toNat
    gives 0 (s.cur.sw n.toNat) ∧ gives 1 (s.cur.vw n.toNat) ∧ gives 2 (s.cur.pw n.toNat) ∧ gives 3 (s.cur.qw n.toNat) ∧
    gives 4 s.curp.flow ∧
    (∀ t, s.tileOf s.cur (coreOf s.curUnit) n.toNat false = some t → gives 5 (s.tile t).wb)

/-! ### Control -/

/-- R328, R329, R331, R343: branches, calls and returns. A condition holds when q xor sense = 1. A BR whose target leaves the innermost
loop body traps; CALL and RET are exempt; NOP does nothing.
R330: BRI reads the table's count and its entry, goes to the entry's target, and opens the entry's join unless it is 0x80000000, as SETJ would;
a misaligned table, an index at or above the count, a target or a join outside the innermost loop body, and a join the stack has no room for trap,
and then neither the stack nor the place changes.
The model's own part: That a trapping branch does not grow it is the model's reading (log 32). -/
def Obligations.BranchesCallsAndReturns : Prop :=
  (∀ (q : BitVec 3) (e : BitVec 1) (o : BitVec 20) (s : State),
    let target : Dword := s.curp.pc + BitVec.ofNat 64 (4 * s.curp.pos) + o.signExtend 64 * 4
    let holds : Prop := s.cur.qget q.toNat = (e == 0)
    let inside : Prop := s.cur.outrider = true ∨ ∀ d, s.cur.loops = d + 1 → tget 0 s.cur.lstart d ≤ target ∧ target ≤ tget 0 s.cur.lend d
    (ready (.br q e o) s = true → ¬ holds → s.curp.skip = none → Completes (.br q e o) s fun s' => FellOut s s' (s.cur.qw q.toNat)) ∧
    (ready (.br q e o) s = true → holds → inside → Completes (.br q e o) s fun s' => WentTo s s' s.cur target (s.cur.qw q.toNat)) ∧
    (ready (.br q e o) s = true → holds → ¬ inside → Traps (.br q e o) s cLOOP target) ∧
    (ready (.call q e o) s = true → ¬ holds → s.curp.skip = none → Completes (.call q e o) s fun s' => FellOut s s' (s.cur.qw q.toNat)) ∧
    (ready (.call q e o) s = true → holds → Completes (.call q e o) s fun s' =>
      WentTo s s'
        (s.cur.sputPair 62 (s.curp.pc + BitVec.ofNat 64 (4 * (s.curp.words.length + 1))) (s.curp.flow ||| s.cur.qw q.toNat))
        target (s.cur.qw q.toNat)) ∧
    (ready .ret s = true → Completes .ret s fun s' =>
      WentTo s s' s.cur (s.cur.spair 62 &&& ~~~3#64) (s.cur.sw 62 ||| s.cur.sw 63)) ∧
    (ready .nop s = true → Completes .nop s fun s' => s' = s.goOn s.cur s.curp)) ∧
  (∀ (a b : BitVec 6) (s s1 s2 : State) (c e : Nat) (w1 w2 : Waybill),
    let base := s.cur.spair a.toNat
    let i := (s.cur.sget b.toNat).toNat
    let w := s.cur.sw a.toNat ||| s.cur.sw (a.toNat + 1) ||| s.cur.sw b.toNat
    let read := uniMemOp 0 8 .load .none 0
    let target := base + (BitVec.ofNat 32 e).signExtend 64 * 4
    let inside := fun x : Dword => ∀ d, s.cur.loops = d + 1 → tget 0 s.cur.lstart d ≤ x ∧ x ≤ tget 0 s.cur.lend d
    let stops := fun (s' : State) (cause : Nat) (v : Dword) => exec (.bri a b) s =
      takeTrap s' (s.cur.setPath s'.curPath s.curp.resumed) ⟨cause, s.curp.here, s.curp.pos, v, 0, none, none, none, none⟩
    let sibling := s.cur.path (!s2.curPath)
    let join := base + (BitVec.ofNat 32 (e / 2 ^ 32)).signExtend 64 * 4
    let there := { s.curp.resumed with flow := s.curp.flow ||| (s.cur.sw b.toNat ||| w1 ||| w2) }.goto target
    let depth := s.cur.stack.length + 1 + (if sibling.state = .empty then 0 else 1)
    ready (.bri a b) s = true →
      (base.extractLsb' 0 3 ≠ 0 → exec (.bri a b) s =
        takeTrap s (s.cur.setPath s.curPath { s.curp with tinfo := tinfoWord 0 0 0 0 6 })
          ⟨cALIGN, s.curp.here, s.curp.pos, base, 0, none, none, none, none⟩) ∧
      (base.extractLsb' 0 3 = 0 → uniRead s s.cur s.curp read base.toNat w = .got c w1 s1 →
        (c % 2 ^ 32 ≤ i → stops s1 cBRTAB (s1.curWord.setWidth 64)) ∧
        (i < c % 2 ^ 32 → uniRead s1 s.cur s.curp.resumed read (base + BitVec.ofNat 64 (8 + 8 * i)).toNat w = .got e w2 s2 →
          (s.cur.outrider = false → ¬ inside target → stops s2 cLOOP target) ∧
          (s.cur.outrider = true ∨ inside target →
            (e / 2 ^ 32 % 2 ^ 32 = 0x80000000 → Completes (.bri a b) s fun s' => s' = s2.putCur s.cur there) ∧
            (e / 2 ^ 32 % 2 ^ 32 ≠ 0x80000000 →
              (s.cur.outrider = true ∨ 16 < depth → stops s2 cDIVSTK 0) ∧
              (s.cur.outrider = false → depth ≤ 16 →
                (¬ inside join → stops s2 cLOOP join) ∧
                (inside join → sibling.state = .empty → Completes (.bri a b) s fun s' =>
                  s' = s2.putCur { s.cur with stack := .join join :: s.cur.stack } there) ∧
                (inside join → sibling.state ≠ .empty → sibling.hold ≠ .frame → Completes (.bri a b) s fun s' =>
                  s' = s2.putCur { s.cur.setPath (!s2.curPath) Path.blank with stack := .join join :: .susp sibling :: s.cur.stack } there)))))))

/-- R237, R238, R242: SETJ suspends the live sibling and pushes the join; BRD splits a path's lanes, or sends them all one way; both trap
where the stack, the loop or the slots do not allow it, and then change neither the stack nor the paths. -/
def Obligations.SplitsOfAPath : Prop :=
  ∀ (pr : BitVec 3) (e : BitVec 1) (o : BitVec 20) (s : State),
    let target : Dword := s.curp.pc + BitVec.ofNat 64 (4 * s.curp.pos) + o.signExtend 64 * 4
    let inside : Prop := ∀ d, s.cur.loops = d + 1 → tget 0 s.cur.lstart d ≤ target ∧ target ≤ tget 0 s.cur.lend d
    let sibling := s.cur.path (!s.curPath)
    let depth := s.cur.stack.length
    let take := s.curp.cmask &&& (if e = 1 then ~~~(s.cur.pget pr.toNat) else s.cur.pget pr.toNat)
    let rest := s.curp.mask &&& ~~~take
    let w := s.cur.pw pr.toNat
    (ready (.setj o) s = true → 16 < depth + 1 + (if sibling.state = .empty then 0 else 1) → Traps (.setj o) s cDIVSTK 0) ∧
    (ready (.setj o) s = true → depth + 1 + (if sibling.state = .empty then 0 else 1) ≤ 16 → ¬ inside →
      Traps (.setj o) s cLOOP target) ∧
    (ready (.setj o) s = true → depth + 1 ≤ 16 → inside → sibling.state = .empty →
      Completes (.setj o) s fun s' => s' = s.goOn { s.cur with stack := .join target :: s.cur.stack } s.curp) ∧
    (ready (.setj o) s = true → depth + 2 ≤ 16 → inside → sibling.state ≠ .empty → sibling.hold ≠ .frame →
      Completes (.setj o) s fun s' =>
        s' = s.goOn { s.cur.setPath (!s.curPath) Path.blank with stack := .join target :: .susp sibling :: s.cur.stack } s.curp) ∧
    (ready (.brd pr e o) s = true → (∀ j l, s.cur.stack ≠ .join j :: l) → Traps (.brd pr e o) s cDIVSTK 1) ∧
    (∀ j l, s.cur.stack = .join j :: l → ready (.brd pr e o) s = true →
      (¬ inside → Traps (.brd pr e o) s cLOOP target) ∧
      (inside → take ≠ 0 → rest ≠ 0 → sibling.state ≠ .empty → Traps (.brd pr e o) s cDIVSTK 2) ∧
      (inside → take = 0 → s.curp.skip = none → Completes (.brd pr e o) s fun s' => FellOut s s' w) ∧
      (inside → take ≠ 0 → rest = 0 → Completes (.brd pr e o) s fun s' => WentTo s s' s.cur target w) ∧
      (inside → take ≠ 0 → rest ≠ 0 → sibling.state = .empty → s.curp.skip = none → Completes (.brd pr e o) s fun s' =>
        s'.curp.mask = rest ∧ s'.curp.pc = s.curp.pc + BitVec.ofNat 64 (4 * (s.curp.words.length + 1)) ∧ s'.curp.flow = s.curp.flow ||| w ∧
        (s'.cur.path (!s.curPath)).mask = take ∧ (s'.cur.path (!s.curPath)).pc = target ∧
        (s'.cur.path (!s.curPath)).flow = s.curp.flow ||| w ∧ (s'.cur.path (!s.curPath)).binds = s.curp.binds ∧
        (s'.cur.path (!s.curPath)).state = s.curp.state ∧ s'.cur.stack = s.cur.stack ∧
        s' = s.takeOp.putStr s.curUnit s'.cur ∧ { s'.cur with p0 := s.cur.p0, p1 := s.cur.p1 } = s.cur))

/-- R333, R334: a loop opens with its start, end and count, or its body is skipped where the count is 0; LBRK closes the innermost level, and
traps where none is active.
The model's own part: The value of LBRK's trap with no level active is the model's reading (log 30). -/
def Obligations.HardwareLoops : Prop :=
  ∀ (c : BitVec 6) (o : BitVec 18) (n m : BitVec 12) (q : BitVec 3) (e : BitVec 1) (t : BitVec 20) (s : State),
    let start := s.curp.pc + BitVec.ofNat 64 (4 * (s.curp.words.length + 1))
    let here := s.curp.pc + BitVec.ofNat 64 (4 * s.curp.pos)
    let d := s.cur.loops
    let fits := fun last : Dword => s.cur.outrider = false ∧ d ≠ 4 ∧ start ≤ last ∧
      (0 < d → tget 0 s.cur.lstart (d - 1) ≤ start ∧ last ≤ tget 0 s.cur.lend (d - 1))
    let opened := fun (last : Dword) (k : Word) => { s.cur with
      lstart := tset 0 s.cur.lstart d start, lend := tset 0 s.cur.lend d last, lcount := tset 0 s.cur.lcount d k }
    let last := here + BitVec.ofNat 64 (4 * o.toNat)
    let lasti := here + BitVec.ofNat 64 (4 * m.toNat)
    let k := s.cur.sget c.toNat
    let w := s.cur.sw c.toNat
    let target := here + t.signExtend 64 * 4
    (ready (.loop c o) s = true → ¬ fits last → Traps (.loop c o) s cLOOP here) ∧
    (ready (.loop c o) s = true → fits last → k ≠ 0 → Completes (.loop c o) s fun s' => WentOn s s' (opened last k) w) ∧
    (ready (.loop c o) s = true → fits last → k = 0 → Completes (.loop c o) s fun s' =>
      s' = s.goOn s.cur { s.curp with flow := s.curp.flow ||| w, skip := some last }) ∧
    (ready (.loopi n m) s = true → ¬ fits lasti → Traps (.loopi n m) s cLOOP here) ∧
    (ready (.loopi n m) s = true → fits lasti → n ≠ 0 → Completes (.loopi n m) s fun s' => WentOn s s' (opened lasti (n.setWidth 32)) 0) ∧
    (ready (.loopi n m) s = true → fits lasti → n = 0 → Completes (.loopi n m) s fun s' =>
      s' = s.goOn s.cur { s.curp with skip := some lasti }) ∧
    (ready (.lbrk q e t) s = true → s.cur.outrider = true → Traps (.lbrk q e t) s cLOOP here) ∧
    (ready (.lbrk q e t) s = true → s.cur.outrider = false → s.cur.qget q.toNat = (e == 0) → 1 < d →
      ¬ (tget 0 s.cur.lstart (d - 2) ≤ target ∧ target ≤ tget 0 s.cur.lend (d - 2)) → Traps (.lbrk q e t) s cLOOP target) ∧
    (ready (.lbrk q e t) s = true → d = 0 → Traps (.lbrk q e t) s cLOOP here) ∧
    (ready (.lbrk q e t) s = true → s.cur.outrider = false → s.cur.qget q.toNat = (e == 0) → 0 < d →
      (1 < d → tget 0 s.cur.lstart (d - 2) ≤ target ∧ target ≤ tget 0 s.cur.lend (d - 2)) →
      Completes (.lbrk q e t) s fun s' =>
        WentTo s s' { s.cur with lcount := tset 0 s.cur.lcount (d - 1) 0 } target (s.cur.qw q.toNat)) ∧
    (ready (.lbrk q e t) s = true → s.cur.outrider = false → 0 < d → s.cur.qget q.toNat = (e == 1) → s.curp.skip = none →
      Completes (.lbrk q e t) s fun s' => FellOut s s' (s.cur.qw q.toNat))

/-- R335: an arrival that does not complete its generation is counted and waits; the one that completes it returns the count to 0, lets
every waiting string go on, and goes on itself with an acquire. BARCV is ILLEGAL without a convoy. -/
def Obligations.Barriers : Prop :=
  ∀ (a : BitVec 6) (c : BitVec 1) (n : BitVec 3) (m : BitVec 2) (s : State),
    let v := (s.cur.sget a.toNat).toNat
    let now := fun (k : Nat) (gang : Bool) =>
      let old := s.barGet s.cur k
      (old.1 + 1, if old.1 = 0 then (if c = 0 then 0 else max 1 (min v (s.barLive s.cur gang))) else old.2)
    let full := fun (k : Nat) (gang : Bool) => (if (now k gang).2 = 0 then s.barLive s.cur gang else (now k gang).2) ≤ (now k gang).1
    let fresh : Prop := s.curp.hold = .none ∨ s.curp.hold = .again ∨ s.curp.hold = .word
    let known : Prop := ∃ p, tfind s.sch.parties s.cur.party = some p
    (ready (.bar a c n) s = true → fresh → known → s.settled s.curp = true → ¬ full n.toNat false →
      Completes (.bar a c n) s fun s' =>
        s'.barGet s.cur n.toNat = now n.toNat false ∧ s'.curp = { s.curp with hold := .barrier n.toNat } ∧ s'.mem = s.mem) ∧
    (ready (.bar a c n) s = true → fresh → known → s.settled s.curp = true → full n.toNat false →
      Completes (.bar a c n) s fun s' =>
        s'.barGet s.cur n.toNat = (0, 0) ∧ s'.curp = (advance s.cur s.curp).2 ∧
        (∀ u x, u ∈ s.barUnits s.cur false → u ≠ s.curUnit → s.str? u = some x →
          s'.str? u = some { x with p0 := x.p0.release n.toNat, p1 := x.p1.release n.toNat }) ∧
        s'.mem = s.mem) ∧
    (ready (.barcv a c m) s = true → s.isConvoy s.cur = false → Traps (.barcv a c m) s cILLEGAL (s.curWord.setWidth 64)) ∧
    (ready (.barcv a c m) s = true → s.isConvoy s.cur = true → fresh → s.settled s.curp = true → ¬ full (8 + m.toNat) true →
      Completes (.barcv a c m) s fun s' =>
        s'.barGet s.cur (8 + m.toNat) = now (8 + m.toNat) true ∧ s'.curp = { s.curp with hold := .barrier (8 + m.toNat) } ∧ s'.mem = s.mem) ∧
    (ready (.barcv a c m) s = true → s.isConvoy s.cur = true → fresh → s.settled s.curp = true → full (8 + m.toNat) true →
      Completes (.barcv a c m) s fun s' =>
        s'.barGet s.cur (8 + m.toNat) = (0, 0) ∧ s'.curp = (advance s.cur s.curp).2 ∧
        (∀ u x, u ∈ s.barUnits s.cur true → u ≠ s.curUnit → s.str? u = some x →
          s'.str? u = some { x with p0 := x.p0.release (8 + m.toNat), p1 := x.p1.release (8 + m.toNat) }) ∧
        s'.mem.l1 = (s.acquireAt (coreOf s.curUnit) s.cur.world 2).mem.l1)

/-- R155, R301, R336 to R339: waits. WAITW and BWAIT go on, with an acquire, once the word they read is as wanted, and otherwise wait for a
re-check, which has their operands as they were at issue; FENCE issues nothing more until what it orders is done, WAITF until its flags are clear;
SLEEP waits until its cycle. -/
def Obligations.Waits : Prop :=
  ∀ (d a : BitVec 6) (c sp sc : BitVec 3) (k : BitVec 2) (f : BitVec 12) (s s1 : State) (x : Nat) (w : Waybill),
    let word : Dword := BitVec.ofNat 64 x
    let cond : Dword → Bool := fun v => match c.toNat with
      | 0 => decide (word = v)
      | 1 => decide (word ≠ v)
      | 2 => decide (0 ≤ (word - v).toInt)
      | 3 => decide ((word - v).toInt < 0)
      | _ => decide (word &&& v ≠ 0)
    let addr := if sp = 0 then (s.cur.spair a.toNat).toNat else (s.cur.sget a.toNat).toNat
    let aw := if sp = 0 then s.cur.sw a.toNat ||| s.cur.sw (a.toNat + 1) else s.cur.sw a.toNat
    let dw := s.cur.sw d.toNat ||| s.cur.sw (d.toNat + 1)
    let core := coreOf s1.curUnit
    let held := fun (a' : Nat) (v' : Dword) (aw' dw' : Waybill) => [a', v'.toNat, aw'.toNat, dw'.toNat]
    let taken := fun (a0 : Nat) (aw0 : Waybill) (a' : Nat) (v' : Dword) (aw' dw' : Waybill) =>
      (s.curp.vals = [] ∧ a' = a0 ∧ v' = s.cur.spair d.toNat ∧ aw' = aw0 ∧ dw' = dw) ∨ s.curp.vals = held a' v' aw' dw'
    (∀ a' v' aw' dw', taken addr aw a' v' aw' dw' → ready (.waitw d a c sp sc) s = true →
      uniRead s s.cur { s.curp with vals := held a' v' aw' dw' } (waitOp sp.toNat sc.toNat) a' aw' = .got x w s1 →
      (cond v' = true → Completes (.waitw d a c sp sc) s fun s' =>
        s' = (s1.acquireAt core s.cur.world sc.toNat).goOn s.cur { s.curp.resumed with flow := s.curp.flow ||| (dw' ||| w) }) ∧
      (cond v' = false → Completes (.waitw d a c sp sc) s fun s' =>
        s' = s1.putIdle s.cur { s.curp.resumed with vals := held a' v' aw' dw', hold := .word })) ∧
    (∀ a' v' aw' dw', taken (s.cur.spair a.toNat).toNat (s.cur.sw a.toNat ||| s.cur.sw (a.toNat + 1)) a' v' aw' dw' → ready (.bwait d a sc) s = true →
      uniRead s s.cur { s.curp with vals := held a' v' aw' dw' } (waitOp 0 sc.toNat) a' aw' = .got x w s1 →
      (0 ≤ (word - v').toInt → Completes (.bwait d a sc) s fun s' =>
        s' = (s1.acquireAt core s.cur.world sc.toNat).goOn s.cur { s.curp.resumed with flow := s.curp.flow ||| (dw' ||| w) }) ∧
      ((word - v').toInt < 0 → Completes (.bwait d a sc) s fun s' =>
        s' = s1.putIdle s.cur { s.curp.resumed with vals := held a' v' aw' dw', hold := .word })) ∧
    (let done := if k = 0 then s.loadsSettled s.curp else s.settled s.curp
     (ready (.fence sc k) s = true → done = true →
      (k = 0 ∨ sc ≠ 5 ∨ (s.cur.acked s.curp = true ∧ s.cur.firstNack s.curp = none)) →
      Completes (.fence sc k) s fun s' =>
        s' = (if k = 1 then s else s.acquireAt (coreOf s.curUnit) s.cur.world sc.toNat).goOn s.cur s.curp) ∧
     (ready (.fence sc k) s = true → done = false → Completes (.fence sc k) s fun s' =>
      s' = s.putIdle s.cur { s.curp with hold := .again })) ∧
    (ready (.waitf f) s = true → (∀ b ∈ s.curp.binds, f.getLsbD b.1 = false) → Completes (.waitf f) s fun s' => s' = s.goOn s.cur s.curp) ∧
    (ready (.waitf f) s = true → (∃ b ∈ s.curp.binds, f.getLsbD b.1 = true) → Completes (.waitf f) s fun s' =>
      s' = s.putIdle s.cur { s.curp with hold := .word }) ∧
    (ready .yield s = true → Completes .yield s fun s' => s' = s.goOn { s.cur with yielded := true } s.curp) ∧
    (ready (.sleep a f) s = true → ¬ (s.cur.tickPending = true ∧ s.curp.level = 0) → Completes (.sleep a f) s fun s' =>
      s' = s.putCur s.cur { s.curp with hold := .sleep (s.time + ((s.cur.sget a.toNat).toNat + f.toNat) % 2 ^ 32) }) ∧
    (ready (.sleep a f) s = true → s.cur.tickPending = true → s.curp.level = 0 → Completes (.sleep a f) s fun s' => s' = s.goOn s.cur s.curp) ∧
    (∀ n, s.str? s.curUnit = some s.cur → s.curp.hold = .sleep n → n ≤ s.time →
      Completes .sleepExpiry s fun s' => s' = s.goOn s.cur s.curp) ∧
    (s.str? s.curUnit = some s.cur → s.curp.hold = .word →
      Completes .waitwRecheck s fun s' => s' = { s with agenda := ⟨0, .issue s.curUnit s.curPath⟩ :: s.agenda })

/-- R250 to R253: what taking a trap saves, where it goes, and what it leaves alone. -/
def Obligations.TakingATrap : Prop :=
  ∀ (s : State) (t : Str) (ti : TrapInfo),
    let p := t.path s.curPath
    let sib := t.path (!s.curPath)
    t.outrider = false → p.parkOp = none → (∀ n, sib.hold ≠ .sleep n) →
    ∃ s', takeTrap s t ti = .next s' ∧ s' = s.putStr s.curUnit s'.cur ∧
      (let level := route s t.world ti.cause ti.fixed p.level
       s'.cur.reg 0x023 = BitVec.ofNat 64 ti.cause ∧ s'.cur.reg 0x024 = ti.epc ∧ s'.cur.reg 0x025 = ti.tval ∧
       s'.cur.reg 0x013 = estatWord p.level (decide (sib.state ≠ .empty)) s.curPath ti.epos p.rep (decide (p.state = .parked)) ∧
       s'.cur.reg 0x014 = p.cmask.setWidth 64 ∧ s'.cur.reg 0x015 = p.umask.setWidth 64 ∧
       (∀ k, k ∉ [0x013, 0x014, 0x015, 0x023, 0x024, 0x025] → s'.cur.reg k = t.reg k) ∧
       s'.curp.level = level ∧ s'.curp.pos = 0 ∧ s'.curp.state = .running ∧ s'.curp.mask = p.mask ∧
       s'.curp.pc = (match level with
         | 0 => t.reg 0x020
         | 1 => s.wreg t.world 0x021
         | _ => s.pkg 0x022) &&& ~~~3#64 ∧
       s'.curp.tinfo = ti.tinfo.getD p.tinfo ∧ s'.curp.rfinfo = ti.rfinfo.getD 0 ∧ s'.curp.gtinfo = ti.gtinfo.getD 0 ∧
       s'.curp.wsdecl = ti.wsdecl.getD 0 ∧ s'.curp.flow = p.flow ∧ s'.curp.binds = p.binds ∧
       s'.cur.path (!s.curPath) = sib ∧ (sib.state ≠ .empty → s'.cur.holds sib.id = true) ∧
       s'.cur.traps = ⟨p.id, if sib.state = .empty then none else some sib.id, decide (level = 0),
         p.skip.map (fun e => (ti.epc - BitVec.ofNat 64 (4 * ti.epos), e))⟩ :: t.traps ∧
       s'.cur.v = t.v ∧ s'.cur.vwb = t.vwb ∧ s'.cur.s = t.s ∧ s'.cur.swb = t.swb ∧ s'.cur.p = t.p ∧ s'.cur.q = t.q ∧
       s'.cur.stack = t.stack ∧ s'.cur.lcount = t.lcount ∧ s'.cur.repidx = t.repidx ∧ s'.cur.lmask = t.lmask)

/-- R249: the level a trap goes to. -/
def Obligations.RoutingATrap : Prop :=
  ∀ (s : State) (w c level : Nat), level ≤ 2 →
    route s w 0x0E 0 level = 0 ∧
    (c ≠ 0x0E → route s w c 2 level = 2) ∧
    (c ≠ 0x0E → route s w c 1 level = max 1 level) ∧
    (c ≠ 0x0E → (s.stewardDeleg w).getLsbD c = false → route s w c 0 level = 2) ∧
    (c ≠ 0x0E → (s.stewardDeleg w).getLsbD c = true → (s.kernelDeleg w).getLsbD c = false → route s w c 0 level = max 1 level) ∧
    (c ≠ 0x0E → (s.stewardDeleg w).getLsbD c = true → (s.kernelDeleg w).getLsbD c = true → route s w c 0 level = level) ∧
    (∀ k, k = 4 ∨ k = 6 ∨ k = 12 ∨ k = 13 → (s.kernelDeleg w).getLsbD k = false) ∧ (s.kernelDeleg w).getLsbD 14 = true

/-- R251, R254, R266, R343: TRAP and BRK take their traps at the next instruction, with the immediate as the value; BRK with BRKH halts the
string instead; TRET goes back to where the trap was taken, at the level it was taken from, and the trap it returns from holds no sibling any more.
The model's own part: A level of 3 in sys.estat is taken as 2, the model's choice (log 22). -/
def Obligations.SoftwareTrapsAndReturn : Prop :=
  ∀ (i : BitVec 18) (s : State),
    let more := s.curp.pos < s.curp.words.length
    let epc := if more then s.curp.pc + BitVec.ofNat 64 (4 * s.curp.pos) + 4
      else s.curp.skip.getD (s.curp.pc + BitVec.ofNat 64 (4 * (s.curp.words.length + 1)))
    let epos := if more then s.curp.pos + 1 else 0
    let e := s.cur.reg 0x013
    let pos := (e.extractLsb' 24 4).toNat
    (ready (.trap i) s = true →
      exec (.trap i) s = takeTrap s s.cur ⟨cTRAP, epc, epos, i.setWidth 64, 0, none, none, none, none⟩ ∧ ∃ s', exec (.trap i) s = .next s') ∧
    (ready (.brk i) s = true → s.cur.outrider = false → s.cur.brkh = false →
      exec (.brk i) s = takeTrap s s.cur ⟨cBRK, epc, epos, i.setWidth 64, 0, none, none, none, none⟩ ∧ ∃ s', exec (.brk i) s = .next s') ∧
    (ready (.brk i) s = true → s.cur.outrider = false → s.cur.brkh = true → Completes (.brk i) s fun s' =>
      s' = s.goOn { s.cur with dbg := .halted } s.curp) ∧
    (ready (.brk i) s = true → s.cur.outrider = true → Traps (.brk i) s cBRK (i.setWidth 64)) ∧
    (ready .tret s = true → s.curp.level = 0 → s.cur.userTraps = 0 → Traps .tret s cPRIV (s.curWord.setWidth 64)) ∧
    (ready .tret s = true → (s.curp.level ≠ 0 ∨ s.cur.userTraps ≠ 0) → Completes .tret s fun s' =>
      s' = s.putStr s.curUnit s'.cur ∧ s'.curp.pc = (s.cur.reg 0x024 &&& ~~~3#64) - BitVec.ofNat 64 (4 * pos) ∧ s'.curp.pos = pos ∧
      s'.curp.level = min 2 (e.extractLsb' 30 2).toNat ∧ s'.curp.mask = s.curp.mask ∧
      s'.cur.userTraps = (if s.curp.level = 0 then s.cur.userTraps - 1 else s.cur.userTraps) ∧
      (∀ r rest, s.cur.traps = r :: rest → r.handler = s.curp.id → r.user = decide (s.curp.level = 0) → s'.cur.traps = rest) ∧
      s'.cur.repidx = (if e.getLsbD 23 = true ∧ pos ≠ 0 then s.cur.repidx else 0) ∧
      (pos ≠ 0 → s'.curp.cmask = (s.cur.reg 0x014).setWidth 32 ∧ s'.curp.umask = (s.cur.reg 0x015).setWidth 32) ∧
      s'.cur.sys = s.cur.sys ∧ s'.cur.s = s.cur.s ∧ s'.cur.v = s.cur.v ∧ s'.cur.path (!s.curPath) = s.cur.path (!s.curPath))

/-- R232, R279, R292 to R294: a path that starts a clause puts its string behind the others of its quad; the clause starts with its header and its
words fetched, once the flags it waits for are clear, at its first word with its mask; with an empty mask it is skipped; a malformed header is ILLEGAL.
R264, R265: what meets at a clause boundary: an engine's report goes before a pending TICK, and either before the clause.
R241, R334: a path that fell out of the clause at the end of the innermost loop body goes back to the body's start with the count one less, as often as
the count says, and then closes the level; an end that two levels share is looked at outward; a diverged string traps there, with the clause's header as the value (R242). -/
def Obligations.ClauseStart : Prop :=
  (∀ (s s1 s2 : State) (w x : Word) (l : List Word) (a : Dword),
    let p := s.curp
    let q := { p with hdr := w, words := l, vector := false }
    let s0 := s.tookSlot s.curUnit s.curPath
    let t := { s.cur with stamp := s.stamp, before := s.cur.stamp, yielded := false, onPath := s.curPath }
    let bad : Prop := w.extractLsb' 28 4 = 0 ∨ (12 ≤ (w.extractLsb' 12 4).toNat ∧ (w.extractLsb' 12 4).toNat ≤ 14) ∨
      (12 ≤ (w.extractLsb' 8 4).toNat ∧ (w.extractLsb' 8 4).toNat ≤ 14) ∨ w.extractLsb' 0 2 ≠ 0
    let n := (w.extractLsb' 5 3).toNat
    let sel := fun k : Nat => lane (s.cur.pget n) k != w.getLsbD 4
    s.str? s.curUnit = some s.cur → s.cur.outrider = false → mayStart s.cur s.curPath = true → p.pos = 0 → p.wrec = none →
    s.argN 2 = 0 → p.left = none → p.skip = none → p.hdr = 0 → p.words = [] → s.cur.stepping = 0 → s.cur.stopNow = false → s.cur.reports = [] →
    s.cur.tickPending = false → s.cur.stopTenant = false → s0.fetchWord t s.curUnit s.curPath p.level p.pc = .word w s1 →
    (bad → exec .clauseStart s = takeTrap s1 (t.setPath s1.curPath p) ⟨cILLEGAL, p.pc, 0, w.setWidth 64, 0, none, none, none, none⟩) ∧
    (¬ bad → w.getLsbD 3 = true → s.cur.stack.head? = some (.join p.pc) → Completes .clauseStart s fun s' =>
      s' = s1.putStr s1.curUnit (t.setPath s1.curPath { p with hdr := w, vector := false, state := .joinWait }).merge) ∧
    (¬ bad → w.getLsbD 3 = false → s1.fetchWords t s1.curUnit s1.curPath p.level (p.pc + 4) (w.extractLsb' 28 4).toNat = (l, .word x s2, a) →
      l ≠ [] →
      ((∃ b ∈ p.binds, w.getLsbD (16 + b.1) = true) → Completes .clauseStart s fun s' => s' = s2.putIdle t q) ∧
      ((∀ b ∈ p.binds, w.getLsbD (16 + b.1) = false) → (∃ k, k < 32 ∧ lane p.mask k ∧ lane s.cur.lmask k ∧ sel k) →
        Completes .clauseStart s fun s' => ∃ m : Lanes, (∀ k, k < 32 → lane m k = (lane p.mask k && lane s.cur.lmask k && sel k)) ∧
          s' = s2.putCur t { q with pos := 1, cmask := m, umask := 0, woken := false, flow := p.flow ||| s.cur.pw n }) ∧
      ((∀ b ∈ p.binds, w.getLsbD (16 + b.1) = false) → (∀ k, k < 32 → (lane p.mask k && lane s.cur.lmask k && sel k) = false) →
        Completes .clauseStart s fun s' => ∃ r : Path, s' = s2.putCur t r ∧ r.pc = p.pc + BitVec.ofNat 64 (4 * (l.length + 1)) ∧ r.pos = 0 ∧
          r.mask = p.mask ∧ r.binds = p.binds ∧ r.flow = p.flow ||| s.cur.pw n ∧ r.left = some p.pc))) ∧
  (∀ (s : State) (r : Report) (rest : List Report),
    let p := s.curp
    let s0 := s.tookSlot s.curUnit s.curPath
    let t := { s.cur with stamp := s.stamp, before := s.cur.stamp, yielded := false, onPath := s.curPath }
    s.str? s.curUnit = some s.cur → s.cur.outrider = false → mayStart s.cur s.curPath = true → p.pos = 0 → p.wrec = none →
    s.argN 2 = 0 → p.left = none → p.skip = none → s.cur.stepping = 0 → s.cur.stopNow = false →
    (s.cur.reports = r :: rest → exec .clauseStart s =
      takeTrap s0 ({ t with reports := rest }.setReg 0x016 (BitVec.ofNat 64 (r.unit % 16 * 2 ^ 28 + r.index % 16 * 2 ^ 24 + r.cause % 256 * 2 ^ 16)))
        ⟨if r.poison then cPOISON else cENGINE, p.pc, 0, r.tval, if r.tinfo.getLsbD 16 then 2 else 0, some r.tinfo, some r.rfinfo, some r.gtinfo, some r.wsdecl⟩) ∧
    (s.cur.reports = [] → s.cur.tickPending = true → p.level = 0 → s.cur.userTraps = 0 → exec .clauseStart s =
      takeTrap s0 { t with tickPending := false } ⟨cTICK, p.pc, 0, BitVec.ofNat 64 s.time, 0, none, none, none, none⟩)) ∧
  (∀ (s : State) (h : Dword),
    let p := s.curp
    let d := s.cur.loops
    let count := fun k : Nat => tget 0 s.cur.lcount k
    let at_ := fun k : Nat => tget 0 s.cur.lend k = h
    let s0 := s.tookSlot s.curUnit s.curPath
    let t := { s.cur with stamp := s.stamp, before := s.cur.stamp, yielded := false, onPath := s.curPath }
    let on := fun (lcount : Table Word) (pc : Dword) => exec .clauseStart s = atBoundary s0 { t with lcount := lcount } { p with left := none, pc := pc }
    s.str? s.curUnit = some s.cur → s.cur.outrider = false → mayStart s.cur s.curPath = true → p.pos = 0 → p.wrec = none →
    s.argN 2 = 0 →
    (p.left = none → on s.cur.lcount p.pc) ∧
    (p.left = some h →
    (d = 0 ∨ ¬ at_ (d - 1) → on s.cur.lcount p.pc) ∧
    (0 < d → at_ (d - 1) → s.cur.diverged = true → exec .clauseStart s =
      takeTrap s0 (t.setPath s.curPath { p with left := none }) ⟨cLOOP, p.pc, 0, h, 0, none, none, none, none⟩) ∧
    (0 < d → at_ (d - 1) → s.cur.diverged = false → 1 < (count (d - 1)).toNat →
      on (tset 0 s.cur.lcount (d - 1) (count (d - 1) - 1)) (tget 0 s.cur.lstart (d - 1))) ∧
    (0 < d → at_ (d - 1) → s.cur.diverged = false → count (d - 1) = 1 → d = 1 ∨ ¬ at_ (d - 2) → on (tset 0 s.cur.lcount (d - 1) 0) p.pc) ∧
    (1 < d → at_ (d - 1) → at_ (d - 2) → s.cur.diverged = false → count (d - 1) = 1 → 1 < (count (d - 2)).toNat →
      on (tset 0 (tset 0 s.cur.lcount (d - 1) 0) (d - 2) (count (d - 2) - 1)) (tget 0 s.cur.lstart (d - 2))) ∧
    (1 < d → at_ (d - 1) → at_ (d - 2) → s.cur.diverged = false → count (d - 1) = 1 → count (d - 2) = 1 → d = 2 ∨ ¬ at_ (d - 3) →
      on (tset 0 (tset 0 s.cur.lcount (d - 1) 0) (d - 2) 0) p.pc)))

/-- R239: when both live paths wait at the join on top of the stack they become one, with the union of their masks, flow waybills and
bindings; a path that waits alone goes on; a suspended sibling under the join comes back.
R231, R332: EXIT at a string ends the issuing path's lanes: they leave sys.lmask and the path's slot, and a live sibling goes on
alone, or past the join where it waits; with none, the newest suspended path resumes. With the string's last lanes its slot is free, its blocks are to
be zeroed, its tokens are released, its party has one string less, and the world's leases end with its last string; a party without strings that no
engine names gives up what it had, and completion counts it. A report held for the string goes first, and a report to come is waited for. At an
outrider it ends the outrider. -/
def Obligations.JoinsAndExits : Prop :=
  (∀ (t : Str) (a : Dword) (rest : List StkRec), t.stack = .join a :: rest →
    (t.p0.state = .joinWait → t.p1.state = .joinWait →
      t.merge.p0.state = .running ∧ t.merge.p0.mask = t.p0.mask ||| t.p1.mask ∧ t.merge.p0.flow = t.p0.flow ||| t.p1.flow ∧
      (∀ b, b ∈ t.merge.p0.binds ↔ b ∈ t.p0.binds ∨ b ∈ t.p1.binds) ∧ t.merge.p0.pc = t.p0.pc ∧
      ((∀ q l, rest ≠ .susp q :: l) → t.merge.p1 = Path.blank ∧ t.merge.stack = rest) ∧
      (∀ q l, rest = .susp q :: l → t.merge.p1 = q ∧ t.merge.stack = l)) ∧
    (t.p0.state = .joinWait → t.p1.state = .empty → t.merge.p0 = { t.p0 with state := .running } ∧
      (∀ q l, rest = .susp q :: l → t.merge.p1 = q ∧ t.merge.stack = l)) ∧
    (t.p0.state = .joinWait → t.p1.state = .running → t.merge = t) ∧
    (t.p0.state = .joinWait → t.p1.state = .parked → t.merge = t) ∧
    t.merge.s = t.s ∧ t.merge.v = t.v ∧ t.merge.p = t.p ∧ t.merge.q = t.q ∧ t.merge.lmask = t.lmask) ∧
  (∀ s : State, ready .exit s = true →
    (s.cur.outrider = true → Completes .exit s fun s' => s' = (s.putCur s.cur s.curp.fall).outStop s.curUnit) ∧
    (s.cur.outrider = false → s.cur.reports = [] →
    s.eng.queue.any (fun e => e.2.who == s.cur.key && e.2.st == 4) = false →
    s.cur.lmask &&& ~~~s.curp.mask ≠ 0 → (s.cur.path (!s.curPath)).state ≠ .empty → (s.cur.path (!s.curPath)).state ≠ .joinWait →
    Completes .exit s fun s' =>
      s' = s.putStr s.curUnit s'.cur ∧ s'.cur.lmask = s.cur.lmask &&& ~~~s.curp.mask ∧ s'.cur.path s.curPath = Path.blank ∧
      s'.cur.path (!s.curPath) = s.cur.path (!s.curPath) ∧ s'.cur.stack = s.cur.stack ∧ s'.cur.v = s.cur.v ∧ s'.cur.s = s.cur.s) ∧
    (∀ r rest, s.cur.outrider = false → s.cur.reports = r :: rest → exec .exit s =
      takeTrap s ({ s.cur with reports := rest }.setReg 0x016 (BitVec.ofNat 64 (r.unit % 16 * 2 ^ 28 + r.index % 16 * 2 ^ 24 + r.cause % 256 * 2 ^ 16)))
        ⟨if r.poison then cPOISON else cENGINE, s.curp.here, s.curp.pos, r.tval, if r.tinfo.getLsbD 16 then 2 else 0, some r.tinfo, some r.rfinfo,
          some r.gtinfo, some r.wsdecl⟩) ∧
    (s.cur.outrider = false → s.cur.reports = [] → s.eng.queue.any (fun e => e.2.who == s.cur.key && e.2.st == 4) = true →
      Completes .exit s fun s' => s' = s.putIdle s.cur { s.curp with hold := .word }) ∧
    (s.cur.outrider = false → s.cur.reports = [] → s.eng.queue.any (fun e => e.2.who == s.cur.key && e.2.st == 4) = false →
      let sibling := s.cur.path (!s.curPath)
      (s.cur.lmask &&& ~~~s.curp.mask ≠ 0 →
        (∀ a rest, s.cur.stack = .join a :: rest → sibling.state = .joinWait → Completes .exit s fun s' =>
          s' = s.putStr s.curUnit s'.cur ∧ s'.cur.lmask = s.cur.lmask &&& ~~~s.curp.mask ∧
          s'.cur.path (!s.curPath) = { sibling with state := .running } ∧
          (∀ q l, rest = .susp q :: l → s'.cur.path s.curPath = q ∧ s'.cur.stack = l) ∧
          ((∀ q l, rest ≠ .susp q :: l) → s'.cur.path s.curPath = Path.blank ∧ s'.cur.stack = rest)) ∧
        (∀ js q rest, s.cur.stack = js ++ .susp q :: rest → (∀ j ∈ js, ∃ a, j = .join a) → sibling.state = .empty → q.state = .running →
          Completes .exit s fun s' => s' = s.putStr s.curUnit s'.cur ∧ s'.cur.lmask = s.cur.lmask &&& ~~~s.curp.mask ∧
            s'.cur.p0 = q ∧ s'.cur.stack = rest)) ∧
      (s.cur.lmask &&& ~~~s.curp.mask = 0 → ∃ s1 : State,
        exec .exit s = .next (if s1.hasStrings s.cur.world then s1 else s1.endLeases s.cur.world).retireAll ∧
        s1.str? s.curUnit = none ∧ (0, s.curUnit, s.cur.vblk) ∈ s1.mem.zeroing ∧ (∀ k, (s1.tile k).token ≠ .str s.cur.key) ∧
        (∀ p, tfind s.sch.parties s.cur.party = some p → ∃ p', tfind s1.sch.parties s.cur.party = some p' ∧ p'.live = p.live - 1 ∧
          p'.core = p.core ∧ p'.launch = p.launch)))) ∧
  (∀ (s : State) (key : Nat) (p : Party) (l : Launch), tfind s.sch.parties key = some p → (∀ e ∈ s.sch.parties, e.1 = key → e.2 = p) →
    tfind s.sch.launches p.launch = some l →
    (p.live = 0 → s.engNames key p = false → tfind s.retireAll.sch.parties key = none ∧
      ∃ l', tfind s.retireAll.sch.launches p.launch = some l' ∧ l.retired < l'.retired) ∧
    (p.live ≠ 0 → tfind s.retireAll.sch.parties key = some p))

/-- R255, R257, R266: the tick comparator makes TICK pending and disarms; a tenant stop that has waited its time captures the string where it
stands, with every register kept; the debugger halts, releases and steps a string.
The model's own part: What a capture does at once is the model's reading (log 89). -/
def Obligations.StopsAndDebugger : Prop :=
  ∀ (s : State) (t : Str), s.str? (s.argN 0) = some t →
    (t.reg 0x011 ≠ 0 → (t.reg 0x011).toNat ≤ s.time → (∀ n, t.p0.hold ≠ .sleep n) → (∀ n, t.p1.hold ≠ .sleep n) → t.p0.state = .running →
      Completes .tickExpiry s fun s' => s' = s.putStr (s.argN 0) { t.setReg 0x011 0 with tickPending := true }) ∧
    (t.stopTenant = true → t.captured = false → t.stopLater = false → t.passOut = false → t.stopAt + s.sliceWait t.world ≤ s.time →
      (∀ n, t.p0.hold ≠ .sleep n) → (∀ n, t.p1.hold ≠ .sleep n) → Completes .sliceWaitTimeout s fun s' =>
        ∃ t', s'.str? (s.argN 0) = some t' ∧ t'.captured = true ∧ t'.stopTenant = false ∧
          t'.v = t.v ∧ t'.s = t.s ∧ t'.p = t.p ∧ t'.q = t.q ∧ t'.lmask = t.lmask ∧ t'.sys = t.sys ∧ t'.stack.length = t.stack.length ∧
          (∀ b, (t'.path b).pc = (t.path b).pc ∧ (t'.path b).pos = (t.path b).pos ∧ (t'.path b).mask = (t.path b).mask ∧
            (t'.path b).binds = (t.path b).binds ∧ (t'.path b).state = (t.path b).state)) ∧
    (t.dbg = .running → (∀ n, t.p0.hold ≠ .sleep n) → (∀ n, t.p1.hold ≠ .sleep n) → Completes .debugHalt s fun s' =>
      s' = s.putStr (s.argN 0) { t with dbg := .halted, stepping := 0 }) ∧
    (Completes .debugResume s fun s' => s' = s.putStr (s.argN 0) { t with dbg := .running, stepping := 0 }) ∧
    (t.p0.pos = 0 → t.p1.pos = 0 → Completes .debugStep s fun s' => s' = s.putStr (s.argN 0) { t with dbg := .running, stepping := 1 })

/-! ### Memory instructions -/

/-- R372 to R375: the plain lane loads and stores of every space, and LDC.
R323, R324, R336: the uniform memory instructions and ARRV. -/
def Obligations.LoadsAndStores : Prop :=
  (∀ (d a : BitVec 7) (b : BitVec 6) (z : BitVec 3) (f : BitVec 1) (s : State),
    let n := sizeBytes z
    let load := fun (space : Nat) => laneIns s.cur s.curp space a b n (fun _ => 0) (fun _ => 0)
    let store := fun (space : Nat) => laneIns s.cur s.curp space a b n (fun l => s.cur.vgroup d.toNat ((n + 3) / 4) l % 2 ^ (8 * n)) (fun _ => 0)
    let w := fun (space : Nat) => s.cur.vws d.toNat ((n + 3) / 4) ||| addrWb s.cur space a b ||| predWb s.cur s.curp ||| s.curp.flow
    Accesses (.ld d a b z f) s (loadOp 0 d z f) (load 0) 0 ∧ Accesses (.ldsp d a b z f) s (loadOp 1 d z f) (load 1) 0 ∧
    Accesses (.ldcv d a b z f) s (loadOp 2 d z f) (load 2) 0 ∧ Accesses (.lddp d a b z f) s (loadOp 3 d z f) (load 3) 0 ∧
    Accesses (.ldc d a b z f) s { loadOp 0 d z f with kind := .cfetch } (load 0) 0 ∧
    Accesses (.st d a b z f) s (storeOp 0 z f) (store 0) (w 0) ∧ Accesses (.stsp d a b z f) s (storeOp 1 z f) (store 1) (w 1) ∧
    Accesses (.stcv d a b z f) s (storeOp 2 z f) (store 2) (w 2) ∧ Accesses (.stdp d a b z f) s (storeOp 3 z f) (store 3) (w 3) ∧
    (∀ l, laneAddr s.cur 0 a b l = (s.cur.spair b.toNat + (s.cur.vget a.toNat l).signExtend 64).toNat) ∧
    (∀ l k, k ≠ 0 → laneAddr s.cur k a b l = ((s.cur.sget b.toNat).toNat + (s.cur.vget a.toNat l).toNat) % 2 ^ 32)) ∧
  (∀ (d a b : BitVec 6) (c : BitVec 3) (f : BitVec 1) (s : State),
    let ga := (s.cur.spair a.toNat + (s.cur.sget b.toNat).signExtend 64).toNat
    let sa := ((s.cur.sget a.toNat).toNat + (s.cur.sget b.toNat).toNat) % 2 ^ 32
    let gw := s.cur.sws a.toNat 2 ||| s.cur.sw b.toNat
    let sw := s.cur.sw a.toNat ||| s.cur.sw b.toNat
    let x := (s.cur.sget d.toNat).toNat
    let xx := (s.cur.sget d.toNat).toNat + (s.cur.sget (d.toNat + 1)).toNat * 2 ^ 32
    let free : Prop := c ≠ 5 ∨ (s.cur.acked s.curp = true ∧ s.cur.firstNack s.curp = none)
    Accesses (.sld d a b f) s (uniMemOp 0 4 .load (.uni d.toNat 1) f) [⟨0, ga, 4, 0, 0⟩] 0 ∧
    Accesses (.sld64 d a b f) s (uniMemOp 0 8 .load (.uni d.toNat 2) f) [⟨0, ga, 8, 0, 0⟩] 0 ∧
    Accesses (.sldsp d a b f) s (uniMemOp 1 4 .load (.uni d.toNat 1) f) [⟨0, sa, 4, 0, 0⟩] 0 ∧
    Accesses (.slda d a b c f) s { uniMemOp 0 4 .load (.uni d.toNat 1) f with strong := true, acq := true, scope := c.toNat }
      [⟨0, ga, 4, 0, 0⟩] 0 ∧
    Accesses (.sst d a b f) s (uniMemOp 0 4 .store .none f) [⟨0, ga, 4, x, 0⟩] (s.cur.sws d.toNat 1 ||| gw ||| s.curp.flow) ∧
    Accesses (.sst64 d a b f) s (uniMemOp 0 8 .store .none f) [⟨0, ga, 8, xx, 0⟩] (s.cur.sws d.toNat 2 ||| gw ||| s.curp.flow) ∧
    Accesses (.sstsp d a b f) s (uniMemOp 1 4 .store .none f) [⟨0, sa, 4, x, 0⟩] (s.cur.sws d.toNat 1 ||| sw ||| s.curp.flow) ∧
    (free → Accesses (.sstl d a b c f) s { uniMemOp 0 4 .store .none f with strong := true, rel := true, scope := c.toNat }
      [⟨0, ga, 4, x, 0⟩] (s.cur.sws d.toNat 1 ||| gw ||| s.curp.flow)) ∧
    Accesses (.satadd d a b c f) s { uniMemOp 0 4 .atomic (.uni d.toNat 1) f with strong := true, scope := c.toNat }
      [⟨0, ga, 4, x, 0⟩] (s.cur.sw d.toNat ||| gw ||| s.curp.flow) ∧
    Accesses (.satcas d a b c f) s { uniMemOp 0 4 .atomic (.uni d.toNat 1) f with strong := true, scope := c.toNat, atop := 9 }
      [⟨0, ga, 4, (s.cur.sget (d.toNat + 1)).toNat, x⟩] (s.cur.sws d.toNat 2 ||| gw ||| s.curp.flow) ∧
    (free → Accesses (.arrv a b c) s
      { uniMemOp 0 8 .atomic .none 0 with slot := none, strong := true, rel := true, scope := c.toNat, atop := 0 }
      [⟨0, (s.cur.spair a.toNat).toNat, 8, (s.cur.sget b.toNat).toNat, 0⟩] (gw ||| s.curp.flow)))

/-- R377, R378: acquiring loads, releasing stores and atomics; a release at .dom needs its earlier remote writes acknowledged.
R378: what an atomic leaves in memory, by its operation number. -/
def Obligations.AcquireReleaseAndAtomics : Prop :=
  (∀ (d a : BitVec 7) (b : BitVec 6) (c : BitVec 3) (f : BitVec 1) (s : State),
    let one := fun (size : Nat) => laneIns s.cur s.curp 0 a b size (fun l => s.cur.vgroup d.toNat (size / 4) l) (fun _ => 0)
    let two := fun (size : Nat) => laneIns s.cur s.curp 0 a b size (fun l => s.cur.vgroup (d.toNat + size / 4) (size / 4) l)
      (fun l => s.cur.vgroup d.toNat (size / 4) l)
    let w := fun (n : Nat) => s.cur.vws d.toNat n ||| addrWb s.cur 0 a b ||| predWb s.cur s.curp ||| s.curp.flow
    let free : Prop := c ≠ 5 ∨ (s.cur.acked s.curp = true ∧ s.cur.firstNack s.curp = none)
    Accesses (.lda d a b c f) s (acquireOp 4 d c f) (laneIns s.cur s.curp 0 a b 4 (fun _ => 0) (fun _ => 0)) 0 ∧
    Accesses (.lda64 d a b c f) s (acquireOp 8 d c f) (laneIns s.cur s.curp 0 a b 8 (fun _ => 0) (fun _ => 0)) 0 ∧
    (free → Accesses (.stl d a b c f) s (releaseOp 4 c f) (one 4) (w 1)) ∧ (free → Accesses (.stl64 d a b c f) s (releaseOp 8 c f) (one 8) (w 2)) ∧
    Accesses (.atadd d a b c f) s (atomOp 0 4 d c f) (one 4) (w 1) ∧ Accesses (.atmin d a b c f) s (atomOp 1 4 d c f) (one 4) (w 1) ∧
    Accesses (.atmax d a b c f) s (atomOp 2 4 d c f) (one 4) (w 1) ∧ Accesses (.atminn d a b c f) s (atomOp 3 4 d c f) (one 4) (w 1) ∧
    Accesses (.atmaxn d a b c f) s (atomOp 4 4 d c f) (one 4) (w 1) ∧ Accesses (.atand d a b c f) s (atomOp 5 4 d c f) (one 4) (w 1) ∧
    Accesses (.ator d a b c f) s (atomOp 6 4 d c f) (one 4) (w 1) ∧ Accesses (.atxor d a b c f) s (atomOp 7 4 d c f) (one 4) (w 1) ∧
    Accesses (.atxch d a b c f) s (atomOp 8 4 d c f) (one 4) (w 1) ∧ Accesses (.atfadd d a b c f) s (atomOp 10 4 d c f) (one 4) (w 1) ∧
    Accesses (.atadd64 d a b c f) s (atomOp 0 8 d c f) (one 8) (w 2) ∧
    Accesses (.atcas d a b c f) s (atomOp 9 4 d c f) (two 4) (w 2) ∧ Accesses (.atcas64 d a b c f) s (atomOp 9 8 d c f) (two 8) (w 4)) ∧
  (∀ (x y : Word) (c : Nat),
    atomNew 0 4 x.toNat y.toNat c = (x + y).toNat ∧ atomNew 1 4 x.toNat y.toNat c = (if x.toInt < y.toInt then x else y).toNat ∧
    atomNew 2 4 x.toNat y.toNat c = (if x.toInt < y.toInt then y else x).toNat ∧ atomNew 3 4 x.toNat y.toNat c = min x.toNat y.toNat ∧
    atomNew 4 4 x.toNat y.toNat c = max x.toNat y.toNat ∧ atomNew 5 4 x.toNat y.toNat c = (x &&& y).toNat ∧
    atomNew 6 4 x.toNat y.toNat c = (x ||| y).toNat ∧ atomNew 7 4 x.toNat y.toNat c = (x ^^^ y).toNat ∧
    atomNew 8 4 x.toNat y.toNat c = y.toNat ∧ atomNew 9 4 x.toNat y.toNat x.toNat = y.toNat ∧
    (x.toNat ≠ c → atomNew 9 4 x.toNat y.toNat c = x.toNat) ∧
    (∀ u v : Dword, atomNew 0 8 u.toNat v.toNat c = (u + v).toNat))

/-- R376, R381, R382: prefetches never stop their string, POPQ takes the oldest entries of its queue in lane order, and REP makes the
next word issue from repeat 0 on, with its fields stepped.
R313: REP is ILLEGAL, before any repeat, where it is its clause's last word; before a uniform word, another REP or POPQ; with a third stride for a word
that has no third field, or an odd one where that field names a pair; with a first stride for a predicate destination; and where a stepped register
fails R297 or R298 at the last repeat. A field that the governed word does not use is no register: no instruction has it otherwise. -/
def Obligations.PrefetchQueueAndRepeat : Prop :=
  ∀ (d a : BitVec 7) (b : BitVec 6) (l : BitVec 3) (q : BitVec 2) (f : BitVec 1) (n : BitVec 6) (x y z : BitVec 3) (s : State),
    let lanes : List Nat := lanesOf s.curp.cmask
    let oq : List (Word × Waybill) := tget [] s.cur.oq q.toNat
    let fetched := lanes.foldl (fun s1 k => s1.prefetch s.cur s.curp.level (l == 0) s.nextOp (laneAddr s.cur 0 a b k)) s
    let next := s.curp.words[s.curp.pos]?
    let op := fun w : Word => (w.extractLsb' 24 7).toNat
    let third := fun w : Word => if repForm (op w) = .va then (w.extractLsb' 3 7).toNat else (w.extractLsb' 4 6).toNat
    -- the value a register field would have at the last repeat, against its limit
    let beyond := fun (w : Word) (g : Nat) =>
      if g = 0 then 128 ≤ (w.extractLsb' 17 7).toNat + n.toNat * x.toNat
      else if g = 1 then 128 ≤ (w.extractLsb' 10 7).toNat + n.toNat * y.toNat
      else if repForm (op w) = .va then 128 ≤ third w + n.toNat * z.toNat
      else (repForm (op w) = .vs ∨ repForm (op w) = .vm) ∧ 64 ≤ third w + n.toNat * z.toNat
    -- with the strides of one field alone, a field that is a register is out of range at the last repeat, or its instruction fails R297 or R298
    let astray := fun (w : Word) (g : Nat) =>
      (∃ i, decodeRaw (repStep w (repOnly s.curWord g) (min n.toNat 1)) = .ok i) ∧
      (beyond w g ∨ ∃ i, decodeRaw (repStep w (repOnly s.curWord g) n.toNat) = .ok i ∧ i.operands.regsOk (32 * s.cur.vblk) = false)
    let illegal : Prop := next = none ∨ ∃ w, next = some w ∧
      (w.getLsbD 31 = true ∨ op w = 0x6C ∨ op w = 0x68 ∨
       (0x1A ≤ op w ∧ op w ≤ 0x21 ∧ z ≠ 0) ∨
       (0x40 ≤ op w ∧ op w ≤ 0x64 ∧ z.getLsbD 0 = true) ∨
       ((op w = 0x16 ∨ op w = 0x23 ∨ op w = 0x2D) ∧ x ≠ 0) ∨
       (0x38 ≤ op w ∧ op w ≤ 0x3A ∧ z ≠ 0) ∨
       (op w = 0x3D ∧ 8 ≤ (w.extractLsb' 10 7).toNat + n.toNat * y.toNat) ∨
       astray w 0 ∨ astray w 1 ∨ astray w 2)
    (ready (.pfet a b l) s = true → exec (.pfet a b l) s = .next (State.goOn fetched s.cur s.curp)) ∧
    (∀ (s1 : State) (t : Str) (v : Nat) (g : Bool) (m k : Nat), (s1.prefetch t v g m k).strs = s1.strs) ∧
    (ready (.popq d q f) s = true → oq.length < lanes.length →
      exec (.popq d q f) s = .next (s.putIdle s.cur { s.curp with hold := .word })) ∧
    (ready (.popq d q f) s = true → lanes.length ≤ oq.length → ∃ s', exec (.popq d q f) s = .next s' ∧
      tget [] s'.cur.oq q.toNat = oq.drop lanes.length ∧ (∀ k, k ≠ q.toNat → tget [] s'.cur.oq k = tget [] s.cur.oq k) ∧
      (∀ (k l : Nat) (e : Word × Waybill), lanes[k]? = some l → oq[k]? = some e → s'.cur.vget d.toNat l = e.1) ∧
      (∀ l, l < 32 → lane s.curp.cmask l = false → s'.cur.vget d.toNat l = s.cur.vget d.toNat l) ∧
      s'.curp = (advance s.cur s.curp).2 ∧ s'.cur.s = s.cur.s ∧ s'.cur.p = s.cur.p ∧ s' = s.putStr s.curUnit s'.cur) ∧
    (s.curWord = (0x6C : BitVec 8) ++ n ++ x ++ y ++ z ++ (0 : BitVec 9) → ready (.rep n x y z) s = true →
      (illegal → Traps (.rep n x y z) s cILLEGAL (s.curWord.setWidth 64)) ∧
      (¬ illegal → exec (.rep n x y z) s = .next (s.putCur { s.cur with repidx := 0 } { s.curp with pos := s.curp.pos + 1, rep := true, hold := .none }))) ∧
    (∀ (w r : Word) (k : Nat),
      let sd := (r.extractLsb' 15 3).toNat
      let sa := (r.extractLsb' 12 3).toNat
      let sb := (r.extractLsb' 9 3).toNat
      (repStep w r k).extractLsb' 24 8 = w.extractLsb' 24 8 ∧
      ((repStep w r k).extractLsb' 17 7).toNat = ((w.extractLsb' 17 7).toNat + k * sd) % 128 ∧
      ((repStep w r k).extractLsb' 10 7).toNat = ((w.extractLsb' 10 7).toNat + k * sa) % 128 ∧
      (repForm (op w) = .va → ((repStep w r k).extractLsb' 3 7).toNat = (third w + k * sb) % 128 ∧
        (repStep w r k).extractLsb' 0 3 = w.extractLsb' 0 3) ∧
      (repForm (op w) = .vs ∨ repForm (op w) = .vm → ((repStep w r k).extractLsb' 4 6).toNat = (third w + k * sb) % 64 ∧
        (repStep w r k).extractLsb' 0 4 = w.extractLsb' 0 4) ∧
      (repForm (op w) = .vi ∨ repForm (op w) = .bare → (repStep w r k).extractLsb' 0 10 = w.extractLsb' 0 10) ∧
      (repOnly r 0).extractLsb' 15 3 = r.extractLsb' 15 3 ∧ (repOnly r 0).extractLsb' 9 6 = 0 ∧
      (repOnly r 1).extractLsb' 12 3 = r.extractLsb' 12 3 ∧ (repOnly r 1).extractLsb' 15 3 = 0 ∧ (repOnly r 1).extractLsb' 9 3 = 0 ∧
      (repOnly r 2).extractLsb' 9 3 = r.extractLsb' 9 3 ∧ (repOnly r 2).extractLsb' 12 6 = 0)

/-! ### The memory system's own steps -/

/-- R66, R90, R136, R137, R428: a request at its bank is performed once no earlier access of its unit holds it back. A store changes the bytes its
lanes cover and no other, and the block's waybill; a load changes no byte.
R300, R349, R373: results that reach an operation go to the lanes of its destination, extended as the instruction says, and to no other
register or lane. -/
def Obligations.BankAccesses : Prop :=
  (∀ (s : State) (r : Req), s.reqAt (s.argN 0) .bank = some r →
    let covers := fun (l : LaneReq) (k : Nat) => decide (l.addr ≤ k) && decide (k < l.addr + l.size)
    (s.mayPerform r = false → exec .bankAccess s = .next s) ∧
    (s.mayPerform r = true → r.kind = .store → s.argN 1 = 0 → s.argN 2 = 0 → r.space = 1 ∨ r.space = 2 ∨ r.space = 3 → Completes .bankAccess s fun s' =>
      (∀ k, (∀ l ∈ r.lanes, covers l k = false) → s'.chipByte r.space k = s.chipByte r.space k) ∧
      (∀ l ∈ r.lanes, ∀ k, covers l k = true → (∀ e ∈ r.lanes, e ≠ l → covers e k = false) →
        s'.chipByte r.space k = BitVec.ofNat 8 (l.data / 2 ^ (8 * (k - l.addr)))) ∧
      (∀ x, x ≠ r.space → (x = 1 ∨ x = 2 ∨ x = 3) → ∀ k, s'.chipByte x k = s.chipByte x k) ∧
      s'.chipWb r.space r.line = (if coverage 256 r.lanes = 2 ^ 256 - 1 then r.wb else s.chipWb r.space r.line ||| r.wb) ∧
      (∀ b, b ≠ r.line → s'.chipWb r.space b = s.chipWb r.space b) ∧
      s'.mem.hbm = s.mem.hbm ∧ s'.mem.l2 = s.mem.l2 ∧ (∀ e ∈ s'.mem.reqs, e.rid ≠ r.rid)) ∧
    (s.mayPerform r = true → r.kind ≠ .store → s.argN 1 = 0 → s.argN 2 = 0 → Completes .bankAccess s fun s' =>
      s' = ((s.opResult r.op (r.lanes.map (fun l => (l.lane, s.chipGet r.space l.addr l.size))) (s.chipWb r.space r.line)
        (r.lanes.any (fun l => s.chipPoison r.space (l.addr / 64)))).dropReq r.rid).opLeave r.op ∧
      s'.mem.sp = s.mem.sp ∧ s'.mem.cv = s.mem.cv ∧ s'.mem.dp = s.mem.dp ∧ s'.mem.hbm = s.mem.hbm ∧ s'.mem.l2 = s.mem.l2)) ∧
  (∀ s : State, s.reqAt (s.argN 0) .bank = none → s.argN 1 = 1 →
    (∀ e ∈ s.mem.reqs, e.isOpen = true → e.space = s.argN 4 → e.kind ≠ .store → ∀ l ∈ e.lanes, l.addr / 64 ≠ s.argN 3 / 64) →
    Completes .bankAccess s fun s' => s'.chipPoison (s.argN 4) (s.argN 3 / 64) = true ∧
      s'.mem.sp = s.mem.sp ∧ s'.mem.cv = s.mem.cv ∧ s'.mem.dp = s.mem.dp) ∧
  (∀ (s : State) (n r k size : Nat) (sg : Bool) (o : Op) (t : Str) (vals : List (Nat × Nat)) (w : Waybill) (bad : Bool),
    tfind s.mem.ops n = some o → s.str? o.unit = some t → k ≤ 4 → (vals.map Prod.fst).Nodup → (∀ v ∈ vals, v.1 < 32) →
    (o.dest = .vec r k size sg →
      ∃ t', (s.opResult n vals w bad).str? o.unit = some t' ∧
        (∀ x l, l < 32 → t'.vget x l = if r ≤ x ∧ x < r + k then
          (match vals.find? (fun v => v.1 == l) with
            | some v => BitVec.ofNat 32 (extendLoad size sg v.2 / 2 ^ (32 * (x - r)))
            | none => t.vget x l) else t.vget x l) ∧
        t'.s = t.s ∧ t'.p = t.p ∧ t'.q = t.q ∧ t'.p0 = t.p0 ∧ t'.p1 = t.p1 ∧ t'.lmask = t.lmask) ∧
    (∀ v, vals = [v] → o.dest = .uni r k → ∃ t', (s.opResult n vals w bad).str? o.unit = some t' ∧
      (∀ x, t'.sget x = if r ≤ x ∧ x < r + k then BitVec.ofNat 32 (v.2 / 2 ^ (32 * (x - r))) else t.sget x) ∧
      t'.v = t.v ∧ t'.p = t.p ∧ t'.q = t.q) ∧
    (s.opResult n vals w bad).mem.hbm = s.mem.hbm ∧ (s.opResult n vals w bad).mem.l2 = s.mem.l2 ∧
    (s.opResult n vals w bad).mem.sp = s.mem.sp ∧
    (∀ x : BitVec 32, extendLoad 4 false x.toNat = x.toNat) ∧
    (∀ x : BitVec 16, extendLoad 2 true x.toNat = (x.signExtend 32).toNat ∧ extendLoad 2 false x.toNat = x.toNat) ∧
    (∀ x : BitVec 8, extendLoad 1 true x.toNat = (x.signExtend 32).toNat ∧ extendLoad 1 false x.toNat = x.toNat))

/-- R80 to R83, R136, R378, R428: a request at the L2. What the sampler does first is in `s1`.
R87, R88, R159: a request at an atomic unit is performed on memory itself, under the owner's key.
The model's own part: That a strong load brings the core's copy up to what it has read is the model's reading (log 14). -/
def Obligations.L2AndAtomicUnits : Prop :=
  (∀ (s : State) (r : Req), s.reqAt (s.argN 0) .l2 = some r → s.argN 1 = 0 → s.argN 2 = 0 →
    let s1 := s.sampleReq r (s.l2? r.ident r.tag r.line).isSome
    let same := fun (i : Bool) (t n : Nat) => i = r.ident ∧ t = r.tag ∧ n = r.line
    (s.mayPerform r = false → exec .l2Request s = .next s) ∧
    (∀ l, s.mayPerform r = true → s1.l2? r.ident r.tag r.line = some l → r.kind = .store → Completes .l2Request s fun s' =>
      s'.l2? r.ident r.tag r.line = some
        { data := mergeLine r.rid r.lanes l.data, zero := false, dirty := true
          wb := if coverage 128 r.lanes = 2 ^ 128 - 1 then r.wb else l.wb ||| r.wb, poison := storePoison (coverage 128 r.lanes) l.poison } ∧
      (∀ i t n, t < 256 → n < 2 ^ 45 → r.tag < 256 → r.line < 2 ^ 45 → ¬ same i t n → s'.l2? i t n = s1.l2? i t n) ∧
      s'.mem.hbm = s1.mem.hbm ∧ (∀ e ∈ s'.mem.reqs, e.rid ≠ r.rid)) ∧
    (∀ l a rest, s.mayPerform r = true → s1.l2? r.ident r.tag r.line = some l → r.kind = .atomic → r.lanes = a :: rest →
      a.size = 4 ∨ a.size = 8 → a.addr % a.size = 0 → Completes .l2Request s fun s' =>
        (∃ l', s'.l2? r.ident r.tag r.line = some l' ∧ l'.dirty = true ∧ l'.wb = l.wb ||| r.wb ∧
          lineGet l'.data (a.addr % 128) a.size =
            atomNew r.atop a.size (lineGet l.data (a.addr % 128) a.size) a.data a.cmp % 2 ^ (8 * a.size) ∧
          ∀ k, k < 128 → k < a.addr % 128 ∨ a.addr % 128 + a.size ≤ k → lineGet l'.data k 1 = lineGet l.data k 1) ∧
        s'.mem.hbm = s1.mem.hbm) ∧
    (∀ l, s.mayPerform r = true → s1.l2? r.ident r.tag r.line = some l → r.kind = .fill → Completes .l2Request s fun s' => s' = s1.dropReq r.rid) ∧
    (∀ l, s.mayPerform r = true → s1.l2? r.ident r.tag r.line = some l → r.kind = .load → r.strong = false → Completes .l2Request s fun s' =>
      (∃ e, s'.reqAt r.rid .l1 = some e ∧ e.got = some (l.data, l.zero, l.wb, l.poison) ∧ e.lanes = r.lanes) ∧
      s'.mem.l2 = s1.mem.l2 ∧ s'.mem.hbm = s1.mem.hbm ∧ s'.strs = s1.strs) ∧
    (∀ l, s.mayPerform r = true → s1.l2? r.ident r.tag r.line = some l → r.kind = .load → r.strong = true → Completes .l2Request s fun s' =>
      s'.mem.l2 = s1.mem.l2 ∧ s'.mem.hbm = s1.mem.hbm ∧ (∀ e ∈ s'.mem.reqs, e.rid ≠ r.rid) ∧
      (let x := mergeAll l (s1.owed r.core r.world r.line)
       ∀ c, s'.l1Find r.core r.world r.line = some c → c.way < 16 ∨ x.zero = false → c.data = x.data ∧ c.wb = x.wb ∧ c.poison = x.poison) ∧
      (r.acq = true → 2 ≤ r.scope → ∀ c ∈ s'.l1Of r.core, c.world ≠ r.world)) ∧
    (s.mayPerform r = true → s1.l2? r.ident r.tag r.line = none → (r.kind ≠ .store ∨ coverage 128 r.lanes ≠ 2 ^ 128 - 1) →
      Completes .l2Request s fun s' =>
        (∃ e, s'.reqAt r.rid .hbm = some e ∧ e.lanes = r.lanes ∧ e.kind = r.kind) ∧ s'.mem.l2 = s1.mem.l2 ∧ s'.mem.hbm = s1.mem.hbm)) ∧
  (∀ (s : State) (r : Req) (h : Nat), s.reqAt (s.argN 0) .atom = some r → s.mayPerform r = true → r.counted = true → s.argN 1 = 0 → s.argN 2 = 0 →
    s.physOf r.ident r.tag (r.line * 128) = some h → regionOf h = .hbm →
    let d := (readKeyed s.mem (h / 128) (s.memKey (s.ownerOf h)) r.line).1
    (∀ a rest, r.kind = .atomic → r.lanes = a :: rest → Completes .atomicUnitOp s fun s' =>
      s' = (((s.dropReq r.rid).atomPut r.ident r.tag h r.line
        (linePut d (a.addr % 128) a.size (atomNew r.atop a.size (lineGet d (a.addr % 128) a.size) a.data a.cmp)) r.wb (hbmPoison s.mem (h / 128))).opResult
          r.op [(a.lane, lineGet d (a.addr % 128) a.size)] (s.granWaybill h) (lineBad r (hbmPoison s.mem (h / 128)))).opLeave r.op) ∧
    (r.kind = .store → Completes .atomicUnitOp s fun s' =>
      s' = ((s.atomPut r.ident r.tag h r.line (mergeLine r.rid r.lanes d) r.wb
        (storePoison (coverage 128 r.lanes) (hbmPoison s.mem (h / 128)))).dropReq r.rid).opLeave r.op) ∧
    (r.kind = .load → r.acq = false → Completes .atomicUnitOp s fun s' =>
      s' = (((s.charge (stackOf h) (if r.ident then none else s.partOf r.tag)).opResult r.op (lineVals r d) (s.granWaybill h)
        (lineBad r (hbmPoison s.mem (h / 128)))).dropReq r.rid).opLeave r.op ∧
      s'.mem.hbm = s.mem.hbm))

/-- R33, R35, R71, R73, R78, R79, R82, R85: a miss is read from its controller, its line is installed in the L2 and delivered to the cache that
asked.
R131, R130, R5: a line written by one lane reads back what the lane wrote, in little-endian order, and every other byte as before; memory
lines read back under the key and the tweak they were written with.
R25, R69, R84, R94, R286: patrol, the write-back operation, the zeroing of released storage, walks and bandwidth windows. A partition at its
ceiling keeps its request, marked as held back; one whose turn it is not waits too.
The model's own part: What a fill under way installs once its line has been written is the model's reading (log 14); when a request's turn is, is
log 27. -/
def Obligations.FillsAndMaintenance : Prop :=
  (∀ (s : State) (r : Req) (d : Line) (z : Bool) (w : Waybill) (p : Nat),
    (∀ h, s.reqAt (s.argN 0) .hbm = some r → s.argN 1 = 0 → s.physOf r.ident r.tag (r.line * 128) = some h → regionOf h = .hbm →
      s.bandFull (stackOf h) (s.partOf r.world) = false → s.bandTurn (stackOf h) r = true → Completes .hbmRequest s fun s' =>
        s'.reqAt r.rid .fill = some { r with stage := .fill, got := some (
          (readKeyed s.mem (h / 128) (s.memKey (s.ownerOf h)) r.line).1, (readKeyed s.mem (h / 128) (s.memKey (s.ownerOf h)) r.line).2,
          s.granWaybill h, hbmPoison s.mem (h / 128)) } ∧
        s'.mem.hbm = s.mem.hbm ∧ s'.mem.l2 = s.mem.l2) ∧
    (∀ h, s.reqAt (s.argN 0) .hbm = some r → s.physOf r.ident r.tag (r.line * 128) = some h →
      s.bandFull (stackOf h) (s.partOf r.world) = true → Completes .hbmRequest s fun s' =>
        s' = { s with mem := { s.mem with reqs := s'.mem.reqs } } ∧ s'.reqAt r.rid .hbm = some { r with held := true } ∧
        (∀ e ∈ s'.mem.reqs, ∃ e0 ∈ s.mem.reqs, e = { e0 with held := e.held })) ∧
    (∀ h, s.reqAt (s.argN 0) .hbm = some r → s.physOf r.ident r.tag (r.line * 128) = some h →
      s.bandFull (stackOf h) (s.partOf r.world) = false → s.bandTurn (stackOf h) r = false → exec .hbmRequest s = .next s) ∧
    (s.reqAt (s.argN 0) .fill = some r → r.got = some (d, z, w, p) → s.l2? r.ident r.tag r.line = none → Completes .l2Fill s fun s' =>
      s'.l2? r.ident r.tag r.line = some ⟨d, z, false, w, p⟩ ∧
      (if r.kind = .fill then ∀ e ∈ s'.mem.reqs, e.rid ≠ r.rid else s'.reqAt r.rid .l2 = some { r with stage := .l2, got := none })) ∧
    (s.reqAt (s.argN 0) .l1 = some r → r.got = some (d, z, w, p) → r.kind = .load → r.noInstall = true → Completes .l1Fill s fun s' =>
      s' = ((s.dropReq r.rid).opResult r.op (lineVals r d) w (lineBad r p)).opLeave r.op ∧ s'.mem.l1 = s.mem.l1) ∧
    (∀ di zi wi pi, s.reqAt (s.argN 0) .l1 = some r → r.got = some (d, z, w, p) → r.inst.getD (d, z, w, p) = (di, zi, wi, pi) →
      r.kind = .load ∨ r.kind = .pfetch → r.noInstall = false → r.later = [] → zi = true ∨ s.wayMask r.world % 65536 ≠ 0 → Completes .l1Fill s fun s' =>
        ∃ c, s'.l1Find r.core r.world r.line = some c ∧ c.data = di ∧ c.wb = wi ∧ c.poison = pi ∧ (16 ≤ c.way ↔ zi = true)) ∧
    (s.reqAt (s.argN 0) .l1 = some r → r.got = some (d, z, w, p) → r.kind = .cfetch → Completes .constantCacheFill s fun s' =>
      ∃ c, (tget [] s'.mem.cc r.core).find? (fun c => c.is r.world r.line) = some c ∧ c.data = d ∧ c.wb = w ∧ c.poison = p) ∧
    (s.reqAt (s.argN 0) .l1 = some r → r.got = some (d, z, w, p) → r.kind = .ifetch → Completes .instructionCacheFill s fun s' =>
      (∃ c, (tget [] s'.mem.ic r.core).find? (fun c => c.is r.world r.line) = some c ∧ c.data = d ∧ c.wb = w ∧ c.poison = p) ∧
      s'.strs = s.strs ∧ s'.mem.hbm = s.mem.hbm)) ∧
  ((∀ (d : Line) (off n v : Nat), off + n ≤ 128 → lineGet (linePut d off n v) off n = v % 2 ^ (8 * n) ∧
    ∀ k m, k + m ≤ off ∨ off + n ≤ k → k + m ≤ 128 → lineGet (linePut d off n v) k m = lineGet d k m) ∧
  (∀ (m : MemS) (hl key tweak : Nat) (d : Line), readKeyed (writeKeyed m hl key tweak d) hl key tweak = (d, false)) ∧
  (∀ (m : MemS) (hl key tweak : Nat), readKeyed (zeroLine m hl) hl key tweak = (0, true)) ∧
  (∀ (m : MemS) (hl hl' key tweak k t : Nat) (d : Line), hl ≠ hl' → readKeyed (writeKeyed m hl key tweak d) hl' k t = readKeyed m hl' k t) ∧
  (∀ (rid : Nat) (d : Line) (l : LaneReq), l.addr % 128 + l.size ≤ 128 → l.size ≠ 16 →
    mergeLine rid [l] d = linePut d (l.addr % 128) l.size l.data) ∧
  (∀ (d : Line) (n : Nat), lineGet d n 4 = lineGet d n 1 + 2 ^ 8 * lineGet d (n + 1) 1 + 2 ^ 16 * lineGet d (n + 2) 1 + 2 ^ 24 * lineGet d (n + 3) 1)) ∧
  (∀ s : State,
    (s.argN 1 = 0 → Completes .patrolRead s fun s' => s' = { s with mem := { s.mem with patrol := s.argN 0 + 1 } }) ∧
    ((s.pkg 0x072).getLsbD 31 = true → s.mem.wbBusy = false → Completes .writeBackStart s fun s' =>
      s'.mem.wbBusy = true ∧
      (∀ t n l, t < 256 → n < 2 ^ 45 → s.inWb t n = true → s'.l2? false t n = some l → l.dirty = false) ∧
      ((s.pkg 0x072).getLsbD 30 = true → ∀ t n, t < 256 → n < 2 ^ 45 → s.inWb t n = true → s'.l2? false t n = none)) ∧
    (s.mem.wbBusy = true → Completes .writeBackComplete s fun s' =>
      s'.mem = { s.mem with wbBusy := false } ∧ s'.pkg 0x072 = s.pkg 0x072 &&& ~~~(0x80000000#64) ∧ s'.strs = s.strs) ∧
    (∀ k n rest, s.mem.zeroing = (1, k, n) :: rest →
      (∀ e ∈ s.mem.reqs, e.isOpen = true → e.space = 1 → ∀ l ∈ e.lanes, ¬ (k ≤ l.addr ∧ l.addr < k + n)) → Completes .allocationZero s fun s' =>
      (∀ a, k ≤ a → a < k + n → s'.chipByte 1 a = 0) ∧ (∀ a, a < k ∨ k + n ≤ a → s'.chipByte 1 a = s.chipByte 1 a) ∧
      (∀ b, k ≤ b * 256 → b * 256 < k + n → s'.chipWb 1 b = 0) ∧ s'.mem.zeroing = rest ∧ s'.mem.hbm = s.mem.hbm ∧ s'.mem.l2 = s.mem.l2) ∧
    (canonical (BitVec.ofNat 64 (s.argN 2)) = true → Completes .pageWalk s fun s' =>
      s' = (s.xlate (s.argN 0) (s.argN 1) (s.argN 2) (s.argN 3) (s.argN 4)).2) ∧
    (s.time / 3600 ≠ s.mem.window →
      Completes .bandwidthWindow s fun s' => s' = { s with mem := { s.mem with bw := [], window := s.time / 3600 } }) ∧
    (s.time / 3600 = s.mem.window → exec .bandwidthWindow s = .next s))

/-! ### Translation, frames and system registers -/

/-- R24, R33, R22: the checks of a leaf, each before the ones after it. -/
def Obligations.LeafChecks : Prop :=
  ∀ (e : TlbE) (acc lvl s2lvl : Nat) (mapped sealed_ offline : Bool),
    let fault := fun (c r l st : Nat) => ∃ k, leafCheck e acc lvl mapped s2lvl sealed_ offline = some (.trap ⟨k, c, r, l, st⟩)
    let n := if e.size ≤ 1 then 0 else e.size - 1
    let write : Prop := acc = 1 ∨ acc = 2 ∨ acc = 5 ∨ acc = 7
    let userOk : Prop := (lvl = 0 → lfUser e.leaf = true) ∧ (lvl ≠ 0 → acc = 3 → lfUser e.leaf = false)
    let stage2 : Prop := mapped = true ∧ (write → e.wr = true) ∧ (acc = 3 → e.ex = true) ∧ (¬ write → acc ≠ 3 → e.rd = true) ∧ offline = false
    let unsealed : Prop := write → lfSeal e.leaf = false ∧ sealed_ = false
    (lvl = 0 → lfUser e.leaf = false → fault 0x05 6 n 0) ∧
    (lvl ≠ 0 → acc = 3 → lfUser e.leaf = true → fault 0x05 7 n 0) ∧
    (userOk → mapped = false → fault 0x04 9 s2lvl 1) ∧
    (userOk → mapped = true → write → e.wr = false → fault 0x05 10 s2lvl 1) ∧
    (userOk → mapped = true → acc = 3 → e.ex = false → fault 0x05 10 s2lvl 1) ∧
    (userOk → mapped = true → ¬ write → acc ≠ 3 → e.rd = false → fault 0x05 10 s2lvl 1) ∧
    (userOk → mapped = true → (write → e.wr = true) → (acc = 3 → e.ex = true) → (¬ write → acc ≠ 3 → e.rd = true) → offline = true →
      fault 0x04 11 s2lvl 1) ∧
    (userOk → stage2 → write → lfSeal e.leaf = true ∨ sealed_ = true → fault 0x06 12 n 0) ∧
    (userOk → stage2 → unsealed → write → lfW e.leaf = false → lfHome e.leaf = false → fault 0x05 4 n 0) ∧
    (userOk → stage2 → unsealed → write → lfW e.leaf = false → lfHome e.leaf = true →
      leafCheck e acc lvl mapped s2lvl sealed_ offline = some (.park e.size true)) ∧
    (userOk → stage2 → acc = 3 → lfX e.leaf = false → fault 0x05 5 n 0) ∧
    (userOk → stage2 → acc = 3 → lfX e.leaf = true → sealed_ = false → fault 0x05 8 n 0) ∧
    (userOk → stage2 → unsealed → (write → lfW e.leaf = true) → (acc = 3 → lfX e.leaf = true ∧ sealed_ = true) →
      leafCheck e acc lvl mapped s2lvl sealed_ offline = none)

/-- R42: the privilege of a shootdown's operand.
R42: a shootdown that its level may name, once the string's earlier accesses are performed, removes what it names, and completes at once
or with the accesses that used what it removed. What each kind leaves in the core, fetch and die TLBs, the walk caches, the block caches of
the porters and the second-stage caches holds nothing it names; entries of other worlds stay.
The model's own part: That the entries go at issue is the model's reading (log 55); that a second-stage kind removes all walk entries of its
partition is the model's choice (log 139). -/
def Obligations.Shootdowns : Prop :=
  (∀ (a b : BitVec 6) (f : BitVec 1) (s : State),
    let w := (s.cur.sget a.toNat).toNat
    let own := s.topPart s.cur.world
    let priv := fun i => Traps i s cPRIV (s.curWord.setWidth 64)
    (ready (.tlbiPage a b f) s = true → (255 < w ∨ (s.curp.level < 2 ∧ (s.partOf w = none ∨ s.partOf w ≠ own))) → priv (.tlbiPage a b f)) ∧
    (ready (.tlbiWorld a f) s = true → (255 < w ∨ (s.curp.level < 2 ∧ (s.partOf w = none ∨ s.partOf w ≠ own))) → priv (.tlbiWorld a f)) ∧
    (ready (.tlbiPart a f) s = true → (23 < w ∨ (s.curp.level < 2 ∧ some (s.topOf w) ≠ own)) → priv (.tlbiPart a f)) ∧
    (ready (.tlbiG2page a b f) s = true → 23 < w → priv (.tlbiG2page a b f)) ∧
    (ready (.tlbiG2part a f) s = true → 23 < w → priv (.tlbiG2part a f))) ∧
  (∀ (a b : BitVec 6) (f : BitVec 1) (s : State),
    let w := (s.cur.sget a.toNat).toNat
    let va := (s.cur.spair b.toNat).toNat
    let done := fun (i : Instr) (kind who addr : Nat) =>
      ready i s = true → s.curp.rep = false → s.settled s.curp = true →
        (s.shootWaits kind who addr = [] → Completes i s fun s' => s' = (s.shoot kind who addr).goOn s.cur s.curp) ∧
        (s.shootWaits kind who addr ≠ [] → Completes i s fun s' =>
          s' = ({ (s.shoot kind who addr).takeOp with
            mem := { (s.shoot kind who addr).mem with
              ops := tput (s.shoot kind who addr).mem.ops (s.shoot kind who addr).nextOp
                ⟨s.curUnit, s.curPath, .none, false, 0, false, 1, none⟩ }
            xl := { (s.shoot kind who addr).xl with
              shoots := (s.shoot kind who addr).xl.shoots ++
                [⟨kind, who, addr, (s.shoot kind who addr).nextOp, s.curUnit, s.curPath, s.shootWaits kind who addr⟩] } } : State).goOn
              s.cur (s.curp.bind f (s.shoot kind who addr).nextOp))
    (w ≤ 255 → 2 ≤ s.curp.level ∨ (s.partOf w ≠ none ∧ s.partOf w = s.topPart s.cur.world) →
      done (.tlbiPage a b f) 0 w va ∧ done (.tlbiWorld a f) 1 w 0) ∧
    (w ≤ 23 → 2 ≤ s.curp.level ∨ some (s.topOf w) = s.topPart s.cur.world →
      done (.tlbiPart a f) 2 w 0 ∧ done (.tlbiG2page a b f) 4 w va ∧ done (.tlbiG2part a f) 5 w 0) ∧
    done (.tlbiAll f) 3 0 0 ∧
    (∀ (k n : Nat),
      let has := fun (x : State) (e : TlbE) => e ∈ tget [] x.xl.dtlb n ∨ e ∈ tget [] x.xl.ctlb n ∨ e ∈ tget [] x.xl.ftlb n
      (∀ e, (has (s.shoot 0 k va) e → e.covers k (va % 2 ^ 57 / 4096) = false) ∧
        (has (s.shoot 1 k 0) e → e.world ≠ k) ∧
        (has (s.shoot 2 k 0) e → s.partOf e.world ≠ some k) ∧
        ¬ has (s.shoot 3 0 0) e ∧
        (has (s.shoot 4 k va) e → s.topPart e.world = some k → e.gpn * 4096 / 2 ^ pageBits e.size ≠ va / 2 ^ pageBits e.size) ∧
        (has (s.shoot 5 k 0) e → s.topPart e.world ≠ some k) ∧
        (has s e → e.world ≠ k → has (s.shoot 1 k 0) e ∧ has (s.shoot 0 k va) e) ∧
        (has s e → s.partOf e.world ≠ some k → has (s.shoot 2 k 0) e) ∧
        (has s e → s.topPart e.world ≠ some k → has (s.shoot 4 k va) e ∧ has (s.shoot 5 k 0) e)) ∧
      (∀ w : WalkE, (w ∈ tget [] (s.shoot 0 k va).xl.wcache n → w.world = k → w.pfx ≠ va % 2 ^ 57 / 2 ^ (12 + 9 * w.lvl)) ∧
        (w ∈ tget [] (s.shoot 1 k 0).xl.wcache n → w.world ≠ k) ∧ (w ∈ tget [] (s.shoot 2 k 0).xl.wcache n → s.partOf w.world ≠ some k) ∧
        w ∉ tget [] (s.shoot 3 0 0).xl.wcache n ∧
        (w ∈ tget [] (s.shoot 4 k va).xl.wcache n ∨ w ∈ tget [] (s.shoot 5 k 0).xl.wcache n → s.topPart w.world ≠ some k)) ∧
      (∀ b : BtcE, (b ∈ tget [] (s.shoot 1 k 0).eng.btc n → b.world ≠ k) ∧ (b ∈ tget [] (s.shoot 2 k 0).eng.btc n → s.partOf b.world ≠ some k) ∧
        b ∉ tget [] (s.shoot 3 0 0).eng.btc n ∧ (b ∈ tget [] (s.shoot 5 k 0).eng.btc n → s.topPart b.world ≠ some k)) ∧
      (∀ c ∈ tget [] (s.shoot 4 k va).xl.s2c k, c.gpn * 4096 / 2 ^ pageBits c.size ≠ va / 2 ^ pageBits c.size) ∧
      tget [] (s.shoot 5 k 0).xl.s2c k = []) ∧
    (∀ x, s.xl.shoots.find? (fun x => x.op == s.argN 0) = some x → x.kind ≠ 6 → (∀ r ∈ s.mem.reqs, r.rid ∉ x.waits) →
      Completes .tlbiComplete s fun s' =>
        s' = { s with xl := { s.xl with shoots := s.xl.shoots.filter (fun y => y.op != x.op) } }.opLeave x.op))

/-- R47 to R49, R51, R346: SCRUB gives its result word after the frame is zeroed and unowned; a misaligned frame and frame 0 give FORM and
change nothing; a sealed granule traps.
R35, R49, R51: a scrubbed 4 KiB frame: every line reads as a zero line under every key, and its granule is unowned and unsealed with
waybill 0; OFFLINE and UCOUNT stay.
R48, R342: kernel-level reads of a frame pool take its oldest frame; an empty pool stalls the reader, or gives 0 at a try,
and so does a frame that an earlier reader waits for. -/
def Obligations.FramesAndPools : Prop :=
  (∀ (d a : BitVec 6) (f : BitVec 1) (z : BitVec 2) (s : State),
    let gpa := (s.cur.spair a.toNat).toNat % 2 ^ 52
    let size := z.toNat
    let w := s.cur.sws a.toNat 2 ||| s.curp.flow
    let answer := fun (s1 : State) (c : Nat) (s' : State) => s' = s1.goOn (s.cur.sput d.toNat (BitVec.ofNat 32 (c * 2 ^ 24)) w) s.curp
    (ready (.scrub d a f z) s = true → gpa % 2 ^ pageBits size ≠ 0 ∨ gpa = 0 → Completes (.scrub d a f z) s (answer s 3)) ∧
    (∀ q, ready (.scrub d a f z) s = true → gpa % 2 ^ pageBits size = 0 → gpa ≠ 0 → s.topPart s.cur.world = some q →
      let gs := s.frameGrans q gpa size
      let s1 := s.scrubFrame q gpa size
      let l := tget [] s1.xl.pools (q * 4 + size)
      (∀ x ∈ gs, ∃ e g, x.2 = some (e, g) ∧ e.getLsbD 2 = true ∧ g.getLsbD 31 = false) →
      ((∃ x ∈ gs, ∃ e g, x.2 = some (e, g) ∧ g.getLsbD 30 = true) → Completes (.scrub d a f z) s (answer s1 1)) ∧
      ((∀ x ∈ gs, ∀ e g, x.2 = some (e, g) → g.getLsbD 30 = false) → 2 ^ 18 ≤ l.length → Completes (.scrub d a f z) s (answer s1 2)) ∧
      ((∀ x ∈ gs, ∀ e g, x.2 = some (e, g) → g.getLsbD 30 = false) → l.length < 2 ^ 18 → Completes (.scrub d a f z) s
        (answer { s1 with xl := { s1.xl with pools := tset [] s1.xl.pools (q * 4 + size) (l ++ [gpa]) } } 0))) ∧
    (∀ q g e x rest, ready (.scrub d a f z) s = true → gpa % 2 ^ pageBits size = 0 → gpa ≠ 0 → s.topPart s.cur.world = some q →
      s.frameGrans q gpa size = (g, some (e, x)) :: rest → e.getLsbD 2 = true → x.getLsbD 31 = true →
      exec (.scrub d a f z) s = takeTrap s s.cur
        ⟨cSEALED, s.curp.here, s.curp.pos, BitVec.ofNat 64 g, 0, some (tinfoWord 0 12 0 0 7), none, none, none⟩)) ∧
  (∀ (s : State) (q gpa sz : Nat) (e : Dword), s.s2Leaf q gpa = some (sz, e) → gpa % 4096 = 0 → (s.preg q 0x065).getLsbD 31 = false →
    let h := entFrame e + gpa % 2 ^ pageBits sz
    let s' := s.scrubFrame q gpa 0
    regionOf h = .hbm → sz ≤ 3 →
    (∀ j key tweak, j < 32 → readKeyed s'.mem (h / 128 + j) key tweak = (0, true)) ∧
    granOwner (s'.gran (h / 4096)) = 0 ∧ granWb (s'.gran (h / 4096)) = 0 ∧ granSealed (s'.gran (h / 4096)) = false ∧
    granOffline (s'.gran (h / 4096)) = granOffline (s.gran (h / 4096)) ∧ granUcount (s'.gran (h / 4096)) = granUcount (s.gran (h / 4096)) ∧
    (∀ w line, w < 256 → line < 2 ^ 45 → s.topPart w = some q → gpa ≤ line * 128 → line * 128 < gpa + 4096 → s'.l2? false w line = none) ∧
    s'.strs = s.strs) ∧
  (∀ (d : BitVec 6) (r : BitVec 12) (s : State) (q : Nat) (g : Nat) (rest : List Nat),
    let z := r.toNat % 4
    let pool := tget [] s.xl.pools (q * 4 + z)
    let mine := fun w : PoolWait => w.who == some (s.curUnit, s.curPath)
    let taken : State := { s with xl := { s.xl with pools := tset [] s.xl.pools (q * 4 + z) rest, poolWait := s.xl.poolWait.filter (fun w => !mine w) } }
    let idle : Prop := ∀ w ∈ s.xl.poolWait, w.part = q → w.size ≠ z
    let got := fun s1 : State => s1.goOn (s.cur.sputPair d.toNat (BitVec.ofNat 64 g) s.curp.flow) s.curp
    s.cur.outrider = false → 1 ≤ s.curp.level → s.ownTop s.cur s.curp r.toNat = some q →
    (ready (.sysr d r) s = true → 0x068 ≤ r.toNat → r.toNat ≤ 0x06A → pool = g :: rest → (∀ w ∈ s.xl.poolWait, w.part = q → w.size = z → mine w) →
      Completes (.sysr d r) s fun s' => s' = got taken) ∧
    (ready (.sysr d r) s = true → 0x068 ≤ r.toNat → r.toNat ≤ 0x06A → pool = [] → Completes (.sysr d r) s fun s' =>
      s'.curp = { s.curp with hold := .frame } ∧
      s'.xl.poolWait = s.xl.poolWait.filter (fun w => !mine w) ++ [⟨q, z, some (s.curUnit, s.curPath), 0, d.toNat⟩]) ∧
    (ready (.sysr d r) s = true → 0x06C ≤ r.toNat → r.toNat ≤ 0x06E → pool = g :: rest → idle → Completes (.sysr d r) s fun s' =>
      s' = got { s with xl := { s.xl with pools := tset [] s.xl.pools (q * 4 + z) rest } }) ∧
    (ready (.sysr d r) s = true → 0x06C ≤ r.toNat → r.toNat ≤ 0x06E → pool = [] ∨ ¬ idle → Completes (.sysr d r) s fun s' =>
      s' = s.goOn (s.cur.sputPair d.toNat 0 s.curp.flow) s.curp) ∧
    (∀ h, s.str? s.curUnit = some s.cur → s.curp.sysrHere = some (r.toNat, d.toNat) → s.curp.state = .running → s.curp.hold = h →
      h = .none ∨ h = .again → pool = g :: rest →
      (0x068 ≤ r.toNat → r.toNat ≤ 0x06A → (∀ w ∈ s.xl.poolWait, w.part = q → w.size = z → mine w) →
        Completes .framePoolRead s fun s' => s' = got taken) ∧
      (0x06C ≤ r.toNat → r.toNat ≤ 0x06E → idle → Completes .frameTryRead s fun s' =>
        s' = got { s with xl := { s.xl with pools := tset [] s.xl.pools (q * 4 + z) rest } })) ∧
    (∀ w u b t, s.xl.poolWait.find? (fun w => w.part == s.argN 0 && w.size == s.argN 1) = some w → w.who = some (u, b) → s.str? u = some t →
      (t.path b).hold = .frame → t.captured = false → tget [] s.xl.pools (w.part * 4 + w.size) = g :: rest →
      Completes .frameReadServed s fun s' =>
        s'.str? u = some ((advance (t.sputPair w.reg (BitVec.ofNat 64 g) (t.path b).flow) (t.path b)).1.setPath b
          (advance (t.sputPair w.reg (BitVec.ofNat 64 g) (t.path b).flow) (t.path b)).2) ∧
        tget [] s'.xl.pools (w.part * 4 + w.size) = rest ∧ s'.xl.poolWait = s.xl.poolWait.filter (fun x => x != w)))

/-- R60, R267, R304, R342: SYSR: an undefined number is ILLEGAL, a level below the register's PRIV, a register without a read gives 0, and any
other gives its value, a pair in 64 bits. The registers of a trap want the level of the string's last handler, and at an outrider that of the
string it is bound to. -/
def Obligations.SystemRegisterReads : Prop :=
  ∀ (d : BitVec 6) (r : BitVec 12) (s : State),
    let p := s.curp
    let reads := fun n => s.regRead s.curUnit s.cur p n
    let holder := if s.cur.outrider then (s.str? s.cur.bound).getD s.cur else s.cur
    (s.str? s.curUnit = some s.cur → sysRow r.toNat = none → Traps (.sysr d r) s cILLEGAL (s.curWord.setWidth 64)) ∧
    (∀ x, ready (.sysr d r) s = true → sysRow r.toNat = some x →
      (∀ l, x.rd = .level l → p.level < l → Traps (.sysr d r) s cPRIV (s.curWord.setWidth 64)) ∧
      (x.rd = .handler → p.level < holder.trapLevel → Traps (.sysr d r) s cPRIV (s.curWord.setWidth 64)) ∧
      (x.rd = .none → Completes (.sysr d r) s fun s' => UniResult s s' d.toNat (if x.pair then 2 else 1) 0 0) ∧
      (x.rd ≠ .none → (∀ l, x.rd = .level l → l ≤ p.level) → (x.rd = .handler → holder.trapLevel ≤ p.level) →
        r.toNat ∉ [0x068, 0x069, 0x06A, 0x06C, 0x06D, 0x06E] → Completes (.sysr d r) s fun s' =>
          UniResult s s' d.toNat (if x.pair then 2 else 1) 0 (if x.pair then (reads r.toNat).toNat else (reads r.toNat).toNat % 2 ^ 32))) ∧
    (∀ n, 0x0F5 < n → sysRow n = none) ∧
    reads 0x001 = BitVec.ofNat 64 p.level ∧ reads 0x008 = p.mask.setWidth 64 ∧ reads 0x010 = BitVec.ofNat 64 s.time ∧
    reads 0x030 = p.flow.setWidth 64 ∧ reads 0x061 = p.tinfo.setWidth 64 ∧ reads 0x0AA = p.rfinfo.setWidth 64 ∧
    reads 0x0E5 = p.gtinfo.setWidth 64 ∧ reads 0x0E6 = BitVec.ofNat 64 s.mono ∧ reads 0x022 = s.pkg 0x022 ∧
    (s.cur.outrider = false → reads 0x000 = BitVec.ofNat 64 s.cur.world ∧ reads 0x026 = s.cur.lmask.setWidth 64 ∧
      reads 0x027 = BitVec.ofNat 64 s.cur.repidx ∧ reads 0x021 = s.wreg s.cur.world 0x021 ∧ reads 0x060 = s.wreg s.cur.world 0x060 ∧
      (∀ n ∈ [0x011, 0x013, 0x014, 0x015, 0x016, 0x020, 0x023, 0x024, 0x025, 0x029, 0x02A, 0x02B, 0x02C, 0x02D, 0x052, 0x062, 0x070, 0x0A6, 0x0B0,
        0x0B1, 0x0D0, 0x0E2], reads n = s.cur.reg n))

/-- R60, R301, R304, R342 and the registers' tables: SYSW: an undefined number and a register without a write are ILLEGAL, a level below the
register's PRIV, before a poisoned source is looked at; the register takes the value without its reserved bits, the flow waybill grows by the source's,
and nothing else of the string changes. A register of a partition is that of the selected one at steward level, otherwise that of the world's, or of its
top-level one; a field with a range takes the nearest value of it, and one that may not be 0 takes 1 for 0; some writes begin an operation.
The model's own part: The widths of address registers are the model's reading of their tables (log 58); the numbers from 2^12 on, by which the steward
binds a world and ends its binding (R10, R443), are the model's choice (log 148). -/
def Obligations.SystemRegisterWrites : Prop :=
  ∀ (a : BitVec 6) (r : BitVec 12) (s : State),
    let n := r.toNat
    let p := s.curp
    let pair := ((sysRow n).map SysRow.pair).getD false
    let v : Dword := if pair then s.cur.spair a.toNat else (s.cur.sget a.toNat).setWidth 64
    let w := if pair then s.cur.sw a.toNat ||| s.cur.sw (a.toNat + 1) else s.cur.sw a.toNat
    let p' := { p with flow := p.flow ||| w }
    let strMask : List (Nat × Dword) := [(0x011, 0xFFFFFFFFFFFFFFFF), (0x013, 0xFFC00000), (0x014, 0xFFFFFFFF), (0x015, 0xFFFFFFFF),
      (0x020, 0xFFFFFFFFFFFFFFFC), (0x023, 0xFF), (0x024, 0xFFFFFFFFFFFFFFFF), (0x025, 0xFFFFFFFFFFFFFFFF), (0x029, 0xFFFFFFFFFFFFFFFF),
      (0x02A, 0xFFFFFFFFFFFFFFFF), (0x02B, 0xFFFFFFFFFFFFFFFF), (0x02C, 0xFFFFFFFFFFFFFFFF), (0x052, 0x800000FF), (0x062, 0x1F),
      (0x0A6, 0x3FF), (0x0B0, 3), (0x0B1, 0x7F), (0x0D0, 0xFFF), (0x0E2, 0x3FF)]
    let worldMask : List (Nat × Dword) := [(0x021, 0xFFFFFFFFFFFFFFFC), (0x060, 0xFFFFFFFFFF001), (0x0E9, 0xFFFF), (0x050, 0xFFFF)]
    let pkgMask : List (Nat × Dword) := [(0x022, 0xFFFFFFFFFFFFFFFC), (0x071, 0xFFFFFFFFFF000), (0x0A0, 0x3FF), (0x0A1, 0xFFFFFFFFFE000),
      (0x0C1, 0x3FFF)]
    let selMask : List (Nat × Dword) := [(0x063, 0xFFFFFFFFF0001), (0x064, 0xFFFFFFFFFFFFFFFF), (0x0C0, 0xFFFFFFFFFF000), (0x0C4, 0xFFFFFF)]
    let partMask : List (Nat × Dword) := [(0x012, 0xFFFF), (0x080, 0x8000001D), (0x082, 0xFFFFFFFFFFFC0), (0x0A9, 1), (0x0D7, 0xFFFF), (0x0EA, 1)]
    let topMask : List (Nat × Dword) := [(0x086, 0xFFFFFFFFFF800), (0x087, 0xFFFFFFFFFFFE0), (0x0D9, 0xFFFFFFFFFFFC0), (0x0EB, 0xFFFFFFFFFFFC0)]
    let selected := if (s.cur.reg 0x062).toNat < 24 then some (s.cur.reg 0x062).toNat else none
    let own := if 2 ≤ p.level then selected else s.partOf s.cur.world
    let holder := if s.cur.outrider then (s.str? s.cur.bound).getD s.cur else s.cur
    let writes := fun (s1 : State) => Completes (.sysw a r) s fun s' => s' = s1.goOn s.cur p'
    let field := fun (x : Dword) (k m : Nat) => x.toNat / 2 ^ k % 2 ^ m
    let may : Prop := ∀ x, sysRow n = some x → (∀ l, x.wr = .level l → l ≤ p.level) ∧ (x.wr = .handler → holder.trapLevel ≤ p.level)
    (∀ x l, s.str? s.curUnit = some s.cur → legal s.cur (.sysw a r) = true → sysRow n = some x → x.wr = .level l → p.level < l →
      Traps (.sysw a r) s cPRIV (s.curWord.setWidth 64)) ∧
    (s.str? s.curUnit = some s.cur → sysRow n = none ∨ (∃ x, sysRow n = some x ∧ x.wr = .none) →
      Traps (.sysw a r) s cILLEGAL (s.curWord.setWidth 64)) ∧
    (ready (.sysw a r) s = true →
    (∀ x, sysRow n = some x → x.wr = .handler → p.level < holder.trapLevel → Traps (.sysw a r) s cPRIV (s.curWord.setWidth 64)) ∧
    (may → ∀ m, (n, m) ∈ strMask → Completes (.sysw a r) s fun s' => s' = s.goOn (s.cur.setReg n (v &&& m)) p') ∧
    (may → ∀ m, (n, m) ∈ worldMask → Completes (.sysw a r) s fun s' =>
      s' = (s.setWreg s.cur.world n (v &&& m)).goOn s.cur p') ∧
    (may → ∀ m, (n, m) ∈ pkgMask → Completes (.sysw a r) s fun s' => s' = (s.setPkg n (v &&& m)).goOn s.cur p') ∧
    (may → n = 0x000 → Completes (.sysw a r) s fun s' => s' = s.goOn { s.cur with world := v.toNat % 256 } p') ∧
    (may → n ∈ [0x063, 0x064, 0x065, 0x0C0, 0x0C4] → 24 ≤ (s.cur.reg 0x062).toNat → Completes (.sysw a r) s fun s' => s' = s.goOn s.cur p') ∧
    (∀ q m, may → (n, m) ∈ selMask → selected = some q → writes (s.setPreg q n (v &&& m))) ∧
    (∀ q m, may → (n, m) ∈ partMask → own = some q → writes (s.setPreg q n (v &&& m))) ∧
    (∀ q m, may → (n, m) ∈ topMask → own = some q → writes (s.setPreg (s.topOf q) n (v &&& m))) ∧
    (∀ m, may → (n, m) ∈ partMask ∨ (n, m) ∈ topMask → own = none → writes s) ∧
    (∀ q m, may → (n, m) ∈ [(0x073, 0xFFFFFFFFFFFC0), (0x0A8, (0xFFFFFFFFFFFC0 : Dword))] → s.cur.world ≠ 0 → own = some q →
      writes (s.setPreg (s.topOf q) n (v &&& m))) ∧
    (∀ m, may → (n, m) ∈ [(0x073, 0xFFFFFFFFFFFC0), (0x0A8, (0xFFFFFFFFFFFC0 : Dword))] → s.cur.world = 0 → writes (s.setPreg 24 n (v &&& m))) ∧
    (may → n = 0x0F0 → writes (s.setPkg 0x0F0 (BitVec.ofNat 64 (max 1200 (min 3200 (field v 0 16)))))) ∧
    (may → n = 0x0A5 → writes (s.setPkg 0x0A5 (BitVec.ofNat 64 (if field v 0 12 = 0 then 1 else field v 0 12)))) ∧
    (∀ q, may → n = 0x0DA → own = some q → writes (s.setPreg q 0x0DA
      (BitVec.ofNat 64 (2 ^ 31 * field v 31 1 + (if field v 0 8 = 0 then 1 else field v 0 8))))) ∧
    (∀ q, may → n = 0x0D5 ∨ n = 0x0D6 → own = some q → writes (s.setPreg q n
      (BitVec.ofNat 64 (2 ^ 16 * field v 16 16 + 2 ^ 8 * (if field v 8 8 = 0 then 1 else field v 8 8))))) ∧
    (∀ q, may → n = 0x085 → own = some q → writes (s.setPreg (s.topOf q) 0x085
      (BitVec.ofNat 64 (2 ^ 12 * field v 12 40 + max 6 (min 22 (field v 0 6)))))) ∧
    (may → n = 0x0A2 → writes { s with agenda := ⟨0, .event .fbsync ⟨[v.toNat % 1024], []⟩⟩ :: s.agenda }) ∧
    (may → n = 0x0BA → v.toNat.testBit 31 = true →
      writes { s with agenda := ⟨0, .event .btcInvalidate ⟨[coreOf s.curUnit, s.cur.world], []⟩⟩ :: s.agenda }) ∧
    (may → n = 0x0BB → writes { s with eng := { s.eng with btcstat := terase s.eng.btcstat (coreOf s.curUnit) } }) ∧
    (may → n = 0x0BC → writes { s with eng := { s.eng with mcstat := terase s.eng.mcstat (coreOf s.curUnit) } }) ∧
    (may → n = 0x0F4 → v.toNat.testBit 31 = true → writes { s with agenda := ⟨0, .event .rstctlWarm ⟨[], []⟩⟩ :: s.agenda }) ∧
    (∀ k (x : Dword), s.argN 2 = k → s.argN 3 = x.toNat → p.live = true → (∃ m, (k, m) ∈ strMask ∧
      (∀ y, sysRow k = some y → (∀ l, y.wr = .level l → l ≤ p.level) ∧ (y.wr = .handler → holder.trapLevel ≤ p.level))) →
      Completes .systemRegisterWrite s fun s' => ∃ m, (k, m) ∈ strMask ∧ s' = s.putStr s.curUnit (s.cur.setReg k (x &&& m)))) ∧
    (∀ world, s.str? s.curUnit = some s.cur → p.live = true → p.level = 2 → s.argN 3 = world → 0 < world → world < 256 →
      let used := (∃ e ∈ s.strs, e.2.outrider = false ∧ e.2.world = world) ∨
        ∃ k, ∃ e, (e ∈ tget [] s.xl.dtlb k ∨ e ∈ tget [] s.xl.ctlb k ∨ e ∈ tget [] s.xl.ftlb k) ∧ e.world = world
      (used → s.argN 2 = 4096 ∨ s.argN 2 = 4097 → exec .systemRegisterWrite s = .next s) ∧
      (s.unused world = true → s.argN 2 = 4097 → Completes .systemRegisterWrite s fun s' =>
        s'.partOf world = none ∧ (∀ u, u ≠ world → s'.partOf u = s.partOf u) ∧ (∀ e ∈ s'.tr.policies, e.2.world ≠ world) ∧
        tget 0 s'.tr.meas world = 0 ∧ tget 0 s'.tr.serial world = 0 ∧ (∀ e ∈ s'.tr.attested, e.1 / 1024 ≠ world) ∧ s'.memKey world = s.tr.nextKey) ∧
      (∀ q, s.unused world = true → s.argN 2 = 4096 → s.argN 4 = q → q < 24 → Completes .systemRegisterWrite s fun s' =>
        s'.partOf world = some q ∧ (∀ u, u ≠ world → s'.partOf u = s.partOf u) ∧ tget 0 s'.tr.meas world = 0 ∧ s'.memKey world = s.tr.nextKey)) ∧
    (∀ q, s.str? s.curUnit = some s.cur → p.live = true → p.level = 2 → s.argN 3 = q → q < 24 →
      (s.argN 2 = 4098 → Completes .systemRegisterWrite s fun s' =>
        s' = s.preempt q ∧ q ∈ s'.sch.held ∧ ∀ w, s.partOf w = some q ∨ s.topPart w = some q → s'.mayPlace w = false) ∧
      (s.argN 2 = 4099 → Completes .systemRegisterWrite s fun s' =>
        s'.sch.held = s.sch.held.filter (fun x => x != q) ∧ s'.mem = s.mem ∧ s'.stored = s.stored)) ∧
    (s.str? s.curUnit = some s.cur → p.level ≠ 2 → 4096 ≤ s.argN 2 → exec .systemRegisterWrite s = .next s)

/-! ### Remote pages -/

/-- R97 to R99, R102: an access some of whose lanes meet a remote page that is not there parks its path: the path keeps the instruction's address,
and the mask of the lanes still owed; one fault record of the lowest such lane is posted; nothing of a trap changes; and with every lane parked
no register and no waybill changes. A woken path issues the instruction again.
R100 to R104, R109, R113, R120, R121: the fault queue, the contexts and the wakes. A record joins its page's entry or makes one, or is posted
again; a free context takes an entry and checks its leaf; a wake lets the waiting path issue again, which after outcome PROT
knows the page its write may not have, or takes its trap: PAGE at kernel level with the decline's cause; a decline wakes its waiters so, or leaves the entry to the host. -/
def Obligations.ParkingAndWaking : Prop :=
  (∀ (d a : BitVec 7) (x y e : BitVec 6) (z c : BitVec 3) (f : BitVec 1) (s s1 : State) (k : Checked) (r : LaneReq) (sz : Nat) (own : Bool)
    (rest : List (LaneReq × Nat × Bool)),
    let parks := fun (i : Instr) (m : MemOp) (ins : List LaneReq) (wb aw : Waybill) =>
      ready i s = true → s.cur.outrider = false → judge s s.cur s.curp.resumed m ins wb = .go s1 k → k.park = (r, sz, own) :: rest →
      s.cur.world < 256 → coreOf s.curUnit < 480 → slotOf s.curUnit < 32 → sz < 4 → (∀ p, s1.partOf s.cur.world = some p → p < 24) →
      Completes i s fun s' =>
        let um : Lanes := if m.uniform then 1 else laneMask (fun l => k.park.any (fun e => e.1.lane == l))
        s'.curp.state = .parked ∧ s'.curp.parkpc = s.curp.here ∧ s'.curp.umask = um ∧ s'.curp.pc = s.curp.pc ∧ s'.curp.pos = s.curp.pos ∧
        s'.curp.flow = s.curp.flow ∧ s'.curp.tinfo = s.curp.tinfo ∧ s'.cur.sys = s.cur.sys ∧ s'.cur.repidx = s.cur.repidx ∧
        s'.cur.lcount = s.cur.lcount ∧ s'.cur.path (!s.curPath) = s.cur.path (!s.curPath) ∧
        (k.go = [] → s'.cur.v = s.cur.v ∧ s'.cur.vwb = s.cur.vwb ∧ s'.cur.s = s.cur.s ∧ s'.cur.swb = s.cur.swb) ∧
        ∃ w : BitVec 256, s'.way.posts = s1.way.posts ++ [w] ∧ s'.curp.wrec = some w ∧ frVa w = r.addr % 2 ^ 57 ∧ frWorld w = s.cur.world ∧
          frSize w = sz ∧ frAcc w = m.acc ∧ frOwn w = own ∧ frCore w = coreOf s.curUnit ∧ frSlot w = slotOf s.curUnit ∧ frPath w = s.curPath ∧
          frSrc w = (if m.uniform then 1 else 0) ∧ frWb w = aw ∧ frLanes w = um
    let ga := (s.cur.spair x.toNat + (s.cur.sget y.toNat).signExtend 64).toNat
    let gw := s.cur.sws x.toNat 2 ||| s.cur.sw y.toNat
    parks (.ld d a x z f) (loadOp 0 d z f) (laneIns s.cur s.curp 0 a x (sizeBytes z) (fun _ => 0) (fun _ => 0)) 0 (addrWb s.cur 0 a x) ∧
    parks (.st d a x z f) (storeOp 0 z f)
      (laneIns s.cur s.curp 0 a x (sizeBytes z) (fun l => s.cur.vgroup d.toNat ((sizeBytes z + 3) / 4) l % 2 ^ (8 * sizeBytes z)) (fun _ => 0))
      (s.cur.vws d.toNat ((sizeBytes z + 3) / 4) ||| addrWb s.cur 0 a x ||| predWb s.cur s.curp ||| s.curp.flow) (addrWb s.cur 0 a x) ∧
    parks (.atadd d a x c f) (atomOp 0 4 d c f) (laneIns s.cur s.curp 0 a x 4 (fun l => s.cur.vgroup d.toNat 1 l) (fun _ => 0))
      (s.cur.vws d.toNat 1 ||| addrWb s.cur 0 a x ||| predWb s.cur s.curp ||| s.curp.flow) (addrWb s.cur 0 a x) ∧
    parks (.sld e x y f) (uniMemOp 0 4 .load (.uni e.toNat 1) f) [⟨0, ga, 4, 0, 0⟩] 0 gw ∧
    parks (.sst e x y f) (uniMemOp 0 4 .store .none f) [⟨0, ga, 4, (s.cur.sget e.toNat).toNat, 0⟩] (s.cur.sws e.toNat 1 ||| gw ||| s.curp.flow) gw ∧
    (∀ l, actLanes s.curp = (if s.curp.umask = 0 then s.curp.cmask else s.curp.umask) ∧
      (l ∈ lanesOf s.curp.umask ↔ l < 32 ∧ s.curp.umask.getLsbD l = true)) ∧
    (s.str? s.curUnit = some s.cur → s.curp.woken = true → s.curp.state = .running → s.curp.pos ≠ 0 → s.curp.words ≠ [] →
      Completes .replay s fun s' => s' = { s with agenda := ⟨0, .issue s.curUnit s.curPath⟩ :: s.agenda }) ∧
    (s.str? s.curUnit = some s.cur → s.curp.woken = true → s.curp.state = .running → s.curp.pos = 0 → Completes .replay s fun s' =>
      s' = { s with agenda := ⟨0, .event .clauseStart ⟨[s.curUnit, if s.curPath then 1 else 0], []⟩⟩ :: s.agenda })) ∧
  (∀ (s : State) (r : BitVec 256) (rest : List (BitVec 256)) (e : Pend),
    let part := s.partOf (frWorld r)
    let key := fun (x : Pend) => x.world == frWorld r && x.size == frSize r && x.vpn == pageVpn (frVa r) (frSize r) && x.st != 7
    (s.admits r = true ↔ ((s.way.pends.filter (fun e => e.st == 0 && s.partOf e.world == part)).map (fun e => e.waiters.length)).sum < 256 ∧
      s.way.pends.length < 4096) ∧
    (∀ l, s.way.posts = l ++ r :: rest → (∀ x ∈ l, s.admits x = false) → s.admits r = true →
      (s.way.pends.find? key = some e → Completes .faultAdmit s fun s' => s'.way.posts = l ++ rest ∧
        ∃ n, s'.way.pends = s.way.pends.map (fun x => if x.id = e.id then { e with waiters := e.waiters ++ [r], need := n } else x) ∧
          (e.need = true → n = true)) ∧
      (s.way.pends.find? key = none → Completes .faultAdmit s fun s' => s'.way.posts = l ++ rest ∧
        ∃ x, s'.way.pends = s.way.pends ++ [x] ∧ x.world = frWorld r ∧ x.size = frSize r ∧ x.vpn = pageVpn (frVa r) (frSize r) ∧ x.st = 0 ∧
          x.waiters = [r] ∧ x.frame = none ∧ (frOwn r = false → isWrite (frAcc r) = false → x.need = false))) ∧
    ((∀ x ∈ s.way.posts, s.admits x = true) → exec .faultRepost s = .next s) ∧
    ((∀ x ∈ s.way.posts, s.admits x = false) → exec .faultAdmit s = .next s) ∧
    (∀ l, s.way.posts = l ++ r :: rest → (∀ x ∈ l, s.admits x = true) → s.admits r = false →
      Completes .faultRepost s fun s' => s' = { s with way := { s.way with posts := l ++ rest ++ [r] } }) ∧
    (s.way.pends.find? (fun e => e.st == 1) = some e → Completes .contextTake s fun s' => s' = s.check e) ∧
    ((∀ x ∈ s.way.pends, x.st ≠ 1) → s.nextPend = some e → (s.way.pends.filter (fun e => decide (1 ≤ e.st) && decide (e.st ≤ 7))).length < 32 →
      s.wsmode (s.pendPart e) 31 = false ∧ e.st = 0 ∧
      Completes .contextTake s fun s' => s' = State.check { s with way := { s.way with turn := s.pendPart e } } e) ∧
    ((∀ x ∈ s.way.pends, x.st ≠ 1) → 32 ≤ (s.way.pends.filter (fun e => decide (1 ≤ e.st) && decide (e.st ≤ 7))).length → exec .contextTake s = .next s) ∧
    (∀ ls s1, s.leavesOf e.world (e.vpn * 4096) e.size = (ls, s1) →
      let leaf := (ls.head?.map Prod.snd).getD 0
      let kw := s1.kernelW e.world e.size e.vpn ls
      let parks := e.waiters.any (fun r => (lfHome leaf && (!lfV leaf || (isWrite (frAcc r) && !lfW leaf))) && !(lfV leaf && !kw))
      let k : Pend := { e with st := 1, leaves := ls.map Prod.snd, attempts := 0, moves := 0, ownMoves := 0 }
      (parks = false → s.check e = s1.wakeEntry k .replay) ∧
      (parks = true → s1.wsmode (s1.pendPart e) 0 = true → s.check e = s1.decline k 1 0 0) ∧
      (parks = true → s1.wsmode (s1.pendPart e) 0 = false → s.check e = s1.lookup k)) ∧
    (∀ t z, frSrc r < 2 → s.str? (frCore r * 64 + frSlot r) = some t → t.outrider = false →
      (∀ b, parkedOn (t.path b) r = true →
        ∃ t', (s.wakeOne r z .replay).str? (frCore r * 64 + frSlot r) = some t' ∧ (t'.path b).state = .running ∧ (t'.path b).woken = true ∧
          (t'.path b).pc = (t.path b).pc ∧ (t'.path b).pos = (t.path b).pos ∧ (t'.path b).umask = (t.path b).umask ∧ t'.s = t.s ∧ t'.v = t.v) ∧
      (∀ b, parkedOn (t.path b) r = true →
        ∃ t', (s.wakeOne r z .prot).str? (frCore r * 64 + frSlot r) = some t' ∧ (t'.path b).state = .running ∧ (t'.path b).woken = true ∧
          (t'.path b).pc = (t.path b).pc ∧ (t'.path b).pos = (t.path b).pos ∧ (t'.path b).umask = (t.path b).umask ∧ t'.s = t.s ∧ t'.v = t.v ∧
          ∀ w m l x, (t'.path b).protMet w m l x = (isWrite m.acc && (frWorld r == w) && (l.addr % 2 ^ 57 / 2 ^ pageBits x == frVa r / 2 ^ pageBits x))) ∧
      (parkedOn t.p0 r = true → t.p0.parkOp = none → frLanes r ≠ 0 → t.dbg = .running →
        let u := frCore r * 64 + frSlot r
        let lane := ((List.range 32).find? (fun l => (frLanes r).getLsbD l)).getD 0
        (∀ c, c < 256 → s.wakeOne r z (.trap c) = s.putStr u (Str.trap (s.putStr u t) t false ⟨cPAGE, t.p0.parkpc, t.p0.pos, vaFull (frVa r), 1,
          some (tinfoWord lane 0 0 0 (frAcc r)), none, none, some (BitVec.ofNat 8 c)⟩)))) ∧
    (∀ c peer q, ∃ s1 : State, s1.way.pends = s.way.pends ∧
      (s.wsmode (s.pendPart e) 2 = true → s.decline e c peer q = s1.putPend { e with st := 8, frame := none }) ∧
      (s.wsmode (s.pendPart e) 2 = false → s.decline e c peer q = s1.wakeEntry e (.trap c))) ∧
    (s.named? (s.argN 0) (s.argN 1) = some e →
      (Completes .wake s fun s' => s' = s.wakeEntry e .replay) ∧ (Completes .fail s fun s' => s' = s.wakeEntry e (.trap 0x0C))) ∧
    (s.named? (s.argN 0) (s.argN 1) = none → exec .wake s = .next s ∧ exec .fail s = .next s))

/-- R105 to R112, R114, R120: how a page is found, fetched and installed: the answers and timeouts of each state, with the retries and the decline
causes; a fetched page enters its frame; and the leaf an install writes. -/
def Obligations.PageResolution : Prop :=
  ∀ (s : State) (e : Pend),
    let p := s.pendPart e
    let retries := ((s.preg (s.topOf p) 0x081).extractLsb' 30 2).toNat
    let wait := fun (k n scale : Nat) => 3600 * (scale * ((s.preg (s.topOf p) 0x081).extractLsb' k n).toNat)
    (s.pend? (s.argN 1) = some e → e.st = 2 → s.time < e.since + wait 0 8 1 →
      (s.argN 2 = 0 → Completes .lookupAnswer s fun s' => s' = (s.cacheEntry (s.argN 3)).afterLookup e (s.argN 3)) ∧
      (s.argN 2 = 1 → Completes .lookupAnswer s fun s' => s' = s.decline e 3 (s.argN 0) 0) ∧
      (s.argN 2 = 0x29 → Completes .lookupAnswer s fun s' => s' = s.decline e 0x0A (s.argN 0) 0) ∧
      (s.argN 2 ∉ [0, 1, 0x29] → Completes .lookupAnswer s fun s' => s' = s.decline e 6 (s.argN 0) (s.argN 2))) ∧
    (s.pend? (s.argN 0) = some e → e.st = 2 →
      (s.time < e.since + wait 0 8 1 → exec .lookupTimeout s = .next s) ∧
      (e.since + wait 0 8 1 ≤ s.time → retries < e.attempts → Completes .lookupTimeout s fun s' =>
        ∃ d, s' = s.decline e 2 d 0 ∧ (s.wsmode p 3 = true → d = 0)) ∧
      (e.since + wait 0 8 1 ≤ s.time → e.attempts ≤ retries → s.wsmode p 3 = false → Completes .lookupTimeout s fun s' => s' = s.askDirectory e) ∧
      (e.since + wait 0 8 1 ≤ s.time → e.attempts ≤ retries → s.wsmode p 3 = true → Completes .lookupTimeout s fun s' => s' = s.askKernel e)) ∧
    (s.pend? (s.argN 1) = some e → e.st = 4 → e.attempts = s.argN 3 → s.time < e.since + (if meHkind e.entry = 1 then wait 24 6 1000 else wait 8 8 1) →
      (s.argN 2 = 0x21 → e.attempts ≤ retries → Completes .fetchComplete s fun s' =>
        s' = (s.uncache e.world e.size e.vpn).askDirectory { e with moves := e.attempts, attempts := 0, owned := false }) ∧
      (s.argN 2 = 0x21 → retries < e.attempts → Completes .fetchComplete s fun s' => s' = s.decline e 6 (if meHkind e.entry = 1 then 0 else s.argN 0) 0x21) ∧
      (s.argN 2 ≠ 0x21 → s.argN 2 ≠ 0 → meHkind e.entry ≠ 1 → Completes .fetchComplete s fun s' => s' = s.decline e 6 (s.argN 0) (s.argN 2)) ∧
      (∀ q, s.argN 2 ≠ 0x21 → s.argN 2 ≠ 0 → meHkind e.entry = 1 → s.endpoint e.world (meEp e.entry) = some q → Completes .fetchComplete s fun s' =>
        s' = s.decline e 6 0 (if epValid q.1 then 0x30 else 0x28)) ∧
      (∀ g, s.argN 2 = 0 → meHkind e.entry = 0 → e.frame = some g → Completes .fetchComplete s fun s' =>
        let n := 2 ^ pageBits e.size / 4096
        s' = (s.fillFrame e.world e.size g s.arg.bytes ((s.arg.n.drop 4).take n) (s.arg.n.drop (4 + n))).afterFetch e) ∧
      (∀ g q, s.argN 2 = 0 → meHkind e.entry = 1 → e.frame = some g → s.endpoint e.world (meEp e.entry) = some q → Completes .fetchComplete s fun s' =>
        let n := 2 ^ pageBits e.size / 4096
        s' = (s.fillFrame e.world e.size g s.arg.bytes (List.replicate n (epOrigins q.1).toNat) (s.arg.n.drop (4 + n))).afterFetch e)) ∧
    (s.pend? (s.argN 1) = some e → e.st = 4 → e.attempts ≠ s.argN 3 → exec .fetchComplete s = .next s) ∧
    (s.pend? (s.argN 1) = some e → e.st = 4 → e.since + (if meHkind e.entry = 1 then wait 24 6 1000 else wait 8 8 1) ≤ s.time →
      exec .fetchComplete s = .next s) ∧
    (s.pend? (s.argN 0) = some e → e.st = 4 →
      let due := e.since + (if meHkind e.entry = 1 then wait 24 6 1000 else wait 8 8 1)
      (s.time < due → exec .fetchTimeout s = .next s) ∧
      (due ≤ s.time → e.attempts ≤ retries → Completes .fetchTimeout s fun s' => s' = s.fetch e) ∧
      (due ≤ s.time → retries < e.attempts → Completes .fetchTimeout s fun s' =>
        s' = s.decline e (if meHkind e.entry = 1 then 5 else 4) (if meHkind e.entry = 1 then 0 else meHome e.entry) 0)) ∧
    (s.pend? (s.argN 0) = some e → e.st = 3 → e.frame = none → e.since + wait 16 8 1 ≤ s.time →
      (s.wsmode p 4 = true → Completes .poolWaitTimeout s fun s' => s' = s.decline e 8 0 0) ∧
      (e.stuck = true → s.victim (s.topOf p) e.size = none → tget [] s.xl.pools (s.topOf p * 4 + e.size) = [] →
        (∀ v ∈ s.way.evicts, v.for_ ≠ some e.id) → (∀ j ∈ s.xl.scrubs, j.for_ ≠ some e.id) → Completes .pinnedTimeout s fun s' => s' = s.decline e 7 0 0)) ∧
    (∀ x s1, s.mfRead (s.topOf (s.argN 0)) (s.argN 1 % 2 ^ 52 / 64 * 64) = (x, s1) →
      s1.way.pends.find? (fun e => e.st == 2 && s1.topOf (s1.pendPart e) == s.topOf (s.argN 0) && s1.wsmode (s1.pendPart e) 3 &&
        meWorld x == e.world && meSize x == e.size && meVpn x == e.vpn) = some e →
      Completes .answer s fun s' => s' = if x.testBit 63 then s1.afterLookup e x else s1.decline e 3 0 0) ∧
    (∀ (l : Dword) (g : Nat) (w : Bool), g % 4096 = 0 → g < 2 ^ 52 → lfV (newLeaf l g w) = true ∧ lfW (newLeaf l g w) = w ∧
      lfX (newLeaf l g w) = lfX l ∧ lfUser (newLeaf l g w) = lfUser l ∧ lfHome (newLeaf l g w) = lfHome l ∧ entSize (newLeaf l g w) = entSize l ∧
      lfA (newLeaf l g w) = false ∧ lfD (newLeaf l g w) = false ∧ entFrame (newLeaf l g w) = g) ∧
    (∀ x, e.need = true → x / 2 ^ 56 % 4 < 3 → meState x = 0 → meLists x s.me = true →
      (∃ c, s.copy? e.world e.size e.vpn = some c ∧ e.leaves ≠ [] ∧ ∀ l ∈ e.leaves, lfV l = true ∧ lfHome l = true ∧ entFrame l = c.frame) →
      s.afterLookup e x = s.askOwner { e with entry := x, attempts := e.ownMoves }) ∧
    (∀ x, meHkind x = 3 ∨ 2 ≤ meState x → s.afterLookup e x = s.decline { e with entry := x } 6 0 0x24) ∧
    (s.preg (s.topOf p) 0x085 = 0 ∨ s.preg (s.topOf p) 0x086 = 0 ∨ s.preg p 0x082 = 0 →
      s.lookup e = s.decline { e with st := 2, attempts := 1 } 3 0 0)

/-- R114 to R117, R119, R126, R445: victims, evictions and freed frames: the victim is the unpinned copy of least score, the earliest installed among
equals; its leaf loses V and keeps HOME and the kernel's W; the page goes home where it was written or owned; a freed frame is scrubbed, or
given to the kernel's ring: each partition's in the order they were freed, and none waits for another partition's room. -/
def Obligations.Evictions : Prop :=
  ∀ (s : State) (e : Pend) (x : Evict),
    let p := s.pendPart e
    let leaves := fun (c : Copy) => (s.leavesOf c.world (c.vpn * 4096) c.size).1.map Prod.snd
    let mine := fun (c : Copy) => s.topPart c.world == some (s.topOf p) && c.size == e.size && !s.pinned c &&
      (decide (leaves c ≠ []) && (leaves c).all (fun l => lfV l && lfHome l && entFrame l == c.frame))
    let busy := s.way.evicts.any (fun x => x.for_ == some e.id) || s.xl.scrubs.any (fun j => j.for_ == some e.id)
    (∀ c, s.victim (s.topOf p) e.size = some c → c ∈ s.way.copies ∧ mine c = true ∧
      ∀ b ∈ s.way.copies, mine b = true → c.score < b.score ∨ (c.score = b.score ∧ c.order ≤ b.order)) ∧
    (s.victim (s.topOf p) e.size = none → ∀ b ∈ s.way.copies, mine b = false) ∧
    (s.argN 0 = 0 → s.pend? (s.argN 1) = some e → e.st = 3 → e.frame = none → s.wsmode p 4 = false → tget [] s.xl.pools (s.topOf p * 4 + e.size) = [] → busy = false →
      (∀ c s1, s.victim (s.topOf p) e.size = some c →
        (s.putPend { e with stuck := false }).evictStart ⟨c, p, false, 0, some e.id, none, false, [], s.time⟩ = some s1 →
        Completes .eviction s fun s' => s' = s1) ∧
      (s.victim (s.topOf p) e.size = none → e.stuck = false → Completes .eviction s fun s' =>
        s' = s.putPend { e with stuck := true, since := s.time })) ∧
    (s.argN 0 = 1 → s.way.evicts.find? (fun x => x.key == s.argN 1) = some x →
      (x.st = 1 → s.shootWaits 0 x.copy.world (x.copy.vpn * 4096) ≠ [] → exec .eviction s = .next s) ∧
      (x.st = 1 → s.shootWaits 0 x.copy.world (x.copy.vpn * 4096) = [] → x.dirty = false → x.copy.own = false → Completes .eviction s fun s' =>
        s' = s.evictEnd x) ∧
      (x.st = 1 → s.shootWaits 0 x.copy.world (x.copy.vpn * 4096) = [] → x.dirty = true ∨ x.copy.own = true →
        Completes .eviction s fun s' => s' = s.evictWrite x x.copy.entry) ∧
      (x.st = 3 → Completes .eviction s fun s' => s' = s.evictEnd x)) ∧
    (∀ (w : Bool) (l : Dword), lfV (goneLeaf w l) = false ∧ lfW (goneLeaf w l) = w ∧ lfHome (goneLeaf w l) = lfHome l ∧ lfX (goneLeaf w l) = lfX l ∧
      lfUser (goneLeaf w l) = lfUser l ∧ entFrame (goneLeaf w l) = entFrame l ∧ entSize (goneLeaf w l) = entSize l) ∧
    (5 * (s.time - s.way.halved) < 12 * 2 ^ 20 → exec .scoreHalving s = .next s) ∧
    (12 * 2 ^ 20 ≤ 5 * (s.time - s.way.halved) → Completes .scoreHalving s fun s' =>
      s' = { s with way := { s.way with halved := s.time, copies := s'.way.copies } } ∧ s'.way.copies.length = s.way.copies.length ∧ ∀ (i : Nat) (c : Copy), s.way.copies[i]? = some c → s'.way.copies[i]? = some { c with score := c.score / 2 }) ∧
    (s.wsmode (s.argN 0) 31 = false → exec .relinquish s = .next s) ∧
    (s.wsmode (s.argN 0) 31 = true → (∀ e ∈ s.way.pends, s.pendPart e = s.argN 0 → e.st = 0 ∨ 8 ≤ e.st) →
      s.way.copies.filter (fun c => s.partOf c.world == some (s.argN 0)) = [] → exec .relinquish s = .next s) ∧
    (∀ c s1, s.wsmode (s.argN 0) 31 = true → (∀ e ∈ s.way.pends, s.pendPart e = s.argN 0 → e.st = 0 ∨ 8 ≤ e.st) →
      s.way.copies.filter (fun c => s.partOf c.world == some (s.argN 0)) = [c] →
      let y : Evict := ⟨c, s.argN 0, false, 0, none, none, false, [], s.time⟩
      let s2 : State := { s with way := { s.way with evicts := s.way.evicts ++ [y] } }
      ((∃ z ∈ s.way.evicts, z.key = y.key) → exec .relinquish s = .next s) ∧
      ((∀ z ∈ s.way.evicts, z.key ≠ y.key) → s.pinned c = true → Completes .relinquish s fun s' => s' = s2) ∧
      ((∀ z ∈ s.way.evicts, z.key ≠ y.key) → s.pinned c = false → s2.evictStart y = some s1 → Completes .relinquish s fun s' => s' = s1)) ∧
    (∀ j rest s1, s.xl.scrubs = j :: rest → s1 = State.scrubFrame { s with xl := { s.xl with scrubs := rest } } j.part j.gpa j.size → j.for_ = none →
      ((∀ y ∈ s1.frameGrans j.part j.gpa j.size, ∀ a g, y.2 = some (a, g) → granOffline g = false) →
        Completes .scrubEngineScrub s fun s' => s' = (s1.poolPut j.part j.size j.gpa).2) ∧
      ((∃ y ∈ s1.frameGrans j.part j.gpa j.size, ∃ a g, y.2 = some (a, g) ∧ granOffline g = true) →
        Completes .scrubEngineScrub s fun s' => s' = s1)) ∧
    (let ring := fun (t : Nat) => (s.preg t 0x0EB).toNat
      let at_ := fun (t k : Nat) => (s.hubRead (some t) (ring t + k) 8).map Prod.fst
      let full : Nat → Prop := fun t => ring t ≠ 0 ∧ ∀ h l c, at_ t 0 = some h → at_ t 8 = some l → at_ t 24 = some c →
        (h + 2 ^ 64 - l) % 2 ^ 64 = 2 ^ max 6 (min 20 c)
      ((∀ w ∈ s.xl.ringWait, full (s.topOf w.1)) → exec .frameRingWrite s = .next s) ∧
      (∀ q gpa y before rest, s.xl.ringWait = before ++ (q, gpa, y) :: rest → (∀ w ∈ before, s.topOf w.1 ≠ s.topOf q ∧ full (s.topOf w.1)) →
        let s1 : State := { s with xl := { s.xl with ringWait := before ++ rest } }
        (ring (s.topOf q) = 0 → Completes .frameRingWrite s fun s' =>
          s' = { s1 with xl := { s1.xl with scrubs := s.xl.scrubs ++ [⟨s.topOf q, y / 256 % 4, gpa, none⟩] } }) ∧
        (∀ h l c, ring (s.topOf q) ≠ 0 → at_ (s.topOf q) 0 = some h → at_ (s.topOf q) 8 = some l → at_ (s.topOf q) 24 = some c →
          (h + 2 ^ 64 - l) % 2 ^ 64 ≠ 2 ^ max 6 (min 20 c) → Completes .frameRingWrite s fun s' =>
          s' = s1.ringPut (some (s.topOf q)) (ring (s.topOf q)) (gpa % 2 ^ 52 * 2 ^ 192 + y / 256 % 4 * 2 ^ 148 + y % 256 * 2 ^ 128))))

/-- R106, R107, R109, R118: what a directory answers to lookups and ownership requests. An unbound world, an absent and a malformed entry are
refused; a BUSY entry is met later; a lookup of a SHARED entry enters the requester; one of an OWNED entry asks the owner to write back; an
ownership request first invalidates every other holder.
R109, R118, R119, R189: a directory's request goes on with its answers: holders that are no longer members have acknowledged; an
acknowledgement, a refusal and a silence each take their course; the grant or the failure closes the request.
The model's own part: Codes for a failed write-back are the model's reading (log 52). -/
def Obligations.DirectoryRequestsAndJobs : Prop :=
  ((∀ (s s0 s1 : State) (c part addr x : Nat) (i : Instr),
    let peer := s.argN 0
    let ask := s.argN 1
    let found := s.dirEntry (s.argN 2) (s.argN 3) (s.argN 4)
    let others := s0.way.waits.any (fun w => waitKey w.1 w.2 == waitKey i s0.arg)
    let turn : Prop := s1 = (if s0.arg.again then { s0 with way := { s0.way with waits := s0.way.waits.eraseP (fun w => w.1 == i && w.2.retry == s0.arg) } }
      else s0) ∧ (s0.arg.again = true ∨ others = false)
    let later : Prop := s0.arg.again = false → Completes i s fun s' => s' = { s0 with way := { s0.way with waits := s0.way.waits ++ [(i, s0.arg)] } }
    let busy := s1.mfWrite part addr (setBusy x true)
    let owner := if meOwnv x ∧ meOwner x ≠ peer then some (meOwner x) else none
    let who := (if meShovf x then s1.members else meSharers x).filter (fun p => p != peer && some p != owner && s1.isMember p)
    (s.topPart (s.argN 2) = none → found = (.nack 0x23, s)) ∧
    (∀ q, s.topPart (s.argN 2) = some q →
      (s.mfFind q (s.argN 2) (s.argN 3) (s.argN 4) = (none, s0) → found = (.nack 1, s0)) ∧
      (s.mfFind q (s.argN 2) (s.argN 3) (s.argN 4) = (some (addr, x), s0) →
        (meBusy x = true → found = (.busy, s0)) ∧
        (meBusy x = false → meHkind x = 3 ∨ meState x = 2 ∨ meState x = 3 → found = (.nack 0x24, s0)) ∧
        (meBusy x = false → meHkind x < 3 → meState x < 2 → found = (.at_ q addr x, s0)))) ∧
    (found = (.nack c, s0) → turn →
      (i = .directoryLookup → Completes i s fun s' => s' = s1.sendWay peer 10 [ask, c, 0] []) ∧
      (i = .ownershipRequest → Completes i s fun s' => s' = s1.sendWay peer 13 [ask, if c = 1 then 0x21 else c, 0, 0] [])) ∧
    (∀ d, found = (d, s0) → i = .directoryLookup ∨ i = .ownershipRequest →
      (d = .busy ∨ others = true → later) ∧ (d = .busy → s0.arg.again = true → exec i s = .next s0)) ∧
    (found = (.at_ part addr x, s0) → i = .directoryLookup → turn → meState x = 1 → meOwnv x = true → Completes .directoryLookup s fun s' =>
      ∃ s2 : State, s' = s2.sendWay (meOwner x) 15 [addr * 32 + part, meWorld x, meSize x, meVpn x, 1, x] [] ∧ s2.mem = busy.mem ∧
        (∃ j ∈ s2.way.jobs, j.part = part ∧ j.addr = addr ∧ j.peer = peer ∧ j.ask = ask ∧ j.own = false ∧ j.writeback = true ∧ j.asked = true)) ∧
    (found = (.at_ part addr x, s0) → i = .directoryLookup → turn → meState x = 0 → x < 2 ^ 512 → meBusy x = false → Completes .directoryLookup s fun s' =>
      ∃ y z, s' = (s1.mfWrite part addr z).sendWay peer 10 [ask, 0, y] [] ∧ (peer < 1024 → meLists y peer = true ∨ meShovf y = true) ∧
        (∀ p, meLists x p = true → meLists y p = true) ∧ meHkind y = meHkind x ∧ meHkind z = (if meHkind x = 2 then 0 else meHkind x) ∧
        z % 2 ^ 56 = x % 2 ^ 56 ∧ meState z = 0 ∧ meSize z = meSize x ∧ meVersion z = meVersion x ∧ meAddr z = meAddr x ∧ meHome z = meHome x ∧
        meEp z = meEp x ∧ meOwner z = meOwner x ∧ meOwnv z = meOwnv x ∧ meShval z = meShval y ∧ meBusy z = false ∧ meValid z = meValid x) ∧
    (found = (.at_ part addr x, s0) → i = .ownershipRequest → turn → Completes .ownershipRequest s fun s' =>
      ∃ j : DirJob, j.part = part ∧ j.addr = addr ∧ j.peer = peer ∧ j.ask = ask ∧ j.version = s.argN 5 ∧ j.own = true ∧ j.left = who ∧ j.failed = [] ∧
        j.writeback = owner.isSome ∧
        s' = (who.foldl (fun s p => s.sendWay p 8 [j.key, s1.argN 2, s1.argN 3, s1.argN 4] []) busy).dirGo j)) ∧
  (∀ (s : State) (j : DirJob) (x : Nat), x < 2 ^ 512 → j.peer < 1024 → ∃ y,
    s.grantOwn j x = (s.mfWrite j.part j.addr y).sendWay j.peer 13
      [j.ask, 0, if meState x = 0 ∧ meOwnv x = false ∧ meVersion x = j.version then 1 else 0, (meVersion x + 1) % 2 ^ 32] [] ∧
    meOwner y = j.peer ∧ meOwnv y = true ∧ meShval y = 0 ∧ meShovf y = false ∧ meState y = 1 ∧ meBusy y = false ∧
    meVersion y = (meVersion x + 1) % 2 ^ 32 ∧ y % 2 ^ 58 = x % 2 ^ 58 ∧ meSize y = meSize x ∧ meValid y = meValid x ∧ meHome y = meHome x ∧
    meAddr y = meAddr x ∧ meEp y = meEp x)) ∧
  ((∀ (s : State) (j : DirJob),
    (s.dirJob? (s.argN 1) = some j → s.argN 0 ∈ j.left → Completes .invalidationAck s fun s' =>
      s' = s.dirGo { j with left := j.left.filter (fun q => q != s.argN 0)
                            failed := if s.argN 2 = 0 then j.failed else j.failed ++ [s.argN 0] }) ∧
    (s.dirJob? (s.argN 1) = some j → s.argN 0 ∉ j.left → j.writeback = true → j.asked = true →
      (s.argN 2 = 0 → Completes .invalidationAck s fun s' => s' = s.dirGo { j with writeback := false }) ∧
      (s.argN 2 = 1 → Completes .invalidationAck s fun s' => s' = s.dirFail j (if j.own then 0x100 else 0x22)) ∧
      (s.argN 2 = 2 → Completes .invalidationAck s fun s' => s' = s.dirFail j 0x29) ∧
      (s.argN 2 = 3 → Completes .invalidationAck s fun s' => s' = s.dirFail j 0x30)) ∧
    (s.dirJob? (s.argN 1) = none → exec .invalidationAck s = .next s) ∧
    (s.dirJob? (s.argN 0) = some j → (∀ p ∈ j.left, s.isMember p = true) →
      (s.time < j.since + s.wsFr j.part + s.wsEv j.part → exec .invalidationTimeout s = .next s) ∧
      (j.since + s.wsFr j.part + s.wsEv j.part ≤ s.time → j.left ≠ [] → Completes .invalidationTimeout s fun s' =>
        s' = s.dirGo { j with left := [], failed := j.failed ++ j.left }) ∧
      (j.since + s.wsFr j.part + s.wsEv j.part ≤ s.time → j.left = [] → j.writeback = true → j.asked = true →
        Completes .invalidationTimeout s fun s' => s' = s.dirFail j 0x30)) ∧
    (s.dirJob? (s.argN 0) = some j → (∃ p ∈ j.left, s.isMember p = false) → Completes .invalidationTimeout s fun s' => s' = s.dirGo j)) ∧
  (∀ (s s1 : State) (j : DirJob) (x : Nat), s.mfRead j.part j.addr = (x, s1) →
    let left := j.left.filter (fun p => s.isMember p)
    let k : DirJob := { j with left := left }
    (left ≠ [] → s.dirGo j = s1.putJob k) ∧
    (left = [] → j.failed ≠ [] → x < 2 ^ 512 → ∃ y, s.dirGo j = ((s1.dropJob k.key).mfWrite j.part j.addr y).sendWay j.peer 13 [j.ask, 0x100, 0, 0] [] ∧
      (∀ i, i < 6 → (meShval y).testBit i = ((meShval x).testBit i && (j.failed.contains (meSharer x i) || meSharer x i == j.peer))) ∧
      meState y = meState x ∧ meOwner y = meOwner x ∧ meOwnv y = meOwnv x ∧ meVersion y = meVersion x ∧ meBusy y = false) ∧
    (left = [] → j.failed = [] → j.writeback = true → j.asked = true → s.dirGo j = s1.putJob k) ∧
    (left = [] → j.failed = [] → j.writeback = true → j.asked = false → s.dirGo j = s1.askBack k x (!j.own)) ∧
    (left = [] → j.failed = [] → j.writeback = false → j.own = true → s.dirGo j = (s1.dropJob k.key).grantOwn k x) ∧
    (left = [] → j.failed = [] → j.writeback = false → j.own = false → x < 2 ^ 512 → ∃ y,
      s.dirGo j = (s1.dropJob k.key).grantRead j.part j.addr y j.peer j.ask ∧ meState y = 0 ∧ meOwnv y = false ∧
      (meLists y (meOwner x) = true ∨ meShovf y = true)) ∧
    (∀ c, s.dirFail j c = ((s1.dropJob j.key).mfWrite j.part j.addr (setBusy x false)).sendWay j.peer (if j.own then 13 else 10)
      (if j.own then [j.ask, c, 0, 0] else [j.ask, c, 0]) [])) ∧
  (∀ (s s0 s1 : State) (part addr x : Nat),
    let found := s.dirEntry (s.argN 1) (s.argN 2) (s.argN 3)
    let others := s0.way.waits.any (fun w => waitKey w.1 w.2 == waitKey .directoryEntryUpdate s0.arg)
    let turn : Prop := s1 = (if s0.arg.again then { s0 with way := { s0.way with
        waits := s0.way.waits.eraseP (fun w => w.1 == .directoryEntryUpdate && w.2.retry == s0.arg) } } else s0) ∧
      (s0.arg.again = true ∨ others = false)
    (found = (.at_ part addr x, s0) → turn → x < 2 ^ 512 → Completes .directoryEntryUpdate s fun s' => ∃ y, s' = s1.mfWrite part addr y ∧
      (∀ i, i < 6 → (meShval y).testBit i = ((meShval x).testBit i && meSharer x i != s.argN 0)) ∧
      (s.argN 4 = 1 → meOwnv x = true → meOwner x = s.argN 0 → meOwnv y = false ∧ meState y = 0) ∧
      (s.argN 4 ≠ 1 ∨ meOwnv x = false ∨ meOwner x ≠ s.argN 0 → meOwnv y = meOwnv x ∧ meState y = meState x) ∧
      meShovf y = meShovf x ∧ meVersion y = meVersion x ∧ meHome y = meHome x ∧ meAddr y = meAddr x) ∧
    (found = (.busy, s0) → s0.arg.again = false → Completes .directoryEntryUpdate s fun s' =>
      s' = { s0 with way := { s0.way with waits := s0.way.waits ++ [(.directoryEntryUpdate, s0.arg)] } })))

/-- R109, R118, R125, R431, R432: the holder of a copy, the requester and the home of a page. A holder without a copy acknowledges at once, one whose copy
stays pinned answers so; the requester installs a grant or fetches again; the home serves only frames the world owns and entries that have
not moved, and page data to a package not attested for the world passes the gate.
The model's own part: The sealed refusal is the model's reading (log 51), and so is the answer to a read the gate refuses. -/
def Obligations.RemotePageMessages : Prop :=
  ∀ (s : State) (e : Pend) (x : Evict) (d job : Nat),
    let w := s.argN 2
    let size := s.argN 3
    let vpn := s.argN 4
    let leaving := s.way.evicts.any (fun x => x.copy.world == w && x.copy.size == size && x.copy.vpn == vpn)
    let first : Prop := s.arg.again = false ∧ ∀ y ∈ s.way.waits, y.1 = .directoryLookup ∨ y.1 = .ownershipRequest ∨ y.1 = .directoryEntryUpdate ∨
      (y.2.n.drop 2).take 3 ≠ (s.arg.n.drop 2).take 3
    (leaving = false → first → s.copy? w size vpn = none →
      Completes .invalidation s fun s' => s' = (s.uncache w size vpn).sendWay (s.argN 0) 9 [s.argN 1, 0] []) ∧
    (leaving = true → s.arg.again = false → Completes .invalidation s fun s' =>
      s' = { s with way := { s.way with waits := s.way.waits ++ [(.invalidation, s.arg)] } }) ∧
    (leaving = true → s.arg.again = true → exec .invalidation s = .next s) ∧
    (∀ c, leaving = false → first → s.copy? w size vpn = some c →
      let y : Evict := ⟨c, (s.partOf w).getD 0, false, 0, none, some (s.argN 0, s.argN 1), false, [], s.time⟩
      let z : Evict := { y with copy := { c with entry := s.argN 6 }, keep := s.argN 5 == 1 }
      (Completes .invalidation s fun s' => s' = State.evictGo { s with way := { s.way with evicts := s.way.evicts ++ [y] } } y) ∧
      (Completes .ownerWriteback s fun s' => s' = State.evictGo { s with way := { s.way with evicts := s.way.evicts ++ [z] } } z)) ∧
    (s.way.evicts.find? (fun y => y.key == s.argN 0) = some x → x.st = 0 → x.reply = some (d, job) →
      (x.since + s.wsEv x.part ≤ s.time → Completes .invalidationPinnedTimeout s fun s' =>
        s' = (s.dropEvict x).sendWay d 9 [job, 1] []) ∧
      (s.time < x.since + s.wsEv x.part → exec .invalidationPinnedTimeout s = .next s)) ∧
    (s.pend? (s.argN 1) = some e → e.st = 5 →
      (s.argN 2 = 0 → s.argN 3 = 1 → Completes .ownershipAnswer s fun s' =>
        s' = s.install { e with owned := true, entry := setBits e.entry 64 32 (s.argN 4), st := 6 }) ∧
      (s.argN 2 = 0 → s.argN 3 ≠ 1 → Completes .ownershipAnswer s fun s' =>
        s' = s.drawFrame { e with owned := true, entry := setBits e.entry 64 32 (s.argN 4) }) ∧
      (s.argN 2 = 0x21 → e.attempts ≤ s.wsRt (s.pendPart e) → Completes .ownershipAnswer s fun s' =>
        s' = (s.uncache e.world e.size e.vpn).askDirectory { e with ownMoves := e.attempts, attempts := 0, owned := false }) ∧
      (s.argN 2 = 0x21 → s.wsRt (s.pendPart e) < e.attempts → Completes .ownershipAnswer s fun s' => s' = s.decline e 6 (s.argN 0) 0x21) ∧
      (s.argN 2 = 0x29 → Completes .ownershipAnswer s fun s' => s' = s.decline e 0x0A (s.argN 0) 0) ∧
      (s.argN 2 = 0x100 → Completes .ownershipAnswer s fun s' => s' = s.decline e 9 (s.argN 0) 0) ∧
      (s.argN 2 ∉ [0, 0x21, 0x29, 0x100] → Completes .ownershipAnswer s fun s' => s' = s.decline e 6 (s.argN 0) (s.argN 2))) ∧
    (s.pend? (s.argN 0) = some e → e.st = 5 →
      (s.time < e.since + s.wsFr (s.pendPart e) + s.wsEv (s.pendPart e) → exec .ownershipTimeout s = .next s) ∧
      (e.since + s.wsFr (s.pendPart e) + s.wsEv (s.pendPart e) ≤ s.time → e.attempts ≤ s.wsRt (s.pendPart e) →
        Completes .ownershipTimeout s fun s' => s' = s.askOwner e) ∧
      (e.since + s.wsFr (s.pendPart e) + s.wsEv (s.pendPart e) ≤ s.time → s.wsRt (s.pendPart e) < e.attempts →
        Completes .ownershipTimeout s fun s' => ∃ p, s' = s.decline e 9 p 0)) ∧
    (let answer := fun (s1 : State) (c : Nat) (s' : State) => s' = s1.sendWay (s.argN 0) 11 [s.argN 1, c, s.argN 7] []
     (s.topPart w = none → Completes .pageRead s (answer s 0x23)) ∧
     (∀ q, s.topPart w = some q →
       let s1 := s.claimFrame q (s.argN 5) size
       let moved := s1.entryMoved (s.argN 0) w size vpn (s.argN 6)
       (s1.ownsFrame q w (s.argN 5) size = false → Completes .pageRead s (answer s1 0x27)) ∧
       (s1.ownsFrame q w (s.argN 5) size = true → moved.1 = true → Completes .pageRead s (answer moved.2 0x21)) ∧
       (∀ bs wbs po s2, s1.ownsFrame q w (s.argN 5) size = true → moved.1 = false → moved.2.pageData w size (s.argN 5) = (bs, wbs, po, s2) →
         let part : Egress := ⟨w, wbs.foldl (fun a v => a ||| BitVec.ofNat 16 v) 0, destPackage (s.argN 0), 2 ^ pageBits size⟩
         let sends := fun (s3 s' : State) => s' = s3.sendWay (s.argN 0) 11 ([s.argN 1, 0, s.argN 7] ++ wbs ++ po) bs
         (s.argN 0 = s2.me ∨ tget false s2.tr.attested (w * 1024 + s.argN 0) = true → Completes .pageRead s (sends s2)) ∧
         (s.argN 0 ≠ s2.me → tget false s2.tr.attested (w * 1024 + s.argN 0) = false →
           (∀ s3, s2.gate [part] = .ok s3 → Completes .pageRead s (sends s3)) ∧
           (∀ e g s3, s2.gate [part] = .error (e, g, s3) → Completes .pageRead s (answer s3 cEGRESS)))) ∧
       (s.argN 6 < tget 0 s1.way.homeVer (w * 2 ^ 47 + size * 2 ^ 45 + vpn) → moved = (true, s1)))) ∧
    (let answer := fun (s1 : State) (c r : Nat) (s' : State) => s' = s1.sendWay (s.argN 0) 2 [s.argN 1, c, r] []
     (s.topPart w = none → Completes .pageWriteback s (answer s 0x23 0)) ∧
     (∀ q, s.topPart w = some q →
       let s1 := s.claimFrame q (s.argN 5) size
       let s2 : State := { s1 with way := { s1.way with homeVer := tset 0 s1.way.homeVer (w * 2 ^ 47 + size * 2 ^ 45 + vpn) (s.argN 7) } }
       (s1.ownsFrame q w (s.argN 5) size = false → Completes .pageWriteback s (answer s1 0x27 0)) ∧
       (s1.ownsFrame q w (s.argN 5) size = true →
         (∃ g ∈ s1.frameGrans q (s.argN 5) size, ∃ a b, g.2 = some (a, b) ∧ granSealed b = true) → Completes .pageWriteback s (answer s1 cSEALED 12)) ∧
       (s1.ownsFrame q w (s.argN 5) size = true →
         (∀ g ∈ s1.frameGrans q (s.argN 5) size, ∀ a b, g.2 = some (a, b) → granSealed b = false) → Completes .pageWriteback s (answer
           (s2.fillFrame w size (s.argN 5) s.arg.bytes ((s.arg.n.drop 8).take (s.argN 6)) (s.arg.n.drop (8 + s.argN 6))) 0 0))))

/-! ### The fabric and remote accesses -/

/-- R176 to R179, R181, R188: flits are packed with whole messages or with units of one that straddles, leave in order against the allowance with the
header's fields in their places, and are delivered in SEQ order, once each; a replay sends a flit again.
R188, R340: DRAIN.
A package that is no member has no pair, a buffer freed is offered again or leaves the pair for the pool.
The model's own part: how the messages of a flit are written down, when allowance is returned (log 36), and the polynomial of the CRC (log 133); DRAIN and
DRAIN .all bind their flag until the marker's acknowledgement, trap toward a peer that is not reached, and toward the package itself
complete when the path's own writes and puts are done (log 37). -/
def Obligations.FlitsAndDrains : Prop :=
  (∀ (s : State) (f : Flit) (peer : Nat),
    let p := s.pair peer
    let idle : Prop := p.queued = [] ∧ p.cut = 0 ∧ p.asks = [] ∧ p.again = []
    let whole : Wire := ⟨f.ty, [(f, 0, f.units)]⟩
    (s.isMember peer = false → s.liveTo peer = false → s.sendFlit peer f = s) ∧
    (s.isMember peer = true → s.liveTo peer = true → idle → p.owed ≤ 2047 → 0 < p.allow → f.ty ≠ 1 ∨ f.units ≤ 16 →
      (s.sendFlit peer f).outbox = s.outbox ++ [flitMsg s.me peer p.nextSend p.ack p.owed whole] ∧
      (s.sendFlit peer f).pair peer =
        { p with nextSend := (p.nextSend + 1) % 2 ^ 24, allow := p.allow - 1, owed := 0, sent := p.sent ++ [(p.nextSend, whole)] }) ∧
    (s.isMember peer = true → s.liveTo peer = true → idle → p.owed ≤ 2047 → 2 ≤ p.allow → f.ty = 1 → 16 < f.units → f.units ≤ 32 →
      let n1 := (p.nextSend + 1) % 2 ^ 24
      let w0 : Wire := ⟨1, [(f, 0, 16)]⟩
      let w1 : Wire := ⟨1, [(f, 16, f.units - 16)]⟩
      (s.sendFlit peer f).outbox = s.outbox ++ [flitMsg s.me peer p.nextSend p.ack p.owed w0, flitMsg s.me peer n1 p.ack 0 w1] ∧
      (s.sendFlit peer f).pair peer = { p with
        nextSend := (n1 + 1) % 2 ^ 24, allow := p.allow - 2, owed := 0, sent := p.sent ++ [(p.nextSend, w0), (n1, w1)] }) ∧
    (s.isMember peer = true → s.liveTo peer = false ∨ p.allow = 0 ∧ p.owed = 0 → (s.sendFlit peer f).outbox = s.outbox ∧
      (s.sendFlit peer f).pair peer = { p with queued := p.queued ++ [f] }) ∧
    (s.isMember peer = true → s.liveTo peer = true → p.allow = 0 → 0 < p.owed → p.owed ≤ 2047 →
      (s.sendFlit peer f).outbox = s.outbox ++ [flitMsg s.me peer 0 p.ack p.owed ⟨0, []⟩] ∧
      (s.sendFlit peer f).pair peer = { p with queued := p.queued ++ [f], owed := 0 }) ∧
    ((s.pump peer).agenda = s.agenda ∧ ((s.pump peer).pair peer).nextRecv = p.nextRecv ∧ ((s.pump peer).pair peer).early = p.early ∧
      ((s.pump peer).pair peer).allow ≤ p.allow ∧ (∀ q, q ≠ peer → (s.pump peer).pair q = s.pair q))) ∧
  (∀ (ty src dst seq ack allow units : Nat) (pay : List Byte),
    ty < 16 → src < 1024 → dst < 1024 → seq < 2 ^ 24 → ack < 2 ^ 24 → allow < 2048 → units < 32 →
    let h := flitHdr ty src dst seq ack allow units pay
    h / 2 ^ 124 = ty ∧ h / 2 ^ 114 % 1024 = src ∧ h / 2 ^ 104 % 1024 = dst ∧ h / 2 ^ 80 % 2 ^ 24 = seq ∧ h / 2 ^ 56 % 2 ^ 24 = ack ∧
      h / 2 ^ 45 % 2048 = allow ∧ h / 2 ^ 40 % 32 = units ∧ h / 2 ^ 32 % 256 = 0 ∧
      h % 2 ^ 32 = (crc32 (bytesOf 12 (h / 2 ^ 32) ++ pay)).toNat) ∧
  (∀ f : Flit, flitEnds f.ty ([f.kind, f.n.length, f.bytes.length] ++ f.n) f.bytes = [f]) ∧
  (∀ p : Pair, (p.want < p.bufs → p.freed = { p with bufs := p.bufs - 1 }) ∧ (p.bufs ≤ p.want → p.freed = { p with owed := p.owed + 1 })) ∧
  (∀ (s : State) (peer : Nat), s.argN 0 = peer → s.isMember peer = false ∨ s.fab.started = false → exec .flitReceive s = .next s) ∧
  (∀ (s : State) (peer : Nat), s.argN 0 = peer → s.isMember peer = true → s.fab.started = true →
    let p := s.pair peer
    let ln := s.lane (s.argN 1)
    let seq := s.argN 2
    let bad : State := s.setLane (s.argN 1) { ln with uncor := min 16383 (ln.uncor + 1) }
    let fs := flitEnds (s.argN 3) (s.arg.n.drop 7) s.arg.bytes
    let acts := fs.flatMap (flitAct peer)
    let q : Pair := { p with allow := p.allow + s.argN 5
                             sent := p.sent.filter (fun e => e.1 != s.argN 4 && !seqBefore e.1 (s.argN 4)) }
    (s.argN 6 = 1 → Completes .flitReceive s fun s' =>
      s' = (bad.setPair peer { p.freed with asks := p.asks ++ [seq] }).pump peer) ∧
    (s.argN 6 ≠ 1 → 6 ≤ s.argN 3 → Completes .flitReceive s fun s' => s' = (bad.setPair peer p.freed).pump peer) ∧
    (s.argN 6 ≠ 1 → s.argN 3 = 0 → Completes .flitReceive s fun s' => s' = (s.setPair peer q).pump peer) ∧
    (s.argN 6 ≠ 1 → s.argN 3 = 2 → Completes .flitReceive s fun s' =>
      s'.agenda = ⟨0, .event .replayRequest ⟨[peer, s.argN 4], []⟩⟩ :: s.agenda ∧ (s'.pair peer).nextRecv = p.nextRecv) ∧
    (s.argN 6 ≠ 1 → s.argN 3 = 1 ∨ s.argN 3 = 3 ∨ s.argN 3 = 4 ∨ s.argN 3 = 5 →
      (seq = p.nextRecv → (∀ e ∈ p.early, e.1 ≠ (seq + 1) % 2 ^ 24) → Completes .flitReceive s fun s' =>
        s' = { (s.setPair peer { q.freed with nextRecv := (seq + 1) % 2 ^ 24 }).pump peer with agenda := acts ++ s.agenda }) ∧
      (∀ gs, seq = p.nextRecv → p.early = [((seq + 1) % 2 ^ 24, gs)] → Completes .flitReceive s fun s' =>
        s'.agenda = acts ++ gs.flatMap (flitAct peer) ++ s.agenda ∧ (s'.pair peer).early = [] ∧
          (s'.pair peer).nextRecv = ((seq + 1) % 2 ^ 24 + 1) % 2 ^ 24) ∧
      (seqBefore seq p.nextRecv = true ∨ (seq ≠ p.nextRecv ∧ ∃ e ∈ p.early, e.1 = seq) → Completes .flitReceive s fun s' =>
        s' = (s.setPair peer q.freed).pump peer) ∧
      (seq ≠ p.nextRecv → seqBefore seq p.nextRecv = false → (∀ e ∈ p.early, e.1 ≠ seq) → Completes .flitReceive s fun s' =>
        s' = (s.setPair peer { q with early := p.early ++ [(seq, fs)] }).pump peer)) ∧
    (Completes .replayRequest s fun s' => s' = (s.setPair peer { p with again := p.again ++ [s.argN 1] }).pump peer) ∧
    (∀ w, s.liveTo peer = true → 0 < p.allow → p.asks = [] → p.again = [] → p.queued = [] → p.owed ≤ 2047 →
      p.sent.find? (fun e => e.1 == s.argN 1) = some (s.argN 1, w) → Completes .replayRequest s fun s' =>
        s'.outbox = s.outbox ++ [flitMsg s.me peer (s.argN 1) p.ack p.owed w] ∧
        s'.pair peer = { p with allow := p.allow - 1, owed := 0 }) ∧
    (p.early ≠ [] → Completes .missingSeqTimeout s fun s' => s' = (s.setPair peer { p with asks := p.asks ++ [p.nextRecv] }).pump peer) ∧
    (p.early = [] → exec .missingSeqTimeout s = .next s) ∧
    (s.liveTo peer = true → 0 < p.allow → p.asks = [] → p.again = [] → p.queued = [] → p.owed ≤ 2047 → p.early ≠ [] →
      Completes .missingSeqTimeout s fun s' => s'.outbox = s.outbox ++ [flitMsg s.me peer 0 p.nextRecv p.owed ⟨2, []⟩]) ∧
    (Completes .drainMarker s fun s' => s' = s.sendFlit peer ⟨5, [s.argN 1], []⟩) ∧
    (∀ r, tfind s.fab.rems (s.argN 1) = some r → r.kind = 4 → r.peer = peer → Completes .drainAcknowledgement s fun s' =>
      s' = { s with fab := { s.fab with rems := terase s.fab.rems (s.argN 1) } }.opLeave (s.argN 1))) ∧
  (∀ (a : BitVec 6) (f : BitVec 1) (s : State) (i : Instr) (after : List Nat),
    let peer := (s.cur.sget a.toNat).toNat % 1024
    let n := s.nextOp
    let left := s.putsLeft s.cur s.curp peer
    let sent : State := { s with
      nextOp := n + 1
      mem := { s.mem with ops := tput s.mem.ops n ⟨s.curUnit, s.curPath, .none, true, 0, false, 1, none⟩ }
      fab := { s.fab with rems := tput s.fab.rems n ⟨peer, .path n, 4, s.cur.world, 0, [], s.time, 0, after⟩ } }
    i = .drain a f ∧ after = left ∨ i = .drainAll a f ∧ after = [] → ready i s = true →
      (peer = s.me → s.settled s.curp = true → left = [] → Completes i s fun s' => s' = s.goOn s.cur s.curp) ∧
      (peer = s.me → s.settled s.curp = false ∨ left ≠ [] → Completes i s fun s' => s' = s.putIdle s.cur { s.curp with hold := .again }) ∧
      (peer ≠ s.me → s.isMember peer = false ∨ 4 ≤ s.peerBits peer → exec i s = takeTrap s s.cur
        ⟨cUNREACH, s.curp.here, s.curp.pos, 0, 0, none, some (BitVec.ofNat 32 (peer * 2 ^ 20)), none, none⟩) ∧
      (peer ≠ s.me → s.isMember peer = true → s.peerBits peer < 4 → Completes i s fun s' =>
        s' = (if after = [] then sent.sendFlit peer ⟨4, [n], []⟩ else sent).goOn s.cur (s.curp.bind f n)))

/-- R169, R170, R173, R340: LEASE, LREL and LQRY.
R168, R170 to R175: how a lease gets its lanes, holds them and loses them, and which plane the manager prefers.
The model's own part: the order of refusals and the lanes looked at (log 34), and how the managers' reports and messages arrive (log 35). -/
def Obligations.Leases : Prop :=
  (∀ (d a b : BitVec 6) (f : BitVec 1) (s : State) (i : Nat),
    let peer := (s.cur.sget a.toNat).toNat % 1024
    let n := (s.cur.sget b.toNat).toNat
    let w := s.cur.sw a.toNat ||| s.cur.sw b.toNat ||| s.curp.flow
    let answer := fun (c v : Nat) (s1 s' : State) => s' = s1.goOn (s.cur.sput d.toNat (BitVec.ofNat 32 (c * 2 ^ 24 + v)) w) s.curp
    let k := (s.cur.sget a.toNat).toNat % 256
    let x := s.leaseAt k
    let wa := s.cur.sw a.toNat ||| s.curp.flow
    let full := s.noneHere peer && s.noneThere peer
    (ready (.lease d a b f) s = true → (∀ j, j < 256 → (s.leaseAt j).st ≠ 0) → Completes (.lease d a b f) s (answer 1 0 s)) ∧
    (ready (.lease d a b f) s = true → s.freeLease = some i → peer = s.me ∨ s.peerBits peer ≠ 1 →
      Completes (.lease d a b f) s (answer 2 0 s)) ∧
    (ready (.lease d a b f) s = true → s.freeLease = some i → peer ≠ s.me → s.peerBits peer = 1 → full = true →
      Completes (.lease d a b f) s (answer 3 0 s)) ∧
    (ready (.lease d a b f) s = true → s.freeLease = some i → peer ≠ s.me → s.peerBits peer = 1 → full = false → n = 0 ∨ 64 < n →
      Completes (.lease d a b f) s (answer 4 0 s)) ∧
    (ready (.lease d a b f) s = true → s.freeLease = some i → peer ≠ s.me → s.peerBits peer = 1 → full = false → 1 ≤ n → n ≤ 64 →
      s.hostLanes s.cur.world = false → Completes (.lease d a b f) s (answer 0 i
        { s with fab := { s.fab with leases := tset Lease.free s.fab.leases i ⟨1, peer, s.cur.world, n, [], 0, []⟩
                                     waiting := s.fab.waiting ++ [i] } })) ∧
    (ready (.lrel d a f) s = true → x.st = 0 ∨ x.world ≠ s.cur.world → Completes (.lrel d a f) s fun s' =>
      s' = s.goOn (s.cur.sput d.toNat (BitVec.ofNat 32 (2 ^ 24)) wa) s.curp) ∧
    (ready (.lrel d a f) s = true → x.st ≠ 0 → x.world = s.cur.world → Completes (.lrel d a f) s fun s' =>
      s' = (s.leaseEnd k).goOn (s.cur.sput d.toNat 0 wa) s.curp ∧ s'.leaseAt k = Lease.free ∧ k ∉ s'.fab.waiting ∧
      (∀ l, l < 1024 → (s.lane l).lease = some k →
        (s'.lane l = { s.lane l with lease := none } ∨
          (s.lane l).st ≠ 4 ∧ s'.lane l = { s.lane l with
            lease := none, far := none, peer := 1024, st := if (s.lane l).st = 3 then 3 else 1, moved := (s.lane l).st == 3 }) ∧
        ((s.lane l).st = 4 ∨ s.isMember (s.lane l).peer = true ∧ s.defaultPeer l = some (s.lane l).peer →
          s'.lane l = { s.lane l with lease := none }) ∧
        ((s.lane l).st ≠ 4 → s.isMember (s.lane l).peer = false → (s'.lane l).st = (if (s.lane l).st = 3 then 3 else 1))) ∧
      (∀ l, (s.lane l).lease ≠ some k → s'.lane l = s.lane l) ∧
      (∀ p, s.isMember p = true → 0 < s.lanesTo p → 0 < s'.lanesTo p)) ∧
    (ready (.lqry d a) s = true → ∃ v : Dword, (Completes (.lqry d a) s fun s' => UniResult s s' d.toNat 2 (s.cur.sw a.toNat) v.toNat) ∧
      (x.st = 0 ∨ x.world ≠ s.cur.world → v = 0) ∧
      (x.st ≠ 0 → x.world = s.cur.world → x.st < 8 → x.peer < 1024 → x.world < 256 → x.lanes.length ≤ 64 → x.wanted ≤ 64 →
        (v.extractLsb' 61 3).toNat = x.st ∧ (v.extractLsb' 51 10).toNat = x.peer ∧ (v.extractLsb' 43 8).toNat = x.world ∧
        (v.extractLsb' 36 7).toNat = x.lanes.length ∧ (v.extractLsb' 29 7).toNat = x.wanted ∧
        (x.st ≠ 3 → v.extractLsb' 0 29 = 0)))) ∧
  (∀ (s : State) (peer top : Nat) (rs : List (Nat × Nat × Nat)),
    let may := fun (j : Nat) (a b : Nat × Nat) =>
      j < 1024 ∧ s.endOf j peer = some a ∧ rs.find? (fun r => r.1 == j) = some (j, b) ∧ planeClass a.1 b.1 ≤ top
    let ended := fun a b : Nat × Nat => (if a.1 ≠ 2 then b.2 else if b.1 ≠ 2 then a.2 else min a.2 b.2) % 2 ^ 80
    (∀ k, s.choosePlane peer top rs = some k → ∃ a b, may k a b ∧ ∀ j a' b', may j a' b' →
      planeClass a.1 b.1 ≤ planeClass a'.1 b'.1 ∧
      (planeClass a'.1 b'.1 = planeClass a.1 b.1 → planeClass a.1 b.1 ≠ 4 → k ≤ j) ∧
      (planeClass a'.1 b'.1 = 4 → planeClass a.1 b.1 = 4 → ended a b ≤ ended a' b')) ∧
    (s.choosePlane peer top rs = none ↔ ∀ j a b, ¬ may j a b) ∧
    (∀ b, tfind s.fab.full peer = some b → s.noneThere peer = b) ∧
    (∀ k, (s.lane k).st = 1 → s.endOf k peer = some (0, 0)) ∧
    (∀ k, (s.lane k).st = 2 ∨ (s.lane k).st = 3 ∨ (s.lane k).st = 4 → s.endOf k peer = none) ∧
    (∀ k, (s.lane k).st = 0 → (s.lane k).peer = peer ∨ s.lanesTo (s.lane k).peer ≤ 1 → s.endOf k peer = none) ∧
    (∀ k, (s.lane k).st = 0 → (s.lane k).peer ≠ peer → 1 < s.lanesTo (s.lane k).peer →
      ((s.lane k).lease = none → (s.lane k).far = none → s.endOf k peer = some (1, 0)) ∧
      (∀ e, (s.lane k).lease = none → (s.lane k).far = some e → s.endOf k peer = if e ≤ s.time then some (2, e) else none) ∧
      (∀ i, (s.lane k).lease = some i → s.endOf k peer = if (s.leaseAt i).st = 4 then some (2, (s.leaseAt i).ends) else none))) ∧
  (∀ (s : State) (i k : Nat),
    let l := s.leaseAt i
    let free := s.grantable k l.peer = true ∧ s.reaches l.peer = true
    let given := fun s' : State => (s'.lane k).peer = l.peer ∧ (s'.lane k).st = 2 ∧ (s'.lane k).lease = some i ∧
      (s'.leaseAt i).st = (if l.st = 1 then 2 else l.st)
    let plane := s.choosePlane l.peer 4 (reports (s.arg.n.drop 1))
    (s.argN 0 = l.peer → s.nextLease = some i → plane = some k → Completes .laneGrant s fun s' => given s' ∧ s'.fab.turn = l.world) ∧
    (s.argN 0 = l.peer → s.nextLease = some i → plane = none → Completes .laneGrant s fun s' =>
      s' = { s with fab := { s.fab with turn := l.world } }) ∧
    (s.nextLease = none ∨ (s.nextLease = some i ∧ s.argN 0 ≠ l.peer) → exec .laneGrant s = .next s) ∧
    (∀ j, s.nextLease = some j → j ∈ s.fab.waiting ∧ 1 ≤ (s.leaseAt j).st ∧ (s.leaseAt j).st ≤ 3 ∧ s.leaseLanes j < (s.leaseAt j).wanted ∧
      s.hostLanes (s.leaseAt j).world = false ∧ s.reaches (s.leaseAt j).peer = true) ∧
    (s.fab.waiting.find? (fun j => (s.leaseAt j).world == (s.fab.turn + 1) % 256) = some i → s.leaseOpen i = true →
      s.reaches l.peer = true → s.hostLanes l.world = false → s.nextLease = some i) ∧
    (s.argN 1 = i * 1024 + k → i < 256 → k < 1024 → l.st ≠ 0 → s.topPart l.world = some (s.topOf (s.argN 0)) →
      (s.argN 2 = 0 → s.leaseOpen i = true → free → Completes .grant s fun s' => given s') ∧
      (¬ (s.argN 2 = 0 ∧ s.leaseOpen i = true ∧ free) → Completes .grant s fun s' => s'.fab = s.fab) ∧
      (Completes .refuse s fun s' => s' = s.leaseEnd i)) ∧
    (s.argN 0 = k → (s.lane k).st ≠ 2 ∨ s.isMember (s.lane k).peer = false ∨ s.fab.started = false → exec .laneRelock s = .next s) ∧
    (s.argN 0 = k → (s.lane k).st = 2 → s.isMember (s.lane k).peer = true → s.fab.started = true → (s.lane k).lease = some i → l.st = 2 ∨ l.st = 3 →
      Completes .laneRelock s fun s' => (s'.lane k).st = 0 ∧ (s'.leaseAt i).st = 3 ∧ (s'.leaseAt i).lanes = l.lanes ++ [k] ∧
        (s'.leaseAt i).ends = (if l.st = 2 then s.time + (s.pkg 0x0A5).toNat % 4096 * 360000 else l.ends)) ∧
    (s.argN 0 = k → (s.lane k).st = 2 → s.isMember (s.lane k).peer = true → s.fab.started = true → (s.lane k).lease = some i → l.st = 4 →
      Completes .laneRelock s fun s' => (s'.lane k).lease = none ∧ s'.leaseAt i = l) ∧
    (s.argN 0 = k → (s.lane k).st = 2 → s.isMember (s.lane k).peer = true → s.fab.started = true → (s.lane k).lease = none →
      Completes .laneRelock s fun s' => (s'.lane k).st = 0 ∧ (s'.lane k).peer = (s.lane k).peer) ∧
    (s.argN 0 = i → l.st = 3 → l.ends ≤ s.time → l.lanes ≠ [] → Completes .leaseTermExpiry s fun s' =>
      s'.leaseAt i = { l with st := 4 } ∧ i ∉ s'.fab.waiting ∧ s'.fab.lanes = s.fab.lanes) ∧
    (s.argN 0 = i → l.st = 3 → l.ends ≤ s.time → l.lanes = [] → Completes .leaseTermExpiry s fun s' =>
      s'.leaseAt i = Lease.free ∧ i ∉ s'.fab.waiting) ∧
    (s.argN 0 = i → s.time < l.ends → exec .leaseTermExpiry s = .next s) ∧
    (∀ q, s.argN 1 = k → s.argN 2 = q → q < 1024 → s.grantable k q = true → s.reaches q = true → Completes .managerMessage s fun s' =>
      (s'.lane k).peer = q ∧ (s'.lane k).st = 2 ∧ (s'.lane k).lease = none ∧
        (s'.lane k).far = (if s.argN 3 = 0 then none else some (s.argN 3 - 1))) ∧
    (s.argN 1 = k → s.argN 2 = 1024 → s.grantable k 1024 = true → Completes .managerMessage s fun s' =>
      (s'.lane k).st = 1 ∧ (s'.lane k).lease = none ∧ (s'.lane k).far = none) ∧
    (s.argN 2 = 1027 → s.isMember (s.argN 0) = true → Completes .managerMessage s fun s' =>
      tfind s'.fab.full (s.argN 0) = some (s.argN 3 == 1) ∧ s'.fab.lanes = s.fab.lanes) ∧
    (s.argN 2 = 1028 → s.isMember (s.argN 0) = true → Completes .managerMessage s fun s' =>
      s' = (s.share (s.argN 0) (s.argN 3)).pump (s.argN 0) ∧ (s'.pair (s.argN 0)).want = max 8 (min (s.argN 3) ((s.pair (s.argN 0)).bufs + s.poolFree)) ∧
        (s'.pair (s.argN 0)).bufs = max (s.pair (s.argN 0)).bufs (s'.pair (s.argN 0)).want) ∧
    (∀ q, s.argN 0 = q → s.argN 1 = k → s.defaultPeer k = some q → s.reaches q = true →
      (s.argN 2 = 1025 → s.argN 3 = 0 → (s.lane k).peer = 1024 → (s.lane k).st = 1 ∨ (s.lane k).st = 3 → Completes .managerMessage s fun s' =>
        (s'.lane k).peer = q ∧ (s'.lane k).st = (if (s.lane k).st = 3 then 3 else 2) ∧ (s'.lane k).lease = none) ∧
      (s.argN 2 = 1026 → s.freeEnd k = true → (s.lane k).st = 1 ∨ (s.lane k).peer ≠ q → Completes .managerMessage s fun s' =>
        s' = (s.retarget k q none).sendFlit q ⟨6, [k, 1025, 0], []⟩ ∧ (s'.lane k).peer = q ∧ (s'.lane k).st = 2) ∧
      (s.argN 2 = 1026 → s.freeEnd k = false ∨ ((s.lane k).st ≠ 1 ∧ (s.lane k).peer = q) → Completes .managerMessage s fun s' =>
        s' = s.sendFlit q ⟨6, [k, 1025, 1], []⟩)))

/-- R166, R189 to R193: lanes in error, and the peer table.
R167, R173: the default pairing, and when it is taken.
The model's own part: how the peer's manager reports its ends when a pair has lost its last lane (log 35). -/
def Obligations.LanesAndPeers : Prop :=
  (∀ s : State,
    let k := s.argN 0
    let x := s.lane k
    let last := x.st = 3 ∧ ((s.pkg 0x0A4).extractLsb' 0 2).toNat ≤ x.tries + 1
    (2 ^ ((s.pkg 0x0A4).extractLsb' 2 4).toNat < s.argN 1 → x.st = 0 → Completes .symbolWindow s fun s' =>
      (s'.lane k).st = 3 ∧ (s'.lane k).peer = x.peer ∧ (s'.lane k).lease = x.lease ∧ (s'.lane k).retr = min 255 (x.retr + 1)) ∧
    (s.argN 1 ≤ 2 ^ ((s.pkg 0x0A4).extractLsb' 2 4).toNat → Completes .symbolWindow s fun s' =>
      s' = s.setLane k { x with corr := min 1048575 (s.argN 1) }) ∧
    (x.st = 3 → Completes .retrainComplete s fun s' =>
      (s'.lane k).st = (if x.peer = 1024 then 1 else if x.moved = true then 2 else 0) ∧ (s'.lane k).peer = x.peer ∧ (s'.lane k).lease = x.lease ∧
        (s'.lane k).corr = 0) ∧
    (x.st = 3 → x.tries + 1 < ((s.pkg 0x0A4).extractLsb' 0 2).toNat → Completes .retrainFailure s fun s' =>
      s' = s.setLane k { x with tries := x.tries + 1 }) ∧
    (last → k < 1024 → 1 < s.lanesTo x.peer → x.lease = none → Completes .retrainFailure s fun s' =>
      (s'.lane k).st = 4 ∧ (s'.lane k).lease = none ∧ s'.fab.peers = s.fab.peers) ∧
    (last → k < 1024 → s.lanesTo x.peer = 1 → s.isMember x.peer = true → x.lease = none →
      let s1 : State := (s.setLane k { x with st := 4, peer := 1024, tries := x.tries + 1, far := none, moved := false }).fabEvent 0
        (fabWord 5 k x.peer 0 0 0 s.time 0)
      let plane := if s.reaches x.peer then s1.choosePlane x.peer 3 (reports (s.arg.n.drop 1)) else none
      (∀ j, plane = some j → Completes .retrainFailure s fun s' =>
        (s'.lane j).peer = x.peer ∧ (s'.lane j).st = 2 ∧ s'.fab.peers = s.fab.peers) ∧
      (plane = none → Completes .retrainFailure s fun s' => s' = s1.failPeer x.peer ∧ (x.peer ≠ s.me → s'.reaches x.peer = false))) ∧
    (∀ v s1, s.hubRead none ((s.pkg 0x0A1).toNat + 8 * (k % 1024)) 8 = some (v, s1) → k % 1024 ≠ s.me → Completes .fbsync s fun s' =>
      s'.peerBits (k % 1024) = v % 8 ∧ (∀ q, q ≠ k % 1024 → s'.peerBits q = s.peerBits q) ∧
        (s.isMember (k % 1024) = true → v % 2 = 0 → s'.pair (k % 1024) = Pair.blank)) ∧
    Pair.blank = ⟨0, 0, 8, [], 0, [], [], 0, [], [], 8, 8⟩ ∧
    (∀ p, p ≠ s.me → (s.reaches p = true ↔ tget 0 s.fab.peers p = 1)) ∧ s.isMember s.me = true) ∧
  (∀ (s : State) (k : Nat), k < 1024 →
    ((∃ p ∈ s.members, s.peerBits p / 2 % 2 = 1) ∨ (s.fab.started = true ∧ s.members = s.fab.basis) → s.repair = s) ∧
    ((∀ p ∈ s.members, s.peerBits p / 2 % 2 ≠ 1) → s.fab.started = false → (s.lane k).st ≠ 4 → (s.lane k).lease = none → (s.lane k).far = none →
      s.repair.fab.started = true ∧ s.repair.fab.basis = s.members ∧
      (∀ q, s.defaultPeer k = some q → (s.repair.lane k).peer = q ∧ (s.repair.lane k).st = (if (s.lane k).st = 3 then 3 else 2)) ∧
      (s.defaultPeer k = none → (s.repair.lane k).peer = 1024 ∧ (s.repair.lane k).st = (if (s.lane k).st = 3 then 3 else 1))) ∧
    (∀ q, (∀ p ∈ s.members, s.peerBits p / 2 % 2 ≠ 1) → s.fab.started = true → s.members ≠ s.fab.basis → (s.lane k).st ≠ 4 → (s.lane k).lease = none →
      (s.lane k).far = none → defaultIn s.fab.basis s.me k ≠ some q → s.defaultPeer k = some q →
      ((s.lane k).st ≠ 1 → (s.lane k).peer = q → s.repair.lane k = s.lane k) ∧
      ((s.lane k).st = 1 ∨ (s.lane k).peer ≠ q → (s.repair.lane k).peer = q ∧ (s.repair.lane k).st = (if (s.lane k).st = 3 then 3 else 2))) ∧
    (s.fab.started = true → defaultIn s.fab.basis s.me k = s.defaultPeer k → (s.lane k).st = 1 ∨ s.isMember (s.lane k).peer = true →
      s.repair.lane k = s.lane k)) ∧
  (∀ (j n i : Nat), 2 ≤ n → n ≤ 1024 → i < n →
    let m := if n % 2 = 0 then n - 1 else n
    let r := j % m
    (m * (1024 / m) ≤ j → defaultPair j n i = none) ∧
    (j < m * (1024 / m) → n % 2 = 0 → defaultPair j n (n - 1) = some r ∧ defaultPair j n r = some (n - 1)) ∧
    (j < m * (1024 / m) → ∀ k, k < m → i < m → i ≠ k → (defaultPair j n i = some k ↔ (i + k) % m = 2 * r % m)) ∧
    (j < m * (1024 / m) → n % 2 = 1 → defaultPair j n r = none) ∧
    (∀ k, defaultPair j n i = some k → k < n ∧ k ≠ i ∧ defaultPair j n k = some i) ∧
    (∀ w, defaultPair j 1 w = none))

/-- R46, R125, R180, R183, R186: an access that arrives from a peer is of the subset, is placed in the world's own window and translated at user level;
what stops it is answered with its code and recorded once, it never parks; otherwise it is performed and answered.
The model's own part: The core whose TLB is used is the model's choice (log 38), and world 0 stops at space to which the spec gives no outcome (R16). -/
def Obligations.InboundAccesses : Prop :=
  ∀ (s : State),
    let peer := s.argN 0
    let id := s.argN 1
    let kind := s.argN 2
    let w := s.argN 3
    let atop := s.argN 5
    let ls := piecesIn (s.arg.n.drop 6)
    let wb : Waybill := BitVec.ofNat 16 (s.argN 4)
    let acc := if kind = 0 then 0 else if kind = 1 then 1 else 2
    let n := ls.foldl (fun a l => a + l.size) 0
    let reply := fun (s1 : State) (c q : Nat) (wv : Waybill) (vals : List Nat) (bs : List Byte) (s' : State) =>
      s' = s1.sendFlit peer ⟨if kind = 1 then 2 else 3, [id, c, q, wv.toNat] ++ vals, bs⟩
    (supported kind atop ls = false → Completes .inboundAccess s (reply s 0x25 0 0 [] [])) ∧
    (supported kind atop ls = true ↔ (∃ r rest, ls = r :: rest ∧
      (∀ x ∈ ls, x.size ≠ 0 ∧ x.addr / 128 = r.addr / 128 ∧ (x.addr + x.size - 1) / 128 = r.addr / 128) ∧
      n ≤ 128 ∧ (kind = 1 ∨ (kind = 0 ∧ rest = []) ∨ (kind = 2 ∧ rest = [] ∧
        (atop = 10 ∧ r.size = 4 ∨ (atop = 0 ∨ atop = 9) ∧ (r.size = 4 ∨ r.size = 8)))))) ∧
    (∀ r rest, supported kind atop ls = true → ls = r :: rest →
      let refused := fun (s1 : State) (d : Denied) =>
        Completes .inboundAccess s (reply (s1.inboundDecline peer w acc d wb) d.code d.reason 0 [] [])
      let bound : Prop := w = 0 ∨ s.partOf w ≠ none
      let m := inboundOp kind r.size atop
      let clear : Prop := s.nowhereAt w acc (ls.map (fun x => x.addr)) = none
      (clear → ¬ bound → refused s ⟨0x23, 0, s.targetVa w r.addr, 0, false⟩) ∧
      (clear → bound → s.window w = none → refused s ⟨cPROT, 3, s.targetVa w r.addr, 0, false⟩) ∧
      (∀ k base, clear → bound → s.window w = some (k, base) → 2 ^ k ≤ r.addr →
        refused s ⟨cPROT, 3, (base + r.addr) % 2 ^ 57, 0, false⟩) ∧
      (∀ k base, bound → s.window w = some (k, base) → r.addr < 2 ^ k →
        let va := (base + r.addr) % 2 ^ 57
        let x := s.xlate 0 w (if va < 2 ^ 56 then va else va + (2 ^ 64 - 2 ^ 57)) acc 0
        (∀ f, clear → x.1 = .trap f → refused x.2 ⟨f.cause, f.reason, va, 0, false⟩) ∧
        (∀ z o, clear → x.1 = .park z o → refused x.2 ⟨0x20, 0, va, z, o⟩) ∧
        (∀ y, x.1 = .ok y → y.region = .unpopulated → exec .inboundAccess s = .fault .unpopulated) ∧
        (∀ y, x.1 = .ok y → y.region = .device → exec .inboundAccess s = .refused .deviceSpace) ∧
        (∀ y s2 g e, clear → x.1 = .ok y → x.2.gate (inboundParts x.2 w m y n wb) = .error (e, g, s2) →
          refused s2 ⟨cEGRESS, 0, s2.targetVa w r.addr, y.size, false⟩) ∧
        (∀ y s2, clear → x.1 = .ok y → x.2.gate (inboundParts x.2 w m y n wb) = .ok s2 → y.region = .window → kind = 1 → rest = [] →
          Completes .inboundAccess s (reply { s2 with
            outbox := s2.outbox ++ [⟨2, [y.gpa / 128 * 128 + r.addr % 128, r.size], bytesOf r.size r.data⟩] } 0 0 0 [] [])) ∧
        (∀ y s2, clear → x.1 = .ok y → y.region = .hbm → lfZero y.leaf = true → y.atom = true → kind = 0 → rest = [] →
          x.2.gate (inboundParts x.2 w m y n wb) = .ok s2 → Completes .inboundAccess s (reply s2 0 0 0 [0] (bytesOf r.size 0))) ∧
        (∀ y s2 s3, clear → x.1 = .ok y → y.region = .hbm → x.2.gate (inboundParts x.2 w m y n wb) = .ok s2 →
          s2.ensureL2 y.ident y.tag (y.gpa / 128) = some s3 → y.atom = false →
          ∀ l, s3.l2? y.ident y.tag (y.gpa / 128) = some l →
            let at_ := y.gpa / 128 * 128
            let old := lineGet l.data (y.gpa % 128) r.size
            let here := ls.map (fun p => { p with addr := at_ + p.addr % 128 })
            (kind = 1 → s2.l2? y.ident y.tag (y.gpa / 128) ≠ none ∨ coverage 128 here ≠ 2 ^ 128 - 1 → Completes .inboundAccess s
              (reply (s3.putL2 y.ident y.tag (y.gpa / 128) (l.merge 0 here wb)) 0 0 0 [] [])) ∧
            (kind = 1 → s2.l2? y.ident y.tag (y.gpa / 128) = none → coverage 128 here = 2 ^ 128 - 1 → Completes .inboundAccess s
              (reply ((s2.evictFor (y.gpa / 128)).putL2 y.ident y.tag (y.gpa / 128)
                ⟨mergeLine 0 here 0, false, true, storeWb true 0 wb, 0⟩) 0 0 0 [] [])) ∧
            (kind = 0 → lfZero y.leaf = false → l.poison = 0 → rest = [] → Completes .inboundAccess s
              (reply s3 0 0 l.wb [lineGet l.data (r.addr % 128) r.size] (bytesOf r.size (lineGet l.data (r.addr % 128) r.size)))) ∧
            (kind ≠ 1 → lfZero y.leaf = false → l.poison = 3 → refused s3 ⟨cPOISON, 0, s3.targetVa w r.addr, y.size, false⟩) ∧
            (kind = 2 → lfZero y.leaf = false → l.poison = 0 → Completes .inboundAccess s
              (reply (s3.putL2 y.ident y.tag (y.gpa / 128)
                (l.merge 0 [{ r with addr := y.gpa, data := atomNew atop r.size old r.data r.cmp }] wb)) 0 0 l.wb [old] (bytesOf r.size old)))))) ∧
    (Completes .targetTimeout s fun s' =>
      s' = (s.inboundDecline peer kind (inboundOp (s.argN 4) 8 0).acc ⟨0x22, 0, s.targetVa kind w, 0, false⟩ (BitVec.ofNat 16 atop)).sendFlit peer
        ⟨if s.argN 4 = 1 then 2 else 3, [id, 0x22, 0, 0], []⟩)

/-- R180, R182, R184, R379, R380: the remote instructions: the checks over all lanes before any lane sends, the first pass to the lowest peer, the
passes of a posted store, whose flag is set until the last has left the package, and how a load or an atomic goes on when its pass is answered.
R157, R184 to R187: an answer leaves its request over. Values go to the lanes of the instruction, which leave its mask; a refusal is kept for
its trap; the path goes on at the last answer. A posted write leaves its string's unacknowledged writes, and a refused one is kept for its
report. A request that is not answered in time is answered NOANSWER; an answer nobody waits for changes nothing.
The model's own part: the gate decides once, when the path's earlier accesses are done and the instruction can go on (log 91); a load or atomic sends
the pass of its lowest peer and holds; a posted store sends every pass, counts as unacknowledged and goes on; an answer gives values to its
lanes and takes them out of the mask, a refusal is kept and trapped as RFAULT at the lowest lane; a timeout answers 0x30; an answer nobody
waits for changes nothing. -/
def Obligations.RemoteAccesses : Prop :=
  (∀ (d a : BitVec 7) (b : BitVec 6) (z : BitVec 3) (f : BitVec 1) (s s1 : State),
    let n := sizeRegs z
    let t := s.cur
    let p := s.curp
    let lanes := fun (size : Nat) (data cmp : Nat → Nat) => (lanesOf (actLanes p)).map (fun l =>
      (⟨(t.vget (a.toNat + 1) l).toNat % 1024, l, (t.spair b.toNat + (t.vget a.toNat l).setWidth 64).toNat, size, data l, cmp l⟩ : RemLane))
    let stops := fun (i : Instr) (acc : Nat) (ls : List RemLane) (wb : Waybill) (room : Prop) =>
      let trap := fun (s1 : State) (c q : Nat) (x : RemLane) (rf gt : Option Word) => takeTrap s1 t
        ⟨c, p.here, p.pos, BitVec.ofNat 64 x.r.addr, 0, some (tinfoWord x.r.lane q 0 0 acc), rf, gt, none⟩
      let parts := ((List.range 1024).filter (fun q => ls.any (fun x => x.peer == q) && !s.attestedFor t.world q)).map (fun q =>
        (⟨t.world, wb, destPackage q, (ls.filter (fun x => x.peer == q)).foldl (fun c x => c + x.r.size) 0⟩ : Egress))
      let toward := fun (q : Nat) => parts.filter (fun y => y.dest.pkg == q)
      let refused := fun (es : List Egress) => match s.gate es with
        | .error _ => true
        | .ok _ => false
      let aligned : Prop := ∀ x ∈ ls, x.r.addr % x.r.size = 0
      let inside : Prop := ∀ x ∈ ls, s.inWindow t.world x.r.addr = true
      let near : Prop := ∀ x ∈ ls, s.reaches x.peer = true
      ready i s = true → p.parkOp = none →
        (∀ x, ls.find? (fun x => x.r.addr % x.r.size != 0) = some x → exec i s = trap s cALIGN 0 x none none) ∧
        (∀ x, aligned → ls.find? (fun x => !s.inWindow t.world x.r.addr) = some x → exec i s = trap s cPROT 3 x none none) ∧
        (∀ x, aligned → inside → ls.find? (fun x => !s.reaches x.peer) = some x →
          exec i s = trap s cUNREACH 0 x (some (BitVec.ofNat 32 (x.peer * 2 ^ 20))) none) ∧
        (aligned → inside → near → s.settled p = false → exec i s = stay s t p) ∧
        (aligned → inside → near → ¬ room → exec i s = stay s t p) ∧
        (∀ r1 x e g s2, aligned → inside → near → s.settled p = true → room → s.gate parts = .error r1 →
          ls.find? (fun x => refused (toward x.peer)) = some x → s.gate (toward x.peer) = .error (e, g, s2) → exec i s = trap s2 cEGRESS 0 x none (some g)) ∧
        (∀ x e g s2, aligned → inside → near → s.settled p = true → room → s.gate parts = .error (e, g, s2) →
          ls.find? (fun x => refused (toward x.peer)) = none → ls.find? (fun x => x.peer == e.dest.pkg) = some x →
          exec i s = trap s2 cEGRESS 0 x none (some g))
    let passes := fun (acc : Nat) (ls : List RemLane) (wb : Waybill) =>
      p.parkOp = none ∧ s.settled p = true ∧ (∀ x ∈ ls, x.r.addr % x.r.size = 0 ∧ s.inWindow t.world x.r.addr = true ∧ s.reaches x.peer = true) ∧
        s.gate (remParts s t.world wb ls) = .ok s1 ∧
        s1.nowhereAt t.world acc ((ls.filter (fun x => x.peer == s.me)).map (fun x => x.r.addr)) = none
    let asked := fun (s' : State) (q kind : Nat) (who : Asker) (r : List LaneReq) (tag : Nat) =>
      ∃ id, tfind s'.fab.rems id = some ⟨q, who, kind, t.world, (r.head?.map (fun e => e.addr)).getD 0, r, s'.time, tag, []⟩
    let load := fun (i : Instr) (kind size : Nat) (data cmp : Nat → Nat) (src : Waybill) =>
      let ls := lanes size data cmp
      let wb := src ||| t.vws a.toNat 2 ||| t.sws b.toNat 2 ||| predWb t p ||| p.flow
      stops i (if kind = 0 then 0 else 2) ls wb True ∧
      (ready i s = true → passes (if kind = 0 then 0 else 2) ls wb →
        (∀ q more, remPeers ls = q :: more → q ≠ s.me → Completes i s fun s' =>
          s'.curp.hold = .remote s1.nextOp ∧ s'.curp.umask = actLanes p ∧ s'.curp.pos = p.pos ∧ s'.curp.pc = p.pc ∧
          (∀ r ∈ passReqs (kind == 2) (ls.filter (fun x => x.peer == q)), asked s' q kind (.path s1.nextOp) r 0) ∧
          s'.mem.hbm = s1.mem.hbm ∧ s'.mem.l2 = s1.mem.l2) ∧
        (∀ more, remPeers ls = s.me :: more → Completes i s fun s' =>
          s'.curp.hold = .none ∧ s'.curp.pos = p.pos ∧ s'.curp.pc = p.pc ∧ s'.fab.rems = s1.fab.rems)) ∧
      (∀ op, ready i s = true → p.parkOp = some op →
        (s.fab.rems.any (fun e => e.2.who == .path op) = true → exec i s = .next s) ∧
        (s.fab.rems.any (fun e => e.2.who == .path op) = false →
          (∀ l off pe c q rest, tget [] s.fab.fails op = [l, off, pe, c, q] :: rest → l < 32 → (∀ e ∈ rest, l ≤ e.headD 32) → c < 256 → q < 16 → pe < 1024 →
            exec i s = takeTrap { s with fab := { s.fab with fails := terase s.fab.fails op } } t
              ⟨cRFAULT, p.here, p.pos, BitVec.ofNat 64 off, 0, some (tinfoWord l q 0 0 (if kind = 0 then 0 else 2)),
                some (BitVec.ofNat 32 (pe * 2 ^ 20 + q * 2 ^ 16 + c * 2 ^ 8)), none, none⟩) ∧
          (∀ q more, tget [] s.fab.fails op = [] → p.umask ≠ 0 → remPeers ls = q :: more → q ≠ s.me → Completes i s fun s' =>
            s'.curp.hold = .remote op ∧ s'.curp.umask = p.umask ∧ s'.curp.pos = p.pos ∧
            (∀ r ∈ passReqs (kind == 2) (ls.filter (fun x => x.peer == q)), asked s' q kind (.path op) r 0)) ∧
          (tget [] s.fab.fails op = [] → p.umask = 0 → Completes i s fun s' =>
            s'.curp.pos = (advance t p).2.pos ∧ s'.curp.pc = (advance t p).2.pc)))
    load (.rld d a b z f) 0 (sizeBytes z) (fun _ => 0) (fun _ => 0) 0 ∧
    load (.ratadd d a b z f) 2 (4 * n) (fun l => t.vgroup d.toNat n l) (fun _ => 0) (t.vws d.toNat n) ∧
    load (.ratcas d a b z f) 2 (4 * n) (fun l => t.vgroup (d.toNat + n) n l) (fun l => t.vgroup d.toNat n l) (t.vws d.toNat (2 * n)) ∧
    load (.ratfadd d a b z f) 2 4 (fun l => t.vgroup d.toNat 1 l) (fun _ => 0) (t.vws d.toNat 1) ∧
    (let k := (sizeBytes z + 3) / 4
     let ls := lanes (sizeBytes z) (fun l => t.vgroup d.toNat k l % 2 ^ (8 * sizeBytes z)) (fun _ => 0)
     let wb := t.vws d.toNat k ||| t.vws a.toNat 2 ||| t.sws b.toNat 2 ||| predWb t p ||| p.flow
     let reqs := fun (q : Nat) => passReqs false (ls.filter (fun x => x.peer == q))
     let count := (((remPeers ls).filter (fun q => q != s.me)).map (fun q => (reqs q).length)).sum
     let room := tget 0 s.sch.outstanding (outKey t (coreOf s.curUnit)) + count ≤ 65535
     stops (.rst d a b z f) 1 ls wb room ∧
     (ready (.rst d a b z f) s = true → passes 1 ls wb → (∀ x ∈ ls, x.peer ≠ s.me) → room → tget [] s1.fab.fails s1.nextOp = [] →
       Completes (.rst d a b z f) s fun s' =>
         (∀ q ∈ remPeers ls, ∀ r ∈ reqs q, asked s' q 1 (.post s.curUnit p.id t.key (outKey t (coreOf s.curUnit))) r s1.nextOp) ∧
         s'.cur.unacked.length = t.unacked.length + count ∧
         (∀ j o, slotFlag p.hdr f = some j → tfind s'.mem.ops s1.nextOp = some o → (j, s1.nextOp) ∈ s'.curp.binds) ∧
         (ls ≠ [] → (∀ q ∈ remPeers ls, s1.liveTo q = false) → ∃ o, tfind s'.mem.ops s1.nextOp = some o ∧ o.left = count) ∧
         s'.curp.pos = (advance t p).2.pos ∧ s'.curp.pc = (advance t p).2.pc ∧ s'.cur.v = t.v ∧ s'.mem.hbm = s1.mem.hbm ∧
         s'.mem.l2 = s1.mem.l2))) ∧
  (∀ (ls : List LaneReq) (lo v : Nat) (rest : List Nat) (kind : Nat),
    (kind ≠ 0 → laneVals kind ls (v :: rest) = (ls.zip (v :: rest)).map (fun e => (e.1.lane, e.2))) ∧
    ((∀ x ∈ ls, lo ≤ x.addr) → (∃ x ∈ ls, x.addr = lo) → wirePieces kind 0 ls = [⟨0, lo, ls.foldl (fun h r => max h (r.addr + r.size)) 0 - lo, 0, 0⟩] ∧
      laneVals 0 ls (v :: rest) = ls.map (fun r => (r.lane, v / 256 ^ (r.addr - lo) % 256 ^ r.size)))) ∧
  (∀ (s : State) (r : Rem) (id : Nat),
    let gone := terase s.fab.rems id
    let answers := fun (i : Instr) (code reason : Nat) (vals : List Nat) (wb : Waybill) =>
      (∀ op o t, r.kind ≠ 4 → r.who = .path op → tfind s.mem.ops op = some o → s.str? o.unit = some t → t.stopNow = false →
        Completes i s fun s' => s'.fab.rems = gone ∧ ∃ t', s'.str? o.unit = some t' ∧
          (∀ b, (t'.path b).umask = (if (t.path b).parkOp = some op ∧ code = 0 then
              (t.path b).umask &&& ~~~(laneMask (fun l => r.lanes.any (fun x => x.lane == l))) else (t.path b).umask) ∧
            ((t.path b).hold = .remote op → (t'.path b).hold = if gone.any (fun e => e.2.who == .path op) then .remote op else .none)) ∧
          (code ≠ 0 → t'.v = t.v ∧ tget [] s'.fab.fails op = tget [] s.fab.fails op ++
            r.lanes.map (fun l => [l.lane, l.addr, r.peer, code, reason])) ∧
          (code = 0 → s'.fab.fails = s.fab.fails ∧
            t'.v = ((laneVals r.kind r.lanes vals).foldl (fun t e => t.deliver o.dest e.1 e.2) t).v ∧
            t'.vwb = (t.widen o.dest (o.acc ||| wb)).vwb)) ∧
      (∀ u b who launch, r.kind ≠ 4 → r.who = .post u b who launch →
        let s1 : State := ({ s with fab := { s.fab with rems := gone } }.outSub launch 1).onStr who (fun t =>
          { t with unacked := t.unacked.filter (fun x => x.2 != id) })
        Completes i s fun s' => s' = if code = 0 then s1
          else if s.strOf who = none ∧ s.isStored who = false then s1.fabEvent r.world (fabWord 6 0 r.peer r.world 0 code s.time r.offset)
          else s1.onStr who (fun t => { t with nacks := t.nacks ++ [⟨r.peer, BitVec.ofNat 64 r.offset, reason * 256 + code, b, id⟩] }))
    (tfind s.fab.rems id = some r →
      (r.peer = s.argN 0 → s.argN 1 = id →
        answers .remoteAck (s.argN 2) (s.argN 3) [] 0 ∧
        answers .remoteResponse (s.argN 2) (s.argN 3) (s.arg.n.drop 5) (BitVec.ofNat 16 (s.argN 4))) ∧
      (s.argN 0 = id → r.kind ≠ 4 → r.since + 3600 * ((s.pkg 0x0A3).extractLsb' 16 16).toNat ≤ s.time →
        answers .remoteTimeout 0x30 0 [] 0) ∧
      (s.argN 0 = id → r.kind = 4 ∨ s.time < r.since + 3600 * ((s.pkg 0x0A3).extractLsb' 16 16).toNat → exec .remoteTimeout s = .next s) ∧
      (∀ op e, s.argN 0 = id → r.kind = 5 ∨ r.kind = 6 → r.who = .eng op → s.endpoint r.world (r.peer - 1024) = some e →
        Completes .ethernetResponse s fun s' =>
          s' = s.engAnswer id op r (if s.argN 1 = 0 then 0 else if epValid e.1 then 0x30 else 0x28) 0 s.arg.bytes (epOrigins e.1)) ∧
      (∀ op, s.argN 0 = id → r.kind = 5 ∨ r.kind = 6 → r.who = .eng op → s.endpoint r.world (r.peer - 1024) = none →
        Completes .ethernetResponse s fun s' => s' = s.engAnswer id op r (if s.argN 1 = 0 then 0 else 0x28) 0 s.arg.bytes 0)) ∧
    (tfind s.fab.rems (s.argN 1) = none → exec .remoteAck s = .next s ∧ exec .remoteResponse s = .next s) ∧
    (tfind s.fab.rems (s.argN 0) = none → exec .remoteTimeout s = .next s ∧ exec .ethernetResponse s = .next s))

/-! ### Engines -/

/-- R390 to R407, R422: the matrix, softmax and carrier words at issue: what each names, reads and locks, and when it is accepted. -/
def Obligations.MatrixAndCarrierWords : Prop :=
  ∀ (f x : BitVec 1) (n m q : BitVec 3) (z : BitVec 2) (a b c : BitVec 6) (s : State) (k j : Nat),
    let t := s.cur
    let core := coreOf s.curUnit
    let va := (t.sget a.toNat).toNat
    let vb := (t.sget b.toNat).toNat
    let vc := (t.sget c.toNat).toNat
    let wa := t.sw a.toNat
    let wb := t.sw b.toNat
    let sp := fun (off n : Nat) => spAt s t off n ≠ none
    let lock := fun (off n : Nat) (w : Bool) => ((spAt s t off n).map (fun p => (core, chipLock 1 core t.world w p n))).toList
    let own := s.tileOf t core n.toNat false = some k
    let own2 := s.tileOf t core q.toNat false = some j
    let da := t.spair a.toNat
    let db := t.spair b.toNat
    let kb := (da.extractLsb' 40 8).toNat
    let bytes := fun (d : Dword) (lines : Nat) => (d.extractLsb' 0 20).toNat + (lines - 1) * (d.extractLsb' 20 16).toNat + kb * (if m = 0 then 64 else 32)
    let operand := fun (d : Dword) (lines : Nat) (key : Nat) (p : Party) => dParty s t d = some (key, p) ∧
      (d.extractLsb' 0 20).toNat % 8 = 0 ∧ (d.extractLsb' 20 16).toNat % 8 = 0 ∧ bytes d lines ≤ p.spSize
    let line := fun (d : Dword) (lines : Nat) (p : Party) => (p.core, chipLock 1 p.core t.world false
      (p.core * 2 ^ 20 + p.spBase + (d.extractLsb' 0 20).toNat) (bytes d lines - (d.extractLsb' 0 20).toNat))
    let e : Nat := if z = 0 then 8 else if z = 1 then 4 else 2
    (own → EngineWord (.mzeroE f n) s f 0 0x4A [k] [0] 0 [] True ∧ EngineWord (.mzeroAll f n) s f 0 0x4A [k] [1] 0 [] True ∧
      EngineWord (.mstatRst f n) s f 0 0x53 [k] [2] 0 [] True ∧ EngineWord (.smxn f n) s f 0 0x52 [k] [] 0 [] True ∧
      (∀ ka pa kb_ pb, EngineWord (.mma f n m a b) s f 0 0x4B [k] [m.toNat, kb, da.toNat, ka, db.toNat, kb_]
        (t.sws a.toNat 2 ||| t.sws b.toNat 2) [line da 64 pa, line db 64 pb]
        (operand da 64 ka pa ∧ operand db 64 kb_ pb ∧ kb ≠ 0 ∧ (m ≠ 0 → kb = 1))) ∧
      EngineWord (.mld f n z a b) s f 0 0x4E [k] [z.toNat, va, vb] (wa ||| wb) (lock va (63 * vb + 64 * e) false)
        (va % e = 0 ∧ vb % e = 0 ∧ sp va (63 * vb + 64 * e)) ∧
      EngineWord (.mst f n z a b) s f 0 0x4F [k] [z.toNat, va, vb] (wa ||| wb) (lock va (63 * vb + 64 * e) true)
        (va % e = 0 ∧ vb % e = 0 ∧ sp va (63 * vb + 64 * e)) ∧
      EngineWord (.mstatSt f n a) s f 0 0x53 [k] [0, va] wa [] (va % 16 = 0 ∧ sp va 1024) ∧
      EngineWord (.mstatLd f n a) s f 0 0x53 [k] [1, va] wa [] (va % 16 = 0 ∧ sp va 1024) ∧
      EngineWord (.xcv f n a b) s f 2 0x54 [k] [va, vb % 65536] (wa ||| wb) (lock va 66048 true) (va % 256 = 0 ∧ sp va 66048) ∧
      EngineWord (.xrnd f n a b) s f 2 0x57 [k] [va, vb % 65536] (wa ||| wb) (lock va 66048 false) (va % 256 = 0 ∧ sp va 66048)) ∧
    (own → own2 → EngineWord (.msca f n q a b) s f 0 0x4D [k, j] [va, vb] (wa ||| wb) [] (va % 8 = 0 ∧ vb % 8 = 0 ∧ sp va 64 ∧ sp vb 64) ∧
      (n ≠ q → EngineWord (.smxm f n q 0) s f 0 0x51 [k, j] [] 0 [] True) ∧
      (let mk := (t.sget (b.toNat + 1)).toNat
       EngineWord (.smxu f n q a b x z) s f 0 0x50 [k, j] [va, vb, mk, x.toNat, z.toNat] (wa ||| t.sws b.toNat 2) []
        (va % 8 = 0 ∧ sp va (if x = 0 then 8192 else 4096) ∧ (z = 1 → mk % 8 = 0 ∧ sp mk 512)))) ∧
    (own → s.tileOf t core q.toNat true = some j → EngineWord (.smxm f n q 1) s f 0 0x51 [k, j] [] 0 [] True) ∧
    (own → s.tileOf t core n.toNat true = some j → core % 2 = 0 → s.queueFull 0 (core ^^^ 1) = false → k ≠ j →
      ∀ ka pa kb_ pb, EngineWord (.mmap f n m a b) s f 0 0x4C [k, j] [m.toNat, kb, da.toNat, ka, db.toNat, kb_]
        (t.sws a.toNat 2 ||| t.sws b.toNat 2) [line da 128 pa, line db 64 pb]
        (operand da 128 ka pa ∧ operand db 64 kb_ pb ∧ kb ≠ 0 ∧ (m ≠ 0 → kb = 1))) ∧
    (core % 2 = 1 → ready (.mmap f n m a b) s = true → Traps (.mmap f n m a b) s cILLEGAL (s.curWord.setWidth 64)) ∧
    (EngineWord (.xadd f a b c) s f 2 0x55 [] [va, vb, vc % 128] (wa ||| wb ||| t.sw c.toNat)
      (lock va (1032 * (vc % 128)) true ++ lock vb (1032 * (vc % 128)) false)
      (va % 256 = 0 ∧ vb % 256 = 0 ∧ 1 ≤ vc % 128 ∧ vc % 128 ≤ 64 ∧ sp va (1032 * (vc % 128)) ∧ sp vb (1032 * (vc % 128)))) ∧
    (let w := (t.spair b.toNat).toNat
     let n := vc / 65536 % 128
     let src := wa ||| t.sws b.toNat 2 ||| t.sw c.toNat
     ∀ s1, ready (.xput f a b c) s = true → va % 256 = 0 → w % 128 = 0 → 1 ≤ n → n ≤ 64 → sp va (1032 * n) → HasRoom s 2 (lock va (1032 * n) false) →
      (¬ (s.inWindow t.world w = true ∧ s.inWindow t.world (w + 1032 * n - 1) = true) → exec (.xput f a b c) s = takeTrap s t
        ⟨cPROT, s.curp.here, s.curp.pos, t.spair b.toNat, 0, some (tinfoWord 0 3 0 0 5), none, none, none⟩) ∧
      (s.inWindow t.world w = true → s.inWindow t.world (w + 1032 * n - 1) = true → s.reaches (vc % 1024) = true →
        (if s.attestedFor t.world (vc % 1024) then s1 = s
          else s.gate [⟨t.world, s.rangeWb 1 ((spAt s t va (1032 * n)).getD 0) (1032 * n) ||| src ||| s.curp.flow, destPackage (vc % 1024), 1032 * n⟩] = .ok s1) →
        Completes (.xput f a b c) s fun s' => Queued s s1 s' t f 2 0x56 [] [va, w, n, vc % 1024] src (lock va (1032 * n) false)))

/-- R389 to R391, R408 to R410, R415 to R419: tokens, the porter's words, CSTAT, CCAN and the outriders.
The model's own part: CCAN takes the entry and its locks away with memory as it stands (its moment is log 54's reading); -/
def Obligations.TokensPorterAndOutriders : Prop :=
  ∀ (f pr : BitVec 1) (n r : BitVec 3) (u : BitVec 2) (d a b : BitVec 6) (s : State) (k : Nat),
    let t := s.cur
    let p := s.curp
    let core := coreOf s.curUnit
    let va := (t.sget a.toNat).toNat
    let me := t.key
    (s.tileOf t core n.toNat (pr == 1) = some k →
      let x := s.tile k
      let earlier := s.earlier s.curUnit p s.nextOp
      ((∃ e ∈ earlier, e.kind ≠ .store ∨ e.acq = true ∨ e.op < p.saved) → ready (.macq f n pr d) s = true →
        Completes (.macq f n pr d) s fun s' => s' = s.putIdle t { p with hold := .again }) ∧
      ((∀ e ∈ earlier, e.kind = .store ∧ e.acq = false ∧ p.saved ≤ e.op) → ready (.macq f n pr d) s = true →
        (x.token = .none → Completes (.macq f n pr d) s fun s' => s' = (s.setTile k { x with token := .str me }).goOn (t.sput d.toNat 1 p.flow) p) ∧
        (x.token = .str me ∨ x.token = .eng me → Completes (.macq f n pr d) s fun s' => s' = s.goOn (t.sput d.toNat 1 p.flow) p) ∧
        (x.token ≠ .none → x.token ≠ .str me → x.token ≠ .eng me → Completes (.macq f n pr d) s fun s' => s' = s.goOn (t.sput d.toNat 0 p.flow) p)) ∧
      (ready (.mrel f n pr) s = true →
        (x.token = .str me → Completes (.mrel f n pr) s fun s' => s' = (s.setTile k { x with token := .none }).goOn t p) ∧
        (x.token = .eng me → Completes (.mrel f n pr) s fun s' => (s'.tile k).rels = x.rels ++ [s.nextOp] ∧ (s'.tile k).token = x.token ∧
          (∀ j, slotFlag p.hdr f = some j → (j, s.nextOp) ∈ s'.curp.binds) ∧ s'.curp.pos = (advance t p).2.pos ∧ s'.curp.pc = (advance t p).2.pc ∧
          s'.cur.s = t.s ∧ s'.mem.hbm = s.mem.hbm) ∧
        (x.token ≠ .str me → x.token ≠ .eng me → Traps (.mrel f n pr) s cTOKEN (s.curWord.setWidth 64)))) ∧
    (s.tileOf t core n.toNat (pr == 1) = none → ready (.macq f n pr d) s = true → Traps (.macq f n pr d) s cILLEGAL (s.curWord.setWidth 64)) ∧
    (∀ i code ph, (i, code) ∈ [((.cpy f d a : Instr), 0x58), (.cpy2d f d a, 0x59), (.cfill f d a, 0x5A), (.gath f d a, 0x5B)] → ready i s = true →
      let v := s.chipGet 1 ph 64
      let w := t.sw a.toNat ||| s.chipWb 1 (ph / 256)
      let after := fun (c idx : Nat) => t.sput d.toNat (BitVec.ofNat 32 (c * 2 ^ 24 + idx)) (w ||| p.flow)
      let locks := (if code = 0x5A then [] else s.cdLocks t code (cdFsp v) (cdSrc code v) false) ++ s.cdLocks t code (cdTsp v) (cdDst code v) true
      (va % 64 ≠ 0 → exec i s = takeTrap s t ⟨cALIGN, p.here, p.pos, BitVec.ofNat 64 va, 0, some (tinfoWord 0 0 0 0 4), none, none, none⟩) ∧
      (va % 64 = 0 → spAt s t va 64 = none →
        exec i s = takeTrap s t ⟨cPROT, p.here, p.pos, BitVec.ofNat 64 va, 0, some (tinfoWord 0 0 0 0 4), none, none, none⟩) ∧
      (va % 64 = 0 → spAt s t va 64 = some ph → s.lockHit core 1 t.world false (ph / 256) = false → s.chipPoison 1 (ph / 64) = false →
        s.settled p = true →
        (s.cdCode t code v ≠ 0 → Completes i s fun s' => s' = s.goOn (after (s.cdCode t code v) 0) p) ∧
        (s.cdCode t code v = 0 → HasRoom s 1 locks → Completes i s fun s' => ∃ idx, idx < 16 ∧
          Queued s s s' (after 0 idx) f 1 code [] [v] w locks ∧ ∃ e, tfind s'.eng.queue s.nextOp = some e ∧ e.idx = idx))) ∧
    (ready (.cstat f d a u) s = true → Completes (.cstat f d a u) s fun s' =>
      (∀ op e, s.engEntry t u.toNat (va % 16) = some (op, e) → e.st < 16 → e.unit = u.toNat →
        let v : Nat := e.st * 2 ^ 60 + (e.code - (if u = 0 then 0x48 else if u = 1 then 0x58 else 0x54)) % 16 * 2 ^ 56 + e.who % 32 * 2 ^ 48 +
          e.doneCount % 2 ^ 32
        s' = s.goOn (t.sputPair d.toNat (BitVec.ofNat 64 v) (t.sw a.toNat ||| p.flow)) p) ∧
      (s.engEntry t u.toNat (va % 16) = none → s' = s.goOn (t.sputPair d.toNat 0 (t.sw a.toNat ||| p.flow)) p)) ∧
    (ready (.ccan f a u) s = true →
      (s.engEntry t u.toNat (va % 16) = none → Completes (.ccan f a u) s fun s' => s' = s.goOn t p) ∧
      (∀ op e, s.engEntry t u.toNat (va % 16) = some (op, e) → Completes (.ccan f a u) s fun s' =>
        tfind s'.eng.queue op = none ∧ (∀ c l, l ∈ tget [] s'.mem.locks c → l.op ≠ op) ∧ s'.mem.hbm = s.mem.hbm ∧ s'.mem.l2 = s.mem.l2 ∧
        s'.mem.sp = s.mem.sp ∧ s'.curp.pos = (advance t p).2.pos ∧ s'.curp.pc = (advance t p).2.pc)) ∧
    (∀ pa, s.partyOf t = some pa → u.toNat < pa.outrs.length →
      let o := pa.core * 64 + 32 + pa.outrs.getD u.toNat 0
      let w := t.sw a.toNat ||| t.sws b.toNat 2 ||| p.flow
      let target := pa.units.find? (fun x => ((s.str? x).map (fun y => y.index == va % 32 && y.party == t.party)).getD false)
      let starts := fun (x : Nat) (y : Str) => y.outrider = true ∧ y.runs = true ∧ y.bound = x ∧ y.s = t.s ∧ y.swb = t.swb ∧ y.q = t.q ∧ y.qwb = t.qwb ∧
        y.world = t.world ∧ y.party = t.party ∧ y.p0.flow = p.flow ∧ y.p0.binds = [] ∧ y.p0.pos = 0 ∧ y.p0.pc = t.spair b.toNat &&& ~~~3#64 ∧
        y.p0.level = (if x = s.curUnit then p.level else ((s.str? x).map (fun z => (z.path z.onPath).level)).getD p.level) ∧ y.p0.state = .running
      let stopped : State := match s.str? o with
        | none => s
        | some y => s.putStr o { y with stopNow := true }
      let asked := fun (next : Option Str) => ({ stopped with
        nextOp := s.nextOp + 1
        mem := { stopped.mem with ops := tput s.mem.ops s.nextOp ⟨s.curUnit, s.curPath, .none, false, 0, false, 1, none⟩ }
        eng := { stopped.eng with stops := tput s.eng.stops s.nextOp ⟨o, next⟩ } } : State)
      (ready (.ostart f u a b d) s = true → target = none → Completes (.ostart f u a b d) s fun s' =>
        s' = s.goOn (t.sput d.toNat (BitVec.ofNat 32 (2 ^ 24)) w) p) ∧
      (∀ x, ready (.ostart f u a b d) s = true → target = some x → s.outBusy o = true ∨ s.outAsked o = true → Completes (.ostart f u a b d) s fun s' =>
        ∃ y, starts x y ∧ s' = (asked (some y)).goOn (t.sput d.toNat 0 w) (p.bind f s.nextOp)) ∧
      (∀ x, ready (.ostart f u a b d) s = true → target = some x → s.outBusy o = false → s.outAsked o = false → s.curUnit ≠ o →
        Completes (.ostart f u a b d) s fun s' =>
          s'.curp = (advance t p).2 ∧ s'.cur.s = (t.sput d.toNat 0 w).s ∧ ∃ y, s'.str? o = some y ∧ starts x y) ∧
      (ready (.ostop f u) s = true → s.outBusy o = false → s.outAsked o = false → Completes (.ostop f u) s fun s' => s' = (s.outStop o).goOn t p) ∧
      (ready (.ostop f u) s = true → s.outBusy o = true ∨ s.outAsked o = true → Completes (.ostop f u) s fun s' =>
        s' = (asked none).goOn t (p.bind f s.nextOp)) ∧
      (∀ y, s.str? o = some y → ∃ y', (s.outStop o).str? o = some y' ∧ y'.runs = false ∧ y'.s = y.s ∧ y'.q = y.q)) ∧
    (∀ pa, s.partyOf t = some pa → pa.outrs.length ≤ u.toNat →
      (ready (.ostart f u a b d) s = true → Traps (.ostart f u a b d) s cILLEGAL (s.curWord.setWidth 64)) ∧
      (ready (.ostop f u) s = true → Traps (.ostop f u) s cILLEGAL (s.curWord.setWidth 64))) ∧
    (∀ g, s.str? t.bound = some g → t.bound ≠ s.curUnit → ready (.opush f u a r) s = true →
      let q := tget [] g.oq u.toNat
      (64 < q.length + (r.toNat + 1) → Completes (.opush f u a r) s fun s' => s' = s.putIdle t { p with hold := .word }) ∧
      (q.length + (r.toNat + 1) ≤ 64 → Completes (.opush f u a r) s fun s' =>
        s' = (s.putStr t.bound { g with oq := tset [] g.oq u.toNat (q ++
          (List.range (r.toNat + 1)).map (fun k => (t.sget (a.toNat + k), t.sw (a.toNat + k) ||| p.flow))) }).goOn t p)) ∧
    (t.outrider = false → legal t (.opush f u a r) = false)

/-- R263, R264, R386, R387, R393, R397, R412, R414, R420, R421: an engine operation commits one unit at a time in its order, holds on a remote page,
or reports; the last commit frees its entry; a restart goes on from the first uncommitted unit. R417, R418: an outrider asked to stop inside a clause
stops at its boundary, and is started anew where OSTART asked. -/
def Obligations.EngineCommits : Prop :=
  (∀ (s : State),
    (∀ u t, s.argN 0 = u → s.str? u = some t → s.argN 1 ≠ 3 →
      ∀ n y, s.eng.queue.find? (fun x => x.2.unit == s.argN 1 && x.2.core == coreOf u && x.2.idx == s.argN 2 && x.2.who == t.key) = some (n, y) →
        y.st = 4 → Completes .engineRestart s fun s' => s' = s.putEng n { y with st := 2 }) ∧
    (∀ t o, s.str? (s.argN 0) = some t → s.argN 1 = 3 → s.str? (coreOf (s.argN 0) * 64 + 32 + s.argN 2) = some o →
      (o.outrider = true → o.bound = s.argN 0 → o.told = true → Completes .engineRestart s fun s' =>
        s' = s.putStr (coreOf (s.argN 0) * 64 + 32 + s.argN 2) { o with runs := true, told := false }) ∧
      (o.told = false → exec .engineRestart s = .next s)) ∧
    (Completes .btcInvalidate s fun s' =>
      (∀ b, b ∈ tget [] s'.eng.btc (s.argN 0) ↔ b ∈ tget [] s.eng.btc (s.argN 0) ∧ b.world ≠ s.argN 1) ∧
      (∀ c, c ≠ s.argN 0 → tget [] s'.eng.btc c = tget [] s.eng.btc c) ∧ s'.eng.queue = s.eng.queue ∧ s'.mem = s.mem) ∧
    (∀ c q ls s1, s.nowhereAt (s.argN 2) 2 [s.argN 4, s.argN 5] = none →
      s.putAt (s.argN 0) (s.argN 2) (s.argN 4) (s.argN 5) (s.argN 6 % 64) (s.argN 7) (s.argN 8 == 1) (BitVec.ofNat 16 (s.argN 3)) = (c, q, ls, s1) →
      Completes .carrierPut s fun s' => s' = s1.sendFlit (s.argN 0) ⟨2, [s.argN 1, c, q], []⟩) ∧
    (∀ x, tfind s.eng.queue (s.argN 0) = none → tfind s.eng.stops (s.argN 0) = some x →
      let first : Prop := s.outBusy x.unit = false ∧ ∀ y ∈ s.eng.stops, y.2.unit = x.unit → s.argN 0 ≤ y.1
      let s1 : State := State.outStop { s with eng := { s.eng with stops := terase s.eng.stops (s.argN 0) } } x.unit
      (¬ first → exec .engineCommit s = .next s) ∧
      (first → x.next = none → Completes .engineCommit s fun s' => s' = s1.opLeave (s.argN 0)) ∧
      (∀ o, first → x.next = some o → Completes .engineCommit s fun s' =>
        s' = (if ∃ b, s1.str? o.bound = some b ∧ b.party = o.party ∧ b.index = o.index then s1.putStr x.unit o else s1).opLeave (s.argN 0)))) ∧
  ∀ (s s1 : State) (e : Eng) (fl : Word) (r : Report),
    let op := s.argN 0
    let x := (tfind s1.eng.queue op).getD e
    let rest := if e.unit = 2 then x.asks else []
    tfind s.eng.queue op = some e →
    (s.engMay op e = false → exec .engineCommit s = .next s) ∧
    (s.engMay op e = true → e.done < e.units ∧ s.engBefore e = false ∧ (s.engHeld e = true → e.data.isSome = true ∨ e.asks ≠ [] ∨
        (e.code = 0x56 ∧ ∃ k ∈ e.acked, k / 256 = e.done)) ∧ (e.st = 1 ∨ e.st = 2) ∧
      (e.unit ≠ 1 → ∀ y ∈ s.queueOf e.unit e.core, op ≤ y.1) ∧
      (e.unit = 1 → e.st = 1 → ((s.queueOf 1 e.core).filter (fun y => y.2.st != 1)).length < 4 ∧
        ∀ y ∈ s.queueOf 1 e.core, y.2.st = 1 → op ≤ y.1)) ∧
    (s.engMay op e = true → engUnit s op e = .ok s1 fl →
      let y : Eng := { x with st := 2, done := e.done + 1, flags := e.flags ||| fl, data := none, asks := rest }
      (y.done < y.units → Completes .engineCommit s fun s' =>
        s' = (s1.putEng op y).dropLocks op (fun l => !l.write && l.units != 0 && decide (l.units ≤ y.done))) ∧
      (y.units ≤ y.done → y.unit = 1 → Completes .engineCommit s fun s' => s' = (s1.putEng op y).dropLocks op (fun l => !l.write)) ∧
      (y.units ≤ y.done → y.unit ≠ 1 → Completes .engineCommit s fun s' => s' = (s1.putEng op y).engEnd op y ∧ tfind s'.eng.queue op = none)) ∧
    (∀ u t, s.engMay op e = true → engUnit s op e = .bad s1 r → s1.strOf x.who = some (u, t) → Completes .engineCommit s fun s' =>
      s'.str? u = some { t with reports := t.reports ++ [r] } ∧
      tfind s'.eng.queue op = some { x with st := 4, data := none, asks := rest } ∧ s'.mem = s1.mem) ∧
    (∀ va size own acc, s.engMay op e = true → engUnit s op e = .park s1 va size own acc → Completes .engineCommit s fun s' =>
      tfind s'.eng.queue op = some { e with st := 3, posted := true } ∧ s'.way.posts = s1.way.posts ++ [s1.engRecord e va size own acc] ∧ s'.mem = s1.mem) ∧
    (e.code = 0x4A → e.done < 64 → ∃ s2, engUnit s op e = .ok s2 0 ∧
      (∀ k, k < 4096 → tget 0 (s2.tile (e.tile 0)).e k = if k / 64 = e.done then 0 else tget 0 (s.tile (e.tile 0)).e k) ∧
      (∀ k, k ≠ e.tile 0 → s2.tile k = s.tile k) ∧ s2.mem = s.mem ∧
      (e.val 0 = 1 → (s2.tile (e.tile 0)).mAt e.done = 0xFF80000000 ∧ (s2.tile (e.tile 0)).lAt e.done = 0 ∧
        (s2.tile (e.tile 0)).z.getLsbD e.done = false)) ∧
    (e.code = 0x4B → e.val 0 = 0 → engUnit s op e = .ok s1 fl →
      let line := fun (k d n : Nat) => (s.opLine (e.val (k + 1)) (BitVec.ofNat 64 (e.val k)) 0 d n).1
      (∀ i j, i < 64 → j < 64 → tget 0 (s1.tile (e.tile 0)).e (64 * i + j) =
        BitVec.ofNat 64 (bfElem ((s.tile (e.tile 0)).a40 i j) (line 2 e.done i) (line 4 e.done j)).1) ∧
      (s1.tile (e.tile 0)).m = (s.tile (e.tile 0)).m ∧ (s1.tile (e.tile 0)).l = (s.tile (e.tile 0)).l ∧ s1.mem = s.mem) ∧
    (e.unit = 1 → e.st = 2 → e.units ≤ e.done → s.engHeld e = false → cdCw (e.val 0) = false → Completes .porterComplete s fun s' =>
      s' = (s.dropLocks op (fun _ => true)).engEnd op e ∧ tfind s'.eng.queue op = none) ∧
    (e.unit = 1 → e.st = 2 → e.units ≤ e.done → s.engHeld e = false → cwWrite (s.dropLocks op (fun _ => true)) e (e.val 0) = .ok s1 fl →
      Completes .porterComplete s fun s' => s' = s1.engEnd op e) ∧
    (e.unit = 1 → e.done < e.units ∨ s.engHeld e = true → exec .porterComplete s = .next s)

/-! ### Launches, placement and string images -/

/-- R268 to R270, R332: LNCH gives the first refusal of its table, in the table's order, or 0 and the launch at the tail of its queue.
R281, R283: a party that left in BWAIT is recalled once every string's condition holds; a launch that is over writes its completion value,
or its event where that word no longer translates, and is gone.
The model's own part: The result's waybill includes the operands' (log 85) and the completion at a parked page is log 87's reading. -/
def Obligations.LaunchesAndCompletion : Prop :=
  (∀ (d a b : BitVec 6) (f : BitVec 1) (s s1 s2 : State) (c : Checked) (e : LaneReq × Place) (v : Nat) (wb : Waybill),
    let m := uniMemOp 0 128 .load .none f
    let addr := (s.cur.spair a.toNat).toNat
    let q := (s.cur.sget b.toNat).toNat
    let fld := fun k n : Nat => v / 2 ^ k % 2 ^ n
    let lvl := s.curp.level
    let w := s.cur.world
    let qu := s2.queue q
    let ctl := (s2.wreg w 0x0D3).toNat
    let l : Launch := ⟨BitVec.ofNat 1024 v, q, (s2.partOf (fld 320 8)).getD 0, [], 0⟩
    let c1 : Prop := 4096 ≤ q ∨ qu.en = false ∨ (lvl < 2 ∧ s2.topPart w ≠ some qu.part) ∨
      (lvl = 0 ∧ ¬(ctl.testBit 31 = true ∧ ctl % 4096 ≤ q ∧ q < ctl % 4096 + ctl / 2 ^ 12 % 2 ^ 13))
    let c2 : Prop := s2.topPart (fld 320 8) ≠ some qu.part ∨ (lvl = 1 ∧ s2.topPart (fld 320 8) ≠ s2.topPart w) ∨ (lvl = 0 ∧ fld 320 8 ≠ w)
    let c3 : Prop := fld 338 1 = 1 ∧ lvl = 0
    let c4 : Prop := fld 328 4 = 0 ∨ 48 < fld 292 6 ∨ 8 < fld 298 4 ∨ 64 < fld 302 7 ∨ 1024 < fld 309 11 ∨ 4 < fld 332 3 ∨
      (fld 302 7 ≠ 0 ∧ fld 335 1 = 0) ∨ (fld 335 1 = 1 ∧ (fld 256 24 + 1) % 8 ≠ 0) ∨ (fld 336 1 = 1 ∧ (fld 256 24 + 1) % 2 ≠ 0) ∨
      BitVec.ofNat 64 (fld 0 64) ≠ (BitVec.ofNat 57 (fld 0 64)).signExtend 64 ∨ fld 0 2 ≠ 0
    let c5 : Prop := s2.fitBad s2.sch.nextLaunch l = true
    let c6 : Prop := fld 128 64 % 8 ≠ 0 ∨ BitVec.ofNat 64 (fld 128 64) ≠ (BitVec.ofNat 57 (fld 128 64)).signExtend 64 ∨
      ∀ x, (s2.xlate (coreOf s.curUnit) (fld 320 8) (fld 128 64) aUniStore (fld 338 1)).1 = .ok x → lfHome x.leaf = true
    let c7 : Prop := 65536 ≤ s2.sch.launches.length ∨ 256 ≤ qu.items.length
    let answers := fun (k : Nat) (s3 : State) => Completes (.lnch d a b f) s fun s' =>
      s' = s3.goOn (s.cur.sput d.toNat (BitVec.ofNat 32 k) (wb ||| s.cur.sws a.toNat 2 ||| s.cur.sw b.toNat ||| s.curp.flow)) s.curp.resumed
    ready (.lnch d a b f) s = true → Passed s m [⟨0, addr, 128, 0, 0⟩] 0 s1 c → c.go = [e] →
    (readHeld s1 s.cur s.curp m addr e.2 = true → exec (.lnch d a b f) s = stay s1 s.cur s.curp.resumed) ∧
    (readHeld s1 s.cur s.curp m addr e.2 = false → readPlaced s1 s.cur s.curp m addr e.2 = (v, wb, s2) →
     (c1 → answers 1 s2) ∧ (¬c1 → c2 → answers 2 s2) ∧ (¬c1 → ¬c2 → c3 → answers 3 s2) ∧ (¬c1 → ¬c2 → ¬c3 → c4 → answers 4 s2) ∧
    (¬c1 → ¬c2 → ¬c3 → ¬c4 → c5 → answers 5 s2) ∧ (¬c1 → ¬c2 → ¬c3 → ¬c4 → ¬c5 → c6 → answers 6 s2) ∧
    (¬c1 → ¬c2 → ¬c3 → ¬c4 → ¬c5 → ¬c6 → c7 → answers 7 s2) ∧
    (¬c1 → ¬c2 → ¬c3 → ¬c4 → ¬c5 → ¬c6 → ¬c7 → answers 0 (s2.launchIn l).refreshAll ∧
      tfind (s2.launchIn l).sch.launches s2.sch.nextLaunch = some l ∧
      ((s2.launchIn l).queue q).items = qu.items ++ [s2.sch.nextLaunch] ∧ (s2.launchIn l).refreshAll.strs = s2.strs ∧
      (s2.launchIn l).refreshAll.mem = s2.mem ∧ (s2.launchIn l).refreshAll.sch = { (s2.launchIn l).sch with maps := (s2.launchIn l).refreshAll.sch.maps }))) ∧
  (∀ (s : State) (x : Saved) (id : Nat) (l : Launch),
    (s.stored.find? (fun y => y.key == s.argN 0) = some x →
      let holds : Prop := ∀ t ∈ x.strs, ∀ b, (t.path b).live = true → (t.path b).hold = .word → s.bwaitHolds t (t.path b) x.party.core = true
      (x.asleep = true → x.ready = false → holds → Completes .wakeupRecheck s fun s' =>
        s' = { s with stored := s.stored.map (fun y => if y.key = x.key then { y with ready := true } else y) }) ∧
      (¬ holds ∨ x.asleep = false ∨ x.ready = true → Completes .wakeupRecheck s fun s' => s' = s)) ∧
    (∀ (t : Str) (p : Path) (core : Nat) (d a : BitVec 6) (sc : BitVec 3) (y : Xlat) (s1 : State),
      decode (p.words.getD (p.pos - 1) 0) = .ok (.bwait d a sc) →
      s.xlate core t.world (t.spair a.toNat).toNat aUniLoad p.level = (.ok y, s1) →
      let v := BitVec.ofNat 64 (s.homeAccess (waitOp 0 sc.toNat) y ⟨0, (t.spair a.toNat).toNat, 8, 0, 0⟩ 0).1
      (s.bwaitHolds t p core = true ↔ 0 ≤ (v - t.spair d.toNat).toInt)) ∧
    (s.argN 0 = id → tfind s.sch.launches id = some l → (∀ e ∈ s.sch.parties, e.2.live ≠ 0) →
      let stillOn : Prop := l.whole = false ∨ l.retired ≠ l.num 256 24 + 1 ∨ ∃ e ∈ s.sch.outstanding, e.1 / 512 = id ∧ e.2 ≠ 0
      let st := { uniMemOp 0 8 .store .none 0 with strong := true, rel := true, scope := 4 }
      let s0 := s.freeDepots
      (∀ x, x ∈ s0.sch.dpAlloc ↔ x ∈ s.sch.dpAlloc ∧ ∃ l', tfind s.sch.launches (x.1 / 4) = some l' ∧ s.dieOver (x.1 / 4) (x.1 % 4) l' = false) ∧
      (stillOn → Completes .launchComplete s fun s' => s' = s0) ∧
      (∀ y s1, ¬ stillOn → s0.xlate 0 l.world (l.num 128 64) aUniStore l.level = (.ok y, s1) → Completes .launchComplete s fun s' =>
        s' = (s1.homeAccess st y ⟨0, l.num 128 64, 8, l.num 192 64, 0⟩ 0).2.2.launchGone id) ∧
      (∀ flt s1, ¬ stillOn → s0.xlate 0 l.world (l.num 128 64) aUniStore l.level = (.trap flt, s1) → Completes .launchComplete s fun s' =>
        s' = (s1.launchGone id).schEvent ((s.partOf l.world).getD 0)
          (schWord 0 l.queue 0 l.world ((s.partOf l.world).getD 0) 0 flt.reason 0 s1.time (l.num 128 64))) ∧
      (∀ z own s1, ¬ stillOn → s0.xlate 0 l.world (l.num 128 64) aUniStore l.level = (.park z own, s1) → Completes .launchComplete s fun s' =>
        s' = (s1.launchGone id).schEvent ((s.partOf l.world).getD 0)
          (schWord 0 l.queue 0 l.world ((s.partOf l.world).getD 0) 0 0 0 s1.time (l.num 128 64))) ∧
      tfind (s.launchGone id).sch.launches id = none ∧ (∀ e ∈ (s.launchGone id).sch.dpAlloc, e.1 / 4 ≠ id) ∧
      (s.launchGone id).strs = s.strs))

/-- R271, R274, R276 to R278: the next party of the one launch a die has work for goes to the core with the fewest resident strings; under
kernel-directed placement the kernel is asked, and PLACE, DEFER and a time-out answer.
R274: what a core has room for is free: slots, with their quads' register blocks, contiguous scratchpad, tiles and outriders.
The model's own part: The slots, scratchpad, tiles and outriders of a room are free; which of the free ones is the model's choice (log 62). -/
def Obligations.PlacingParties : Prop :=
  (∀ (s : State) (d q id core : Nat) (l : Launch) (Q : Queue) (m : MapE) (rest : List Nat),
    let single : Prop := l.convoy = false ∧ l.paired = false ∧ l.cor = false
    let wait := (10 * ((s.preg ((s.partOf l.world).getD 0) 0x0DA).toNat % 256)) * 3600
    d < 4 → s.sch.queues = [(q, Q)] → Q.items = id :: rest → s.sch.maps = [(d * 4096 + q, m)] → m.mapped = true → q < 4096 →
    tfind s.sch.launches id = some l → l.queue = q → s.prioNow q < 4 → l.onDie d = true → l.placedOn d < l.unitsOn d → s.headReady q id l = true → single →
    ((∀ e ∈ s.sch.parties, e.2.live ≠ 0 ∧ e.2.stopping = false) → s.stored = [] → s.sch.preqs = [] → s.freeDepots = s → s.argN 0 = d →
      (s.kdir l = false → BestCore s d id l core → Completes .placement s fun s' => Placed s s' d q id l core) ∧
      ((∀ c, d * 96 ≤ c → c < d * 96 + 96 → s.fits id l [c] = false) → s.sch.parties = [] →
        Completes .placement s fun s' => s' = s) ∧
      (s.kdir l = true → BestCore s d id l core → Completes .placement s fun s' =>
        tfind s'.sch.preqs (d * 4096 + q) = some ⟨l.unitAt d (l.placedOn d), s.time, false, s.candidates id l d⟩ ∧ s'.strs = s.strs ∧ s'.sch.parties = s.sch.parties)) ∧
    (∀ c, d * 96 ≤ c → c < d * 96 + 96 → (s.candidates id l d).testBit (c - d * 96) = s.fits id l [c]) ∧
    (∀ r, s.sch.preqs = [(d * 4096 + q, r)] →
      (s.argN 0 = d → s.argN 1 = q →
        (r.deferred = true ∨ s.time < r.since + wait → Completes .placementTimeout s fun s' => s' = s) ∧
        (r.deferred = false → r.since + wait ≤ s.time → BestCore s d id l core → Completes .placementTimeout s fun s' => Placed s s' d q id l core) ∧
        (r.deferred = false → r.since + wait ≤ s.time → (∀ c, d * 96 ≤ c → c < d * 96 + 96 → s.fits id l [c] = false) →
          Completes .placementTimeout s fun s' => s' = { s with sch := { s.sch with preqs := [] } })) ∧
      (s.argN 0 = q → s.argN 1 = r.first →
        (s.argN 2 = core → d * 96 ≤ core → core < d * 96 + 96 → r.cands.testBit (core - d * 96) = true → s.fits id l [core] = true → Completes .place s fun s' => Placed s s' d q id l core) ∧
        (s.argN 2 = core → (core < d * 96 ∨ d * 96 + 96 ≤ core ∨ r.cands.testBit (core - d * 96) = false ∨ s.fits id l [core] = false) →
          Completes .place s fun s' => s'.strs = s.strs ∧ tfind s'.sch.preqs (d * 4096 + q) =
            if s.candidates id l d = 0 then none else some ⟨l.unitAt d (l.placedOn d), s.time, false, s.candidates id l d⟩) ∧
        (Completes .defer s fun s' => s' = { s with sch := { s.sch with preqs := [(d * 4096 + q, { r with deferred := true })] } })) ∧
      (s.argN 0 = q → s.argN 1 ≠ r.first → exec .place s = .next s ∧ exec .defer s = .next s))) ∧
  (∀ (s : State) (core n vblk scr tiles outr : Nat) (r : Room), s.room core n vblk scr tiles outr = some r →
    r.slots.length = n ∧ r.slots.Nodup ∧ (∀ k ∈ r.slots, k < 32 ∧ s.str? (core * 64 + k) = none) ∧
    (∀ q, q < 8 → (r.slots.filter (fun k => k / 4 == q)).length * vblk ≤ s.quadFree core q) ∧
    (∃ b, r.sp = b * 16384 ∧ b + scr ≤ 48 ∧ ∀ k, k < scr → s.spUsed core (b + k) = false) ∧
    r.tiles.length = tiles ∧ r.tiles.Nodup ∧ r.outrs.length = outr ∧ r.outrs.Nodup ∧
    (∀ k ∈ r.tiles, k < 8 ∧ ∀ e ∈ s.sch.parties, e.2.core = core → k ∉ e.2.tiles) ∧
    (∀ k ∈ r.outrs, k < 4 ∧ ∀ e ∈ s.sch.parties, e.2.core = core → k ∉ e.2.outrs))

/-- R272, R273: after a quantum boundary no slot is free while a queue with work waits, and none is with a lower priority than a queue that
waits; a queue keeps a slot only while it has work; and between boundaries nothing is due.
R285: a slice ends for a party of a partition above its floor, for which another waits; a partition at its ceiling stops until the period
ends, when its accounts restart.
The model's own part: What slot time is charged to and the floor's period are the model's reading (logs 67 and 68). -/
def Obligations.SlotsAndBudgets : Prop :=
  (∀ s : State,
    (s.sch.queues.map Prod.fst).Pairwise (· < ·) → (s.sch.maps.map Prod.fst).Pairwise (· < ·) → (∀ e ∈ s.sch.queues, e.1 < 4096 ∧ e.2.prio < 4 ∧ e.2.next < 4) →
    (∀ d, d < 4 → (s.mapped d).length ≤ 64) → s.sch.preqs = [] →
    (s.time / 3600000 ≤ s.sch.quantum → exec .quantumBoundary s = .next s) ∧
    (s.sch.quantum < s.time / 3600000 → Completes .quantumBoundary s fun s' =>
      s'.sch.quantum = s.time / 3600000 ∧ s'.strs = s.strs ∧ s'.mem = s.mem ∧ s'.sch.queues = s.sch.queues ∧ s'.sch.parties = s.sch.parties ∧
      ∀ d q, d < 4 →
        (s'.mapped d).length ≤ 64 ∧ (q ∈ s'.mapped d → s.hasWork d q = true) ∧
        (q < 4096 → s.hasWork d q = true → q ∉ s'.mapped d →
          (s'.mapped d).length = 64 ∧
          (∀ m, tfind s'.sch.maps (d * 4096 + q) = some m → m.since ≤ s.time / 3600000 * 3600000 → ∀ q' ∈ s'.mapped d, s.prioNow q' ≤ s.prioNow q)))) ∧
  (∀ (s : State) (k q : Nat),
    s.prioAt k q = (if (s.queue q).wrote < k then (s.queue q).next else (s.queue q).prio) ∧ s.prioNow q = s.prioAt (s.time / 3600000) q) ∧
  (∀ (s : State) (key n : Nat) (p : Party),
    let cyc := 3600
    (s.argN 0 = key → tfind s.sch.parties key = some p → s.partOf p.world = some n →
      let slice := 100 * cyc * ((s.preg n 0x0D5).extractLsb' 8 8).toNat
      let s1 : State := { s with sch := { s.sch with parties := tput s.sch.parties key { p with slice := s.time } } }
      (s.time < p.slice + slice → exec .sliceExpiry s = .next s) ∧
      (p.slice + slice ≤ s.time → s.used n ≤ s.floor n → Completes .sliceExpiry s fun s' => s' = s1) ∧
      (p.slice + slice ≤ s.time → (s.preg n 0x0C4).extractLsb' 0 24 = 0 → Completes .sliceExpiry s fun s' => s' = s1) ∧
      (p.slice + slice ≤ s.time → s.floor n < s.used n → s1.otherWaits (dieOf p.core) n = true → p.stopping = false →
        (s.preg n 0x0C4).extractLsb' 0 24 ≠ 0 → Completes .sliceExpiry s fun s' => s' = s1.takeGroup key 2)) ∧
    (s.argN 0 = n →
      (n ∈ s.sch.capped ∨ s.used n < s.ceiling n → exec .ceilingReached s = .next s) ∧
      (n ∉ s.sch.capped → s.ceiling n ≤ s.used n → (s.preg (s.topOf n) 0x0D9) = 0 → Completes .ceilingReached s fun s' =>
        s'.sch = { s.sch with capped := n :: s.sch.capped } ∧
        (∀ u t, s.str? u = some t → t.outrider = false → s.partOf t.world = some n → t.captured = false → s.sliceWait t.world ≠ 0 →
          t.p0.busy = true → ∃ t', s'.str? u = some t' ∧ t'.stopTenant = true) ∧
        (∀ u t, s.str? u = some t → s.partOf t.world ≠ some n → s'.str? u = some t))) ∧
    (s.time / (10000 * cyc) ≤ s.sch.period → exec .periodBoundary s = .next s) ∧
    (s.sch.period < s.time / (10000 * cyc) → Completes .periodBoundary s fun s' =>
      s'.sch.period = s.time / (10000 * cyc) ∧ s'.sch.slotTime = [] ∧ s'.sch.capped = [] ∧ s'.sch.parties = s.sch.parties ∧
      (∀ u t, s.str? u = some t → (∀ n, s.partOf t.world = some n → n ∉ s.sch.capped) → s'.str? u = some t)) ∧
    (∀ k, s.parentOf k = none → s.ceiling k = (((s.preg k 0x0D5).extractLsb' 16 8).toNat + 1) * periodSlots / 256) ∧
    (∀ k j, s.parentOf k = some j → s.ceiling k =
      (((s.preg k 0x0D5).extractLsb' 16 8).toNat + 1) * ((((s.preg j 0x0D5).extractLsb' 16 8).toNat + 1) * periodSlots / 256) / 256))

/-- R148, R347: CTXSV writes the image of its string and gives 0; CTXLD gives the first thing wrong with an image and changes nothing, or
replaces its string with the image, its words after it not executed.
R260, R261, R347: a string image holds the string: read back, it gives the same registers, predicates, waybills, loop registers, paths
and system registers, without their reserved bits.
The model's own part: Alignment, the world an image may name and what it does not hold are the model's reading (logs 78, 81 and 82). -/
def Obligations.StringImages : Prop :=
  (∀ (d a : BitVec 6) (f : BitVec 1) (s s1 : State) (c : Checked),
    let addr := s.cur.spair a.toNat
    let aw := s.cur.sws a.toNat 2
    let sv := Instr.ctxsv d a f
    let ld := Instr.ctxld d a f
    let ms := { uniMemOp 0 128 .store .none f with rel := true, scope := 4 }
    let ml := { uniMemOp 0 128 .load .none f with strong := true, acq := true, scope := 4 }
    let save := ((s.cur.setPath s.curPath s.curp.resumed).sput d.toNat 1 (aw ||| s.curp.flow)).afterSave s.curPath
    let wb := s.cur.imageWb ||| aw ||| s.curp.flow
    (addr.toNat % 4096 ≠ 0 → (ready sv s = true → exec sv s =
        trapHere s s.cur { s.curp with tinfo := tinfoWord 0 0 0 0 7 } cALIGN addr) ∧
      (ready ld s = true → exec ld s = trapHere s s.cur { s.curp with tinfo := tinfoWord 0 0 0 0 6 } cALIGN addr)) ∧
    (addr.toNat % 4096 = 0 → s.curp.binds = [] → s.quiet s.curUnit = true → s.cur.regPoison = [] → ready sv s = true →
      Passed s ms (lineReqs addr.toNat (32 * (s.cur.vblk + 1)) save.image) wb s1 c →
      Completes sv s fun s' => s' = ((s1.writeLines s.cur ms wb c.go).acquireAt (coreOf s.curUnit) s.cur.world 4).goOn
        (s.cur.sput d.toNat 0 (aw ||| s.curp.flow)) s.curp.resumed) ∧
    (addr.toNat % 4096 = 0 → s.quiet s.curUnit = true → ready ld s = true → Passed s ml (lineReqs addr.toNat 32 0) 0 s1 c →
      ∀ v w s2, s1.readLines s.cur ml c.go = (v, w, s2) →
        let part := s2.partOf (fieldAt v 0x600 8 0 % 256)
        let slot := fun k : Nat => v / 2 ^ (8 * (0x40 + 64 * k)) % 2 ^ 512
        let rec_ := fun k : Nat => v / 2 ^ (8 * (0xC0 + 64 * k)) % 2 ^ 512
        let n := fieldAt v 8 4 0
        let kind := fun r : Nat => r / 2 ^ 250 % 4
        let high := fun r : Nat => r / 2 ^ 254 % 4 ≠ 0 ∧ 1 < r / 2 ^ 248 % 4
        let f1 : Prop := fieldAt v 0 4 0 ≠ 1 ∨ 16 < n ∨ kind (slot 0) ≠ 0 ∨ kind (slot 1) ≠ 0 ∨ ∃ k, k < n ∧ kind (rec_ k) ≠ 1 ∧ kind (rec_ k) ≠ 2
        let f2 : Prop := fieldAt v 4 4 0 ≠ s.cur.vblk
        let f3 : Prop := part = none ∨ part ≠ s2.partOf s.cur.world
        let f4 : Prop := high (slot 0) ∨ high (slot 1) ∨ ∃ k, k < n ∧ kind (rec_ k) = 2 ∧ high (rec_ k)
        let tells := fun k : Nat => Completes ld s fun s' =>
          s' = s2.goOn (s.cur.sput d.toNat (BitVec.ofNat 32 (k * 2 ^ 24)) (aw ||| w ||| s.curp.flow)) s.curp.resumed
        (f1 → tells 1) ∧ (¬f1 → f2 → tells 2) ∧ (¬f1 → ¬f2 → f3 → tells 3) ∧ (¬f1 → ¬f2 → ¬f3 → f4 → tells 4) ∧
        (∀ s3 c', ¬f1 → ¬f2 → ¬f3 → ¬f4 → Passed s2 ml (lineReqs (addr.toNat + 4096) (32 * s.cur.vblk) 0) 0 s3 c' →
          s2.cur = s.cur → s2.curPath = s.curPath → ∀ v' w' s4, s3.readLines s.cur ml c'.go = (v', w', s4) →
            Completes ld s fun s' => ∃ ops, s' =
              ({ s4 with nextOp := s4.nextOp + 18 }.putStr s4.curUnit (s.cur.restore (v + v' * 2 ^ 32768) ops (w ||| w') s4.nextOp)).acquireAt
                (coreOf s4.curUnit) s.cur.world 4))) ∧
  (∀ (t : Str) (n : Nat), t.outrider = false → 1 ≤ t.vblk → t.vblk ≤ 4 → t.stack.length ≤ 16 → t.world < 256 → t.repidx < 64 →
    let i := t.image
    let r := t.restore i [] 0 n
    fieldAt i 0 4 0 = 1 ∧ fieldAt i 4 4 0 = t.vblk ∧ fieldAt i 8 4 0 = t.stack.length ∧ fieldAt i 0xC 4 0 = t.lmask.toNat ∧
    (∀ k, k < 64 → fieldAt i 0x4C0 4 k = (t.sget k).toNat ∧ fieldAt i 0x800 2 k = (t.sw k).toNat) ∧
    (∀ v k, v < 32 * t.vblk → k < 32 → fieldAt i (0x1000 + 128 * v + 4 * k) 4 0 = (t.vget v k).toNat) ∧
    (∀ k, k < 64 → r.sget k = t.sget k ∧ r.sw k = t.sw k) ∧ (∀ v k, v < 32 * t.vblk → k < 32 → r.vget v k = t.vget v k) ∧
    (∀ v, v < 128 → r.vw v = t.vw v) ∧ (∀ k, k < 7 → r.pget k = t.pget k ∧ r.pw k = t.pw k ∧ r.qw k = t.qw k) ∧ r.q = t.q ∧
    r.world = t.world ∧ r.repidx = t.repidx ∧ r.lmask = t.lmask &&& t.launchLanes ∧ r.stack.length = t.stack.length ∧
    (∀ k, k < 4 → tget 0 r.lcount k = tget 0 t.lcount k ∧
      ((tget 0 t.lstart k).setWidth 57 |>.signExtend 64) = tget 0 r.lstart k ∧ ((tget 0 t.lend k).setWidth 57 |>.signExtend 64) = tget 0 r.lend k) ∧
    (∀ k, k < 22 → let x := imageRegs.getD (k + 1) 0
      r.reg x = BitVec.ofNat 64 (regClamp x 0 (t.reg x).toNat)) ∧
    (∀ b, (t.path b).state = .running → (t.path b).woken = false → (t.path b).pos < 16 → (t.path b).level < 4 →
      (r.path b).pc = (t.path b).pc ∧ (r.path b).pos = (t.path b).pos ∧ (r.path b).mask = (t.path b).mask ∧
      (r.path b).flow = (t.path b).flow ∧ (r.path b).level = (t.path b).level ∧ (r.path b).state = .running ∧
      (r.path b).tinfo = (t.path b).tinfo &&& 0xF8FFE000#32 ∧ (r.path b).rfinfo = (t.path b).rfinfo &&& 0xBFFFFF00#32 ∧
      (r.path b).gtinfo = (t.path b).gtinfo &&& 0xF0FFFFFF#32 ∧ (r.path b).binds = []) ∧
    (∀ (k : Nat) (a : Dword), t.stack[k]? = some (StkRec.join a) → r.stack[k]? = some (StkRec.join a)))

/-! ### The gate and the security block -/

/-- R437, R438, R447: an egress without a waybill passes freely; another needs one live policy of its world that names the destination,
covers its origins and can pay, and is debited by exactly the bytes charged; a refusal debits nothing and reports the origins that no such
policy covers. -/
def Obligations.TheGate : Prop :=
  ∀ (ps : Table Policy) (mono : Nat) (e : Egress),
    let may := fun p : Policy => decide (p.world = e.world) && p.dests.any (fun d => destMatch d e.dest) && decide (mono < p.expiry) &&
      decide (e.n ≤ p.remaining)
    let covers := fun p : Policy => decide (e.wb &&& ~~~p.origins = 0)
    (e.wb = 0 → gateOne ps mono e = .ok ps) ∧
    (e.wb ≠ 0 → (∀ x ∈ ps, (may x.2 && covers x.2) = false) → ∃ g, gateOne ps mono e = .error g ∧
      (∀ k, k < 16 → g.getLsbD k = (e.wb.getLsbD k && ps.all (fun x => !may x.2 || !x.2.origins.getLsbD k)))) ∧
    (∀ k p, e.wb ≠ 0 → ps.find? (fun x => may x.2 && covers x.2) = some (k, p) →
      (∀ r, gateOne ps mono e = .ok r → tfind r k = if p.remaining = e.n then none else some { p with remaining := p.remaining - e.n }) ∧
      (∃ r, gateOne ps mono e = .ok r ∧ ∀ j, j ≠ k → tfind r j = tfind ps j)) ∧
    (∀ (s s' : State) (es : List Egress) (x : Egress) (g : Word), s.gate es = .error (x, g, s') → s'.tr = s.tr ∧ s'.mem = s.mem ∧ s'.strs = s.strs) ∧
    (∀ (s s' : State) (es : List Egress), s.gate es = .ok s' → s'.mem = s.mem ∧ s'.strs = s.strs ∧
      gateParts s.mono (es.filter (fun x => x.wb != 0)) s.tr.policies = .ok s'.tr.policies)

/-- R18, R432, R438: a host request is answered with the data, or with the status R18 and the gate give; a refused write writes nothing.
The model's own part: Their addressing and the status before start are the model's reading (logs 110 and 111). -/
def Obligations.HostRequests : Prop :=
  ∀ (s s1 s2 : State) (q a : Nat) (bs : List Byte) (l : List (Nat × Nat × Waybill)) (e : Egress) (g : Word),
    let f := s.argN 0
    let n := s.argN 2
    (∀ x k, s.mailbox f x k = some (q, a) ↔ tfind s.xl.pcie f = some q ∧ s.boot.bstat = 3 ∧
      x + k ≤ (s.preg q 0x0C5).toNat % 65536 * 2 ^ 21 ∧ a = ((s.preg q 0x0C5).extractLsb' 21 31).toNat * 2 ^ 21 + x) ∧
    (s.mailbox f (s.argN 1) n = none → Completes .hostBar2Read s fun s' =>
      s' = { s with outbox := s.outbox ++ [⟨3, [f, s.argN 1, 1], []⟩] }) ∧
    (s.mailbox f (s.argN 1) n = some (q, a) → (∀ x ∈ gransOf a n, (s.hostGran q x 1).isSome = true) →
      s.readRange (fun x => (s.hostGran q x 1).map (fun r => (false, r.1))) (segsOf a n) = (bs, l, s1) →
      (s1.gate (hostParts (destFunc f) l) = .ok s2 → Completes .hostBar2Read s fun s' =>
        s' = { s2 with outbox := s2.outbox ++ [⟨3, [f, s.argN 1, 0], bs⟩] }) ∧
      (s1.gate (hostParts (destFunc f) l) = .error (e, g, s2) → Completes .hostBar2Read s fun s' =>
        s' = { s2 with outbox := s2.outbox ++ [⟨3, [f, s.argN 1, 2], []⟩] })) ∧
    (s.mailbox f (s.argN 1) s.arg.bytes.length = some (q, a) →
      ((∃ x ∈ gransOf a s.arg.bytes.length, s.hostGran q x 2 = none) → Completes .hostBar2Write s fun s' =>
        s' = { s with outbox := s.outbox ++ [⟨3, [f, s.argN 1, 1], []⟩] }) ∧
      ((∀ x ∈ gransOf a s.arg.bytes.length, (s.hostGran q x 2).isSome = true) →
        (∃ x ∈ gransOf a s.arg.bytes.length, ∃ w, s.hostGran q x 2 = some (w, true)) → Completes .hostBar2Write s fun s' =>
          s' = { s with outbox := s.outbox ++ [⟨3, [f, s.argN 1, 2], []⟩] }) ∧
      ((∀ x ∈ gransOf a s.arg.bytes.length, ∃ w, s.hostGran q x 2 = some (w, false)) → Completes .hostBar2Write s fun s' =>
        s' = { s.writeRange q a s.arg.bytes with outbox := (s.writeRange q a s.arg.bytes).outbox ++ [⟨3, [f, s.argN 1, 0], []⟩] })) ∧
    (s.boot.started = true → f = 24 → (∀ x ∈ gransOf (s.argN 1) n, regionOf x = .hbm) →
      s.readRange (fun x => if regionOf x = .hbm then some (true, s.ownerOf x) else none) (segsOf (s.argN 1) n) = (bs, l, s1) →
      s1.gate (hostParts destHostCores l) = .ok s2 → Completes .hostCoreRead s fun s' =>
        s' = { s2 with outbox := s2.outbox ++ [⟨4, [24, s.argN 1, 0], bs⟩] })

/-- R425, R426, R439, R446: what ORGLOAD and LOGRD do, and what REPORT and ACK refuse: the code and the value a command ends with.
R439 to R441: the layout of records and of signed buffers, and the use of the keys' leaves.
R442: an attestation sends a fresh nonce, and marks the peer only when its report answers in time, chains to the vendor root and matches.
The model's own part: Signature functions are the published standards (log 6); the order of LOCKED and FORM and ATTEST's codes are logs 96 and 98. -/
def Obligations.TrustAndAttestation : Prop :=
  (∀ (s : State) (q : Nat) (c : TrCmd),
    let q' := s.topOf q
    let lies := fun (n align bit : Nat) => c.arg % align = 0 ∧
      ∀ g, c.arg / 4096 ≤ g → g * 4096 < c.arg + n → ∃ z e, s.s2Leaf q' (4096 * g) = some (z, e) ∧ e.getLsbD bit = true
    let ends := fun (i : Instr) (s1 : State) (code value : Nat) => Completes i s fun s' => s' = s1.trDone q code value
    s.argN 0 = q → tfind s.tr.cmds q = some c →
    (c.op = 1 →
      (∀ img, tfind s.tr.origins c.world = some img → ends .orgload s 2 0) ∧
      (tfind s.tr.origins c.world = none → ¬ lies 3584 512 1 → ends .orgload s 1 0) ∧
      (∀ img s1, tfind s.tr.origins c.world = none → lies 3584 512 1 → s.hubBytes (some q) c.arg 3584 = (img, s1) →
        let o := fun k => ofBytes ((img.drop (96 * k)).take 96)
        let h := fun k => ofBytes ((img.drop (1536 + 32 * k)).take 32)
        let good : Prop := (∀ k, k < 16 → o k / 2 ^ 161 % 2 ^ 87 = 0 ∧ (o k / 2 ^ 160 % 2 = 1 → 1 ≤ o k / 2 ^ 248 % 256 ∧ o k / 2 ^ 248 % 256 ≤ 3)) ∧
          (∀ k, k < 64 → h k / 2 % 2 ^ 111 = 0)
        (¬ good → ends .orgload s1 1 0) ∧
        (good → ends .orgload { s1 with tr := { s1.tr with origins := tput s1.tr.origins c.world img } } 0 0))) ∧
    (c.op = 5 →
      (¬ (lies 4096 4096 1 ∧ lies 4096 4096 2) → ends .logrd s 1 0) ∧
      (∀ ix s1, lies 4096 4096 1 → lies 4096 4096 2 → s.hubBytes (some q) c.arg 4 = (ix, s1) →
        let rs := ((s1.tr.log.filter (fun r => r.world == c.world)).drop (ofBytes ix)).take 42
        ends .logrd (s1.hubPut (some q) (c.arg + 64) 0 (rs.flatMap MRec.bytes)) 0 rs.length)) ∧
    (c.op = 3 ∨ c.op = 4 →
      let i : Instr := if c.op = 3 then .report else .ack
      let form : Prop := ¬ (lies 12288 4096 1 ∧ lies 12288 4096 2)
      let spent : Prop := 2 ^ 20 ≤ s.nv.idLeaf
      let slot := ofBytes (s.hubBytes (some q) c.arg 4).1
      let noSlot : Prop := c.op = 4 ∧ ∀ p, tfind s.tr.policies slot = some p → p.world ≠ c.world ∨ p.expiry ≤ s.mono
      let s1 : State := if c.op = 4 then (s.hubBytes (some q) c.arg 4).2 else s
      (form → ends i s 1 0) ∧ (¬ form → spent → ends i s 6 0) ∧ (¬ form → ¬ spent → noSlot → ends i s1 7 0) ∧
      (¬ form → ¬ spent → ¬ noSlot → Completes i s (fun s' => s' = s1) ∧ Completes .trustCommandDone s fun s' =>
        s' = ((s.hubPut (some q) c.arg 0 (s.signed (if c.op = 3 then s.reportHead c.world (s.hubBytes (some q) c.arg 32).1
          else ((tfind s.tr.policies slot).map (s.ackHead slot)).getD []))).useLeaf).trDone q 0 0)) ∧
    (∀ code value, code < 256 → value < 65536 → (s.trDone q code value).preg q 0x0E1 = BitVec.ofNat 64 (value * 256 + code) ∧
      tfind (s.trDone q code value).tr.cmds q = none ∧ (s.trDone q code value).mem = s.mem ∧ (s.trDone q code value).strs = s.strs)) ∧
  (∀ (s : State) (w : Nat) (nonce head : List Byte) (slot : Nat) (p : Policy) (r : MRec),
    let at_ := fun (bs : List Byte) (k n : Nat) => (bs.drop k).take n
    let num := fun (bs : List Byte) (k n : Nat) => ofBytes ((bs.drop k).take n)
    (w < 256 → nonce.length = 32 → s.me < 1024 → s.mono < 2 ^ 64 → (s.tr.log.filter (fun r => r.world == w)).length < 2 ^ 32 → (s.orgd w).length = 32 →
      let b := s.reportHead w nonce
      b.length = 256 ∧ at_ b 0 32 = nonce ∧ num b 0x20 4 = 1 ∧ num b 0x24 2 = s.me ∧ num b 0x26 1 = w ∧ num b 0x27 1 = 0 ∧
      num b 0x28 8 = s.mono ∧ num b 0x30 32 = s.tr.fwm.toNat ∧ num b 0x50 32 = (tget 0 s.tr.meas w).toNat ∧
      num b 0x70 4 = (s.tr.log.filter (fun r => r.world == w)).length ∧ num b 0x74 2 = (s.wreg w 0x0E9).toNat % 65536 ∧ num b 0x76 10 = 0 ∧
      at_ b 0x80 32 = s.orgd w ∧ num b 0xA0 96 = 0) ∧
    (p.world < 256 → slot < 2 ^ 32 → s.me < 1024 → s.mono < 2 ^ 64 → p.remaining < 2 ^ 64 → (shake256 p.body).length = 32 →
      let b := s.ackHead slot p
      b.length = 256 ∧ num b 0 32 = slot ∧ num b 0x20 4 = 2 ∧ num b 0x24 2 = s.me ∧ num b 0x26 1 = p.world ∧ num b 0x28 8 = s.mono ∧
      at_ b 0x30 32 = shake256 p.body ∧ num b 0x50 8 = p.remaining ∧ num b 0x58 168 = 0) ∧
    (head.length = 256 →
      let b := s.signed head
      b.length = 12288 ∧ at_ b 0 256 = head ∧ num b 0xB00 4 = 1 ∧ at_ b 0xB04 64 = (List.range 64).map (Config.keyByte (s.tr.bootKey + 1)) ∧
      num b 0x1700 4 = 3 ∧ at_ b 0x1704 64 = (List.range 64).map (Config.keyByte 0) ∧ num b 0x1744 60 = 0 ∧ num b 0x2284 3452 = 0) ∧
    (s.tr.bootLeaf + 1 < 1024 → s.useLeaf.tr = { s.tr with bootLeaf := s.tr.bootLeaf + 1 } ∧ s.useLeaf.nv = s.nv) ∧
    (1024 ≤ s.tr.bootLeaf + 1 → s.nv.idLeaf < 2 ^ 20 → s.useLeaf.tr.bootKey = s.tr.bootKey + 1 ∧ s.useLeaf.tr.bootLeaf = 0 ∧
      s.useLeaf.tr.bootCert = some s.nv.idLeaf ∧ s.useLeaf.nv.idLeaf = s.nv.idLeaf + 1) ∧
    (r.world < 256 → r.va < 2 ^ 57 → r.gpa < 2 ^ 52 → r.mono < 2 ^ 64 → r.bytes.length = 96 ∧ num r.bytes 0 32 = r.meas.toNat ∧
      num r.bytes 32 1 = r.world ∧ num r.bytes 0 56 / 2 ^ 327 % 2 ^ 57 = r.va ∧ num r.bytes 0 56 / 2 ^ 396 % 2 ^ 52 = r.gpa ∧ num r.bytes 56 8 = r.mono ∧
      num r.bytes 64 32 = r.hash.toNat)) ∧
  (∀ (s : State) (q : Nat) (c : TrCmd),
    let w := c.arg / 2 ^ 10 % 256
    let peer := c.arg % 2 ^ 10
    let wait := 3600 * ((s.pkg 0x0A3).extractLsb' 16 16).toNat
    let ends := fun (i : Instr) (code : Nat) => Completes i s fun s' => s' = s.trDone q code 0
    (s.argN 0 = q → tfind s.tr.cmds q = some c → c.op = 2 →
      (s.partOf w ≠ some q → ends .attest 1) ∧
      (s.partOf w = some q → 2 ^ 20 ≤ s.nv.idLeaf → ends .attest 6) ∧
      (s.partOf w = some q → s.nv.idLeaf < 2 ^ 20 → peer = s.me ∨ s.reaches peer = false ∨ s.lanesTo peer = 0 → ends .attest 8) ∧
      (s.partOf w = some q → s.nv.idLeaf < 2 ^ 20 → peer ≠ s.me → s.reaches peer = true → s.lanesTo peer ≠ 0 → Completes .attest s fun s' =>
        ∃ nonce : List Byte, nonce.length = 32 ∧ tfind s'.tr.nonces q = some (BitVec.ofNat 256 (ofBytes nonce)) ∧ tfind s'.tr.cmds q = some c ∧
          s'.tr.attested = s.tr.attested ∧ s'.strs = s.strs ∧ s'.mem = s.mem) ∧
      (c.since + wait ≤ s.time → ends .attestTimeout 5) ∧ (s.time < c.since + wait → exec .attestTimeout s = .next s)) ∧
    (s.nv.idLeaf < 2 ^ 20 → s.boot.started = true → Completes .attestNonceReceive s fun s' =>
      s' = ((s.sendWay (s.argN 0) 19 [s.argN 2] (s.signed (s.reportHead (s.argN 1) s.arg.bytes))).useLeaf)) ∧
    (2 ^ 20 ≤ s.nv.idLeaf ∨ s.boot.started = false → exec .attestNonceReceive s = .next s) ∧
    (s.argN 1 = q → s.argN 0 = peer → tfind s.tr.cmds q = some c → c.op = 2 →
      let r := s.arg.bytes
      let at_ := fun k n => (r.drop k).take n
      let num := fun k n => ofBytes ((r.drop k).take n)
      let vendor := (List.range 64).map Config.vendorByte
      let chain : Prop := num 0xB00 4 = 1 ∧ num 0x1700 4 = 3 ∧ xmssVerify 1 (at_ 0xB04 32) (at_ 0xB24 32) (at_ 0 256) (at_ 0x100 2500) = true ∧
        xmssVerify 3 (at_ 0x1704 32) (at_ 0x1724 32) (at_ 0xB00 68) (at_ 0xB80 2820) = true ∧
        xmssVerify 3 (vendor.take 32) (vendor.drop 32) (at_ 0x1700 68) (at_ 0x1780 2820) = true
      let fits : Prop := num 0x20 4 = 1 ∧ num 0x24 2 = peer ∧ num 0x26 1 = w ∧ num 0 32 = (tget 0 s.tr.nonces q).toNat ∧
        num 0x30 32 = s.tr.fwm.toNat ∧ at_ 0x80 32 = s.orgd w ∧ s.isMember peer = true
      (c.since + wait < s.time → ends .attestReportArrival 5) ∧
      (s.time ≤ c.since + wait → ¬ chain → ends .attestReportArrival 3) ∧
      (s.time ≤ c.since + wait → chain → ¬ fits → ends .attestReportArrival 4) ∧
      (s.time ≤ c.since + wait → chain → fits → Completes .attestReportArrival s fun s' =>
        s' = State.trDone { s with tr := { s.tr with attested := tput s.tr.attested (w * 1024 + peer) true } } q 0 0)))

/-- R344, R434, R436: GPOL .ins holds its path while the record is checked; the first check of the table that fails gives the code, and a record
that passes takes the lowest free slot; .rev frees a slot of the current world, and an expired policy is gone.
The model's own part: What is read of a malformed record is the model's reading (log 102). -/
def Obligations.ReleasePolicies : Prop :=
  ∀ (d a b : BitVec 6) (s s1 s2 s3 : State) (ck ck2 : Checked) (r sig : List Byte) (w1 w2 : Waybill),
    let addr := (s.cur.spair a.toNat).toNat
    let aw := s.cur.sws a.toNat 2
    let m := uniMemOp 0 8 .load .none 0
    let ins := Instr.gpolIns d a
    let num := fun (bs : List Byte) (k n : Nat) => ofBytes ((bs.drop k).take n)
    let dest := fun (bs : List Byte) (i k n : Nat) => num bs (0x50 + 32 * i) 32 / 2 ^ k % 2 ^ n
    let destOk := fun (bs : List Byte) (i : Nat) =>
      let kind := dest bs i 56 8
      1 ≤ kind ∧ kind ≤ 6 ∧ dest bs i 64 48 = 0 ∧ dest bs i 48 8 = 0 ∧ dest bs i 24 6 = 0 ∧ dest bs i 0 16 = 0 ∧
        (kind ≠ 3 → dest bs i 112 144 = 0) ∧ (kind ≠ 1 → dest bs i 40 8 = 0) ∧ (kind ≠ 4 → dest bs i 30 10 = 0) ∧
        (kind ≠ 2 → dest bs i 16 8 = 0) ∧ (kind = 2 → dest bs i 16 8 ≤ 64)
    let orgs := fun bs : List Byte => (List.range 16).filter (fun k => (num bs 0x0A 2).testBit k)
    let shape := fun bs : List Byte => num bs 0 4 = 1 ∧ num bs 4 4 = 512 + 3072 * (orgs bs).length ∧ 1 ≤ num bs 9 1 ∧ num bs 9 1 ≤ 8 ∧
      num bs 0x0A 2 ≠ 0 ∧ num bs 0x0C 4 = 0 ∧ num bs 0x18 8 ≠ 0 ∧ num bs 0x28 8 = 0 ∧ num bs 0x150 176 = 0 ∧
      ∀ i, i < 8 → (i < num bs 9 1 → destOk bs i) ∧ (num bs 9 1 ≤ i → num bs (0x50 + 32 * i) 32 = 0)
    let asks := fun (s4 : State) (bs : List Byte) (w : Waybill) => Completes ins s fun s' =>
      s'.curp = { s.curp.resumed with hold := .security s4.nextOp } ∧
      s'.tr.checks = s4.tr.checks ++ [⟨s4.nextOp, s.cur.key, s.cur.world, bs, aw ||| w ||| s.curp.flow⟩] ∧ s'.tr.policies = s4.tr.policies
    (ready ins s = true → addr % 8 ≠ 0 → exec ins s =
      trapHere s s.cur { s.curp with tinfo := tinfoWord 0 0 0 0 6 } cALIGN (s.cur.spair a.toNat)) ∧
    (ready ins s = true → addr % 8 = 0 → s.settled s.curp = false → Completes ins s fun s' => s' = s.putIdle s.cur { s.curp with hold := .again }) ∧
    (ready ins s = true → addr % 8 = 0 → s.settled s.curp = true → Passed s m (eights addr 512 0) 0 s1 ck →
      s1.readEach s.cur s.curp.resumed m ck.go = (r, w1, s2) →
      r.length = 512 →
      (¬ shape r → asks s2 r w1) ∧
      (shape r → Passed s m (eights addr 512 0 ++ eights ((addr + 512) % 2 ^ 64) (3072 * (orgs r).length) 0) 0 s3 ck2 →
        ∀ s4, s3.readEach s.cur s.curp.resumed m ck2.go = (sig, w2, s4) → asks s4 sig w2)) ∧
    (∀ c : PolCheck, s.tr.checks.find? (fun c => c.id == s.argN 0) = some c → 512 ≤ c.bytes.length →
      let rec_ := c.bytes
      let n := (orgs rec_).length
      let valid := fun k => ∃ x, s.origin c.world k = some x
      let e1 : Prop := ¬ shape rec_ ∨ ∃ k ∈ orgs rec_, ¬ valid k
      let e2 : Prop := num rec_ 8 1 ≠ c.world ∨ (num rec_ 0x30 32 ≠ 0 ∧ (rec_.drop 0x30).take 32 ≠ devid)
      let e3 : Prop := num rec_ 0x10 8 ≤ s.mono ∨ ∃ h, tfind s.tr.serial c.world = some h ∧ num rec_ 0x20 8 ≤ h
      let e4 : Prop := ∃ i, i < n ∧ ∀ p root seed, s.origin c.world ((orgs rec_).getD i 0) = some (p, root, seed) →
        xmssVerify p root seed (rec_.take 512) ((rec_.drop (512 + 3072 * i)).take 3072) = false
      let live := fun k => ∃ p, tfind s.tr.policies k = some p ∧ s.mono < p.expiry
      let e5 : Prop := ∀ k, k < 1024 → live k
      let gives := fun (code value : Nat) (s' : State) => ∀ u t, s.strOf c.who = some (u, t) →
        s'.str? u = some (t.answer c.id (BitVec.ofNat 32 (code * 2 ^ 24 + value)) c.wb)
      let fails := fun code : Nat => Completes .policyVerified s fun s' => gives code 0 s' ∧ s'.tr.serial = s.tr.serial ∧
        (∀ k p, tfind s'.tr.policies k = some p → tfind s.tr.policies k = some p)
      (s.tr.policies.map Prod.fst).Nodup →
      (e1 → fails 1) ∧ (¬e1 → e2 → fails 3) ∧ (¬e1 → ¬e2 → e3 → fails 4) ∧ (¬e1 → ¬e2 → ¬e3 → e4 → fails 2) ∧
      (¬e1 → ¬e2 → ¬e3 → ¬e4 → e5 → fails 5) ∧
      (∀ k, ¬e1 → ¬e2 → ¬e3 → ¬e4 → k < 1024 → ¬ live k → (∀ j, j < k → live j) → Completes .policyVerified s fun s' =>
        gives 0 k s' ∧ tfind s'.tr.serial c.world = some (num rec_ 0x20 8) ∧ ∃ p, tfind s'.tr.policies k = some p ∧ p.world = c.world ∧
          p.origins = BitVec.ofNat 16 (num rec_ 0x0A 2) ∧ p.remaining = num rec_ 0x18 8 ∧ p.expiry = num rec_ 0x10 8 ∧
          p.dests.length = num rec_ 9 1 ∧ (∀ i, i < num rec_ 9 1 → p.dests.getD i 0 = BitVec.ofNat 256 (num rec_ (0x50 + 32 * i) 32)) ∧
          p.body = rec_.take 512)) ∧
    (let k := (s.cur.sget b.toNat).toNat
     let w := s.cur.sw b.toNat ||| s.curp.flow
     let mine : Prop := ∃ p, tfind s.tr.policies k = some p ∧ p.world = s.cur.world ∧ s.mono < p.expiry
     ready (.gpolRev d b) s = true →
      (mine → Completes (.gpolRev d b) s fun s' =>
        s' = State.goOn { s with tr := { s.tr with policies := terase s.tr.policies k } } (s.cur.sput d.toNat 0 w) s.curp) ∧
      (¬ mine → Completes (.gpolRev d b) s fun s' => s' = s.goOn (s.cur.sput d.toNat 0x06000000 w) s.curp)) ∧
    (Completes .policyExpiry s fun s' =>
      s' = { s with tr := { s.tr with policies := s.tr.policies.filter (fun e => decide (s.mono < e.2.expiry)) } })

/-- R345, R439: SEAL of a range: FORM; its granules in order, each INELIGIBLE, already sealed, LOGFULL, a fault of its translation, or sealed, shot
down from every TLB, measured and logged, the value counting those sealed; SEAL waits for the accesses and the writes of what it seals.
The model's own part: What is ineligible and what it waits for are the model's reading (logs 94 and 95). -/
def Obligations.SealingAGranule : Prop :=
  (∀ (d a b : BitVec 6) (s : State) (m : Nat) (g u : Nat → State) (x : Nat → Xlat) (h : Nat → Nat),
    let i := Instr.seal d a b
    let va := (s.cur.spair a.toNat).toNat
    let n := (s.cur.sget b.toNat).toNat
    let core := coreOf s.curUnit
    let wb := s.cur.sws a.toNat 2 ||| s.cur.sw b.toNat ||| s.curp.flow
    let answers := fun (s2 : State) (code value : Nat) => Completes i s fun s' =>
      s' = s2.goOn (s.cur.sput d.toNat (BitVec.ofNat 32 (code * 2 ^ 24 + value)) wb) s.curp
    let okay := fun y : Xlat => lfHome y.leaf = false ∧ y.atom = false ∧ lfZero y.leaf = false ∧ y.cross = false ∧ y.region = .hbm
    let free := s.sealHeld core s.curp.level s.cur.world va n = false
    let at_ := fun k : Nat => (va + 4096 * k) % 2 ^ 64
    let look := fun k : Nat => (g k).xlate core s.cur.world (at_ k) aUniLoad s.curp.level
    let sealed := fun k : Nat => granSealed ((u k).gran (h k / 4096))
    let done := fun k : Nat => canonical (BitVec.ofNat 64 (at_ k)) = true ∧ look k = (.ok (x k), u k) ∧ okay (x k) ∧
      (u k).physOf (x k).ident (x k).tag (x k).gpa = some (h k) ∧
      (sealed k = true → g (k + 1) = u k) ∧
      (sealed k = false → (u k).tr.log.length < 65536 ∧ ∃ bs s2, ((u k).sealGran s.cur.world (at_ k) (x k) (h k)).granBytes (x k) = (bs, s2) ∧
        let hash := shake256 bs
        let meas := BitVec.ofNat 256 (ofBytes (shake256 (bytesOf 32 (tget 0 s2.tr.meas s.cur.world).toNat ++ bytesOf 8 (at_ k) ++ hash)))
        g (k + 1) = { s2 with tr := { s2.tr with
          meas := tset 0 s2.tr.meas s.cur.world meas
          log := s2.tr.log ++ [⟨s.cur.world, at_ k, (x k).gpa, s2.mono, BitVec.ofNat 256 (ofBytes hash), meas⟩] } })
    let new := ((List.range m).filter (fun k => !sealed k)).length
    ready i s = true →
    (va % 4096 ≠ 0 ∨ n = 0 ∨ 65536 < n → answers s 1 0) ∧
    (va % 4096 = 0 → 1 ≤ n → n ≤ 65536 → s.sealHeld core s.curp.level s.cur.world va n = true →
      Completes i s fun s' => s' = s.putIdle s.cur { s.curp with hold := .again }) ∧
    (va % 4096 = 0 → 1 ≤ n → n ≤ 65536 → free → g 0 = s → m ≤ n → (∀ k, k < m → done k) →
      (m = n → answers (g n) 0 new) ∧
      (m < n → canonical (BitVec.ofNat 64 (at_ m)) = false →
        exec i s = memTrap (g m) s.cur s.curp (uniMemOp 0 8 .load .none 0) ⟨0, at_ m, 8, 0, 0⟩ ⟨2, cPROT, 2, 0, 0⟩ none) ∧
      (m < n → canonical (BitVec.ofNat 64 (at_ m)) = true →
        (∀ f s1, look m = (.trap f, s1) → exec i s = memTrap s1 s.cur s.curp (uniMemOp 0 8 .load .none 0) ⟨0, at_ m, 8, 0, 0⟩ f none) ∧
        (∀ z o s1, look m = (.park z o, s1) → answers s1 2 new) ∧
        (∀ y s1, look m = (.ok y, s1) → ¬ okay y → answers s1 2 new) ∧
        (∀ y s1 h1, look m = (.ok y, s1) → okay y → s1.physOf y.ident y.tag y.gpa = some h1 → granSealed (s1.gran (h1 / 4096)) = false →
          65536 ≤ s1.tr.log.length → answers s1 3 new)))) ∧
  (∀ (s1 : State) (w va h : Nat) (x : Xlat),
    let s2 := s1.sealGran w va x h
    granSealed (s2.gran (h / 4096)) = true ∧ (∀ k, k ≠ h / 4096 → s2.gran k = s1.gran k) ∧ s2.tr = s1.tr ∧
    (∀ k e, e ∈ tget [] s2.xl.dtlb k ∨ e ∈ tget [] s2.xl.ctlb k ∨ e ∈ tget [] s2.xl.ftlb k → e.covers w (va % 2 ^ 57 / 4096) = false) ∧
    (∀ k e v, e ∈ tget [] s2.xl.dtlb k ∨ e ∈ tget [] s2.xl.ctlb k ∨ e ∈ tget [] s2.xl.ftlb k → s1.topPart e.world = s1.topPart w →
      (x.gpa / 4096, v) ∉ e.grans))

/-! ### Start and reset -/

/-- R196, R444, R469 to R472: each step of the start order, in the order's own conditions.
R435, R468, R474, R476: what a reset erases and what it keeps, and the cause it records.
R475 to R477: a power sample sets the power and temperature registers and moves the arithmetic clock one step.
The model's own part: With no stored image BSTAT is 4 (log 106) and only signature and version are asked of an image (log 108). -/
def Obligations.StartAndReset : Prop :=
  (∀ s : State,
    (s.boot.powered = true → s.boot.linkUp = false → 5 ≤ s.argN 0 → 4 ≤ s.argN 1 → Completes .hostLinkTrain s fun s' =>
      s' = { s with boot := { s.boot with linkUp := true, gen := min 7 (s.argN 0)
                                          width := if 16 ≤ s.argN 1 then 16 else if 8 ≤ s.argN 1 then 8 else 4 } }) ∧
    (s.boot.linkUp = true → s.boot.hbmUp = false → Completes .hbmTrained s fun s' =>
      s' = { s with boot := { s.boot with hbmUp := true, bstat := 1 } }) ∧
    (s.boot.hbmUp = true → s.boot.scrubbed = false → s.boot.bstat = 1 → s.mem.l2 = [] → Completes .fullScrubComplete s fun s' =>
      s'.boot = { s.boot with scrubbed := true, bstat := 2 } ∧
      (∀ g, s'.gran g = if g ∈ s.nv.offline then 0x40000000 else 0) ∧ (s.nv.offline = [] → s'.mem.hbm = [] ∧ s'.mem.keyed = [])) ∧
    (s.boot.hbmUp = true → s.boot.verified = false → s.boot.bstat < 4 →
      (s.nv.image = [] → Completes .firmwareVerified s fun s' => s' = { s with boot := { s.boot with bstat := 4 } }) ∧
      (s.nv.image ≠ [] → s.accepts s.nv.image = true → Completes .firmwareVerified s fun s' => Accepted s s' s.nv.image) ∧
      (s.nv.image ≠ [] → s.accepts s.nv.image = false → Completes .firmwareVerified s fun s' =>
        s' = { s with boot := { s.boot with bstat := 5 } })) ∧
    (∀ img, s.accepts img = true ↔ Config.imageSigned img = true ∧ s.nv.minVer ≤ ofBytes ((img.drop 4).take 4)) ∧
    (s.boot.linkUp = true → s.argN 0 = 8 → s.arg.bytes.length = 4 → Completes .stagingAreaWrite s fun s' =>
      s' = { s with boot := { s.boot with blen := min (64 * 2 ^ 20) (ofBytes s.arg.bytes) } }) ∧
    (s.boot.linkUp = true → 0x100000 ≤ s.argN 0 → Completes .stagingAreaWrite s fun s' =>
      (∀ k, tget 0 s'.boot.staging k =
        if s.argN 0 - 0x100000 ≤ k ∧ k < s.argN 0 - 0x100000 + s.arg.bytes.length ∧ k < 64 * 2 ^ 20 then
          s.arg.bytes.getD (k - (s.argN 0 - 0x100000)) 0
        else tget 0 s.boot.staging k) ∧ { s'.boot with staging := s.boot.staging } = s.boot ∧ s' = { s with boot := s'.boot }) ∧
    (let img := (List.range s.boot.blen).map (fun k => tget 0 s.boot.staging k)
     (s.boot.bstat = 4 ∨ s.boot.bstat = 5 → s.accepts img = true → Completes .bcmdSubmit s fun s' => Accepted s s' img) ∧
     (s.boot.bstat = 4 ∨ s.boot.bstat = 5 → s.accepts img = false → Completes .bcmdSubmit s fun s' =>
       s' = { s with boot := { s.boot with bstat := 5 } }) ∧
     (s.boot.bstat ≠ 4 → s.boot.bstat ≠ 5 → exec .bcmdSubmit s = .next s)) ∧
    (s.boot.scrubbed = true → s.boot.verified = true → s.boot.started = false → s.nv.image.length < 2 ^ 64 → Completes .firmwareStart s fun s' =>
      let base := (s.pkg 0x06F).toNat % 1024 * 2 ^ 30 + 576 * 2 ^ 20
      s'.boot = { s.boot with started := true, bstat := 3 } ∧
      s'.pkg 0x022 = BitVec.ofNat 64 (base + ofBytes ((s.nv.image.drop 16).take 8)) ∧
      s'.pkg 0x0F3 = BitVec.ofNat 64 (ofBytes ((s.nv.image.drop 4).take 4)) ∧
      s'.tr.fwm = BitVec.ofNat 256 (ofBytes (shake256 s.nv.image)) ∧
      ∃ t, s'.str? 0 = some t ∧ t.world = 0 ∧ t.vblk = 4 ∧ t.lmask = BitVec.allOnes 32 ∧ t.p0.level = 2 ∧ t.p0.state = .running ∧
        t.p0.mask = BitVec.allOnes 32 ∧ t.p0.pc = s'.pkg 0x022 ∧ t.p0.pos = 0 ∧ t.p1 = Path.blank ∧ t.stack = [] ∧
        t.spair 0 = BitVec.ofNat 64 base ∧ t.spair 2 = BitVec.ofNat 64 s.nv.image.length ∧ t.reg 0x020 = 0 ∧ t.reg 0x023 = 0)) ∧
  (∀ s : State,
    (s.boot.powered = true →
      Completes .pcieFundamentalReset s (Erased s · 1) ∧ Completes .pcieHotReset s (Erased s · 2) ∧
      Completes .rstctlWarm s (Erased s · 5) ∧
      Completes .powerLoss s (fun s' => s'.boot.powered = false ∧ s'.boot.tripped = false ∧ s'.strs = [] ∧ s'.nv = s.nv) ∧
      (110 ≤ s.argN 0 → Completes .thermalTrip s fun s' => s'.boot.powered = false ∧ s'.boot.tripped = true ∧ s'.strs = [] ∧ s'.nv = s.nv) ∧
      Completes .monoStore s (fun s' => s' = { s with nv := { s.nv with mono := s.mono } })) ∧
    (s.boot.powered = true → s.boot.linkUp = true → Completes .bcmdWarmReset s (Erased s · 3)) ∧
    (s.boot.powered = false → s.boot.tripped = false → Completes .powerOn s (Erased s · 0)) ∧
    (s.boot.powered = false → s.boot.tripped = true → Completes .powerOn s (Erased s · 4))) ∧
  (∀ s : State, s.boot.powered = true → Completes .powerSample s fun s' =>
    let limit := (s.pkg 0x0F0).toNat % 65536
    let freq := ((s.pkg 0x0F1).extractLsb' 40 8).toNat
    let old := ((s.pkg 0x0F1).extractLsb' 0 32).toNat
    let thr : Nat := (if limit < s.argN 0 then 1 else 0) + (if 95 ≤ s.argN 1 then 2 else 0) + (if 40 < s.argN 3 then 4 else 0)
    let x := s'.pkg 0x0F1
    let y := s'.pkg 0x0F2
    x.extractLsb' 48 16 = BitVec.ofNat 16 (s.argN 0) ∧ (x.extractLsb' 32 3).toNat = thr ∧ x.extractLsb' 35 5 = 0 ∧
    (x.extractLsb' 40 8).toNat = (if thr ≠ 0 then max 12 (freq - 1) else if 100 * s.argN 0 ≤ 95 * limit then min 36 (freq + 1) else freq) ∧
    (x.extractLsb' 0 32).toNat = min (2 ^ 32 - 1) (old + if freq < 36 then 1 else 0) ∧
    y.extractLsb' 24 8 = BitVec.ofNat 8 (s.argN 1) ∧ y.extractLsb' 16 8 = BitVec.ofNat 8 (s.argN 2) ∧
    y.extractLsb' 8 8 = BitVec.ofNat 8 (s.argN 3) ∧ y.extractLsb' 0 8 = 0 ∧
    (∀ k, k ≠ 0x0F1 → k ≠ 0x0F2 → s'.pkg k = s.pkg k) ∧
    (s.argN 1 < 110 → s'.agenda = s.agenda) ∧
    (110 ≤ s.argN 1 → s'.agenda = ⟨0, .event .thermalTrip ⟨[s.argN 1], []⟩⟩ :: s.agenda) ∧
    s'.strs = s.strs ∧ s'.mem = s.mem ∧ s'.boot = s.boot)

/-! ### Words, steps and the whole machine -/

/-- R301: the order of checks: a word its string may not execute is ILLEGAL; then its level, PRIV; then, of what is executed once per string, a
diverged string's MISSUE; and the POISON of the lowest-named poisoned source. -/
def Obligations.ChecksInOrder : Prop :=
  ∀ (i : Instr) (s : State) (t : Str), (encode i).isSome = true → s.str? s.curUnit = some t →
    let p := t.path s.curPath
    let word := s.curWord.setWidth 64
    let bound := fun j : Instr => (∃ a c n, j = .bar a c n) ∨ (∃ a x, j = .loop a x) ∨ (∃ n x, j = .loopi n x) ∨
      (∃ q e x, j = .lbrk q e x) ∨ (∃ d a f, j = .ctxsv d a f) ∨ (∃ d a f, j = .ctxld d a f)
    let plain := fun j : Instr => (∃ d a b e, j = .iadd d a b e) ∨ (∃ d a b e, j = .fadd d a b e) ∨ (∃ d a b, j = .sadd d a b) ∨
      (∃ d a b z f, j = .ld d a b z f) ∨ (∃ d a b z f, j = .rst d a b z f) ∨ ∃ d a b f, j = .lnch d a b f
    (legal t i = false → Traps i s cILLEGAL word) ∧
    (legal t i = true → p.level < minLevel i → Traps i s cPRIV word) ∧
    (legal t i = true → minLevel i ≤ p.level → oncePerString i = true → t.diverged = true →
      Traps i s cMISSUE word ∨ Traps i s cILLEGAL word) ∧
    (∀ r, legal t i = true → minLevel i ≤ p.level → oncePerString i = false ∨ t.diverged = false → p.vals = [] → poisonedRead t i = some r →
      let poison := exec i s = takeTrap s (t.setPath s.curPath p) ⟨cPOISON, p.here, p.pos, BitVec.ofNat 64 (r % 128), 0,
        some (if isLane i then BitVec.ofNat 32 (lowLane (actLanes p) * 2 ^ 27) else 0), none, none, none⟩
      (poison ∨ Traps i s cILLEGAL word ∨ Traps i s cPRIV word) ∧ (plain i → poison)) ∧
    (∀ r, poisonedRead t i = some r → r ∈ t.regPoison) ∧
    (bound i → legal t i = true → minLevel i ≤ p.level → oncePerString i = true → t.diverged = true → Traps i s cMISSUE word) ∧
    (t.outrider = true → encode i = some s.curWord → s.curWord.getLsbD 31 = false → Traps i s cILLEGAL word) ∧
    (minLevel i ≤ 2)

/-- R232, R279, R293: a step that issues a path's word runs the instruction that word decodes to, as the string's latest issue of its quad; a
word that is no instruction is ILLEGAL; a step that takes an event runs it with its operands.
The model's own part: The agenda and the operands in State are the model's form of the table's events (log 1). -/
def Obligations.StepRunsTheInstruction : Prop :=
  ∀ (s : State) (u dt : Nat) (b : Bool) (rest : List Item) (t : Str) (i : Instr) (x : Arg),
    let s1 := ({ s with agenda := rest } : State).pass dt
    let p := t.path b
    let s2 : State := { s1 with
      stamp := s.stamp + 1
      strs := s.strs.map (fun e => if e.1 = u then (e.1, { e.2 with stamp := s.stamp, before := e.2.stamp, yielded := false, onPath := b })
        else if quadOf e.1 = quadOf u then (e.1, { e.2 with yielded := false }) else e)
      curUnit := u, curPath := b, curWord := p.words.getD (p.pos - 1) 0 }
    let word := if p.rep then repStep (p.words.getD (p.pos - 1) 0) p.prevWord t.repidx else p.words.getD (p.pos - 1) 0
    s1.time = s.time + dt ∧ s1.strs = s.strs ∧ s1.mem = s.mem ∧
    (s.agenda = ⟨dt, .issue u b⟩ :: rest → s.str? u = some t → mayIssue t b = true → s1.boundStopped t = false →
      (decode word = .ok i → step s = exec i s2) ∧
      (∀ e, decode word = .error e → step s = trapWord s2 { t with stamp := s.stamp, before := t.stamp, yielded := false, onPath := b } p cILLEGAL)) ∧
    (s.agenda = ⟨dt, .issue u b⟩ :: rest → s.str? u = some t → mayIssue t b = false → step s = .next s1) ∧
    (s.agenda = ⟨dt, .event i x⟩ :: rest → step s = exec i { s1 with arg := x, curUnit := x.n.getD 0 0, curPath := x.n.getD 1 0 == 1 })

/-- R295, R302, R303, and the words the spec writes out: each decodes to the instruction it stands for, and some words to none. -/
def Obligations.WordsDecodeAsWritten : Prop :=
  decode 0x00060411 = .ok (.iadd 3 1 2 1) ∧ decode 0x400400A4 = .ok (.ld 2 0 10 2 0) ∧ decode 0xF0004180 = .ok (.tlbiPage 4 6 0) ∧
  decode 0x80104180 = .ok (.sadd 4 4 6) ∧ decode 0x91208004 = .ok (.saddi 8 8 4) ∧ decode 0x98100000 = .ok (.smovi 4 0) ∧
  decode 0xA2280080 = .ok (.sld64 10 0 2 0) ∧ decode 0xB7008003 = .ok (.loopi 8 3) ∧ decode 0xE91000B1 = .ok (.sysr 4 0x0B1) ∧
  decode 0xEA006011 = .ok (.sysw 6 0x011) ∧ decode 0xEB000012 = .ok (.trap 0x12) ∧ decode 0xB9000000 = .ok .exit ∧ decode 0xED000000 = .ok .tret ∧
  decode 0xF4000000 = .ok .nop ∧ decode 0x2A102450 = .ok (.ffma 8 9 10 0) ∧ decode 0x1B0A0080 = .ok (.iaddi 5 0 0x80) ∧
  (∃ e, decode 0x9C000000 = .error e) ∧ (∃ e, decode 0x400400AE = .error e) ∧ (∃ e, decode 0x400400B4 = .error e)

/-- R295 to R305: what the encoder writes for a well-formed instruction, the decoder reads back, with every operand.
R295 to R305: a word that decodes stands for one well-formed instruction, whose word it is: no bit of it is dropped. -/
def Obligations.DecodeAndEncode : Prop :=
  (∀ (i : Instr) (w : Word), i.wf = true → encode i = some w → decode w = .ok i) ∧
  (∀ (i : Instr) (w : Word), decode w = .ok i → encode i = some w ∧ i.wf = true)

/-- R1, R62 to R64, R69: every store of bytes keeps its canonical form through every step: strictly rising addresses, no byte 0 listed; what a
stored image holds of one has no byte 0 either.
The model's own part: That an unlisted byte reads 0 is the model's choice (log 5). -/
def Obligations.MemoryStaysCanonical : Prop :=
  ∀ s s' : State, MemS.wf s.mem → (∀ x ∈ s.stored, ∀ e ∈ x.sp ++ x.cv, e.2 ≠ 0) →
    step s = .next s' → MemS.wf s'.mem ∧ ∀ x ∈ s'.stored, ∀ e ∈ x.sp ++ x.cv, e.2 ≠ 0

/-- R468 and the registers' tables: what reset leaves: no string, no launch, no page pending, no policy; memory with nothing listed; the
registers at the reset values the spec gives.
The model's own part: Zero bytes (log 5) and the empty non-volatile store, from which sys.mono starts at 2^20 (log 10), are the model's choice. -/
def Obligations.StateAfterReset : Prop :=
  let s := State.reset
  MemS.wf s.mem ∧ s.strs = [] ∧ s.stored = [] ∧ s.sch.launches = [] ∧ s.sch.parties = [] ∧ s.eng.queue = [] ∧ s.way.pends = [] ∧
  s.tr.policies = [] ∧ s.tr.attested = [] ∧ s.tr.origins = [] ∧ s.tr.log = [] ∧ s.xl.shoots = [] ∧ s.mem.hbm = [] ∧ s.mem.sp = [] ∧
  s.mem.cv = [] ∧ s.mem.dp = [] ∧ s.boot.powered = true ∧ s.boot.started = false ∧ s.boot.bstat = 0 ∧ s.time = 0 ∧ s.mono = 2 ^ 20 ∧
  (∀ q, q < 24 → s.preg q 0x0D5 = 0x00FF0A00 ∧ s.preg q 0x0D6 = 0x00FF0100 ∧ s.preg q 0x0D7 = 0xFFFF ∧ s.preg q 0x0DA = 10 ∧
    s.preg q 0x0D4 = 0 ∧ s.preg q 0x0C4 = 0 ∧ s.preg q 0x0E1 = 0 ∧ s.preg q 0x0E7 = 0 ∧ s.preg q 0x0D9 = 0 ∧ s.preg q 0x0EB = 0) ∧
  (∀ w, w < 256 → s.wreg w 0x0D3 = 0 ∧ s.wreg w 0x0E9 = 0) ∧
  (∀ q, q < 4096 → (s.queue q).en = false ∧ (s.queue q).ord = false ∧ s.prioNow q = 0 ∧ (s.queue q).part = 0 ∧ (s.queue q).items = [])
end

