-- ==== Sys2Proof/Laws/PerInstr.lean ====
section
/-! SUPPORT. What is said of every instruction as syntax, one lemma per constructor. -/

open Sys2Proof

/-- An instruction of the two sets has a word of its own (R302 to R304); a step that no word begins names no register. -/
def Sys2Proof.Laws.Encodable.Statement (i : Instr) : Prop :=
  (encode i).isSome = true ∨ (encode i = none ∧ i.operands.vregs = [] ∧ i.operands.sregs = [])

theorem Sys2Proof.Laws.Encodable.iadd : ∀ (d : BitVec 7) (a : BitVec 7) (b : BitVec 7) (m : BitVec 3), Sys2Proof.Laws.Encodable.Statement (.iadd d a b m) := fun _ _ _ _ => .inl rfl
theorem Sys2Proof.Laws.Encodable.isub : ∀ (d : BitVec 7) (a : BitVec 7) (b : BitVec 7) (m : BitVec 3), Sys2Proof.Laws.Encodable.Statement (.isub d a b m) := fun _ _ _ _ => .inl rfl
theorem Sys2Proof.Laws.Encodable.imul : ∀ (d : BitVec 7) (a : BitVec 7) (b : BitVec 7), Sys2Proof.Laws.Encodable.Statement (.imul d a b) := fun _ _ _ => .inl rfl
theorem Sys2Proof.Laws.Encodable.imulh : ∀ (d : BitVec 7) (a : BitVec 7) (b : BitVec 7) (t : BitVec 1), Sys2Proof.Laws.Encodable.Statement (.imulh d a b t) := fun _ _ _ _ => .inl rfl
theorem Sys2Proof.Laws.Encodable.imad : ∀ (d : BitVec 7) (a : BitVec 7) (b : BitVec 7), Sys2Proof.Laws.Encodable.Statement (.imad d a b) := fun _ _ _ => .inl rfl
theorem Sys2Proof.Laws.Encodable.imin : ∀ (d : BitVec 7) (a : BitVec 7) (b : BitVec 7) (t : BitVec 1), Sys2Proof.Laws.Encodable.Statement (.imin d a b t) := fun _ _ _ _ => .inl rfl
theorem Sys2Proof.Laws.Encodable.imax : ∀ (d : BitVec 7) (a : BitVec 7) (b : BitVec 7) (t : BitVec 1), Sys2Proof.Laws.Encodable.Statement (.imax d a b t) := fun _ _ _ _ => .inl rfl
theorem Sys2Proof.Laws.Encodable.iabsd : ∀ (d : BitVec 7) (a : BitVec 7) (b : BitVec 7) (t : BitVec 1), Sys2Proof.Laws.Encodable.Statement (.iabsd d a b t) := fun _ _ _ _ => .inl rfl
theorem Sys2Proof.Laws.Encodable.andV : ∀ (d : BitVec 7) (a : BitVec 7) (b : BitVec 7), Sys2Proof.Laws.Encodable.Statement (.andV d a b) := fun _ _ _ => .inl rfl
theorem Sys2Proof.Laws.Encodable.orV : ∀ (d : BitVec 7) (a : BitVec 7) (b : BitVec 7), Sys2Proof.Laws.Encodable.Statement (.orV d a b) := fun _ _ _ => .inl rfl
theorem Sys2Proof.Laws.Encodable.xor : ∀ (d : BitVec 7) (a : BitVec 7) (b : BitVec 7), Sys2Proof.Laws.Encodable.Statement (.xor d a b) := fun _ _ _ => .inl rfl
theorem Sys2Proof.Laws.Encodable.andn : ∀ (d : BitVec 7) (a : BitVec 7) (b : BitVec 7), Sys2Proof.Laws.Encodable.Statement (.andn d a b) := fun _ _ _ => .inl rfl
theorem Sys2Proof.Laws.Encodable.shl : ∀ (d : BitVec 7) (a : BitVec 7) (b : BitVec 7), Sys2Proof.Laws.Encodable.Statement (.shl d a b) := fun _ _ _ => .inl rfl
theorem Sys2Proof.Laws.Encodable.shr : ∀ (d : BitVec 7) (a : BitVec 7) (b : BitVec 7), Sys2Proof.Laws.Encodable.Statement (.shr d a b) := fun _ _ _ => .inl rfl
theorem Sys2Proof.Laws.Encodable.sra : ∀ (d : BitVec 7) (a : BitVec 7) (b : BitVec 7), Sys2Proof.Laws.Encodable.Statement (.sra d a b) := fun _ _ _ => .inl rfl
theorem Sys2Proof.Laws.Encodable.bfx : ∀ (d : BitVec 7) (a : BitVec 7) (b : BitVec 7) (t : BitVec 1), Sys2Proof.Laws.Encodable.Statement (.bfx d a b t) := fun _ _ _ _ => .inl rfl
theorem Sys2Proof.Laws.Encodable.bfi : ∀ (d : BitVec 7) (a : BitVec 7) (b : BitVec 7), Sys2Proof.Laws.Encodable.Statement (.bfi d a b) := fun _ _ _ => .inl rfl
theorem Sys2Proof.Laws.Encodable.popc : ∀ (d : BitVec 7) (a : BitVec 7), Sys2Proof.Laws.Encodable.Statement (.popc d a) := fun _ _ => .inl rfl
theorem Sys2Proof.Laws.Encodable.clz : ∀ (d : BitVec 7) (a : BitVec 7), Sys2Proof.Laws.Encodable.Statement (.clz d a) := fun _ _ => .inl rfl
theorem Sys2Proof.Laws.Encodable.brev : ∀ (d : BitVec 7) (a : BitVec 7), Sys2Proof.Laws.Encodable.Statement (.brev d a) := fun _ _ => .inl rfl
theorem Sys2Proof.Laws.Encodable.prmt : ∀ (d : BitVec 7) (a : BitVec 7) (b : BitVec 7), Sys2Proof.Laws.Encodable.Statement (.prmt d a b) := fun _ _ _ => .inl rfl
theorem Sys2Proof.Laws.Encodable.prmts : ∀ (d : BitVec 7) (a : BitVec 7) (s : BitVec 6), Sys2Proof.Laws.Encodable.Statement (.prmts d a s) := fun _ _ _ => .inl rfl
theorem Sys2Proof.Laws.Encodable.icmp : ∀ (p : BitVec 3) (a : BitVec 7) (b : BitVec 7) (c : BitVec 3), Sys2Proof.Laws.Encodable.Statement (.icmp p a b c) := fun _ _ _ _ => .inl rfl
theorem Sys2Proof.Laws.Encodable.sel : ∀ (d : BitVec 7) (a : BitVec 7) (b : BitVec 7) (p : BitVec 3), Sys2Proof.Laws.Encodable.Statement (.sel d a b p) := fun _ _ _ _ => .inl rfl
theorem Sys2Proof.Laws.Encodable.mov : ∀ (d : BitVec 7) (a : BitVec 7), Sys2Proof.Laws.Encodable.Statement (.mov d a) := fun _ _ => .inl rfl
theorem Sys2Proof.Laws.Encodable.movs : ∀ (d : BitVec 7) (s : BitVec 6), Sys2Proof.Laws.Encodable.Statement (.movs d s) := fun _ _ => .inl rfl
theorem Sys2Proof.Laws.Encodable.movi : ∀ (d : BitVec 7) (i : BitVec 10), Sys2Proof.Laws.Encodable.Statement (.movi d i) := fun _ _ => .inl rfl
theorem Sys2Proof.Laws.Encodable.iaddi : ∀ (d : BitVec 7) (a : BitVec 7) (i : BitVec 10), Sys2Proof.Laws.Encodable.Statement (.iaddi d a i) := fun _ _ _ => .inl rfl
theorem Sys2Proof.Laws.Encodable.andi : ∀ (d : BitVec 7) (a : BitVec 7) (i : BitVec 10), Sys2Proof.Laws.Encodable.Statement (.andi d a i) := fun _ _ _ => .inl rfl
theorem Sys2Proof.Laws.Encodable.ori : ∀ (d : BitVec 7) (a : BitVec 7) (i : BitVec 10), Sys2Proof.Laws.Encodable.Statement (.ori d a i) := fun _ _ _ => .inl rfl
theorem Sys2Proof.Laws.Encodable.xori : ∀ (d : BitVec 7) (a : BitVec 7) (i : BitVec 10), Sys2Proof.Laws.Encodable.Statement (.xori d a i) := fun _ _ _ => .inl rfl
theorem Sys2Proof.Laws.Encodable.shli : ∀ (d : BitVec 7) (a : BitVec 7) (n : BitVec 5), Sys2Proof.Laws.Encodable.Statement (.shli d a n) := fun _ _ _ => .inl rfl
theorem Sys2Proof.Laws.Encodable.shri : ∀ (d : BitVec 7) (a : BitVec 7) (n : BitVec 5), Sys2Proof.Laws.Encodable.Statement (.shri d a n) := fun _ _ _ => .inl rfl
theorem Sys2Proof.Laws.Encodable.srai : ∀ (d : BitVec 7) (a : BitVec 7) (n : BitVec 5), Sys2Proof.Laws.Encodable.Statement (.srai d a n) := fun _ _ _ => .inl rfl
theorem Sys2Proof.Laws.Encodable.iadds : ∀ (d : BitVec 7) (a : BitVec 7) (s : BitVec 6) (m : BitVec 2), Sys2Proof.Laws.Encodable.Statement (.iadds d a s m) := fun _ _ _ _ => .inl rfl
theorem Sys2Proof.Laws.Encodable.icmps : ∀ (p : BitVec 3) (a : BitVec 7) (s : BitVec 6) (t : BitVec 1) (c : BitVec 3), Sys2Proof.Laws.Encodable.Statement (.icmps p a s t c) := fun _ _ _ _ _ => .inl rfl
theorem Sys2Proof.Laws.Encodable.lane : ∀ (d : BitVec 7) (m : BitVec 3), Sys2Proof.Laws.Encodable.Statement (.lane d m) := fun _ _ => .inl rfl
theorem Sys2Proof.Laws.Encodable.fadd : ∀ (d : BitVec 7) (a : BitVec 7) (b : BitVec 7) (t : BitVec 1), Sys2Proof.Laws.Encodable.Statement (.fadd d a b t) := fun _ _ _ _ => .inl rfl
theorem Sys2Proof.Laws.Encodable.fmul : ∀ (d : BitVec 7) (a : BitVec 7) (b : BitVec 7) (t : BitVec 1), Sys2Proof.Laws.Encodable.Statement (.fmul d a b t) := fun _ _ _ _ => .inl rfl
theorem Sys2Proof.Laws.Encodable.ffma : ∀ (d : BitVec 7) (a : BitVec 7) (b : BitVec 7) (t : BitVec 1), Sys2Proof.Laws.Encodable.Statement (.ffma d a b t) := fun _ _ _ _ => .inl rfl
theorem Sys2Proof.Laws.Encodable.fmin : ∀ (d : BitVec 7) (a : BitVec 7) (b : BitVec 7) (t : BitVec 1), Sys2Proof.Laws.Encodable.Statement (.fmin d a b t) := fun _ _ _ _ => .inl rfl
theorem Sys2Proof.Laws.Encodable.fmax : ∀ (d : BitVec 7) (a : BitVec 7) (b : BitVec 7) (t : BitVec 1), Sys2Proof.Laws.Encodable.Statement (.fmax d a b t) := fun _ _ _ _ => .inl rfl
theorem Sys2Proof.Laws.Encodable.fcmp : ∀ (p : BitVec 3) (a : BitVec 7) (b : BitVec 7) (c : BitVec 3), Sys2Proof.Laws.Encodable.Statement (.fcmp p a b c) := fun _ _ _ _ => .inl rfl
theorem Sys2Proof.Laws.Encodable.fabs : ∀ (d : BitVec 7) (a : BitVec 7) (k : BitVec 2) (t : BitVec 1), Sys2Proof.Laws.Encodable.Statement (.fabs d a k t) := fun _ _ _ _ => .inl rfl
theorem Sys2Proof.Laws.Encodable.frcp : ∀ (d : BitVec 7) (a : BitVec 7), Sys2Proof.Laws.Encodable.Statement (.frcp d a) := fun _ _ => .inl rfl
theorem Sys2Proof.Laws.Encodable.fsqrt : ∀ (d : BitVec 7) (a : BitVec 7), Sys2Proof.Laws.Encodable.Statement (.fsqrt d a) := fun _ _ => .inl rfl
theorem Sys2Proof.Laws.Encodable.frsq : ∀ (d : BitVec 7) (a : BitVec 7), Sys2Proof.Laws.Encodable.Statement (.frsq d a) := fun _ _ => .inl rfl
theorem Sys2Proof.Laws.Encodable.fexp2 : ∀ (d : BitVec 7) (a : BitVec 7), Sys2Proof.Laws.Encodable.Statement (.fexp2 d a) := fun _ _ => .inl rfl
theorem Sys2Proof.Laws.Encodable.flog2 : ∀ (d : BitVec 7) (a : BitVec 7), Sys2Proof.Laws.Encodable.Statement (.flog2 d a) := fun _ _ => .inl rfl
theorem Sys2Proof.Laws.Encodable.fdot2 : ∀ (d : BitVec 7) (a : BitVec 7) (b : BitVec 7), Sys2Proof.Laws.Encodable.Statement (.fdot2 d a b) := fun _ _ _ => .inl rfl
theorem Sys2Proof.Laws.Encodable.fadds : ∀ (d : BitVec 7) (a : BitVec 7) (s : BitVec 6) (t : BitVec 1), Sys2Proof.Laws.Encodable.Statement (.fadds d a s t) := fun _ _ _ _ => .inl rfl
theorem Sys2Proof.Laws.Encodable.fmuls : ∀ (d : BitVec 7) (a : BitVec 7) (s : BitVec 6) (t : BitVec 1), Sys2Proof.Laws.Encodable.Statement (.fmuls d a s t) := fun _ _ _ _ => .inl rfl
theorem Sys2Proof.Laws.Encodable.ffmas : ∀ (d : BitVec 7) (a : BitVec 7) (s : BitVec 6) (t : BitVec 1), Sys2Proof.Laws.Encodable.Statement (.ffmas d a s t) := fun _ _ _ _ => .inl rfl
theorem Sys2Proof.Laws.Encodable.cvt : ∀ (d : BitVec 7) (a : BitVec 7) (x : BitVec 4) (y : BitVec 4) (r : BitVec 2), Sys2Proof.Laws.Encodable.Statement (.cvt d a x y r) := fun _ _ _ _ _ => .inl rfl
theorem Sys2Proof.Laws.Encodable.cvtb : ∀ (d : BitVec 7) (a : BitVec 7) (k : BitVec 2) (f : BitVec 2) (s : BitVec 2) (r : BitVec 2), Sys2Proof.Laws.Encodable.Statement (.cvtb d a k f s r) := fun _ _ _ _ _ _ => .inl rfl
theorem Sys2Proof.Laws.Encodable.unpkl : ∀ (d : BitVec 7) (a : BitVec 7) (k : BitVec 2) (f : BitVec 2), Sys2Proof.Laws.Encodable.Statement (.unpkl d a k f) := fun _ _ _ _ => .inl rfl
theorem Sys2Proof.Laws.Encodable.packh : ∀ (d : BitVec 7) (a : BitVec 7) (b : BitVec 7) (r : BitVec 2), Sys2Proof.Laws.Encodable.Statement (.packh d a b r) := fun _ _ _ _ => .inl rfl
theorem Sys2Proof.Laws.Encodable.shfl : ∀ (d : BitVec 7) (a : BitVec 7) (b : BitVec 7) (g : BitVec 1) (m : BitVec 2), Sys2Proof.Laws.Encodable.Statement (.shfl d a b g m) := fun _ _ _ _ _ => .inl rfl
theorem Sys2Proof.Laws.Encodable.vote : ∀ (d : BitVec 7) (p : BitVec 3) (m : BitVec 3), Sys2Proof.Laws.Encodable.Statement (.vote d p m) := fun _ _ _ => .inl rfl
theorem Sys2Proof.Laws.Encodable.matchV : ∀ (d : BitVec 7) (a : BitVec 7) (k : BitVec 2) (w : BitVec 1), Sys2Proof.Laws.Encodable.Statement (.matchV d a k w) := fun _ _ _ _ => .inl rfl
theorem Sys2Proof.Laws.Encodable.ld : ∀ (d : BitVec 7) (a : BitVec 7) (s : BitVec 6) (z : BitVec 3) (f : BitVec 1), Sys2Proof.Laws.Encodable.Statement (.ld d a s z f) := fun _ _ _ _ _ => .inl rfl
theorem Sys2Proof.Laws.Encodable.st : ∀ (d : BitVec 7) (a : BitVec 7) (s : BitVec 6) (z : BitVec 3) (f : BitVec 1), Sys2Proof.Laws.Encodable.Statement (.st d a s z f) := fun _ _ _ _ _ => .inl rfl
theorem Sys2Proof.Laws.Encodable.ldsp : ∀ (d : BitVec 7) (a : BitVec 7) (s : BitVec 6) (z : BitVec 3) (f : BitVec 1), Sys2Proof.Laws.Encodable.Statement (.ldsp d a s z f) := fun _ _ _ _ _ => .inl rfl
theorem Sys2Proof.Laws.Encodable.stsp : ∀ (d : BitVec 7) (a : BitVec 7) (s : BitVec 6) (z : BitVec 3) (f : BitVec 1), Sys2Proof.Laws.Encodable.Statement (.stsp d a s z f) := fun _ _ _ _ _ => .inl rfl
theorem Sys2Proof.Laws.Encodable.ldcv : ∀ (d : BitVec 7) (a : BitVec 7) (s : BitVec 6) (z : BitVec 3) (f : BitVec 1), Sys2Proof.Laws.Encodable.Statement (.ldcv d a s z f) := fun _ _ _ _ _ => .inl rfl
theorem Sys2Proof.Laws.Encodable.stcv : ∀ (d : BitVec 7) (a : BitVec 7) (s : BitVec 6) (z : BitVec 3) (f : BitVec 1), Sys2Proof.Laws.Encodable.Statement (.stcv d a s z f) := fun _ _ _ _ _ => .inl rfl
theorem Sys2Proof.Laws.Encodable.lddp : ∀ (d : BitVec 7) (a : BitVec 7) (s : BitVec 6) (z : BitVec 3) (f : BitVec 1), Sys2Proof.Laws.Encodable.Statement (.lddp d a s z f) := fun _ _ _ _ _ => .inl rfl
theorem Sys2Proof.Laws.Encodable.stdp : ∀ (d : BitVec 7) (a : BitVec 7) (s : BitVec 6) (z : BitVec 3) (f : BitVec 1), Sys2Proof.Laws.Encodable.Statement (.stdp d a s z f) := fun _ _ _ _ _ => .inl rfl
theorem Sys2Proof.Laws.Encodable.ldc : ∀ (d : BitVec 7) (a : BitVec 7) (s : BitVec 6) (z : BitVec 3) (f : BitVec 1), Sys2Proof.Laws.Encodable.Statement (.ldc d a s z f) := fun _ _ _ _ _ => .inl rfl
theorem Sys2Proof.Laws.Encodable.pfet : ∀ (a : BitVec 7) (s : BitVec 6) (l : BitVec 3), Sys2Proof.Laws.Encodable.Statement (.pfet a s l) := fun _ _ _ => .inl rfl
theorem Sys2Proof.Laws.Encodable.lda : ∀ (d : BitVec 7) (a : BitVec 7) (s : BitVec 6) (c : BitVec 3) (f : BitVec 1), Sys2Proof.Laws.Encodable.Statement (.lda d a s c f) := fun _ _ _ _ _ => .inl rfl
theorem Sys2Proof.Laws.Encodable.stl : ∀ (d : BitVec 7) (a : BitVec 7) (s : BitVec 6) (c : BitVec 3) (f : BitVec 1), Sys2Proof.Laws.Encodable.Statement (.stl d a s c f) := fun _ _ _ _ _ => .inl rfl
theorem Sys2Proof.Laws.Encodable.lda64 : ∀ (d : BitVec 7) (a : BitVec 7) (s : BitVec 6) (c : BitVec 3) (f : BitVec 1), Sys2Proof.Laws.Encodable.Statement (.lda64 d a s c f) := fun _ _ _ _ _ => .inl rfl
theorem Sys2Proof.Laws.Encodable.stl64 : ∀ (d : BitVec 7) (a : BitVec 7) (s : BitVec 6) (c : BitVec 3) (f : BitVec 1), Sys2Proof.Laws.Encodable.Statement (.stl64 d a s c f) := fun _ _ _ _ _ => .inl rfl
theorem Sys2Proof.Laws.Encodable.atadd : ∀ (d : BitVec 7) (a : BitVec 7) (s : BitVec 6) (c : BitVec 3) (f : BitVec 1), Sys2Proof.Laws.Encodable.Statement (.atadd d a s c f) := fun _ _ _ _ _ => .inl rfl
theorem Sys2Proof.Laws.Encodable.atmin : ∀ (d : BitVec 7) (a : BitVec 7) (s : BitVec 6) (c : BitVec 3) (f : BitVec 1), Sys2Proof.Laws.Encodable.Statement (.atmin d a s c f) := fun _ _ _ _ _ => .inl rfl
theorem Sys2Proof.Laws.Encodable.atmax : ∀ (d : BitVec 7) (a : BitVec 7) (s : BitVec 6) (c : BitVec 3) (f : BitVec 1), Sys2Proof.Laws.Encodable.Statement (.atmax d a s c f) := fun _ _ _ _ _ => .inl rfl
theorem Sys2Proof.Laws.Encodable.atminn : ∀ (d : BitVec 7) (a : BitVec 7) (s : BitVec 6) (c : BitVec 3) (f : BitVec 1), Sys2Proof.Laws.Encodable.Statement (.atminn d a s c f) := fun _ _ _ _ _ => .inl rfl
theorem Sys2Proof.Laws.Encodable.atmaxn : ∀ (d : BitVec 7) (a : BitVec 7) (s : BitVec 6) (c : BitVec 3) (f : BitVec 1), Sys2Proof.Laws.Encodable.Statement (.atmaxn d a s c f) := fun _ _ _ _ _ => .inl rfl
theorem Sys2Proof.Laws.Encodable.atand : ∀ (d : BitVec 7) (a : BitVec 7) (s : BitVec 6) (c : BitVec 3) (f : BitVec 1), Sys2Proof.Laws.Encodable.Statement (.atand d a s c f) := fun _ _ _ _ _ => .inl rfl
theorem Sys2Proof.Laws.Encodable.ator : ∀ (d : BitVec 7) (a : BitVec 7) (s : BitVec 6) (c : BitVec 3) (f : BitVec 1), Sys2Proof.Laws.Encodable.Statement (.ator d a s c f) := fun _ _ _ _ _ => .inl rfl
theorem Sys2Proof.Laws.Encodable.atxor : ∀ (d : BitVec 7) (a : BitVec 7) (s : BitVec 6) (c : BitVec 3) (f : BitVec 1), Sys2Proof.Laws.Encodable.Statement (.atxor d a s c f) := fun _ _ _ _ _ => .inl rfl
theorem Sys2Proof.Laws.Encodable.atxch : ∀ (d : BitVec 7) (a : BitVec 7) (s : BitVec 6) (c : BitVec 3) (f : BitVec 1), Sys2Proof.Laws.Encodable.Statement (.atxch d a s c f) := fun _ _ _ _ _ => .inl rfl
theorem Sys2Proof.Laws.Encodable.atcas : ∀ (d : BitVec 7) (a : BitVec 7) (s : BitVec 6) (c : BitVec 3) (f : BitVec 1), Sys2Proof.Laws.Encodable.Statement (.atcas d a s c f) := fun _ _ _ _ _ => .inl rfl
theorem Sys2Proof.Laws.Encodable.atfadd : ∀ (d : BitVec 7) (a : BitVec 7) (s : BitVec 6) (c : BitVec 3) (f : BitVec 1), Sys2Proof.Laws.Encodable.Statement (.atfadd d a s c f) := fun _ _ _ _ _ => .inl rfl
theorem Sys2Proof.Laws.Encodable.atadd64 : ∀ (d : BitVec 7) (a : BitVec 7) (s : BitVec 6) (c : BitVec 3) (f : BitVec 1), Sys2Proof.Laws.Encodable.Statement (.atadd64 d a s c f) := fun _ _ _ _ _ => .inl rfl
theorem Sys2Proof.Laws.Encodable.atcas64 : ∀ (d : BitVec 7) (a : BitVec 7) (s : BitVec 6) (c : BitVec 3) (f : BitVec 1), Sys2Proof.Laws.Encodable.Statement (.atcas64 d a s c f) := fun _ _ _ _ _ => .inl rfl
theorem Sys2Proof.Laws.Encodable.rld : ∀ (d : BitVec 7) (a : BitVec 7) (s : BitVec 6) (z : BitVec 3) (f : BitVec 1), Sys2Proof.Laws.Encodable.Statement (.rld d a s z f) := fun _ _ _ _ _ => .inl rfl
theorem Sys2Proof.Laws.Encodable.rst : ∀ (d : BitVec 7) (a : BitVec 7) (s : BitVec 6) (z : BitVec 3) (f : BitVec 1), Sys2Proof.Laws.Encodable.Statement (.rst d a s z f) := fun _ _ _ _ _ => .inl rfl
theorem Sys2Proof.Laws.Encodable.ratadd : ∀ (d : BitVec 7) (a : BitVec 7) (s : BitVec 6) (z : BitVec 3) (f : BitVec 1), Sys2Proof.Laws.Encodable.Statement (.ratadd d a s z f) := fun _ _ _ _ _ => .inl rfl
theorem Sys2Proof.Laws.Encodable.ratcas : ∀ (d : BitVec 7) (a : BitVec 7) (s : BitVec 6) (z : BitVec 3) (f : BitVec 1), Sys2Proof.Laws.Encodable.Statement (.ratcas d a s z f) := fun _ _ _ _ _ => .inl rfl
theorem Sys2Proof.Laws.Encodable.ratfadd : ∀ (d : BitVec 7) (a : BitVec 7) (s : BitVec 6) (z : BitVec 3) (f : BitVec 1), Sys2Proof.Laws.Encodable.Statement (.ratfadd d a s z f) := fun _ _ _ _ _ => .inl rfl
theorem Sys2Proof.Laws.Encodable.popq : ∀ (d : BitVec 7) (q : BitVec 2) (f : BitVec 1), Sys2Proof.Laws.Encodable.Statement (.popq d q f) := fun _ _ _ => .inl rfl
theorem Sys2Proof.Laws.Encodable.rep : ∀ (n : BitVec 6) (x : BitVec 3) (y : BitVec 3) (w : BitVec 3), Sys2Proof.Laws.Encodable.Statement (.rep n x y w) := fun _ _ _ _ => .inl rfl
theorem Sys2Proof.Laws.Encodable.sadd : ∀ (d : BitVec 6) (a : BitVec 6) (b : BitVec 6), Sys2Proof.Laws.Encodable.Statement (.sadd d a b) := fun _ _ _ => .inl rfl
theorem Sys2Proof.Laws.Encodable.ssub : ∀ (d : BitVec 6) (a : BitVec 6) (b : BitVec 6), Sys2Proof.Laws.Encodable.Statement (.ssub d a b) := fun _ _ _ => .inl rfl
theorem Sys2Proof.Laws.Encodable.smul : ∀ (d : BitVec 6) (a : BitVec 6) (b : BitVec 6), Sys2Proof.Laws.Encodable.Statement (.smul d a b) := fun _ _ _ => .inl rfl
theorem Sys2Proof.Laws.Encodable.smulh : ∀ (d : BitVec 6) (a : BitVec 6) (b : BitVec 6) (t : BitVec 1), Sys2Proof.Laws.Encodable.Statement (.smulh d a b t) := fun _ _ _ _ => .inl rfl
theorem Sys2Proof.Laws.Encodable.sand : ∀ (d : BitVec 6) (a : BitVec 6) (b : BitVec 6), Sys2Proof.Laws.Encodable.Statement (.sand d a b) := fun _ _ _ => .inl rfl
theorem Sys2Proof.Laws.Encodable.sor : ∀ (d : BitVec 6) (a : BitVec 6) (b : BitVec 6), Sys2Proof.Laws.Encodable.Statement (.sor d a b) := fun _ _ _ => .inl rfl
theorem Sys2Proof.Laws.Encodable.sxor : ∀ (d : BitVec 6) (a : BitVec 6) (b : BitVec 6), Sys2Proof.Laws.Encodable.Statement (.sxor d a b) := fun _ _ _ => .inl rfl
theorem Sys2Proof.Laws.Encodable.sshl : ∀ (d : BitVec 6) (a : BitVec 6) (b : BitVec 6), Sys2Proof.Laws.Encodable.Statement (.sshl d a b) := fun _ _ _ => .inl rfl
theorem Sys2Proof.Laws.Encodable.sshr : ∀ (d : BitVec 6) (a : BitVec 6) (b : BitVec 6), Sys2Proof.Laws.Encodable.Statement (.sshr d a b) := fun _ _ _ => .inl rfl
theorem Sys2Proof.Laws.Encodable.ssra : ∀ (d : BitVec 6) (a : BitVec 6) (b : BitVec 6), Sys2Proof.Laws.Encodable.Statement (.ssra d a b) := fun _ _ _ => .inl rfl
theorem Sys2Proof.Laws.Encodable.smin : ∀ (d : BitVec 6) (a : BitVec 6) (b : BitVec 6) (t : BitVec 1), Sys2Proof.Laws.Encodable.Statement (.smin d a b t) := fun _ _ _ _ => .inl rfl
theorem Sys2Proof.Laws.Encodable.smax : ∀ (d : BitVec 6) (a : BitVec 6) (b : BitVec 6) (t : BitVec 1), Sys2Proof.Laws.Encodable.Statement (.smax d a b t) := fun _ _ _ _ => .inl rfl
theorem Sys2Proof.Laws.Encodable.scmp : ∀ (q : BitVec 3) (a : BitVec 6) (b : BitVec 6) (t : BitVec 1) (c : BitVec 3), Sys2Proof.Laws.Encodable.Statement (.scmp q a b t c) := fun _ _ _ _ _ => .inl rfl
theorem Sys2Proof.Laws.Encodable.ssel : ∀ (d : BitVec 6) (a : BitVec 6) (b : BitVec 6) (e : BitVec 1) (p : BitVec 3), Sys2Proof.Laws.Encodable.Statement (.ssel d a b e p) := fun _ _ _ _ _ => .inl rfl
theorem Sys2Proof.Laws.Encodable.smov : ∀ (d : BitVec 6) (a : BitVec 6), Sys2Proof.Laws.Encodable.Statement (.smov d a) := fun _ _ => .inl rfl
theorem Sys2Proof.Laws.Encodable.spopc : ∀ (d : BitVec 6) (a : BitVec 6), Sys2Proof.Laws.Encodable.Statement (.spopc d a) := fun _ _ => .inl rfl
theorem Sys2Proof.Laws.Encodable.sclz : ∀ (d : BitVec 6) (a : BitVec 6), Sys2Proof.Laws.Encodable.Statement (.sclz d a) := fun _ _ => .inl rfl
theorem Sys2Proof.Laws.Encodable.saddi : ∀ (d : BitVec 6) (a : BitVec 6) (i : BitVec 12), Sys2Proof.Laws.Encodable.Statement (.saddi d a i) := fun _ _ _ => .inl rfl
theorem Sys2Proof.Laws.Encodable.sandi : ∀ (d : BitVec 6) (a : BitVec 6) (i : BitVec 12), Sys2Proof.Laws.Encodable.Statement (.sandi d a i) := fun _ _ _ => .inl rfl
theorem Sys2Proof.Laws.Encodable.sori : ∀ (d : BitVec 6) (a : BitVec 6) (i : BitVec 12), Sys2Proof.Laws.Encodable.Statement (.sori d a i) := fun _ _ _ => .inl rfl
theorem Sys2Proof.Laws.Encodable.sxori : ∀ (d : BitVec 6) (a : BitVec 6) (i : BitVec 12), Sys2Proof.Laws.Encodable.Statement (.sxori d a i) := fun _ _ _ => .inl rfl
theorem Sys2Proof.Laws.Encodable.sshli : ∀ (d : BitVec 6) (a : BitVec 6) (n : BitVec 5), Sys2Proof.Laws.Encodable.Statement (.sshli d a n) := fun _ _ _ => .inl rfl
theorem Sys2Proof.Laws.Encodable.sshri : ∀ (d : BitVec 6) (a : BitVec 6) (n : BitVec 5), Sys2Proof.Laws.Encodable.Statement (.sshri d a n) := fun _ _ _ => .inl rfl
theorem Sys2Proof.Laws.Encodable.scmpi : ∀ (q : BitVec 3) (a : BitVec 6) (c : BitVec 3) (t : BitVec 1) (i : BitVec 8), Sys2Proof.Laws.Encodable.Statement (.scmpi q a c t i) := fun _ _ _ _ _ => .inl rfl
theorem Sys2Proof.Laws.Encodable.smovi : ∀ (d : BitVec 6) (i : BitVec 18), Sys2Proof.Laws.Encodable.Statement (.smovi d i) := fun _ _ => .inl rfl
theorem Sys2Proof.Laws.Encodable.slui : ∀ (d : BitVec 6) (i : BitVec 18), Sys2Proof.Laws.Encodable.Statement (.slui d i) := fun _ _ => .inl rfl
theorem Sys2Proof.Laws.Encodable.sadd64 : ∀ (d : BitVec 6) (a : BitVec 6) (b : BitVec 6) (k : BitVec 2), Sys2Proof.Laws.Encodable.Statement (.sadd64 d a b k) := fun _ _ _ _ => .inl rfl
theorem Sys2Proof.Laws.Encodable.qop : ∀ (d : BitVec 3) (a : BitVec 3) (b : BitVec 3) (t : BitVec 4), Sys2Proof.Laws.Encodable.Statement (.qop d a b t) := fun _ _ _ _ => .inl rfl
theorem Sys2Proof.Laws.Encodable.sld : ∀ (d : BitVec 6) (a : BitVec 6) (b : BitVec 6) (f : BitVec 1), Sys2Proof.Laws.Encodable.Statement (.sld d a b f) := fun _ _ _ _ => .inl rfl
theorem Sys2Proof.Laws.Encodable.sst : ∀ (d : BitVec 6) (a : BitVec 6) (b : BitVec 6) (f : BitVec 1), Sys2Proof.Laws.Encodable.Statement (.sst d a b f) := fun _ _ _ _ => .inl rfl
theorem Sys2Proof.Laws.Encodable.sld64 : ∀ (d : BitVec 6) (a : BitVec 6) (b : BitVec 6) (f : BitVec 1), Sys2Proof.Laws.Encodable.Statement (.sld64 d a b f) := fun _ _ _ _ => .inl rfl
theorem Sys2Proof.Laws.Encodable.sst64 : ∀ (d : BitVec 6) (a : BitVec 6) (b : BitVec 6) (f : BitVec 1), Sys2Proof.Laws.Encodable.Statement (.sst64 d a b f) := fun _ _ _ _ => .inl rfl
theorem Sys2Proof.Laws.Encodable.sldsp : ∀ (d : BitVec 6) (a : BitVec 6) (b : BitVec 6) (f : BitVec 1), Sys2Proof.Laws.Encodable.Statement (.sldsp d a b f) := fun _ _ _ _ => .inl rfl
theorem Sys2Proof.Laws.Encodable.sstsp : ∀ (d : BitVec 6) (a : BitVec 6) (b : BitVec 6) (f : BitVec 1), Sys2Proof.Laws.Encodable.Statement (.sstsp d a b f) := fun _ _ _ _ => .inl rfl
theorem Sys2Proof.Laws.Encodable.slda : ∀ (d : BitVec 6) (a : BitVec 6) (b : BitVec 6) (c : BitVec 3) (f : BitVec 1), Sys2Proof.Laws.Encodable.Statement (.slda d a b c f) := fun _ _ _ _ _ => .inl rfl
theorem Sys2Proof.Laws.Encodable.sstl : ∀ (d : BitVec 6) (a : BitVec 6) (b : BitVec 6) (c : BitVec 3) (f : BitVec 1), Sys2Proof.Laws.Encodable.Statement (.sstl d a b c f) := fun _ _ _ _ _ => .inl rfl
theorem Sys2Proof.Laws.Encodable.satadd : ∀ (d : BitVec 6) (a : BitVec 6) (b : BitVec 6) (c : BitVec 3) (f : BitVec 1), Sys2Proof.Laws.Encodable.Statement (.satadd d a b c f) := fun _ _ _ _ _ => .inl rfl
theorem Sys2Proof.Laws.Encodable.satcas : ∀ (d : BitVec 6) (a : BitVec 6) (b : BitVec 6) (c : BitVec 3) (f : BitVec 1), Sys2Proof.Laws.Encodable.Statement (.satcas d a b c f) := fun _ _ _ _ _ => .inl rfl
theorem Sys2Proof.Laws.Encodable.redv : ∀ (d : BitVec 6) (v : BitVec 7) (o : BitVec 3), Sys2Proof.Laws.Encodable.Statement (.redv d v o) := fun _ _ _ => .inl rfl
theorem Sys2Proof.Laws.Encodable.lmask : ∀ (d : BitVec 6) (p : BitVec 3) (k : BitVec 2), Sys2Proof.Laws.Encodable.Statement (.lmask d p k) := fun _ _ _ => .inl rfl
theorem Sys2Proof.Laws.Encodable.bcast : ∀ (d : BitVec 6) (v : BitVec 7) (b : BitVec 6) (m : BitVec 1), Sys2Proof.Laws.Encodable.Statement (.bcast d v b m) := fun _ _ _ _ => .inl rfl
theorem Sys2Proof.Laws.Encodable.br : ∀ (q : BitVec 3) (e : BitVec 1) (o : BitVec 20), Sys2Proof.Laws.Encodable.Statement (.br q e o) := fun _ _ _ => .inl rfl
theorem Sys2Proof.Laws.Encodable.brd : ∀ (p : BitVec 3) (e : BitVec 1) (o : BitVec 20), Sys2Proof.Laws.Encodable.Statement (.brd p e o) := fun _ _ _ => .inl rfl
theorem Sys2Proof.Laws.Encodable.setj : ∀ (o : BitVec 20), Sys2Proof.Laws.Encodable.Statement (.setj o) := fun _ => .inl rfl
theorem Sys2Proof.Laws.Encodable.call : ∀ (q : BitVec 3) (e : BitVec 1) (o : BitVec 20), Sys2Proof.Laws.Encodable.Statement (.call q e o) := fun _ _ _ => .inl rfl
theorem Sys2Proof.Laws.Encodable.ret : Sys2Proof.Laws.Encodable.Statement .ret := .inl rfl
theorem Sys2Proof.Laws.Encodable.bri : ∀ (a : BitVec 6) (b : BitVec 6), Sys2Proof.Laws.Encodable.Statement (.bri a b) := fun _ _ => .inl rfl
theorem Sys2Proof.Laws.Encodable.loop : ∀ (c : BitVec 6) (o : BitVec 18), Sys2Proof.Laws.Encodable.Statement (.loop c o) := fun _ _ => .inl rfl
theorem Sys2Proof.Laws.Encodable.loopi : ∀ (n : BitVec 12) (o : BitVec 12), Sys2Proof.Laws.Encodable.Statement (.loopi n o) := fun _ _ => .inl rfl
theorem Sys2Proof.Laws.Encodable.lbrk : ∀ (q : BitVec 3) (e : BitVec 1) (o : BitVec 20), Sys2Proof.Laws.Encodable.Statement (.lbrk q e o) := fun _ _ _ => .inl rfl
theorem Sys2Proof.Laws.Encodable.exit : Sys2Proof.Laws.Encodable.Statement .exit := .inl rfl
theorem Sys2Proof.Laws.Encodable.lnch : ∀ (d : BitVec 6) (a : BitVec 6) (b : BitVec 6) (f : BitVec 1), Sys2Proof.Laws.Encodable.Statement (.lnch d a b f) := fun _ _ _ _ => .inl rfl
theorem Sys2Proof.Laws.Encodable.bar : ∀ (a : BitVec 6) (c : BitVec 1) (n : BitVec 3), Sys2Proof.Laws.Encodable.Statement (.bar a c n) := fun _ _ _ => .inl rfl
theorem Sys2Proof.Laws.Encodable.barcv : ∀ (a : BitVec 6) (c : BitVec 1) (n : BitVec 2), Sys2Proof.Laws.Encodable.Statement (.barcv a c n) := fun _ _ _ => .inl rfl
theorem Sys2Proof.Laws.Encodable.arrv : ∀ (a : BitVec 6) (b : BitVec 6) (s : BitVec 3), Sys2Proof.Laws.Encodable.Statement (.arrv a b s) := fun _ _ _ => .inl rfl
theorem Sys2Proof.Laws.Encodable.bwait : ∀ (d : BitVec 6) (a : BitVec 6) (s : BitVec 3), Sys2Proof.Laws.Encodable.Statement (.bwait d a s) := fun _ _ _ => .inl rfl
theorem Sys2Proof.Laws.Encodable.waitw : ∀ (d : BitVec 6) (a : BitVec 6) (c : BitVec 3) (p : BitVec 3) (s : BitVec 3), Sys2Proof.Laws.Encodable.Statement (.waitw d a c p s) := fun _ _ _ _ _ => .inl rfl
theorem Sys2Proof.Laws.Encodable.fence : ∀ (s : BitVec 3) (k : BitVec 2), Sys2Proof.Laws.Encodable.Statement (.fence s k) := fun _ _ => .inl rfl
theorem Sys2Proof.Laws.Encodable.waitf : ∀ (f : BitVec 12), Sys2Proof.Laws.Encodable.Statement (.waitf f) := fun _ => .inl rfl
theorem Sys2Proof.Laws.Encodable.yield : Sys2Proof.Laws.Encodable.Statement .yield := .inl rfl
theorem Sys2Proof.Laws.Encodable.sleep : ∀ (a : BitVec 6) (i : BitVec 12), Sys2Proof.Laws.Encodable.Statement (.sleep a i) := fun _ _ => .inl rfl
theorem Sys2Proof.Laws.Encodable.macq : ∀ (f : BitVec 1) (t : BitVec 3) (p : BitVec 1) (d : BitVec 6), Sys2Proof.Laws.Encodable.Statement (.macq f t p d) := fun _ _ _ _ => .inl rfl
theorem Sys2Proof.Laws.Encodable.mrel : ∀ (f : BitVec 1) (t : BitVec 3) (p : BitVec 1), Sys2Proof.Laws.Encodable.Statement (.mrel f t p) := fun _ _ _ => .inl rfl
theorem Sys2Proof.Laws.Encodable.mzeroE : ∀ (f : BitVec 1) (t : BitVec 3), Sys2Proof.Laws.Encodable.Statement (.mzeroE f t) := fun _ _ => .inl rfl
theorem Sys2Proof.Laws.Encodable.mzeroAll : ∀ (f : BitVec 1) (t : BitVec 3), Sys2Proof.Laws.Encodable.Statement (.mzeroAll f t) := fun _ _ => .inl rfl
theorem Sys2Proof.Laws.Encodable.mma : ∀ (f : BitVec 1) (t : BitVec 3) (m : BitVec 3) (a : BitVec 6) (b : BitVec 6), Sys2Proof.Laws.Encodable.Statement (.mma f t m a b) := fun _ _ _ _ _ => .inl rfl
theorem Sys2Proof.Laws.Encodable.mmap : ∀ (f : BitVec 1) (t : BitVec 3) (m : BitVec 3) (a : BitVec 6) (b : BitVec 6), Sys2Proof.Laws.Encodable.Statement (.mmap f t m a b) := fun _ _ _ _ _ => .inl rfl
theorem Sys2Proof.Laws.Encodable.msca : ∀ (f : BitVec 1) (d : BitVec 3) (p : BitVec 3) (a : BitVec 6) (b : BitVec 6), Sys2Proof.Laws.Encodable.Statement (.msca f d p a b) := fun _ _ _ _ _ => .inl rfl
theorem Sys2Proof.Laws.Encodable.mld : ∀ (f : BitVec 1) (t : BitVec 3) (m : BitVec 2) (a : BitVec 6) (b : BitVec 6), Sys2Proof.Laws.Encodable.Statement (.mld f t m a b) := fun _ _ _ _ _ => .inl rfl
theorem Sys2Proof.Laws.Encodable.mst : ∀ (f : BitVec 1) (t : BitVec 3) (m : BitVec 2) (a : BitVec 6) (b : BitVec 6), Sys2Proof.Laws.Encodable.Statement (.mst f t m a b) := fun _ _ _ _ _ => .inl rfl
theorem Sys2Proof.Laws.Encodable.smxu : ∀ (f : BitVec 1) (o : BitVec 3) (s : BitVec 3) (p : BitVec 6) (k : BitVec 6) (x : BitVec 1) (m : BitVec 2), Sys2Proof.Laws.Encodable.Statement (.smxu f o s p k x m) := fun _ _ _ _ _ _ _ => .inl rfl
theorem Sys2Proof.Laws.Encodable.smxm : ∀ (f : BitVec 1) (a : BitVec 3) (b : BitVec 3) (p : BitVec 1), Sys2Proof.Laws.Encodable.Statement (.smxm f a b p) := fun _ _ _ _ => .inl rfl
theorem Sys2Proof.Laws.Encodable.smxn : ∀ (f : BitVec 1) (o : BitVec 3), Sys2Proof.Laws.Encodable.Statement (.smxn f o) := fun _ _ => .inl rfl
theorem Sys2Proof.Laws.Encodable.mstatSt : ∀ (f : BitVec 1) (t : BitVec 3) (a : BitVec 6), Sys2Proof.Laws.Encodable.Statement (.mstatSt f t a) := fun _ _ _ => .inl rfl
theorem Sys2Proof.Laws.Encodable.mstatLd : ∀ (f : BitVec 1) (t : BitVec 3) (a : BitVec 6), Sys2Proof.Laws.Encodable.Statement (.mstatLd f t a) := fun _ _ _ => .inl rfl
theorem Sys2Proof.Laws.Encodable.mstatRst : ∀ (f : BitVec 1) (t : BitVec 3), Sys2Proof.Laws.Encodable.Statement (.mstatRst f t) := fun _ _ => .inl rfl
theorem Sys2Proof.Laws.Encodable.xcv : ∀ (f : BitVec 1) (t : BitVec 3) (a : BitVec 6) (w : BitVec 6), Sys2Proof.Laws.Encodable.Statement (.xcv f t a w) := fun _ _ _ _ => .inl rfl
theorem Sys2Proof.Laws.Encodable.xadd : ∀ (f : BitVec 1) (d : BitVec 6) (s : BitVec 6) (c : BitVec 6), Sys2Proof.Laws.Encodable.Statement (.xadd f d s c) := fun _ _ _ _ => .inl rfl
theorem Sys2Proof.Laws.Encodable.xput : ∀ (f : BitVec 1) (a : BitVec 6) (b : BitVec 6) (c : BitVec 6), Sys2Proof.Laws.Encodable.Statement (.xput f a b c) := fun _ _ _ _ => .inl rfl
theorem Sys2Proof.Laws.Encodable.xrnd : ∀ (f : BitVec 1) (t : BitVec 3) (a : BitVec 6) (w : BitVec 6), Sys2Proof.Laws.Encodable.Statement (.xrnd f t a w) := fun _ _ _ _ => .inl rfl
theorem Sys2Proof.Laws.Encodable.cpy : ∀ (f : BitVec 1) (d : BitVec 6) (a : BitVec 6), Sys2Proof.Laws.Encodable.Statement (.cpy f d a) := fun _ _ _ => .inl rfl
theorem Sys2Proof.Laws.Encodable.cpy2d : ∀ (f : BitVec 1) (d : BitVec 6) (a : BitVec 6), Sys2Proof.Laws.Encodable.Statement (.cpy2d f d a) := fun _ _ _ => .inl rfl
theorem Sys2Proof.Laws.Encodable.cfill : ∀ (f : BitVec 1) (d : BitVec 6) (a : BitVec 6), Sys2Proof.Laws.Encodable.Statement (.cfill f d a) := fun _ _ _ => .inl rfl
theorem Sys2Proof.Laws.Encodable.gath : ∀ (f : BitVec 1) (d : BitVec 6) (a : BitVec 6), Sys2Proof.Laws.Encodable.Statement (.gath f d a) := fun _ _ _ => .inl rfl
theorem Sys2Proof.Laws.Encodable.cstat : ∀ (f : BitVec 1) (d : BitVec 6) (a : BitVec 6) (u : BitVec 2), Sys2Proof.Laws.Encodable.Statement (.cstat f d a u) := fun _ _ _ _ => .inl rfl
theorem Sys2Proof.Laws.Encodable.ccan : ∀ (f : BitVec 1) (a : BitVec 6) (u : BitVec 2), Sys2Proof.Laws.Encodable.Statement (.ccan f a u) := fun _ _ _ => .inl rfl
theorem Sys2Proof.Laws.Encodable.ostart : ∀ (f : BitVec 1) (n : BitVec 2) (a : BitVec 6) (b : BitVec 6) (d : BitVec 6), Sys2Proof.Laws.Encodable.Statement (.ostart f n a b d) := fun _ _ _ _ _ => .inl rfl
theorem Sys2Proof.Laws.Encodable.ostop : ∀ (f : BitVec 1) (n : BitVec 2), Sys2Proof.Laws.Encodable.Statement (.ostop f n) := fun _ _ => .inl rfl
theorem Sys2Proof.Laws.Encodable.opush : ∀ (f : BitVec 1) (n : BitVec 2) (a : BitVec 6) (c : BitVec 3), Sys2Proof.Laws.Encodable.Statement (.opush f n a c) := fun _ _ _ _ => .inl rfl
theorem Sys2Proof.Laws.Encodable.lease : ∀ (d : BitVec 6) (a : BitVec 6) (b : BitVec 6) (f : BitVec 1), Sys2Proof.Laws.Encodable.Statement (.lease d a b f) := fun _ _ _ _ => .inl rfl
theorem Sys2Proof.Laws.Encodable.lrel : ∀ (d : BitVec 6) (a : BitVec 6) (f : BitVec 1), Sys2Proof.Laws.Encodable.Statement (.lrel d a f) := fun _ _ _ => .inl rfl
theorem Sys2Proof.Laws.Encodable.lqry : ∀ (d : BitVec 6) (a : BitVec 6), Sys2Proof.Laws.Encodable.Statement (.lqry d a) := fun _ _ => .inl rfl
theorem Sys2Proof.Laws.Encodable.drain : ∀ (a : BitVec 6) (f : BitVec 1), Sys2Proof.Laws.Encodable.Statement (.drain a f) := fun _ _ => .inl rfl
theorem Sys2Proof.Laws.Encodable.drainAll : ∀ (a : BitVec 6) (f : BitVec 1), Sys2Proof.Laws.Encodable.Statement (.drainAll a f) := fun _ _ => .inl rfl
theorem Sys2Proof.Laws.Encodable.wbrd : ∀ (d : BitVec 6) (s : BitVec 7) (k : BitVec 3), Sys2Proof.Laws.Encodable.Statement (.wbrd d s k) := fun _ _ _ => .inl rfl
theorem Sys2Proof.Laws.Encodable.sysr : ∀ (d : BitVec 6) (r : BitVec 12), Sys2Proof.Laws.Encodable.Statement (.sysr d r) := fun _ _ => .inl rfl
theorem Sys2Proof.Laws.Encodable.sysw : ∀ (a : BitVec 6) (r : BitVec 12), Sys2Proof.Laws.Encodable.Statement (.sysw a r) := fun _ _ => .inl rfl
theorem Sys2Proof.Laws.Encodable.trap : ∀ (i : BitVec 18), Sys2Proof.Laws.Encodable.Statement (.trap i) := fun _ => .inl rfl
theorem Sys2Proof.Laws.Encodable.brk : ∀ (i : BitVec 18), Sys2Proof.Laws.Encodable.Statement (.brk i) := fun _ => .inl rfl
theorem Sys2Proof.Laws.Encodable.tret : Sys2Proof.Laws.Encodable.Statement .tret := .inl rfl
theorem Sys2Proof.Laws.Encodable.gpolIns : ∀ (d : BitVec 6) (a : BitVec 6), Sys2Proof.Laws.Encodable.Statement (.gpolIns d a) := fun _ _ => .inl rfl
theorem Sys2Proof.Laws.Encodable.gpolRev : ∀ (d : BitVec 6) (b : BitVec 6), Sys2Proof.Laws.Encodable.Statement (.gpolRev d b) := fun _ _ => .inl rfl
theorem Sys2Proof.Laws.Encodable.seal : ∀ (d : BitVec 6) (a : BitVec 6) (b : BitVec 6), Sys2Proof.Laws.Encodable.Statement (.seal d a b) := fun _ _ _ => .inl rfl
theorem Sys2Proof.Laws.Encodable.tlbiPage : ∀ (a : BitVec 6) (b : BitVec 6) (f : BitVec 1), Sys2Proof.Laws.Encodable.Statement (.tlbiPage a b f) := fun _ _ _ => .inl rfl
theorem Sys2Proof.Laws.Encodable.tlbiWorld : ∀ (a : BitVec 6) (f : BitVec 1), Sys2Proof.Laws.Encodable.Statement (.tlbiWorld a f) := fun _ _ => .inl rfl
theorem Sys2Proof.Laws.Encodable.tlbiPart : ∀ (a : BitVec 6) (f : BitVec 1), Sys2Proof.Laws.Encodable.Statement (.tlbiPart a f) := fun _ _ => .inl rfl
theorem Sys2Proof.Laws.Encodable.tlbiAll : ∀ (f : BitVec 1), Sys2Proof.Laws.Encodable.Statement (.tlbiAll f) := fun _ => .inl rfl
theorem Sys2Proof.Laws.Encodable.tlbiG2page : ∀ (a : BitVec 6) (b : BitVec 6) (f : BitVec 1), Sys2Proof.Laws.Encodable.Statement (.tlbiG2page a b f) := fun _ _ _ => .inl rfl
theorem Sys2Proof.Laws.Encodable.tlbiG2part : ∀ (a : BitVec 6) (f : BitVec 1), Sys2Proof.Laws.Encodable.Statement (.tlbiG2part a f) := fun _ _ => .inl rfl
theorem Sys2Proof.Laws.Encodable.scrub : ∀ (d : BitVec 6) (a : BitVec 6) (f : BitVec 1) (z : BitVec 2), Sys2Proof.Laws.Encodable.Statement (.scrub d a f z) := fun _ _ _ _ => .inl rfl
theorem Sys2Proof.Laws.Encodable.ctxsv : ∀ (d : BitVec 6) (a : BitVec 6) (f : BitVec 1), Sys2Proof.Laws.Encodable.Statement (.ctxsv d a f) := fun _ _ _ => .inl rfl
theorem Sys2Proof.Laws.Encodable.ctxld : ∀ (d : BitVec 6) (a : BitVec 6) (f : BitVec 1), Sys2Proof.Laws.Encodable.Statement (.ctxld d a f) := fun _ _ _ => .inl rfl
theorem Sys2Proof.Laws.Encodable.nop : Sys2Proof.Laws.Encodable.Statement .nop := .inl rfl
theorem Sys2Proof.Laws.Encodable.powerOn : Sys2Proof.Laws.Encodable.Statement .powerOn := .inr ⟨rfl, rfl, rfl⟩
theorem Sys2Proof.Laws.Encodable.thermalTrip : Sys2Proof.Laws.Encodable.Statement .thermalTrip := .inr ⟨rfl, rfl, rfl⟩
theorem Sys2Proof.Laws.Encodable.pcieFundamentalReset : Sys2Proof.Laws.Encodable.Statement .pcieFundamentalReset := .inr ⟨rfl, rfl, rfl⟩
theorem Sys2Proof.Laws.Encodable.pcieHotReset : Sys2Proof.Laws.Encodable.Statement .pcieHotReset := .inr ⟨rfl, rfl, rfl⟩
theorem Sys2Proof.Laws.Encodable.bcmdWarmReset : Sys2Proof.Laws.Encodable.Statement .bcmdWarmReset := .inr ⟨rfl, rfl, rfl⟩
theorem Sys2Proof.Laws.Encodable.rstctlWarm : Sys2Proof.Laws.Encodable.Statement .rstctlWarm := .inr ⟨rfl, rfl, rfl⟩
theorem Sys2Proof.Laws.Encodable.hostLinkTrain : Sys2Proof.Laws.Encodable.Statement .hostLinkTrain := .inr ⟨rfl, rfl, rfl⟩
theorem Sys2Proof.Laws.Encodable.hbmTrained : Sys2Proof.Laws.Encodable.Statement .hbmTrained := .inr ⟨rfl, rfl, rfl⟩
theorem Sys2Proof.Laws.Encodable.fullScrubComplete : Sys2Proof.Laws.Encodable.Statement .fullScrubComplete := .inr ⟨rfl, rfl, rfl⟩
theorem Sys2Proof.Laws.Encodable.firmwareVerified : Sys2Proof.Laws.Encodable.Statement .firmwareVerified := .inr ⟨rfl, rfl, rfl⟩
theorem Sys2Proof.Laws.Encodable.stagingAreaWrite : Sys2Proof.Laws.Encodable.Statement .stagingAreaWrite := .inr ⟨rfl, rfl, rfl⟩
theorem Sys2Proof.Laws.Encodable.bcmdSubmit : Sys2Proof.Laws.Encodable.Statement .bcmdSubmit := .inr ⟨rfl, rfl, rfl⟩
theorem Sys2Proof.Laws.Encodable.firmwareStart : Sys2Proof.Laws.Encodable.Statement .firmwareStart := .inr ⟨rfl, rfl, rfl⟩
theorem Sys2Proof.Laws.Encodable.powerSample : Sys2Proof.Laws.Encodable.Statement .powerSample := .inr ⟨rfl, rfl, rfl⟩
theorem Sys2Proof.Laws.Encodable.monoStore : Sys2Proof.Laws.Encodable.Statement .monoStore := .inr ⟨rfl, rfl, rfl⟩
theorem Sys2Proof.Laws.Encodable.systemRegisterWrite : Sys2Proof.Laws.Encodable.Statement .systemRegisterWrite := .inr ⟨rfl, rfl, rfl⟩
theorem Sys2Proof.Laws.Encodable.clauseStart : Sys2Proof.Laws.Encodable.Statement .clauseStart := .inr ⟨rfl, rfl, rfl⟩
theorem Sys2Proof.Laws.Encodable.tickExpiry : Sys2Proof.Laws.Encodable.Statement .tickExpiry := .inr ⟨rfl, rfl, rfl⟩
theorem Sys2Proof.Laws.Encodable.sliceExpiry : Sys2Proof.Laws.Encodable.Statement .sliceExpiry := .inr ⟨rfl, rfl, rfl⟩
theorem Sys2Proof.Laws.Encodable.sliceWaitTimeout : Sys2Proof.Laws.Encodable.Statement .sliceWaitTimeout := .inr ⟨rfl, rfl, rfl⟩
theorem Sys2Proof.Laws.Encodable.debugHalt : Sys2Proof.Laws.Encodable.Statement .debugHalt := .inr ⟨rfl, rfl, rfl⟩
theorem Sys2Proof.Laws.Encodable.debugResume : Sys2Proof.Laws.Encodable.Statement .debugResume := .inr ⟨rfl, rfl, rfl⟩
theorem Sys2Proof.Laws.Encodable.debugStep : Sys2Proof.Laws.Encodable.Statement .debugStep := .inr ⟨rfl, rfl, rfl⟩
theorem Sys2Proof.Laws.Encodable.pageWalk : Sys2Proof.Laws.Encodable.Statement .pageWalk := .inr ⟨rfl, rfl, rfl⟩
theorem Sys2Proof.Laws.Encodable.faultRepost : Sys2Proof.Laws.Encodable.Statement .faultRepost := .inr ⟨rfl, rfl, rfl⟩
theorem Sys2Proof.Laws.Encodable.faultAdmit : Sys2Proof.Laws.Encodable.Statement .faultAdmit := .inr ⟨rfl, rfl, rfl⟩
theorem Sys2Proof.Laws.Encodable.contextTake : Sys2Proof.Laws.Encodable.Statement .contextTake := .inr ⟨rfl, rfl, rfl⟩
theorem Sys2Proof.Laws.Encodable.directoryLookup : Sys2Proof.Laws.Encodable.Statement .directoryLookup := .inr ⟨rfl, rfl, rfl⟩
theorem Sys2Proof.Laws.Encodable.lookupAnswer : Sys2Proof.Laws.Encodable.Statement .lookupAnswer := .inr ⟨rfl, rfl, rfl⟩
theorem Sys2Proof.Laws.Encodable.lookupTimeout : Sys2Proof.Laws.Encodable.Statement .lookupTimeout := .inr ⟨rfl, rfl, rfl⟩
theorem Sys2Proof.Laws.Encodable.poolWaitTimeout : Sys2Proof.Laws.Encodable.Statement .poolWaitTimeout := .inr ⟨rfl, rfl, rfl⟩
theorem Sys2Proof.Laws.Encodable.eviction : Sys2Proof.Laws.Encodable.Statement .eviction := .inr ⟨rfl, rfl, rfl⟩
theorem Sys2Proof.Laws.Encodable.pinnedTimeout : Sys2Proof.Laws.Encodable.Statement .pinnedTimeout := .inr ⟨rfl, rfl, rfl⟩
theorem Sys2Proof.Laws.Encodable.scoreHalving : Sys2Proof.Laws.Encodable.Statement .scoreHalving := .inr ⟨rfl, rfl, rfl⟩
theorem Sys2Proof.Laws.Encodable.pageRead : Sys2Proof.Laws.Encodable.Statement .pageRead := .inr ⟨rfl, rfl, rfl⟩
theorem Sys2Proof.Laws.Encodable.fetchComplete : Sys2Proof.Laws.Encodable.Statement .fetchComplete := .inr ⟨rfl, rfl, rfl⟩
theorem Sys2Proof.Laws.Encodable.fetchTimeout : Sys2Proof.Laws.Encodable.Statement .fetchTimeout := .inr ⟨rfl, rfl, rfl⟩
theorem Sys2Proof.Laws.Encodable.replay : Sys2Proof.Laws.Encodable.Statement .replay := .inr ⟨rfl, rfl, rfl⟩
theorem Sys2Proof.Laws.Encodable.ownershipRequest : Sys2Proof.Laws.Encodable.Statement .ownershipRequest := .inr ⟨rfl, rfl, rfl⟩
theorem Sys2Proof.Laws.Encodable.invalidation : Sys2Proof.Laws.Encodable.Statement .invalidation := .inr ⟨rfl, rfl, rfl⟩
theorem Sys2Proof.Laws.Encodable.invalidationAck : Sys2Proof.Laws.Encodable.Statement .invalidationAck := .inr ⟨rfl, rfl, rfl⟩
theorem Sys2Proof.Laws.Encodable.invalidationTimeout : Sys2Proof.Laws.Encodable.Statement .invalidationTimeout := .inr ⟨rfl, rfl, rfl⟩
theorem Sys2Proof.Laws.Encodable.ownerWriteback : Sys2Proof.Laws.Encodable.Statement .ownerWriteback := .inr ⟨rfl, rfl, rfl⟩
theorem Sys2Proof.Laws.Encodable.pageWriteback : Sys2Proof.Laws.Encodable.Statement .pageWriteback := .inr ⟨rfl, rfl, rfl⟩
theorem Sys2Proof.Laws.Encodable.ownershipAnswer : Sys2Proof.Laws.Encodable.Statement .ownershipAnswer := .inr ⟨rfl, rfl, rfl⟩
theorem Sys2Proof.Laws.Encodable.ownershipTimeout : Sys2Proof.Laws.Encodable.Statement .ownershipTimeout := .inr ⟨rfl, rfl, rfl⟩
theorem Sys2Proof.Laws.Encodable.inboundAccess : Sys2Proof.Laws.Encodable.Statement .inboundAccess := .inr ⟨rfl, rfl, rfl⟩
theorem Sys2Proof.Laws.Encodable.wake : Sys2Proof.Laws.Encodable.Statement .wake := .inr ⟨rfl, rfl, rfl⟩
theorem Sys2Proof.Laws.Encodable.fail : Sys2Proof.Laws.Encodable.Statement .fail := .inr ⟨rfl, rfl, rfl⟩
theorem Sys2Proof.Laws.Encodable.answer : Sys2Proof.Laws.Encodable.Statement .answer := .inr ⟨rfl, rfl, rfl⟩
theorem Sys2Proof.Laws.Encodable.grant : Sys2Proof.Laws.Encodable.Statement .grant := .inr ⟨rfl, rfl, rfl⟩
theorem Sys2Proof.Laws.Encodable.refuse : Sys2Proof.Laws.Encodable.Statement .refuse := .inr ⟨rfl, rfl, rfl⟩
theorem Sys2Proof.Laws.Encodable.framePoolRead : Sys2Proof.Laws.Encodable.Statement .framePoolRead := .inr ⟨rfl, rfl, rfl⟩
theorem Sys2Proof.Laws.Encodable.frameReadServed : Sys2Proof.Laws.Encodable.Statement .frameReadServed := .inr ⟨rfl, rfl, rfl⟩
theorem Sys2Proof.Laws.Encodable.frameTryRead : Sys2Proof.Laws.Encodable.Statement .frameTryRead := .inr ⟨rfl, rfl, rfl⟩
theorem Sys2Proof.Laws.Encodable.writeBackStart : Sys2Proof.Laws.Encodable.Statement .writeBackStart := .inr ⟨rfl, rfl, rfl⟩
theorem Sys2Proof.Laws.Encodable.writeBackComplete : Sys2Proof.Laws.Encodable.Statement .writeBackComplete := .inr ⟨rfl, rfl, rfl⟩
theorem Sys2Proof.Laws.Encodable.hostBar2Write : Sys2Proof.Laws.Encodable.Statement .hostBar2Write := .inr ⟨rfl, rfl, rfl⟩
theorem Sys2Proof.Laws.Encodable.hostBar2Read : Sys2Proof.Laws.Encodable.Statement .hostBar2Read := .inr ⟨rfl, rfl, rfl⟩
theorem Sys2Proof.Laws.Encodable.hostCoreRead : Sys2Proof.Laws.Encodable.Statement .hostCoreRead := .inr ⟨rfl, rfl, rfl⟩
theorem Sys2Proof.Laws.Encodable.l2Request : Sys2Proof.Laws.Encodable.Statement .l2Request := .inr ⟨rfl, rfl, rfl⟩
theorem Sys2Proof.Laws.Encodable.l2Fill : Sys2Proof.Laws.Encodable.Statement .l2Fill := .inr ⟨rfl, rfl, rfl⟩
theorem Sys2Proof.Laws.Encodable.l1Fill : Sys2Proof.Laws.Encodable.Statement .l1Fill := .inr ⟨rfl, rfl, rfl⟩
theorem Sys2Proof.Laws.Encodable.hbmRequest : Sys2Proof.Laws.Encodable.Statement .hbmRequest := .inr ⟨rfl, rfl, rfl⟩
theorem Sys2Proof.Laws.Encodable.atomicUnitOp : Sys2Proof.Laws.Encodable.Statement .atomicUnitOp := .inr ⟨rfl, rfl, rfl⟩
theorem Sys2Proof.Laws.Encodable.patrolRead : Sys2Proof.Laws.Encodable.Statement .patrolRead := .inr ⟨rfl, rfl, rfl⟩
theorem Sys2Proof.Laws.Encodable.allocationZero : Sys2Proof.Laws.Encodable.Statement .allocationZero := .inr ⟨rfl, rfl, rfl⟩
theorem Sys2Proof.Laws.Encodable.waitwRecheck : Sys2Proof.Laws.Encodable.Statement .waitwRecheck := .inr ⟨rfl, rfl, rfl⟩
theorem Sys2Proof.Laws.Encodable.remoteAck : Sys2Proof.Laws.Encodable.Statement .remoteAck := .inr ⟨rfl, rfl, rfl⟩
theorem Sys2Proof.Laws.Encodable.remoteResponse : Sys2Proof.Laws.Encodable.Statement .remoteResponse := .inr ⟨rfl, rfl, rfl⟩
theorem Sys2Proof.Laws.Encodable.remoteTimeout : Sys2Proof.Laws.Encodable.Statement .remoteTimeout := .inr ⟨rfl, rfl, rfl⟩
theorem Sys2Proof.Laws.Encodable.targetTimeout : Sys2Proof.Laws.Encodable.Statement .targetTimeout := .inr ⟨rfl, rfl, rfl⟩
theorem Sys2Proof.Laws.Encodable.carrierPut : Sys2Proof.Laws.Encodable.Statement .carrierPut := .inr ⟨rfl, rfl, rfl⟩
theorem Sys2Proof.Laws.Encodable.flitReceive : Sys2Proof.Laws.Encodable.Statement .flitReceive := .inr ⟨rfl, rfl, rfl⟩
theorem Sys2Proof.Laws.Encodable.replayRequest : Sys2Proof.Laws.Encodable.Statement .replayRequest := .inr ⟨rfl, rfl, rfl⟩
theorem Sys2Proof.Laws.Encodable.missingSeqTimeout : Sys2Proof.Laws.Encodable.Statement .missingSeqTimeout := .inr ⟨rfl, rfl, rfl⟩
theorem Sys2Proof.Laws.Encodable.drainMarker : Sys2Proof.Laws.Encodable.Statement .drainMarker := .inr ⟨rfl, rfl, rfl⟩
theorem Sys2Proof.Laws.Encodable.drainAcknowledgement : Sys2Proof.Laws.Encodable.Statement .drainAcknowledgement := .inr ⟨rfl, rfl, rfl⟩
theorem Sys2Proof.Laws.Encodable.managerMessage : Sys2Proof.Laws.Encodable.Statement .managerMessage := .inr ⟨rfl, rfl, rfl⟩
theorem Sys2Proof.Laws.Encodable.laneGrant : Sys2Proof.Laws.Encodable.Statement .laneGrant := .inr ⟨rfl, rfl, rfl⟩
theorem Sys2Proof.Laws.Encodable.laneRelock : Sys2Proof.Laws.Encodable.Statement .laneRelock := .inr ⟨rfl, rfl, rfl⟩
theorem Sys2Proof.Laws.Encodable.leaseTermExpiry : Sys2Proof.Laws.Encodable.Statement .leaseTermExpiry := .inr ⟨rfl, rfl, rfl⟩
theorem Sys2Proof.Laws.Encodable.symbolWindow : Sys2Proof.Laws.Encodable.Statement .symbolWindow := .inr ⟨rfl, rfl, rfl⟩
theorem Sys2Proof.Laws.Encodable.retrainComplete : Sys2Proof.Laws.Encodable.Statement .retrainComplete := .inr ⟨rfl, rfl, rfl⟩
theorem Sys2Proof.Laws.Encodable.retrainFailure : Sys2Proof.Laws.Encodable.Statement .retrainFailure := .inr ⟨rfl, rfl, rfl⟩
theorem Sys2Proof.Laws.Encodable.ethernetResponse : Sys2Proof.Laws.Encodable.Statement .ethernetResponse := .inr ⟨rfl, rfl, rfl⟩
theorem Sys2Proof.Laws.Encodable.fbsync : Sys2Proof.Laws.Encodable.Statement .fbsync := .inr ⟨rfl, rfl, rfl⟩
theorem Sys2Proof.Laws.Encodable.quantumBoundary : Sys2Proof.Laws.Encodable.Statement .quantumBoundary := .inr ⟨rfl, rfl, rfl⟩
theorem Sys2Proof.Laws.Encodable.placement : Sys2Proof.Laws.Encodable.Statement .placement := .inr ⟨rfl, rfl, rfl⟩
theorem Sys2Proof.Laws.Encodable.placementTimeout : Sys2Proof.Laws.Encodable.Statement .placementTimeout := .inr ⟨rfl, rfl, rfl⟩
theorem Sys2Proof.Laws.Encodable.place : Sys2Proof.Laws.Encodable.Statement .place := .inr ⟨rfl, rfl, rfl⟩
theorem Sys2Proof.Laws.Encodable.defer : Sys2Proof.Laws.Encodable.Statement .defer := .inr ⟨rfl, rfl, rfl⟩
theorem Sys2Proof.Laws.Encodable.wakeupRecheck : Sys2Proof.Laws.Encodable.Statement .wakeupRecheck := .inr ⟨rfl, rfl, rfl⟩
theorem Sys2Proof.Laws.Encodable.launchComplete : Sys2Proof.Laws.Encodable.Statement .launchComplete := .inr ⟨rfl, rfl, rfl⟩
theorem Sys2Proof.Laws.Encodable.periodBoundary : Sys2Proof.Laws.Encodable.Statement .periodBoundary := .inr ⟨rfl, rfl, rfl⟩
theorem Sys2Proof.Laws.Encodable.ceilingReached : Sys2Proof.Laws.Encodable.Statement .ceilingReached := .inr ⟨rfl, rfl, rfl⟩
theorem Sys2Proof.Laws.Encodable.bandwidthWindow : Sys2Proof.Laws.Encodable.Statement .bandwidthWindow := .inr ⟨rfl, rfl, rfl⟩
theorem Sys2Proof.Laws.Encodable.engineCommit : Sys2Proof.Laws.Encodable.Statement .engineCommit := .inr ⟨rfl, rfl, rfl⟩
theorem Sys2Proof.Laws.Encodable.porterComplete : Sys2Proof.Laws.Encodable.Statement .porterComplete := .inr ⟨rfl, rfl, rfl⟩
theorem Sys2Proof.Laws.Encodable.engineRestart : Sys2Proof.Laws.Encodable.Statement .engineRestart := .inr ⟨rfl, rfl, rfl⟩
theorem Sys2Proof.Laws.Encodable.btcInvalidate : Sys2Proof.Laws.Encodable.Statement .btcInvalidate := .inr ⟨rfl, rfl, rfl⟩
theorem Sys2Proof.Laws.Encodable.orgload : Sys2Proof.Laws.Encodable.Statement .orgload := .inr ⟨rfl, rfl, rfl⟩
theorem Sys2Proof.Laws.Encodable.attest : Sys2Proof.Laws.Encodable.Statement .attest := .inr ⟨rfl, rfl, rfl⟩
theorem Sys2Proof.Laws.Encodable.attestNonceReceive : Sys2Proof.Laws.Encodable.Statement .attestNonceReceive := .inr ⟨rfl, rfl, rfl⟩
theorem Sys2Proof.Laws.Encodable.attestReportArrival : Sys2Proof.Laws.Encodable.Statement .attestReportArrival := .inr ⟨rfl, rfl, rfl⟩
theorem Sys2Proof.Laws.Encodable.attestTimeout : Sys2Proof.Laws.Encodable.Statement .attestTimeout := .inr ⟨rfl, rfl, rfl⟩
theorem Sys2Proof.Laws.Encodable.report : Sys2Proof.Laws.Encodable.Statement .report := .inr ⟨rfl, rfl, rfl⟩
theorem Sys2Proof.Laws.Encodable.ack : Sys2Proof.Laws.Encodable.Statement .ack := .inr ⟨rfl, rfl, rfl⟩
theorem Sys2Proof.Laws.Encodable.logrd : Sys2Proof.Laws.Encodable.Statement .logrd := .inr ⟨rfl, rfl, rfl⟩
theorem Sys2Proof.Laws.Encodable.trustCommandDone : Sys2Proof.Laws.Encodable.Statement .trustCommandDone := .inr ⟨rfl, rfl, rfl⟩
theorem Sys2Proof.Laws.Encodable.policyVerified : Sys2Proof.Laws.Encodable.Statement .policyVerified := .inr ⟨rfl, rfl, rfl⟩
theorem Sys2Proof.Laws.Encodable.policyExpiry : Sys2Proof.Laws.Encodable.Statement .policyExpiry := .inr ⟨rfl, rfl, rfl⟩
theorem Sys2Proof.Laws.Encodable.scrubEngineScrub : Sys2Proof.Laws.Encodable.Statement .scrubEngineScrub := .inr ⟨rfl, rfl, rfl⟩
theorem Sys2Proof.Laws.Encodable.frameRingWrite : Sys2Proof.Laws.Encodable.Statement .frameRingWrite := .inr ⟨rfl, rfl, rfl⟩
theorem Sys2Proof.Laws.Encodable.sleepExpiry : Sys2Proof.Laws.Encodable.Statement .sleepExpiry := .inr ⟨rfl, rfl, rfl⟩
theorem Sys2Proof.Laws.Encodable.tlbiComplete : Sys2Proof.Laws.Encodable.Statement .tlbiComplete := .inr ⟨rfl, rfl, rfl⟩
theorem Sys2Proof.Laws.Encodable.powerLoss : Sys2Proof.Laws.Encodable.Statement .powerLoss := .inr ⟨rfl, rfl, rfl⟩
theorem Sys2Proof.Laws.Encodable.bankAccess : Sys2Proof.Laws.Encodable.Statement .bankAccess := .inr ⟨rfl, rfl, rfl⟩
theorem Sys2Proof.Laws.Encodable.instructionCacheFill : Sys2Proof.Laws.Encodable.Statement .instructionCacheFill := .inr ⟨rfl, rfl, rfl⟩
theorem Sys2Proof.Laws.Encodable.constantCacheFill : Sys2Proof.Laws.Encodable.Statement .constantCacheFill := .inr ⟨rfl, rfl, rfl⟩
theorem Sys2Proof.Laws.Encodable.invalidationPinnedTimeout : Sys2Proof.Laws.Encodable.Statement .invalidationPinnedTimeout := .inr ⟨rfl, rfl, rfl⟩
theorem Sys2Proof.Laws.Encodable.directoryEntryUpdate : Sys2Proof.Laws.Encodable.Statement .directoryEntryUpdate := .inr ⟨rfl, rfl, rfl⟩
theorem Sys2Proof.Laws.Encodable.relinquish : Sys2Proof.Laws.Encodable.Statement .relinquish := .inr ⟨rfl, rfl, rfl⟩
end

