-- ==== Sys2Proof/Laws/Table.lean ====
section
/-! SUPPORT. Tables: what a write leaves readable, and that every operation keeps the canonical form. -/

namespace Sys2Proof.Machine

variable {α : Type}

/-! ### Reading after writing -/

@[simp] theorem tfind_terase (t : Table α) (k j : Nat) : tfind (terase t k) j = if j = k then none else tfind t j := by
  induction t with
  | nil => simp [terase, tfind]
  | cons e t ih =>
    obtain ⟨i, v⟩ := e
    unfold terase at ih ⊢
    by_cases hi : i = k
    · subst hi; simp only [ne_eq, not_true_eq_false, decide_false, Bool.false_eq_true, not_false_eq_true, List.filter_cons_of_neg, ih, tfind]
      by_cases hj : j = i
      · simp [hj]
      · simp [hj, Ne.symm hj]
    · simp only [ne_eq, hi, not_false_eq_true, decide_true, List.filter_cons_of_pos, tfind, ih]
      by_cases hj : i = j
      · subst hj; simp [hi]
      · simp [hj]

theorem tfind_tinsert (t : Table α) (k : Nat) (v : α) (j : Nat) (h : tfind t k = none) :
    tfind (tinsert k v t) j = if j = k then some v else tfind t j := by
  induction t with
  | nil => simp only [tinsert, tfind, eq_comm]
  | cons e t ih =>
    obtain ⟨i, w⟩ := e
    simp only [tfind] at h
    split at h
    · cases h
    · rename_i hi
      simp only [tinsert]
      split
      · by_cases hj : j = k
        · simp [tfind, hj]
        · simp [tfind, hj, Ne.symm hj]
      · by_cases hj : j = k
        · subst hj; simp [tfind, hi, ih h]
        · simp [tfind, ih h, hj]

@[simp] theorem tfind_tput (t : Table α) (k : Nat) (v : α) (j : Nat) : tfind (tput t k v) j = if j = k then some v else tfind t j := by
  rw [tput, tfind_tinsert _ _ _ _ (by simp), tfind_terase]
  split <;> simp_all

@[simp] theorem tget_tput (d : α) (t : Table α) (k : Nat) (v : α) (j : Nat) : tget d (tput t k v) j = if j = k then v else tget d t j := by
  simp only [tget, tfind_tput]; split <;> rfl

@[simp] theorem tget_terase (d : α) (t : Table α) (k j : Nat) : tget d (terase t k) j = if j = k then d else tget d t j := by
  simp only [tget, tfind_terase]; split <;> rfl

@[simp] theorem tget_tset [DecidableEq α] (d : α) (t : Table α) (k : Nat) (v : α) (j : Nat) :
    tget d (tset d t k v) j = if j = k then v else tget d t j := by
  unfold tset
  split
  · subst v; simp
  · simp

@[simp] theorem tget_nil (d : α) (k : Nat) : tget d ([] : Table α) k = d := rfl

/-! ### The canonical form -/

theorem wf_iff [DecidableEq α] (d : α) (t : Table α) :
    Table.wf d t = true ↔ t.Pairwise (fun a b => a.1 < b.1) ∧ ∀ e ∈ t, e.2 ≠ d := by
  simp [Table.wf]

theorem mem_tinsert (k : Nat) (v : α) (t : Table α) (e : Nat × α) : e ∈ tinsert k v t ↔ e = (k, v) ∨ e ∈ t := by
  induction t with
  | nil => simp [tinsert]
  | cons a t ih =>
    simp only [tinsert]
    split
    · simp
    · simp only [List.mem_cons, ih]; tauto

theorem sorted_tinsert (k : Nat) (v : α) (t : Table α) (h : t.Pairwise (fun a b => a.1 < b.1)) (hk : ∀ e ∈ t, e.1 ≠ k) :
    (tinsert k v t).Pairwise (fun a b => a.1 < b.1) := by
  induction t with
  | nil => simp [tinsert]
  | cons a t ih =>
    obtain ⟨i, w⟩ := a
    have hi : i ≠ k := hk (i, w) (by simp)
    rw [List.pairwise_cons] at h
    simp only [tinsert]
    split
    · rename_i hlt
      refine List.pairwise_cons.2 ⟨?_, List.pairwise_cons.2 h⟩
      intro e he
      rcases List.mem_cons.1 he with rfl | he
      · exact hlt
      · exact lt_trans hlt (h.1 e he)
    · rename_i hnlt
      refine List.pairwise_cons.2 ⟨?_, ih h.2 fun e he => hk e (List.mem_cons_of_mem _ he)⟩
      intro e he
      rcases (mem_tinsert _ _ _ _).1 he with rfl | he
      · simp only at hnlt ⊢; omega
      · exact h.1 e he

theorem terase_keeps_wf [DecidableEq α] {d : α} {t : Table α} (h : Table.wf d t = true) (k : Nat) : Table.wf d (terase t k) = true := by
  rw [wf_iff] at h ⊢
  exact ⟨h.1.filter _, fun e he => h.2 e (List.mem_filter.1 he).1⟩

theorem tput_keeps_wf [DecidableEq α] {d : α} {t : Table α} (h : Table.wf d t = true) (k : Nat) {v : α} (hv : v ≠ d) :
    Table.wf d (tput t k v) = true := by
  have h' := terase_keeps_wf h k
  rw [wf_iff] at h' ⊢
  refine ⟨sorted_tinsert _ _ _ h'.1 ?_, ?_⟩
  · intro e he
    have := (List.mem_filter.1 he).2
    simpa using this
  · intro e he
    rcases (mem_tinsert _ _ _ _).1 he with rfl | he
    · exact hv
    · exact h'.2 e he

theorem tset_keeps_wf [DecidableEq α] {d : α} {t : Table α} (h : Table.wf d t = true) (k : Nat) (v : α) : Table.wf d (tset d t k v) = true := by
  unfold tset
  split
  · exact terase_keeps_wf h k
  · rename_i hv; exact tput_keeps_wf h k hv

/-- Two canonical tables that read alike are the same data. -/
theorem wf_ext [DecidableEq α] {d : α} {t u : Table α} (ht : Table.wf d t = true) (hu : Table.wf d u = true)
    (h : ∀ k, tget d t k = tget d u k) : t = u := by
  rw [wf_iff] at ht hu
  have key : ∀ (x : Table α), x.Pairwise (fun a b => a.1 < b.1) → ∀ k v, (k, v) ∈ x → tfind x k = some v := by
    intro x
    induction x with
    | nil => simp
    | cons a x ih =>
      intro hp k v hm
      rw [List.pairwise_cons] at hp
      rcases List.mem_cons.1 hm with rfl | hm
      · simp [tfind]
      · have := hp.1 _ hm
        have hne : a.1 ≠ k := by simp only at this; omega
        simp [tfind, hne, ih hp.2 k v hm]
  have back : ∀ (x : Table α) k v, tfind x k = some v → (k, v) ∈ x := by
    intro x
    induction x with
    | nil => simp [tfind]
    | cons a x ih =>
      intro k v hf
      simp only [tfind] at hf
      split at hf
      · rename_i hk; cases hf; subst hk; simp
      · exact List.mem_cons_of_mem _ (ih k v hf)
  have sub : ∀ (x y : Table α), x.Pairwise (fun a b => a.1 < b.1) → (∀ e ∈ x, e.2 ≠ d) → (∀ k, tget d x k = tget d y k) → ∀ e ∈ x, e ∈ y := by
    intro x y hp hd hr e he
    obtain ⟨k, v⟩ := e
    have hx := key x hp k v he
    have hk := hr k
    simp only [tget, hx, Option.getD_some] at hk
    cases hy : tfind y k with
    | none => simp [hy] at hk; exact absurd hk (hd _ he)
    | some w => simp [hy] at hk; subst hk; exact back y k _ hy
  exact List.Perm.eq_of_pairwise (le := fun a b : Nat × α => a.1 < b.1) (fun a b _ _ h1 h2 => absurd h1 (by omega))
    ht.1 hu.1 ((List.perm_ext_iff_of_nodup (ht.1.imp fun h e => by simp [e] at h) (hu.1.imp fun h e => by simp [e] at h)).2
      fun e => ⟨sub t u ht.1 ht.2 h e, sub u t hu.1 hu.2 (fun k => (h k).symm) e⟩)

/-! ### Memory operations keep it (R35) -/

theorem foldl_tset_keeps_wf [DecidableEq α] {d : α} (f : Nat → Nat) (g : Nat → α) (l : List Nat) {t : Table α} (h : Table.wf d t = true) :
    Table.wf d (l.foldl (fun c k => tset d c (f k) (g k)) t) = true := by
  induction l generalizing t with
  | nil => exact h
  | cons a l ih => exact ih (tset_keeps_wf h _ _)

theorem putRaw_keeps_wf {m : MemS} (h : Table.wf (0 : Byte) m.hbm = true) (hl : Nat) (d : Line) : Table.wf (0 : Byte) (putRaw m hl d).hbm = true := by
  unfold putRaw
  dsimp only
  exact foldl_tset_keeps_wf (fun k => hl * 128 + k) (fun k => BitVec.ofNat 8 (lineGet d k 1)) (List.range 128) h

theorem writeKeyed_keeps_wf {m : MemS} (h : Table.wf (0 : Byte) m.hbm = true) (hl k w : Nat) (d : Line) :
    Table.wf (0 : Byte) (writeKeyed m hl k w d).hbm = true := by
  unfold writeKeyed
  dsimp only
  exact putRaw_keeps_wf h hl d

theorem zeroLine_keeps_wf {m : MemS} (h : Table.wf (0 : Byte) m.hbm = true) (hl : Nat) : Table.wf (0 : Byte) (zeroLine m hl).hbm = true := by
  unfold zeroLine
  dsimp only
  exact putRaw_keeps_wf h hl 0

theorem setHbmPoison_hbm (m : MemS) (hl p : Nat) : (setHbmPoison m hl p).hbm = m.hbm := rfl

theorem onFill_hbm (m : MemS) (i : Bool) (t l : Nat) (f : Line × Bool × Waybill × Nat → Line × Bool × Waybill × Nat) :
    (onFill m i t l f).hbm = m.hbm := rfl

theorem charge_hbm (s : State) (k : Nat) (q : Option Nat) : (s.charge k q).mem.hbm = s.mem.hbm := by
  unfold State.charge State.chargeLines
  split <;> rfl

theorem hostWrite_keeps_wf {s : State} (h : Table.wf (0 : Byte) s.mem.hbm = true) (a n v : Nat) :
    Table.wf (0 : Byte) (s.hostWrite a n v).mem.hbm = true := by
  unfold State.hostWrite
  split
  · exact h
  · dsimp only
    rw [onFill_hbm]
    exact writeKeyed_keeps_wf h _ _ _ _

theorem setGran_keeps_wf {s : State} (h : Table.wf (0 : Byte) s.mem.hbm = true) (g : Nat) (e : Word) :
    Table.wf (0 : Byte) (s.setGran g e).mem.hbm = true := by
  unfold State.setGran
  split
  · exact h
  · exact hostWrite_keeps_wf h _ _ _

theorem orGranWb_keeps_wf {s : State} (h : Table.wf (0 : Byte) s.mem.hbm = true) (a : Nat) (w : Waybill) :
    Table.wf (0 : Byte) (s.orGranWb a w).mem.hbm = true := by
  unfold State.orGranWb
  split
  · exact h
  · exact setGran_keeps_wf h _ _

theorem markDirty_keeps_wf {s : State} (h : Table.wf (0 : Byte) s.mem.hbm = true) (p a : Nat) :
    Table.wf (0 : Byte) (s.markDirty p a).mem.hbm = true := by
  unfold State.markDirty
  simp only
  split
  · exact h
  · split
    · exact h
    · split
      · exact h
      · exact hostWrite_keeps_wf h _ _ _

theorem markDirtyFor_keeps_wf {s : State} (h : Table.wf (0 : Byte) s.mem.hbm = true) (i : Bool) (t a : Nat) :
    Table.wf (0 : Byte) (s.markDirtyFor i t a).mem.hbm = true := by
  unfold State.markDirtyFor
  split
  · exact h
  · split
    · exact h
    · exact markDirty_keeps_wf h _ _

theorem refill_keeps_wf {s : State} (h : Table.wf (0 : Byte) s.mem.hbm = true) (i : Bool) (t l : Nat) :
    Table.wf (0 : Byte) (s.refill i t l).mem.hbm = true := by
  unfold State.refill
  split <;> exact h

theorem storeLine_keeps_wf {s : State} (h : Table.wf (0 : Byte) s.mem.hbm = true) (i : Bool) (t l : Nat) (d : Line) (w : Waybill) (p : Nat) :
    Table.wf (0 : Byte) (s.storeLine i t l d w p).mem.hbm = true := by
  unfold State.storeLine
  split
  · exact h
  · split
    · dsimp only
      rw [charge_hbm]
      refine refill_keeps_wf (markDirtyFor_keeps_wf (orGranWb_keeps_wf ?_ _ _) _ _ _) _ _ _
      dsimp only
      rw [setHbmPoison_hbm]
      exact writeKeyed_keeps_wf h _ _ _ _
    · exact h

theorem cleanL2_keeps_wf {s : State} (h : Table.wf (0 : Byte) s.mem.hbm = true) (i : Bool) (t l : Nat) :
    Table.wf (0 : Byte) (s.cleanL2 i t l).mem.hbm = true := by
  unfold State.cleanL2
  split
  · exact h
  · split
    · exact storeLine_keeps_wf h _ _ _ _ _ _
    · exact h

theorem installL2_keeps_wf {s : State} (h : Table.wf (0 : Byte) s.mem.hbm = true) (i : Bool) (t l : Nat) (g : Line × Bool × Waybill × Nat) :
    Table.wf (0 : Byte) (s.installL2 i t l g).mem.hbm = true := by
  unfold State.installL2 State.evictFor
  simp only
  split
  · split
    · exact h
    · exact cleanL2_keeps_wf h _ _ _
  · exact h

end Sys2Proof.Machine
end

