-- ==== Sys2Proof/Laws/Results.lean ====
section
/-! SUPPORT. What the shared operations leave: an instruction that is ready acts, a completed one goes on, and the writes of lane, predicate
and uniform registers give the results of Safety.lean. -/

namespace Sys2Proof.Machine

/-! ### Issuing and going on -/

theorem ready_iff (i : Instr) (s : State) : ready i s = true ↔
    s.str? s.curUnit = some s.cur ∧ legal s.cur i = true ∧ minLevel i ≤ s.curp.level ∧ (oncePerString i && s.cur.diverged) = false ∧
      poisonedRead s.cur i = none := by
  unfold ready State.cur
  cases h : s.str? s.curUnit <;> simp [and_assoc, Option.isNone_iff_eq_none, Bool.or_eq_true, or_iff_not_imp_left]

theorem issuedAt_ready {i : Instr} {s : State} (h : ready i s = true) (x y : Str → Path → Bool) (k : Str → Path → Out)
    (hx : x s.cur s.curp = false) (hy : y s.cur s.curp = false) : issuedAt i s x y k = k s.cur s.curp := by
  obtain ⟨h1, h2, h3, h4, h5⟩ := (ready_iff i s).1 h
  have hp : s.cur.path s.curPath = s.curp := rfl
  unfold issuedAt
  simp only [h1, hp, h2, h4, h5, hx, hy, Nat.not_lt.2 h3, Bool.not_true, Bool.or_self, Bool.false_eq_true, or_self, if_false, ite_self]
  rfl

theorem issuedIf_ready {i : Instr} {s : State} (h : ready i s = true) (x : Str → Path → Bool) (k : Str → Path → Out)
    (hx : x s.cur s.curp = false) : issuedIf i s x k = k s.cur s.curp := issuedAt_ready h x _ k hx rfl

theorem issued_ready {i : Instr} {s : State} (h : ready i s = true) (k : Str → Path → Out) : issued i s k = k s.cur s.curp :=
  issuedIf_ready h _ k rfl

theorem finish_goOn (s : State) (t : Str) (p : Path) : finish s t p = .next (s.goOn t p) := rfl

@[simp] theorem putStr_curUnit (s : State) (u : Nat) (t : Str) : (s.putStr u t).curUnit = s.curUnit := rfl
@[simp] theorem putStr_curPath (s : State) (u : Nat) (t : Str) : (s.putStr u t).curPath = s.curPath := rfl
@[simp] theorem putStr_str (s : State) (u v : Nat) (t : Str) : (s.putStr u t).str? v = if v = u then some t else s.str? v := by
  simp [State.str?, State.putStr]
@[simp] theorem putStr_cur (s : State) (t : Str) : (s.putStr s.curUnit t).cur = t := by simp [State.cur]
@[simp] theorem putCur_cur (s : State) (t : Str) (p : Path) : (s.putCur t p).cur = t.setPath s.curPath p := by simp [State.putCur]
@[simp] theorem goOn_cur (s : State) (t : Str) (p : Path) : (s.goOn t p).cur = (advance t p).1.setPath s.curPath (advance t p).2 := by
  simp [State.goOn]

@[simp] theorem setPath_path (t : Str) (b : Bool) (p : Path) : (t.setPath b p).path b = p := by cases b <;> rfl
@[simp] theorem setPath_path_not (t : Str) (b : Bool) (p : Path) : (t.setPath b p).path (!b) = t.path (!b) := by cases b <;> rfl

/-- Going on changes the repeat index and the path, and nothing else. -/
theorem advance_fst (t : Str) (p : Path) : (advance t p).1 = { t with repidx := (advance t p).1.repidx } := by
  unfold advance
  split
  · split <;> rfl
  · rfl

/-- What going on does depends on the string through the repeat index alone. -/
theorem advance_congr {t u : Str} (h : t.repidx = u.repidx) (p : Path) :
    (advance t p).2 = (advance u p).2 ∧ (advance t p).1.repidx = (advance u p).1.repidx := by
  unfold advance
  split
  · rw [h]; split <;> simp
  · simp [h]

/-! ### Lane registers -/

theorem vget_vput (t : Str) (r l : Nat) (w : Word) (r' l' : Nat) (h : l < 32) (h' : l' < 32) :
    (t.vput r l w).vget r' l' = if r' = r ∧ l' = l then w else t.vget r' l' := by
  have : (32 * r' + l' = 32 * r + l) ↔ (r' = r ∧ l' = l) := by omega
  simp [Str.vput, Str.vget, this]

/-- The fields a lane write touches. -/
def Str.onVec (t : Str) (v : Table Word) (vwb : Table Waybill) (rp : List Nat) : Str := { t with v := v, vwb := vwb, regPoison := rp }

theorem vputGroup_get (t : Str) (r l : Nat) (x : Nat) (hl : l < 32) (ks : List Nat) (r' l' : Nat) (h' : l' < 32) :
    (ks.foldl (fun t k => t.vput (r + k) l (BitVec.ofNat 32 (x / 2 ^ (32 * k)))) t).vget r' l' =
      if l' = l ∧ r ≤ r' ∧ r' - r ∈ ks then BitVec.ofNat 32 (x / 2 ^ (32 * (r' - r))) else t.vget r' l' := by
  induction ks generalizing t with
  | nil => simp
  | cons k ks ih =>
    rw [List.foldl_cons, ih, vget_vput _ _ _ _ _ _ hl h']
    by_cases h1 : l' = l ∧ r ≤ r' ∧ r' - r ∈ ks
    · simp [h1]
    · rw [if_neg h1]
      by_cases h2 : r' = r + k ∧ l' = l
      · obtain ⟨rfl, rfl⟩ := h2; simp
      · rw [if_neg h2, if_neg]
        rintro ⟨rfl, hr, hm⟩
        rcases List.mem_cons.1 hm with e | e
        · exact h2 ⟨by omega, rfl⟩
        · exact h1 ⟨rfl, hr, e⟩

theorem vputGroup_frame (t : Str) (r l : Nat) (x : Nat) (ks : List Nat) :
    ks.foldl (fun t k => t.vput (r + k) l (BitVec.ofNat 32 (x / 2 ^ (32 * k)))) t =
      { t with v := (ks.foldl (fun t k => t.vput (r + k) l (BitVec.ofNat 32 (x / 2 ^ (32 * k)))) t).v } := by
  induction ks generalizing t with
  | nil => rfl
  | cons k ks ih =>
    rw [List.foldl_cons, ih]
    rfl

theorem mem_lanesOf (m : Lanes) (l : Nat) : l ∈ lanesOf m ↔ l < 32 ∧ lane m l = true := by
  simp [lanesOf]

theorem vputLanes_get (t : Str) (r n : Nat) (m : Lanes) (f : Nat → Nat) (r' l' : Nat) (h' : l' < 32) :
    (t.vputLanes r n m f).vget r' l' =
      if r ≤ r' ∧ r' < r + n ∧ lane m l' then BitVec.ofNat 32 (f l' / 2 ^ (32 * (r' - r))) else t.vget r' l' := by
  have key : ∀ (ls : List Nat) (t : Str), (∀ l ∈ ls, l < 32) →
      (ls.foldl (fun t l => (List.range n).foldl (fun t k => t.vput (r + k) l (BitVec.ofNat 32 (f l / 2 ^ (32 * k)))) t) t).vget r' l' =
        if r ≤ r' ∧ r' < r + n ∧ l' ∈ ls then BitVec.ofNat 32 (f l' / 2 ^ (32 * (r' - r))) else t.vget r' l' := by
    intro ls
    induction ls with
    | nil => intro t _; simp
    | cons l ls ih =>
      intro t hl
      rw [List.foldl_cons, ih _ (fun x hx => hl x (List.mem_cons_of_mem _ hx)), vputGroup_get _ _ _ _ (hl l (by simp)) _ _ _ h']
      simp only [List.mem_range, List.mem_cons]
      by_cases h1 : r ≤ r' ∧ r' < r + n ∧ l' ∈ ls
      · simp [h1]
      · rw [if_neg h1]
        by_cases h2 : l' = l ∧ r ≤ r' ∧ r' - r < n
        · obtain ⟨rfl, h2, h3⟩ := h2
          rw [if_pos ⟨rfl, h2, h3⟩, if_pos ⟨h2, by omega, Or.inl rfl⟩]
        · rw [if_neg h2, if_neg]
          rintro ⟨h3, h4, h5 | h5⟩
          · exact h2 ⟨h5, h3, by omega⟩
          · exact h1 ⟨h3, h4, h5⟩
  rw [Str.vputLanes, key _ _ (fun l hl => ((mem_lanesOf m l).1 hl).1)]
  simp [mem_lanesOf, h']

theorem vputLanes_frame (t : Str) (r n : Nat) (m : Lanes) (f : Nat → Nat) :
    t.vputLanes r n m f = { t with v := (t.vputLanes r n m f).v } := by
  have key : ∀ (ls : List Nat) (t : Str),
      ls.foldl (fun t l => (List.range n).foldl (fun t k => t.vput (r + k) l (BitVec.ofNat 32 (f l / 2 ^ (32 * k)))) t) t =
        { t with v := (ls.foldl (fun t l => (List.range n).foldl (fun t k => t.vput (r + k) l (BitVec.ofNat 32 (f l / 2 ^ (32 * k)))) t) t).v } := by
    intro ls
    induction ls with
    | nil => intro t; rfl
    | cons l ls ih =>
      intro t
      rw [List.foldl_cons, ih]
      rw [vputGroup_frame]
  exact key _ t

theorem vputWb_succ (t : Str) (r n : Nat) (full : Bool) (b : Nat → Waybill) :
    t.vputWb r (n + 1) full b =
      { t.vputWb r n full b with
        vwb := tset 0 (t.vputWb r n full b).vwb (r + n) (b (r + n))
        regPoison := if full then (t.vputWb r n full b).regPoison.filter (fun x => decide (x ≠ r + n)) else (t.vputWb r n full b).regPoison } := by
  simp only [Str.vputWb, List.range_succ, List.foldl_append, List.foldl_cons, List.foldl_nil]

theorem vputWb_spec (t : Str) (r n : Nat) (full : Bool) (b : Nat → Waybill) :
    t.vputWb r n full b = { t with vwb := (t.vputWb r n full b).vwb, regPoison := (t.vputWb r n full b).regPoison } ∧
    (∀ x, (t.vputWb r n full b).vw x = if r ≤ x ∧ x < r + n then b x else t.vw x) ∧
    (∀ x, x ∈ (t.vputWb r n full b).regPoison ↔ x ∈ t.regPoison ∧ ¬(full = true ∧ r ≤ x ∧ x < r + n)) := by
  induction n with
  | zero => exact ⟨rfl, fun x => (if_neg (by omega)).symm, fun x => ⟨fun h => ⟨h, by omega⟩, fun h => h.1⟩⟩
  | succ n ih =>
    obtain ⟨h1, h2, h3⟩ := ih
    rw [vputWb_succ]
    generalize t.vputWb r n full b = u at h1 h2 h3 ⊢
    refine ⟨by rw [h1], ?_, ?_⟩
    · intro x
      have := h2 x
      simp only [Str.vw] at this
      simp only [Str.vw, tget_tset, this]
      by_cases hx : x = r + n
      · subst hx; rw [if_pos rfl, if_pos ⟨by omega, by omega⟩]
      · rw [if_neg hx]
        by_cases h4 : r ≤ x ∧ x < r + n
        · rw [if_pos h4, if_pos ⟨h4.1, by omega⟩]
        · rw [if_neg h4, if_neg (by omega)]
    · intro x
      cases full
      · simpa using h3 x
      · simp only [if_true, List.mem_filter, h3 x, decide_eq_true_eq, true_and]
        constructor
        · rintro ⟨⟨h4, h5⟩, h6⟩; exact ⟨h4, by omega⟩
        · rintro ⟨h4, h5⟩; exact ⟨⟨h4, by omega⟩, by omega⟩

/-- A lane write, once its path has gone on, is a lane result; `y` is the string's registers with the flags raised. -/
theorem lane_result_sys (s : State) (d n : Nat) (src : Waybill) (f : Nat → Nat) (fl : Word) (y : Table Dword)
    (hy : ∀ k, tget 0 y k = if k = 0x0B1 then s.cur.reg k ||| fl.setWidth 64 else s.cur.reg k) :
    LaneResult s (s.goOn { writeLanes s.cur s.curp d n src f with sys := y } s.curp) d n src f fl := by
  obtain ⟨w1, w2, w3⟩ := vputWb_spec (s.cur.vputLanes d n s.curp.cmask f) d n (decide (s.curp.cmask &&& s.cur.lmask = s.cur.lmask))
    (fun x => laneWb s.cur s.curp src (s.cur.vw x))
  have v1 := vputLanes_frame s.cur d n s.curp.cmask f
  have hw : writeLanes s.cur s.curp d n src f = (s.cur.vputLanes d n s.curp.cmask f).vputWb d n
    (decide (s.curp.cmask &&& s.cur.lmask = s.cur.lmask)) (fun x => laneWb s.cur s.curp src (s.cur.vw x)) := rfl
  rw [hw]
  set u := (s.cur.vputLanes d n s.curp.cmask f).vputWb d n (decide (s.curp.cmask &&& s.cur.lmask = s.cur.lmask))
    (fun x => laneWb s.cur s.curp src (s.cur.vw x)) with hu
  have huf : u = { s.cur with v := u.v, vwb := u.vwb, regPoison := u.regPoison } := by rw [w1, v1]
  have hv : ∀ r l, u.vget r l = (s.cur.vputLanes d n s.curp.cmask f).vget r l := by
    intro r l; rw [w1]; rfl
  have hrep : ({ u with sys := y } : Str).repidx = s.cur.repidx := by
    have := congrArg Str.repidx huf; exact this
  obtain ⟨a1, a2⟩ := advance_congr hrep s.curp
  have hcur : (s.goOn { u with sys := y } s.curp).cur =
      ({ u with sys := y, repidx := (advance s.cur s.curp).1.repidx } : Str).setPath s.curPath (advance s.cur s.curp).2 := by
    rw [goOn_cur, advance_fst, a1, a2]
  refine ⟨?_, ?_, ?_, ?_, ?_, ?_, ?_⟩
  · rw [goOn_cur]; rfl
  · intro r l hl
    rw [hcur, show ((_ : Str).setPath _ _).vget r l = u.vget r l by cases s.curPath <;> rfl, hv, vputLanes_get _ _ _ _ _ _ _ hl]
  · intro r
    rw [hcur, show ((_ : Str).setPath _ _).vw r = u.vw r by cases s.curPath <;> rfl, w2]
    rw [show (s.cur.vputLanes d n s.curp.cmask f).vw r = s.cur.vw r by rw [v1]; rfl]
    rfl
  · intro r
    rw [hcur, show ((_ : Str).setPath _ _).regPoison = u.regPoison by cases s.curPath <;> rfl, w3]
    rw [show (s.cur.vputLanes d n s.curp.cmask f).regPoison = s.cur.regPoison by rw [v1]]
    simp
  · intro k
    rw [hcur, show ((_ : Str).setPath _ _).reg k = tget 0 y k by cases s.curPath <;> rfl]
    exact hy k
  · refine ⟨?_, ?_, ?_⟩
    · rw [hcur, setPath_path]
    · rw [hcur, setPath_path_not]
      rw [huf]; cases s.curPath <;> rfl
    · rw [hcur]; cases s.curPath <;> rfl
  · rw [hcur]
    rw [huf]
    cases s.curPath <;> rfl

theorem orFlags_reg (t : Str) (fl : Word) (k : Nat) : (t.orFlags fl).reg k = if k = 0x0B1 then t.reg k ||| fl.setWidth 64 else t.reg k := by
  simp only [Str.orFlags, Str.setReg, Str.reg, tget_tset]
  by_cases hk : k = 0x0B1
  · rw [if_pos hk, if_pos hk, hk]
  · rw [if_neg hk, if_neg hk]

theorem or_no_flags (s : State) (k : Nat) : tget 0 s.cur.sys k = if k = 0x0B1 then s.cur.reg k ||| (0 : Word).setWidth 64 else s.cur.reg k := by
  split <;> simp [Str.reg]

theorem writeLanes_sys (t : Str) (p : Path) (d n : Nat) (src : Waybill) (f : Nat → Nat) : (writeLanes t p d n src f).sys = t.sys := by
  obtain ⟨w1, -, -⟩ := vputWb_spec (t.vputLanes d n p.cmask f) d n (decide (p.cmask &&& t.lmask = t.lmask)) (fun x => laneWb t p src (t.vw x))
  have hw : writeLanes t p d n src f = (t.vputLanes d n p.cmask f).vputWb d n (decide (p.cmask &&& t.lmask = t.lmask))
    (fun x => laneWb t p src (t.vw x)) := rfl
  rw [hw, w1, vputLanes_frame]

/-- Without flags. -/
theorem lane_result (s : State) (d n : Nat) (src : Waybill) (f : Nat → Nat) :
    LaneResult s (s.goOn (writeLanes s.cur s.curp d n src f) s.curp) d n src f 0 := by
  have := lane_result_sys s d n src f 0 s.cur.sys (or_no_flags s)
  rwa [show ({ writeLanes s.cur s.curp d n src f with sys := s.cur.sys } : Str) = writeLanes s.cur s.curp d n src f by
    rw [← writeLanes_sys s.cur s.curp d n src f]] at this

/-- With flags. -/
theorem lane_result_flags (s : State) (d n : Nat) (src : Waybill) (f : Nat → Nat) (fl : Word) :
    LaneResult s (s.goOn ((writeLanes s.cur s.curp d n src f).orFlags fl) s.curp) d n src f fl := by
  refine lane_result_sys s d n src f fl ((writeLanes s.cur s.curp d n src f).orFlags fl).sys fun k => ?_
  have h := orFlags_reg (writeLanes s.cur s.curp d n src f) fl k
  simp only [Str.reg] at h ⊢
  rw [h, writeLanes_sys]

/-- A lane result is said lane by lane. -/
theorem LaneResult.congr {s s' : State} {d n : Nat} {w w' : Waybill} {f g : Nat → Nat} {fl fl' : Word} (h : LaneResult s s' d n w f fl)
    (hw : w' = w) (hf : ∀ l, l < 32 → g l = f l) (hfl : fl' = fl) : LaneResult s s' d n w' g fl' := by
  subst hw hfl
  exact ⟨h.rest, fun r l hl => by rw [h.value r l hl, hf l hl], h.waybill, h.poison, h.sys, h.path, h.frame⟩

theorem PredResult.congr {s s' : State} {n : Nat} {w w' : Waybill} {f g : Nat → Bool} {fl fl' : Word} (h : PredResult s s' n w f fl)
    (hw : w' = w) (hf : ∀ l, l < 32 → g l = f l) (hfl : fl' = fl) : PredResult s s' n w' g fl' := by
  subst hw hfl
  exact ⟨h.rest, fun k l hl => by rw [h.value k l hl, hf l hl], h.waybill, h.sys, h.path, h.frame⟩

/-! ### Predicates -/

theorem laneMask_get (f : Nat → Bool) (l : Nat) (h : l < 32) : lane (laneMask f) l = f l := by
  have key : ∀ (ls : List Nat) (m : Lanes), (∀ x ∈ ls, x < 32) →
      (ls.foldl (fun acc l => if f l then acc ||| BitVec.ofNat 32 (2 ^ l) else acc) m).getLsbD l = (m.getLsbD l || (decide (l ∈ ls) && f l)) := by
    intro ls
    induction ls with
    | nil => intro m _; simp
    | cons x ls ih =>
      intro m hx
      rw [List.foldl_cons, ih _ (fun y hy => hx y (List.mem_cons_of_mem _ hy))]
      have hx' := hx x (by simp)
      by_cases hf : f x
      · have : (BitVec.ofNat 32 (2 ^ x)).getLsbD l = decide (l = x) := by
          rw [BitVec.getLsbD_ofNat, Nat.testBit_two_pow]; simp [h, eq_comm]
        simp only [hf, if_true, BitVec.getLsbD_or, this, List.mem_cons]
        by_cases he : l = x
        · subst he; simp [hf]
        · simp [he]
      · simp only [hf, Bool.false_eq_true, if_false, List.mem_cons]
        by_cases he : l = x
        · subst he; simp [hf]
        · simp [he]
  unfold lane laneMask
  rw [key _ _ (fun x hx => List.mem_range.1 hx)]
  simp [h]

/-- A predicate write, once its path has gone on, is a predicate result; `y` is the string's registers with the flags raised. -/
theorem pred_result_sys (s : State) (n : Nat) (src : Waybill) (f : Nat → Bool) (fl : Word) (y : Table Dword)
    (hy : ∀ k, tget 0 y k = if k = 0x0B1 then s.cur.reg k ||| fl.setWidth 64 else s.cur.reg k) :
    PredResult s (s.goOn { writePred s.cur s.curp n src f with sys := y } s.curp) n src f fl := by
  set u := writePred s.cur s.curp n src f with hu
  have huf : u = { s.cur with p := u.p, pwb := u.pwb } := by rw [hu]; unfold writePred; split <;> rfl
  have hrep : ({ u with sys := y } : Str).repidx = s.cur.repidx := by
    have := congrArg Str.repidx huf; exact this
  obtain ⟨a1, a2⟩ := advance_congr hrep s.curp
  have hcur : (s.goOn { u with sys := y } s.curp).cur =
      ({ u with sys := y, repidx := (advance s.cur s.curp).1.repidx } : Str).setPath s.curPath (advance s.cur s.curp).2 := by
    rw [goOn_cur, advance_fst, a1, a2]
  refine ⟨?_, ?_, ?_, ?_, ?_, ?_⟩
  · rw [goOn_cur]; rfl
  · intro k l hl
    rw [hcur, show ((_ : Str).setPath _ _).pget k = u.pget k by cases s.curPath <;> rfl, hu]
    unfold writePred
    by_cases hn : n = 7
    · simp [hn]
    · simp only [if_neg hn, Str.pget]
      by_cases hk : k = 7
      · subst hk; simp [Ne.symm hn]
      · simp only [if_neg hk, tget_tset]
        by_cases hkn : k = n
        · subst hkn
          have := laneMask_get f l hl
          simp only [lane] at this ⊢
          simp only [if_true, BitVec.getLsbD_or, BitVec.getLsbD_and, BitVec.getLsbD_not, this, hl]
          cases s.curp.cmask.getLsbD l <;> simp [hk]
        · simp [hkn]
  · intro k
    rw [hcur, show ((_ : Str).setPath _ _).pw k = u.pw k by cases s.curPath <;> rfl, hu]
    unfold writePred
    by_cases hn : n = 7
    · simp [hn]
    · simp only [if_neg hn, Str.pw]
      by_cases hk : k = 7
      · subst hk; simp [Ne.symm hn]
      · simp only [if_neg hk, tget_tset]
        by_cases hkn : k = n
        · subst hkn; simp [hk, laneWb]
        · simp [hkn]
  · intro k
    rw [hcur, show ((_ : Str).setPath _ _).reg k = tget 0 y k by cases s.curPath <;> rfl]
    exact hy k
  · refine ⟨?_, ?_, ?_⟩
    · rw [hcur, setPath_path]
    · rw [hcur, setPath_path_not]
      rw [huf]; cases s.curPath <;> rfl
    · rw [hcur]; cases s.curPath <;> rfl
  · rw [hcur]
    rw [huf]
    cases s.curPath <;> rfl

theorem writePred_sys (t : Str) (p : Path) (n : Nat) (src : Waybill) (f : Nat → Bool) : (writePred t p n src f).sys = t.sys := by
  unfold writePred; split <;> rfl

/-- Without flags. -/
theorem pred_result (s : State) (n : Nat) (src : Waybill) (f : Nat → Bool) :
    PredResult s (s.goOn (writePred s.cur s.curp n src f) s.curp) n src f 0 := by
  have := pred_result_sys s n src f 0 s.cur.sys (or_no_flags s)
  rwa [show ({ writePred s.cur s.curp n src f with sys := s.cur.sys } : Str) = writePred s.cur s.curp n src f by
    rw [← writePred_sys s.cur s.curp n src f]] at this

/-- With flags. -/
theorem pred_result_flags (s : State) (n : Nat) (src : Waybill) (f : Nat → Bool) (fl : Word) :
    PredResult s (s.goOn ((writePred s.cur s.curp n src f).orFlags fl) s.curp) n src f fl := by
  refine pred_result_sys s n src f fl ((writePred s.cur s.curp n src f).orFlags fl).sys fun k => ?_
  have h := orFlags_reg (writePred s.cur s.curp n src f) fl k
  simp only [Str.reg] at h ⊢
  rw [h, writePred_sys]

/-! ### Uniform registers -/

/-- A uniform write, once its path has gone on, is a uniform result of one register. -/
theorem uni_result (s : State) (d : Nat) (src : Waybill) (x : Word) :
    UniResult s (s.goOn (s.cur.sput d x (uniWb s.curp src)) s.curp) d 1 src x.toNat := by
  set u := s.cur.sput d x (uniWb s.curp src) with hu
  obtain ⟨a1, a2⟩ := advance_congr (show u.repidx = s.cur.repidx from rfl) s.curp
  have hcur : (s.goOn u s.curp).cur = ({ u with repidx := (advance s.cur s.curp).1.repidx }).setPath s.curPath (advance s.cur s.curp).2 := by
    rw [goOn_cur, advance_fst, a1, a2]
  refine ⟨?_, ?_, ?_, ?_, ?_, ?_⟩
  · rw [goOn_cur]; rfl
  · intro r
    rw [hcur, show ((_ : Str).setPath _ _).sget r = u.sget r by cases s.curPath <;> rfl, hu]
    simp only [Str.sput, Str.sget, tget_tset]
    by_cases h : r = d
    · subst h; simp
    · rw [if_neg h, if_neg (by omega)]
  · intro r
    rw [hcur, show ((_ : Str).setPath _ _).sw r = u.sw r by cases s.curPath <;> rfl, hu]
    simp only [Str.sput, Str.sw, tget_tset]
    by_cases h : r = d
    · subst h; simp [uniWb]
    · rw [if_neg h, if_neg (by omega)]
  · intro r
    rw [hcur, show ((_ : Str).setPath _ _).regPoison = u.regPoison by cases s.curPath <;> rfl, hu]
    simp only [Str.sput, List.mem_filter, decide_eq_true_eq]
    constructor
    · rintro ⟨h1, h2⟩; exact ⟨h1, by omega⟩
    · rintro ⟨h1, h2⟩; exact ⟨h1, by omega⟩
  · refine ⟨?_, ?_, ?_⟩
    · rw [hcur, setPath_path]
    · rw [hcur, setPath_path_not, hu]; cases s.curPath <;> rfl
    · rw [hcur]; cases s.curPath <;> rfl
  · rw [hcur, hu]; cases s.curPath <;> rfl

/-- ... and of a pair. -/
theorem uni_pair_result (s : State) (d : Nat) (src : Waybill) (x : Dword) :
    UniResult s (s.goOn (s.cur.sputPair d x (uniWb s.curp src)) s.curp) d 2 src x.toNat := by
  set u := s.cur.sputPair d x (uniWb s.curp src) with hu
  have huf : u = { s.cur with s := u.s, swb := u.swb, regPoison := u.regPoison } := by rw [hu]; rfl
  obtain ⟨a1, a2⟩ := advance_congr (show u.repidx = s.cur.repidx from rfl) s.curp
  have hcur : (s.goOn u s.curp).cur = ({ u with repidx := (advance s.cur s.curp).1.repidx }).setPath s.curPath (advance s.cur s.curp).2 := by
    rw [goOn_cur, advance_fst, a1, a2]
  refine ⟨?_, ?_, ?_, ?_, ?_, ?_⟩
  · rw [goOn_cur]; rfl
  · intro r
    rw [hcur, show ((_ : Str).setPath _ _).sget r = u.sget r by cases s.curPath <;> rfl, hu]
    simp only [Str.sputPair, Str.sput, Str.sget, tget_tset]
    by_cases h1 : r = d + 1
    · subst h1
      rw [if_pos rfl, if_pos (by omega), show d + 1 - d = 1 by omega]
      apply BitVec.eq_of_toNat_eq; simp [BitVec.extractLsb'_toNat, Nat.shiftRight_eq_div_pow]
    · rw [if_neg h1]
      by_cases h : r = d
      · subst h; rw [if_pos rfl, if_pos (by omega)]
        apply BitVec.eq_of_toNat_eq; simp
      · rw [if_neg h, if_neg (by omega)]
  · intro r
    rw [hcur, show ((_ : Str).setPath _ _).sw r = u.sw r by cases s.curPath <;> rfl, hu]
    simp only [Str.sputPair, Str.sput, Str.sw, tget_tset]
    by_cases h1 : r = d + 1
    · subst h1; simp [uniWb]
    · rw [if_neg h1]
      by_cases h : r = d
      · subst h; simp [uniWb]
      · rw [if_neg h, if_neg (by omega)]
  · intro r
    rw [hcur, show ((_ : Str).setPath _ _).regPoison = u.regPoison by cases s.curPath <;> rfl, hu]
    simp only [Str.sputPair, Str.sput, List.mem_filter, decide_eq_true_eq]
    constructor
    · rintro ⟨⟨h1, h2⟩, h3⟩; exact ⟨h1, by omega⟩
    · rintro ⟨h1, h2⟩; exact ⟨⟨h1, by omega⟩, by omega⟩
  · refine ⟨?_, ?_, ?_⟩
    · rw [hcur, setPath_path]
    · rw [hcur, setPath_path_not]; rw [huf]; cases s.curPath <;> rfl
    · rw [hcur]; cases s.curPath <;> rfl
  · rw [hcur]; rw [huf]; cases s.curPath <;> rfl

theorem qput_get (t : Str) (n k : Nat) (hk : k < 8) (x : Bool) (b : Waybill) :
    (t.qput n x b).qget k = if k = n ∧ n ≠ 7 then x else t.qget k := by
  unfold Str.qput Str.qget
  by_cases h7 : n = 7
  · simp [h7]
  · have hbit : (BitVec.ofNat 7 (2 ^ n)).getLsbD k = (decide (k < 7) && decide (n = k)) := by
      rw [BitVec.getLsbD_ofNat, Nat.testBit_two_pow]
    by_cases hk7 : k = 7
    · subst hk7; rw [if_pos rfl, if_pos rfl, if_neg (by omega)]
    · have h : k < 7 := by omega
      rw [if_neg h7, if_neg hk7, if_neg hk7]
      cases x
      · simp only [Bool.false_eq_true, if_false, BitVec.getLsbD_and, BitVec.getLsbD_not, hbit, h, decide_true, Bool.true_and]
        by_cases hkn : k = n
        · rw [if_pos ⟨hkn, h7⟩]; simp [hkn]
        · rw [if_neg (fun e => hkn e.1)]; simp [Ne.symm hkn]
      · simp only [if_true, BitVec.getLsbD_or, hbit, h, decide_true, Bool.true_and]
        by_cases hkn : k = n
        · rw [if_pos ⟨hkn, h7⟩]; simp [hkn]
        · rw [if_neg (fun e => hkn e.1)]; simp [Ne.symm hkn]

/-- A uniform predicate write, once its path has gone on, is a uniform predicate result. -/
theorem uni_pred_result (s : State) (n : Nat) (src : Waybill) (x : Bool) :
    UniPredResult s (s.goOn (s.cur.qput n x (uniWb s.curp src)) s.curp) n src x := by
  set u := s.cur.qput n x (uniWb s.curp src) with hu
  have huf : u = { s.cur with q := u.q, qwb := u.qwb } := by rw [hu]; unfold Str.qput; split <;> rfl
  have hrep : u.repidx = s.cur.repidx := by
    have := congrArg Str.repidx huf; exact this
  obtain ⟨a1, a2⟩ := advance_congr hrep s.curp
  have hcur : (s.goOn u s.curp).cur = ({ u with repidx := (advance s.cur s.curp).1.repidx }).setPath s.curPath (advance s.cur s.curp).2 := by
    rw [goOn_cur, advance_fst, a1, a2]
  refine ⟨?_, ?_, ?_, ?_, ?_⟩
  · rw [goOn_cur]; rfl
  · intro k hk8
    rw [hcur, show ((_ : Str).setPath _ _).qget k = u.qget k by cases s.curPath <;> rfl, hu]
    exact qput_get _ _ _ hk8 _ _
  · intro k
    rw [hcur, show ((_ : Str).setPath _ _).qw k = u.qw k by cases s.curPath <;> rfl, hu]
    unfold Str.qput
    by_cases h7 : n = 7
    · simp [h7]
    · simp only [if_neg h7, Str.qw]
      by_cases hk : k = 7
      · subst hk; simp [Ne.symm h7]
      · simp only [if_neg hk, tget_tset]
        by_cases hkn : k = n
        · simp [hkn, h7, uniWb]
        · simp [hkn]
  · refine ⟨?_, ?_, ?_⟩
    · rw [hcur, setPath_path]
    · rw [hcur, setPath_path_not]; rw [huf]; cases s.curPath <;> rfl
    · rw [hcur]; cases s.curPath <;> rfl
  · rw [hcur]; rw [huf]; cases s.curPath <;> rfl

end Sys2Proof.Machine
end

