-- ==== Sys2Proof/Laws/State.lean ====
section
/-! SUPPORT. What each update of the state leaves in each field: one lemma for a field and an update. -/

namespace Sys2Proof.Machine

variable (s : State)

/-! ### putStr -/

@[simp] theorem putStr_agenda (u : Nat) (t : Str) : (s.putStr u t).agenda = s.agenda := rfl
@[simp] theorem putStr_turn (u : Nat) (t : Str) : (s.putStr u t).turn = s.turn := rfl
@[simp] theorem putStr_curWord (u : Nat) (t : Str) : (s.putStr u t).curWord = s.curWord := rfl
@[simp] theorem putStr_arg (u : Nat) (t : Str) : (s.putStr u t).arg = s.arg := rfl
@[simp] theorem putStr_fresh (u : Nat) (t : Str) : (s.putStr u t).fresh = s.fresh := rfl
@[simp] theorem putStr_nextOp (u : Nat) (t : Str) : (s.putStr u t).nextOp = s.nextOp := rfl
@[simp] theorem putStr_stamp (u : Nat) (t : Str) : (s.putStr u t).stamp = s.stamp := rfl
@[simp] theorem putStr_outbox (u : Nat) (t : Str) : (s.putStr u t).outbox = s.outbox := rfl
@[simp] theorem putStr_time (u : Nat) (t : Str) : (s.putStr u t).time = s.time := rfl
@[simp] theorem putStr_strs (u : Nat) (t : Str) : (s.putStr u t).strs = tput s.strs u t := rfl
@[simp] theorem putStr_pkgRegs (u : Nat) (t : Str) : (s.putStr u t).pkgRegs = s.pkgRegs := rfl
@[simp] theorem putStr_worldRegs (u : Nat) (t : Str) : (s.putStr u t).worldRegs = s.worldRegs := rfl
@[simp] theorem putStr_partRegs (u : Nat) (t : Str) : (s.putStr u t).partRegs = s.partRegs := rfl
@[simp] theorem putStr_mem (u : Nat) (t : Str) : (s.putStr u t).mem = s.mem := rfl
@[simp] theorem putStr_xl (u : Nat) (t : Str) : (s.putStr u t).xl = s.xl := rfl
@[simp] theorem putStr_sch (u : Nat) (t : Str) : (s.putStr u t).sch = s.sch := rfl
@[simp] theorem putStr_stored (u : Nat) (t : Str) : (s.putStr u t).stored = s.stored := rfl
@[simp] theorem putStr_eng (u : Nat) (t : Str) : (s.putStr u t).eng = s.eng := rfl
@[simp] theorem putStr_fab (u : Nat) (t : Str) : (s.putStr u t).fab = s.fab := rfl
@[simp] theorem putStr_way (u : Nat) (t : Str) : (s.putStr u t).way = s.way := rfl
@[simp] theorem putStr_tr (u : Nat) (t : Str) : (s.putStr u t).tr = s.tr := rfl
@[simp] theorem putStr_nv (u : Nat) (t : Str) : (s.putStr u t).nv = s.nv := rfl
@[simp] theorem putStr_boot (u : Nat) (t : Str) : (s.putStr u t).boot = s.boot := rfl

/-! ### setPkg -/

@[simp] theorem setPkg_agenda (n : Nat) (v : Dword) : (s.setPkg n v).agenda = s.agenda := rfl
@[simp] theorem setPkg_turn (n : Nat) (v : Dword) : (s.setPkg n v).turn = s.turn := rfl
@[simp] theorem setPkg_curUnit (n : Nat) (v : Dword) : (s.setPkg n v).curUnit = s.curUnit := rfl
@[simp] theorem setPkg_curPath (n : Nat) (v : Dword) : (s.setPkg n v).curPath = s.curPath := rfl
@[simp] theorem setPkg_curWord (n : Nat) (v : Dword) : (s.setPkg n v).curWord = s.curWord := rfl
@[simp] theorem setPkg_arg (n : Nat) (v : Dword) : (s.setPkg n v).arg = s.arg := rfl
@[simp] theorem setPkg_fresh (n : Nat) (v : Dword) : (s.setPkg n v).fresh = s.fresh := rfl
@[simp] theorem setPkg_nextOp (n : Nat) (v : Dword) : (s.setPkg n v).nextOp = s.nextOp := rfl
@[simp] theorem setPkg_stamp (n : Nat) (v : Dword) : (s.setPkg n v).stamp = s.stamp := rfl
@[simp] theorem setPkg_outbox (n : Nat) (v : Dword) : (s.setPkg n v).outbox = s.outbox := rfl
@[simp] theorem setPkg_time (n : Nat) (v : Dword) : (s.setPkg n v).time = s.time := rfl
@[simp] theorem setPkg_strs (n : Nat) (v : Dword) : (s.setPkg n v).strs = s.strs := rfl
@[simp] theorem setPkg_pkgRegs (n : Nat) (v : Dword) : (s.setPkg n v).pkgRegs = regSet s.pkgRegs n v := rfl
@[simp] theorem setPkg_worldRegs (n : Nat) (v : Dword) : (s.setPkg n v).worldRegs = s.worldRegs := rfl
@[simp] theorem setPkg_partRegs (n : Nat) (v : Dword) : (s.setPkg n v).partRegs = s.partRegs := rfl
@[simp] theorem setPkg_mem (n : Nat) (v : Dword) : (s.setPkg n v).mem = s.mem := rfl
@[simp] theorem setPkg_xl (n : Nat) (v : Dword) : (s.setPkg n v).xl = s.xl := rfl
@[simp] theorem setPkg_sch (n : Nat) (v : Dword) : (s.setPkg n v).sch = s.sch := rfl
@[simp] theorem setPkg_stored (n : Nat) (v : Dword) : (s.setPkg n v).stored = s.stored := rfl
@[simp] theorem setPkg_eng (n : Nat) (v : Dword) : (s.setPkg n v).eng = s.eng := rfl
@[simp] theorem setPkg_fab (n : Nat) (v : Dword) : (s.setPkg n v).fab = s.fab := rfl
@[simp] theorem setPkg_way (n : Nat) (v : Dword) : (s.setPkg n v).way = s.way := rfl
@[simp] theorem setPkg_tr (n : Nat) (v : Dword) : (s.setPkg n v).tr = s.tr := rfl
@[simp] theorem setPkg_nv (n : Nat) (v : Dword) : (s.setPkg n v).nv = s.nv := rfl
@[simp] theorem setPkg_boot (n : Nat) (v : Dword) : (s.setPkg n v).boot = s.boot := rfl

/-! ### setWreg -/

@[simp] theorem setWreg_agenda (w n : Nat) (v : Dword) : (s.setWreg w n v).agenda = s.agenda := rfl
@[simp] theorem setWreg_turn (w n : Nat) (v : Dword) : (s.setWreg w n v).turn = s.turn := rfl
@[simp] theorem setWreg_curUnit (w n : Nat) (v : Dword) : (s.setWreg w n v).curUnit = s.curUnit := rfl
@[simp] theorem setWreg_curPath (w n : Nat) (v : Dword) : (s.setWreg w n v).curPath = s.curPath := rfl
@[simp] theorem setWreg_curWord (w n : Nat) (v : Dword) : (s.setWreg w n v).curWord = s.curWord := rfl
@[simp] theorem setWreg_arg (w n : Nat) (v : Dword) : (s.setWreg w n v).arg = s.arg := rfl
@[simp] theorem setWreg_fresh (w n : Nat) (v : Dword) : (s.setWreg w n v).fresh = s.fresh := rfl
@[simp] theorem setWreg_nextOp (w n : Nat) (v : Dword) : (s.setWreg w n v).nextOp = s.nextOp := rfl
@[simp] theorem setWreg_stamp (w n : Nat) (v : Dword) : (s.setWreg w n v).stamp = s.stamp := rfl
@[simp] theorem setWreg_outbox (w n : Nat) (v : Dword) : (s.setWreg w n v).outbox = s.outbox := rfl
@[simp] theorem setWreg_time (w n : Nat) (v : Dword) : (s.setWreg w n v).time = s.time := rfl
@[simp] theorem setWreg_strs (w n : Nat) (v : Dword) : (s.setWreg w n v).strs = s.strs := rfl
@[simp] theorem setWreg_pkgRegs (w n : Nat) (v : Dword) : (s.setWreg w n v).pkgRegs = s.pkgRegs := rfl
@[simp] theorem setWreg_worldRegs (w n : Nat) (v : Dword) : (s.setWreg w n v).worldRegs = regSet s.worldRegs (w * 4096 + n) v := rfl
@[simp] theorem setWreg_partRegs (w n : Nat) (v : Dword) : (s.setWreg w n v).partRegs = s.partRegs := rfl
@[simp] theorem setWreg_mem (w n : Nat) (v : Dword) : (s.setWreg w n v).mem = s.mem := rfl
@[simp] theorem setWreg_xl (w n : Nat) (v : Dword) : (s.setWreg w n v).xl = s.xl := rfl
@[simp] theorem setWreg_sch (w n : Nat) (v : Dword) : (s.setWreg w n v).sch = s.sch := rfl
@[simp] theorem setWreg_stored (w n : Nat) (v : Dword) : (s.setWreg w n v).stored = s.stored := rfl
@[simp] theorem setWreg_eng (w n : Nat) (v : Dword) : (s.setWreg w n v).eng = s.eng := rfl
@[simp] theorem setWreg_fab (w n : Nat) (v : Dword) : (s.setWreg w n v).fab = s.fab := rfl
@[simp] theorem setWreg_way (w n : Nat) (v : Dword) : (s.setWreg w n v).way = s.way := rfl
@[simp] theorem setWreg_tr (w n : Nat) (v : Dword) : (s.setWreg w n v).tr = s.tr := rfl
@[simp] theorem setWreg_nv (w n : Nat) (v : Dword) : (s.setWreg w n v).nv = s.nv := rfl
@[simp] theorem setWreg_boot (w n : Nat) (v : Dword) : (s.setWreg w n v).boot = s.boot := rfl

/-! ### setPreg -/

@[simp] theorem setPreg_agenda (p n : Nat) (v : Dword) : (s.setPreg p n v).agenda = s.agenda := rfl
@[simp] theorem setPreg_turn (p n : Nat) (v : Dword) : (s.setPreg p n v).turn = s.turn := rfl
@[simp] theorem setPreg_curUnit (p n : Nat) (v : Dword) : (s.setPreg p n v).curUnit = s.curUnit := rfl
@[simp] theorem setPreg_curPath (p n : Nat) (v : Dword) : (s.setPreg p n v).curPath = s.curPath := rfl
@[simp] theorem setPreg_curWord (p n : Nat) (v : Dword) : (s.setPreg p n v).curWord = s.curWord := rfl
@[simp] theorem setPreg_arg (p n : Nat) (v : Dword) : (s.setPreg p n v).arg = s.arg := rfl
@[simp] theorem setPreg_fresh (p n : Nat) (v : Dword) : (s.setPreg p n v).fresh = s.fresh := rfl
@[simp] theorem setPreg_nextOp (p n : Nat) (v : Dword) : (s.setPreg p n v).nextOp = s.nextOp := rfl
@[simp] theorem setPreg_stamp (p n : Nat) (v : Dword) : (s.setPreg p n v).stamp = s.stamp := rfl
@[simp] theorem setPreg_outbox (p n : Nat) (v : Dword) : (s.setPreg p n v).outbox = s.outbox := rfl
@[simp] theorem setPreg_time (p n : Nat) (v : Dword) : (s.setPreg p n v).time = s.time := rfl
@[simp] theorem setPreg_strs (p n : Nat) (v : Dword) : (s.setPreg p n v).strs = s.strs := rfl
@[simp] theorem setPreg_pkgRegs (p n : Nat) (v : Dword) : (s.setPreg p n v).pkgRegs = s.pkgRegs := rfl
@[simp] theorem setPreg_worldRegs (p n : Nat) (v : Dword) : (s.setPreg p n v).worldRegs = s.worldRegs := rfl
@[simp] theorem setPreg_partRegs (p n : Nat) (v : Dword) : (s.setPreg p n v).partRegs = regSet s.partRegs (p * 4096 + n) v := rfl
@[simp] theorem setPreg_mem (p n : Nat) (v : Dword) : (s.setPreg p n v).mem = s.mem := rfl
@[simp] theorem setPreg_xl (p n : Nat) (v : Dword) : (s.setPreg p n v).xl = s.xl := rfl
@[simp] theorem setPreg_sch (p n : Nat) (v : Dword) : (s.setPreg p n v).sch = s.sch := rfl
@[simp] theorem setPreg_stored (p n : Nat) (v : Dword) : (s.setPreg p n v).stored = s.stored := rfl
@[simp] theorem setPreg_eng (p n : Nat) (v : Dword) : (s.setPreg p n v).eng = s.eng := rfl
@[simp] theorem setPreg_fab (p n : Nat) (v : Dword) : (s.setPreg p n v).fab = s.fab := rfl
@[simp] theorem setPreg_way (p n : Nat) (v : Dword) : (s.setPreg p n v).way = s.way := rfl
@[simp] theorem setPreg_tr (p n : Nat) (v : Dword) : (s.setPreg p n v).tr = s.tr := rfl
@[simp] theorem setPreg_nv (p n : Nat) (v : Dword) : (s.setPreg p n v).nv = s.nv := rfl
@[simp] theorem setPreg_boot (p n : Nat) (v : Dword) : (s.setPreg p n v).boot = s.boot := rfl

/-! ### takeOp -/

@[simp] theorem takeOp_agenda : (s.takeOp).agenda = s.agenda := rfl
@[simp] theorem takeOp_turn : (s.takeOp).turn = s.turn := rfl
@[simp] theorem takeOp_curUnit : (s.takeOp).curUnit = s.curUnit := rfl
@[simp] theorem takeOp_curPath : (s.takeOp).curPath = s.curPath := rfl
@[simp] theorem takeOp_curWord : (s.takeOp).curWord = s.curWord := rfl
@[simp] theorem takeOp_arg : (s.takeOp).arg = s.arg := rfl
@[simp] theorem takeOp_fresh : (s.takeOp).fresh = s.fresh := rfl
@[simp] theorem takeOp_nextOp : (s.takeOp).nextOp = s.nextOp + 1 := rfl
@[simp] theorem takeOp_stamp : (s.takeOp).stamp = s.stamp := rfl
@[simp] theorem takeOp_outbox : (s.takeOp).outbox = s.outbox := rfl
@[simp] theorem takeOp_time : (s.takeOp).time = s.time := rfl
@[simp] theorem takeOp_strs : (s.takeOp).strs = s.strs := rfl
@[simp] theorem takeOp_pkgRegs : (s.takeOp).pkgRegs = s.pkgRegs := rfl
@[simp] theorem takeOp_worldRegs : (s.takeOp).worldRegs = s.worldRegs := rfl
@[simp] theorem takeOp_partRegs : (s.takeOp).partRegs = s.partRegs := rfl
@[simp] theorem takeOp_mem : (s.takeOp).mem = s.mem := rfl
@[simp] theorem takeOp_xl : (s.takeOp).xl = s.xl := rfl
@[simp] theorem takeOp_sch : (s.takeOp).sch = s.sch := rfl
@[simp] theorem takeOp_stored : (s.takeOp).stored = s.stored := rfl
@[simp] theorem takeOp_eng : (s.takeOp).eng = s.eng := rfl
@[simp] theorem takeOp_fab : (s.takeOp).fab = s.fab := rfl
@[simp] theorem takeOp_way : (s.takeOp).way = s.way := rfl
@[simp] theorem takeOp_tr : (s.takeOp).tr = s.tr := rfl
@[simp] theorem takeOp_nv : (s.takeOp).nv = s.nv := rfl
@[simp] theorem takeOp_boot : (s.takeOp).boot = s.boot := rfl

/-! ### setBoot -/

@[simp] theorem setBoot_agenda (b : BootS) : (s.setBoot b).agenda = s.agenda := rfl
@[simp] theorem setBoot_turn (b : BootS) : (s.setBoot b).turn = s.turn := rfl
@[simp] theorem setBoot_curUnit (b : BootS) : (s.setBoot b).curUnit = s.curUnit := rfl
@[simp] theorem setBoot_curPath (b : BootS) : (s.setBoot b).curPath = s.curPath := rfl
@[simp] theorem setBoot_curWord (b : BootS) : (s.setBoot b).curWord = s.curWord := rfl
@[simp] theorem setBoot_arg (b : BootS) : (s.setBoot b).arg = s.arg := rfl
@[simp] theorem setBoot_fresh (b : BootS) : (s.setBoot b).fresh = s.fresh := rfl
@[simp] theorem setBoot_nextOp (b : BootS) : (s.setBoot b).nextOp = s.nextOp := rfl
@[simp] theorem setBoot_stamp (b : BootS) : (s.setBoot b).stamp = s.stamp := rfl
@[simp] theorem setBoot_outbox (b : BootS) : (s.setBoot b).outbox = s.outbox := rfl
@[simp] theorem setBoot_time (b : BootS) : (s.setBoot b).time = s.time := rfl
@[simp] theorem setBoot_strs (b : BootS) : (s.setBoot b).strs = s.strs := rfl
@[simp] theorem setBoot_pkgRegs (b : BootS) : (s.setBoot b).pkgRegs = s.pkgRegs := rfl
@[simp] theorem setBoot_worldRegs (b : BootS) : (s.setBoot b).worldRegs = s.worldRegs := rfl
@[simp] theorem setBoot_partRegs (b : BootS) : (s.setBoot b).partRegs = s.partRegs := rfl
@[simp] theorem setBoot_mem (b : BootS) : (s.setBoot b).mem = s.mem := rfl
@[simp] theorem setBoot_xl (b : BootS) : (s.setBoot b).xl = s.xl := rfl
@[simp] theorem setBoot_sch (b : BootS) : (s.setBoot b).sch = s.sch := rfl
@[simp] theorem setBoot_stored (b : BootS) : (s.setBoot b).stored = s.stored := rfl
@[simp] theorem setBoot_eng (b : BootS) : (s.setBoot b).eng = s.eng := rfl
@[simp] theorem setBoot_fab (b : BootS) : (s.setBoot b).fab = s.fab := rfl
@[simp] theorem setBoot_way (b : BootS) : (s.setBoot b).way = s.way := rfl
@[simp] theorem setBoot_tr (b : BootS) : (s.setBoot b).tr = s.tr := rfl
@[simp] theorem setBoot_nv (b : BootS) : (s.setBoot b).nv = s.nv := rfl
@[simp] theorem setBoot_boot (b : BootS) : (s.setBoot b).boot = b := rfl

/-! ### outAdd -/

@[simp] theorem outAdd_agenda (k n : Nat) : (s.outAdd k n).agenda = s.agenda := rfl
@[simp] theorem outAdd_turn (k n : Nat) : (s.outAdd k n).turn = s.turn := rfl
@[simp] theorem outAdd_curUnit (k n : Nat) : (s.outAdd k n).curUnit = s.curUnit := rfl
@[simp] theorem outAdd_curPath (k n : Nat) : (s.outAdd k n).curPath = s.curPath := rfl
@[simp] theorem outAdd_curWord (k n : Nat) : (s.outAdd k n).curWord = s.curWord := rfl
@[simp] theorem outAdd_arg (k n : Nat) : (s.outAdd k n).arg = s.arg := rfl
@[simp] theorem outAdd_fresh (k n : Nat) : (s.outAdd k n).fresh = s.fresh := rfl
@[simp] theorem outAdd_nextOp (k n : Nat) : (s.outAdd k n).nextOp = s.nextOp := rfl
@[simp] theorem outAdd_stamp (k n : Nat) : (s.outAdd k n).stamp = s.stamp := rfl
@[simp] theorem outAdd_outbox (k n : Nat) : (s.outAdd k n).outbox = s.outbox := rfl
@[simp] theorem outAdd_time (k n : Nat) : (s.outAdd k n).time = s.time := rfl
@[simp] theorem outAdd_strs (k n : Nat) : (s.outAdd k n).strs = s.strs := rfl
@[simp] theorem outAdd_pkgRegs (k n : Nat) : (s.outAdd k n).pkgRegs = s.pkgRegs := rfl
@[simp] theorem outAdd_worldRegs (k n : Nat) : (s.outAdd k n).worldRegs = s.worldRegs := rfl
@[simp] theorem outAdd_partRegs (k n : Nat) : (s.outAdd k n).partRegs = s.partRegs := rfl
@[simp] theorem outAdd_mem (k n : Nat) : (s.outAdd k n).mem = s.mem := rfl
@[simp] theorem outAdd_xl (k n : Nat) : (s.outAdd k n).xl = s.xl := rfl
@[simp] theorem outAdd_sch_parties (k n : Nat) : (s.outAdd k n).sch.parties = s.sch.parties := rfl
@[simp] theorem outAdd_sch_cvAlloc (k n : Nat) : (s.outAdd k n).sch.cvAlloc = s.sch.cvAlloc := rfl
@[simp] theorem outAdd_sch_dpAlloc (k n : Nat) : (s.outAdd k n).sch.dpAlloc = s.sch.dpAlloc := rfl
@[simp] theorem outAdd_sch_outstanding (k n : Nat) : (s.outAdd k n).sch.outstanding = tset 0 s.sch.outstanding k (tget 0 s.sch.outstanding k + n) := rfl
@[simp] theorem outAdd_sch_launches (k n : Nat) : (s.outAdd k n).sch.launches = s.sch.launches := rfl
@[simp] theorem outAdd_sch_nextLaunch (k n : Nat) : (s.outAdd k n).sch.nextLaunch = s.sch.nextLaunch := rfl
@[simp] theorem outAdd_sch_queues (k n : Nat) : (s.outAdd k n).sch.queues = s.sch.queues := rfl
@[simp] theorem outAdd_sch_maps (k n : Nat) : (s.outAdd k n).sch.maps = s.sch.maps := rfl
@[simp] theorem outAdd_sch_preqs (k n : Nat) : (s.outAdd k n).sch.preqs = s.sch.preqs := rfl
@[simp] theorem outAdd_sch_cvBars (k n : Nat) : (s.outAdd k n).sch.cvBars = s.sch.cvBars := rfl
@[simp] theorem outAdd_sch_turn (k n : Nat) : (s.outAdd k n).sch.turn = s.sch.turn := rfl
@[simp] theorem outAdd_sch_slotTime (k n : Nat) : (s.outAdd k n).sch.slotTime = s.sch.slotTime := rfl
@[simp] theorem outAdd_sch_capped (k n : Nat) : (s.outAdd k n).sch.capped = s.sch.capped := rfl
@[simp] theorem outAdd_sch_quantum (k n : Nat) : (s.outAdd k n).sch.quantum = s.sch.quantum := rfl
@[simp] theorem outAdd_sch_period (k n : Nat) : (s.outAdd k n).sch.period = s.sch.period := rfl
@[simp] theorem outAdd_stored (k n : Nat) : (s.outAdd k n).stored = s.stored := rfl
@[simp] theorem outAdd_eng (k n : Nat) : (s.outAdd k n).eng = s.eng := rfl
@[simp] theorem outAdd_fab (k n : Nat) : (s.outAdd k n).fab = s.fab := rfl
@[simp] theorem outAdd_way (k n : Nat) : (s.outAdd k n).way = s.way := rfl
@[simp] theorem outAdd_tr (k n : Nat) : (s.outAdd k n).tr = s.tr := rfl
@[simp] theorem outAdd_nv (k n : Nat) : (s.outAdd k n).nv = s.nv := rfl
@[simp] theorem outAdd_boot (k n : Nat) : (s.outAdd k n).boot = s.boot := rfl

/-! ### outSub -/

@[simp] theorem outSub_agenda (k n : Nat) : (s.outSub k n).agenda = s.agenda := rfl
@[simp] theorem outSub_turn (k n : Nat) : (s.outSub k n).turn = s.turn := rfl
@[simp] theorem outSub_curUnit (k n : Nat) : (s.outSub k n).curUnit = s.curUnit := rfl
@[simp] theorem outSub_curPath (k n : Nat) : (s.outSub k n).curPath = s.curPath := rfl
@[simp] theorem outSub_curWord (k n : Nat) : (s.outSub k n).curWord = s.curWord := rfl
@[simp] theorem outSub_arg (k n : Nat) : (s.outSub k n).arg = s.arg := rfl
@[simp] theorem outSub_fresh (k n : Nat) : (s.outSub k n).fresh = s.fresh := rfl
@[simp] theorem outSub_nextOp (k n : Nat) : (s.outSub k n).nextOp = s.nextOp := rfl
@[simp] theorem outSub_stamp (k n : Nat) : (s.outSub k n).stamp = s.stamp := rfl
@[simp] theorem outSub_outbox (k n : Nat) : (s.outSub k n).outbox = s.outbox := rfl
@[simp] theorem outSub_time (k n : Nat) : (s.outSub k n).time = s.time := rfl
@[simp] theorem outSub_strs (k n : Nat) : (s.outSub k n).strs = s.strs := rfl
@[simp] theorem outSub_pkgRegs (k n : Nat) : (s.outSub k n).pkgRegs = s.pkgRegs := rfl
@[simp] theorem outSub_worldRegs (k n : Nat) : (s.outSub k n).worldRegs = s.worldRegs := rfl
@[simp] theorem outSub_partRegs (k n : Nat) : (s.outSub k n).partRegs = s.partRegs := rfl
@[simp] theorem outSub_mem (k n : Nat) : (s.outSub k n).mem = s.mem := rfl
@[simp] theorem outSub_xl (k n : Nat) : (s.outSub k n).xl = s.xl := rfl
@[simp] theorem outSub_sch_parties (k n : Nat) : (s.outSub k n).sch.parties = s.sch.parties := rfl
@[simp] theorem outSub_sch_cvAlloc (k n : Nat) : (s.outSub k n).sch.cvAlloc = s.sch.cvAlloc := rfl
@[simp] theorem outSub_sch_dpAlloc (k n : Nat) : (s.outSub k n).sch.dpAlloc = s.sch.dpAlloc := rfl
@[simp] theorem outSub_sch_outstanding (k n : Nat) : (s.outSub k n).sch.outstanding = tset 0 s.sch.outstanding k (tget 0 s.sch.outstanding k - n) := rfl
@[simp] theorem outSub_sch_launches (k n : Nat) : (s.outSub k n).sch.launches = s.sch.launches := rfl
@[simp] theorem outSub_sch_nextLaunch (k n : Nat) : (s.outSub k n).sch.nextLaunch = s.sch.nextLaunch := rfl
@[simp] theorem outSub_sch_queues (k n : Nat) : (s.outSub k n).sch.queues = s.sch.queues := rfl
@[simp] theorem outSub_sch_maps (k n : Nat) : (s.outSub k n).sch.maps = s.sch.maps := rfl
@[simp] theorem outSub_sch_preqs (k n : Nat) : (s.outSub k n).sch.preqs = s.sch.preqs := rfl
@[simp] theorem outSub_sch_cvBars (k n : Nat) : (s.outSub k n).sch.cvBars = s.sch.cvBars := rfl
@[simp] theorem outSub_sch_turn (k n : Nat) : (s.outSub k n).sch.turn = s.sch.turn := rfl
@[simp] theorem outSub_sch_slotTime (k n : Nat) : (s.outSub k n).sch.slotTime = s.sch.slotTime := rfl
@[simp] theorem outSub_sch_capped (k n : Nat) : (s.outSub k n).sch.capped = s.sch.capped := rfl
@[simp] theorem outSub_sch_quantum (k n : Nat) : (s.outSub k n).sch.quantum = s.sch.quantum := rfl
@[simp] theorem outSub_sch_period (k n : Nat) : (s.outSub k n).sch.period = s.sch.period := rfl
@[simp] theorem outSub_stored (k n : Nat) : (s.outSub k n).stored = s.stored := rfl
@[simp] theorem outSub_eng (k n : Nat) : (s.outSub k n).eng = s.eng := rfl
@[simp] theorem outSub_fab (k n : Nat) : (s.outSub k n).fab = s.fab := rfl
@[simp] theorem outSub_way (k n : Nat) : (s.outSub k n).way = s.way := rfl
@[simp] theorem outSub_tr (k n : Nat) : (s.outSub k n).tr = s.tr := rfl
@[simp] theorem outSub_nv (k n : Nat) : (s.outSub k n).nv = s.nv := rfl
@[simp] theorem outSub_boot (k n : Nat) : (s.outSub k n).boot = s.boot := rfl

/-! ### putLaunch -/

@[simp] theorem putLaunch_agenda (i : Nat) (l : Launch) : (s.putLaunch i l).agenda = s.agenda := rfl
@[simp] theorem putLaunch_turn (i : Nat) (l : Launch) : (s.putLaunch i l).turn = s.turn := rfl
@[simp] theorem putLaunch_curUnit (i : Nat) (l : Launch) : (s.putLaunch i l).curUnit = s.curUnit := rfl
@[simp] theorem putLaunch_curPath (i : Nat) (l : Launch) : (s.putLaunch i l).curPath = s.curPath := rfl
@[simp] theorem putLaunch_curWord (i : Nat) (l : Launch) : (s.putLaunch i l).curWord = s.curWord := rfl
@[simp] theorem putLaunch_arg (i : Nat) (l : Launch) : (s.putLaunch i l).arg = s.arg := rfl
@[simp] theorem putLaunch_fresh (i : Nat) (l : Launch) : (s.putLaunch i l).fresh = s.fresh := rfl
@[simp] theorem putLaunch_nextOp (i : Nat) (l : Launch) : (s.putLaunch i l).nextOp = s.nextOp := rfl
@[simp] theorem putLaunch_stamp (i : Nat) (l : Launch) : (s.putLaunch i l).stamp = s.stamp := rfl
@[simp] theorem putLaunch_outbox (i : Nat) (l : Launch) : (s.putLaunch i l).outbox = s.outbox := rfl
@[simp] theorem putLaunch_time (i : Nat) (l : Launch) : (s.putLaunch i l).time = s.time := rfl
@[simp] theorem putLaunch_strs (i : Nat) (l : Launch) : (s.putLaunch i l).strs = s.strs := rfl
@[simp] theorem putLaunch_pkgRegs (i : Nat) (l : Launch) : (s.putLaunch i l).pkgRegs = s.pkgRegs := rfl
@[simp] theorem putLaunch_worldRegs (i : Nat) (l : Launch) : (s.putLaunch i l).worldRegs = s.worldRegs := rfl
@[simp] theorem putLaunch_partRegs (i : Nat) (l : Launch) : (s.putLaunch i l).partRegs = s.partRegs := rfl
@[simp] theorem putLaunch_mem (i : Nat) (l : Launch) : (s.putLaunch i l).mem = s.mem := rfl
@[simp] theorem putLaunch_xl (i : Nat) (l : Launch) : (s.putLaunch i l).xl = s.xl := rfl
@[simp] theorem putLaunch_sch_parties (i : Nat) (l : Launch) : (s.putLaunch i l).sch.parties = s.sch.parties := rfl
@[simp] theorem putLaunch_sch_cvAlloc (i : Nat) (l : Launch) : (s.putLaunch i l).sch.cvAlloc = s.sch.cvAlloc := rfl
@[simp] theorem putLaunch_sch_dpAlloc (i : Nat) (l : Launch) : (s.putLaunch i l).sch.dpAlloc = s.sch.dpAlloc := rfl
@[simp] theorem putLaunch_sch_outstanding (i : Nat) (l : Launch) : (s.putLaunch i l).sch.outstanding = s.sch.outstanding := rfl
@[simp] theorem putLaunch_sch_launches (i : Nat) (l : Launch) : (s.putLaunch i l).sch.launches = tput s.sch.launches i l := rfl
@[simp] theorem putLaunch_sch_nextLaunch (i : Nat) (l : Launch) : (s.putLaunch i l).sch.nextLaunch = s.sch.nextLaunch := rfl
@[simp] theorem putLaunch_sch_queues (i : Nat) (l : Launch) : (s.putLaunch i l).sch.queues = s.sch.queues := rfl
@[simp] theorem putLaunch_sch_maps (i : Nat) (l : Launch) : (s.putLaunch i l).sch.maps = s.sch.maps := rfl
@[simp] theorem putLaunch_sch_preqs (i : Nat) (l : Launch) : (s.putLaunch i l).sch.preqs = s.sch.preqs := rfl
@[simp] theorem putLaunch_sch_cvBars (i : Nat) (l : Launch) : (s.putLaunch i l).sch.cvBars = s.sch.cvBars := rfl
@[simp] theorem putLaunch_sch_turn (i : Nat) (l : Launch) : (s.putLaunch i l).sch.turn = s.sch.turn := rfl
@[simp] theorem putLaunch_sch_slotTime (i : Nat) (l : Launch) : (s.putLaunch i l).sch.slotTime = s.sch.slotTime := rfl
@[simp] theorem putLaunch_sch_capped (i : Nat) (l : Launch) : (s.putLaunch i l).sch.capped = s.sch.capped := rfl
@[simp] theorem putLaunch_sch_quantum (i : Nat) (l : Launch) : (s.putLaunch i l).sch.quantum = s.sch.quantum := rfl
@[simp] theorem putLaunch_sch_period (i : Nat) (l : Launch) : (s.putLaunch i l).sch.period = s.sch.period := rfl
@[simp] theorem putLaunch_stored (i : Nat) (l : Launch) : (s.putLaunch i l).stored = s.stored := rfl
@[simp] theorem putLaunch_eng (i : Nat) (l : Launch) : (s.putLaunch i l).eng = s.eng := rfl
@[simp] theorem putLaunch_fab (i : Nat) (l : Launch) : (s.putLaunch i l).fab = s.fab := rfl
@[simp] theorem putLaunch_way (i : Nat) (l : Launch) : (s.putLaunch i l).way = s.way := rfl
@[simp] theorem putLaunch_tr (i : Nat) (l : Launch) : (s.putLaunch i l).tr = s.tr := rfl
@[simp] theorem putLaunch_nv (i : Nat) (l : Launch) : (s.putLaunch i l).nv = s.nv := rfl
@[simp] theorem putLaunch_boot (i : Nat) (l : Launch) : (s.putLaunch i l).boot = s.boot := rfl

/-! ### setMap -/

@[simp] theorem setMap_agenda (d q : Nat) (m : MapE) : (s.setMap d q m).agenda = s.agenda := rfl
@[simp] theorem setMap_turn (d q : Nat) (m : MapE) : (s.setMap d q m).turn = s.turn := rfl
@[simp] theorem setMap_curUnit (d q : Nat) (m : MapE) : (s.setMap d q m).curUnit = s.curUnit := rfl
@[simp] theorem setMap_curPath (d q : Nat) (m : MapE) : (s.setMap d q m).curPath = s.curPath := rfl
@[simp] theorem setMap_curWord (d q : Nat) (m : MapE) : (s.setMap d q m).curWord = s.curWord := rfl
@[simp] theorem setMap_arg (d q : Nat) (m : MapE) : (s.setMap d q m).arg = s.arg := rfl
@[simp] theorem setMap_fresh (d q : Nat) (m : MapE) : (s.setMap d q m).fresh = s.fresh := rfl
@[simp] theorem setMap_nextOp (d q : Nat) (m : MapE) : (s.setMap d q m).nextOp = s.nextOp := rfl
@[simp] theorem setMap_stamp (d q : Nat) (m : MapE) : (s.setMap d q m).stamp = s.stamp := rfl
@[simp] theorem setMap_outbox (d q : Nat) (m : MapE) : (s.setMap d q m).outbox = s.outbox := rfl
@[simp] theorem setMap_time (d q : Nat) (m : MapE) : (s.setMap d q m).time = s.time := rfl
@[simp] theorem setMap_strs (d q : Nat) (m : MapE) : (s.setMap d q m).strs = s.strs := rfl
@[simp] theorem setMap_pkgRegs (d q : Nat) (m : MapE) : (s.setMap d q m).pkgRegs = s.pkgRegs := rfl
@[simp] theorem setMap_worldRegs (d q : Nat) (m : MapE) : (s.setMap d q m).worldRegs = s.worldRegs := rfl
@[simp] theorem setMap_partRegs (d q : Nat) (m : MapE) : (s.setMap d q m).partRegs = s.partRegs := rfl
@[simp] theorem setMap_mem (d q : Nat) (m : MapE) : (s.setMap d q m).mem = s.mem := rfl
@[simp] theorem setMap_xl (d q : Nat) (m : MapE) : (s.setMap d q m).xl = s.xl := rfl
@[simp] theorem setMap_sch_parties (d q : Nat) (m : MapE) : (s.setMap d q m).sch.parties = s.sch.parties := rfl
@[simp] theorem setMap_sch_cvAlloc (d q : Nat) (m : MapE) : (s.setMap d q m).sch.cvAlloc = s.sch.cvAlloc := rfl
@[simp] theorem setMap_sch_dpAlloc (d q : Nat) (m : MapE) : (s.setMap d q m).sch.dpAlloc = s.sch.dpAlloc := rfl
@[simp] theorem setMap_sch_outstanding (d q : Nat) (m : MapE) : (s.setMap d q m).sch.outstanding = s.sch.outstanding := rfl
@[simp] theorem setMap_sch_launches (d q : Nat) (m : MapE) : (s.setMap d q m).sch.launches = s.sch.launches := rfl
@[simp] theorem setMap_sch_nextLaunch (d q : Nat) (m : MapE) : (s.setMap d q m).sch.nextLaunch = s.sch.nextLaunch := rfl
@[simp] theorem setMap_sch_queues (d q : Nat) (m : MapE) : (s.setMap d q m).sch.queues = s.sch.queues := rfl
@[simp] theorem setMap_sch_maps (d q : Nat) (m : MapE) : (s.setMap d q m).sch.maps = tput s.sch.maps (d * 4096 + q) m := rfl
@[simp] theorem setMap_sch_preqs (d q : Nat) (m : MapE) : (s.setMap d q m).sch.preqs = s.sch.preqs := rfl
@[simp] theorem setMap_sch_cvBars (d q : Nat) (m : MapE) : (s.setMap d q m).sch.cvBars = s.sch.cvBars := rfl
@[simp] theorem setMap_sch_turn (d q : Nat) (m : MapE) : (s.setMap d q m).sch.turn = s.sch.turn := rfl
@[simp] theorem setMap_sch_slotTime (d q : Nat) (m : MapE) : (s.setMap d q m).sch.slotTime = s.sch.slotTime := rfl
@[simp] theorem setMap_sch_capped (d q : Nat) (m : MapE) : (s.setMap d q m).sch.capped = s.sch.capped := rfl
@[simp] theorem setMap_sch_quantum (d q : Nat) (m : MapE) : (s.setMap d q m).sch.quantum = s.sch.quantum := rfl
@[simp] theorem setMap_sch_period (d q : Nat) (m : MapE) : (s.setMap d q m).sch.period = s.sch.period := rfl
@[simp] theorem setMap_stored (d q : Nat) (m : MapE) : (s.setMap d q m).stored = s.stored := rfl
@[simp] theorem setMap_eng (d q : Nat) (m : MapE) : (s.setMap d q m).eng = s.eng := rfl
@[simp] theorem setMap_fab (d q : Nat) (m : MapE) : (s.setMap d q m).fab = s.fab := rfl
@[simp] theorem setMap_way (d q : Nat) (m : MapE) : (s.setMap d q m).way = s.way := rfl
@[simp] theorem setMap_tr (d q : Nat) (m : MapE) : (s.setMap d q m).tr = s.tr := rfl
@[simp] theorem setMap_nv (d q : Nat) (m : MapE) : (s.setMap d q m).nv = s.nv := rfl
@[simp] theorem setMap_boot (d q : Nat) (m : MapE) : (s.setMap d q m).boot = s.boot := rfl

/-! ### putL2 -/

@[simp] theorem putL2_agenda (i : Bool) (t n : Nat) (l : L2Line) : (s.putL2 i t n l).agenda = s.agenda := rfl
@[simp] theorem putL2_turn (i : Bool) (t n : Nat) (l : L2Line) : (s.putL2 i t n l).turn = s.turn := rfl
@[simp] theorem putL2_curUnit (i : Bool) (t n : Nat) (l : L2Line) : (s.putL2 i t n l).curUnit = s.curUnit := rfl
@[simp] theorem putL2_curPath (i : Bool) (t n : Nat) (l : L2Line) : (s.putL2 i t n l).curPath = s.curPath := rfl
@[simp] theorem putL2_curWord (i : Bool) (t n : Nat) (l : L2Line) : (s.putL2 i t n l).curWord = s.curWord := rfl
@[simp] theorem putL2_arg (i : Bool) (t n : Nat) (l : L2Line) : (s.putL2 i t n l).arg = s.arg := rfl
@[simp] theorem putL2_fresh (i : Bool) (t n : Nat) (l : L2Line) : (s.putL2 i t n l).fresh = s.fresh := rfl
@[simp] theorem putL2_nextOp (i : Bool) (t n : Nat) (l : L2Line) : (s.putL2 i t n l).nextOp = s.nextOp := rfl
@[simp] theorem putL2_stamp (i : Bool) (t n : Nat) (l : L2Line) : (s.putL2 i t n l).stamp = s.stamp := rfl
@[simp] theorem putL2_outbox (i : Bool) (t n : Nat) (l : L2Line) : (s.putL2 i t n l).outbox = s.outbox := rfl
@[simp] theorem putL2_time (i : Bool) (t n : Nat) (l : L2Line) : (s.putL2 i t n l).time = s.time := rfl
@[simp] theorem putL2_strs (i : Bool) (t n : Nat) (l : L2Line) : (s.putL2 i t n l).strs = s.strs := rfl
@[simp] theorem putL2_pkgRegs (i : Bool) (t n : Nat) (l : L2Line) : (s.putL2 i t n l).pkgRegs = s.pkgRegs := rfl
@[simp] theorem putL2_worldRegs (i : Bool) (t n : Nat) (l : L2Line) : (s.putL2 i t n l).worldRegs = s.worldRegs := rfl
@[simp] theorem putL2_partRegs (i : Bool) (t n : Nat) (l : L2Line) : (s.putL2 i t n l).partRegs = s.partRegs := rfl
@[simp] theorem putL2_mem_hbm (i : Bool) (t n : Nat) (l : L2Line) : (s.putL2 i t n l).mem.hbm = s.mem.hbm := rfl
@[simp] theorem putL2_mem_keyed (i : Bool) (t n : Nat) (l : L2Line) : (s.putL2 i t n l).mem.keyed = s.mem.keyed := rfl
@[simp] theorem putL2_mem_hpoison (i : Bool) (t n : Nat) (l : L2Line) : (s.putL2 i t n l).mem.hpoison = s.mem.hpoison := rfl
@[simp] theorem putL2_mem_l2 (i : Bool) (t n : Nat) (l : L2Line) : (s.putL2 i t n l).mem.l2 = tput s.mem.l2 (l2Key i t n) l := rfl
@[simp] theorem putL2_mem_l1 (i : Bool) (t n : Nat) (l : L2Line) : (s.putL2 i t n l).mem.l1 = s.mem.l1 := rfl
@[simp] theorem putL2_mem_cc (i : Bool) (t n : Nat) (l : L2Line) : (s.putL2 i t n l).mem.cc = s.mem.cc := rfl
@[simp] theorem putL2_mem_ic (i : Bool) (t n : Nat) (l : L2Line) : (s.putL2 i t n l).mem.ic = s.mem.ic := rfl
@[simp] theorem putL2_mem_sp (i : Bool) (t n : Nat) (l : L2Line) : (s.putL2 i t n l).mem.sp = s.mem.sp := rfl
@[simp] theorem putL2_mem_cv (i : Bool) (t n : Nat) (l : L2Line) : (s.putL2 i t n l).mem.cv = s.mem.cv := rfl
@[simp] theorem putL2_mem_dp (i : Bool) (t n : Nat) (l : L2Line) : (s.putL2 i t n l).mem.dp = s.mem.dp := rfl
@[simp] theorem putL2_mem_spwb (i : Bool) (t n : Nat) (l : L2Line) : (s.putL2 i t n l).mem.spwb = s.mem.spwb := rfl
@[simp] theorem putL2_mem_cvwb (i : Bool) (t n : Nat) (l : L2Line) : (s.putL2 i t n l).mem.cvwb = s.mem.cvwb := rfl
@[simp] theorem putL2_mem_dpwb (i : Bool) (t n : Nat) (l : L2Line) : (s.putL2 i t n l).mem.dpwb = s.mem.dpwb := rfl
@[simp] theorem putL2_mem_sppo (i : Bool) (t n : Nat) (l : L2Line) : (s.putL2 i t n l).mem.sppo = s.mem.sppo := rfl
@[simp] theorem putL2_mem_cvpo (i : Bool) (t n : Nat) (l : L2Line) : (s.putL2 i t n l).mem.cvpo = s.mem.cvpo := rfl
@[simp] theorem putL2_mem_dppo (i : Bool) (t n : Nat) (l : L2Line) : (s.putL2 i t n l).mem.dppo = s.mem.dppo := rfl
@[simp] theorem putL2_mem_reqs (i : Bool) (t n : Nat) (l : L2Line) : (s.putL2 i t n l).mem.reqs = s.mem.reqs := rfl
@[simp] theorem putL2_mem_ops (i : Bool) (t n : Nat) (l : L2Line) : (s.putL2 i t n l).mem.ops = s.mem.ops := rfl
@[simp] theorem putL2_mem_locks (i : Bool) (t n : Nat) (l : L2Line) : (s.putL2 i t n l).mem.locks = s.mem.locks := rfl
@[simp] theorem putL2_mem_lockPeak (i : Bool) (t n : Nat) (l : L2Line) : (s.putL2 i t n l).mem.lockPeak = s.mem.lockPeak := rfl
@[simp] theorem putL2_mem_errRec (i : Bool) (t n : Nat) (l : L2Line) : (s.putL2 i t n l).mem.errRec = s.mem.errRec := rfl
@[simp] theorem putL2_mem_zeroing (i : Bool) (t n : Nat) (l : L2Line) : (s.putL2 i t n l).mem.zeroing = s.mem.zeroing := rfl
@[simp] theorem putL2_mem_window (i : Bool) (t n : Nat) (l : L2Line) : (s.putL2 i t n l).mem.window = s.mem.window := rfl
@[simp] theorem putL2_mem_wbBusy (i : Bool) (t n : Nat) (l : L2Line) : (s.putL2 i t n l).mem.wbBusy = s.mem.wbBusy := rfl
@[simp] theorem putL2_mem_patrol (i : Bool) (t n : Nat) (l : L2Line) : (s.putL2 i t n l).mem.patrol = s.mem.patrol := rfl
@[simp] theorem putL2_mem_bw (i : Bool) (t n : Nat) (l : L2Line) : (s.putL2 i t n l).mem.bw = s.mem.bw := rfl
@[simp] theorem putL2_xl (i : Bool) (t n : Nat) (l : L2Line) : (s.putL2 i t n l).xl = s.xl := rfl
@[simp] theorem putL2_sch (i : Bool) (t n : Nat) (l : L2Line) : (s.putL2 i t n l).sch = s.sch := rfl
@[simp] theorem putL2_stored (i : Bool) (t n : Nat) (l : L2Line) : (s.putL2 i t n l).stored = s.stored := rfl
@[simp] theorem putL2_eng (i : Bool) (t n : Nat) (l : L2Line) : (s.putL2 i t n l).eng = s.eng := rfl
@[simp] theorem putL2_fab (i : Bool) (t n : Nat) (l : L2Line) : (s.putL2 i t n l).fab = s.fab := rfl
@[simp] theorem putL2_way (i : Bool) (t n : Nat) (l : L2Line) : (s.putL2 i t n l).way = s.way := rfl
@[simp] theorem putL2_tr (i : Bool) (t n : Nat) (l : L2Line) : (s.putL2 i t n l).tr = s.tr := rfl
@[simp] theorem putL2_nv (i : Bool) (t n : Nat) (l : L2Line) : (s.putL2 i t n l).nv = s.nv := rfl
@[simp] theorem putL2_boot (i : Bool) (t n : Nat) (l : L2Line) : (s.putL2 i t n l).boot = s.boot := rfl

/-! ### dropL2 -/

@[simp] theorem dropL2_agenda (i : Bool) (t n : Nat) : (s.dropL2 i t n).agenda = s.agenda := rfl
@[simp] theorem dropL2_turn (i : Bool) (t n : Nat) : (s.dropL2 i t n).turn = s.turn := rfl
@[simp] theorem dropL2_curUnit (i : Bool) (t n : Nat) : (s.dropL2 i t n).curUnit = s.curUnit := rfl
@[simp] theorem dropL2_curPath (i : Bool) (t n : Nat) : (s.dropL2 i t n).curPath = s.curPath := rfl
@[simp] theorem dropL2_curWord (i : Bool) (t n : Nat) : (s.dropL2 i t n).curWord = s.curWord := rfl
@[simp] theorem dropL2_arg (i : Bool) (t n : Nat) : (s.dropL2 i t n).arg = s.arg := rfl
@[simp] theorem dropL2_fresh (i : Bool) (t n : Nat) : (s.dropL2 i t n).fresh = s.fresh := rfl
@[simp] theorem dropL2_nextOp (i : Bool) (t n : Nat) : (s.dropL2 i t n).nextOp = s.nextOp := rfl
@[simp] theorem dropL2_stamp (i : Bool) (t n : Nat) : (s.dropL2 i t n).stamp = s.stamp := rfl
@[simp] theorem dropL2_outbox (i : Bool) (t n : Nat) : (s.dropL2 i t n).outbox = s.outbox := rfl
@[simp] theorem dropL2_time (i : Bool) (t n : Nat) : (s.dropL2 i t n).time = s.time := rfl
@[simp] theorem dropL2_strs (i : Bool) (t n : Nat) : (s.dropL2 i t n).strs = s.strs := rfl
@[simp] theorem dropL2_pkgRegs (i : Bool) (t n : Nat) : (s.dropL2 i t n).pkgRegs = s.pkgRegs := rfl
@[simp] theorem dropL2_worldRegs (i : Bool) (t n : Nat) : (s.dropL2 i t n).worldRegs = s.worldRegs := rfl
@[simp] theorem dropL2_partRegs (i : Bool) (t n : Nat) : (s.dropL2 i t n).partRegs = s.partRegs := rfl
@[simp] theorem dropL2_mem_hbm (i : Bool) (t n : Nat) : (s.dropL2 i t n).mem.hbm = s.mem.hbm := rfl
@[simp] theorem dropL2_mem_keyed (i : Bool) (t n : Nat) : (s.dropL2 i t n).mem.keyed = s.mem.keyed := rfl
@[simp] theorem dropL2_mem_hpoison (i : Bool) (t n : Nat) : (s.dropL2 i t n).mem.hpoison = s.mem.hpoison := rfl
@[simp] theorem dropL2_mem_l2 (i : Bool) (t n : Nat) : (s.dropL2 i t n).mem.l2 = terase s.mem.l2 (l2Key i t n) := rfl
@[simp] theorem dropL2_mem_l1 (i : Bool) (t n : Nat) : (s.dropL2 i t n).mem.l1 = s.mem.l1 := rfl
@[simp] theorem dropL2_mem_cc (i : Bool) (t n : Nat) : (s.dropL2 i t n).mem.cc = s.mem.cc := rfl
@[simp] theorem dropL2_mem_ic (i : Bool) (t n : Nat) : (s.dropL2 i t n).mem.ic = s.mem.ic := rfl
@[simp] theorem dropL2_mem_sp (i : Bool) (t n : Nat) : (s.dropL2 i t n).mem.sp = s.mem.sp := rfl
@[simp] theorem dropL2_mem_cv (i : Bool) (t n : Nat) : (s.dropL2 i t n).mem.cv = s.mem.cv := rfl
@[simp] theorem dropL2_mem_dp (i : Bool) (t n : Nat) : (s.dropL2 i t n).mem.dp = s.mem.dp := rfl
@[simp] theorem dropL2_mem_spwb (i : Bool) (t n : Nat) : (s.dropL2 i t n).mem.spwb = s.mem.spwb := rfl
@[simp] theorem dropL2_mem_cvwb (i : Bool) (t n : Nat) : (s.dropL2 i t n).mem.cvwb = s.mem.cvwb := rfl
@[simp] theorem dropL2_mem_dpwb (i : Bool) (t n : Nat) : (s.dropL2 i t n).mem.dpwb = s.mem.dpwb := rfl
@[simp] theorem dropL2_mem_sppo (i : Bool) (t n : Nat) : (s.dropL2 i t n).mem.sppo = s.mem.sppo := rfl
@[simp] theorem dropL2_mem_cvpo (i : Bool) (t n : Nat) : (s.dropL2 i t n).mem.cvpo = s.mem.cvpo := rfl
@[simp] theorem dropL2_mem_dppo (i : Bool) (t n : Nat) : (s.dropL2 i t n).mem.dppo = s.mem.dppo := rfl
@[simp] theorem dropL2_mem_reqs (i : Bool) (t n : Nat) : (s.dropL2 i t n).mem.reqs = s.mem.reqs := rfl
@[simp] theorem dropL2_mem_ops (i : Bool) (t n : Nat) : (s.dropL2 i t n).mem.ops = s.mem.ops := rfl
@[simp] theorem dropL2_mem_locks (i : Bool) (t n : Nat) : (s.dropL2 i t n).mem.locks = s.mem.locks := rfl
@[simp] theorem dropL2_mem_lockPeak (i : Bool) (t n : Nat) : (s.dropL2 i t n).mem.lockPeak = s.mem.lockPeak := rfl
@[simp] theorem dropL2_mem_errRec (i : Bool) (t n : Nat) : (s.dropL2 i t n).mem.errRec = s.mem.errRec := rfl
@[simp] theorem dropL2_mem_zeroing (i : Bool) (t n : Nat) : (s.dropL2 i t n).mem.zeroing = s.mem.zeroing := rfl
@[simp] theorem dropL2_mem_window (i : Bool) (t n : Nat) : (s.dropL2 i t n).mem.window = s.mem.window := rfl
@[simp] theorem dropL2_mem_wbBusy (i : Bool) (t n : Nat) : (s.dropL2 i t n).mem.wbBusy = s.mem.wbBusy := rfl
@[simp] theorem dropL2_mem_patrol (i : Bool) (t n : Nat) : (s.dropL2 i t n).mem.patrol = s.mem.patrol := rfl
@[simp] theorem dropL2_mem_bw (i : Bool) (t n : Nat) : (s.dropL2 i t n).mem.bw = s.mem.bw := rfl
@[simp] theorem dropL2_xl (i : Bool) (t n : Nat) : (s.dropL2 i t n).xl = s.xl := rfl
@[simp] theorem dropL2_sch (i : Bool) (t n : Nat) : (s.dropL2 i t n).sch = s.sch := rfl
@[simp] theorem dropL2_stored (i : Bool) (t n : Nat) : (s.dropL2 i t n).stored = s.stored := rfl
@[simp] theorem dropL2_eng (i : Bool) (t n : Nat) : (s.dropL2 i t n).eng = s.eng := rfl
@[simp] theorem dropL2_fab (i : Bool) (t n : Nat) : (s.dropL2 i t n).fab = s.fab := rfl
@[simp] theorem dropL2_way (i : Bool) (t n : Nat) : (s.dropL2 i t n).way = s.way := rfl
@[simp] theorem dropL2_tr (i : Bool) (t n : Nat) : (s.dropL2 i t n).tr = s.tr := rfl
@[simp] theorem dropL2_nv (i : Bool) (t n : Nat) : (s.dropL2 i t n).nv = s.nv := rfl
@[simp] theorem dropL2_boot (i : Bool) (t n : Nat) : (s.dropL2 i t n).boot = s.boot := rfl

/-! ### setL1 -/

@[simp] theorem setL1_agenda (c : Nat) (l : List CLine) : (s.setL1 c l).agenda = s.agenda := rfl
@[simp] theorem setL1_turn (c : Nat) (l : List CLine) : (s.setL1 c l).turn = s.turn := rfl
@[simp] theorem setL1_curUnit (c : Nat) (l : List CLine) : (s.setL1 c l).curUnit = s.curUnit := rfl
@[simp] theorem setL1_curPath (c : Nat) (l : List CLine) : (s.setL1 c l).curPath = s.curPath := rfl
@[simp] theorem setL1_curWord (c : Nat) (l : List CLine) : (s.setL1 c l).curWord = s.curWord := rfl
@[simp] theorem setL1_arg (c : Nat) (l : List CLine) : (s.setL1 c l).arg = s.arg := rfl
@[simp] theorem setL1_fresh (c : Nat) (l : List CLine) : (s.setL1 c l).fresh = s.fresh := rfl
@[simp] theorem setL1_nextOp (c : Nat) (l : List CLine) : (s.setL1 c l).nextOp = s.nextOp := rfl
@[simp] theorem setL1_stamp (c : Nat) (l : List CLine) : (s.setL1 c l).stamp = s.stamp := rfl
@[simp] theorem setL1_outbox (c : Nat) (l : List CLine) : (s.setL1 c l).outbox = s.outbox := rfl
@[simp] theorem setL1_time (c : Nat) (l : List CLine) : (s.setL1 c l).time = s.time := rfl
@[simp] theorem setL1_strs (c : Nat) (l : List CLine) : (s.setL1 c l).strs = s.strs := rfl
@[simp] theorem setL1_pkgRegs (c : Nat) (l : List CLine) : (s.setL1 c l).pkgRegs = s.pkgRegs := rfl
@[simp] theorem setL1_worldRegs (c : Nat) (l : List CLine) : (s.setL1 c l).worldRegs = s.worldRegs := rfl
@[simp] theorem setL1_partRegs (c : Nat) (l : List CLine) : (s.setL1 c l).partRegs = s.partRegs := rfl
@[simp] theorem setL1_mem_hbm (c : Nat) (l : List CLine) : (s.setL1 c l).mem.hbm = s.mem.hbm := rfl
@[simp] theorem setL1_mem_keyed (c : Nat) (l : List CLine) : (s.setL1 c l).mem.keyed = s.mem.keyed := rfl
@[simp] theorem setL1_mem_hpoison (c : Nat) (l : List CLine) : (s.setL1 c l).mem.hpoison = s.mem.hpoison := rfl
@[simp] theorem setL1_mem_l2 (c : Nat) (l : List CLine) : (s.setL1 c l).mem.l2 = s.mem.l2 := rfl
@[simp] theorem setL1_mem_l1 (c : Nat) (l : List CLine) : (s.setL1 c l).mem.l1 = tset [] s.mem.l1 c l := rfl
@[simp] theorem setL1_mem_cc (c : Nat) (l : List CLine) : (s.setL1 c l).mem.cc = s.mem.cc := rfl
@[simp] theorem setL1_mem_ic (c : Nat) (l : List CLine) : (s.setL1 c l).mem.ic = s.mem.ic := rfl
@[simp] theorem setL1_mem_sp (c : Nat) (l : List CLine) : (s.setL1 c l).mem.sp = s.mem.sp := rfl
@[simp] theorem setL1_mem_cv (c : Nat) (l : List CLine) : (s.setL1 c l).mem.cv = s.mem.cv := rfl
@[simp] theorem setL1_mem_dp (c : Nat) (l : List CLine) : (s.setL1 c l).mem.dp = s.mem.dp := rfl
@[simp] theorem setL1_mem_spwb (c : Nat) (l : List CLine) : (s.setL1 c l).mem.spwb = s.mem.spwb := rfl
@[simp] theorem setL1_mem_cvwb (c : Nat) (l : List CLine) : (s.setL1 c l).mem.cvwb = s.mem.cvwb := rfl
@[simp] theorem setL1_mem_dpwb (c : Nat) (l : List CLine) : (s.setL1 c l).mem.dpwb = s.mem.dpwb := rfl
@[simp] theorem setL1_mem_sppo (c : Nat) (l : List CLine) : (s.setL1 c l).mem.sppo = s.mem.sppo := rfl
@[simp] theorem setL1_mem_cvpo (c : Nat) (l : List CLine) : (s.setL1 c l).mem.cvpo = s.mem.cvpo := rfl
@[simp] theorem setL1_mem_dppo (c : Nat) (l : List CLine) : (s.setL1 c l).mem.dppo = s.mem.dppo := rfl
@[simp] theorem setL1_mem_reqs (c : Nat) (l : List CLine) : (s.setL1 c l).mem.reqs = s.mem.reqs := rfl
@[simp] theorem setL1_mem_ops (c : Nat) (l : List CLine) : (s.setL1 c l).mem.ops = s.mem.ops := rfl
@[simp] theorem setL1_mem_locks (c : Nat) (l : List CLine) : (s.setL1 c l).mem.locks = s.mem.locks := rfl
@[simp] theorem setL1_mem_lockPeak (c : Nat) (l : List CLine) : (s.setL1 c l).mem.lockPeak = s.mem.lockPeak := rfl
@[simp] theorem setL1_mem_errRec (c : Nat) (l : List CLine) : (s.setL1 c l).mem.errRec = s.mem.errRec := rfl
@[simp] theorem setL1_mem_zeroing (c : Nat) (l : List CLine) : (s.setL1 c l).mem.zeroing = s.mem.zeroing := rfl
@[simp] theorem setL1_mem_window (c : Nat) (l : List CLine) : (s.setL1 c l).mem.window = s.mem.window := rfl
@[simp] theorem setL1_mem_wbBusy (c : Nat) (l : List CLine) : (s.setL1 c l).mem.wbBusy = s.mem.wbBusy := rfl
@[simp] theorem setL1_mem_patrol (c : Nat) (l : List CLine) : (s.setL1 c l).mem.patrol = s.mem.patrol := rfl
@[simp] theorem setL1_mem_bw (c : Nat) (l : List CLine) : (s.setL1 c l).mem.bw = s.mem.bw := rfl
@[simp] theorem setL1_xl (c : Nat) (l : List CLine) : (s.setL1 c l).xl = s.xl := rfl
@[simp] theorem setL1_sch (c : Nat) (l : List CLine) : (s.setL1 c l).sch = s.sch := rfl
@[simp] theorem setL1_stored (c : Nat) (l : List CLine) : (s.setL1 c l).stored = s.stored := rfl
@[simp] theorem setL1_eng (c : Nat) (l : List CLine) : (s.setL1 c l).eng = s.eng := rfl
@[simp] theorem setL1_fab (c : Nat) (l : List CLine) : (s.setL1 c l).fab = s.fab := rfl
@[simp] theorem setL1_way (c : Nat) (l : List CLine) : (s.setL1 c l).way = s.way := rfl
@[simp] theorem setL1_tr (c : Nat) (l : List CLine) : (s.setL1 c l).tr = s.tr := rfl
@[simp] theorem setL1_nv (c : Nat) (l : List CLine) : (s.setL1 c l).nv = s.nv := rfl
@[simp] theorem setL1_boot (c : Nat) (l : List CLine) : (s.setL1 c l).boot = s.boot := rfl

/-! ### setReq -/

@[simp] theorem setReq_agenda (r : Req) : (s.setReq r).agenda = s.agenda := rfl
@[simp] theorem setReq_turn (r : Req) : (s.setReq r).turn = s.turn := rfl
@[simp] theorem setReq_curUnit (r : Req) : (s.setReq r).curUnit = s.curUnit := rfl
@[simp] theorem setReq_curPath (r : Req) : (s.setReq r).curPath = s.curPath := rfl
@[simp] theorem setReq_curWord (r : Req) : (s.setReq r).curWord = s.curWord := rfl
@[simp] theorem setReq_arg (r : Req) : (s.setReq r).arg = s.arg := rfl
@[simp] theorem setReq_fresh (r : Req) : (s.setReq r).fresh = s.fresh := rfl
@[simp] theorem setReq_nextOp (r : Req) : (s.setReq r).nextOp = s.nextOp := rfl
@[simp] theorem setReq_stamp (r : Req) : (s.setReq r).stamp = s.stamp := rfl
@[simp] theorem setReq_outbox (r : Req) : (s.setReq r).outbox = s.outbox := rfl
@[simp] theorem setReq_time (r : Req) : (s.setReq r).time = s.time := rfl
@[simp] theorem setReq_strs (r : Req) : (s.setReq r).strs = s.strs := rfl
@[simp] theorem setReq_pkgRegs (r : Req) : (s.setReq r).pkgRegs = s.pkgRegs := rfl
@[simp] theorem setReq_worldRegs (r : Req) : (s.setReq r).worldRegs = s.worldRegs := rfl
@[simp] theorem setReq_partRegs (r : Req) : (s.setReq r).partRegs = s.partRegs := rfl
@[simp] theorem setReq_mem_hbm (r : Req) : (s.setReq r).mem.hbm = s.mem.hbm := rfl
@[simp] theorem setReq_mem_keyed (r : Req) : (s.setReq r).mem.keyed = s.mem.keyed := rfl
@[simp] theorem setReq_mem_hpoison (r : Req) : (s.setReq r).mem.hpoison = s.mem.hpoison := rfl
@[simp] theorem setReq_mem_l2 (r : Req) : (s.setReq r).mem.l2 = s.mem.l2 := rfl
@[simp] theorem setReq_mem_l1 (r : Req) : (s.setReq r).mem.l1 = s.mem.l1 := rfl
@[simp] theorem setReq_mem_cc (r : Req) : (s.setReq r).mem.cc = s.mem.cc := rfl
@[simp] theorem setReq_mem_ic (r : Req) : (s.setReq r).mem.ic = s.mem.ic := rfl
@[simp] theorem setReq_mem_sp (r : Req) : (s.setReq r).mem.sp = s.mem.sp := rfl
@[simp] theorem setReq_mem_cv (r : Req) : (s.setReq r).mem.cv = s.mem.cv := rfl
@[simp] theorem setReq_mem_dp (r : Req) : (s.setReq r).mem.dp = s.mem.dp := rfl
@[simp] theorem setReq_mem_spwb (r : Req) : (s.setReq r).mem.spwb = s.mem.spwb := rfl
@[simp] theorem setReq_mem_cvwb (r : Req) : (s.setReq r).mem.cvwb = s.mem.cvwb := rfl
@[simp] theorem setReq_mem_dpwb (r : Req) : (s.setReq r).mem.dpwb = s.mem.dpwb := rfl
@[simp] theorem setReq_mem_sppo (r : Req) : (s.setReq r).mem.sppo = s.mem.sppo := rfl
@[simp] theorem setReq_mem_cvpo (r : Req) : (s.setReq r).mem.cvpo = s.mem.cvpo := rfl
@[simp] theorem setReq_mem_dppo (r : Req) : (s.setReq r).mem.dppo = s.mem.dppo := rfl
@[simp] theorem setReq_mem_reqs (r : Req) : (s.setReq r).mem.reqs = s.mem.reqs.map (fun e => if e.rid = r.rid then r else e) := rfl
@[simp] theorem setReq_mem_ops (r : Req) : (s.setReq r).mem.ops = s.mem.ops := rfl
@[simp] theorem setReq_mem_locks (r : Req) : (s.setReq r).mem.locks = s.mem.locks := rfl
@[simp] theorem setReq_mem_lockPeak (r : Req) : (s.setReq r).mem.lockPeak = s.mem.lockPeak := rfl
@[simp] theorem setReq_mem_errRec (r : Req) : (s.setReq r).mem.errRec = s.mem.errRec := rfl
@[simp] theorem setReq_mem_zeroing (r : Req) : (s.setReq r).mem.zeroing = s.mem.zeroing := rfl
@[simp] theorem setReq_mem_window (r : Req) : (s.setReq r).mem.window = s.mem.window := rfl
@[simp] theorem setReq_mem_wbBusy (r : Req) : (s.setReq r).mem.wbBusy = s.mem.wbBusy := rfl
@[simp] theorem setReq_mem_patrol (r : Req) : (s.setReq r).mem.patrol = s.mem.patrol := rfl
@[simp] theorem setReq_mem_bw (r : Req) : (s.setReq r).mem.bw = s.mem.bw := rfl
@[simp] theorem setReq_xl (r : Req) : (s.setReq r).xl = s.xl := rfl
@[simp] theorem setReq_sch (r : Req) : (s.setReq r).sch = s.sch := rfl
@[simp] theorem setReq_stored (r : Req) : (s.setReq r).stored = s.stored := rfl
@[simp] theorem setReq_eng (r : Req) : (s.setReq r).eng = s.eng := rfl
@[simp] theorem setReq_fab (r : Req) : (s.setReq r).fab = s.fab := rfl
@[simp] theorem setReq_way (r : Req) : (s.setReq r).way = s.way := rfl
@[simp] theorem setReq_tr (r : Req) : (s.setReq r).tr = s.tr := rfl
@[simp] theorem setReq_nv (r : Req) : (s.setReq r).nv = s.nv := rfl
@[simp] theorem setReq_boot (r : Req) : (s.setReq r).boot = s.boot := rfl

/-! ### dropReq -/

@[simp] theorem dropReq_agenda (r : Nat) : (s.dropReq r).agenda = s.agenda := rfl
@[simp] theorem dropReq_turn (r : Nat) : (s.dropReq r).turn = s.turn := rfl
@[simp] theorem dropReq_curUnit (r : Nat) : (s.dropReq r).curUnit = s.curUnit := rfl
@[simp] theorem dropReq_curPath (r : Nat) : (s.dropReq r).curPath = s.curPath := rfl
@[simp] theorem dropReq_curWord (r : Nat) : (s.dropReq r).curWord = s.curWord := rfl
@[simp] theorem dropReq_arg (r : Nat) : (s.dropReq r).arg = s.arg := rfl
@[simp] theorem dropReq_fresh (r : Nat) : (s.dropReq r).fresh = s.fresh := rfl
@[simp] theorem dropReq_nextOp (r : Nat) : (s.dropReq r).nextOp = s.nextOp := rfl
@[simp] theorem dropReq_stamp (r : Nat) : (s.dropReq r).stamp = s.stamp := rfl
@[simp] theorem dropReq_outbox (r : Nat) : (s.dropReq r).outbox = s.outbox := rfl
@[simp] theorem dropReq_time (r : Nat) : (s.dropReq r).time = s.time := rfl
@[simp] theorem dropReq_strs (r : Nat) : (s.dropReq r).strs = s.strs := rfl
@[simp] theorem dropReq_pkgRegs (r : Nat) : (s.dropReq r).pkgRegs = s.pkgRegs := rfl
@[simp] theorem dropReq_worldRegs (r : Nat) : (s.dropReq r).worldRegs = s.worldRegs := rfl
@[simp] theorem dropReq_partRegs (r : Nat) : (s.dropReq r).partRegs = s.partRegs := rfl
@[simp] theorem dropReq_mem_hbm (r : Nat) : (s.dropReq r).mem.hbm = s.mem.hbm := rfl
@[simp] theorem dropReq_mem_keyed (r : Nat) : (s.dropReq r).mem.keyed = s.mem.keyed := rfl
@[simp] theorem dropReq_mem_hpoison (r : Nat) : (s.dropReq r).mem.hpoison = s.mem.hpoison := rfl
@[simp] theorem dropReq_mem_l2 (r : Nat) : (s.dropReq r).mem.l2 = s.mem.l2 := rfl
@[simp] theorem dropReq_mem_l1 (r : Nat) : (s.dropReq r).mem.l1 = s.mem.l1 := rfl
@[simp] theorem dropReq_mem_cc (r : Nat) : (s.dropReq r).mem.cc = s.mem.cc := rfl
@[simp] theorem dropReq_mem_ic (r : Nat) : (s.dropReq r).mem.ic = s.mem.ic := rfl
@[simp] theorem dropReq_mem_sp (r : Nat) : (s.dropReq r).mem.sp = s.mem.sp := rfl
@[simp] theorem dropReq_mem_cv (r : Nat) : (s.dropReq r).mem.cv = s.mem.cv := rfl
@[simp] theorem dropReq_mem_dp (r : Nat) : (s.dropReq r).mem.dp = s.mem.dp := rfl
@[simp] theorem dropReq_mem_spwb (r : Nat) : (s.dropReq r).mem.spwb = s.mem.spwb := rfl
@[simp] theorem dropReq_mem_cvwb (r : Nat) : (s.dropReq r).mem.cvwb = s.mem.cvwb := rfl
@[simp] theorem dropReq_mem_dpwb (r : Nat) : (s.dropReq r).mem.dpwb = s.mem.dpwb := rfl
@[simp] theorem dropReq_mem_sppo (r : Nat) : (s.dropReq r).mem.sppo = s.mem.sppo := rfl
@[simp] theorem dropReq_mem_cvpo (r : Nat) : (s.dropReq r).mem.cvpo = s.mem.cvpo := rfl
@[simp] theorem dropReq_mem_dppo (r : Nat) : (s.dropReq r).mem.dppo = s.mem.dppo := rfl
@[simp] theorem dropReq_mem_reqs (r : Nat) : (s.dropReq r).mem.reqs = s.mem.reqs.filter (fun e => e.rid != r) := rfl
@[simp] theorem dropReq_mem_ops (r : Nat) : (s.dropReq r).mem.ops = s.mem.ops := rfl
@[simp] theorem dropReq_mem_locks (r : Nat) : (s.dropReq r).mem.locks = s.mem.locks := rfl
@[simp] theorem dropReq_mem_lockPeak (r : Nat) : (s.dropReq r).mem.lockPeak = s.mem.lockPeak := rfl
@[simp] theorem dropReq_mem_errRec (r : Nat) : (s.dropReq r).mem.errRec = s.mem.errRec := rfl
@[simp] theorem dropReq_mem_zeroing (r : Nat) : (s.dropReq r).mem.zeroing = s.mem.zeroing := rfl
@[simp] theorem dropReq_mem_window (r : Nat) : (s.dropReq r).mem.window = s.mem.window := rfl
@[simp] theorem dropReq_mem_wbBusy (r : Nat) : (s.dropReq r).mem.wbBusy = s.mem.wbBusy := rfl
@[simp] theorem dropReq_mem_patrol (r : Nat) : (s.dropReq r).mem.patrol = s.mem.patrol := rfl
@[simp] theorem dropReq_mem_bw (r : Nat) : (s.dropReq r).mem.bw = s.mem.bw := rfl
@[simp] theorem dropReq_xl (r : Nat) : (s.dropReq r).xl = s.xl := rfl
@[simp] theorem dropReq_sch (r : Nat) : (s.dropReq r).sch = s.sch := rfl
@[simp] theorem dropReq_stored (r : Nat) : (s.dropReq r).stored = s.stored := rfl
@[simp] theorem dropReq_eng (r : Nat) : (s.dropReq r).eng = s.eng := rfl
@[simp] theorem dropReq_fab (r : Nat) : (s.dropReq r).fab = s.fab := rfl
@[simp] theorem dropReq_way (r : Nat) : (s.dropReq r).way = s.way := rfl
@[simp] theorem dropReq_tr (r : Nat) : (s.dropReq r).tr = s.tr := rfl
@[simp] theorem dropReq_nv (r : Nat) : (s.dropReq r).nv = s.nv := rfl
@[simp] theorem dropReq_boot (r : Nat) : (s.dropReq r).boot = s.boot := rfl

/-! ### setPool -/

@[simp] theorem setPool_agenda (p z : Nat) (l : List Nat) : (s.setPool p z l).agenda = s.agenda := rfl
@[simp] theorem setPool_turn (p z : Nat) (l : List Nat) : (s.setPool p z l).turn = s.turn := rfl
@[simp] theorem setPool_curUnit (p z : Nat) (l : List Nat) : (s.setPool p z l).curUnit = s.curUnit := rfl
@[simp] theorem setPool_curPath (p z : Nat) (l : List Nat) : (s.setPool p z l).curPath = s.curPath := rfl
@[simp] theorem setPool_curWord (p z : Nat) (l : List Nat) : (s.setPool p z l).curWord = s.curWord := rfl
@[simp] theorem setPool_arg (p z : Nat) (l : List Nat) : (s.setPool p z l).arg = s.arg := rfl
@[simp] theorem setPool_fresh (p z : Nat) (l : List Nat) : (s.setPool p z l).fresh = s.fresh := rfl
@[simp] theorem setPool_nextOp (p z : Nat) (l : List Nat) : (s.setPool p z l).nextOp = s.nextOp := rfl
@[simp] theorem setPool_stamp (p z : Nat) (l : List Nat) : (s.setPool p z l).stamp = s.stamp := rfl
@[simp] theorem setPool_outbox (p z : Nat) (l : List Nat) : (s.setPool p z l).outbox = s.outbox := rfl
@[simp] theorem setPool_time (p z : Nat) (l : List Nat) : (s.setPool p z l).time = s.time := rfl
@[simp] theorem setPool_strs (p z : Nat) (l : List Nat) : (s.setPool p z l).strs = s.strs := rfl
@[simp] theorem setPool_pkgRegs (p z : Nat) (l : List Nat) : (s.setPool p z l).pkgRegs = s.pkgRegs := rfl
@[simp] theorem setPool_worldRegs (p z : Nat) (l : List Nat) : (s.setPool p z l).worldRegs = s.worldRegs := rfl
@[simp] theorem setPool_partRegs (p z : Nat) (l : List Nat) : (s.setPool p z l).partRegs = s.partRegs := rfl
@[simp] theorem setPool_mem (p z : Nat) (l : List Nat) : (s.setPool p z l).mem = s.mem := rfl
@[simp] theorem setPool_xl_dtlb (p z : Nat) (l : List Nat) : (s.setPool p z l).xl.dtlb = s.xl.dtlb := rfl
@[simp] theorem setPool_xl_ctlb (p z : Nat) (l : List Nat) : (s.setPool p z l).xl.ctlb = s.xl.ctlb := rfl
@[simp] theorem setPool_xl_ftlb (p z : Nat) (l : List Nat) : (s.setPool p z l).xl.ftlb = s.xl.ftlb := rfl
@[simp] theorem setPool_xl_wcache (p z : Nat) (l : List Nat) : (s.setPool p z l).xl.wcache = s.xl.wcache := rfl
@[simp] theorem setPool_xl_s2c (p z : Nat) (l : List Nat) : (s.setPool p z l).xl.s2c = s.xl.s2c := rfl
@[simp] theorem setPool_xl_part (p z : Nat) (l : List Nat) : (s.setPool p z l).xl.part = s.xl.part := rfl
@[simp] theorem setPool_xl_parent (p z : Nat) (l : List Nat) : (s.setPool p z l).xl.parent = s.xl.parent := rfl
@[simp] theorem setPool_xl_kernel (p z : Nat) (l : List Nat) : (s.setPool p z l).xl.kernel = s.xl.kernel := rfl
@[simp] theorem setPool_xl_pcie (p z : Nat) (l : List Nat) : (s.setPool p z l).xl.pcie = s.xl.pcie := rfl
@[simp] theorem setPool_xl_pools (p z : Nat) (l : List Nat) : (s.setPool p z l).xl.pools = tset [] s.xl.pools (p * 4 + z) l := rfl
@[simp] theorem setPool_xl_poolWait (p z : Nat) (l : List Nat) : (s.setPool p z l).xl.poolWait = s.xl.poolWait := rfl
@[simp] theorem setPool_xl_shoots (p z : Nat) (l : List Nat) : (s.setPool p z l).xl.shoots = s.xl.shoots := rfl
@[simp] theorem setPool_xl_sample (p z : Nat) (l : List Nat) : (s.setPool p z l).xl.sample = s.xl.sample := rfl
@[simp] theorem setPool_xl_scrubs (p z : Nat) (l : List Nat) : (s.setPool p z l).xl.scrubs = s.xl.scrubs := rfl
@[simp] theorem setPool_xl_ringWait (p z : Nat) (l : List Nat) : (s.setPool p z l).xl.ringWait = s.xl.ringWait := rfl
@[simp] theorem setPool_sch (p z : Nat) (l : List Nat) : (s.setPool p z l).sch = s.sch := rfl
@[simp] theorem setPool_stored (p z : Nat) (l : List Nat) : (s.setPool p z l).stored = s.stored := rfl
@[simp] theorem setPool_eng (p z : Nat) (l : List Nat) : (s.setPool p z l).eng = s.eng := rfl
@[simp] theorem setPool_fab (p z : Nat) (l : List Nat) : (s.setPool p z l).fab = s.fab := rfl
@[simp] theorem setPool_way (p z : Nat) (l : List Nat) : (s.setPool p z l).way = s.way := rfl
@[simp] theorem setPool_tr (p z : Nat) (l : List Nat) : (s.setPool p z l).tr = s.tr := rfl
@[simp] theorem setPool_nv (p z : Nat) (l : List Nat) : (s.setPool p z l).nv = s.nv := rfl
@[simp] theorem setPool_boot (p z : Nat) (l : List Nat) : (s.setPool p z l).boot = s.boot := rfl

/-! ### setTile -/

@[simp] theorem setTile_agenda (k : Nat) (t : Tile) : (s.setTile k t).agenda = s.agenda := rfl
@[simp] theorem setTile_turn (k : Nat) (t : Tile) : (s.setTile k t).turn = s.turn := rfl
@[simp] theorem setTile_curUnit (k : Nat) (t : Tile) : (s.setTile k t).curUnit = s.curUnit := rfl
@[simp] theorem setTile_curPath (k : Nat) (t : Tile) : (s.setTile k t).curPath = s.curPath := rfl
@[simp] theorem setTile_curWord (k : Nat) (t : Tile) : (s.setTile k t).curWord = s.curWord := rfl
@[simp] theorem setTile_arg (k : Nat) (t : Tile) : (s.setTile k t).arg = s.arg := rfl
@[simp] theorem setTile_fresh (k : Nat) (t : Tile) : (s.setTile k t).fresh = s.fresh := rfl
@[simp] theorem setTile_nextOp (k : Nat) (t : Tile) : (s.setTile k t).nextOp = s.nextOp := rfl
@[simp] theorem setTile_stamp (k : Nat) (t : Tile) : (s.setTile k t).stamp = s.stamp := rfl
@[simp] theorem setTile_outbox (k : Nat) (t : Tile) : (s.setTile k t).outbox = s.outbox := rfl
@[simp] theorem setTile_time (k : Nat) (t : Tile) : (s.setTile k t).time = s.time := rfl
@[simp] theorem setTile_strs (k : Nat) (t : Tile) : (s.setTile k t).strs = s.strs := rfl
@[simp] theorem setTile_pkgRegs (k : Nat) (t : Tile) : (s.setTile k t).pkgRegs = s.pkgRegs := rfl
@[simp] theorem setTile_worldRegs (k : Nat) (t : Tile) : (s.setTile k t).worldRegs = s.worldRegs := rfl
@[simp] theorem setTile_partRegs (k : Nat) (t : Tile) : (s.setTile k t).partRegs = s.partRegs := rfl
@[simp] theorem setTile_mem (k : Nat) (t : Tile) : (s.setTile k t).mem = s.mem := rfl
@[simp] theorem setTile_xl (k : Nat) (t : Tile) : (s.setTile k t).xl = s.xl := rfl
@[simp] theorem setTile_sch (k : Nat) (t : Tile) : (s.setTile k t).sch = s.sch := rfl
@[simp] theorem setTile_stored (k : Nat) (t : Tile) : (s.setTile k t).stored = s.stored := rfl
@[simp] theorem setTile_eng_tiles (k : Nat) (t : Tile) : (s.setTile k t).eng.tiles = tset Tile.blank s.eng.tiles k t := rfl
@[simp] theorem setTile_eng_queue (k : Nat) (t : Tile) : (s.setTile k t).eng.queue = s.eng.queue := rfl
@[simp] theorem setTile_eng_btc (k : Nat) (t : Tile) : (s.setTile k t).eng.btc = s.eng.btc := rfl
@[simp] theorem setTile_eng_btcstat (k : Nat) (t : Tile) : (s.setTile k t).eng.btcstat = s.eng.btcstat := rfl
@[simp] theorem setTile_eng_mcstat (k : Nat) (t : Tile) : (s.setTile k t).eng.mcstat = s.eng.mcstat := rfl
@[simp] theorem setTile_eng_stops (k : Nat) (t : Tile) : (s.setTile k t).eng.stops = s.eng.stops := rfl
@[simp] theorem setTile_fab (k : Nat) (t : Tile) : (s.setTile k t).fab = s.fab := rfl
@[simp] theorem setTile_way (k : Nat) (t : Tile) : (s.setTile k t).way = s.way := rfl
@[simp] theorem setTile_tr (k : Nat) (t : Tile) : (s.setTile k t).tr = s.tr := rfl
@[simp] theorem setTile_nv (k : Nat) (t : Tile) : (s.setTile k t).nv = s.nv := rfl
@[simp] theorem setTile_boot (k : Nat) (t : Tile) : (s.setTile k t).boot = s.boot := rfl

/-! ### putEng -/

@[simp] theorem putEng_agenda (n : Nat) (e : Eng) : (s.putEng n e).agenda = s.agenda := rfl
@[simp] theorem putEng_turn (n : Nat) (e : Eng) : (s.putEng n e).turn = s.turn := rfl
@[simp] theorem putEng_curUnit (n : Nat) (e : Eng) : (s.putEng n e).curUnit = s.curUnit := rfl
@[simp] theorem putEng_curPath (n : Nat) (e : Eng) : (s.putEng n e).curPath = s.curPath := rfl
@[simp] theorem putEng_curWord (n : Nat) (e : Eng) : (s.putEng n e).curWord = s.curWord := rfl
@[simp] theorem putEng_arg (n : Nat) (e : Eng) : (s.putEng n e).arg = s.arg := rfl
@[simp] theorem putEng_fresh (n : Nat) (e : Eng) : (s.putEng n e).fresh = s.fresh := rfl
@[simp] theorem putEng_nextOp (n : Nat) (e : Eng) : (s.putEng n e).nextOp = s.nextOp := rfl
@[simp] theorem putEng_stamp (n : Nat) (e : Eng) : (s.putEng n e).stamp = s.stamp := rfl
@[simp] theorem putEng_outbox (n : Nat) (e : Eng) : (s.putEng n e).outbox = s.outbox := rfl
@[simp] theorem putEng_time (n : Nat) (e : Eng) : (s.putEng n e).time = s.time := rfl
@[simp] theorem putEng_strs (n : Nat) (e : Eng) : (s.putEng n e).strs = s.strs := rfl
@[simp] theorem putEng_pkgRegs (n : Nat) (e : Eng) : (s.putEng n e).pkgRegs = s.pkgRegs := rfl
@[simp] theorem putEng_worldRegs (n : Nat) (e : Eng) : (s.putEng n e).worldRegs = s.worldRegs := rfl
@[simp] theorem putEng_partRegs (n : Nat) (e : Eng) : (s.putEng n e).partRegs = s.partRegs := rfl
@[simp] theorem putEng_mem (n : Nat) (e : Eng) : (s.putEng n e).mem = s.mem := rfl
@[simp] theorem putEng_xl (n : Nat) (e : Eng) : (s.putEng n e).xl = s.xl := rfl
@[simp] theorem putEng_sch (n : Nat) (e : Eng) : (s.putEng n e).sch = s.sch := rfl
@[simp] theorem putEng_stored (n : Nat) (e : Eng) : (s.putEng n e).stored = s.stored := rfl
@[simp] theorem putEng_eng_tiles (n : Nat) (e : Eng) : (s.putEng n e).eng.tiles = s.eng.tiles := rfl
@[simp] theorem putEng_eng_queue (n : Nat) (e : Eng) : (s.putEng n e).eng.queue = tput s.eng.queue n e := rfl
@[simp] theorem putEng_eng_btc (n : Nat) (e : Eng) : (s.putEng n e).eng.btc = s.eng.btc := rfl
@[simp] theorem putEng_eng_btcstat (n : Nat) (e : Eng) : (s.putEng n e).eng.btcstat = s.eng.btcstat := rfl
@[simp] theorem putEng_eng_mcstat (n : Nat) (e : Eng) : (s.putEng n e).eng.mcstat = s.eng.mcstat := rfl
@[simp] theorem putEng_eng_stops (n : Nat) (e : Eng) : (s.putEng n e).eng.stops = s.eng.stops := rfl
@[simp] theorem putEng_fab (n : Nat) (e : Eng) : (s.putEng n e).fab = s.fab := rfl
@[simp] theorem putEng_way (n : Nat) (e : Eng) : (s.putEng n e).way = s.way := rfl
@[simp] theorem putEng_tr (n : Nat) (e : Eng) : (s.putEng n e).tr = s.tr := rfl
@[simp] theorem putEng_nv (n : Nat) (e : Eng) : (s.putEng n e).nv = s.nv := rfl
@[simp] theorem putEng_boot (n : Nat) (e : Eng) : (s.putEng n e).boot = s.boot := rfl

/-! ### setLane -/

@[simp] theorem setLane_agenda (n : Nat) (x : Lane) : (s.setLane n x).agenda = s.agenda := rfl
@[simp] theorem setLane_turn (n : Nat) (x : Lane) : (s.setLane n x).turn = s.turn := rfl
@[simp] theorem setLane_curUnit (n : Nat) (x : Lane) : (s.setLane n x).curUnit = s.curUnit := rfl
@[simp] theorem setLane_curPath (n : Nat) (x : Lane) : (s.setLane n x).curPath = s.curPath := rfl
@[simp] theorem setLane_curWord (n : Nat) (x : Lane) : (s.setLane n x).curWord = s.curWord := rfl
@[simp] theorem setLane_arg (n : Nat) (x : Lane) : (s.setLane n x).arg = s.arg := rfl
@[simp] theorem setLane_fresh (n : Nat) (x : Lane) : (s.setLane n x).fresh = s.fresh := rfl
@[simp] theorem setLane_nextOp (n : Nat) (x : Lane) : (s.setLane n x).nextOp = s.nextOp := rfl
@[simp] theorem setLane_stamp (n : Nat) (x : Lane) : (s.setLane n x).stamp = s.stamp := rfl
@[simp] theorem setLane_outbox (n : Nat) (x : Lane) : (s.setLane n x).outbox = s.outbox := rfl
@[simp] theorem setLane_time (n : Nat) (x : Lane) : (s.setLane n x).time = s.time := rfl
@[simp] theorem setLane_strs (n : Nat) (x : Lane) : (s.setLane n x).strs = s.strs := rfl
@[simp] theorem setLane_pkgRegs (n : Nat) (x : Lane) : (s.setLane n x).pkgRegs = s.pkgRegs := rfl
@[simp] theorem setLane_worldRegs (n : Nat) (x : Lane) : (s.setLane n x).worldRegs = s.worldRegs := rfl
@[simp] theorem setLane_partRegs (n : Nat) (x : Lane) : (s.setLane n x).partRegs = s.partRegs := rfl
@[simp] theorem setLane_mem (n : Nat) (x : Lane) : (s.setLane n x).mem = s.mem := rfl
@[simp] theorem setLane_xl (n : Nat) (x : Lane) : (s.setLane n x).xl = s.xl := rfl
@[simp] theorem setLane_sch (n : Nat) (x : Lane) : (s.setLane n x).sch = s.sch := rfl
@[simp] theorem setLane_stored (n : Nat) (x : Lane) : (s.setLane n x).stored = s.stored := rfl
@[simp] theorem setLane_eng (n : Nat) (x : Lane) : (s.setLane n x).eng = s.eng := rfl
@[simp] theorem setLane_fab_lanes (n : Nat) (x : Lane) : (s.setLane n x).fab.lanes = tset Lane.blank s.fab.lanes n x := rfl
@[simp] theorem setLane_fab_peers (n : Nat) (x : Lane) : (s.setLane n x).fab.peers = s.fab.peers := rfl
@[simp] theorem setLane_fab_pairs (n : Nat) (x : Lane) : (s.setLane n x).fab.pairs = s.fab.pairs := rfl
@[simp] theorem setLane_fab_leases (n : Nat) (x : Lane) : (s.setLane n x).fab.leases = s.fab.leases := rfl
@[simp] theorem setLane_fab_waiting (n : Nat) (x : Lane) : (s.setLane n x).fab.waiting = s.fab.waiting := rfl
@[simp] theorem setLane_fab_turn (n : Nat) (x : Lane) : (s.setLane n x).fab.turn = s.fab.turn := rfl
@[simp] theorem setLane_fab_rems (n : Nat) (x : Lane) : (s.setLane n x).fab.rems = s.fab.rems := rfl
@[simp] theorem setLane_fab_fails (n : Nat) (x : Lane) : (s.setLane n x).fab.fails = s.fab.fails := rfl
@[simp] theorem setLane_fab_started (n : Nat) (x : Lane) : (s.setLane n x).fab.started = s.fab.started := rfl
@[simp] theorem setLane_fab_full (n : Nat) (x : Lane) : (s.setLane n x).fab.full = s.fab.full := rfl
@[simp] theorem setLane_way (n : Nat) (x : Lane) : (s.setLane n x).way = s.way := rfl
@[simp] theorem setLane_tr (n : Nat) (x : Lane) : (s.setLane n x).tr = s.tr := rfl
@[simp] theorem setLane_nv (n : Nat) (x : Lane) : (s.setLane n x).nv = s.nv := rfl
@[simp] theorem setLane_boot (n : Nat) (x : Lane) : (s.setLane n x).boot = s.boot := rfl

/-! ### setPair -/

@[simp] theorem setPair_agenda (n : Nat) (x : Pair) : (s.setPair n x).agenda = s.agenda := by unfold State.setPair; split <;> rfl
@[simp] theorem setPair_turn (n : Nat) (x : Pair) : (s.setPair n x).turn = s.turn := by unfold State.setPair; split <;> rfl
@[simp] theorem setPair_curUnit (n : Nat) (x : Pair) : (s.setPair n x).curUnit = s.curUnit := by unfold State.setPair; split <;> rfl
@[simp] theorem setPair_curPath (n : Nat) (x : Pair) : (s.setPair n x).curPath = s.curPath := by unfold State.setPair; split <;> rfl
@[simp] theorem setPair_curWord (n : Nat) (x : Pair) : (s.setPair n x).curWord = s.curWord := by unfold State.setPair; split <;> rfl
@[simp] theorem setPair_arg (n : Nat) (x : Pair) : (s.setPair n x).arg = s.arg := by unfold State.setPair; split <;> rfl
@[simp] theorem setPair_fresh (n : Nat) (x : Pair) : (s.setPair n x).fresh = s.fresh := by unfold State.setPair; split <;> rfl
@[simp] theorem setPair_nextOp (n : Nat) (x : Pair) : (s.setPair n x).nextOp = s.nextOp := by unfold State.setPair; split <;> rfl
@[simp] theorem setPair_stamp (n : Nat) (x : Pair) : (s.setPair n x).stamp = s.stamp := by unfold State.setPair; split <;> rfl
@[simp] theorem setPair_outbox (n : Nat) (x : Pair) : (s.setPair n x).outbox = s.outbox := by unfold State.setPair; split <;> rfl
@[simp] theorem setPair_time (n : Nat) (x : Pair) : (s.setPair n x).time = s.time := by unfold State.setPair; split <;> rfl
@[simp] theorem setPair_strs (n : Nat) (x : Pair) : (s.setPair n x).strs = s.strs := by unfold State.setPair; split <;> rfl
@[simp] theorem setPair_pkgRegs (n : Nat) (x : Pair) : (s.setPair n x).pkgRegs = s.pkgRegs := by unfold State.setPair; split <;> rfl
@[simp] theorem setPair_worldRegs (n : Nat) (x : Pair) : (s.setPair n x).worldRegs = s.worldRegs := by unfold State.setPair; split <;> rfl
@[simp] theorem setPair_partRegs (n : Nat) (x : Pair) : (s.setPair n x).partRegs = s.partRegs := by unfold State.setPair; split <;> rfl
@[simp] theorem setPair_mem (n : Nat) (x : Pair) : (s.setPair n x).mem = s.mem := by unfold State.setPair; split <;> rfl
@[simp] theorem setPair_xl (n : Nat) (x : Pair) : (s.setPair n x).xl = s.xl := by unfold State.setPair; split <;> rfl
@[simp] theorem setPair_sch (n : Nat) (x : Pair) : (s.setPair n x).sch = s.sch := by unfold State.setPair; split <;> rfl
@[simp] theorem setPair_stored (n : Nat) (x : Pair) : (s.setPair n x).stored = s.stored := by unfold State.setPair; split <;> rfl
@[simp] theorem setPair_eng (n : Nat) (x : Pair) : (s.setPair n x).eng = s.eng := by unfold State.setPair; split <;> rfl
@[simp] theorem setPair_fab_lanes (n : Nat) (x : Pair) : (s.setPair n x).fab.lanes = s.fab.lanes := by unfold State.setPair; split <;> rfl
@[simp] theorem setPair_fab_peers (n : Nat) (x : Pair) : (s.setPair n x).fab.peers = s.fab.peers := by unfold State.setPair; split <;> rfl
@[simp] theorem setPair_fab_pairs (n : Nat) (x : Pair) :
    (s.setPair n x).fab.pairs = if s.isMember n then tset Pair.blank s.fab.pairs n x else s.fab.pairs := by
  unfold State.setPair; split <;> rfl
@[simp] theorem setPair_fab_leases (n : Nat) (x : Pair) : (s.setPair n x).fab.leases = s.fab.leases := by unfold State.setPair; split <;> rfl
@[simp] theorem setPair_fab_waiting (n : Nat) (x : Pair) : (s.setPair n x).fab.waiting = s.fab.waiting := by unfold State.setPair; split <;> rfl
@[simp] theorem setPair_fab_turn (n : Nat) (x : Pair) : (s.setPair n x).fab.turn = s.fab.turn := by unfold State.setPair; split <;> rfl
@[simp] theorem setPair_fab_rems (n : Nat) (x : Pair) : (s.setPair n x).fab.rems = s.fab.rems := by unfold State.setPair; split <;> rfl
@[simp] theorem setPair_fab_fails (n : Nat) (x : Pair) : (s.setPair n x).fab.fails = s.fab.fails := by unfold State.setPair; split <;> rfl
@[simp] theorem setPair_fab_started (n : Nat) (x : Pair) : (s.setPair n x).fab.started = s.fab.started := by unfold State.setPair; split <;> rfl
@[simp] theorem setPair_fab_full (n : Nat) (x : Pair) : (s.setPair n x).fab.full = s.fab.full := by unfold State.setPair; split <;> rfl
@[simp] theorem setPair_way (n : Nat) (x : Pair) : (s.setPair n x).way = s.way := by unfold State.setPair; split <;> rfl
@[simp] theorem setPair_tr (n : Nat) (x : Pair) : (s.setPair n x).tr = s.tr := by unfold State.setPair; split <;> rfl
@[simp] theorem setPair_nv (n : Nat) (x : Pair) : (s.setPair n x).nv = s.nv := by unfold State.setPair; split <;> rfl
@[simp] theorem setPair_boot (n : Nat) (x : Pair) : (s.setPair n x).boot = s.boot := by unfold State.setPair; split <;> rfl

/-! ### setLease -/

@[simp] theorem setLease_agenda (n : Nat) (x : Lease) : (s.setLease n x).agenda = s.agenda := rfl
@[simp] theorem setLease_turn (n : Nat) (x : Lease) : (s.setLease n x).turn = s.turn := rfl
@[simp] theorem setLease_curUnit (n : Nat) (x : Lease) : (s.setLease n x).curUnit = s.curUnit := rfl
@[simp] theorem setLease_curPath (n : Nat) (x : Lease) : (s.setLease n x).curPath = s.curPath := rfl
@[simp] theorem setLease_curWord (n : Nat) (x : Lease) : (s.setLease n x).curWord = s.curWord := rfl
@[simp] theorem setLease_arg (n : Nat) (x : Lease) : (s.setLease n x).arg = s.arg := rfl
@[simp] theorem setLease_fresh (n : Nat) (x : Lease) : (s.setLease n x).fresh = s.fresh := rfl
@[simp] theorem setLease_nextOp (n : Nat) (x : Lease) : (s.setLease n x).nextOp = s.nextOp := rfl
@[simp] theorem setLease_stamp (n : Nat) (x : Lease) : (s.setLease n x).stamp = s.stamp := rfl
@[simp] theorem setLease_outbox (n : Nat) (x : Lease) : (s.setLease n x).outbox = s.outbox := rfl
@[simp] theorem setLease_time (n : Nat) (x : Lease) : (s.setLease n x).time = s.time := rfl
@[simp] theorem setLease_strs (n : Nat) (x : Lease) : (s.setLease n x).strs = s.strs := rfl
@[simp] theorem setLease_pkgRegs (n : Nat) (x : Lease) : (s.setLease n x).pkgRegs = s.pkgRegs := rfl
@[simp] theorem setLease_worldRegs (n : Nat) (x : Lease) : (s.setLease n x).worldRegs = s.worldRegs := rfl
@[simp] theorem setLease_partRegs (n : Nat) (x : Lease) : (s.setLease n x).partRegs = s.partRegs := rfl
@[simp] theorem setLease_mem (n : Nat) (x : Lease) : (s.setLease n x).mem = s.mem := rfl
@[simp] theorem setLease_xl (n : Nat) (x : Lease) : (s.setLease n x).xl = s.xl := rfl
@[simp] theorem setLease_sch (n : Nat) (x : Lease) : (s.setLease n x).sch = s.sch := rfl
@[simp] theorem setLease_stored (n : Nat) (x : Lease) : (s.setLease n x).stored = s.stored := rfl
@[simp] theorem setLease_eng (n : Nat) (x : Lease) : (s.setLease n x).eng = s.eng := rfl
@[simp] theorem setLease_fab_lanes (n : Nat) (x : Lease) : (s.setLease n x).fab.lanes = s.fab.lanes := rfl
@[simp] theorem setLease_fab_peers (n : Nat) (x : Lease) : (s.setLease n x).fab.peers = s.fab.peers := rfl
@[simp] theorem setLease_fab_pairs (n : Nat) (x : Lease) : (s.setLease n x).fab.pairs = s.fab.pairs := rfl
@[simp] theorem setLease_fab_leases (n : Nat) (x : Lease) : (s.setLease n x).fab.leases = tset Lease.free s.fab.leases n x := rfl
@[simp] theorem setLease_fab_waiting (n : Nat) (x : Lease) : (s.setLease n x).fab.waiting = s.fab.waiting := rfl
@[simp] theorem setLease_fab_turn (n : Nat) (x : Lease) : (s.setLease n x).fab.turn = s.fab.turn := rfl
@[simp] theorem setLease_fab_rems (n : Nat) (x : Lease) : (s.setLease n x).fab.rems = s.fab.rems := rfl
@[simp] theorem setLease_fab_fails (n : Nat) (x : Lease) : (s.setLease n x).fab.fails = s.fab.fails := rfl
@[simp] theorem setLease_fab_started (n : Nat) (x : Lease) : (s.setLease n x).fab.started = s.fab.started := rfl
@[simp] theorem setLease_fab_full (n : Nat) (x : Lease) : (s.setLease n x).fab.full = s.fab.full := rfl
@[simp] theorem setLease_way (n : Nat) (x : Lease) : (s.setLease n x).way = s.way := rfl
@[simp] theorem setLease_tr (n : Nat) (x : Lease) : (s.setLease n x).tr = s.tr := rfl
@[simp] theorem setLease_nv (n : Nat) (x : Lease) : (s.setLease n x).nv = s.nv := rfl
@[simp] theorem setLease_boot (n : Nat) (x : Lease) : (s.setLease n x).boot = s.boot := rfl

/-! ### putPend -/

@[simp] theorem putPend_agenda (e : Pend) : (s.putPend e).agenda = s.agenda := rfl
@[simp] theorem putPend_turn (e : Pend) : (s.putPend e).turn = s.turn := rfl
@[simp] theorem putPend_curUnit (e : Pend) : (s.putPend e).curUnit = s.curUnit := rfl
@[simp] theorem putPend_curPath (e : Pend) : (s.putPend e).curPath = s.curPath := rfl
@[simp] theorem putPend_curWord (e : Pend) : (s.putPend e).curWord = s.curWord := rfl
@[simp] theorem putPend_arg (e : Pend) : (s.putPend e).arg = s.arg := rfl
@[simp] theorem putPend_fresh (e : Pend) : (s.putPend e).fresh = s.fresh := rfl
@[simp] theorem putPend_nextOp (e : Pend) : (s.putPend e).nextOp = s.nextOp := rfl
@[simp] theorem putPend_stamp (e : Pend) : (s.putPend e).stamp = s.stamp := rfl
@[simp] theorem putPend_outbox (e : Pend) : (s.putPend e).outbox = s.outbox := rfl
@[simp] theorem putPend_time (e : Pend) : (s.putPend e).time = s.time := rfl
@[simp] theorem putPend_strs (e : Pend) : (s.putPend e).strs = s.strs := rfl
@[simp] theorem putPend_pkgRegs (e : Pend) : (s.putPend e).pkgRegs = s.pkgRegs := rfl
@[simp] theorem putPend_worldRegs (e : Pend) : (s.putPend e).worldRegs = s.worldRegs := rfl
@[simp] theorem putPend_partRegs (e : Pend) : (s.putPend e).partRegs = s.partRegs := rfl
@[simp] theorem putPend_mem (e : Pend) : (s.putPend e).mem = s.mem := rfl
@[simp] theorem putPend_xl (e : Pend) : (s.putPend e).xl = s.xl := rfl
@[simp] theorem putPend_sch (e : Pend) : (s.putPend e).sch = s.sch := rfl
@[simp] theorem putPend_stored (e : Pend) : (s.putPend e).stored = s.stored := rfl
@[simp] theorem putPend_eng (e : Pend) : (s.putPend e).eng = s.eng := rfl
@[simp] theorem putPend_fab (e : Pend) : (s.putPend e).fab = s.fab := rfl
@[simp] theorem putPend_way_posts (e : Pend) : (s.putPend e).way.posts = s.way.posts := rfl
@[simp] theorem putPend_way_pends (e : Pend) : (s.putPend e).way.pends = s.way.pends.map (fun x => if x.id = e.id then e else x) := rfl
@[simp] theorem putPend_way_nextId (e : Pend) : (s.putPend e).way.nextId = s.way.nextId := rfl
@[simp] theorem putPend_way_turn (e : Pend) : (s.putPend e).way.turn = s.way.turn := rfl
@[simp] theorem putPend_way_mcache (e : Pend) : (s.putPend e).way.mcache = s.way.mcache := rfl
@[simp] theorem putPend_way_copies (e : Pend) : (s.putPend e).way.copies = s.way.copies := rfl
@[simp] theorem putPend_way_evicts (e : Pend) : (s.putPend e).way.evicts = s.way.evicts := rfl
@[simp] theorem putPend_way_jobs (e : Pend) : (s.putPend e).way.jobs = s.way.jobs := rfl
@[simp] theorem putPend_tr (e : Pend) : (s.putPend e).tr = s.tr := rfl
@[simp] theorem putPend_nv (e : Pend) : (s.putPend e).nv = s.nv := rfl
@[simp] theorem putPend_boot (e : Pend) : (s.putPend e).boot = s.boot := rfl

/-! ### dropPend -/

@[simp] theorem dropPend_agenda (i : Nat) : (s.dropPend i).agenda = s.agenda := rfl
@[simp] theorem dropPend_turn (i : Nat) : (s.dropPend i).turn = s.turn := rfl
@[simp] theorem dropPend_curUnit (i : Nat) : (s.dropPend i).curUnit = s.curUnit := rfl
@[simp] theorem dropPend_curPath (i : Nat) : (s.dropPend i).curPath = s.curPath := rfl
@[simp] theorem dropPend_curWord (i : Nat) : (s.dropPend i).curWord = s.curWord := rfl
@[simp] theorem dropPend_arg (i : Nat) : (s.dropPend i).arg = s.arg := rfl
@[simp] theorem dropPend_fresh (i : Nat) : (s.dropPend i).fresh = s.fresh := rfl
@[simp] theorem dropPend_nextOp (i : Nat) : (s.dropPend i).nextOp = s.nextOp := rfl
@[simp] theorem dropPend_stamp (i : Nat) : (s.dropPend i).stamp = s.stamp := rfl
@[simp] theorem dropPend_outbox (i : Nat) : (s.dropPend i).outbox = s.outbox := rfl
@[simp] theorem dropPend_time (i : Nat) : (s.dropPend i).time = s.time := rfl
@[simp] theorem dropPend_strs (i : Nat) : (s.dropPend i).strs = s.strs := rfl
@[simp] theorem dropPend_pkgRegs (i : Nat) : (s.dropPend i).pkgRegs = s.pkgRegs := rfl
@[simp] theorem dropPend_worldRegs (i : Nat) : (s.dropPend i).worldRegs = s.worldRegs := rfl
@[simp] theorem dropPend_partRegs (i : Nat) : (s.dropPend i).partRegs = s.partRegs := rfl
@[simp] theorem dropPend_mem (i : Nat) : (s.dropPend i).mem = s.mem := rfl
@[simp] theorem dropPend_xl (i : Nat) : (s.dropPend i).xl = s.xl := rfl
@[simp] theorem dropPend_sch (i : Nat) : (s.dropPend i).sch = s.sch := rfl
@[simp] theorem dropPend_stored (i : Nat) : (s.dropPend i).stored = s.stored := rfl
@[simp] theorem dropPend_eng (i : Nat) : (s.dropPend i).eng = s.eng := rfl
@[simp] theorem dropPend_fab (i : Nat) : (s.dropPend i).fab = s.fab := rfl
@[simp] theorem dropPend_way_posts (i : Nat) : (s.dropPend i).way.posts = s.way.posts := rfl
@[simp] theorem dropPend_way_pends (i : Nat) : (s.dropPend i).way.pends = s.way.pends.filter (fun x => x.id != i) := rfl
@[simp] theorem dropPend_way_nextId (i : Nat) : (s.dropPend i).way.nextId = s.way.nextId := rfl
@[simp] theorem dropPend_way_turn (i : Nat) : (s.dropPend i).way.turn = s.way.turn := rfl
@[simp] theorem dropPend_way_mcache (i : Nat) : (s.dropPend i).way.mcache = s.way.mcache := rfl
@[simp] theorem dropPend_way_copies (i : Nat) : (s.dropPend i).way.copies = s.way.copies := rfl
@[simp] theorem dropPend_way_evicts (i : Nat) : (s.dropPend i).way.evicts = s.way.evicts := rfl
@[simp] theorem dropPend_way_jobs (i : Nat) : (s.dropPend i).way.jobs = s.way.jobs := rfl
@[simp] theorem dropPend_tr (i : Nat) : (s.dropPend i).tr = s.tr := rfl
@[simp] theorem dropPend_nv (i : Nat) : (s.dropPend i).nv = s.nv := rfl
@[simp] theorem dropPend_boot (i : Nat) : (s.dropPend i).boot = s.boot := rfl

/-! ### dropJob -/

@[simp] theorem dropJob_agenda (k : Nat) : (s.dropJob k).agenda = s.agenda := rfl
@[simp] theorem dropJob_turn (k : Nat) : (s.dropJob k).turn = s.turn := rfl
@[simp] theorem dropJob_curUnit (k : Nat) : (s.dropJob k).curUnit = s.curUnit := rfl
@[simp] theorem dropJob_curPath (k : Nat) : (s.dropJob k).curPath = s.curPath := rfl
@[simp] theorem dropJob_curWord (k : Nat) : (s.dropJob k).curWord = s.curWord := rfl
@[simp] theorem dropJob_arg (k : Nat) : (s.dropJob k).arg = s.arg := rfl
@[simp] theorem dropJob_fresh (k : Nat) : (s.dropJob k).fresh = s.fresh := rfl
@[simp] theorem dropJob_nextOp (k : Nat) : (s.dropJob k).nextOp = s.nextOp := rfl
@[simp] theorem dropJob_stamp (k : Nat) : (s.dropJob k).stamp = s.stamp := rfl
@[simp] theorem dropJob_outbox (k : Nat) : (s.dropJob k).outbox = s.outbox := rfl
@[simp] theorem dropJob_time (k : Nat) : (s.dropJob k).time = s.time := rfl
@[simp] theorem dropJob_strs (k : Nat) : (s.dropJob k).strs = s.strs := rfl
@[simp] theorem dropJob_pkgRegs (k : Nat) : (s.dropJob k).pkgRegs = s.pkgRegs := rfl
@[simp] theorem dropJob_worldRegs (k : Nat) : (s.dropJob k).worldRegs = s.worldRegs := rfl
@[simp] theorem dropJob_partRegs (k : Nat) : (s.dropJob k).partRegs = s.partRegs := rfl
@[simp] theorem dropJob_mem (k : Nat) : (s.dropJob k).mem = s.mem := rfl
@[simp] theorem dropJob_xl (k : Nat) : (s.dropJob k).xl = s.xl := rfl
@[simp] theorem dropJob_sch (k : Nat) : (s.dropJob k).sch = s.sch := rfl
@[simp] theorem dropJob_stored (k : Nat) : (s.dropJob k).stored = s.stored := rfl
@[simp] theorem dropJob_eng (k : Nat) : (s.dropJob k).eng = s.eng := rfl
@[simp] theorem dropJob_fab (k : Nat) : (s.dropJob k).fab = s.fab := rfl
@[simp] theorem dropJob_way_posts (k : Nat) : (s.dropJob k).way.posts = s.way.posts := rfl
@[simp] theorem dropJob_way_pends (k : Nat) : (s.dropJob k).way.pends = s.way.pends := rfl
@[simp] theorem dropJob_way_nextId (k : Nat) : (s.dropJob k).way.nextId = s.way.nextId := rfl
@[simp] theorem dropJob_way_turn (k : Nat) : (s.dropJob k).way.turn = s.way.turn := rfl
@[simp] theorem dropJob_way_mcache (k : Nat) : (s.dropJob k).way.mcache = s.way.mcache := rfl
@[simp] theorem dropJob_way_copies (k : Nat) : (s.dropJob k).way.copies = s.way.copies := rfl
@[simp] theorem dropJob_way_evicts (k : Nat) : (s.dropJob k).way.evicts = s.way.evicts := rfl
@[simp] theorem dropJob_way_jobs (k : Nat) : (s.dropJob k).way.jobs = s.way.jobs.filter (fun j => j.key != k) := rfl
@[simp] theorem dropJob_tr (k : Nat) : (s.dropJob k).tr = s.tr := rfl
@[simp] theorem dropJob_nv (k : Nat) : (s.dropJob k).nv = s.nv := rfl
@[simp] theorem dropJob_boot (k : Nat) : (s.dropJob k).boot = s.boot := rfl

/-! ### purge -/

@[simp] theorem purge_agenda : (s.purge).agenda = s.agenda := rfl
@[simp] theorem purge_turn : (s.purge).turn = s.turn := rfl
@[simp] theorem purge_curUnit : (s.purge).curUnit = s.curUnit := rfl
@[simp] theorem purge_curPath : (s.purge).curPath = s.curPath := rfl
@[simp] theorem purge_curWord : (s.purge).curWord = s.curWord := rfl
@[simp] theorem purge_arg : (s.purge).arg = s.arg := rfl
@[simp] theorem purge_fresh : (s.purge).fresh = s.fresh := rfl
@[simp] theorem purge_nextOp : (s.purge).nextOp = s.nextOp := rfl
@[simp] theorem purge_stamp : (s.purge).stamp = s.stamp := rfl
@[simp] theorem purge_outbox : (s.purge).outbox = s.outbox := rfl
@[simp] theorem purge_time : (s.purge).time = s.time := rfl
@[simp] theorem purge_strs : (s.purge).strs = s.strs := rfl
@[simp] theorem purge_pkgRegs : (s.purge).pkgRegs = s.pkgRegs := rfl
@[simp] theorem purge_worldRegs : (s.purge).worldRegs = s.worldRegs := rfl
@[simp] theorem purge_partRegs : (s.purge).partRegs = s.partRegs := rfl
@[simp] theorem purge_mem : (s.purge).mem = s.mem := rfl
@[simp] theorem purge_xl : (s.purge).xl = s.xl := rfl
@[simp] theorem purge_sch : (s.purge).sch = s.sch := rfl
@[simp] theorem purge_stored : (s.purge).stored = s.stored := rfl
@[simp] theorem purge_eng : (s.purge).eng = s.eng := rfl
@[simp] theorem purge_fab : (s.purge).fab = s.fab := rfl
@[simp] theorem purge_way : (s.purge).way = s.way := rfl
@[simp] theorem purge_tr_policies : (s.purge).tr.policies = s.tr.policies.filter (fun e => decide (s.mono < e.2.expiry)) := rfl
@[simp] theorem purge_tr_attested : (s.purge).tr.attested = s.tr.attested := rfl
@[simp] theorem purge_tr_keys : (s.purge).tr.keys = s.tr.keys := rfl
@[simp] theorem purge_tr_nextKey : (s.purge).tr.nextKey = s.tr.nextKey := rfl
@[simp] theorem purge_tr_origins : (s.purge).tr.origins = s.tr.origins := rfl
@[simp] theorem purge_tr_serial : (s.purge).tr.serial = s.tr.serial := rfl
@[simp] theorem purge_tr_meas : (s.purge).tr.meas = s.tr.meas := rfl
@[simp] theorem purge_tr_log : (s.purge).tr.log = s.tr.log := rfl
@[simp] theorem purge_tr_cmds : (s.purge).tr.cmds = s.tr.cmds := rfl
@[simp] theorem purge_tr_checks : (s.purge).tr.checks = s.tr.checks := rfl
@[simp] theorem purge_tr_nonces : (s.purge).tr.nonces = s.tr.nonces := rfl
@[simp] theorem purge_tr_bootKey : (s.purge).tr.bootKey = s.tr.bootKey := rfl
@[simp] theorem purge_tr_bootLeaf : (s.purge).tr.bootLeaf = s.tr.bootLeaf := rfl
@[simp] theorem purge_tr_bootCert : (s.purge).tr.bootCert = s.tr.bootCert := rfl
@[simp] theorem purge_tr_fwm : (s.purge).tr.fwm = s.tr.fwm := rfl
@[simp] theorem purge_nv : (s.purge).nv = s.nv := rfl
@[simp] theorem purge_boot : (s.purge).boot = s.boot := rfl

variable (t : Str)

/-! ### Str.sput -/

@[simp] theorem str_sput_outrider (r : Nat) (w : Word) (b : Waybill) : (t.sput r w b).outrider = t.outrider := rfl
@[simp] theorem str_sput_runs (r : Nat) (w : Word) (b : Waybill) : (t.sput r w b).runs = t.runs := rfl
@[simp] theorem str_sput_bound (r : Nat) (w : Word) (b : Waybill) : (t.sput r w b).bound = t.bound := rfl
@[simp] theorem str_sput_world (r : Nat) (w : Word) (b : Waybill) : (t.sput r w b).world = t.world := rfl
@[simp] theorem str_sput_launch (r : Nat) (w : Word) (b : Waybill) : (t.sput r w b).launch = t.launch := rfl
@[simp] theorem str_sput_party (r : Nat) (w : Word) (b : Waybill) : (t.sput r w b).party = t.party := rfl
@[simp] theorem str_sput_index (r : Nat) (w : Word) (b : Waybill) : (t.sput r w b).index = t.index := rfl
@[simp] theorem str_sput_vblk (r : Nat) (w : Word) (b : Waybill) : (t.sput r w b).vblk = t.vblk := rfl
@[simp] theorem str_sput_lmask (r : Nat) (w : Word) (b : Waybill) : (t.sput r w b).lmask = t.lmask := rfl
@[simp] theorem str_sput_launchLanes (r : Nat) (w : Word) (b : Waybill) : (t.sput r w b).launchLanes = t.launchLanes := rfl
@[simp] theorem str_sput_stack (r : Nat) (w : Word) (b : Waybill) : (t.sput r w b).stack = t.stack := rfl
@[simp] theorem str_sput_p0 (r : Nat) (w : Word) (b : Waybill) : (t.sput r w b).p0 = t.p0 := rfl
@[simp] theorem str_sput_p1 (r : Nat) (w : Word) (b : Waybill) : (t.sput r w b).p1 = t.p1 := rfl
@[simp] theorem str_sput_s (r : Nat) (w : Word) (b : Waybill) : (t.sput r w b).s = tset 0 t.s r w := rfl
@[simp] theorem str_sput_swb (r : Nat) (w : Word) (b : Waybill) : (t.sput r w b).swb = tset 0 t.swb r b := rfl
@[simp] theorem str_sput_v (r : Nat) (w : Word) (b : Waybill) : (t.sput r w b).v = t.v := rfl
@[simp] theorem str_sput_vwb (r : Nat) (w : Word) (b : Waybill) : (t.sput r w b).vwb = t.vwb := rfl
@[simp] theorem str_sput_regPoison (r : Nat) (w : Word) (b : Waybill) : (t.sput r w b).regPoison = t.regPoison.filter (fun x => decide (x ≠ 128 + r)) := rfl
@[simp] theorem str_sput_p (r : Nat) (w : Word) (b : Waybill) : (t.sput r w b).p = t.p := rfl
@[simp] theorem str_sput_pwb (r : Nat) (w : Word) (b : Waybill) : (t.sput r w b).pwb = t.pwb := rfl
@[simp] theorem str_sput_q (r : Nat) (w : Word) (b : Waybill) : (t.sput r w b).q = t.q := rfl
@[simp] theorem str_sput_qwb (r : Nat) (w : Word) (b : Waybill) : (t.sput r w b).qwb = t.qwb := rfl
@[simp] theorem str_sput_lstart (r : Nat) (w : Word) (b : Waybill) : (t.sput r w b).lstart = t.lstart := rfl
@[simp] theorem str_sput_lend (r : Nat) (w : Word) (b : Waybill) : (t.sput r w b).lend = t.lend := rfl
@[simp] theorem str_sput_lcount (r : Nat) (w : Word) (b : Waybill) : (t.sput r w b).lcount = t.lcount := rfl
@[simp] theorem str_sput_repidx (r : Nat) (w : Word) (b : Waybill) : (t.sput r w b).repidx = t.repidx := rfl
@[simp] theorem str_sput_sys (r : Nat) (w : Word) (b : Waybill) : (t.sput r w b).sys = t.sys := rfl
@[simp] theorem str_sput_tickPending (r : Nat) (w : Word) (b : Waybill) : (t.sput r w b).tickPending = t.tickPending := rfl
@[simp] theorem str_sput_trapLevel (r : Nat) (w : Word) (b : Waybill) : (t.sput r w b).trapLevel = t.trapLevel := rfl
@[simp] theorem str_sput_userTraps (r : Nat) (w : Word) (b : Waybill) : (t.sput r w b).userTraps = t.userTraps := rfl
@[simp] theorem str_sput_traps (r : Nat) (w : Word) (b : Waybill) : (t.sput r w b).traps = t.traps := rfl
@[simp] theorem str_sput_before (r : Nat) (w : Word) (b : Waybill) : (t.sput r w b).before = t.before := rfl
@[simp] theorem str_sput_tried (r : Nat) (w : Word) (b : Waybill) : (t.sput r w b).tried = t.tried := rfl
@[simp] theorem str_sput_served (r : Nat) (w : Word) (b : Waybill) : (t.sput r w b).served = t.served := rfl
@[simp] theorem str_sput_onPath (r : Nat) (w : Word) (b : Waybill) : (t.sput r w b).onPath = t.onPath := rfl
@[simp] theorem str_sput_told (r : Nat) (w : Word) (b : Waybill) : (t.sput r w b).told = t.told := rfl
@[simp] theorem str_sput_dbg (r : Nat) (w : Word) (b : Waybill) : (t.sput r w b).dbg = t.dbg := rfl
@[simp] theorem str_sput_brkh (r : Nat) (w : Word) (b : Waybill) : (t.sput r w b).brkh = t.brkh := rfl
@[simp] theorem str_sput_stepping (r : Nat) (w : Word) (b : Waybill) : (t.sput r w b).stepping = t.stepping := rfl
@[simp] theorem str_sput_stopTenant (r : Nat) (w : Word) (b : Waybill) : (t.sput r w b).stopTenant = t.stopTenant := rfl
@[simp] theorem str_sput_stopNow (r : Nat) (w : Word) (b : Waybill) : (t.sput r w b).stopNow = t.stopNow := rfl
@[simp] theorem str_sput_stopAt (r : Nat) (w : Word) (b : Waybill) : (t.sput r w b).stopAt = t.stopAt := rfl
@[simp] theorem str_sput_captured (r : Nat) (w : Word) (b : Waybill) : (t.sput r w b).captured = t.captured := rfl
@[simp] theorem str_sput_reports (r : Nat) (w : Word) (b : Waybill) : (t.sput r w b).reports = t.reports := rfl
@[simp] theorem str_sput_oq (r : Nat) (w : Word) (b : Waybill) : (t.sput r w b).oq = t.oq := rfl
@[simp] theorem str_sput_nacks (r : Nat) (w : Word) (b : Waybill) : (t.sput r w b).nacks = t.nacks := rfl
@[simp] theorem str_sput_unacked (r : Nat) (w : Word) (b : Waybill) : (t.sput r w b).unacked = t.unacked := rfl
@[simp] theorem str_sput_stamp (r : Nat) (w : Word) (b : Waybill) : (t.sput r w b).stamp = t.stamp := rfl
@[simp] theorem str_sput_yielded (r : Nat) (w : Word) (b : Waybill) : (t.sput r w b).yielded = t.yielded := rfl

/-! ### Str.vput -/

@[simp] theorem str_vput_outrider (r l : Nat) (w : Word) : (t.vput r l w).outrider = t.outrider := rfl
@[simp] theorem str_vput_runs (r l : Nat) (w : Word) : (t.vput r l w).runs = t.runs := rfl
@[simp] theorem str_vput_bound (r l : Nat) (w : Word) : (t.vput r l w).bound = t.bound := rfl
@[simp] theorem str_vput_world (r l : Nat) (w : Word) : (t.vput r l w).world = t.world := rfl
@[simp] theorem str_vput_launch (r l : Nat) (w : Word) : (t.vput r l w).launch = t.launch := rfl
@[simp] theorem str_vput_party (r l : Nat) (w : Word) : (t.vput r l w).party = t.party := rfl
@[simp] theorem str_vput_index (r l : Nat) (w : Word) : (t.vput r l w).index = t.index := rfl
@[simp] theorem str_vput_vblk (r l : Nat) (w : Word) : (t.vput r l w).vblk = t.vblk := rfl
@[simp] theorem str_vput_lmask (r l : Nat) (w : Word) : (t.vput r l w).lmask = t.lmask := rfl
@[simp] theorem str_vput_launchLanes (r l : Nat) (w : Word) : (t.vput r l w).launchLanes = t.launchLanes := rfl
@[simp] theorem str_vput_stack (r l : Nat) (w : Word) : (t.vput r l w).stack = t.stack := rfl
@[simp] theorem str_vput_p0 (r l : Nat) (w : Word) : (t.vput r l w).p0 = t.p0 := rfl
@[simp] theorem str_vput_p1 (r l : Nat) (w : Word) : (t.vput r l w).p1 = t.p1 := rfl
@[simp] theorem str_vput_s (r l : Nat) (w : Word) : (t.vput r l w).s = t.s := rfl
@[simp] theorem str_vput_swb (r l : Nat) (w : Word) : (t.vput r l w).swb = t.swb := rfl
@[simp] theorem str_vput_v (r l : Nat) (w : Word) : (t.vput r l w).v = tset 0 t.v (32 * r + l) w := rfl
@[simp] theorem str_vput_vwb (r l : Nat) (w : Word) : (t.vput r l w).vwb = t.vwb := rfl
@[simp] theorem str_vput_regPoison (r l : Nat) (w : Word) : (t.vput r l w).regPoison = t.regPoison := rfl
@[simp] theorem str_vput_p (r l : Nat) (w : Word) : (t.vput r l w).p = t.p := rfl
@[simp] theorem str_vput_pwb (r l : Nat) (w : Word) : (t.vput r l w).pwb = t.pwb := rfl
@[simp] theorem str_vput_q (r l : Nat) (w : Word) : (t.vput r l w).q = t.q := rfl
@[simp] theorem str_vput_qwb (r l : Nat) (w : Word) : (t.vput r l w).qwb = t.qwb := rfl
@[simp] theorem str_vput_lstart (r l : Nat) (w : Word) : (t.vput r l w).lstart = t.lstart := rfl
@[simp] theorem str_vput_lend (r l : Nat) (w : Word) : (t.vput r l w).lend = t.lend := rfl
@[simp] theorem str_vput_lcount (r l : Nat) (w : Word) : (t.vput r l w).lcount = t.lcount := rfl
@[simp] theorem str_vput_repidx (r l : Nat) (w : Word) : (t.vput r l w).repidx = t.repidx := rfl
@[simp] theorem str_vput_sys (r l : Nat) (w : Word) : (t.vput r l w).sys = t.sys := rfl
@[simp] theorem str_vput_tickPending (r l : Nat) (w : Word) : (t.vput r l w).tickPending = t.tickPending := rfl
@[simp] theorem str_vput_trapLevel (r l : Nat) (w : Word) : (t.vput r l w).trapLevel = t.trapLevel := rfl
@[simp] theorem str_vput_userTraps (r l : Nat) (w : Word) : (t.vput r l w).userTraps = t.userTraps := rfl
@[simp] theorem str_vput_traps (r l : Nat) (w : Word) : (t.vput r l w).traps = t.traps := rfl
@[simp] theorem str_vput_before (r l : Nat) (w : Word) : (t.vput r l w).before = t.before := rfl
@[simp] theorem str_vput_tried (r l : Nat) (w : Word) : (t.vput r l w).tried = t.tried := rfl
@[simp] theorem str_vput_served (r l : Nat) (w : Word) : (t.vput r l w).served = t.served := rfl
@[simp] theorem str_vput_onPath (r l : Nat) (w : Word) : (t.vput r l w).onPath = t.onPath := rfl
@[simp] theorem str_vput_told (r l : Nat) (w : Word) : (t.vput r l w).told = t.told := rfl
@[simp] theorem str_vput_dbg (r l : Nat) (w : Word) : (t.vput r l w).dbg = t.dbg := rfl
@[simp] theorem str_vput_brkh (r l : Nat) (w : Word) : (t.vput r l w).brkh = t.brkh := rfl
@[simp] theorem str_vput_stepping (r l : Nat) (w : Word) : (t.vput r l w).stepping = t.stepping := rfl
@[simp] theorem str_vput_stopTenant (r l : Nat) (w : Word) : (t.vput r l w).stopTenant = t.stopTenant := rfl
@[simp] theorem str_vput_stopNow (r l : Nat) (w : Word) : (t.vput r l w).stopNow = t.stopNow := rfl
@[simp] theorem str_vput_stopAt (r l : Nat) (w : Word) : (t.vput r l w).stopAt = t.stopAt := rfl
@[simp] theorem str_vput_captured (r l : Nat) (w : Word) : (t.vput r l w).captured = t.captured := rfl
@[simp] theorem str_vput_reports (r l : Nat) (w : Word) : (t.vput r l w).reports = t.reports := rfl
@[simp] theorem str_vput_oq (r l : Nat) (w : Word) : (t.vput r l w).oq = t.oq := rfl
@[simp] theorem str_vput_nacks (r l : Nat) (w : Word) : (t.vput r l w).nacks = t.nacks := rfl
@[simp] theorem str_vput_unacked (r l : Nat) (w : Word) : (t.vput r l w).unacked = t.unacked := rfl
@[simp] theorem str_vput_stamp (r l : Nat) (w : Word) : (t.vput r l w).stamp = t.stamp := rfl
@[simp] theorem str_vput_yielded (r l : Nat) (w : Word) : (t.vput r l w).yielded = t.yielded := rfl

/-! ### Str.setReg -/

@[simp] theorem str_setReg_outrider (n : Nat) (v : Dword) : (t.setReg n v).outrider = t.outrider := rfl
@[simp] theorem str_setReg_runs (n : Nat) (v : Dword) : (t.setReg n v).runs = t.runs := rfl
@[simp] theorem str_setReg_bound (n : Nat) (v : Dword) : (t.setReg n v).bound = t.bound := rfl
@[simp] theorem str_setReg_world (n : Nat) (v : Dword) : (t.setReg n v).world = t.world := rfl
@[simp] theorem str_setReg_launch (n : Nat) (v : Dword) : (t.setReg n v).launch = t.launch := rfl
@[simp] theorem str_setReg_party (n : Nat) (v : Dword) : (t.setReg n v).party = t.party := rfl
@[simp] theorem str_setReg_index (n : Nat) (v : Dword) : (t.setReg n v).index = t.index := rfl
@[simp] theorem str_setReg_vblk (n : Nat) (v : Dword) : (t.setReg n v).vblk = t.vblk := rfl
@[simp] theorem str_setReg_lmask (n : Nat) (v : Dword) : (t.setReg n v).lmask = t.lmask := rfl
@[simp] theorem str_setReg_launchLanes (n : Nat) (v : Dword) : (t.setReg n v).launchLanes = t.launchLanes := rfl
@[simp] theorem str_setReg_stack (n : Nat) (v : Dword) : (t.setReg n v).stack = t.stack := rfl
@[simp] theorem str_setReg_p0 (n : Nat) (v : Dword) : (t.setReg n v).p0 = t.p0 := rfl
@[simp] theorem str_setReg_p1 (n : Nat) (v : Dword) : (t.setReg n v).p1 = t.p1 := rfl
@[simp] theorem str_setReg_s (n : Nat) (v : Dword) : (t.setReg n v).s = t.s := rfl
@[simp] theorem str_setReg_swb (n : Nat) (v : Dword) : (t.setReg n v).swb = t.swb := rfl
@[simp] theorem str_setReg_v (n : Nat) (v : Dword) : (t.setReg n v).v = t.v := rfl
@[simp] theorem str_setReg_vwb (n : Nat) (v : Dword) : (t.setReg n v).vwb = t.vwb := rfl
@[simp] theorem str_setReg_regPoison (n : Nat) (v : Dword) : (t.setReg n v).regPoison = t.regPoison := rfl
@[simp] theorem str_setReg_p (n : Nat) (v : Dword) : (t.setReg n v).p = t.p := rfl
@[simp] theorem str_setReg_pwb (n : Nat) (v : Dword) : (t.setReg n v).pwb = t.pwb := rfl
@[simp] theorem str_setReg_q (n : Nat) (v : Dword) : (t.setReg n v).q = t.q := rfl
@[simp] theorem str_setReg_qwb (n : Nat) (v : Dword) : (t.setReg n v).qwb = t.qwb := rfl
@[simp] theorem str_setReg_lstart (n : Nat) (v : Dword) : (t.setReg n v).lstart = t.lstart := rfl
@[simp] theorem str_setReg_lend (n : Nat) (v : Dword) : (t.setReg n v).lend = t.lend := rfl
@[simp] theorem str_setReg_lcount (n : Nat) (v : Dword) : (t.setReg n v).lcount = t.lcount := rfl
@[simp] theorem str_setReg_repidx (n : Nat) (v : Dword) : (t.setReg n v).repidx = t.repidx := rfl
@[simp] theorem str_setReg_sys (n : Nat) (v : Dword) : (t.setReg n v).sys = tset 0 t.sys n v := rfl
@[simp] theorem str_setReg_tickPending (n : Nat) (v : Dword) : (t.setReg n v).tickPending = t.tickPending := rfl
@[simp] theorem str_setReg_trapLevel (n : Nat) (v : Dword) : (t.setReg n v).trapLevel = t.trapLevel := rfl
@[simp] theorem str_setReg_userTraps (n : Nat) (v : Dword) : (t.setReg n v).userTraps = t.userTraps := rfl
@[simp] theorem str_setReg_traps (n : Nat) (v : Dword) : (t.setReg n v).traps = t.traps := rfl
@[simp] theorem str_setReg_before (n : Nat) (v : Dword) : (t.setReg n v).before = t.before := rfl
@[simp] theorem str_setReg_tried (n : Nat) (v : Dword) : (t.setReg n v).tried = t.tried := rfl
@[simp] theorem str_setReg_served (n : Nat) (v : Dword) : (t.setReg n v).served = t.served := rfl
@[simp] theorem str_setReg_onPath (n : Nat) (v : Dword) : (t.setReg n v).onPath = t.onPath := rfl
@[simp] theorem str_setReg_told (n : Nat) (v : Dword) : (t.setReg n v).told = t.told := rfl
@[simp] theorem str_setReg_dbg (n : Nat) (v : Dword) : (t.setReg n v).dbg = t.dbg := rfl
@[simp] theorem str_setReg_brkh (n : Nat) (v : Dword) : (t.setReg n v).brkh = t.brkh := rfl
@[simp] theorem str_setReg_stepping (n : Nat) (v : Dword) : (t.setReg n v).stepping = t.stepping := rfl
@[simp] theorem str_setReg_stopTenant (n : Nat) (v : Dword) : (t.setReg n v).stopTenant = t.stopTenant := rfl
@[simp] theorem str_setReg_stopNow (n : Nat) (v : Dword) : (t.setReg n v).stopNow = t.stopNow := rfl
@[simp] theorem str_setReg_stopAt (n : Nat) (v : Dword) : (t.setReg n v).stopAt = t.stopAt := rfl
@[simp] theorem str_setReg_captured (n : Nat) (v : Dword) : (t.setReg n v).captured = t.captured := rfl
@[simp] theorem str_setReg_reports (n : Nat) (v : Dword) : (t.setReg n v).reports = t.reports := rfl
@[simp] theorem str_setReg_oq (n : Nat) (v : Dword) : (t.setReg n v).oq = t.oq := rfl
@[simp] theorem str_setReg_nacks (n : Nat) (v : Dword) : (t.setReg n v).nacks = t.nacks := rfl
@[simp] theorem str_setReg_unacked (n : Nat) (v : Dword) : (t.setReg n v).unacked = t.unacked := rfl
@[simp] theorem str_setReg_stamp (n : Nat) (v : Dword) : (t.setReg n v).stamp = t.stamp := rfl
@[simp] theorem str_setReg_yielded (n : Nat) (v : Dword) : (t.setReg n v).yielded = t.yielded := rfl

variable (p : Path)

/-! ### Path.goto -/

@[simp] theorem goto_pc (a : Dword) : (p.goto a).pc = a := rfl
@[simp] theorem goto_parkpc (a : Dword) : (p.goto a).parkpc = p.parkpc := rfl
@[simp] theorem goto_mask (a : Dword) : (p.goto a).mask = p.mask := rfl
@[simp] theorem goto_umask (a : Dword) : (p.goto a).umask = 0 := rfl
@[simp] theorem goto_cmask (a : Dword) : (p.goto a).cmask = p.cmask := rfl
@[simp] theorem goto_flow (a : Dword) : (p.goto a).flow = p.flow := rfl
@[simp] theorem goto_binds (a : Dword) : (p.goto a).binds = p.binds := rfl
@[simp] theorem goto_pos (a : Dword) : (p.goto a).pos = 0 := rfl
@[simp] theorem goto_state (a : Dword) : (p.goto a).state = p.state := rfl
@[simp] theorem goto_rep (a : Dword) : (p.goto a).rep = false := rfl
@[simp] theorem goto_woken (a : Dword) : (p.goto a).woken = false := rfl
@[simp] theorem goto_level (a : Dword) : (p.goto a).level = p.level := rfl
@[simp] theorem goto_tinfo (a : Dword) : (p.goto a).tinfo = p.tinfo := rfl
@[simp] theorem goto_rfinfo (a : Dword) : (p.goto a).rfinfo = p.rfinfo := rfl
@[simp] theorem goto_gtinfo (a : Dword) : (p.goto a).gtinfo = p.gtinfo := rfl
@[simp] theorem goto_wsdecl (a : Dword) : (p.goto a).wsdecl = p.wsdecl := rfl
@[simp] theorem goto_hdr (a : Dword) : (p.goto a).hdr = 0 := rfl
@[simp] theorem goto_words (a : Dword) : (p.goto a).words = [] := rfl
@[simp] theorem goto_left (a : Dword) : (p.goto a).left = none := rfl
@[simp] theorem goto_hold (a : Dword) : (p.goto a).hold = .none := rfl
@[simp] theorem goto_vector (a : Dword) : (p.goto a).vector = p.vector := rfl
@[simp] theorem goto_parkOp (a : Dword) : (p.goto a).parkOp = none := rfl
@[simp] theorem goto_skip (a : Dword) : (p.goto a).skip = none := rfl
@[simp] theorem goto_wrec (a : Dword) : (p.goto a).wrec = none := rfl
@[simp] theorem goto_due (a : Dword) : (p.goto a).due = none := rfl
@[simp] theorem goto_missed (a : Dword) : (p.goto a).missed = [] := rfl
@[simp] theorem goto_vals (a : Dword) : (p.goto a).vals = [] := rfl
@[simp] theorem goto_line (a : Dword) : (p.goto a).line = p.line := rfl
@[simp] theorem goto_saved (a : Dword) : (p.goto a).saved = p.saved := rfl

end Sys2Proof.Machine
end

