-- ==== Sys2Proof/Tests/Slice0.lean ====
section
/-! SUPPORT. Tests: ill-formed terms are refused, words of the spec's encoding decode to what they stand for, single steps give the
spec's own results, and each statement's hypotheses are met by some state. Expected values come from the spec or are worked by hand
from its tables. -/

namespace Sys2Proof.Tests
open Sys2Proof Sys2Proof.Machine

set_option maxRecDepth 20000
set_option Elab.async false

/-! ### Helpers -/

/-- A word with an opcode in bits 31 to 24 and fields at their places (R296). -/
def word (op : Nat) (fields : List (Nat × Nat)) : Word := BitVec.ofNat 32 (fields.foldl (fun n f => n + f.1 * 2 ^ f.2) (op * 2 ^ 24))

def reads (w : Word) (i : Instr) : Bool := decide (decode w = .ok i)
def refused (w : Word) : Bool :=
  match decode w with
  | .ok _ => false
  | .error _ => true

/-- The steward's first string, at a NOP, in a machine that is started. -/
def st0 : State := State.reset.withFetchWord 32 0xF4000000

/-- The state with its string, and then its path, altered. -/
def State.str (s : State) (f : Str → Str) : State := s.putStr 0 (f s.cur)
def State.at_ (s : State) (f : Path → Path) : State := State.str s (fun t => { t with p0 := f t.p0 })

/-- A one-word clause before its issue. -/
def atWord (s : State) (w : Word) : State := State.at_ { s with curWord := w } (fun p => { p with words := [w] })

/-- The state after one instruction, and what it shows there. -/
def after (i : Instr) (s : State) (f : State → Bool) : Bool :=
  match exec i s with
  | .next s' => f s'
  | .fault _ => false
  | .refused _ => false

/-- Has the string trapped with this cause? -/
def trapped (i : Instr) (s : State) (cause : Nat) : Bool := after i s (fun s' => s'.cur.reg 0x023 == BitVec.ofNat 64 cause)

def vec (t : Str) (r : Nat) (f : Nat → Word) : Str := (List.range 32).foldl (fun t l => t.vput r l (f l)) t
def uni (t : Str) (r : Nat) (w : Word) : Str := { t with s := tset 0 t.s r w }
def pair (t : Str) (r : Nat) (d : Dword) : Str := uni (uni t r (d.setWidth 32)) (r + 1) ((d.extractLsb' 32 32))

def allReady (s : State) (l : List Instr) : Bool := l.all (fun i => ready i s)
def allGo (s : State) (l : List Instr) : Bool := l.all (fun i => Out.goesOn (exec i s))

/-! ### Ill-formed terms -/

/-- Each check of WellFormed refuses a term: a modifier, a condition, a type pair, a size, a scope, a kind that is not assigned. -/
theorem test_wf_modifiers : ([.iadd 0 0 0 3, .isub 0 0 0 7, .icmp 0 0 0 6, .iadds 0 0 0 3, .icmps 0 0 0 0 7, .lane 0 2, .fcmp 0 0 0 6,
    .fabs 0 0 3 0, .cvt 0 0 0 0 0, .cvt 0 0 11 7 3, .cvtb 0 0 0 3 0 0, .cvtb 0 0 2 2 0 0, .unpkl 0 0 2 2, .packh 0 0 0 3, .vote 0 0 5,
    .matchV 0 0 3 0, .ld 0 0 0 7 0, .st 0 0 0 5 0, .ldsp 0 0 0 7 0, .stsp 0 0 0 6 0, .ldcv 0 0 0 7 0, .stcv 0 0 0 5 0, .lddp 0 0 0 7 0,
    .stdp 0 0 0 5 0, .ldc 0 0 0 7 0, .pfet 0 0 2, .lda 0 0 0 6 0, .stl 0 0 0 7 0, .lda64 0 0 0 6 0, .stl64 0 0 0 6 0, .atadd 0 0 0 6 0,
    .atcas 0 0 0 7 0, .atcas64 0 0 0 6 0, .rld 0 0 0 7 0, .rst 0 0 0 5 0, .ratadd 0 0 0 1 0, .ratcas 0 0 0 4 0, .ratfadd 0 0 0 3 0,
    .scmp 0 0 0 0 6, .scmpi 0 0 7 0 0, .sadd64 0 0 0 3, .slda 0 0 0 6 0, .sstl 0 0 0 6 0, .satadd 0 0 0 6 0, .satcas 0 0 0 6 0,
    .lmask 0 1 1, .bcast 0 0 1 0, .bar 1 0 0, .barcv 1 0 0, .arrv 0 0 6, .bwait 0 0 6, .waitw 0 0 5 0 0, .waitw 0 0 0 4 0,
    .waitw 0 0 0 0 6, .fence 6 0, .mma 0 0 5 0 0, .mmap 0 0 5 0 0, .msca 0 1 1 0 0, .mld 0 0 3 0 0, .mst 0 0 3 0 0, .smxu 0 1 1 0 0 0 0,
    .smxu 0 0 1 0 0 0 3, .smxm 0 1 1 0, .cstat 0 0 0 3, .ccan 0 0 3, .opush 0 0 63 1, .wbrd 0 64 0, .wbrd 0 8 2, .wbrd 0 8 3, .wbrd 0 1 4,
    .wbrd 0 8 5, .wbrd 0 0 6, .sysr 0 0x0F8, .sysr 0 0x009, .sysw 0 0x010, .scrub 0 0 0 3] : List Instr).all (fun i => !i.wf) := by
  decide +kernel

/-- A pair or a quad named by a misaligned register, or past the end of its file, is refused (R298). -/
theorem test_wf_groups : ([.ld 1 0 0 3 0, .ld 2 0 0 4 0, .ld 0 0 1 2 0, .ldsp 0 0 1 2 0, .cvt 1 0 15 11 0, .cvt 0 1 11 15 0, .cvtb 0 1 0 0 1 0,
    .matchV 0 1 0 1, .lda64 1 0 0 0 0, .atcas 1 0 0 0 0, .atcas64 2 0 0 0 0, .rld 0 1 0 2 0, .sld 0 1 0 0, .sld64 1 0 0 0, .sadd64 1 0 0 0,
    .sadd64 0 1 0 0, .sadd64 0 0 1 0, .bri 1 0, .lnch 0 1 0 0, .bwait 1 0 0, .waitw 0 1 0 0 0, .mma 0 0 0 1 0, .xput 0 0 1 0, .cstat 0 1 0 0,
    .ostart 0 0 0 1 0, .lqry 1 0, .sysr 1 0x010, .gpolIns 0 1, .seal 0 1 0, .tlbiPage 0 1 0, .scrub 0 1 0 0, .ctxsv 0 1 0] : List Instr).all
    (fun i => !i.wf) := by
  decide +kernel

/-- The same terms on aligned registers are well formed: .sadd64 with a 32-bit source may name an odd one. -/
theorem test_wf_accepts : ([.iadd 127 127 127 2, .ld 124 0 62 4 0, .sadd64 0 0 63 1, .waitw 0 63 4 3 5, .sysr 63 0x026, .sysw 62 0x011, .opush 0 0 56 7,
    .atcas64 124 0 0 5 1, .cvt 126 0 15 11 0, .bar 1 1 7, .bcast 0 0 1 1, .smxm 0 1 1 1] : List Instr).all Instr.wf := by
  decide +kernel

/-! ### Decoding -/

/-- One word of each group, its fields put where R296 and the instruction's own table have them. -/
theorem test_decode_lane : [
    (word 0x00 [(3, 17), (1, 10), (2, 3), (1, 0)], Instr.iadd 3 1 2 1), (word 0x04 [(127, 17), (0, 10), (64, 3)], .imad 127 0 64),
    (word 0x0F [(1, 17), (2, 10), (3, 3), (1, 0)], .bfx 1 2 3 1), (word 0x11 [(9, 17), (10, 10)], .popc 9 10),
    (word 0x14 [(4, 17), (5, 10), (6, 3)], .prmt 4 5 6), (word 0x15 [(4, 17), (5, 10), (6, 4)], .prmts 4 5 6),
    (word 0x16 [(2, 17), (5, 10), (6, 3), (5, 0)], .icmp 2 5 6 5), (word 0x17 [(1, 17), (5, 10), (6, 3), (3, 0)], .sel 1 5 6 3),
    (word 0x19 [(1, 17), (63, 4)], .movs 1 63), (word 0x1A [(1, 17), (0x3FF, 0)], .movi 1 0x3FF),
    (word 0x1B [(5, 17), (0x80, 0)], .iaddi 5 0 0x80), (word 0x21 [(5, 17), (1, 10), (31, 0)], .srai 5 1 31),
    (word 0x22 [(5, 17), (1, 10), (7, 4), (2, 0)], .iadds 5 1 7 2), (word 0x23 [(5, 17), (1, 10), (7, 4), (1, 3), (4, 0)], .icmps 5 1 7 1 4),
    (word 0x24 [(5, 17), (1, 0)], .lane 5 1), (word 0x28 [(1, 17), (2, 10), (3, 3), (1, 0)], .fadd 1 2 3 1),
    (word 0x2D [(1, 17), (2, 10), (3, 3), (5, 0)], .fcmp 1 2 3 5), (word 0x2E [(1, 17), (2, 10), (2, 1), (1, 0)], .fabs 1 2 2 1),
    (word 0x35 [(1, 17), (2, 10), (3, 4), (1, 0)], .fadds 1 2 3 1), (word 0x3C [(1, 17), (2, 10), (3, 3), (1, 2), (2, 0)], .shfl 1 2 3 1 2),
    (word 0x3D [(1, 17), (2, 10), (4, 0)], .vote 1 2 4), (word 0x3E [(1, 17), (2, 10), (2, 1), (1, 0)], .matchV 1 2 2 1)].all
    (fun e => reads e.1 e.2) := by
  decide +kernel

theorem test_decode_lane_memory : [
    (word 0x40 [(2, 17), (10, 4), (2, 1)], Instr.ld 2 0 10 2 0), (word 0x41 [(4, 17), (1, 10), (10, 4), (4, 1), (1, 0)], .st 4 1 10 4 1),
    (word 0x49 [(1, 10), (10, 4), (1, 1)], .pfet 1 10 1), (word 0x4A [(1, 17), (2, 10), (4, 4), (5, 1), (1, 0)], .lda 1 2 4 5 1),
    (word 0x59 [(2, 17), (1, 10), (4, 4), (3, 1)], .atcas 2 1 4 3 0), (word 0x60 [(1, 17), (2, 10), (4, 4), (2, 1), (1, 0)], .rld 1 2 4 2 1),
    (word 0x68 [(7, 17), (3, 1), (1, 0)], .popq 7 3 1), (word 0x6C [(3, 18), (1, 15), (2, 12), (3, 9)], .rep 3 1 2 3)].all
    (fun e => reads e.1 e.2) := by
  decide +kernel

theorem test_decode_uniform : [
    (word 0x80 [(4, 18), (4, 12), (6, 6)], Instr.sadd 4 4 6), (word 0x8C [(2, 18), (4, 12), (6, 6), (1, 4), (5, 0)], .scmp 2 4 6 1 5),
    (word 0x8D [(2, 18), (4, 12), (6, 6), (1, 3), (5, 0)], .ssel 2 4 6 1 5), (word 0x91 [(8, 18), (8, 12), (4, 0)], .saddi 8 8 4),
    (word 0x98 [(4, 18), (0x3FFFF, 0)], .smovi 4 0x3FFFF), (word 0x9A [(2, 18), (4, 12), (6, 6), (2, 0)], .sadd64 2 4 6 2),
    (word 0xA2 [(10, 18), (2, 6)], .sld64 10 0 2 0), (word 0xA6 [(1, 18), (2, 12), (3, 6), (4, 3), (1, 0)], .slda 1 2 3 4 1),
    (word 0xB0 [(2, 21), (1, 20), (0xFFFFF, 0)], .br 2 1 0xFFFFF), (word 0xB4 [], .ret), (word 0xB7 [(8, 12), (3, 0)], .loopi 8 3),
    (word 0xB9 [], .exit), (word 0xC2 [(0xFFF, 0)], .waitf 0xFFF), (word 0xE9 [(4, 18), (0x0B1, 0)], .sysr 4 0x0B1),
    (word 0xEA [(6, 12), (0x011, 0)], .sysw 6 0x011), (word 0xEB [(0x12, 0)], .trap 0x12), (word 0xED [], .tret), (word 0xF4 [], .nop)].all
    (fun e => reads e.1 e.2) := by
  decide +kernel

/-- Words that stand for nothing: unassigned opcodes of both sets, a field an instruction leaves unused, a modifier it does not assign, a
misaligned pair, a register without a write (R301 to R304). -/
theorem test_decode_refuses : [word 0x25 [], word 0x3F [], word 0x4E [], word 0x5D [], word 0x65 [], word 0x69 [], word 0x6D [], word 0x7F [],
    word 0x9C [], word 0xAA [], word 0xAF [], word 0xBB [], word 0xC5 [], word 0xE1 [], word 0xE6 [], word 0xF5 [], word 0xFF [],
    word 0x11 [(1, 3)], word 0x18 [(1, 0)], word 0x19 [(1, 10)], word 0x00 [(3, 0)], word 0x40 [(2, 17), (10, 4), (7, 1)],
    word 0x40 [(2, 17), (11, 4), (2, 1)], word 0xB4 [(1, 0)], word 0xF4 [(1, 18)], word 0xEB [(1, 18)], word 0xE9 [(0x100, 0)],
    word 0xEA [(0x010, 0)], word 0x68 [(1, 3)], word 0xA0 [(1, 1)]].all refused := by
  decide +kernel

/-! ### Lane instructions -/

/-- The instructions of the lane statements act in the first string. -/
theorem witness_LaneIntegerAndBits : allReady st0 [.iadd 2 0 1 0, .iadd 2 0 1 1, .iadd 2 0 1 2, .isub 2 0 1 0, .isub 2 0 1 1, .isub 2 0 1 2,
    .imul 2 0 1, .imulh 2 0 1 0, .imulh 2 0 1 1, .imad 2 0 1, .imin 2 0 1 0, .imin 2 0 1 1, .imax 2 0 1 0, .imax 2 0 1 1, .iabsd 2 0 1 0,
    .iabsd 2 0 1 1, .andV 2 0 1, .orV 2 0 1, .xor 2 0 1, .andn 2 0 1, .shl 2 0 1, .shr 2 0 1, .sra 127 127 127, .bfx 2 0 1 0, .bfx 2 0 1 1,
    .bfi 2 0 1, .popc 2 0, .clz 2 0, .brev 2 0, .movi 2 0x3FF, .iaddi 2 0 1, .andi 2 0 1, .ori 2 0 1, .xori 2 0 1, .shli 2 0 31, .shri 2 0 31,
    .srai 2 0 31, .iadds 2 0 1 0, .iadds 2 0 1 1, .iadds 2 0 1 2, .movs 2 63] := by decide +kernel

theorem witness_LaneCompareAndMove : allReady st0 [.icmp 0 0 1 0, .icmp 7 0 1 5, .icmps 0 0 1 0 0, .icmps 6 0 1 1 5, .sel 2 0 1 0, .sel 2 0 1 7,
    .mov 2 0, .lane 2 0, .lane 2 1, .prmt 2 0 1, .prmts 2 0 1] := by decide +kernel

theorem witness_AcrossLanes : allReady st0 [.shfl 2 0 1 0 0, .shfl 2 0 1 1 3, .vote 2 0 0, .vote 2 0 4, .matchV 2 0 0 0, .matchV 2 0 2 1] := by
  decide +kernel

theorem witness_LaneFloatAndConversions : allReady st0 [.fadd 2 0 1 0, .fadd 2 0 1 1, .fmul 2 0 1 0, .ffma 2 0 1 1, .fadds 2 0 1 0, .fmuls 2 0 1 0,
    .ffmas 2 0 1 0, .frcp 2 0, .fsqrt 2 0, .frsq 2 0, .fexp2 2 0, .flog2 2 0, .fdot2 2 0 1, .cvt 2 0 11 7 0, .cvt 2 0 15 11 0, .cvtb 2 0 3 0 0 0,
    .cvtb 2 0 1 2 1 2, .unpkl 2 0 3 0, .unpkl 2 0 1 2, .packh 2 0 1 2] := by decide +kernel

theorem witness_FloatSelectionAndSign : allReady st0 [.fmin 2 0 1 0, .fmin 2 0 1 1, .fmax 2 0 1 0, .fmax 2 0 1 1, .fcmp 0 0 1 0, .fcmp 0 0 1 2,
    .fcmp 0 0 1 4, .fcmp 7 0 1 5, .fabs 2 0 0 0, .fabs 2 0 1 1, .fabs 2 0 2 1] := by decide +kernel

/-- 1 is a finite number of each format, and the greatest finite F32. -/
theorem witness_RoundingKeepsExactValues : decide (0x3F800000 < 2 ^ 32 ∧ 0x7F7FFFFF < 2 ^ 32) &&
    [(23, 0x3F800000), (23, 0x7F7FFFFF), (23, 1), (7, 0x3F80), (31, 0x3F80000000)].all (fun e => match unpackF e.1 e.2 with
      | .fin _ _ _ => true
      | _ => false) := by decide +kernel

/-- What lane l of v2 holds after an instruction, from v0 to v6 and s1, s2 as given. -/
def laneOut (i : Instr) (vs : List (Nat × Word)) (ss : List (Nat × Word)) (d l : Nat) : Option Word :=
  let s := State.str st0 (fun t => ss.foldl (fun t e => uni t e.1 e.2) (vs.foldl (fun t e => t.vput e.1 l e.2) t))
  match exec i s with
  | .next s' => some (s'.cur.vget d l)
  | .fault _ => none
  | .refused _ => none

def laneTest (l : List (Instr × List (Nat × Word) × List (Nat × Word) × Word)) : Bool :=
  l.all (fun e => laneOut e.1 e.2.1 e.2.2.1 2 5 == some e.2.2.2)

/-- R351: wraps and saturations at the ends of the ranges, the product's halves, an absolute difference that needs 32 bits. -/
theorem test_lane_integer : laneTest [
    (.iadd 2 0 1 0, [(0, 0xFFFFFFFF), (1, 2)], [], 1), (.iadd 2 0 1 1, [(0, 0x7FFFFFFF), (1, 1)], [], 0x7FFFFFFF),
    (.iadd 2 0 1 2, [(0, 0xFFFFFFFF), (1, 2)], [], 0xFFFFFFFF), (.isub 2 0 1 0, [(0, 1), (1, 2)], [], 0xFFFFFFFF),
    (.isub 2 0 1 1, [(0, 0x80000000), (1, 1)], [], 0x80000000), (.isub 2 0 1 2, [(0, 1), (1, 2)], [], 0),
    (.imul 2 0 1, [(0, 0x10001), (1, 0x10001)], [], 0x00020001), (.imulh 2 0 1 0, [(0, 0xFFFFFFFF), (1, 2)], [], 0xFFFFFFFF),
    (.imulh 2 0 1 1, [(0, 0xFFFFFFFF), (1, 2)], [], 1), (.imad 2 0 1, [(0, 3), (1, 4), (2, 5)], [], 17),
    (.imin 2 0 1 0, [(0, 0xFFFFFFFF), (1, 2)], [], 0xFFFFFFFF), (.imin 2 0 1 1, [(0, 0xFFFFFFFF), (1, 2)], [], 2),
    (.imax 2 0 1 0, [(0, 0xFFFFFFFF), (1, 2)], [], 2), (.imax 2 0 1 1, [(0, 0xFFFFFFFF), (1, 2)], [], 0xFFFFFFFF),
    (.iabsd 2 0 1 0, [(0, 0x80000000), (1, 0x7FFFFFFF)], [], 0xFFFFFFFF), (.iabsd 2 0 1 1, [(0, 3), (1, 7)], [], 4)] := by decide +kernel

theorem test_lane_bits : laneTest [
    (.andV 2 0 1, [(0, 0xC), (1, 0xA)], [], 8), (.orV 2 0 1, [(0, 0xC), (1, 0xA)], [], 0xE), (.xor 2 0 1, [(0, 0xC), (1, 0xA)], [], 6),
    (.andn 2 0 1, [(0, 0xC), (1, 0xA)], [], 4), (.shl 2 0 1, [(0, 3), (1, 0x41)], [], 6), (.shl 2 0 1, [(0, 3), (1, 32)], [], 0),
    (.shr 2 0 1, [(0, 0x80000000), (1, 31)], [], 1), (.sra 2 0 1, [(0, 0x80000000), (1, 40)], [], 0xFFFFFFFF),
    (.bfx 2 0 1 1, [(0, 0x00000FF0), (1, 0x804)], [], 0xFFFFFFFF), (.bfx 2 0 1 0, [(0, 0x00000FF0), (1, 0x804)], [], 0xFF),
    (.bfi 2 0 1, [(0, 0xF), (1, 0x41C), (2, 0)], [], 0xF0000000), (.popc 2 0, [(0, 0xF0F0)], [], 8), (.clz 2 0, [(0, 1)], [], 31),
    (.clz 2 0, [(0, 0)], [], 32), (.brev 2 0, [(0, 1)], [], 0x80000000), (.movi 2 0x3FF, [], [], 0xFFFFFFFF),
    (.iaddi 2 0 0x3FE, [(0, 1)], [], 0xFFFFFFFF), (.andi 2 0 0x3FF, [(0, 0xFFFFFFFF)], [], 0x3FF), (.ori 2 0 0x200, [(0, 1)], [], 0x201),
    (.xori 2 0 0x3FF, [(0, 1)], [], 0x3FE), (.shli 2 0 31, [(0, 3)], [], 0x80000000), (.shri 2 0 31, [(0, 0x80000000)], [], 1),
    (.srai 2 0 31, [(0, 0x80000000)], [], 0xFFFFFFFF), (.iadds 2 0 1 2, [(0, 0xFFFFFFFF)], [(1, 9)], 0xFFFFFFFF),
    (.movs 2 1, [], [(1, 77)], 77), (.mov 2 0, [(0, 42)], [], 42), (.lane 2 0, [], [], 5), (.lane 2 1, [], [], 31),
    (.sel 2 0 1 7, [(0, 4), (1, 9)], [], 4), (.sel 2 0 1 0, [(0, 4), (1, 9)], [], 9)] := by decide +kernel

/-- R356's worked case, and the same through a uniform selector. -/
theorem test_prmt : laneOut (.prmt 4 5 6) [(5, 0x123480FF), (4, 0xA5B6C7D8), (6, 0x07081102)] [] 4 5 = some 0xA500FF34 ∧
    laneOut (.prmts 4 5 6) [(5, 0x123480FF), (4, 0xA5B6C7D8)] [(6, 0x07081102)] 4 31 = some 0xA500FF34 := by decide +kernel

/-- R354, R360: comparisons into predicates. -/
theorem test_compares :
    after (.icmp 1 0 1 2) (State.str st0 (fun t => vec (vec t 0 (fun _ => 0xFFFFFFFF)) 1 (fun l => BitVec.ofNat 32 l)))
      (fun s => s.cur.pget 1 == 0xFFFFFFFF) &&
    after (.icmp 1 0 1 4) (State.str st0 (fun t => vec (vec t 0 (fun _ => 3)) 1 (fun l => BitVec.ofNat 32 l))) (fun s => s.cur.pget 1 == 0xFFFFFFF0) &&
    after (.icmps 2 0 1 0 4) (State.str st0 (fun t => uni (vec t 0 (fun l => BitVec.ofNat 32 l)) 1 0xFFFFFFFF)) (fun s => s.cur.pget 2 == 0xFFFFFFFF) &&
    after (.icmp 7 0 0 1) st0 (fun s => s.cur.pget 7 == 0xFFFFFFFF) &&
    after (.fcmp 1 0 1 0) (State.str st0 (fun t => vec (vec t 0 (fun _ => 0x80000000)) 1 (fun _ => 0))) (fun s => s.cur.pget 1 == 0xFFFFFFFF) &&
    after (.fcmp 1 0 1 2) (State.str st0 (fun t => vec t 0 (fun _ => 0x7FC00000))) (fun s => s.cur.pget 1 == 0 && s.cur.reg 0x0B1 == 0x10) := by
  decide +kernel

/-- R369's worked examples: v4 holds 100 + l. -/
theorem test_shfl :
    ([((.shfl 3 4 5 0 1 : Instr), 1, [101, 102, 103, 104, 100]), (.shfl 3 4 5 1 1, 1, [101, 102, 103, 100, 128]),
      (.shfl 3 4 5 1 2, 3, [103, 102, 101, 100, 128])] : List (Instr × Nat × List Nat)).all (fun e =>
        after e.1 (State.str st0 (fun t => vec (vec t 4 (fun l => BitVec.ofNat 32 (100 + l))) 5 (fun _ => BitVec.ofNat 32 e.2.1)))
          (fun s => ([0, 1, 2, 3, 31] : List Nat).map (fun l => (s.cur.vget 3 l).toNat) == e.2.2)) := by decide +kernel

/-- R370's worked example: a predicate of lanes 3, 9 and 20; and R371: equal values in pairs of lanes. -/
theorem test_vote_and_match :
    after (.vote 4 2 2) (State.str st0 (fun t => { t with p := tset 0 t.p 2 0x00100208 }))
      (fun s => ([3, 4, 9, 10, 20, 21, 31] : List Nat).map (fun l => (s.cur.vget 4 l).toNat) == [0, 1, 1, 2, 2, 3, 3]) &&
    after (.vote 4 2 4) (State.str st0 (fun t => { t with p := tset 0 t.p 2 0x00100208 })) (fun s => s.cur.vget 4 0 == 20) &&
    after (.vote 4 2 3) st0 (fun s => s.cur.vget 4 0 == 32) &&
    after (.matchV 6 7 0 0) (State.str st0 (fun t => vec t 7 (fun l => BitVec.ofNat 32 (l / 2)))) (fun s => s.cur.vget 6 31 == 30) &&
    after (.matchV 6 7 1 0) (State.str st0 (fun t => vec t 7 (fun l => BitVec.ofNat 32 (l / 2)))) (fun s => s.cur.vget 6 31 == 2) &&
    after (.matchV 6 7 2 0) (State.str st0 (fun t => vec t 7 (fun l => BitVec.ofNat 32 (l / 2)))) (fun s => s.cur.vget 6 31 == 1) := by
  decide +kernel

/-- Numbers worked by hand in binary: 1 + 2, 2 * 3, 1 * 2 + 3, 1/4, the square root of 4 and its reciprocal, 2 to the 3, the logarithm of 8. -/
theorem test_lane_float : laneTest [
    (.fadd 2 0 1 0, [(0, 0x3F800000), (1, 0x40000000)], [], 0x40400000), (.fadd 2 0 1 1, [(0, 0x3F804000), (1, 0x40003F80)], [], 0x40404040),
    (.fmul 2 0 1 0, [(0, 0x40000000), (1, 0x40400000)], [], 0x40C00000), (.ffma 2 0 1 0, [(0, 0x3F800000), (1, 0x40000000), (2, 0x40400000)], [], 0x40A00000),
    (.fadds 2 0 1 0, [(0, 0x3F800000)], [(1, 0x40000000)], 0x40400000), (.fmuls 2 0 1 0, [(0, 0x40000000)], [(1, 0x40400000)], 0x40C00000),
    (.ffmas 2 0 1 0, [(0, 0x3F800000), (2, 0x40400000)], [(1, 0x40000000)], 0x40A00000), (.frcp 2 0, [(0, 0x40800000)], [], 0x3E800000),
    (.fsqrt 2 0, [(0, 0x40800000)], [], 0x40000000), (.frsq 2 0, [(0, 0x40800000)], [], 0x3F000000), (.fexp2 2 0, [(0, 0x40400000)], [], 0x41000000),
    (.flog2 2 0, [(0, 0x41000000)], [], 0x40400000), (.fdot2 2 0 1, [(0, 0x40003F80), (1, 0x40404000), (2, 0x3F800000)], [], 0x41100000),
    (.fmin 2 0 1 0, [(0, 0x80000000), (1, 0)], [], 0x80000000), (.fmax 2 0 1 0, [(0, 0x7FC00000), (1, 0x3F800000)], [], 0x3F800000),
    (.fabs 2 0 1 1, [(0, 0x3F80BF80)], [], 0xBF803F80), (.cvt 2 0 11 7 0, [(0, 0xFFFFFFFF)], [], 0xBF800000), (.cvt 2 0 5 7 0, [(0, 300)], [], 127),
    (.cvt 2 0 7 11 1, [(0, 0xBFC00000)], [], 0xFFFFFFFF), (.cvtb 2 3 1 0 0 0, [(2, 0), (3, 0x40400000)], [], 0x00000D00),
    (.unpkl 2 0 1 2, [(0, 0x3F800000)], [], 0x3F800000), (.packh 2 0 1 0, [(0, 0x3F800000), (1, 0x40000000)], [], 0x40003F80)] := by
  decide +kernel

/-! ### Uniform instructions and control -/

theorem witness_UniformInstructions : allReady st0 [.sadd 4 5 6, .ssub 4 5 6, .smul 4 5 6, .smulh 4 5 6 0, .smulh 4 5 6 1, .sand 4 5 6, .sor 4 5 6,
    .sxor 4 5 6, .sshl 4 5 6, .sshr 4 5 6, .ssra 4 5 6, .smin 4 5 6 0, .smin 4 5 6 1, .smax 4 5 6 0, .smax 4 5 6 1, .smov 4 5, .spopc 4 5, .sclz 4 5,
    .saddi 4 5 1, .sandi 4 5 1, .sori 4 5 1, .sxori 4 5 1, .sshli 4 5 31, .sshri 4 5 31, .smovi 63 0, .slui 63 0, .scmp 0 4 5 0 0, .scmp 7 4 5 1 5,
    .scmpi 6 4 5 1 0xFF, .ssel 4 5 6 0 0, .ssel 4 5 6 1 7, .qop 7 0 1 8, .sadd64 62 4 6 0, .sadd64 62 4 63 1, .sadd64 62 4 63 2] := by
  decide +kernel

theorem witness_BetweenLanesAndString : allReady st0 [.redv 4 0 0, .redv 4 127 7, .lmask 4 2 0, .lmask 4 0 1, .lmask 4 0 2, .lmask 4 0 3,
    .bcast 4 7 0 0, .bcast 4 7 9 1] := by decide +kernel

/-- The steward's string with a tile of its party and one live vector register each of whose lanes is l. -/
def stTile : State := { st0 with sch := { st0.sch with parties := st0.sch.parties.map (fun e => (e.1, { e.2 with tiles := [0, 1], spSize := 98304, outrs := [0] })) } }

theorem witness_ReadingWaybills : allReady stTile [.wbrd 4 63 0, .wbrd 4 127 1, .wbrd 4 7 2, .wbrd 4 7 3, .wbrd 4 0 4, .wbrd 4 1 5] &&
    stTile.tileOf stTile.cur (coreOf stTile.curUnit) 1 false == some 1 := by decide +kernel

/-- What a uniform register holds after an instruction, from uniform registers as given. -/
def uniOut (i : Instr) (ss : List (Nat × Word)) (d : Nat) : Option Word :=
  match exec i (State.str st0 (fun t => ss.foldl (fun t e => uni t e.1 e.2) t)) with
  | .next s' => some (s'.cur.sget d)
  | .fault _ => none
  | .refused _ => none

/-- R318 to R322 by hand: wraps, signs, a 64-bit carry, a 64-bit sum with a sign-extended word. -/
theorem test_uniform : ([
    (.sadd 4 5 6, [(5, 0xFFFFFFFF), (6, 2)], 4, 1), (.ssub 4 5 6, [(5, 1), (6, 2)], 4, 0xFFFFFFFF), (.smul 4 5 6, [(5, 0x10001), (6, 0x10001)], 4, 0x20001),
    (.smulh 4 5 6 0, [(5, 0xFFFFFFFF), (6, 2)], 4, 0xFFFFFFFF), (.smulh 4 5 6 1, [(5, 0xFFFFFFFF), (6, 2)], 4, 1), (.sand 4 5 6, [(5, 12), (6, 10)], 4, 8),
    (.sor 4 5 6, [(5, 12), (6, 10)], 4, 14), (.sxor 4 5 6, [(5, 12), (6, 10)], 4, 6), (.sshl 4 5 6, [(5, 1), (6, 32)], 4, 0),
    (.sshr 4 5 6, [(5, 0x80000000), (6, 31)], 4, 1), (.ssra 4 5 6, [(5, 0x80000000), (6, 63)], 4, 0xFFFFFFFF), (.smin 4 5 6 0, [(5, 0xFFFFFFFF)], 4, 0xFFFFFFFF),
    (.smax 4 5 6 0, [(5, 0xFFFFFFFF)], 4, 0), (.smov 4 5, [(5, 9)], 4, 9), (.spopc 4 5, [(5, 0xFF)], 4, 8), (.sclz 4 5, [(5, 1)], 4, 31),
    (.saddi 4 5 0xFFF, [(5, 1)], 4, 0), (.sandi 4 5 0xFFF, [(5, 0xFFFFFFFF)], 4, 0xFFF), (.sori 4 5 0x800, [(5, 1)], 4, 0x801),
    (.sxori 4 5 0xFFF, [(5, 1)], 4, 0xFFE), (.sshli 4 5 31, [(5, 3)], 4, 0x80000000), (.sshri 4 5 31, [(5, 0x80000000)], 4, 1),
    (.smovi 4 0x20000, [], 4, 0xFFFE0000), (.slui 4 1, [(4, 0xFFFFFFFF)], 4, 0x7FFF), (.sadd64 4 6 8 0, [(6, 0xFFFFFFFF), (8, 1)], 5, 1),
    (.sadd64 4 6 9 1, [(6, 0), (9, 0xFFFFFFFF)], 5, 0xFFFFFFFF), (.sadd64 4 6 9 2, [(6, 1), (9, 0xFFFFFFFF)], 5, 1), (.ssel 4 5 6 0 0, [(5, 1), (6, 2)], 4, 2),
    (.ssel 4 5 6 1 0, [(5, 1), (6, 2)], 4, 1)] : List (Instr × List (Nat × Word) × Nat × Word)).all
      (fun e => uniOut e.1 e.2.1 e.2.2.1 == some e.2.2.2) := by decide +kernel

/-- R320, R321: .lt is signed for .i32 only; AND and NOT of uniform predicates; R325 to R327. -/
theorem test_uniform_predicates_and_lanes :
    after (.scmp 1 5 6 0 2) (State.str st0 (fun t => uni t 5 0xFFFFFFFF)) (fun s => s.cur.qget 1) &&
    after (.scmp 1 5 6 1 2) (State.str st0 (fun t => uni t 5 0xFFFFFFFF)) (fun s => !s.cur.qget 1) &&
    after (.scmpi 2 5 0 0 0xFD) (State.str st0 (fun t => uni t 5 0xFFFFFFFD)) (fun s => s.cur.qget 2) &&
    after (.qop 3 7 7 8) st0 (fun s => s.cur.qget 3) && after (.qop 3 0 7 2) st0 (fun s => s.cur.qget 3) &&
    after (.redv 4 7 0) (State.str st0 (fun t => vec t 7 (fun l => BitVec.ofNat 32 l))) (fun s => s.cur.sget 4 == 496) &&
    after (.redv 4 7 2) (State.str st0 (fun t => vec t 7 (fun l => BitVec.ofNat 32 l - 16))) (fun s => s.cur.sget 4 == 15) &&
    after (.lmask 4 0 3) (State.str st0 (fun t => { t with lmask := 0xFF })) (fun s => s.cur.sget 4 == 0xFF) &&
    after (.bcast 4 7 0 0) (State.at_ (State.str st0 (fun t => vec t 7 (fun l => BitVec.ofNat 32 l))) (fun p => { p with cmask := 0xF0 }))
      (fun s => s.cur.sget 4 == 4) &&
    after (.bcast 4 7 9 1) (State.str st0 (fun t => uni (vec t 7 (fun l => BitVec.ofNat 32 l)) 9 0x3F)) (fun s => s.cur.sget 4 == 31) &&
    after (.wbrd 4 2 0) (State.str st0 (fun t => { t with swb := [(2, 0x1234)] })) (fun s => s.cur.sget 4 == 0x1234 && s.cur.sw 4 == 0x1234) := by
  decide +kernel

/-- A page of world 1 whose line 0x10000 the L2 holds, with 8-byte words 3 and 0x8000000000000005 at its start. -/
def stLine : State := (st0.setGran 16 0x00010000).putL2 true 1 512 ⟨BitVec.ofNat 1024 (3 + 2 ^ 64 * 0x8000000000000005), false, false, 0, 0⟩

def gotUni (s : State) (m : MemOp) (addr : Nat) (v : Nat) : Bool :=
  match uniRead s s.cur s.curp.resumed m addr 0 with
  | .got x _ _ => x == v
  | .stop _ => false

/-- A branch that holds and one that does not, one that leaves its loop, the exact ends of a loop's body; a table of three entries. -/
theorem witness_BranchesCallsAndReturns :
    let loop1 := State.str st0 (fun t => { t with lcount := [(0, 2)], lstart := [(0, 8)], lend := [(0, 12)] })
    let tab := State.str stLine (fun t => pair (uni t 6 0) 4 0x10000)
    allReady st0 [.br 0 0 1, .br 7 0 1, .call 0 0 1, .call 7 0 1, .ret, .nop, .bri 4 6] && !st0.cur.qget 0 && st0.cur.qget 7 && st0.cur.loops == 0 &&
    st0.curp.skip == none && allReady loop1 [.br 7 0 0] && loop1.cur.loops == 1 &&
    -- the word stands at 4: offset 0 leaves the body, 1 and 2 are its ends, 3 leaves it
    ([(0, false), (1, true), (2, true), (3, false)] : List (Nat × Bool)).all (fun e =>
      let target : Dword := loop1.curp.pc + BitVec.ofNat 64 (4 * loop1.curp.pos) + BitVec.ofNat 64 (4 * e.1)
      (decide (tget 0 loop1.cur.lstart 0 ≤ target) && decide (target ≤ tget 0 loop1.cur.lend 0)) == e.2) &&
    ready (.bri 4 6) (State.str st0 (fun t => pair t 4 0x10004)) && ready (.bri 4 6) tab &&
    gotUni tab (uniMemOp 0 8 .load .none 0) 0x10000 3 && gotUni tab (uniMemOp 0 8 .load .none 0) 0x10008 0x8000000000000005 := by decide +kernel

/-- R328, R330, R331: where a branch, a call and a table take the path; a branch out of the loop body is LOOP. -/
theorem test_branches :
    after (.br 7 0 0xFFFFF) st0 (fun s => s.curp.pc == 0 && s.curp.pos == 0) && after (.br 0 0 9) st0 (fun s => s.curp.pc == 8) &&
    after (.call 7 0 4) st0 (fun s => s.curp.pc == 20 && s.cur.spair 62 == 8) &&
    after .ret (State.str st0 (fun t => pair t 62 0x1007)) (fun s => s.curp.pc == 0x1004) &&
    after (.bri 4 6) (State.str stLine (fun t => pair t 4 0x10000)) (fun s => s.curp.pc == 0x10014 && s.curp.pos == 0) &&
    trapped (.br 7 0 3) (State.str st0 (fun t => { t with lcount := [(0, 2)], lstart := [(0, 8)], lend := [(0, 12)] })) cLOOP &&
    trapped (.bri 4 6) (State.str stLine (fun t => uni (pair t 4 0x10000) 6 3)) cBRTAB := by decide +kernel

/-- A path beside it, on a stack with the join at 0x20. -/
def sib (n : Nat) (l : List StkRec) : State := State.str st0 (fun t => { t with
  stack := l ++ List.replicate n (.join 0), p1 := { t.p0 with mask := 0, words := [], pos := 0 } })

theorem witness_SplitsOfAPath :
    let half := State.str st0 (fun t => { t with p := [(1, 0xFFFF)], stack := [.join 0x20] })
    let full := State.str st0 (fun t => { t with stack := List.replicate 16 (.join 0) })
    let loop1 := State.str half (fun t => { t with lcount := [(0, 1)], lstart := [(0, 0x20)], lend := [(0, 0x20)] })
    let two := State.str half (fun t => { t with p1 := { t.p0 with mask := 0 } })
    ready (.setj 4) full && full.cur.stack.length == 16 && ready (.setj 4) (sib 14 [.join 0]) && (sib 14 [.join 0]).cur.stack.length == 15 &&
    ready (.setj 4) st0 && st0.cur.p1.state == .empty && ready (.setj 4) (sib 14 []) && (sib 14 []).cur.p1.hold == .none && ready (.setj 4) loop1 &&
    loop1.cur.loops == 1 && ready (.brd 1 0 4) st0 && st0.cur.stack == [] && ready (.brd 1 0 4) half && half.cur.pget 1 == 0xFFFF && half.cur.pget 7 == 0xFFFFFFFF &&
    half.cur.pget 0 == 0 && half.curp.skip == none && half.cur.loops == 0 && ready (.brd 1 0 4) loop1 && ready (.brd 1 0 4) two && two.cur.p1.state != .empty := by
  decide +kernel

/-- R237, R242: a split leaves the lanes that do not take it with the issuing path. -/
theorem test_split :
    after (.brd 1 0 4) (State.str st0 (fun t => { t with p := [(1, 0xFFFF)], stack := [.join 0x20] }))
      (fun s => s.cur.p0.mask == 0xFFFF0000 && s.cur.p0.pc == 8 && s.cur.p1.mask == 0xFFFF && s.cur.p1.pc == 20) &&
    after (.setj 4) st0 (fun s => s.cur.stack == [.join 20]) && trapped (.brd 1 0 4) st0 cDIVSTK &&
    trapped (.setj 4) (State.str st0 (fun t => { t with stack := List.replicate 16 (.join 0) })) cDIVSTK := by decide +kernel

theorem witness_HardwareLoops :
    let one := State.str st0 (fun t => uni { t with lcount := [(0, 3)], lstart := [(0, 8)], lend := [(0, 40)] } 4 2)
    let two := State.str one (fun t => { t with lcount := [(0, 3), (1, 1)], lstart := [(0, 8), (1, 8)], lend := [(0, 40), (1, 12)] })
    let four := State.str one (fun t => { t with lcount := [(0, 1), (1, 1), (2, 1), (3, 1)] })
    let out := State.str st0 (fun t => { t with outrider := true, runs := true, p0 := { t.p0 with mask := 1 } })
    -- bodies that end at 4 (before their start, 8), at 8, at 40 and at 44
    ready (.loop 4 0) one && ready (.loop 4 1) one && ready (.loop 4 9) one && ready (.loop 4 10) one && ready (.loopi 0 1) one && ready (.loopi 5 10) one &&
    one.cur.sget 4 == 2 && one.cur.sget 5 == 0 && one.cur.loops == 1 && ready (.loop 4 1) four && four.cur.loops == 4 && ready (.lbrk 7 0 4) one &&
    ready (.lbrk 7 0 4) two && two.cur.loops == 2 && ready (.lbrk 7 0 10) two && ready (.lbrk 0 0 4) one && ready (.lbrk 7 0 4) st0 && st0.cur.loops == 0 &&
    ready (.lbrk 7 0 4) out && out.cur.outrider := by decide +kernel

/-- R333, R334: a loop opens at the next header; a count of 0 skips to the last clause; a fifth level and an end before the start trap. -/
theorem test_loops :
    after (.loopi 5 3) st0 (fun s => tget 0 s.cur.lstart 0 == 8 && tget 0 s.cur.lend 0 == 16 && tget 0 s.cur.lcount 0 == 5) &&
    after (.loop 4 3) st0 (fun s => s.cur.loops == 0 && s.curp.skip == some 16) && trapped (.loopi 5 0) st0 cLOOP &&
    trapped (.loopi 5 3) (State.str st0 (fun t => { t with lcount := [(0, 1), (1, 1), (2, 1), (3, 1)] })) cLOOP &&
    after (.lbrk 7 0 4) (State.str st0 (fun t => { t with lcount := [(0, 3)], lstart := [(0, 8)], lend := [(0, 40)] }))
      (fun s => s.cur.loops == 0 && s.curp.pc == 20) := by decide +kernel

/-! ### Waits, traps and clause starts -/

theorem no_sleep : ∀ n, Hold.none ≠ Hold.sleep n := fun _ h => Hold.noConfusion h

/-- A party of two strings, of which the first arrives; the last of two; a gang of one party of a convoy launch. -/
def bars (old : Nat) (live : Nat) : State := { st0 with sch := { st0.sch with
  parties := st0.sch.parties.map (fun e => (e.1, { e.2 with live := live, bars := [(2, (old, 0))] }))
  launches := [(0, ⟨BitVec.ofNat 1024 (2 ^ 335), 0, 0, [], 0⟩)], cvBars := [(2, (old, 0))] } }

theorem witness_Barriers : allReady (bars 0 2) [.bar 0 0 2, .barcv 0 0 2, .bar 4 1 7] && allReady (bars 1 2) [.bar 0 0 2, .barcv 0 0 2] &&
    (bars 0 2).barGet st0.cur 2 == (0, 0) && (bars 1 2).barGet st0.cur 2 == (1, 0) && (bars 0 2).barGet st0.cur 10 == (0, 0) &&
    (bars 1 2).barGet st0.cur 10 == (1, 0) && (bars 0 2).barLive st0.cur false == 2 && (bars 0 2).barLive st0.cur true == 2 &&
    (bars 0 2).isConvoy st0.cur && (tfind (bars 0 2).sch.parties st0.cur.party).isSome && (bars 0 2).quiet 0 && (bars 0 2).curp.hold == .none &&
    ready (.barcv 0 0 2) st0 && !st0.isConvoy st0.cur := by decide +kernel

theorem test_barriers : after (.bar 0 0 2) (bars 0 2) (fun s => s.curp.hold == .barrier 2 && s.barGet s.cur 2 == (1, 0)) &&
    after (.bar 0 0 2) (bars 1 2) (fun s => s.curp.hold == .none && s.curp.pos == 0 && s.barGet s.cur 2 == (0, 0)) &&
    trapped (.barcv 0 0 2) st0 cILLEGAL := by decide +kernel

/-- The steward's string with scratchpad, whose first word is 3, waited for from s8:s9 at offset s10. -/
def stSp : State := State.str ({ stTile with mem := { stTile.mem with sp := [(0, 3)] } }) (fun t => uni (pair t 8 2) 10 0)

theorem witness_Waits :
    let bw := State.str stLine (fun t => pair (pair t 4 0x10000) 8 2)
    let tick := State.str st0 (fun t => { t with tickPending := true, p0 := { t.p0 with level := 0 } })
    let bound := State.at_ st0 (fun p => { p with binds := [(11, 1)] })
    allReady stSp [.waitw 8 10 0 1 2, .waitw 8 10 1 1 2, .waitw 8 10 2 1 2, .waitw 8 10 3 1 2, .waitw 8 10 4 1 2] &&
    gotUni stSp (waitOp 1 2) 0 3 && stSp.cur.spair 8 == 2 && ready (.bwait 8 4 4) bw && ready (.waitw 8 4 2 0 4) bw && gotUni bw (waitOp 0 4) 0x10000 3 &&
    gotUni bw (waitOp 0 4) 0x10008 0x8000000000000005 && allReady st0 [.fence 5 0, .fence 5 1, .fence 5 2, .waitf 0xFFF, .yield, .sleep 4 0xFFF] &&
    st0.loadsSettled st0.curp && st0.settled st0.curp && st0.cur.firstNack st0.curp == none && st0.cur.acked st0.curp && st0.curp.binds == [] &&
    ready (.waitf 0x800) bound && bound.curp.binds == [(11, 1)] && ready (.sleep 4 0) tick && tick.curp.level == 0 &&
    ((State.at_ st0 (fun p => { p with hold := .sleep 0 })).curp.hold == .sleep 0) &&
    ((State.at_ st0 (fun p => { p with hold := .word })).curp.hold == .word) := by decide +kernel

theorem test_waits : after (.waitw 8 10 2 1 2) stSp (fun s => s.curp.pos == 0 && s.curp.hold == .none) &&
    after (.waitw 8 10 3 1 2) stSp (fun s => s.curp.hold == .word && s.curp.pos == 1) && after (.waitf 0) st0 (fun s => s.curp.pos == 0) &&
    after (.sleep 4 7) (State.str st0 (fun t => uni t 4 0xFFFFFFFF)) (fun s => s.curp.hold == .sleep 6) &&
    after .yield st0 (fun s => s.cur.yielded) && after (.fence 2 0) st0 (fun s => s.curp.pos == 0) &&
    after .sleepExpiry (State.at_ st0 (fun p => { p with hold := .sleep 0 })) (fun s => s.curp.pos == 0 && s.curp.hold == .none) &&
    after .waitwRecheck (State.at_ st0 (fun p => { p with hold := .word })) (fun s => s.agenda.length == 2) := by decide +kernel

theorem witness_TakingATrap : st0.cur.outrider = false ∧ (st0.cur.path st0.curPath).parkOp = none ∧
    (∀ n, (st0.cur.path (!st0.curPath)).hold ≠ .sleep n) :=
  ⟨by decide +kernel, by decide +kernel, no_sleep⟩

/-- Cause 0x12 is delegated by the steward and by the kernel, 0x0F by the steward only, 0x02 by neither. -/
theorem witness_RoutingATrap :
    let s := (((st0.setPreg 0 0x028 0xFFFFF).setWreg 1 0x028 0x40000) : State)
    let s := { s with xl := { s.xl with part := [(1, 0)] } }
    (s.stewardDeleg 1).getLsbD 0x12 && (s.stewardDeleg 1).getLsbD 0x0F && !(s.stewardDeleg 0).getLsbD 0x12 && !(s.kernelDeleg 1).getLsbD 0x0F &&
    route s 1 0x12 0 0 == 0 && route s 1 0x0F 0 0 == 1 && route st0 0 0x02 0 0 == 2 := by decide +kernel

theorem witness_SoftwareTrapsAndReturn :
    let out := State.str st0 (fun t => { t with outrider := true, runs := true })
    let halt := State.str st0 (fun t => { t with brkh := true })
    let user := State.at_ st0 (fun p => { p with level := 0 })
    allReady st0 [.trap 0x12, .brk 0x3FFFF, .tret] && !st0.cur.brkh && st0.curp.level == 2 && ready (.brk 1) halt && ready (.brk 1) out && ready .tret user &&
    user.cur.traps == [] && ready .tret (State.str user (fun t => { t with traps := [⟨0, none, true, none⟩] })) := by decide +kernel

/-- R251, R254: TRAP 0x12 saves the next instruction's address and its immediate; TRET goes back to it; BRK halts under BRKH. -/
theorem test_traps :
    after (.trap 0x12) (st0.setPkg 0x022 0x8000) (fun s => s.cur.reg 0x023 == 0x0F && s.cur.reg 0x024 == 8 && s.cur.reg 0x025 == 0x12 && s.curp.pc == 0x8000 &&
      s.curp.level == 2 && s.cur.reg 0x014 == 0xFFFFFFFF) &&
    after .tret (State.str st0 (fun t => (t.setReg 0x024 0x1008).setReg 0x013 0)) (fun s => s.curp.pc == 0x1008 && s.curp.level == 0 && s.curp.pos == 0) &&
    trapped (.brk 5) st0 cBRK && after (.brk 5) (State.str st0 (fun t => { t with brkh := true })) (fun s => s.cur.dbg == .halted) &&
    trapped .tret (State.at_ st0 (fun p => { p with level := 0 })) cPRIV := by decide +kernel

/-- A sealed page at 0x20000 that is read at its home, with a header and two words in it; the path stands at the header. -/
def stCode (hdr : Nat) : State :=
  let s := ((st0.setGran 0x20 0x80000000).setPreg 0 0x064 0x20000).setPreg 0 0x065 27
  State.at_ (s.hostWrite 0x20000 8 (hdr + 2 ^ 32 * 0xF4000000)) (fun p => { p with pc := 0x20000, pos := 0, hdr := 0, words := [] })

def fetches (s : State) (w : Word) : Bool :=
  match s.fetchWord s.cur s.curUnit s.curPath s.curp.level s.curp.pc with
  | .word x s1 => x == w && (match s1.fetchWords s.cur s1.curUnit s1.curPath s.curp.level (s.curp.pc + 4) (w.extractLsb' 28 4).toNat with
    | (l, .word _ _, _) => l.length == (w.extractLsb' 28 4).toNat
    | _ => false)
  | _ => false

def startable (s : State) : Bool :=
  (s.str? s.curUnit).isSome && !s.cur.outrider && mayStart s.cur s.curPath && s.curp.pos == 0 && s.curp.wrec == none && s.curp.left == none &&
  s.curp.skip == none && s.curp.hdr == 0 && s.curp.words == [] && s.cur.stepping == 0 && !s.cur.stopNow && !s.cur.stopTenant

/-- Headers: one with LEN 0, one that waits on f3, one at a join, one under pt and one under p0, which is empty. -/
theorem witness_ClauseStart :
    let tick := State.str (stCode 0x10000FE0) (fun t => { t with tickPending := true, p0 := { t.p0 with level := 0 } })
    let rep_ := State.str (stCode 0x10000FE0) (fun t => { t with reports := [⟨1, 2, 3, false, 0, 0, 0, 0, 0⟩] })
    let wait := State.at_ (stCode 0x10080FE0) (fun p => { p with binds := [(3, 1)] })
    let join := State.str (stCode 0x10000FE8) (fun t => { t with stack := [.join 0x20000] })
    [stCode 0, stCode 0x1000CFE0, stCode 0x10000CE0, stCode 0x10000FE1, stCode 0x10000FE0, stCode 0x10000F00, stCode 0x10000FF0, wait, join, tick, rep_].all startable &&
    fetches (stCode 0) 0 && fetches (stCode 0x10000FE0) 0x10000FE0 && fetches (stCode 0x10000F00) 0x10000F00 && fetches wait 0x10080FE0 && fetches join 0x10000FE8 &&
    tick.curp.level == 0 && (stCode 0).cur.reports == [] && !(stCode 0).cur.tickPending := by decide +kernel

/-- R232, R292, R293: the clause under pt starts at its first word; that under the empty p0 is skipped; LEN 0 is ILLEGAL with the header as value. -/
theorem test_clause_start :
    after .clauseStart (stCode 0x10000FE0) (fun s => s.curp.pos == 1 && s.curp.words == [0xF4000000] && s.curp.cmask == 0xFFFFFFFF) &&
    after .clauseStart (stCode 0x10000F00) (fun s => s.curp.pos == 0 && s.curp.pc == 0x20008) &&
    after .clauseStart (stCode 0x1000CFE0) (fun s => s.cur.reg 0x023 == 1 && s.cur.reg 0x024 == 0x20000 && s.cur.reg 0x025 == 0x1000CFE0) &&
    after .clauseStart (State.at_ (stCode 0x10080FE0) (fun p => { p with binds := [(3, 1)] })) (fun s => s.curp.pos == 0) := by decide +kernel

/-- Both paths at the join, one alone, one beside a running and beside a parked sibling, one over a suspended sibling. -/
def joined (a b : PState) (l : List StkRec) : Str := { st0.cur with
  stack := .join 0 :: l, p0 := { st0.cur.p0 with state := a, mask := 1 }, p1 := { st0.cur.p0 with state := b, mask := 2 } }

theorem witness_JoinsAndExits :
    let two := State.str st0 (fun t => { t with p0 := { t.p0 with mask := 0xFF }, p1 := { t.p0 with mask := 0xFFFFFF00 } })
    let out := State.str st0 (fun t => { t with outrider := true, runs := true })
    ([(.joinWait, .joinWait), (.joinWait, .empty), (.joinWait, .running), (.joinWait, .parked)] : List (PState × PState)).all (fun e =>
      (joined e.1 e.2 []).p0.state == e.1 && (joined e.1 e.2 []).p1.state == e.2 && (joined e.1 e.2 []).stack == [.join 0]) &&
    (joined .joinWait .empty [.susp Path.blank]).stack == [.join 0, .susp Path.blank] &&
    ready .exit two && two.cur.reports == [] && two.eng.queue == [] && two.cur.lmask &&& ~~~two.curp.mask == 0xFFFFFF00 && two.cur.p1.state == .running &&
    ready .exit out := by decide +kernel

theorem test_join_and_exit : (joined .joinWait .joinWait []).merge.p0.mask == 3 && (joined .joinWait .joinWait []).merge.p1 == Path.blank &&
    (joined .joinWait .joinWait []).merge.stack == [] &&
    after .exit (State.str st0 (fun t => { t with p0 := { t.p0 with mask := 0xFF }, p1 := { t.p0 with mask := 0xFFFFFF00 } }))
      (fun s => s.cur.lmask == 0xFFFFFF00 && s.cur.p0 == Path.blank) && after .exit st0 (fun s => (s.str? 0) == none) := by decide +kernel

/-- The string named by the event's operand, with its comparator due, asked to stop, and running or halted. -/
theorem witness_StopsAndDebugger :
    let s := State.str { State.at_ st0 (fun p => { p with level := 0 }) with arg := ⟨[0], []⟩, time := 10000000 } (fun t => { t.setReg 0x011 10000000 with stopTenant := true })
    (s.str? (s.argN 0) = some s.cur) ∧ s.cur.reg 0x011 ≠ 0 ∧ (s.cur.reg 0x011).toNat ≤ s.time ∧ (∀ n, s.cur.p0.hold ≠ .sleep n) ∧
    (∀ n, s.cur.p1.hold ≠ .sleep n) ∧ s.cur.p0.state = .running ∧ s.cur.stopTenant = true ∧ s.cur.captured = false ∧ s.cur.stopLater = false ∧ s.cur.passOut = false ∧
    s.cur.stopAt + s.sliceWait s.cur.world ≤ s.time ∧ s.cur.dbg = .running ∧ (State.at_ s (fun p => { p with pos := 0 })).cur.p0.pos = 0 ∧ s.cur.p1.pos = 0 :=
  ⟨by decide +kernel, by decide +kernel, by decide +kernel, no_sleep, no_sleep, by decide +kernel, by decide +kernel, by decide +kernel, by decide +kernel,
    by decide +kernel, by decide +kernel, by decide +kernel, by decide +kernel, by decide +kernel⟩

theorem test_tick_and_debug :
    after .tickExpiry (State.str { st0 with arg := ⟨[0], []⟩, time := 5 } (fun t => t.setReg 0x011 5)) (fun s => s.cur.tickPending && s.cur.reg 0x011 == 0) &&
    after .debugHalt { st0 with arg := ⟨[0], []⟩ } (fun s => s.cur.dbg == .halted) &&
    after .debugStep (State.at_ { st0 with arg := ⟨[0], []⟩ } (fun p => { p with pos := 0 })) (fun s => s.cur.stepping == 1) &&
    after .debugResume (State.str { st0 with arg := ⟨[0], []⟩ } (fun t => { t with dbg := .halted })) (fun s => s.cur.dbg == .running) := by decide +kernel

/-! ### Memory -/

/-- The steward's string with every on-chip space, and a base pair s4:s5 of HBM, scalar offsets 0. -/
def stMem : State := State.str { stTile with sch := { stTile.sch with cvAlloc := [(0, (0, 4096))], dpAlloc := [(0, (0, 65536))] } }
  (fun t => pair t 4 0x100000) |>.putL2 true 0 0x2000 ⟨0, false, false, 0, 0⟩

def passes (s : State) (m : MemOp) (ins : List LaneReq) (wb : Waybill) : Bool :=
  match judge s s.cur s.curp.resumed m ins wb with
  | .go _ c => c.park == [] && c.go.length == ins.length
  | .stop _ => false

def laneOf (s : State) (space size : Nat) : List LaneReq := laneIns s.cur s.curp space 0 4 size (fun _ => 1) (fun _ => 0)

theorem witness_LoadsAndStores :
    let chip := State.str stMem (fun t => uni t 4 0)
    let uga : List LaneReq := [⟨0, 0x100000, 8, 5, 0⟩]
    let ug4 : List LaneReq := [⟨0, 0x100000, 4, 5, 0⟩]
    allReady stMem [.ld 8 0 4 0 0, .ld 8 0 4 4 1, .ldc 8 0 4 2 0, .st 8 0 4 3 0, .sld 8 4 6 0, .sld64 8 4 6 1, .slda 8 4 6 5 0, .sst 8 4 6 0, .sst64 8 4 6 0,
      .sstl 8 4 6 2 0, .satadd 8 4 6 3 0, .satcas 8 4 6 4 0, .arrv 4 6 4] &&
    allReady chip [.ldsp 8 0 4 2 0, .stsp 8 0 4 4 1, .ldcv 8 0 4 2 0, .stcv 8 0 4 3 0, .lddp 8 0 4 6 0, .stdp 8 0 4 0 0, .sldsp 8 4 6 0, .sstsp 8 4 6 0] &&
    passes stMem (loadOp 0 8 4 1) (laneOf stMem 0 16) 0 && passes stMem { loadOp 0 8 2 0 with kind := .cfetch } (laneOf stMem 0 4) 0 &&
    passes stMem (storeOp 0 3 0) (laneOf stMem 0 8) 0 && passes chip (loadOp 1 8 2 0) (laneOf chip 1 4) 0 && passes chip (storeOp 1 4 1) (laneOf chip 1 16) 0 &&
    passes chip (loadOp 2 8 2 0) (laneOf chip 2 4) 0 && passes chip (storeOp 2 3 0) (laneOf chip 2 8) 0 && passes chip (loadOp 3 8 6 0) (laneOf chip 3 2) 0 &&
    passes chip (storeOp 3 0 0) (laneOf chip 3 1) 0 && passes stMem (uniMemOp 0 8 .load (.uni 8 2) 0) uga 0 && passes stMem (uniMemOp 0 4 .store .none 0) ug4 0 &&
    passes stMem { uniMemOp 0 4 .load (.uni 8 1) 0 with strong := true, acq := true, scope := 5 } ug4 0 &&
    passes stMem { uniMemOp 0 4 .atomic (.uni 8 1) 0 with strong := true, scope := 4, atop := 9 } ug4 0 &&
    passes stMem { uniMemOp 0 8 .atomic .none 0 with slot := none, strong := true, rel := true, scope := 4, atop := 0 } uga 0 &&
    passes chip (uniMemOp 1 4 .load (.uni 8 1) 0) [⟨0, 98300, 4, 0, 0⟩] 0 && !passes chip (uniMemOp 1 4 .load (.uni 8 1) 0) [⟨0, 98304, 4, 0, 0⟩] 0 &&
    stMem.cur.firstNack stMem.curp == none && stMem.cur.acked stMem.curp := by decide +kernel

theorem witness_AcquireReleaseAndAtomics :
    allReady stMem [.lda 8 0 4 5 0, .lda64 8 0 4 0 1, .stl 8 0 4 5 0, .stl64 8 0 4 4 0, .atadd 8 0 4 2 0, .atmin 8 0 4 2 0, .atmax 8 0 4 2 0, .atminn 8 0 4 2 0,
      .atmaxn 8 0 4 2 0, .atand 8 0 4 2 0, .ator 8 0 4 2 0, .atxor 8 0 4 2 0, .atxch 8 0 4 2 0, .atfadd 8 0 4 2 0, .atadd64 8 0 4 2 0, .atcas 8 0 4 2 0,
      .atcas64 8 0 4 2 1] &&
    passes stMem (acquireOp 4 8 5 0) (laneOf stMem 0 4) 0 && passes stMem (acquireOp 8 8 0 1) (laneOf stMem 0 8) 0 && passes stMem (releaseOp 4 5 0) (laneOf stMem 0 4) 0 &&
    passes stMem (releaseOp 8 4 0) (laneOf stMem 0 8) 0 && passes stMem (atomOp 0 4 8 2 0) (laneOf stMem 0 4) 0 && passes stMem (atomOp 9 8 8 2 1) (laneOf stMem 0 8) 0 &&
    decide ((2 : Word).toNat ≠ 3) := by decide +kernel

/-- R378: signed and unsigned extremes of the same bits; a 64-bit sum that carries. -/
theorem test_atomics : atomNew 1 4 0xFFFFFFFF 2 0 == 0xFFFFFFFF && atomNew 3 4 0xFFFFFFFF 2 0 == 2 && atomNew 2 4 0xFFFFFFFF 2 0 == 2 &&
    atomNew 4 4 0xFFFFFFFF 2 0 == 0xFFFFFFFF && atomNew 0 4 0xFFFFFFFF 2 0 == 1 && atomNew 0 8 0xFFFFFFFF 2 0 == 0x100000001 && atomNew 9 4 7 8 7 == 8 &&
    atomNew 9 4 7 8 6 == 7 && atomNew 8 4 7 8 0 == 8 && atomNew 10 4 0x3F800000 0x40000000 0 == 0x40400000 := by decide +kernel

theorem witness_PrefetchQueueAndRepeat :
    let full := State.str st0 (fun t => { t with oq := [(1, (List.range 64).map (fun k => (BitVec.ofNat 32 k, 0)))] })
    let rep_ := fun (w : Word) => State.at_ { st0 with curWord := word 0x6C [(3, 18), (1, 15), (2, 12), (3, 9)] } (fun p => { p with words := [0, w] })
    allReady st0 [.pfet 0 4 0, .pfet 0 4 1, .popq 8 3 0] && ready (.popq 8 1 1) full && (tget [] full.cur.oq 1).length == 64 && (tget [] st0.cur.oq 3) == [] &&
    ready (.rep 3 1 2 3) (rep_ 0) && !repBad (rep_ 0).cur (rep_ 0).curWord (rep_ 0).curp.words[(rep_ 0).curp.pos]? &&
    repBad (rep_ 0x80000000).cur (rep_ 0x80000000).curWord (rep_ 0x80000000).curp.words[(rep_ 0x80000000).curp.pos]? &&
    repBad st0.cur st0.curWord st0.curp.words[st0.curp.pos]? := by decide +kernel

/-- R381, R382: the oldest entries go to the lanes in order; a REP at the end of its clause is ILLEGAL. -/
theorem test_queue_and_repeat :
    after (.popq 8 1 0) (State.at_ (State.str st0 (fun t => { t with oq := [(1, [(7, 0), (8, 0), (9, 0)])] })) (fun p => { p with cmask := 0x30 }))
      (fun s => s.cur.vget 8 4 == 7 && s.cur.vget 8 5 == 8 && tget [] s.cur.oq 1 == [(9, 0)]) &&
    after (.popq 8 1 0) st0 (fun s => s.curp.hold == .word) && trapped (.rep 3 1 2 3) st0 cILLEGAL := by decide +kernel

/-- A request of the first string, alone in flight. -/
def asks (r : Req) : State := { st0 with arg := ⟨[7, 0], []⟩, mem := { st0.mem with reqs := [r], ops := [(3, ⟨0, false, .vec 8 1 4 false, true, 0, false, 1, none⟩)] } }
def rq (kind : ReqKind) (stage : Stage) : Req := { Req.mk0 7 3 kind stage st0.cur 0 false 0 with
  ident := true, tag := 0, line := 0x2000, lanes := [⟨0, 0x100004, 4, 0x12345678, 0⟩], counted := true }
def bank (kind : ReqKind) (space : Nat) : Req := { rq kind .bank with space := space, line := 1, lanes := [⟨0, 0x104, 4, 0x12345678, 0⟩] }
def atLine (r : Req) : State := (asks r).putL2 true 0 0x2000 ⟨0, false, false, 0, 0⟩
def found (s : State) (st : Stage) : Bool := s.reqAt (s.argN 0) st == s.mem.reqs.head? && s.mem.reqs != []

theorem witness_BankAccesses :
    let old : Req := { bank .load 1 with rid := 8, op := 2 }
    let late : Req := { bank .store 1 with waits := [8] }
    let held : State := { asks late with mem := { (asks late).mem with reqs := [late, old] } }
    let err : State := { st0 with arg := ⟨[7, 1, 0, 0x104, 1], []⟩ }
    let o : Op := ⟨0, false, .uni 8 2, true, 0, false, 1, none⟩
    found (asks (bank .store 1)) .bank && found (asks (bank .store 2)) .bank && found (asks (bank .store 3)) .bank && found (asks (bank .load 1)) .bank &&
    (asks (bank .store 1)).mayPerform (bank .store 1) && (asks (bank .load 1)).mayPerform (bank .load 1) && (asks (bank .load 1)).argN 1 == 0 &&
    found held .bank && !held.mayPerform late && (asks (bank .load 1)).argN 2 == 0 && err.argN 1 == 1 && err.reqAt (err.argN 0) .bank == none && err.mem.reqs == [] &&
    (bank .load 1).lanes.length == 1 && (tfind (asks (bank .load 1)).mem.ops 3).isSome &&
    decide (([(0, 5), (31, 6)] : List (Nat × Nat)).map Prod.fst).Nodup && o.dest == .uni 8 2 := by decide +kernel

/-- R66, R373: a store of a word changes its four bytes, the lowest first; a load gives its lane the word. -/
theorem test_bank :
    after .bankAccess (asks (bank .store 1)) (fun s => ([0x103, 0x104, 0x105, 0x106, 0x107, 0x108] : List Nat).map (s.chipByte 1) == [0, 0x78, 0x56, 0x34, 0x12, 0] &&
      s.mem.reqs == []) &&
    after .bankAccess ({ asks (bank .load 1) with mem := { (asks (bank .load 1)).mem with sp := [(0x104, 0xFE), (0x107, 0x80)] } } : State)
      (fun s => s.cur.vget 8 0 == 0x800000FE && s.cur.vget 8 1 == 0) := by decide +kernel

theorem witness_L2AndAtomicUnits :
    let old : Req := { rq .load .l2 with rid := 8, op := 2 }
    let late : Req := { rq .store .l2 with waits := [8] }
    let held : State := { atLine late with mem := { (atLine late).mem with reqs := [late, old] } }
    let strong := { rq .load .l2 with strong := true }
    ([rq .store .l2, rq .atomic .l2, rq .fill .l2, rq .load .l2, strong] : List Req).all (fun r =>
      found (atLine r) .l2 && (atLine r).mayPerform r && ((atLine r).sampleReq r true).l2? r.ident r.tag r.line != none) &&
    (asks (rq .load .l2)).l2? true 0 0x2000 == none && found (asks (rq .load .l2)) .l2 && found held .l2 && !held.mayPerform late && held.argN 1 == 0 && held.argN 2 == 0 &&
    coverage 128 (rq .store .l2).lanes != 2 ^ 128 - 1 &&
    ([rq .atomic .atom, rq .store .atom, rq .load .atom] : List Req).all (fun r => found (asks r) .atom && (asks r).mayPerform r && r.counted &&
      (asks r).physOf r.ident r.tag (r.line * 128) == some 0x100000 && regionOf 0x100000 == .hbm && !r.acq) := by decide +kernel

/-- R81, R378: an atomic at the L2 adds to its word and gives the old one back; R87: an atomic unit does so in memory. -/
theorem test_atomic_at_its_home :
    let w := { rq .atomic .l2 with lanes := [⟨0, 0x100004, 4, 5, 0⟩] }
    let s := (asks w).putL2 true 0 0x2000 ⟨BitVec.ofNat 1024 (2 ^ 32 * 0xFFFFFFFE), false, false, 0, 0⟩
    after .l2Request s (fun s' => match s'.l2? true 0 0x2000 with
      | some l => lineGet l.data 4 4 == 3 && lineGet l.data 8 4 == 0 && l.dirty
      | none => false) &&
    after .atomicUnitOp (asks { w with stage := .atom }) (fun s' => lineGet (readKeyed s'.mem 0x2000 (s'.memKey 0) 0x2000).1 4 4 == 5 && s'.mem.reqs == []) := by
  decide +kernel

theorem witness_FillsAndMaintenance :
    let got := fun (k : ReqKind) (st : Stage) => { rq k st with got := some (5, false, 3, 1) }
    let full : State := { asks { rq .load .hbm with world := 1 } with xl := { st0.xl with part := [(1, 0)] }, mem := { (asks { rq .load .hbm with world := 1 }).mem with bw := [(stackOf 0x100000 * 32, 2 ^ 40)] } }
    let wb : State := { st0.setPkg 0x072 0xE0000000 with xl := { st0.xl with part := [(1, 0)] } }
    found (asks (rq .load .hbm)) .hbm && (asks (rq .load .hbm)).physOf true 0 0x100000 == some 0x100000 && !(asks (rq .load .hbm)).bandFull (stackOf 0x100000) none &&
    found full .hbm && full.bandFull (stackOf 0x100000) (full.partOf 1) &&
    found (asks (got .load .fill)) .fill && found (asks (got .fill .fill)) .fill && (asks (got .load .fill)).l2? true 0 0x2000 == none &&
    found (asks (got .load .l1)) .l1 && found (asks { got .load .l1 with noInstall := true }) .l1 && found (asks (got .pfetch .l1)) .l1 &&
    found (asks (got .cfetch .l1)) .l1 && found (asks (got .ifetch .l1)) .l1 && (got .load .l1).later == [] && st0.wayMask 0 % 65536 != 0 &&
    (wb.pkg 0x072).getLsbD 31 && (wb.pkg 0x072).getLsbD 30 && !wb.mem.wbBusy && wb.inWb 1 0x2000 && canonical 0xFF00000000000000 &&
    ({ st0 with mem := { st0.mem with zeroing := [(1, 0, 16384)] } } : State).mem.zeroing == [(1, 0, 16384)] && decide (124 + 4 ≤ 128) := by decide +kernel

/-- R85: a line that arrives is in the L2 clean; R79: one for the instruction cache is there for its world. -/
theorem test_fills :
    let got := fun (k : ReqKind) (st : Stage) => { rq k st with got := some (5, false, 3, 0) }
    after .l2Fill (asks (got .load .fill)) (fun s => s.l2? true 0 0x2000 == some ⟨5, false, false, 3, 0⟩) &&
    after .instructionCacheFill (asks (got .ifetch .l1)) (fun s => (tget [] s.mem.ic 0).any (fun c => c.is 0 0x2000 && c.data == 5 && c.wb == 3)) &&
    after .constantCacheFill (asks (got .cfetch .l1)) (fun s => (tget [] s.mem.cc 0).any (fun c => c.is 0 0x2000)) &&
    after .l1Fill (asks (got .load .l1)) (fun s => (s.l1Of 0).any (fun c => c.is 0 0x2000 && c.way == 0)) &&
    after .allocationZero { st0 with mem := { st0.mem with zeroing := [(1, 0, 64)], sp := [(0, 1), (63, 2), (64, 3)] } } (fun s => s.mem.sp == [(64, 3)]) &&
    after .patrolRead { st0 with arg := ⟨[9], []⟩ } (fun s => s.mem.patrol == 10) && after .bandwidthWindow { st0 with time := 3600, mem := { st0.mem with bw := [(1, 2)] } } (fun s => s.mem.bw == []) := by
  decide +kernel

/-! ### Translation, frames and system registers -/

/-- Leaves: bit 0 V, 1 W, 2 X, 3 USER and so on are set where the name says; see R22. -/
def leafE (leaf : Dword) (rd wr ex : Bool) (size : Nat) : TlbE := ⟨1, 0x100, size, 0x100, leaf, rd, wr, ex, []⟩

/-- The bits of a leaf the checks look at, found by trying each of the 64. -/
def bitOf (f : Dword → Bool) : Dword := ((List.range 64).map (fun k => (1 : Dword) <<< k)).find? f |>.getD 0

theorem witness_LeafChecks :
    let u := bitOf lfUser
    let w := bitOf lfW
    let x := bitOf lfX
    let h := bitOf lfHome
    let sl := bitOf lfSeal
    lfUser u && !lfUser 0 && lfW w && !lfW u && lfX x && lfHome h && lfSeal sl && !lfSeal (u ||| w) && !lfHome (u ||| w) && !lfX (u ||| w) &&
    -- user-page rules at both levels; the second stage not mapped, read-only and complete; then the leaf's own bits
    leafCheck (leafE 0 true true true 0) 0 0 true 0 false false == some (.trap ⟨32, 5, 6, 0, 0⟩) &&
    leafCheck (leafE (u ||| x) true true true 3) 3 1 true 0 true false == some (.trap ⟨33, 5, 7, 2, 0⟩) &&
    (match leafCheck (leafE u true true true 0) 0 0 false 2 false false with
      | some (.trap f) => f.cause == 4 && f.reason == 9 && f.level == 2
      | _ => false) &&
    (match leafCheck (leafE (u ||| w) true false true 0) 1 0 true 0 false false with
      | some (.trap f) => f.cause == 5 && f.reason == 10
      | _ => false) &&
    (match leafCheck (leafE (u ||| w ||| sl) true true true 0) 1 0 true 0 false false, leafCheck (leafE (u ||| w) true true true 0) 7 0 true 0 true false with
      | some (.trap f), some (.trap g) => f.cause == 6 && g.cause == 6 && g.reason == 12
      | _, _ => false) &&
    (match leafCheck (leafE u true true true 0) 2 0 true 0 false false, leafCheck (leafE (u ||| h) true true true 2) 5 0 true 0 false false with
      | some (.trap f), some (.park z own) => f.cause == 5 && f.reason == 4 && z == 2 && own
      | _, _ => false) &&
    (match leafCheck (leafE u true true true 0) 3 0 true 0 true false, leafCheck (leafE (u ||| x) true true true 0) 3 0 true 0 false false with
      | some (.trap f), some (.trap g) => f.reason == 5 && g.reason == 8
      | _, _ => false) &&
    leafCheck (leafE (u ||| w) true true true 0) 1 0 true 0 false false == none && leafCheck (leafE (u ||| x) true true true 0) 3 0 true 0 true false == none := by
  decide +kernel

/-- A string of world 1 of partition 0, at a level, whose guest-physical frames 0x100 to 0x10F stand at the same host frames. -/
def guest (lvl : Nat) (entry : Dword) : State :=
  let s : State := { st0 with xl := { st0.xl with part := [(1, 0), (2, 1)], s2c := [(0, (List.range 16).map (fun k =>
    (⟨0, 0x100 + k, 0, BitVec.ofNat 64 ((0x100 + k) * 4096) ||| entry⟩ : S2E)))] } }
  State.str s (fun t => { t with world := 1, p0 := { t.p0 with level := lvl } })

theorem witness_Shootdowns :
    let at1 := fun (w : Word) => State.str (guest 1 15) (fun t => uni t 4 w)
    let at2 := fun (w : Word) => State.str (guest 2 15) (fun t => uni t 4 w)
    let busy : State := { at1 1 with mem := { (at1 1).mem with reqs := [{ rq .load .l2 with world := 1, ident := false, unit := 5, va := 0x1000 }] } }
    let done : State := { at1 1 with arg := ⟨[9], []⟩, xl := { (at1 1).xl with shoots := [⟨0, 1, 0x1000, 9, 0, false, []⟩] } }
    allReady (at1 2) [.tlbiPage 4 6 0, .tlbiWorld 4 0] && allReady (at1 256) [.tlbiPage 4 6 0, .tlbiWorld 4 0] && ready (.tlbiPart 4 0) (at1 1) && ready (.tlbiPart 4 0) (at1 24) &&
    allReady (at2 24) [.tlbiG2page 4 6 0, .tlbiG2part 4 0] && (at1 2).topPart 2 == some 1 && (at1 2).topPart 1 == some 0 && (at1 1).topOf 1 == 1 &&
    allReady (at1 1) [.tlbiPage 4 6 0, .tlbiWorld 4 1] && ready (.tlbiPart 4 0) (at1 0) && allReady (at2 23) [.tlbiPart 4 0, .tlbiG2page 4 6 0, .tlbiG2part 4 1, .tlbiAll 0] &&
    (at1 1).quiet 0 && !(at1 1).curp.rep && (at1 1).shootWaits 0 1 0 == [] && busy.shootWaits 0 1 0x1000 != [] && busy.shootWaits 1 1 0 != [] && busy.shootWaits 3 0 0 != [] &&
    busy.shootWaits 2 0 0 != [] && busy.shootWaits 4 0 0 != [] && busy.quiet 0 &&
    done.xl.shoots.find? (fun x => x.op == done.argN 0) == some ⟨0, 1, 0x1000, 9, 0, false, []⟩ && done.mem.reqs == [] := by decide +kernel

/-- R42: entries of the named page go, those of its neighbour stay. -/
theorem test_shootdown :
    let s := State.str (guest 1 15) (fun t => pair (uni t 4 1) 6 0x1000)
    let s : State := { s with xl := { s.xl with ctlb := [(0, [⟨1, 1, 0, 5, 0, true, true, true, []⟩, ⟨1, 2, 0, 5, 0, true, true, true, []⟩])] } }
    after (.tlbiPage 4 6 0) s (fun s => (tget [] s.xl.ctlb 0).map TlbE.vpn == [2]) &&
    trapped (.tlbiPage 4 6 0) (State.str (guest 1 15) (fun t => uni t 4 2)) cPRIV := by decide +kernel

def scrubAt (gpa : Dword) : State := State.str (guest 1 15) (fun t => pair t 4 gpa)

theorem witness_FramesAndPools :
    let off := (scrubAt 0x100000).setGran 0x100 0x40000000
    let sealed_ := (scrubAt 0x100000).setGran 0x100 0x80000000
    let g := fun (s : State) => s.frameGrans 0 0x100000 0
    let pools : State := { guest 1 15 with xl := { (guest 1 15).xl with pools := [(0, [0x100000])] } }
    let hold : State := State.at_ { pools with arg := ⟨[0, 0], []⟩, xl := { pools.xl with poolWait := [⟨0, 0, some (0, false), 0, 8⟩] } } (fun p => { p with hold := .frame })
    allReady (scrubAt 0x100008) [.scrub 8 4 0 0] && ready (.scrub 8 4 0 1) (scrubAt 0x101000) && ready (.scrub 8 4 0 0) (scrubAt 0) && ready (.scrub 8 4 0 0) (scrubAt 0x100000) &&
    (scrubAt 0x100000).topPart 1 == some 0 && (g (scrubAt 0x100000)).all (fun x => match x.2 with
      | some (e, w) => e.getLsbD 2 && !w.getLsbD 31 && !w.getLsbD 30
      | none => false) && (g (scrubAt 0x100000)).length == 1 &&
    (g off).any (fun x => match x.2 with
      | some (_, w) => w.getLsbD 30 && !w.getLsbD 31
      | none => false) &&
    (g sealed_).any (fun x => match x.2 with
      | some (e, w) => e.getLsbD 2 && w.getLsbD 31
      | none => false) && ready (.scrub 8 4 0 0) off && ready (.scrub 8 4 0 0) sealed_ &&
    (guest 1 15).s2Leaf 0 0x100000 == some (0, 0x10000F) && !((guest 1 15).preg 0 0x065).getLsbD 31 && regionOf 0x100000 == .hbm &&
    allReady pools [.sysr 8 0x068, .sysr 8 0x06C] && allReady (guest 1 15) [.sysr 8 0x068, .sysr 8 0x06E] && pools.ownTop pools.cur pools.curp 0x068 == some 0 &&
    (atWord pools (word 0xE9 [(8, 18), (0x068, 0)])).curp.sysrHere == some (0x068, 8) && (atWord pools (word 0xE9 [(8, 18), (0x06C, 0)])).curp.sysrHere == some (0x06C, 8) &&
    hold.xl.poolWait.find? (fun w => w.part == hold.argN 0 && w.size == hold.argN 1) == some ⟨0, 0, some (0, false), 0, 8⟩ && hold.curp.hold == .frame && !hold.cur.captured &&
    tget [] hold.xl.pools 0 == [0x100000] := by decide +kernel

/-- A pool at its limit. -/
theorem witness_FramesAndPools_full : ∃ s : State, ready (.scrub 8 4 0 0) s = true ∧ s.topPart s.cur.world = some 0 ∧
    (s.cur.spair 4).toNat = 0x100000 ∧ 2 ^ 18 ≤ (tget [] s.xl.pools 0).length :=
  ⟨{ scrubAt 0x100000 with xl := { (scrubAt 0x100000).xl with pools := [(0, List.replicate (2 ^ 18) 4096)] } },
    by decide +kernel, by decide +kernel, by decide +kernel, by
      show 2 ^ 18 ≤ (List.replicate (2 ^ 18) 4096).length
      rw [List.length_replicate]⟩

/-- R47, R48, R346: SCRUB puts a whole frame into its pool; frame 0 is FORM; an empty pool stalls a read and gives a try 0. -/
theorem test_frames :
    after (.scrub 8 4 0 0) (scrubAt 0x100000) (fun s => s.cur.sget 8 == 0 && tget [] s.xl.pools 0 == [0x100000]) &&
    after (.scrub 8 4 0 0) (scrubAt 0) (fun s => s.cur.sget 8 == 0x03000000) && trapped (.scrub 8 4 0 0) ((scrubAt 0x100000).setGran 0x100 0x80000000) cSEALED &&
    after (.sysr 8 0x068) { guest 1 15 with xl := { (guest 1 15).xl with pools := [(0, [0x100000])] } } (fun s => s.cur.spair 8 == 0x100000 && tget [] s.xl.pools 0 == []) &&
    after (.sysr 8 0x068) (guest 1 15) (fun s => s.curp.hold == .frame) && after (.sysr 8 0x06C) (guest 1 15) (fun s => s.cur.spair 8 == 0 && s.curp.pos == 0) := by
  decide +kernel

theorem witness_SystemRegisterReads :
    let user := State.at_ st0 (fun p => { p with level := 0 })
    allReady st0 [.sysr 8 0x022, .sysr 8 0x083, .sysr 8 0x010, .sysr 9 0x001] && (st0.str? st0.curUnit == some st0.cur) && ready (.sysr 8 0x022) user && sysRow 0x009 == none &&
    (match sysRow 0x022 with
      | some x => x.pair && x.rd == .level 2
      | none => false) &&
    (sysRows0.any (fun x => x.rd == .handler)) && ready (.sysr 8 0x024) (State.str user (fun t => { t with trapLevel := 1 })) && sysRow 0x0F6 == none := by decide +kernel

theorem test_system_registers :
    after (.sysr 8 0x010) { st0 with time := 2 ^ 33 + 5 } (fun s => s.cur.spair 8 == 0x200000005) && trapped (.sysr 8 0x022) (State.at_ st0 (fun p => { p with level := 0 })) cPRIV &&
    trapped (.sysr 8 0x009) st0 cILLEGAL && after (.sysw 4 0x0B0) (State.str st0 (fun t => { uni t 4 0xFFFFFFFF with swb := [(4, 6)] }))
      (fun s => s.cur.reg 0x0B0 == 3 && s.curp.flow == 6) &&
    after (.sysw 4 0x022) (State.str st0 (fun t => pair t 4 0xFFFFFFFFFFFFFFFF)) (fun s => s.pkg 0x022 == 0xFFFFFFFFFFFFFFFC) && trapped (.sysw 4 0x010) st0 cILLEGAL := by
  decide +kernel

theorem witness_SystemRegisterWrites :
    let user := State.at_ st0 (fun p => { p with level := 0 })
    let none24 := State.str st0 (fun t => t.setReg 0x062 24)
    let event : State := { st0 with arg := ⟨[0, 0, 0x0B0, 3], []⟩ }
    allReady st0 [.sysw 4 0x011, .sysw 4 0x0E2, .sysw 4 0x021, .sysw 4 0x050, .sysw 4 0x022, .sysw 4 0x0C1, .sysw 4 0x000] &&
    ready (.sysw 4 0x022) user && ready (.sysw 4 0x063) none24 && none24.cur.reg 0x062 == 24 && sysRow 0x009 == none && ((sysRow 0x010).map SysRow.wr == some .none) && event.argN 2 == 0x0B0 && event.argN 3 == 3 &&
    st0.curp.live && st0.cur.trapLevel == 0 := by decide +kernel

/-! ### Remote pages -/

/-- A guest of one lane whose world has tables at frames 0x100 to 0x104 (levels 4 to 0), with the leaf of address 0x5000, which the base
pair s4:s5 names. -/
def mapped (leaf : Dword) : State :=
  let s := State.at_ (State.str (guest 0 15) (fun t => pair t 4 0x5000)) (fun p => { p with cmask := 1 })
  let s := [0x100, 0x101, 0x102, 0x103, 0x104].foldl (fun s k => s.setGran k 0x00010000) (s.setWreg 1 0x060 0x100001)
  let s := [0, 1, 2, 3].foldl (fun s n => s.putL2 false 1 (0x2000 + 32 * n) ⟨BitVec.ofNat 1024 (0x101001 + 0x1000 * n), false, false, 0, 0⟩) s
  s.putL2 false 1 0x2080 ⟨leaf.setWidth 1024 <<< 320, false, false, 0, 0⟩

/-- A user page away from home. -/
def away : State := mapped 0x1A

def parks (s : State) (i : Instr) (m : MemOp) (ins : List LaneReq) : Bool :=
  ready i s && !s.cur.outrider && (match judge s s.cur s.curp.resumed m ins 0 with
    | .go s1 k => (match k.park with
      | (_, sz, _) :: _ => decide (sz < 4) && k.park.length == ins.length && s1.partOf 1 == some 0
      | [] => false)
    | .stop _ => false)

theorem witness_Parking :
    let woken := State.at_ st0 (fun p => { p with woken := true })
    let uga : List LaneReq := [⟨0, 0x5000, 4, 0, 0⟩]
    parks away (.ld 8 0 4 2 0) (loadOp 0 8 2 0) (laneOf away 0 4) && parks away (.st 8 0 4 3 0) (storeOp 0 3 0) (laneOf away 0 8) &&
    parks away (.atadd 8 0 4 2 0) (atomOp 0 4 8 2 0) (laneOf away 0 4) && parks away (.sld 8 4 6 0) (uniMemOp 0 4 .load (.uni 8 1) 0) uga &&
    parks away (.sst 8 4 6 0) (uniMemOp 0 4 .store .none 0) uga && decide (away.cur.world < 256 ∧ coreOf away.curUnit < 480 ∧ slotOf away.curUnit < 32) &&
    woken.str? woken.curUnit == some woken.cur && woken.curp.woken && woken.curp.state == .running && woken.curp.pos != 0 && woken.curp.words != [] &&
    (State.at_ woken (fun p => { p with pos := 0 })).curp.pos == 0 && 5 ∈ lanesOf 0x20 := by decide +kernel

/-- R97, R99, R102: the path parks at its load, nothing is written, and the record of lane 0 is posted. -/
theorem test_park :
    after (.ld 8 0 4 2 0) away (fun s => s.curp.state == .parked && s.curp.umask == 1 && s.cur.vget 8 0 == 0 && s.curp.pos == away.curp.pos &&
      s.way.posts.map (fun w => (frVa w, frWorld w, frSize w, frAcc w, frOwn w)) == [(0x5000, 1, 0, 0, false)]) := by decide +kernel

/-- The fault record of a load (acc 0) or store (acc 1) of the first string's lane 0 at 0x5000 of world 1. -/
def frec (acc : Nat) : BitVec 256 := BitVec.ofNat 256 (0x5000 * 2 ^ 128 + 2 ^ 120 + acc * 2 ^ 110 + 2 ^ 43)
/-- The entry of that page. -/
def pendE (st : Nat) : Pend := ⟨3, 1, 0, 5, st, false, [frec 0], none, 0, 0, [], 0, false, false, 0, 0⟩
def waySt (s : State) (f : WayS → WayS) : State := { s with way := f s.way }
def withPend (s : State) (e : Pend) : State := waySt s (fun w => { w with pends := [e] })
def parkedSt : State := State.at_ away (fun p => { p with state := .parked, wrec := some (frec 0), umask := 1 })

theorem witness_ParkingAndWaking_queue :
    let posted := waySt away (fun w => { w with posts := [frec 0] })
    let joins := withPend posted (pendE 0)
    let full := withPend posted { pendE 0 with vpn := 9, waiters := (List.range 256).map (fun _ => frec 0) }
    let busy := waySt away (fun w => { w with pends := (List.range 32).map (fun k => { pendE 2 with id := k }) })
    let key := fun (x : Pend) => x.world == frWorld (frec 0) && x.size == frSize (frec 0) && x.vpn == pageVpn (frVa (frec 0)) (frSize (frec 0)) && x.st != 7
    let off := away.setPreg 0 0x080 1
    let kern := away.setPreg 0 0x080 4
    let named : State := { joins with arg := ⟨[0, 2 ^ 45 + 5], []⟩ }
    joins.admits (frec 0) && posted.admits (frec 0) && joins.way.posts == [frec 0] && joins.way.pends.find? key == some (pendE 0) && posted.way.pends.find? key == none &&
    !full.admits (frec 0) && full.way.posts == [frec 0] && !frOwn (frec 0) && !isWrite (frAcc (frec 0)) && joins.nextPend == some (pendE 0) &&
    (busy.way.pends.filter (fun e => decide (1 ≤ e.st) && decide (e.st ≤ 7))).length == 32 &&
    (let leaf := ((away.leavesOf 1 0x5000 0).1.head?.map Prod.snd).getD 0
     lfHome leaf && !lfV leaf && !off.wsmode 7 0 && off.wsmode (off.pendPart (pendE 0)) 0 && !away.wsmode (away.pendPart (pendE 0)) 0) &&
    (let leaf := (((mapped 0x10001B).leavesOf 1 0x5000 0).1.head?.map Prod.snd).getD 0
     lfV leaf && lfW leaf && lfHome leaf) &&
    frSrc (frec 0) == 0 && parkedSt.str? (frCore (frec 0) * 64 + frSlot (frec 0)) == some parkedSt.cur && !parkedSt.cur.outrider && parkedOn (parkedSt.cur.path false) (frec 0) &&
    parkedSt.cur.p0.parkOp == none && frLanes (frec 0) == 1 && kern.wsmode (kern.pendPart (pendE 0)) 2 && !away.wsmode (away.pendPart (pendE 0)) 2 &&
    named.named? (named.argN 0) (named.argN 1) == some (pendE 0) && away.named? 0 (2 ^ 45 + 5) == none := by decide +kernel

/-- R100, R113, R120, R121: records of a page share an entry; a wake sets the path running with its address kept; a failed fault is PAGE at
the kernel level with the decline's cause. -/
theorem test_wakes :
    let two := waySt away (fun w => { w with posts := [frec 0, frec 1] })
    after .faultAdmit two (fun s => s.way.pends.map (fun e => (e.vpn, e.waiters.length, e.need)) == [(5, 1, false)] && after .faultAdmit s (fun s =>
      s.way.pends.map (fun e => (e.vpn, e.waiters.length)) == [(5, 2)])) &&
    (parkedSt.wakeOne (frec 0) 0 .replay).curp.state == .running && (parkedSt.wakeOne (frec 0) 0 .replay).curp.woken &&
    (let s := parkedSt.wakeOne (frec 0) 0 (.trap 0x0C)
     s.cur.reg 0x023 == BitVec.ofNat 64 cPAGE && s.curp.level == 1) := by decide +kernel

/-- A manifest entry for that page: valid, of a kind, in a state, homed at package h. -/
def mEnt (kind st h : Nat) : Nat := 5 + 2 ^ 45 + kind * 2 ^ 56 + st * 2 ^ 58 + 2 ^ 63 + h * 2 ^ 118
def ev (s : State) (l : List Nat) : State := { s with arg := ⟨l, []⟩ }
/-- With world 1 as the kernel world, and the manifest entry at 0x105000. -/
def withEnt (s : State) (x : Nat) : State :=
  ({ s with xl := { s.xl with kernel := [(0, 1)] } }.setGran 0x105 0x00010000).putL2 false 1 0x20A0 ⟨BitVec.ofNat 1024 x, false, false, 0, 0⟩

theorem witness_PageResolution :
    let p := fun st => withPend away (pendE st)
    let tmo := fun (n since time : Nat) (mode : Dword) => ev { withPend ((away.setPreg 0 0x081 n).setPreg 0 0x080 mode) { pendE 2 with since := since, attempts := 1 } with time := time } [3]
    let ret := fun (w st att : Nat) (entry : Nat) (time : Nat) => ev { withPend (away.setPreg 0 0x081 (BitVec.ofNat 64 w)) { pendE st with attempts := att, entry := entry, frame := some 0x106000 } with time := time }
    let late := fun (s : State) (n k scale : Nat) => decide (3600 * (scale * ((s.preg 0 0x081).extractLsb' k 8).toNat) ≤ n)
    (p 2).pend? 3 == some (pendE 2) && (p 2).pendPart (pendE 2) == 0 && away.topOf 0 == 0 &&
    ((tmo 5 0 17999 0).pend? 3).isSome && !late (tmo 5 0 17999 0) 17999 0 1 && late (tmo 5 0 18000 0) 18000 0 1 &&
    ((tmo 5 0 18000 0).preg 0 0x081).extractLsb' 30 2 == 0 && ((tmo 0x40000005 0 18000 0).preg 0 0x081).extractLsb' 30 2 == 1 &&
    (tmo 0x40000005 0 18000 8).wsmode 0 3 && !(tmo 0x40000005 0 18000 0).wsmode 0 3 &&
    ((ret 0 4 1 (mEnt 0 0 9) 0 [0, 3, 0, 1]).pend? 3).map (fun e => e.st == 4 && e.attempts == 1 && meHkind e.entry == 0 && e.frame.isSome) == some true &&
    ((ret 0 4 1 (mEnt 1 0 9) 0 [0, 3, 0, 1]).pend? 3).map (fun e => meHkind e.entry == 1) == some true && ((withEnt away 0).endpoint 1 0).isSome &&
    ((ret 0 4 1 0 0 [0, 3, 0x21, 1]).argN 2 == 0x21) && ((ret (2 ^ 30) 4 1 0 0 [0, 3, 0x21, 1]).argN 3 == 1) && (ret 0 4 1 0 0 [0, 3, 0x21, 2]).argN 3 != 1 &&
    late (ret 0x500 4 1 (mEnt 0 0 9) 18000 [3]) 18000 8 1 && late (ret (2 ^ 24) 4 1 (mEnt 1 0 9) 3600000 [3]) 3600000 24 1000 && !late (ret 0x500 4 1 0 0 [3]) 0 8 1 &&
    (away.setPreg 0 0x080 16).wsmode 0 4 && late (away.setPreg 0 0x081 0x10000) 3600 16 1 && away.victim (away.topOf 0) 0 == none &&
    (let s := ev (withEnt (withPend (away.setPreg 0 0x080 8) (pendE 2)) (mEnt 0 0 9)) [0, 0x105000]
     let r := s.mfRead 0 0x105000
     r.1 == mEnt 0 0 9 && r.1.testBit 63 && (r.2.way.pends.find? (fun e => e.st == 2 && r.2.topOf (r.2.pendPart e) == s.topOf 0 && r.2.wsmode (r.2.pendPart e) 3 &&
        meWorld r.1 == e.world && meSize r.1 == e.size && meVpn r.1 == e.vpn)) == some (pendE 2)) &&
    (let x := meAdd (mEnt 0 0 9) away.me
     let s := waySt away (fun w => { w with copies := [⟨1, 5, 0, 0x106000, true, false, 0, 0, false, 0⟩] })
     x / 2 ^ 56 % 4 == 0 && meState x == 0 && meLists x s.me && (s.copy? 1 0 5).isSome) && meHkind (mEnt 3 0 0) == 3 && meState (mEnt 0 2 0) == 2 && decide (0x106000 % 4096 = 0) := by
  decide +kernel

/-- R109, R112, R121: a page without an entry is declined with cause 3; an installed leaf is valid, keeps HOME and USER, and names its frame. -/
theorem test_resolution :
    newLeaf 0x1A 0x106000 true == 0x10601B &&
    after .lookupAnswer (ev (withPend parkedSt (pendE 2)) [9, 3, 1]) (fun s => s.way.pends == [] && s.cur.reg 0x023 == BitVec.ofNat 64 cPAGE) &&
    after .contextTake (withPend { away with xl := { away.xl with kernel := [(0, 1)] } } (pendE 0)) (fun s => s.way.pends == []) := by decide +kernel

def copyE : Copy := ⟨1, 5, 0, 0x106000, true, false, 3, 0, false, mEnt 0 0 9⟩
def evictE (st : Nat) (dirty : Bool) : Evict := ⟨copyE, 0, dirty, st, none, none, false, [0x10601B], 0⟩
/-- The page is resident in frame 0x106. -/
def resident (f : WayS → WayS) : State := waySt ((mapped 0x10601B).setGran 0x106 0x00010000) (fun w => f { w with copies := [copyE] })

theorem witness_Evictions :
    let want : Pend := { pendE 3 with vpn := 9 }
    let s := ev (resident (fun w => { w with pends := [want] })) [0, 3]
    let go := fun st d l => ev (resident (fun w => { w with copies := [], evicts := [evictE st d], mcache := l })) [1, (evictE 1 true).key]
    let busy := { go 1 false [] with mem := { (go 1 false []).mem with reqs := [{ rq .load .l2 with world := 1, ident := false, unit := 5, va := 0x5000 }] } }
    let held := ev ((resident id).setPreg 0 0x080 0x80000000) [0]
    let scrub := fun (s : State) => { s with xl := { s.xl with scrubs := [⟨0, 0, 0x106000, none⟩] } }
    let off := (resident id).setGran 0x106 0x40010000
    let ring := fun (h : Nat) =>
      let s := (withEnt away (h + 6 * 2 ^ 192)).setPreg 0 0x0EB 0x105000
      { s with xl := { s.xl with ringWait := [(0, 0x106000, 1)] } }
    s.victim (s.topOf 0) 0 == some copyE && s.pend? (s.argN 1) == some want && want.frame == none && !s.wsmode 0 4 && !s.way.evicts.any (fun x => x.for_ == some 3) &&
    (s.evictStart ⟨copyE, 0, false, 0, some 3, none, false, [], 0⟩).isSome && (away.victim 0 0 == none) && !want.stuck &&
    (go 1 false []).way.evicts.find? (fun x => x.key == (go 1 false []).argN 1) == some (evictE 1 false) && busy.shootWaits 0 1 (5 * 4096) != [] &&
    (go 1 false []).shootWaits 0 1 (5 * 4096) == [] && (go 1 true [mEnt 0 0 9]).way.mcache.find? (fun y => meWorld y == 1 && meSize y == 0 && meVpn y == 5) == some (mEnt 0 0 9) &&
    held.wsmode (held.argN 0) 31 && !s.wsmode (s.argN 0) 31 && held.way.copies.filter (fun c => held.partOf c.world == some (held.argN 0)) == [copyE] && !held.pinned copyE &&
    (held.evictStart ⟨copyE, 0, false, 0, none, none, false, [], 0⟩).isSome && ([] : List Copy).length == 0 && held.way.pends == [] && away.way.copies == [] &&
    ((scrub off).xl.scrubs.length == 1) && (off.frameGrans 0 0x106000 0).any (fun x => match x.2 with
      | some (_, g) => granOffline g
      | none => false) &&
    (((resident id).scrubFrame 0 0x106000 0).frameGrans 0 0x106000 0).all (fun x => match x.2 with
      | some (_, g) => !granOffline g
      | none => true) &&
    (match (ring 64).hubRead (some 0) 0x105000 8, (ring 64).hubRead (some 0) 0x105008 8, (ring 64).hubRead (some 0) 0x105018 8, (ring 3).hubRead (some 0) 0x105000 8 with
      | some (h, _), some (t, _), some (c, _), some (h', _) => (h + 2 ^ 64 - t) % 2 ^ 64 == 2 ^ max 6 (min 20 c) && h' == 3
      | _, _, _, _ => false) && ((ring 3).preg 0 0x0EB).toNat == 0x105000 := by decide +kernel

/-- R116, R117: the first step clears V and keeps HOME and W; a clean page goes at once, its frame to the scrub engine. -/
theorem test_eviction :
    goneLeaf true 0x10631B == 0x10631A &&
    (match (resident id).evictStart ⟨copyE, 0, false, 0, some 3, none, false, [], 0⟩ with
      | some s => (s.leavesOf 1 0x5000 0).1.map Prod.snd == [0x10601A] && s.way.copies == [] && (s.way.evicts.map (fun x => (x.st, x.dirty))) == [(1, false)]
      | none => false) &&
    after .eviction (ev (resident (fun w => { w with copies := [], evicts := [evictE 1 false] })) [1, (evictE 1 true).key])
      (fun s => s.way.evicts == [] && s.xl.scrubs.map (fun j => j.gpa) == [0x106000]) := by decide +kernel
/-! ### The directory and the holders -/

/-- This package is the directory of that page: its manifest at 0x106000 holds the entry x. -/
def dirSt (x : Nat) (l : List Nat) : State :=
  let s := ({ away with xl := { away.xl with kernel := [(0, 1)] } }.setPreg 0 0x085 0x106006)
  let a := 0x106000 + mfHash 1 0 5 / 1024 % 64 * 512
  ev ((s.setGran (a / 4096) 0x00010000).putL2 false 1 (a / 128) ⟨BitVec.ofNat 1024 x, false, false, 0, 0⟩) l
def dirFinds (s : State) : Nat :=
  match (s.dirEntry (s.argN 2) (s.argN 3) (s.argN 4)).1 with
  | .nack c => c
  | .busy => 2000
  | .at_ p _ x => if p = 0 then 3000 + meState x else 1

def ownX : Nat := mEnt 0 1 9 + 2 ^ 107 + 7 * 2 ^ 108
def shrX : Nat := mEnt 0 0 9 + 2 ^ 100 + 8 * 2 ^ 128
def askSt (x : Nat) : State := dirSt x [4, 2, 1, 0, 5, 0]
def noDir : State := ev ((askSt 0).setPreg 0 0x085 0) [4, 2, 1, 0, 5, 0]

theorem witness_DirectoryRequestsAndJobs : dirFinds (askSt ownX) == 3001 && dirFinds (askSt (mEnt 0 0 9 + 2 ^ 62)) == 2000 := by decide +kernel
theorem witness_DirectoryRequestsAndJobs_found : dirFinds (askSt shrX) == 3000 && dirFinds (askSt (mEnt 3 0 9)) == 0x24 := by decide +kernel
theorem witness_DirectoryRequestsAndJobs_refused :
    dirFinds noDir == 1 && dirFinds (ev noDir [4, 2, 9, 0, 5, 0]) == 0x23 && noDir.topPart 1 == some 0 && noDir.topPart 9 == none &&
    meOwnv ownX && meOwner ownX == 7 && ownX / 2 ^ 512 == 0 && !meBusy ownX && meSharers shrX == [8] && !noDir.isMember 8 := by decide +kernel

/-- Requests of a directory that go on: shared, asked back, and waiting for holders. -/
def jobE (own : Bool) (left failed : List Nat) (wb asked : Bool) : DirJob := ⟨0, 0x106000, 4, 2, 0, false, left, failed, wb, own, asked, 0⟩
def jobSt (j : DirJob) (l : List Nat) : State :=
  ev { waySt away (fun w => { w with jobs := [j] }) with fab := { away.fab with peers := [(4, 1), (8, 1)] }, xl := { away.xl with kernel := [(0, 1)] } } l

theorem witness_DirectoryRequestsAndJobs_answers :
    let j := jobE true [8] [] false false
    let k := jobE false [] [] true true
    let waits := fun n => ev { (jobSt j [j.key]).setPreg 0 0x081 0x010100 with time := n } [j.key]
    (jobSt j [8, j.key, 0]).dirJob? ((jobSt j [8, j.key, 0]).argN 1) == some j && 8 ∈ j.left && (jobSt k [8, k.key, 1]).dirJob? k.key == some k && 8 ∉ k.left && k.writeback && k.asked &&
    away.dirJob? 0 == none && (jobSt j []).isMember 8 && !(jobSt { j with left := [9] } []).isMember 9 && (waits 0).wsFr 0 == 3600 && (waits 0).wsEv 0 == 3600 &&
    (waits 7200).time == 7200 && ((jobSt j []).mfRead 0 0x106000).1 == 0 && (jobE true [] [8] false false).failed != [] := by decide +kernel

-- R109: a lookup of a shared page answers with the entry, which lists the requester from then on; R118: an acknowledgement ends the wait.
theorem test_directory :
    let s := dirSt (mEnt 2 0 9) [4, 2, 1, 0, 5, 0]
    let x := match (s.dirEntry 1 0 5).1 with
      | .at_ _ a _ => a
      | _ => 0
    after .directoryLookup s (fun s' => let y := (s'.mfRead 0 x).1; meLists y 4 && meHkind y == 0 && meState y == 0 && !meBusy y) &&
    after .invalidationAck (jobSt (jobE true [4, 8] [] false false) [8, (jobE true [] [] false false).key, 1]) (fun s =>
      s.way.jobs.map (fun j => (j.left, j.failed)) == [([4], [8])]) := by decide +kernel

theorem witness_RemotePageMessages :
    let none_ := ev away [9, 4, 1, 0, 5, 0, 0, 7]
    let holder := ev (resident id) [9, 4, 1, 0, 5, 1, mEnt 0 0 9]
    let going := ev (resident (fun w => { w with evicts := [evictE 1 true] })) [9, 4, 1, 0, 5, 1, mEnt 0 0 9]
    let asked := ev { (resident (fun w => { w with evicts := [{ evictE 0 true with reply := some (9, 4) }] })).setPreg 0 0x081 0x10000 with time := 3600 } [(evictE 0 true).key]
    let req := fun (l : List Nat) (time : Nat) => ev { (withPend away (pendE 5)).setPreg 0 0x081 0x010100 with time := time } l
    let home := fun (f s : State) => decide (f.ownsFrame 0 1 0x106000 0 ∧ s.ownsFrame 0 1 0x100000 0 = false)
    let page := (away.setGran 0x106 0x00010000)
    none_.copy? 1 0 5 == none && none_.way.evicts == [] && holder.copy? 1 0 5 == some copyE && going.way.evicts.any (fun x => x.copy.world == 1 && x.copy.size == 0 && x.copy.vpn == 5) &&
    asked.way.evicts.find? (fun y => y.key == asked.argN 0) == some { evictE 0 true with reply := some (9, 4) } && decide (asked.wsEv 0 ≤ asked.time) && decide (0 < asked.wsEv 0) &&
    ((req [9, 3, 0, 1, 5] 0).pend? 3) == some (pendE 5) && decide ((pendE 5).attempts ≤ (req [] 0).wsRt 0) && ((req [3] 7200).wsFr 0 + (req [3] 7200).wsEv 0 == 7200) &&
    ((req [3] 0).pend? 3) == some (pendE 5) && (req [] 0).wsRt 0 == 0 && none_.topPart 1 == some 0 && none_.topPart 9 == none &&
    home page ((page.setGran 0x100 0x00020000)) && !(page.entryMoved 4 1 0 5 0).1 && !(page.entryMoved 4 1 0 5 7).1 && ((page.setGran 0x106 0x80010000).frameGrans 0 0x106000 0).any (fun g => match g.2 with
      | some (_, b) => granSealed b
      | none => false) &&
    (page.frameGrans 0 0x106000 0).all (fun g => match g.2 with
      | some (_, b) => !granSealed b
      | none => true) := by decide +kernel

/-- R125: at the directory itself, an entry that has changed since the request is refused. -/
theorem witness_RemotePageMessages_moved :
    let s := ((dirSt (mEnt 0 0 0 + 3 * 2 ^ 64) []).setPreg 0 0x086 0x105000 |>.setGran 0x105 0x00010000).putL2 false 1 (0x20A0 + 2 * (mfHash 1 0 5 % 1024) / 128)
      ⟨BitVec.ofNat 1024 ((2 ^ 1024 - 1) / 65535 * 0x8000), false, false, 0, 0⟩
    let wrote := waySt away (fun w => { w with homeVer := [(pageKey 1 0 5, 4)] })
    (s.entryMoved 4 1 0 5 2).1 && !(s.entryMoved 4 1 0 5 3).1 && (wrote.entryMoved 4 1 0 5 3).1 := by decide +kernel

/-- R118: a holder without the page has nothing to give back; one whose copy stays pinned says so. R125: a page whose frame the world does not own is refused. -/
theorem test_page_messages :
    let sent (s : State) : List (Nat × List Nat) := s.agenda.filterMap (fun a => match a.act with
      | .event _ g => some (0, g.n)
      | .issue _ _ => none)
    after .invalidation (ev away [away.me, 4, 1, 0, 5]) (fun s => s.agenda.length == away.agenda.length + 1) &&
    after .pageRead (ev (away.setGran 0x106 0x00020000) [away.me, 4, 1, 0, 5, 0x106000, 0, 0]) (fun s => (sent s).any (fun x => x.2.any (fun n => n == 0x27))) := by
  decide +kernel
/-! ### The fabric -/

/-- Lane 5 toward package 9 in a state, alone or in a lease; package 9 is a member. -/
def fabSt (lanes : Table Lane) (pairs : Table Pair) : State :=
  { st0 with fab := { st0.fab with peers := [(9, 1)], lanes := lanes, pairs := pairs, started := true } }
def live5 : Table Lane := [(5, ⟨9, 0, none, 0, 0, 0, 0, none, false⟩)]
def fl (k : Nat) : Flit := ⟨k, [1], []⟩
/-- A pair that expects flit 3, with an allowance and some owed. -/
def pairP (allow owed : Nat) (sent : List (Nat × Wire)) (early : List (Nat × List Flit)) : Table Pair := [(9, ⟨7, 3, allow, [], 0, [], [], owed, sent, early, 8, 8⟩)]

theorem witness_FlitsAndDrains :
    let go := fabSt live5 []
    let big : Flit := ⟨1, [], List.replicate 300 0⟩
    let early := fabSt live5 (pairP 8 0 [(6, ⟨1, [(fl 1, 0, 1)]⟩)] [(4, [fl 2])])
    let from9 := fun (s : State) (seq ty bad : Nat) => ev s [9, 5, seq, ty, 0, 0, bad, 1, 1, 0, 2]
    let idle := fun (p : Pair) => p.queued == [] && p.cut == 0 && p.asks == [] && p.again == [] && decide (p.owed ≤ 2047)
    go.liveTo 9 && idle (go.pair 9) && (go.pair 9).allow == 8 && (fl 1).ty == 1 && (fl 1).units == 1 && (fl 4).ty == 3 && big.ty == 1 && big.units == 20 &&
    !(fabSt [] []).liveTo 9 && ((fabSt live5 (pairP 0 0 [] [])).pair 9).allow == 0 && ((fabSt live5 (pairP 0 3 [] [])).pair 9).owed == 3 &&
    (from9 go 0 1 1).argN 6 == 1 && (from9 go 0 6 0).argN 3 == 6 && (from9 go 0 2 0).argN 3 == 2 && (from9 go 0 1 0).argN 2 == (go.pair 9).nextRecv && (go.pair 9).early == [] &&
    flitEnds 1 ((from9 go 0 1 0).arg.n.drop 7) [] == [⟨1, [2], []⟩] &&
    (from9 early 3 4 0).argN 2 == (early.pair 9).nextRecv && (early.pair 9).early == [(4, [fl 2])] && seqBefore 2 (early.pair 9).nextRecv && seqBefore 0xFFFFFF 0 &&
    !seqBefore 5 (early.pair 9).nextRecv && (early.pair 9).early.all (fun e => e.1 != 5) && idle (early.pair 9) && decide (0 < (early.pair 9).allow) &&
    ((ev early [9, 6]).pair 9).sent.find? (fun e => e.1 == (ev early [9, 6]).argN 1) == some (6, ⟨1, [(fl 1, 0, 1)]⟩) := by
  decide +kernel

theorem witness_FlitsAndDrains_drains :
    let go := fabSt live5 []
    let waits : State := ev { go with fab := { go.fab with rems := [(4, ⟨9, .path 4, 4, 0, 0, [], 0, 0, []⟩)] } } [9, 4]
    let user := fun (p : Word) => State.str go (fun t => uni t 4 p)
    let puts := State.at_ { user 9 with eng := { go.eng with queue := [(3, ⟨2, 0, 0, 0, 0, 0, 2, false, 0x56, 1, 0, [0, 0, 1, 9], [], 0, 0, [], [], none, false, 0, [], [], 0, [], []⟩)] } } (fun p => { p with binds := [(1, 3)] })
    tfind waits.fab.rems (waits.argN 1) == some ⟨9, .path 4, 4, 0, 0, [], 0, 0, []⟩ && waits.argN 0 == 9 &&
    allReady (user 9) [.drain 4 0, .drainAll 4 1] && (user 9).isMember 9 && decide ((user 9).peerBits 9 < 4) && !(user 8).isMember 8 && (user 0).me == 0 && (user 0).settled (user 0).curp && (user 9).me != 9 &&
    (user 9).putsLeft (user 9).cur (user 9).curp 9 == [] && ready (.drain 4 0) puts && puts.putsLeft puts.cur puts.curp 9 == [3] := by
  decide +kernel

/-- R176: a header's fields stand where its table puts them; the check value of the CRC is the standard's. -/
theorem test_flit_header :
    flitHdr 1 3 9 5 6 7 2 [] / 2 ^ 32 == 0x1 * 2 ^ 92 + 3 * 2 ^ 82 + 9 * 2 ^ 72 + 5 * 2 ^ 48 + 6 * 2 ^ 24 + 7 * 2 ^ 13 + 2 * 2 ^ 8 &&
    crc32 [0x31, 0x32, 0x33, 0x34, 0x35, 0x36, 0x37, 0x38, 0x39] == 0xCBF43926 && (Flit.mk 3 [] (List.replicate 128 0)).units == 9 := by decide +kernel

/-- R177 to R179, R181: a flit spends the allowance and takes the next SEQ; a message of 20 units takes two; the flit that fills a gap delivers the one
behind it too; an uncorrectable one is asked for again. -/
theorem test_flits :
    let go := (fabSt live5 []).sendFlit 9 (fl 3)
    let two := (fabSt live5 []).sendFlit 9 ⟨1, [], List.replicate 300 0⟩
    go.outbox.map (fun m => (m.kind, m.n.headD 0, m.n.drop 2, m.bytes.length)) == [(10, 9, [3, 1, 0, 1], 256)] && (go.pair 9).nextSend == 1 && (go.pair 9).allow == 7 &&
    two.outbox.map (fun m => m.n.drop 2) == [[], [1, 0, 300]] && (two.pair 9).allow == 6 &&
    after .flitReceive (ev (fabSt live5 (pairP 8 0 [] [(4, [fl 1])])) [9, 5, 3, 4, 0, 0, 0, 5, 1, 0, 1]) (fun s =>
      s.agenda.length == st0.agenda.length + 2 && (s.pair 9).nextRecv == 5) &&
    after .flitReceive (ev (fabSt live5 []) [9, 5, 4, 1, 0, 0, 1]) (fun s => (s.lane 5).uncor == 1 &&
      s.outbox.map (fun m => (m.n.getD 1 0 / 2 ^ 124, m.n.getD 1 0 / 2 ^ 56 % 2 ^ 24)) == [(2, 4)]) := by decide +kernel

def leaseE (st : Nat) : Lease := ⟨st, 9, 0, 2, [], 50, []⟩
/-- Lease 3 toward package 9 in a state; lane 6 is pooled. -/
def leaseSt (st : Nat) (lane5 : Lane) : State :=
  let s := fabSt [(5, lane5), (6, ⟨1024, 1, none, 0, 0, 0, 0, none, false⟩)] []
  { s with fab := { s.fab with leases := [(3, leaseE st)], waiting := [3] } }
def lane0 : Lane := ⟨0, 0, none, 0, 0, 0, 0, none, false⟩
/-- This package is package 9, its every lane leads toward package 0, which says that it has no room. -/
def allTo0 : State :=
  { st0.setPkg 0x0A0 9 with fab := { st0.fab with peers := [(0, 1)], lanes := (List.range 1024).map (fun k => (k, lane0)), full := [(0, true)] } }
theorem tfind_same (x : Lane) (l : List Nat) (k : Nat) (h : k ∈ l) : tfind (l.map (fun k => (k, x))) k = some x := by
  induction l with
  | nil => simp at h
  | cons j l ih =>
    by_cases hj : j = k
    · simp [tfind, hj]
    · simp only [List.map_cons, tfind, hj, if_false]
      exact ih (by simpa [Ne.symm hj] using h)
theorem allTo0_lane (k : Nat) (h : k < 1024) : allTo0.lane k = lane0 := by
  have := tfind_same lane0 _ k (List.mem_range.mpr h)
  simp only [State.lane, allTo0, State.setPkg, tget]
  rw [this]; rfl

theorem witness_Leases :
    let asks := fun (s : State) (p n : Word) => State.str s (fun t => uni (uni t 4 p) 6 n)
    let full : State := { st0 with fab := { st0.fab with leases := (List.range 256).map (fun k => (k, leaseE 3)) } }
    let pool := leaseSt 1 ⟨9, 0, none, 0, 0, 0, 0, none, false⟩
    let held := leaseSt 3 ⟨9, 0, some 3, 0, 0, 0, 0, none, false⟩
    let grants := ev { pool with xl := { st0.xl with part := [(1, 0)] }, fab := { pool.fab with leases := [(3, { leaseE 1 with world := 1 })] } } [0, 3 * 1024 + 6]
    allReady (asks pool 9 4) [.lease 8 4 6 0, .lrel 8 4 1, .lqry 8 4] && (List.range 256).all (fun j => (full.leaseAt j).st != 0) && ready (.lease 8 4 6 0) (asks full 9 4) &&
    pool.freeLease == some 0 && pool.me == 0 && pool.peerBits 8 == 0 && pool.peerBits 9 == 1 && !pool.noneHere 9 &&
    !pool.hostLanes 0 && (pool.leaseAt 4).st == 0 && (held.leaseAt 3).st == 3 && (held.leaseAt 3).world == held.cur.world &&
    (held.lane 5).lease == some 3 && (held.lane 6).lease == none && pool.nextLease == some 3 && pool.grantable 6 9 && pool.reaches 9 && !pool.grantable 5 9 &&
    grants.topPart 1 == some (grants.topOf (grants.argN 0)) && grants.leaseOpen 3 && (grants.argN 1 == 3 * 1024 + 6) && grants.argN 2 == 0 := by decide +kernel

theorem witness_Leases_noPlane : allTo0.noneHere 0 = true ∧ (allTo0.noneThere 0 && allTo0.me == 9 && allTo0.reaches 0) = true := by
  refine ⟨?_, by decide +kernel⟩
  simp only [State.noneHere, List.all_eq_true, List.mem_range]
  intro k hk
  rw [allTo0_lane k hk]
  rfl
theorem witness_Leases_noPlaneReady : (ready (.lease 8 4 6 0) (State.str allTo0 (fun t => uni (uni t 4 0) 6 4)) && allTo0.freeLease == some 0) = true := by decide +kernel

theorem witness_Leases_lanes :
    let pool := leaseSt 1 ⟨9, 0, none, 0, 0, 0, 0, none, false⟩
    let held := leaseSt 3 ⟨9, 0, some 3, 0, 0, 0, 0, none, false⟩
    let tuning := fun (st : Nat) => ev (leaseSt st ⟨9, 2, some 3, 0, 0, 0, 0, none, false⟩) [5]
    let dark := ev (leaseSt 2 ⟨9, 2, none, 0, 0, 0, 0, none, false⟩) [5]
    let late := fun (l : List Nat) => ev { held with time := 60, fab := { held.fab with leases := [(3, { leaseE 3 with lanes := l })] } } [3]
    !held.grantable 5 9 && (held.leaseAt 3).ends == 50 && held.isMember 9 && held.defaultPeer 5 == some 9 && decide (0 < held.lanesTo 9) &&
    ((tuning 2).lane 5).st == 2 && (tuning 2).isMember 9 && ((tuning 2).leaseAt 3).st == 2 && ((tuning 4).leaseAt 3).st == 4 && ((tuning 4).lane 5).lease == some 3 && (dark.lane 5).lease == none &&
    decide (held.time < 50) && pool.grantable 6 1024 && ((late [5]).leaseAt 3).lanes == [5] && ((late [5]).leaseAt 3).st == 3 && ((late []).leaseAt 3).lanes == [] &&
    (pool.endOf 6 9 == some (0, 0)) && pool.choosePlane 9 4 (reports [6, 0, 0]) == some 6 && pool.choosePlane 9 4 (reports []) == none && (ev pool [9, 6, 0, 0]).argN 0 == (pool.leaseAt 3).peer &&
    pool.defaultPeer 6 == some 9 && pool.freeEnd 6 && (pool.lane 6).peer != 9 && (pool.lane 6).st == 1 && (pool.lane 5).peer == 9 && st0.nextLease == none := by decide +kernel

/-- R170, R171, R173, R175: the first lane that relocks makes a lease HELD; a grant takes a plane that is pooled at both ends before one that is not; LREL gives
a lane back to its plane's default pairing. -/
theorem test_leases :
    after .laneRelock (ev (leaseSt 2 ⟨9, 2, some 3, 0, 0, 0, 0, none, false⟩) [5]) (fun s => (s.leaseAt 3).st == 3 && (s.leaseAt 3).lanes == [5] && (s.lane 5).st == 0) &&
    after .laneGrant (ev (leaseSt 1 ⟨9, 0, none, 0, 0, 0, 0, none, false⟩) [9, 6, 0, 0]) (fun s => (s.leaseAt 3).st == 2 && (s.lane 6).st == 2 && (s.lane 6).peer == 9 && (s.lane 6).lease == some 3) &&
    (fabSt [(5, ⟨1024, 1, none, 0, 0, 0, 0, none, false⟩), (6, ⟨1024, 1, none, 0, 0, 0, 0, none, false⟩)] []).choosePlane 9 4 (reports [5, 1, 0, 6, 0, 0]) == some 6 &&
    after (.lrel 8 4 0) (State.str (leaseSt 3 ⟨9, 0, some 3, 0, 0, 0, 0, none, false⟩) (fun t => uni t 4 3)) (fun s =>
      s.cur.sget 8 == 0 && (s.lane 5).lease == none && (s.lane 5).st == 0 && (s.lane 5).peer == 9 && (s.leaseAt 3).st == 0) := by decide +kernel

theorem witness_LanesAndPeers :
    let bad := ev (fabSt live5 []) [5, 2000000]
    let retr := fun (tries : Nat) (l : Table Lane) => ev ((fabSt ((5, ⟨9, 3, none, 0, 0, 0, tries, none, false⟩) :: l) []).setPkg 0x0A4 3) [5, 6, 0, 0]
    let table := ev { (fabSt live5 []) with fab := { (fabSt live5 []).fab with started := false } } [9]
    decide (2 ^ ((bad.pkg 0x0A4).extractLsb' 2 4).toNat < bad.argN 1) && (bad.lane 5).st == 0 && ((ev bad [5, 0]).argN 1 == 0) && ((retr 0 []).lane 5).st == 3 &&
    ((retr 0 []).pkg 0x0A4).extractLsb' 0 2 == 3 && decide (1 < (retr 2 [(6, ⟨9, 0, none, 0, 0, 0, 0, none, false⟩)]).lanesTo 9) && ((retr 2 []).lane 5).tries == 2 && ((retr 2 []).lane 5).lease == none &&
    (retr 2 []).lanesTo 9 == 1 && (retr 2 []).reaches 9 && (retr 2 []).choosePlane 9 3 (reports [6, 0, 0]) == none &&
    (retr 2 [(6, ⟨1024, 1, none, 0, 0, 0, 0, none, false⟩)]).choosePlane 9 3 (reports [6, 0, 0]) == some 6 && table.members == [0, 9] && !table.fab.started &&
    (table.hubRead none ((table.pkg 0x0A1).toNat + 8 * 9) 8).isSome && table.me != 9 && defaultPair 0 2 0 == some 1 && defaultPair 1023 2 1 == some 0 && defaultPair 1023 4 0 == none &&
    defaultPair 1 3 1 == none && defaultPair 1 3 0 == some 2 && defaultPair 2 4 3 == some 2 := by decide +kernel

/-- R167: three members in plane 1: the first and the last are joined; R190: a lane above its error rate retrains; R192: a pair that lost its last lane is given a pooled
plane. -/
theorem test_lanes : (List.range 4).map (defaultPair 2 4) == [some 1, some 0, some 3, some 2] &&
    after .symbolWindow (ev (fabSt live5 []) [5, 2000000]) (fun s => (s.lane 5).st == 3 && (s.lane 5).retr == 1) &&
    after .retrainComplete (ev (fabSt [(5, ⟨9, 3, none, 1, 0, 7, 1, none, false⟩)] []) [5]) (fun s => (s.lane 5).st == 0 && (s.lane 5).corr == 0) &&
    after .retrainFailure (ev ((fabSt [(5, ⟨9, 3, none, 0, 0, 0, 2, none, false⟩), (6, ⟨1024, 1, none, 0, 0, 0, 0, none, false⟩)] []).setPkg 0x0A4 3) [5, 6, 0, 0]) (fun s =>
      (s.lane 5).st == 4 && (s.lane 6).peer == 9 && (s.lane 6).st == 2 && s.peerBits 9 == 1) := by decide +kernel
/-! ### Remote accesses -/

/-- Package 9 asks for an access of world 1 at offset 0x5000 of its window, with a leaf there. -/
def inb (leaf : Dword) (kind : Nat) (more : List Nat) : State :=
  let s := (mapped leaf).setWreg 1 0x040 0
  ev { s with fab := { s.fab with peers := [(9, 1)], lanes := live5 } } ([9, 4, kind, 1, 3, 0] ++ more)
def piece : List Nat := [0, 0x5004, 4, 7, 0]

/-- How far it comes: 1 a trap, 2 a park, 3 refused by the gate, 6 at its line in the L2. -/
def inbGoes (s : State) (kind : Nat) : Nat :=
  match s.xlate 0 1 0x5004 (if kind = 0 then 0 else if kind = 1 then 1 else 2) 0 with
  | (.trap _, _) => 1
  | (.park _ _, _) => 2
  | (.ok y, s) => match s.gate (inboundParts s 1 (inboundOp kind 4 0) y 4 3) with
    | .error _ => 3
    | .ok s => match s.ensureL2 y.ident y.tag (y.gpa / 128) with
      | none => 4
      | some s3 => match s3.l2? y.ident y.tag (y.gpa / 128) with
        | none => 5
        | some l => if y.atom = false ∧ l.poison = 0 ∧ y.region = .hbm ∧ 0x5004 % 128 = y.gpa % 128 then 6 else 7

theorem witness_InboundAccesses :
    let nowhere := ev (inb 0 0 piece) ([9, 4, 0, 7, 3, 0] ++ piece)
    let one : List LaneReq := [⟨0, 0x5004, 4, 7, 0⟩]
    let clear := fun (s : State) (acc : Nat) => (s.nowhereAt 1 acc [0x5004]).isNone
    let away0 := (inb 0 0 piece).setGran 0x106 0x00020000
    piecesIn ((inb 0 0 piece).arg.n.drop 6) == one && supported 0 0 one && supported 1 0 one && supported 2 10 one && supported 2 9 one && !supported 3 0 one && !supported 0 0 [] &&
    !supported 0 0 [⟨0, 0x507C, 8, 0, 0⟩] && clear (inb 0x106001 0 piece) 0 && clear (inb 0x1A 1 piece) 1 && clear (inb 0x10600B 1 piece) 1 && (nowhere.nowhereAt 7 0 [0x5004]).isNone && away0.argN 0 == 9 && nowhere.argN 3 == 7 && nowhere.partOf 7 == none &&
    (inb 0 0 piece).partOf 1 == some 0 && (inb 0 0 piece).window 1 == some (30, 0) && ((inb 0 0 piece).setWreg 1 0x040 31).window 1 == none && inbGoes (inb 0x106001 0 piece) 0 == 1 &&
    inbGoes (inb 0x1A 1 piece) 1 == 2 && inbGoes (inb 0x10600B 1 piece) 1 == 6 && inbGoes (inb 0x10600B 0 piece) 0 == 6 && inbGoes (inb 0x10600B 2 piece) 2 == 6 &&
    inbGoes ((inb 0x10600B 1 piece).setGran 0x106 0x00020000) 1 == 3 := by decide +kernel

/-- R125, R186: a write from a peer is in the world's page, with its waybill; an unbound world is UNBOUND, a page away is NOTRES. -/
theorem test_inbound :
    let sent (s : State) : List (List Nat) := s.outbox.map (fun m => m.n.headD 0 :: m.n.drop 2)
    after .inboundAccess (inb 0x10600B 1 piece) (fun s => sent s == [[9, 2, 4, 0, 4, 0, 0, 0]] &&
      (match s.l2? false 1 (0x106000 / 128) with
        | some l => lineGet l.data 4 4 == 7 && l.wb == 3
        | none => false)) &&
    after .inboundAccess (inb 0x1A 1 piece) (fun s => sent s == [[9, 2, 4, 0, 4, 0x20, 0, 0]]) &&
    after .inboundAccess (ev (inb 0 0 []) ([9, 4, 0, 7, 3, 0] ++ piece)) (fun s => sent s == [[9, 3, 4, 0, 4, 0x23, 0, 0]]) := by decide +kernel

/-- A string of world 1 whose first two lanes name offset 8 at package 9 and offset 16 at package q. -/
def remSt (q : Word) (wb : Waybill) : State :=
  let s := State.at_ (State.str (guest 0 15) (fun t => { vec (vec t 2 (fun l => if l = 0 then 8 else 16)) 3 (fun l => if l = 0 then 9 else q) with vwb := [(2, wb)] }))
    (fun p => { p with cmask := 3 })
  { s.setWreg 1 0x040 0 with fab := { s.fab with peers := [(8, 1), (9, 1)], lanes := live5 } }
def remL (s : State) (size : Nat) : List RemLane := remLanes s.cur s.curp 2 4 size (fun _ => 1) (fun _ => 0)
def remWb (s : State) : Waybill := s.cur.vws 2 2 ||| s.cur.sws 4 2 ||| predWb s.cur s.curp ||| s.curp.flow
def remPays (s : State) : Bool := match s.gate (remParts s 1 (remWb s) (remL s 4)) with
  | .ok _ => true
  | .error _ => false

theorem witness_RemoteAccesses :
    let go := remSt 8 0
    let away1 := State.str go (fun t => { t with s := tset 0 t.s 5 1 })
    let again := fun (m : Lanes) => State.at_ go (fun p => { p with parkOp := some 5, umask := m })
    let nack := { again 3 with fab := { go.fab with fails := [(5, [[0, 8, 9, 0x20, 0], [1, 16, 9, 4, 2]])] } }
    let waits := { again 3 with fab := { go.fab with rems := [(6, ⟨9, .path 5, 0, 1, 8, [⟨0, 8, 4, 0, 0⟩], 0, 0, []⟩)] } }
    allReady go [.rld 8 2 4 2 0, .ratadd 8 2 4 2 0, .ratcas 8 2 4 3 0, .ratfadd 8 2 4 2 0, .rst 8 2 4 3 0] &&
    allReady (again 0) [.rld 8 2 4 2 0, .ratcas 8 2 4 2 0] && go.curp.parkOp == none && (remL go 4).all (fun x => x.r.addr % 4 == 0 && go.inWindow 1 x.r.addr && go.reaches x.peer) && remPays go && (go.nowhereAt 1 0 ((remL go 4).filter (fun x => x.peer == go.me) |>.map (fun x => x.r.addr))).isNone &&
    ((remL go 16).find? (fun x => x.r.addr % x.r.size != 0)).isSome && (remL away1 4).all (fun x => !away1.inWindow 1 x.r.addr) && !(remSt 7 0).reaches 7 && !remPays (remSt 8 2) &&
    go.settled go.curp && remPeers (remL go 4) == [8, 9] && go.me == 0 && remPeers (remL (remSt 0 0) 4) == [0, 9] && (remSt 0 0).reaches 0 &&
    waits.fab.rems.any (fun e => e.2.who == .path 5) && !(nack.fab.rems.any (fun e => e.2.who == .path 5)) && tget [] nack.fab.fails 5 == [[0, 8, 9, 0x20, 0], [1, 16, 9, 4, 2]] &&
    (again 0).curp.umask == 0 && tget [] (again 0).fab.fails 5 == [] && tget 0 go.sch.outstanding (outKey go.cur 0) == 0 && tget [] go.fab.fails go.nextOp == [] := by decide +kernel

def ansSt (r : Rem) (l : List Nat) : State :=
  let s := State.at_ (remSt 8 0) (fun p => { p with parkOp := some 5, hold := .remote 5, umask := 3 })
  ev { s with fab := { s.fab with rems := [(6, r)] }, mem := { s.mem with ops := [(5, ⟨0, false, .vec 8 1 4 false, true, 0, false, 1, none⟩)] } } l
def remR : Rem := ⟨9, .path 5, 0, 1, 8, [⟨0, 8, 4, 0, 0⟩], 0, 0, []⟩

theorem witness_RemoteAccesses_answers :
    let s := ansSt remR [9, 6, 0, 0, 1, 77]
    let post : Rem := { remR with who := .post 0 0 s.cur.key 0, kind := 1 }
    let late : State := { ansSt remR [6] with time := 3600 * 65535 }
    tfind s.fab.rems 6 == some remR && remR.peer == s.argN 0 && s.argN 1 == 6 && (tfind s.mem.ops 5).isSome && s.str? 0 == some s.cur && !s.cur.stopNow &&
    (s.strOf s.cur.key).isSome && !s.cur.outrider && tfind (ansSt post [9, 6, 0x20, 1]).fab.rems 6 == some post && late.argN 0 == 6 && decide (3600 * ((late.pkg 0x0A3).extractLsb' 16 16).toNat ≤ (late.time : Nat)) &&
    ((remR.kind == 4) || decide ((ansSt remR [6]).time < 3600 * (((ansSt remR [6]).pkg 0x0A3).extractLsb' 16 16).toNat)) &&
    ((ansSt { remR with kind := 5, who := .eng 3, peer := 1024 } [6]).endpoint 1 0).isSome && tfind s.fab.rems 9 == none := by decide +kernel

/-- R184: values go to their lanes and leave the mask; R185: the trap of a refused lane names it, its peer and its code. -/
theorem test_remote :
    after .remoteResponse (ansSt remR [9, 6, 0, 0, 1, 77]) (fun s => s.cur.vget 8 0 == 77 && s.curp.umask == 2 && s.curp.hold == .none && s.fab.rems == []) &&
    after (.rld 8 2 4 2 0) ({ State.at_ (remSt 8 0) (fun p => { p with parkOp := some 5, umask := 3 }) with
      fab := { (remSt 8 0).fab with fails := [(5, [[1, 16, 9, 4, 2]])] } }) (fun s => s.cur.reg 0x023 == BitVec.ofNat 64 cRFAULT) &&
    trapped (.rld 8 2 4 2 0) (remSt 7 0) cUNREACH && trapped (.rst 8 2 4 4 0) (remSt 8 0) cALIGN &&
    after (.rst 8 2 4 2 0) (remSt 8 0) (fun s => s.cur.unacked.length == 2 && s.fab.rems.length == 2) := by decide +kernel
/-! ### Engines -/

def tok (k : Token) : Tile := { Tile.blank with token := k }
/-- A pair of parties on cores 0 and 1, with two tiles each, whose tokens stand with the first string; a window and a peer 9. -/
def stEng (t01 : Token) : State :=
  { stTile.setWreg 0 0x040 0 with
    sch := { stTile.sch with parties := stTile.sch.parties ++ stTile.sch.parties.map (fun e => (e.1 + 1, { e.2 with core := 1 }))
                             launches := [(0, ⟨BitVec.ofNat 1024 (2 ^ 336), 0, 0, [], 0⟩)] }
    eng := { stTile.eng with tiles := [(0, tok (.str 0)), (1, tok t01), (8, tok (.str 0)), (9, tok (.str 0))] }
    fab := { stTile.fab with peers := [(9, 1)], lanes := live5 } }
/-- Operands: the descriptor of 64 lines of 64 bytes in s4:s5 and s6:s7, counts in the rest. -/
def opnds (s : State) : State := State.str s (fun t => uni (uni (pair (pair t 4 0x10004000000) 6 0x10004000000) 10 0x10009) 12 1)
def roomy (s : State) (unit : Nat) (ls : List (Nat × Lock)) : Bool :=
  !s.queueFull unit 0 && s.locksFit ls && decide (tget 0 s.sch.outstanding (outKey s.cur 0) < 65535)
def busyQ (s : State) (unit : Nat) : State := { s with eng := { s.eng with queue := (List.range 16).map (fun k => (k, (⟨unit, 0, k, 0, 0, 0, 2, false, 0x4A, 1, 0, [], [], 0, 0, [], [], none, false, 0, [], [], 0, [], []⟩ : Eng))) } }

theorem witness_MatrixAndCarrierWords :
    let s := opnds (stEng (.str 0))
    let odd := { s with curUnit := 64, strs := [(64, s.cur)] }
    let d : Dword := 0x10004000000
    allReady s [.mzeroE 0 0, .mzeroAll 0 1, .mstatRst 1 0, .smxn 0 0, .mma 0 0 0 4 6, .mld 0 0 0 8 9, .mst 0 0 1 8 9, .mstatSt 0 0 8, .mstatLd 0 0 8, .xcv 0 0 8 9, .xrnd 0 0 8 9,
      .msca 0 0 1 8 9, .smxm 0 0 1 0, .smxm 0 0 1 1, .smxu 0 0 1 8 6 0 1, .mmap 0 0 0 4 6, .xadd 0 8 9 12, .xput 0 8 14 10] && s.tileOf s.cur 0 0 false == some 0 && s.tileOf s.cur 0 1 false == some 1 &&
    s.tileOf s.cur 0 0 true == some 8 && s.tileOf s.cur 0 1 true == some 9 && ([0, 1, 8, 9] : List Nat).all (fun k => (s.tile k).token.has s.cur.key) && !((stEng (.str 5)).tile 1).token.has s.cur.key &&
    !((stEng .none).tile 1).token.has 0 && roomy s 0 [] && roomy s 2 (spLock s s.cur 0 66048 true) && !s.queueFull 0 1 && (busyQ s 0).queueFull 0 0 && (busyQ s 2).queueFull 2 0 &&
    s.cur.spair 4 == d && (dParty s s.cur d).isSome && (d.extractLsb' 40 8).toNat == 1 && decide ((d.extractLsb' 0 20).toNat + 127 * (d.extractLsb' 20 16).toNat + 64 ≤ 98304) &&
    (s.cur.sget 8).toNat == 0 && (spAt s s.cur 0 66048).isSome && (spAt s s.cur 0 8192).isSome && (spAt s s.cur 0 (63 * 0 + 512)).isSome && (s.cur.sget 12).toNat % 128 == 1 &&
    (s.cur.sget 10).toNat / 65536 % 128 == 1 && (s.cur.sget 10).toNat % 1024 == 9 && s.inWindow 0 1031 && s.reaches 9 && !s.attestedFor 0 9 && !(stTile.setWreg 0 0x040 31).inWindow 0 0 &&
    (match s.gate [⟨0, s.rangeWb 1 0 1032, destPackage 9, 1032⟩] with
      | .ok _ => true
      | .error _ => false) && coreOf odd.curUnit % 2 == 1 && ready (.mmap 0 0 0 4 6) odd := by decide +kernel

/-- R385, R389, R391: an accepted word holds its tile's token and is queued with its code; without the token it is TOKEN; a full queue holds the clause. -/
theorem test_engine_words :
    after (.mzeroE 0 0) (stEng (.str 0)) (fun s => (s.tile 0).token == .eng 0 && s.eng.queue.map (fun e => (e.2.code, e.2.unit, e.2.st)) == [(0x4A, 0, 1)]) &&
    trapped (.mzeroE 0 1) (stEng (.str 5)) cTOKEN && after (.mzeroE 0 0) (busyQ (stEng (.str 0)) 0) (fun s => s.curp.hold == .word && s.eng.queue.length == 16) &&
    after (.macq 0 1 0 8) (stEng .none) (fun s => s.cur.sget 8 == 1 && (s.tile 1).token == .str 0) && after (.macq 0 1 0 8) (stEng (.str 5)) (fun s => s.cur.sget 8 == 0) := by decide +kernel

/-- A copy of 64 bytes from scratchpad 0x200 to 0x300, at scratchpad 0. -/
def cdV : Nat := 0x200 + 0x300 * 2 ^ 128 + 64 * 2 ^ 256
def bytesAt (l : List (Nat × Byte)) : State := { stEng (.str 0) with mem := { (stEng (.str 0)).mem with sp := l } }
def copySt (fsp : Byte) : State := bytesAt [(1, 2), (9, 3), (16, 64), (20, fsp), (0x200, 0xAB)]

theorem witness_TokensPorterAndOutriders :
    let s := copySt 0x44
    let bad := copySt 0x5C
    let mine := stEng (.eng 0)
    let e : Eng := ⟨1, 0, 3, 0, 0, 0, 2, false, 0x58, 1, 0, [0], [], 0, 0, [], [], none, false, 0, [], [], 0, [], []⟩
    let q : State := { s with eng := { s.eng with queue := [(7, e)] } }
    let out := s.putStr 32 { Str.blankOut with outrider := true, bound := 0, index := 0, world := 0, party := 0, launch := 0 }
    let run := s.putStr 32 { Str.blankOut with outrider := true, runs := true, bound := 0, p0 := { Path.blank with pos := 3, state := .running } }
    let pushing : State := { run with curUnit := 32 }
    let deep := { pushing with strs := [(0, { s.cur with oq := [(1, List.replicate 64 (0, 0))] }), (32, (run.str? 32).getD Str.blankOut)] }
    allReady s [.macq 0 1 0 8, .macq 0 1 1 8, .mrel 0 1 0, .cpy 0 8 10, .cpy2d 0 8 10, .cfill 0 8 10, .gath 0 8 10, .cstat 0 8 10 1, .ccan 0 10 1, .ostart 0 0 10 4 8, .ostart 0 1 10 4 8, .ostop 0 0, .ostop 0 1] &&
    ready (.macq 0 1 1 8) stTile && ready (.macq 0 5 0 8) s && s.tileOf s.cur 0 1 false == some 1 && s.tileOf s.cur 0 5 false == none && (s.tile 1).token == .str s.cur.key &&
    (mine.tile 1).token == .eng mine.cur.key && ((stEng .none).tile 1).token == .none && ((stEng (.str 5)).tile 1).token == .str 5 && spAt s s.cur 0 64 == some 0 && spAt s s.cur 0x18000 64 == none &&
    !s.lockHit 0 1 0 false 0 && !s.chipPoison 1 0 && s.settled s.curp && s.cdCode s.cur 0x58 (s.chipGet 1 0 64) == 0 && bad.cdCode bad.cur 0x58 (bad.chipGet 1 0 64) == 1 &&
    roomy s 1 (s.cdLocks s.cur 0x58 1 (cdSrc 0x58 (s.chipGet 1 0 64)) false ++ s.cdLocks s.cur 0x58 1 (cdDst 0x58 (s.chipGet 1 0 64)) true) &&
    q.engEntry q.cur 1 3 == some (7, e) && s.engEntry s.cur 1 3 == none && (s.partyOf s.cur).any (fun p => p.outrs.length == 1 && p.units.contains 0) &&
    !out.outBusy 32 && run.outBusy 32 && ready (.opush 0 1 4 3) pushing && (pushing.str? pushing.cur.bound).isSome && pushing.cur.bound != pushing.curUnit &&
    ready (.opush 0 1 4 3) deep && (((deep.str? 0).map (fun g => (tget [] g.oq 1).length)).getD 0 == 64) && ready (.ostart 0 0 10 4 8) out && ready (.ostart 0 0 10 4 8) run && ready (.ostop 0 0) run &&
    (match s.partyOf s.cur with
      | some pa => (pa.units.find? (fun x => ((s.str? x).map (fun y => y.index == 0 && y.party == s.cur.party)).getD false)) == some 0 &&
        (pa.units.find? (fun x => ((s.str? x).map (fun y => y.index == 9 && y.party == s.cur.party)).getD false)) == none
      | none => false) := by decide +kernel

/-- R408, R410, R419: a good command is queued, a form error answers 1; OPUSH gives its words to the string's queue. -/
theorem test_porter_words :
    after (.cpy 0 8 10) (copySt 0x44) (fun s => s.cur.sget 8 == 0 && s.eng.queue.map (fun e => (e.2.unit, e.2.code, e.2.st)) == [(1, 0x58, 1)]) &&
    after (.cpy 0 8 10) (copySt 0x5C) (fun s => s.cur.sget 8 == 0x01000000 && s.eng.queue == []) &&
    trapped (.mrel 0 1 0) (stEng (.str 5)) cTOKEN && after (.ostart 0 0 12 4 8) (copySt 0x44) (fun s => s.cur.sget 8 == 0 && ((s.str? 32).map (fun o => o.runs && o.bound == 0)).getD false) := by
  decide +kernel

def engE (unit code : Nat) (vals : List Nat) : Eng := ⟨unit, 0, 3, 0, 0, 0, 2, false, code, 1, 0, vals, [0], 0, 0, [], [], none, false, 0, [], [], 0, [], []⟩
def withEng (s : State) (e : Eng) : State := ev { s with eng := { s.eng with queue := [(7, e)] } } [7]
def unitRes (s : State) (e : Eng) : Nat :=
  match engUnit s 7 e with
  | .ok _ _ => 1
  | .bad s _ => if (s.strOf e.who).isSome then 2 else 0
  | .park _ _ _ _ _ => 3
  | .wait _ => 4
  | .stop _ => 5

theorem witness_EngineCommits :
    let s := stEng (.str 0)
    let cpy := s.chipGet 1 0 64
    let v := (copySt 0x44).chipGet 1 0 64
    let home : State := { away with sch := stTile.sch }
    let glob : Eng := { engE 1 0x58 [v - 4 * 2 ^ 160 + 0x5000] with world := 1, level := 0 }
    let far := engE 1 0x58 [v + 3 * 2 ^ 162 + 9 * 2 ^ 176]
    let mma := engE 0 0x4B [0, 1, 0x10004000000, 0, 0x10004000000, 0]
    let done : Eng := { engE 1 0x58 [v] with st := 2, done := 1 }
    let cw : Eng := { engE 1 0x58 [v + 2 ^ 170 + 2 ^ 175 + 0x400 * 2 ^ 192] with st := 2, done := 1 }
    let x : State := { s with eng := { s.eng with queue := [(7, { done with st := 4 })] } }
    let out : State := ev (s.putStr 32 { Str.blankOut with bound := 0 }) [0, 3, 0]
    let put := ev s [9, 1, 0, 0, 0, 0, 64, 0, 0, 0]
    ((withEng s (engE 0 0x4A [0])).engMay 7 (engE 0 0x4A [0])) && unitRes (withEng s (engE 0 0x4A [0])) (engE 0 0x4A [0]) == 1 && !((withEng s { engE 0 0x4A [0] with st := 3 }).engMay 7 { engE 0 0x4A [0] with st := 3 }) &&
    (engE 0 0x4A [0]).units == 64 && mma.units == 1 && unitRes (withEng s mma) mma == 1 && (engE 1 0x58 [v]).units == 1 && unitRes (withEng (copySt 0x44) (engE 1 0x58 [v])) (engE 1 0x58 [v]) == 1 &&
    unitRes (withEng home glob) glob == 3 && (withEng home glob).engMay 7 glob && unitRes (withEng { s with fab := st0.fab } far) far == 2 && (withEng { s with fab := st0.fab } far).engMay 7 far &&
    done.unit == 1 && decide (done.units ≤ done.done) && !cdCw (done.val 0) && cdCw (cw.val 0) && (match cwWrite (withEng s cw) cw (cw.val 0) with
      | .ok _ _ => true
      | _ => false) && x.eng.queue.find? (fun y => y.2.unit == 1 && y.2.core == 0 && y.2.idx == 3 && y.2.who == s.cur.key) == some (7, { done with st := 4 }) &&
    ((out.str? 32).map (fun o => o.outrider && o.bound == 0)).getD false && (match put.putAt 9 0 0 0 0 0 false 0 with
      | (_, _, _) => true) && cpy == 0 := by decide +kernel

/-- R387, R393, R410: MZERO clears its row; a copy moves its byte; R421: an unreachable peer holds the entry under a report. -/
theorem test_engine_commits :
    let v := (copySt 0x44).chipGet 1 0 64
    after .engineCommit (withEng (copySt 0x44) (engE 1 0x58 [v])) (fun s => s.chipByte 1 0x300 == 0xAB && (tfind s.eng.queue 7).map Eng.done == some 1) &&
    after .engineCommit (withEng { stEng (.str 0) with fab := st0.fab } (engE 1 0x58 [v + 3 * 2 ^ 162 + 9 * 2 ^ 176])) (fun s =>
      (tfind s.eng.queue 7).map Eng.st == some 4 && s.cur.reports.length == 1) &&
    after .engineCommit (withEng { stEng (.str 0) with eng := { (stEng (.str 0)).eng with tiles := [(0, { tok (.eng 0) with e := [(0, 5), (64, 6)] })] } } (engE 0 0x4A [0])) (fun s => (s.tile 0).e == [(64, 6)]) := by
  decide +kernel
/-! ### Launches, placement and images -/

/-- A launch record: world 1, die 0, one party of one string, with fields added. -/
def recN (more : Nat) : Nat := 2 ^ 320 + 2 ^ 328 + 0x5000 * 2 ^ 128 + more
def lE (more : Nat) : Launch := ⟨BitVec.ofNat 1024 (recN more), 3, 0, [], 0⟩
def queueE : Queue := ⟨true, false, 1, 1, 0, 0, []⟩

/-- The steward's string with the record at 0x200000, queue 3 of partition 0, and the completion word on a page with a leaf. -/
def lnSt (more : Nat) (leaf : Dword) (q : Queue) : State :=
  let s := (mapped leaf).setGran 0x200 0x00010000
  let s := State.str s (fun t => pair (uni { t with world := 0, p0 := { t.p0 with level := 2, cmask := 0xFFFFFFFF } } 6 3) 4 0x200000)
  { s.putL2 true 1 0x4000 ⟨BitVec.ofNat 1024 (recN more), false, false, 0, 0⟩ with sch := { s.sch with queues := [(3, q)] } }

/-- LNCH's answer for the record, the read at its place. -/
def lnCode (s : State) : Nat :=
  match judge s s.cur s.curp.resumed (uniMemOp 0 128 .load .none 0) [⟨0, 0x200000, 128, 0, 0⟩] 0 with
  | .go s1 c => match c.park, c.go with
    | [], [e] => if readHeld s1 s.cur s.curp (uniMemOp 0 128 .load .none 0) 0x200000 e.2 then 100
      else let r := readPlaced s1 s.cur s.curp (uniMemOp 0 128 .load .none 0) 0x200000 e.2
        r.2.2.launchCode 0 0 2 ⟨BitVec.ofNat 1024 r.1, 3, 0, [], 0⟩
    | _, _ => 101
  | .stop _ => 102

theorem witness_LaunchesAndCompletion :
    let w : Dword := 0x10630B
    let user := State.str (lnSt (2 ^ 338) w queueE) (fun t => { t with world := 1 })
    ready (.lnch 8 4 6 0) (lnSt 0 w queueE) && lnCode (lnSt 0 w queueE) == 0 && lnCode (lnSt 0 w { queueE with en := false }) == 1 && lnCode (lnSt 0 w { queueE with part := 1 }) == 2 &&
    lnCode (lnSt (2 ^ 321) w queueE) == 2 && user.launchCode 0 1 0 (lE (2 ^ 338)) != 0 && lnCode (lnSt 1 w queueE) == 4 && lnCode (lnSt (49 * 2 ^ 292) w queueE) == 4 &&
    lnCode (lnSt (2 ^ 302) w queueE) == 4 && lnCode (lnSt 0 0x1A queueE) == 6 && lnCode (lnSt 0 w { queueE with items := List.replicate 256 9 }) == 7 := by decide +kernel

/-- Level 3 of the table: a user-level issuer may launch no kernel-level strings and a form that does is accepted. -/
theorem witness_LaunchesAndCompletion_levels :
    let user := (lnSt 0 0x10630B queueE).setWreg 1 0x0D3 (2 ^ 31 + 8 * 2 ^ 12)
    user.launchCode 0 1 0 (lE (2 ^ 338)) == 3 && user.launchCode 0 1 0 (lE 0) == 0 := by decide +kernel

def bwSt : Str := { st0.cur with p0 := { st0.cur.p0 with hold := .word, words := [word 0xFF []], pos := 1 } }
def overSt (leaf : Dword) (retired : Nat) : State :=
  let s := mapped leaf
  ev { s with sch := { s.sch with launches := [(2, { lE 0 with placed := [(0, 1)], retired := retired })] } } [2]
def xres (s : State) : Nat :=
  match s.xlate 0 1 0x5000 aUniStore 0 with
  | (.ok _, _) => 1
  | (.trap _, _) => 2
  | (.park _ _, _) => 3

theorem witness_LaunchesAndCompletion_end :
    let party := (tfind st0.sch.parties 0).getD ⟨0, 0, 0, 0, 0, 0, 0, [], [], 0, [], [], 0, false, 0, false⟩
    let save : Saved := { st0.image 5 party true with key := 5, strs := [bwSt] }
    let asleep := ev { st0 with stored := [save] } [5]
    let never := ev { st0 with stored := [{ save with ready := true }] } [5]
    asleep.stored.find? (fun y => y.key == asleep.argN 0) == some save && save.asleep && !save.ready && never.stored.find? (fun y => y.key == 5) == some { save with ready := true } &&
    (save.strs.all (fun t => !t.p1.live)) && tfind (overSt 0x10630B 1).sch.launches 2 == some { lE 0 with placed := [(0, 1)], retired := 1 } && (overSt 0 1).sch.parties.all (fun e => e.2.live != 0) &&
    ({ lE 0 with placed := [(0, 1)] } : Launch).whole && !(lE 0).whole && (lE 0).num 256 24 + 1 == 1 && (overSt 0 0).sch.outstanding == [] && xres (overSt 0x10630B 1) == 1 && xres (overSt 0 1) == 2 &&
    xres (overSt 0x1A 1) == 3 := by decide +kernel

/-- R269: an accepted launch joins its queue; R283: a launch that is over writes its word and is gone. -/
theorem test_launches :
    after (.lnch 8 4 6 0) (lnSt 0 0x10630B queueE) (fun s => s.cur.sget 8 == 0 && (s.queue 3).items.length == 1 && s.sch.launches.length == 1) &&
    after (.lnch 8 4 6 0) (lnSt 1 0x10630B queueE) (fun s => s.cur.sget 8 == 4 && (s.queue 3).items == []) &&
    after .launchComplete { overSt 0x10630B 1 with sch := { (overSt 0x10630B 1).sch with launches := [(2, { lE (77 * 2 ^ 192) with placed := [(0, 1)], retired := 1 })] } } (fun s =>
      s.sch.launches == [] && (match s.l2? false 1 (0x106000 / 128) with
        | some l => lineGet l.data 0 8 == 77
        | none => false)) := by decide +kernel

/-- A one-string launch in queue 3, which die 0 has mapped. -/
def plSt (more : Nat) (req : Option PlReq) (time : Nat) : State :=
  { guest 0 15 with
    time := time
    sch := { st0.sch with
      queues := [(3, { queueE with items := [2] })], maps := [(3, ⟨true, 0⟩)], launches := [(2, lE more)]
      preqs := (req.map (fun r => (3, r))).toList, parties := st0.sch.parties.map (fun e => (e.1, { e.2 with live := 1 })) } }
def bestIs (s : State) (l : Launch) (c : Nat) : Bool :=
  s.fits 2 l [c] && (List.range 96).all (fun k => decide (s.siteLoad [c] < s.siteLoad [k]) || (s.siteLoad [c] == s.siteLoad [k] && decide (c ≤ k)) || !s.fits 2 l [k])

theorem witness_PlacingParties :
    let l := lE 0
    let s := ev (plSt 0 none 0) [0]
    let big := lE (2 ^ 309)
    let full := { plSt (2 ^ 309) none 0 with sch := { (plSt (2 ^ 309) none 0).sch with parties := [], dpAlloc := [(36, (0, 2 ^ 26))] } }
    let r : PlReq := ⟨0, 0, false, 2 ^ 5 + 2⟩
    let asked := fun (l' : List Nat) (time : Nat) => ev ((plSt 0 (some r) time).setPreg 0 0x0DA 0x80000001) l'
    !l.convoy && !l.paired && !l.cor && l.onDie 0 && decide (l.placedOn 0 < l.unitsOn 0) && s.headReady 3 2 l && s.sch.parties.all (fun e => e.2.live != 0 && !e.2.stopping) && s.stored == [] &&
    !s.kdir l && bestIs s l 1 && (List.range 96).all (fun c => !full.fits 2 big [c]) && full.headReady 3 2 big && !full.kdir big && (asked [] 0).kdir l && (asked [] 0).headReady 3 2 l &&
    (asked [0, 3] 36000).sch.preqs == [(3, r)] && (10 * (((asked [] 0).preg (((asked [] 0).partOf l.world).getD 0) 0x0DA).toNat % 256)) * 3600 == 36000 &&
    bestIs (asked [0, 3] 36000) l 1 && (asked [3, 0, 5] 0).fits 2 l [5] && (asked [3, 0, 5] 0).argN 2 == 5 && !((plSt (2 ^ 309) (some r) 0 |> fun s => ({ s with sch := { s.sch with dpAlloc := [(36, (0, 2 ^ 26))] } } : State)).fits 2 big [0]) := by decide +kernel

/-- R274, R278: the party goes to the core with the fewest strings, the lowest of equals; PLACE names another. -/
theorem test_placing :
    after .placement (ev (plSt 0 none 0) [0]) (fun s => (s.str? 64).isSome && (s.queue 3).items == [] && (tfind s.sch.parties (2 * 2 ^ 24)).map Party.core == some 1) &&
    after .place (ev ((plSt 0 (some ⟨0, 0, false, 2 ^ 5⟩) 0).setPreg 0 0x0DA 0x80000001) [3, 0, 5]) (fun s => (tfind s.sch.parties (2 * 2 ^ 24)).map Party.core == some 5 && s.sch.preqs == []) := by
  decide +kernel

theorem witness_RoomOnACore : (st0.room 0 1 2 3 1 1).map (fun r => (r.slots.length, r.sp, r.tiles.length, r.outrs.length)) == some (1, 0, 1, 1) := by decide +kernel

theorem witness_SlotsAndBudgets :
    let q := plSt 0 none 0
    let p : Party := { (tfind st0.sch.parties 0).getD ⟨0, 0, 0, 0, 0, 0, 0, [], [], 0, [], [], 0, false, 0, false⟩ with world := 1, slice := 0 }
    let run := fun (reg : Dword) (used time : Nat) => ev { ((guest 0 15).setPreg 0 0x0D5 reg) with time := time, sch := { st0.sch with parties := [(0, p)], slotTime := [(0, used)] } } [0]
    let cap := fun (used : Nat) => ev ({ (run 0x0000FF00 used 0) with sch := { (run 0 used 0).sch with capped := [] } }.setPreg 0 0x0D9 0) [0]
    let wait : State := { plSt (60 * 2 ^ 292) none 0 with time := 360000, sch := { (plSt (60 * 2 ^ 292) none 0).sch with parties := [(0, { p with world := 2 })], slotTime := [(1, 5)] } }
    (q.sch.queues.map Prod.fst) == [3] && (q.mapped 0).length == 1 && decide (q.time / 3600000 ≤ q.sch.quantum) && (plSt 0 none 3600000).time / 3600000 == 1 && (plSt 0 none 0).sch.quantum == 0 &&
    tfind (run 0 0 0).sch.parties 0 == some p && (run 0 0 0).partOf 1 == some 0 && ((run 0x00000100 0 0).preg 0 0x0D5).extractLsb' 8 8 == 1 && decide ((run 0x00000100 0 360000).used 0 ≤ (run 0x00000100 0 360000).floor 0) &&
    decide ((run 0x00000100 9 360000).floor 0 < (run 0x00000100 9 360000).used 0) && (run 0x00000100 9 359999).time == 359999 && wait.otherWaits 0 1 && decide (wait.floor 1 < wait.used 1) &&
    decide ((cap (2 ^ 60)).ceiling 0 ≤ (cap (2 ^ 60)).used 0) && !((cap 0).sch.capped.contains 0) && decide ((cap 0).used 0 < (cap 0).ceiling 0) && (cap 0).preg ((cap 0).topOf 0) 0x0D9 == 0 &&
    (run 0 0 36000000).time / 36000000 == 1 && (run 0 0 0).sch.period == 0 && (guest 0 15).parentOf 0 == none && ({ guest 0 15 with xl := { (guest 0 15).xl with parent := [(1, 0)] } } : State).parentOf 1 == some 0 := by
  decide +kernel

/-- R272: a waiting queue gets a slot at the quantum boundary; R285: the accounts restart with the period. -/
theorem test_slots :
    after .quantumBoundary { plSt 0 none 3600000 with sch := { (plSt 0 none 0).sch with maps := [(3, ⟨false, 0⟩)] } } (fun s => s.mapped 0 == [3] && s.sch.quantum == 1) &&
    after .periodBoundary { st0 with time := 36000000, sch := { st0.sch with slotTime := [(0, 9)], capped := [0] } } (fun s => s.sch.slotTime == [] && s.sch.capped == [] && s.sch.period == 1) := by
  decide +kernel

/-- The steward's string, of one register block, with an image's first 32 lines in the L2 at 0x200000. -/
def imgSt (line0 : Nat) : State :=
  let s := State.str st0 (fun t => pair { t with vblk := 1 } 4 0x200000)
  { s with mem := { s.mem with l2 := (List.range 32).map (fun k => (l2Key true 0 (0x4000 + k), ⟨if k = 0 then BitVec.ofNat 1024 line0 else 0, false, false, 0, 0⟩)) } }
def imgMs : MemOp := { uniMemOp 0 128 .store .none 0 with rel := true, scope := 4 }
def imgMl : MemOp := { uniMemOp 0 128 .load .none 0 with strong := true, acq := true, scope := 4 }
def imgCode (s : State) : Nat :=
  match judge s s.cur s.curp.resumed imgMl (lineReqs 0x200000 32 0) 0 with
  | .go s1 c => if c.park = [] then (let r := s1.readLines s.cur imgMl c.go; r.2.2.imageCode s.cur r.1) else 100
  | .stop _ => 101

theorem witness_StringImages :
    let two : Str := { st0.cur with vblk := 4, stack := [StkRec.join 0x40, StkRec.join 0x80] }
    let off := State.str st0 (fun t => pair t 4 0x200080)
    allReady off [.ctxsv 8 4 0, .ctxld 8 4 0] && (off.cur.spair 4).toNat % 4096 != 0 && allReady (imgSt 0) [.ctxsv 8 4 1, .ctxld 8 4 0] && (imgSt 0).curp.binds == [] && (imgSt 0).quiet 0 &&
    (imgSt 0).cur.regPoison == [] && passes (imgSt 0) imgMs (lineReqs 0x200000 64 0) 0 && imgCode (imgSt 0) == 1 && imgCode (imgSt 1) == 2 && imgCode (imgSt (1 + 2 ^ 32)) == 3 &&
    !two.outrider && decide (two.stack.length ≤ 16) && two.p0.state == .running && !two.p0.woken && decide (two.p0.pos < 16 ∧ two.p0.level < 4 ∧ two.world < 256 ∧ two.repidx < 64) := by decide +kernel

/-- A good image of world 1 for a string of world 1, and one whose slot 0 stands above the user level. -/
theorem witness_StringImages_levels :
    let img := 1 + 2 ^ 32 + 2 ^ (8 * 0x600)
    (guest 1 15).imageCode { (guest 1 15).cur with vblk := 1 } img == 0 && (guest 1 15).imageCode { (guest 1 15).cur with vblk := 1 } (img + 2 ^ (8 * 0x40) * (2 ^ 254 + 2 ^ 249)) == 4 := by decide +kernel

/-- R260, R347: an image starts with its format and register blocks; CTXLD of one with another format answers 1. -/
theorem test_images :
    fieldAt ({ st0.cur with vblk := 1 } : Str).image 0 4 0 == 1 && fieldAt ({ st0.cur with vblk := 1 } : Str).image 4 4 0 == 1 &&
    fieldAt (uni { st0.cur with vblk := 1 } 9 7).image (0x4C0 + 36) 4 0 == 7 && after (.ctxld 8 4 0) (imgSt 0) (fun s => s.cur.sget 8 == 0x01000000) := by decide +kernel
/-! ### The gate, the host, trust and the start -/

def polE (org : Waybill) (rem exp : Nat) : Policy := ⟨1, org, rem, exp, [BitVec.ofNat 256 (4 * 2 ^ 56 + 9 * 2 ^ 30)], []⟩
def egE (wb : Waybill) (n : Nat) : Egress := ⟨1, wb, destPackage 9, n⟩
def gateSt (l : Table Policy) : State := { guest 0 15 with tr := { st0.tr with policies := l } }
/-- What is left in slot 3; 2000 and the register's value for a refusal. -/
def gateSays (l : Table Policy) (es : List Egress) : Nat × Dword :=
  match (gateSt l).gate es with
  | .ok s => ((match tfind s.tr.policies 3 with
    | some p => p.remaining
    | none => 1000), s.preg 0 0x0E7)
  | .error (_, g, s) => (2000 + g.toNat, s.preg 0 0x0E7)
def oneSays (l : Table Policy) (e : Egress) : Nat :=
  match gateOne l 0 e with
  | .ok r => (tfind r 3).elim 1000 Policy.remaining
  | .error g => 2000 + g.toNat

theorem witness_TheGate :
    oneSays [] (egE 0 4) == 1000 && oneSays [(3, polE 1 9 9)] (egE 3 4) >= 2000 && oneSays [(3, polE 3 9 9)] (egE 3 4) == 5 && oneSays [(3, polE 3 4 9)] (egE 3 4) == 1000 &&
    (gateSays [(3, polE 1 9 (2 ^ 30))] [egE 3 4]).1 >= 2000 && (gateSays [(3, polE 3 9 (2 ^ 30))] [egE 3 4, egE 0 7]).1 == 5 := by decide +kernel

/-- R437, R447: a refusal names the destination's kind and the origin no policy covers; R438: each decision counts once. -/
theorem test_gate :
    gateSays [(3, polE 1 9 (2 ^ 30))] [egE 3 4] == (2000 + 4 * 2 ^ 28 + 2, 2 ^ 32) && gateSays [(3, polE 3 9 (2 ^ 30))] [egE 3 4, egE 2 5] == (1000, 1) &&
    (gateSays [(3, polE 3 8 (2 ^ 30))] [egE 3 4, egE 2 5]).1 == 2000 + 4 * 2 ^ 28 + 2 := by decide +kernel

/-- Function 5 belongs to partition 0, whose mailbox is its first 2 MiB; granule 0x106 belongs to world 1. -/
def hostSt (entry : Dword) (gran : Word) (l : List Nat) (bs : List Byte) : State :=
  let s := (guest 0 entry).setGran 0x106 gran
  { (s.setPreg 0 0x0C5 1).putL2 false 1 (0x106000 / 128) ⟨0x0102030405060708, false, false, 3, 0⟩ with xl := { s.xl with pcie := [(5, 0)] }, arg := ⟨l, bs⟩ }
def hostReads (s : State) : Nat :=
  match s.mailbox (s.argN 0) (s.argN 1) (s.argN 2) with
  | none => 0
  | some (q, a) => if !(gransOf a (s.argN 2)).all (fun x => (s.hostGran q x 1).isSome) then 1
    else match (s.readRange (fun x => (s.hostGran q x 1).map (fun r => (false, r.1))) (segsOf a (s.argN 2))) with
      | (_, l, s1) => match s1.gate (hostParts (destFunc 5) l) with
        | .ok _ => 2
        | .error _ => 3
def hostRead3 (n : Nat) : List Nat := [5, 0x106000, n]
def letHost : Policy := ⟨1, 3, 100, 2 ^ 30, [BitVec.ofNat 256 (2 * 2 ^ 56 + 5 * 2 ^ 16)], []⟩

theorem witness_HostRequests :
    let s := hostSt 15 0x00010000 (hostRead3 8) [1, 2]
    let may : State := { s with tr := { s.tr with policies := [(0, letHost)] } }
    let w2 := fun (e : Dword) (g : Word) => ((gransOf 0x106000 2).map (fun x => (hostSt e g (hostRead3 8) [1, 2]).hostGran 0 x 2))
    let core := { ev { hostSt 15 0x00010000 [] [] with tr := { st0.tr with policies := [] } } [24, 0x105000, 8] with boot := { st0.boot with started := true } }
    hostReads (ev s [4, 0, 8]) == 0 && hostReads (ev s [5, 2 ^ 21 - 4, 8]) == 0 && hostReads s == 3 && hostReads may == 2 && s.boot.bstat == 3 && w2 15 0x00010000 == [some (1, false)] &&
    w2 15 0x80010000 == [some (1, true)] && w2 3 0x00010000 == [none] && w2 15 0 == [none] && (gransOf 0x105000 8).all (fun x => regionOf x == .hbm) &&
    (match core.readRange (fun x => if regionOf x = .hbm then some (true, core.ownerOf x) else none) (segsOf (core.argN 1) (core.argN 2)) with
      | (_, l, s1) => match s1.gate (hostParts destHostCores l) with
        | .ok _ => true
        | .error _ => false) := by decide +kernel

/-- R18: a function without a partition is an Unsupported Request; R432: a read no policy allows, and a write to a sealed granule, are Completer Aborts. -/
theorem test_host :
    let s := hostSt 15 0x00010000 (hostRead3 8) [1, 2]
    let sent (s : State) : List (List Nat × List Byte) := s.outbox.map (fun m => (m.n, m.bytes))
    after .hostBar2Read (ev s [4, 0, 8]) (fun s => sent s == [([4, 0, 1], [])]) && after .hostBar2Read s (fun s => sent s == [([5, 0x106000, 2], [])]) &&
    after .hostBar2Read { s with tr := { s.tr with policies := [(0, letHost)] } } (fun s => sent s == [([5, 0x106000, 0], [8, 7, 6, 5, 4, 3, 2, 1])] &&
      (tfind s.tr.policies 0).map Policy.remaining == some 92) &&
    after .hostBar2Write (hostSt 15 0x80010000 (hostRead3 8) [1, 2]) (fun s => sent s == [([5, 0x106000, 2], [])]) &&
    after .hostBar2Write (s.setWreg 1 0x0E9 9) (fun s => sent s == [([5, 0x106000, 0], [])] && (match s.l2? false 1 (0x106000 / 128) with
      | some l => lineGet l.data 0 4 == 0x05060201 && l.wb == 11
      | none => false)) := by decide +kernel

/-- A command of partition 0 for world 1, with its buffer at 0x106000. -/
def trSt (op : Nat) (x : Nat) : State :=
  let s := [0x106, 0x107, 0x108].foldl (fun s k => s.setGran k 0x00010000) (guest 0 15)
  ev { s.putL2 false 1 (0x106000 / 128) ⟨BitVec.ofNat 1024 x, false, false, 0, 0⟩ with tr := { s.tr with cmds := [(0, ⟨op, 0x106000, 1, 0⟩)] } } [0]
def lies (s : State) (a n bit : Nat) : Bool := (List.range ((n + 4095) / 4096)).all (fun g => (s.s2Leaf (s.topOf 0) (a + 4096 * g)).any (fun r => r.2.getLsbD bit))
def orgGood (x : Nat) : Bool := originForm (bytesOf 3584 x)

def orgDone : State := { trSt 1 0 with tr := { (trSt 1 0).tr with origins := [(1, [])] } }
def leavesSpent : State := { trSt 3 0 with nv := { st0.nv with idLeaf := 2 ^ 20 } }
def ackHeld (exp : Nat) : State := { trSt 4 0 with tr := { (trSt 4 0).tr with policies := [(0, polE 1 9 exp)] } }

theorem witness_TrustAndAttestation :
    (orgDone.tr.origins != []) && lies (trSt 1 0) 0x106000 3584 1 && !lies (trSt 1 0) 0x110000 3584 1 && orgGood 0 && !orgGood (2 ^ 160) && orgGood (2 ^ 160 + 2 ^ 248) &&
    lies (trSt 5 0) 0x106000 4096 2 && lies (trSt 3 0) 0x106000 12288 1 && lies (trSt 3 0) 0x106000 12288 2 && leavesSpent.nv.idLeaf >= 2 ^ 20 && (trSt 3 0).nv.idLeaf == 0 &&
    (trSt 4 0).tr.policies == [] && (ackHeld 9).mono >= 9 && (ackHeld (2 ^ 30)).mono == 2 ^ 20 && (trSt 4 0).topOf 0 == 0 := by decide +kernel

theorem witness_TrustAndAttestation_buffers :
    let s := trSt 3 0
    let p := polE 1 9 9
    let r : MRec := ⟨1, 0x5000, 0x106000, 7, 5, 6⟩
    decide (s.me < 1024 ∧ s.mono < 2 ^ 64 ∧ p.world < 256 ∧ p.remaining < 2 ^ 64 ∧ (List.replicate 256 (0 : Byte)).length = 256 ∧ s.tr.bootLeaf + 1 < 1024 ∧ r.world < 256 ∧ r.va < 2 ^ 57) &&
    (s.orgd 1).length == 32 && (shake256 p.body).length == 32 && decide (s.tr.log.length < 2 ^ 32 ∧ r.gpa < 2 ^ 52 ∧ r.mono < 2 ^ 64) && decide (1024 ≤ ({ s.tr with bootLeaf := 1023 } : TrS).bootLeaf + 1) := by
  decide +kernel

/-- Package 9 is asked to attest itself to world w of partition 0. -/
def attSt (w : Nat) (l : List Nat) (lanes : Table Lane) : State :=
  let s := guest 0 15
  ev { s.setPkg 0x0A3 (2 ^ 16) with tr := { s.tr with cmds := [(0, ⟨2, w * 1024 + 9, 1, 0⟩)] }, fab := { s.fab with peers := [(9, 1)], lanes := lanes } } l

theorem witness_TrustAndAttestation_peers :
    (attSt 2 [0] live5).partOf 2 == some 1 && (attSt 1 [0] live5).partOf 1 == some 0 && (attSt 1 [0] live5).reaches 9 && (attSt 1 [0] live5).lanesTo 9 != 0 && (attSt 1 [0] live5).me != 9 &&
    (attSt 1 [0] []).lanesTo 9 == 0 && decide ((attSt 1 [0] live5).nv.idLeaf < 2 ^ 20) && ((attSt 1 [0] live5).pkg 0x0A3).extractLsb' 16 16 == 1 && (attSt 1 [9, 0] live5).time == 0 &&
    (attSt 1 [9, 0] live5).argN 0 == (1 * 1024 + 9) % 2 ^ 10 && chained [] == false && ({ attSt 1 [9, 0] live5 with time := 3601 } : State).time == 3600 * 1 + 1 := by decide +kernel

/-- R425, R426: a good origin table is loaded once; R446: LOGRD gives the number of its records; R442: a late report ends with 5. -/
theorem test_trust :
    let code (s : State) : Nat × Bool := ((s.preg 0 0x0E1).toNat, s.tr.cmds == [])
    after .orgload (trSt 1 (2 ^ 160 + 2 ^ 248)) (fun s => code s == (0, true) && (s.origin 1 0).map (fun o => o.1) == some 1) &&
    after .logrd { trSt 5 0 with tr := { (trSt 5 0).tr with log := [⟨1, 0x5000, 0x106000, 7, 5, 6⟩] } } (fun s => code s == (256, true) && (match s.l2? false 1 (0x106000 / 128) with
      | some l => lineGet l.data 64 1 == 6 && lineGet l.data 96 1 == 1
      | none => false)) &&
    after .ack (trSt 4 0) (fun s => code s == (7, true)) && after .attestReportArrival { attSt 1 [9, 0] live5 with time := 3601 } (fun s => code s == (5, true)) := by decide +kernel
/-! ### Policies, sealing, the start and the power -/

/-- A policy record of world w with one origin, 512 bytes: fields of the header and one destination. -/
def polRec (w : Nat) (expiry serial : Nat) (kind : Nat) : Nat :=
  1 + 3584 * 2 ^ 32 + w * 2 ^ 64 + 2 ^ 72 + 2 ^ 80 + expiry * 2 ^ 128 + 100 * 2 ^ 192 + serial * 2 ^ 256 + (kind * 2 ^ 56 + 9 * 2 ^ 30) * 2 ^ 640
def polBytes (x : Nat) : List Byte := bytesOf 512 x
/-- The steward's string with a record at 0x200000, in granules that belong to world 2. -/
def polSt (x lines : Nat) : State :=
  let s := State.str (st0.setGran 0x200 0x00020000) (fun t => pair t 4 0x200000)
  (List.range lines).foldl (fun s k => s.putL2 true 2 (0x4000 + k) ⟨BitVec.ofNat 1024 (x / 2 ^ (1024 * k)), false, false, 0, 0⟩) s
def op8 : MemOp := uniMemOp 0 8 .load .none 0
def polGot (s : State) : List Byte :=
  match judge s s.cur s.curp.resumed op8 (eights 0x200000 512 0) 0 with
  | .go s1 c => if c.park = [] then (s1.readEach s.cur s.curp.resumed op8 c.go).1 else []
  | .stop _ => []

theorem witness_ReleasePolicies :
    let s := polSt (polRec 0 (2 ^ 30) 1 4) 4
    let odd := State.str s (fun t => pair t 4 0x200004)
    ready (.gpolIns 8 4) s && ready (.gpolIns 8 4) odd && s.quiet 0 && passes s op8 (eights 0x200000 512 0) 0 && recShape (polGot s) && (polGot s).length == 512 && recOrigins (polGot s) == [0] := by
  decide +kernel

theorem witness_ReleasePolicies_shape : (polGot (polSt 0 4)).length == 512 && !recShape (polGot (polSt 0 4)) := by decide +kernel

theorem witness_ReleasePolicies_signatures : passes (polSt (polRec 0 (2 ^ 30) 1 4) 28) op8 (eights 0x200200 3072 0) 0 := by decide +kernel

/-- A record under check, with the origin table of world 1. -/
def chkSt (x : Nat) (f : TrS → TrS) : State :=
  let s := guest 0 15
  ev { s with tr := f { s.tr with checks := [⟨7, s.cur.key, 1, polBytes x, 4⟩], origins := [(1, bytesOf 3584 (2 ^ 160 + 2 ^ 248))] } } [7]
def codeOf (s : State) : Nat := ((s.tr.checks.head?).map (fun c => s.polCode c.world c.bytes)).getD 9

theorem witness_ReleasePolicies_checks :
    let good := polRec 1 (2 ^ 30) 5 4
    codeOf (chkSt 0 id) == 1 && codeOf (chkSt good (fun t => { t with origins := [] })) == 1 && codeOf (chkSt (polRec 2 (2 ^ 30) 5 4) id) == 3 && codeOf (chkSt (polRec 1 9 5 4) id) == 4 &&
    codeOf (chkSt good (fun t => { t with serial := [(1, 5)] })) == 4 && codeOf (chkSt good id) == 2 && (chkSt good id).strOf (chkSt good id).cur.key == some (0, (chkSt good id).cur) &&
    codeOf (chkSt (polRec 1 (2 ^ 30) 5 7) id) == 1 && ((chkSt good id).tr.checks.find? (fun c => c.id == (chkSt good id).argN 0)).isSome := by decide +kernel

theorem witness_ReleasePolicies_revoke :
    let s : State := { gateSt [(3, polE 1 9 (2 ^ 30))] with tr := { st0.tr with policies := [(3, polE 1 9 (2 ^ 30))] } }
    let at_ := fun (k : Word) => State.str (State.at_ s (fun p => { p with level := 2 })) (fun t => uni t 6 k)
    allReady (at_ 3) [.gpolRev 8 6] && allReady (at_ 4) [.gpolRev 8 6] && decide ((at_ 3).mono < 2 ^ 30) && (at_ 3).cur.world == 1 := by decide +kernel

/-- R436: a record that fails answers with the first failing check's code; .rev of a live slot of the world frees it, of another is 6. -/
theorem test_policies :
    let holds (x : Nat) : State := let s := chkSt x id
      State.at_ s (fun p => { p with hold := .security 7, words := [word 0xF7 [(8, 18), (4, 12)]], pos := 1 })
    let at_ := fun (k : Word) => State.str (State.at_ (gateSt [(3, polE 1 9 (2 ^ 30))]) (fun p => { p with level := 2 })) (fun t => uni t 6 k)
    after .policyVerified (holds (polRec 2 (2 ^ 30) 5 4)) (fun s => s.tr.checks == [] && s.tr.policies == []) &&
    after (.gpolRev 8 6) (at_ 3) (fun s => s.cur.sget 8 == 0 && s.tr.policies == []) && after (.gpolRev 8 6) (at_ 4) (fun s => s.cur.sget 8 == 0x06000000) &&
    after .policyExpiry (gateSt [(1, polE 1 9 7), (3, polE 1 9 (2 ^ 30))]) (fun s => s.tr.policies.map Prod.fst == [3]) := by decide +kernel

/-- SEAL of n granules from an address, by the steward. -/
def sealSt (va : Dword) (n : Word) : State := State.str st0 (fun t => uni (pair t 4 va) 6 n)
def sealX (s : State) : Nat :=
  match s.xlate 0 s.cur.world (s.cur.spair 4).toNat aUniLoad s.curp.level with
  | (.trap _, _) => 1
  | (.park _ _, _) => 2
  | (.ok x, s1) => if lfHome x.leaf = false ∧ x.atom = false ∧ lfZero x.leaf = false ∧ x.cross = false ∧ x.region = .hbm then
      match s1.physOf x.ident x.tag x.gpa with
      | some h => if granSealed (s1.gran (h / 4096)) then 5 else 4
      | none => 6
    else 3

theorem witness_SealingAGranule :
    let a := sealSt 0x106000 1
    let waits := { a with mem := { a.mem with reqs := [{ rq .store .l2 with line := 0x106000 / 128 }] } }
    let full := { a with tr := { a.tr with log := List.replicate 65536 ⟨0, 0, 0, 0, 0, 0⟩ } }
    let user := State.str (mapped 0x1) (fun t => uni t 6 1)
    ready (.seal 8 4 6) (sealSt 0x106004 1) && ready (.seal 8 4 6) (sealSt 0x106000 0) && ready (.seal 8 4 6) a && a.sealHeld 0 a.curp.level 0 0x106000 1 == false && ready (.seal 8 4 6) waits &&
    waits.sealHeld 0 a.curp.level 0 0x106000 1 && canonical 0x106000 && sealX a == 4 && sealX (a.setGran 0x106 0x80000000) == 5 && sealX (sealSt 0x2000000000000 1) != 0 && full.tr.log.length == 65536 &&
    sealX user != 0 := by decide +kernel

/-- R345, R439: a granule is sealed once, with one record; an odd address is FORM. -/
theorem test_seal :
    after (.seal 8 4 6) (sealSt 0x106000 1) (fun s => s.cur.sget 8 == 1 && granSealed (s.gran 0x106) && s.tr.log.map (fun r => (r.world, r.va, r.gpa)) == [(0, 0x106000, 0x106000)]) &&
    after (.seal 8 4 6) ((sealSt 0x106000 1).setGran 0x106 0x80000000) (fun s => s.cur.sget 8 == 0 && s.tr.log == []) &&
    after (.seal 8 4 6) (sealSt 0x106004 1) (fun s => s.cur.sget 8 == 0x01000000) := by decide +kernel

def bootSt (b : BootS → BootS) (l : List Nat) (bs : List Byte) : State := { State.reset with boot := b State.reset.boot, arg := ⟨l, bs⟩ }

theorem witness_StartAndReset :
    let up := fun (l : List Nat) (bs : List Byte) => bootSt (fun b => { b with linkUp := true }) l bs
    let hbm := fun (img : List Byte) => { (bootSt (fun b => { b with linkUp := true, hbmUp := true, bstat := 1 }) [] []) with nv := { State.reset.nv with image := img } }
    let off := bootSt (fun b => { b with powered := false, tripped := true }) [110, 110] []
    let ok := bootSt (fun b => { b with scrubbed := true, verified := true }) [700, 80, 70, 25] []
    State.reset.boot.powered && !State.reset.boot.linkUp && (up [] []).boot.linkUp && !(up [] []).boot.hbmUp && (hbm []).boot.hbmUp && !(hbm []).boot.scrubbed && (hbm []).boot.bstat == 1 &&
    (hbm []).mem.l2 == [] && !(hbm []).boot.verified && (hbm [1]).nv.image != [] && (up [8] [1, 0, 0, 0]).arg.bytes.length == 4 && decide (0x100000 ≤ (up [0x100004] [5, 6]).argN 0) &&
    !off.boot.powered && off.boot.tripped && decide (110 ≤ off.argN 0) && ok.boot.scrubbed && ok.boot.verified && !ok.boot.started && ok.boot.powered && ok.argN 1 == 80 && decide (110 ≤ off.argN 1) := by decide +kernel

/-- R196: the link trains at the lower generation; R470: without an image the device waits for one; R474: a warm reset keeps HBM and records its cause. -/
theorem test_start :
    after .hostLinkTrain (bootSt id [6, 9] []) (fun s => s.boot.gen == 6 && s.boot.width == 8) && after .hostLinkTrain (bootSt id [4, 16] []) (fun s => !s.boot.linkUp) &&
    after .firmwareVerified (bootSt (fun b => { b with hbmUp := true, bstat := 2 }) [] []) (fun s => s.boot.bstat == 4) &&
    after .stagingAreaWrite (bootSt (fun b => { b with linkUp := true }) [0x100004] [5, 6]) (fun s => tget 0 s.boot.staging 5 == 6) &&
    after .rstctlWarm { st0 with mem := { st0.mem with hbm := [(9, 9)], sp := [(9, 9)] } } (fun s => s.mem.hbm == [(9, 9)] && s.mem.sp == [] && s.strs == [] && s.pkg 0x0F5 == 5) := by decide +kernel

/-- R472: the firmware starts one steward string at the image's entry. R475, R477: a sample above the limit throttles and steps the clock down. -/
theorem test_firmware_and_power :
    let img : List Byte := [1, 0, 0, 0, 7, 0, 0, 0, 0, 0, 0, 0, 0, 0, 0, 0, 0x80, 0, 0, 0, 0, 0, 0, 0]
    after .firmwareStart { bootSt (fun b => { b with scrubbed := true, verified := true }) [] [] with nv := { State.reset.nv with image := img } } (fun s =>
      (s.str? 0).isSome && s.pkg 0x0F3 == 7 && s.cur.p0.pc == s.pkg 0x022 && (s.pkg 0x022 - s.cur.spair 0) == 0x80 && s.cur.spair 2 == 24) &&
    after .powerSample ((ev st0 [900, 96, 70, 41]).setPkg 0x0F0 800 |>.setPkg 0x0F1 (36 * 2 ^ 40)) (fun s => s.pkg 0x0F1 == 900 * 2 ^ 48 + 35 * 2 ^ 40 + 7 * 2 ^ 32 && s.pkg 0x0F2 == 96 * 2 ^ 24 + 70 * 2 ^ 16 + 41 * 2 ^ 8) := by
  decide +kernel

/-! ### Steps -/

theorem witness_ChecksInOrder :
    let div := State.str st0 (fun t => { t with p1 := { t.p0 with mask := 1 } })
    let user := State.at_ st0 (fun p => { p with level := 0 })
    let bars : List Instr := [.bar 0 0 0, .loopi 8 3, .lbrk 0 0 4, .ctxsv 8 4 0, .ctxld 8 4 0]
    (encode (.sysw 6 0x011)).isSome && bars.all (fun i => (encode i).isSome && legal div.cur i && decide (minLevel i ≤ div.curp.level) && oncePerString i) && div.cur.diverged &&
    legal user.cur (.tlbiAll 0) && decide (user.curp.level < minLevel (.tlbiAll 0)) && (encode (.tlbiAll 0)).isSome && !legal { st0.cur with vblk := 1 } (.ld 62 0 60 2 0) && (encode (.ld 62 0 60 2 0)).isSome := by decide +kernel

def itemSt (w : Word) (f : Path → Path) : State := { atWord (State.at_ st0 f) w with agenda := [⟨3, .issue 0 false⟩] }

theorem witness_StepRunsTheInstruction :
    mayIssue (itemSt 0xF4000000 id).cur false && !(itemSt 0xF4000000 id).boundStopped (itemSt 0xF4000000 id).cur && (match decode 0xF4000000 with
      | .ok i => i == .nop
      | .error _ => false) && refused 0x9C000000 && !mayIssue (itemSt 0xF4000000 (fun p => { p with state := .parked })).cur false &&
    ({ st0 with agenda := [⟨3, .event .policyExpiry ⟨[1], []⟩⟩] } : State).agenda.length == 1 := by decide +kernel

/-- A NOP ends its one-word clause; a word that is no instruction is ILLEGAL; time passes first. -/
theorem test_steps :
    let goes (s : State) (f : State → Bool) : Bool := match step s with
      | .next s' => f s'
      | .fault _ => false
      | .refused _ => false
    goes (itemSt 0xF4000000 id) (fun s => s.time == 3 && s.curp.pos == 0 && s.cur.reg 0x023 == 0) && goes (itemSt 0x9C000000 id) (fun s => s.cur.reg 0x023 == BitVec.ofNat 64 cILLEGAL) &&
    goes { st0 with agenda := [⟨4, .event .policyExpiry ⟨[], []⟩⟩] } (fun s => s.time == 4 && s.agenda == []) := by decide +kernel

theorem witness_DecodeAndEncode : (encode (.sadd 4 4 6)).any (fun w => decide (decode w = .ok (.sadd 4 4 6))) && (Instr.sadd 4 4 6).wf := by decide +kernel

theorem witness_MemoryStaysCanonical : MemS.wf st0.mem ∧ (st0.stored.all fun x => (x.sp ++ x.cv).all fun e => e.2 != 0) ∧ Out.goesOn (step st0) := by decide +kernel

/-! ### Hypotheses that the witnesses above do not meet -/

/-- A state with one load of the string still open, older than what its path issues next. -/
def loading (s : State) : State := { s with nextOp := 9, mem := { s.mem with reqs := [{ rq .load .l2 with op := 2 }] } }

/-- A path with an access of its own still open: what waits for it, and what does not. -/
theorem witness_UnsettledPaths :
    let ins := loading (polSt (polRec 0 (2 ^ 30) 1 4) 4)
    let home := loading (State.str (fabSt live5 []) (fun t => uni t 4 0))
    let far := loading (remSt 8 0)
    let rd := let s := ((lnSt 0 0x10630B queueE).setGran 0x200 0).putL2 true 0 0x4000 ⟨0, false, false, 0, 0⟩
      { s with nextOp := 9, mem := { s.mem with reqs := [{ rq .store .l2 with op := 2, line := 0x4000, lanes := [⟨0, 0x200000, 4, 1, 0⟩] }] } }
    ready (.gpolIns 8 4) ins && (ins.cur.spair 4).toNat % 8 == 0 && !ins.settled ins.curp && !ins.loadsSettled ins.curp &&
    ready (.drain 4 0) home && (home.cur.sget 4).toNat % 1024 == home.me && !home.settled home.curp &&
    ready (.rld 8 2 4 2 0) far && far.curp.parkOp == none && (remL far 4).all (fun x => x.r.addr % 4 == 0 && far.inWindow 1 x.r.addr && far.reaches x.peer) &&
    !far.settled far.curp && lnCode rd == 100 && ready (.lnch 8 4 6 0) rd := by decide +kernel

/-- Shootdowns, pools and parked records: a child's world, a frame an earlier reader waits for, a record behind one that is kept out. -/
theorem witness_FramesAndRecords :
    let kid := { (guest 1 15) with xl := { (guest 1 15).xl with part := [(1, 0), (2, 1)], parent := [(1, 0)] } }
    let pools : State := { guest 1 15 with xl := { (guest 1 15).xl with pools := [(0, [0x100000])] } }
    let other : State := { pools with xl := { pools.xl with poolWait := [⟨0, 0, some (9, false), 0, 8⟩] } }
    let idle := fun (s : State) => s.xl.poolWait.all (fun w => w.part != 0 || w.size != 0)
    let rec2 : BitVec 256 := BitVec.ofNat 256 (0x5000 * 2 ^ 128 + 2 * 2 ^ 120 + 2 ^ 43)
    let full := withPend (waySt away (fun w => { w with posts := [frec 0, rec2] })) { pendE 0 with vpn := 9, waiters := (List.range 256).map (fun _ => frec 0) }
    let checks := withPend away (pendE 1)
    kid.partOf 2 == some 1 && kid.topPart 1 == some 0 && decide (kid.curp.level < 2) && idle pools && !idle other && allReady other [.sysr 8 0x06C] &&
    !full.admits (frec 0) && full.admits rec2 && checks.way.pends.find? (fun e => e.st == 1) == some (pendE 1) &&
    (withPend away (pendE 0)).way.pends.all (fun e => e.st != 1) && (withPend away (pendE 0)).nextPend == some (pendE 0) &&
    parkedOn (parkedSt.cur.path false) (frec 0) && parkedSt.cur.dbg == .running := by decide +kernel

/-- Resolution: answers in time and late, a copy that is still mapped, registers that are not written. -/
theorem witness_ResolutionInTime :
    let s := withPend (away.setPreg 0 0x081 0x500) (pendE 4)
    let p := s.pendPart (pendE 4)
    let copied := resident id
    let set := ((away.setPreg 0 0x085 0x106006).setPreg 0 0x086 0x105000).setPreg 0 0x082 0x107000
    decide (s.time < (pendE 4).since + 3600 * (((s.preg p 0x081).extractLsb' 8 8).toNat)) &&
    (match copied.copy? 1 0 5 with
      | some c => ((copied.leavesOf 1 0x5000 0).1.map Prod.snd).all (fun l => lfV l && lfHome l && entFrame l == c.frame)
      | none => false) && !((copied.leavesOf 1 0x5000 0).1.isEmpty) &&
    (away.preg (away.topOf 0) 0x085 == 0 || away.preg (away.topOf 0) 0x086 == 0) && set.preg 0 0x082 != 0 && decide ((pendE 4).attempts ≤ s.wsRt p) := by decide +kernel

/-- Evictions: the clock of the scores, and relinquishing a pinned page and one that is already leaving. -/
theorem witness_EvictionsInTime :
    let held := fun (f : WayS → WayS) => ev ((resident f).setPreg 0 0x080 0x80000000) [0]
    let lock := held (fun w => { w with copies := [{ copyE with pinned := true }] })
    let going := held (fun w => { w with evicts := [evictE 1 true] })
    decide (5 * (away.time - away.way.halved) < 12 * 2 ^ 20) && decide (12 * 2 ^ 20 ≤ 5 * (({ away with time := 2516583 } : State).time - away.way.halved)) &&
    lock.pinned { copyE with pinned := true } && lock.way.evicts == [] && going.way.evicts.any (fun z => z.key == (evictE 1 true).key) &&
    (resident id).way.copies.all (fun c => ((resident id).leavesOf c.world (c.vpn * 4096) c.size).1.all (fun l => lfV l.2 && lfHome l.2 && entFrame l.2 == c.frame)) &&
    tget [] (resident id).xl.pools 0 == [] := by decide +kernel

/-- Requests that wait at the directory behind another of their page, one that is tried again, and an invalidation behind another. -/
theorem witness_WaitingRequests :
    let s := dirSt (mEnt 0 0 9) [4, 2, 1, 0, 5, 0]
    let behind := waySt s (fun w => { w with waits := [(.directoryLookup, ⟨[7, 2, 1, 0, 5, 0], []⟩)] })
    let again : State := { behind with arg := ⟨[4, 2, 1, 0, 5, 0, 0, 0, 0, 0, 0, 0, 0, 0, 0, 1], []⟩ }
    let others := fun (s : State) (i : Instr) => s.way.waits.any (fun w => waitKey w.1 w.2 == waitKey i s.arg)
    let full := s.arg.again
    others behind .directoryLookup && !others s .directoryLookup && !full && again.arg.again && others again .directoryLookup &&
    behind.way.waits.all (fun y => y.1 == .directoryLookup || y.1 == .ownershipRequest || y.1 == .directoryEntryUpdate) := by decide +kernel

/-- Engines that are held, parties with their depots and candidates, priorities before and after a boundary, and a stop that comes later. -/
theorem witness_HeldAndLater :
    let cur := State.str (stEng (.str 0)) (fun t => { t with dbg := .halted })
    let e : Eng := { engE 1 0x58 [0] with st := 2, done := 1 }
    let s := plSt 0 none 0
    let pr : State := { s with sch := { s.sch with queues := [(3, { queueE with prio := 1, next := 2, wrote := 5 })] } }
    (withEng cur e).engHeld e && !(withEng (stEng (.str 0)) e).engHeld e && s.freeDepots == s && decide (s.prioNow 3 < 4) && (s.candidates 2 (lE 0) 0).testBit 5 &&
    pr.prioAt 5 3 == 1 && pr.prioAt 6 3 == 2 && (tfind s.sch.maps 3) == some ⟨true, 0⟩ &&
    !(guest 0 15).cur.stopLater := by decide +kernel

/-- Lanes that relock after their lease is held, or is over. -/
theorem witness_LateRelocks :
    let tuning := fun (st : Nat) => ev (leaseSt st ⟨9, 2, some 3, 0, 0, 0, 0, none, false⟩) [5]
    ((tuning 3).leaseAt 3).st == 3 && ((tuning 3).lane 5).st == 2 && ((tuning 4).leaseAt 3).st == 4 && ((tuning 4).lane 5).lease == some 3 &&
    (leaseSt 1 ⟨9, 0, none, 0, 0, 0, 0, none, false⟩).leaseOpen 3 := by decide +kernel

/-! ### Further cases of the clauses above -/

/-- A table whose first entry goes to 0x10014 with its join at 0x10080. -/
def tabSt (f : Str → Str) : State := State.str ((st0.setGran 16 0x00010000).putL2 true 1 512
  ⟨BitVec.ofNat 1024 (3 + 2 ^ 64 * 0x2000000005), false, false, 0, 0⟩) (fun t => f (pair (uni t 6 0) 4 0x10000))
def bodyFrom (a b : Dword) (t : Str) : Str := { t with lcount := [(0, 1)], lstart := [(0, a)], lend := [(0, b)] }

/-- The table beside no loop, bodies without the target, without the join and with both, a full stack, a sibling, at an outrider; an index at the count. -/
theorem witness_BranchTables :
    let sibling := tabSt (fun t => { t with p1 := { t.p0 with mask := 0 } })
    [tabSt id, tabSt (bodyFrom 8 12), tabSt (bodyFrom 0x10000 0x10020), tabSt (bodyFrom 0x10000 0x10100), tabSt (fun t => { t with stack := List.replicate 16 (.join 0) }),
      sibling, tabSt (fun t => { t with outrider := true, runs := true })].all (fun s => ready (.bri 4 6) s && gotUni s (uniMemOp 0 8 .load .none 0) 0x10000 3 &&
        gotUni s (uniMemOp 0 8 .load .none 0) 0x10008 0x2000000005) && sibling.cur.p1.state != .empty && sibling.cur.p1.hold != .frame &&
    ready (.bri 4 6) (tabSt (fun t => uni t 6 3)) := by decide +kernel

/-- R330: the join is opened as SETJ opens it; a full stack, an index at the count and a target out of the body trap. -/
theorem test_branch_tables :
    after (.bri 4 6) (tabSt id) (fun s => s.cur.stack == [.join 0x10080] && s.curp.pc == 0x10014) &&
    trapped (.bri 4 6) (tabSt (fun t => { t with stack := List.replicate 16 (.join 0) })) cDIVSTK &&
    trapped (.bri 4 6) (tabSt (bodyFrom 8 12)) cLOOP && trapped (.bri 4 6) (tabSt (bodyFrom 0x10000 0x10020)) cLOOP := by decide +kernel

/-- A WAITW and a BWAIT that look again, with the operands they kept; a fence that waits for a load; a return from a trap that stands. -/
theorem witness_WaitsThatLookAgain :
    let again := State.at_ stSp (fun p => { p with vals := [0, 2, 0, 0] })
    let bw := State.at_ (State.str stLine (fun t => pair (pair t 4 0x10000) 8 2)) (fun p => { p with vals := [0x10000, 2, 0, 0] })
    let busy : State := { st0 with nextOp := 9, mem := { st0.mem with reqs := [Req.mk0 7 3 .load .l2 st0.cur 0 false 0] } }
    let inTrap := State.str st0 (fun t => { t with traps := [⟨0, none, false, none⟩] })
    stSp.curp.vals == [] && ready (.waitw 8 10 2 1 2) again && gotUni again (waitOp 1 2) 0 3 && ready (.bwait 8 4 4) bw && gotUni bw (waitOp 0 4) 0x10000 3 &&
    allReady busy [.fence 5 0, .fence 5 1, .fence 5 2] && !busy.loadsSettled busy.curp && !busy.settled busy.curp &&
    ready .tret inTrap && inTrap.curp.level == 2 && (inTrap.cur.traps.map TrapRec.handler) == [inTrap.curp.id] && inTrap.cur.traps.all (fun r => !r.user) := by
  decide +kernel

/-- R301, R338: a re-check looks for the value it had at issue, whatever the register holds now; R338: a fence waits for what it orders. -/
theorem test_waits_that_look_again :
    after (.waitw 8 10 0 1 2) (State.at_ (State.str stSp (fun t => pair t 8 9)) (fun p => { p with vals := [0, 3, 0, 0] })) (fun s => s.curp.hold == .none && s.curp.pos == 0) &&
    after (.fence 5 1) { st0 with nextOp := 9, mem := { st0.mem with reqs := [Req.mk0 7 3 .store .l2 st0.cur 0 false 0] } } (fun s => s.curp.hold == .again) &&
    after .tret (State.str st0 (fun t => { t with traps := [⟨0, none, false, none⟩, ⟨1, none, false, none⟩] })) (fun s => s.cur.traps.length == 1) := by decide +kernel

/-- A path that fell out of a clause at 0x40 which ends one loop, two loops, or three. -/
def fell (counts : List Word) : State := State.str (State.at_ (stCode 0x10000FE0) (fun p => { p with left := some 0x40 })) (fun t => { t with
  lcount := (List.range counts.length).zip counts
  lstart := (List.range counts.length).map (fun k => (k, 0x20000))
  lend := (List.range counts.length).map (fun k => (k, 0x40)) })

theorem witness_LoopEnds :
    let ok := fun (s : State) (d : Nat) => (s.str? s.curUnit).isSome && !s.cur.outrider && mayStart s.cur s.curPath && s.curp.pos == 0 && s.curp.wrec == none &&
      s.argN 2 == 0 && s.curp.left == some 0x40 && s.cur.loops == d && (List.range d).all (fun k => tget 0 s.cur.lend k == 0x40) && !s.cur.diverged
    let torn := State.str (fell [2]) (fun t => { t with p1 := { t.p0 with mask := 0 } })
    ok (fell []) 0 && ok (fell [2]) 1 && ok (fell [1]) 1 && ok (fell [2, 1]) 2 && ok (fell [1, 1]) 2 && ok (fell [1, 1, 1]) 3 && torn.cur.diverged && torn.cur.loops == 1 &&
    mayStart torn.cur torn.curPath && (stCode 0x10000FE0).curp.left == none := by decide +kernel

/-- R334: the count goes down and the path back; the last pass closes the level, and the outer one that ends there goes round. -/
theorem test_loop_ends :
    after .clauseStart (fell [2]) (fun s => s.curp.pc == 0x20000 && s.curp.pos == 1 && tget 0 s.cur.lcount 0 == 1) &&
    after .clauseStart (fell [1]) (fun s => s.curp.pos == 1 && s.cur.loops == 0) &&
    after .clauseStart (fell [3, 1]) (fun s => s.curp.pc == 0x20000 && s.cur.loops == 1 && tget 0 s.cur.lcount 0 == 2) &&
    after .clauseStart (State.str (fell [2]) (fun t => { t with p1 := { t.p0 with mask := 0 } })) (fun s => s.cur.reg 0x023 == BitVec.ofNat 64 cLOOP) := by decide +kernel

/-- EXIT under a report and beside one to come, with the sibling at its join, over a suspended path, and of the last lanes; a party without strings. -/
theorem witness_LastExits :
    let half := State.str st0 (fun t => { t with p0 := { t.p0 with mask := 0xFF } })
    let held := State.str st0 (fun t => { t with reports := [⟨1, 2, 3, false, 0, 0, 0, 0, 0⟩] })
    let soon : State := { st0 with eng := { st0.eng with queue := [(3, ⟨1, 0, 3, 0, 0, 0, 2, false, 0x58, 4, 0, [0], [0], 0, 0, [], [], none, false, 0, [], [], 0, [], []⟩)] } }
    let waits := State.str half (fun t => { t with stack := [.join 0x40, .susp { t.p0 with mask := 0 }], p1 := { t.p0 with mask := 0xFFFFFF00, state := .joinWait } })
    let over1 := State.str half (fun t => { t with lmask := 0xFFFF, stack := [.join 0x40, .susp { t.p0 with mask := 0xFF00 }] })
    let gone : State := { st0 with sch := { st0.sch with parties := st0.sch.parties.map (fun e => (e.1, { e.2 with live := 0 })), launches := [(0, lE 0)] } }
    allReady held [.exit] && allReady soon [.exit] && soon.cur.reports == [] && soon.eng.queue.any (fun e => e.2.who == soon.cur.key && e.2.st == 4) &&
    ready .exit waits && (waits.cur.lmask &&& ~~~waits.curp.mask != 0) && waits.cur.p1.state == .joinWait && ready .exit over1 &&
    (over1.cur.lmask &&& ~~~over1.curp.mask == 0xFF00) && over1.cur.p1.state == .empty && ready .exit st0 && (st0.cur.lmask &&& ~~~st0.curp.mask == 0) &&
    st0.eng.queue == [] && (tfind st0.sch.parties st0.cur.party).isSome &&
    gone.sch.parties.all (fun e => e.2.live == 0 && !gone.engNames e.1 e.2 && (tfind gone.sch.launches e.2.launch).isSome) && gone.sch.parties.length == 1 := by decide +kernel

/-- R231, R239: the sibling passes its join; the suspended path comes back; the last lanes' party has a string less, and completion counts it. -/
theorem test_last_exits :
    after .exit (State.str st0 (fun t => { t with stack := [.join 0x40], p0 := { t.p0 with mask := 0xFF }, p1 := { t.p0 with mask := 0xFFFFFF00, state := .joinWait } }))
      (fun s => s.cur.p1.state == .running && s.cur.stack == [] && s.cur.lmask == 0xFFFFFF00) &&
    after .exit (State.str st0 (fun t => { t with p0 := { t.p0 with mask := 0xFF }, stack := [.join 0x40, .susp { t.p0 with mask := 0xFF00 }] }))
      (fun s => s.cur.p0.mask == 0xFF00 && s.cur.stack == []) &&
    after .exit { st0 with sch := { st0.sch with launches := [(0, ⟨BitVec.ofNat 1024 (2 ^ 335 + 2 ^ 321), 0, 0, [(0, 0)], 0⟩)] } }
      (fun s => s.sch.parties == [] && s.mem.zeroing.contains (0, 0, 4)) := by decide +kernel

/-- A REP of the given count and strides before a word, in a clause of two words. -/
def repSt (n x y z : Nat) (w : Word) : State := State.at_ { st0 with curWord := word 0x6C [(n, 18), (x, 15), (y, 12), (z, 9)] } (fun p => { p with words := [0, w] })

/-- A word that goes, and words that R313 names; the widest register a repeat may reach and the next. -/
theorem witness_RepeatForms :
    let w := word 0x00 [(8, 17), (4, 10), (2, 3)]
    [repSt 3 1 2 3 w, repSt 3 1 2 3 0xF4000000, repSt 3 1 2 3 (word 0x6C [])].all (fun s => ready (.rep 3 1 2 3) s &&
      s.curWord == (0x6C : BitVec 8) ++ (3 : BitVec 6) ++ (1 : BitVec 3) ++ (2 : BitVec 3) ++ (3 : BitVec 3) ++ (0 : BitVec 9)) &&
    repForm 0x00 == .va := by decide +kernel

/-- R313: a plain word is repeated; a uniform word, a REP, a last word, a stride for a predicate destination, an odd one for a pair and a register out of
range at the last repeat are ILLEGAL before any. -/
theorem test_repeat_forms :
    after (.rep 3 1 2 3) (repSt 3 1 2 3 (word 0x00 [(8, 17), (4, 10), (2, 3)])) (fun s => s.curp.rep && s.curp.pos == 2 && s.cur.repidx == 0) &&
    trapped (.rep 3 1 2 3) (repSt 3 1 2 3 0xF4000000) cILLEGAL && trapped (.rep 3 1 2 3) (repSt 3 1 2 3 (word 0x6C [])) cILLEGAL &&
    trapped (.rep 3 1 0 0) (repSt 3 1 0 0 (word 0x16 [])) cILLEGAL && trapped (.rep 3 0 0 1) (repSt 3 0 0 1 (word 0x40 [])) cILLEGAL &&
    trapped (.rep 63 2 0 0) (repSt 63 2 0 0 (word 0x00 [(4, 17)])) cILLEGAL := by decide +kernel

/-- A stack's request beside one of its partition that a ceiling held back before it, in a new window. -/
theorem witness_BandwidthTurns :
    let r : Req := { rq .load .hbm with world := 1, arrived := 5 }
    let s : State := { asks r with xl := { st0.xl with part := [(1, 0)] } }
    let behind : State := { s with mem := { s.mem with reqs := [r, { r with rid := 8, arrived := 4, held := true }] } }
    found s .hbm && s.physOf r.ident r.tag (r.line * 128) == some 0x100000 && !s.bandFull (stackOf 0x100000) (s.partOf 1) && s.bandTurn (stackOf 0x100000) r &&
    found behind .hbm && !behind.bandFull (stackOf 0x100000) (behind.partOf 1) && !behind.bandTurn (stackOf 0x100000) r && decide (s.time / 3600 = s.mem.window) &&
    decide (({ s with time := 3600 } : State).time / 3600 ≠ s.mem.window) := by decide +kernel

/-- R286: a request over its partition's ceiling waits and is marked; R138: one whose turn it is is read. -/
theorem test_bandwidth :
    let r : Req := { rq .load .hbm with world := 1 }
    let s : State := { asks r with xl := { st0.xl with part := [(1, 0)] } }
    after .hbmRequest s (fun s => s.mem.reqs.all (fun e => e.stage == .fill && e.got.isSome)) &&
    after .hbmRequest { s with mem := { s.mem with bw := [(stackOf 0x100000 * 32, 2 ^ 40)] } } (fun s => s.mem.reqs.all (fun e => e.stage == .hbm && e.held)) := by
  decide +kernel

/-- The second stage's permissions and an offline granule, each alone. -/
theorem witness_SecondStageChecks :
    let u := bitOf lfUser ||| bitOf lfW ||| bitOf lfX
    let fault := fun (e : TlbE) (acc : Nat) (offline : Bool) (c r : Nat) => match leafCheck e acc 0 true 2 false offline with
      | some (.trap f) => f.cause == c && f.reason == r && f.level == 2 && f.stage == 1
      | _ => false
    fault (leafE u true true false 0) 3 false 5 10 && fault (leafE u false true true 0) 0 false 5 10 && fault (leafE u true true true 0) 0 true 4 11 &&
    fault (leafE u true false true 0) 1 false 5 10 := by decide +kernel

/-- Shootdowns of each kind beside an entry that stays. -/
theorem witness_ShootdownKinds :
    let e := fun (w : Nat) => (⟨w, 0x100, 0, 0x100, 0, true, true, true, []⟩ : TlbE)
    let s : State := { st0 with xl := { st0.xl with part := [(1, 0), (2, 1)], dtlb := [(0, [e 1, e 2])], ctlb := [(0, [e 1, e 2])], ftlb := [(0, [e 1, e 2])] } }
    let left := fun (s : State) => ((tget [] s.xl.dtlb 0).map TlbE.world, (tget [] s.xl.ctlb 0).map TlbE.world, (tget [] s.xl.ftlb 0).map TlbE.world)
    left (s.shoot 2 1 0) == ([1], [1], [1]) && left (s.shoot 3 0 0) == ([], [], []) && left (s.shoot 4 1 0x100000) == ([1], [1], [1]) &&
    left (s.shoot 5 1 0) == ([1], [1], [1]) && left (s.shoot 4 1 0x101000) == ([1, 2], [1, 2], [1, 2]) && left (s.shoot 1 2 0) == ([1], [1], [1]) &&
    s.topPart 2 == some 1 && s.partOf 1 == some 0 := by decide +kernel

/-- The steward's string with partition 3 selected, a guest of world 1, and registers of each kind. -/
theorem witness_ScopedRegisters :
    let sel := State.str st0 (fun t => uni (uni (t.setReg 0x062 3) 4 0xFFFFFFFF) 5 0xFFFFFFFF)
    let user := State.at_ st0 (fun p => { p with level := 0 })
    let may := fun (n : Nat) => (sysRow n).any (fun x => match x.wr with
      | .level l => decide (l ≤ 2)
      | .handler => decide (st0.cur.trapLevel ≤ 2)
      | _ => true)
    let nums : List Nat := [0x063, 0x0C0, 0x012, 0x0EA, 0x086, 0x0D9, 0x073, 0x0A8, 0x0F0, 0x0A5, 0x0DA, 0x0D5, 0x0D6, 0x085, 0x0A2, 0x0BA, 0x0BB, 0x0BC, 0x0F4]
    nums.all (fun n => ready (.sysw 4 (BitVec.ofNat 12 n)) sel && may n) && (sel.cur.reg 0x062).toNat == 3 && sel.curp.level == 2 && sel.topOf 3 == 3 &&
    (sel.cur.spair 4).toNat.testBit 31 && sel.cur.world == 0 && sel.topPart 1 == none && (guest 0 15).cur.world == 1 && (guest 0 15).partOf 1 == some 0 &&
    user.str? user.curUnit == some user.cur && legal user.cur (.sysw 4 0x022) && (sysRow 0x022).any (fun x => x.wr == .level 2) && user.curp.level == 0 := by decide +kernel

/-- R8, R10, R304: a register of a partition is the selected one's; fields outside their range take its nearest value. -/
theorem test_scoped_registers :
    let sel := fun (v : Dword) => State.str st0 (fun t => pair (t.setReg 0x062 3) 4 v)
    after (.sysw 4 0x0D9) (sel 0x1040) (fun s => s.preg 3 0x0D9 == 0x1040) && after (.sysw 4 0x0F0) (sel 9) (fun s => s.pkg 0x0F0 == 1200) &&
    after (.sysw 4 0x085) (sel 0x103F) (fun s => s.preg 3 0x085 == 0x1016) && after (.sysw 4 0x0D5) (sel 0x50000) (fun s => s.preg 3 0x0D5 == 0x50100) &&
    after (.sysw 4 0x0A2) (sel 9) (fun s => s.agenda.length == st0.agenda.length + 1) := by decide +kernel

/-- The steward's acts on worlds and partitions: a world no string has, one a string has; a partition to be stopped; and a string that is no steward. -/
theorem witness_StewardActs :
    let act := fun (s : State) (l : List Nat) => ({ s with arg := ⟨[0, 0] ++ l, []⟩ } : State)
    let busy := act (guest 0 15) [4097, 1]
    [act st0 [4096, 7, 2], act st0 [4097, 7], act st0 [4098, 2], act st0 [4099, 2]].all (fun s => s.str? s.curUnit == some s.cur && s.curp.live && s.curp.level == 2) &&
    (act st0 [4096, 7, 2]).unused 7 && (act st0 [4097, 7]).unused 7 && busy.strs.any (fun e => !e.2.outrider && e.2.world == 1) && !busy.unused 1 && busy.curp.live &&
    (let user := act (State.at_ st0 (fun p => { p with level := 0 })) [4098, 2]
     user.str? user.curUnit == some user.cur && user.curp.level == 0 && user.argN 2 == 4098) := by decide +kernel

/-- R10, R289, R443: binding and its end; a partition that is held, and let go. -/
theorem test_steward_acts :
    let act := fun (s : State) (l : List Nat) => ({ s with arg := ⟨[0, 0] ++ l, []⟩ } : State)
    after .systemRegisterWrite (act st0 [4096, 7, 2]) (fun s => s.partOf 7 == some 2 && after .systemRegisterWrite (act s [4097, 7]) (fun s => s.partOf 7 == none)) &&
    after .systemRegisterWrite (act st0 [4098, 2]) (fun s => s.sch.held == [2] && after .systemRegisterWrite (act s [4099, 2]) (fun s => s.sch.held == [])) := by
  decide +kernel

/-- Frames that wait for their rings: the first partition's ring is full, the second's is not, or there is none; and a ring alone that is full. -/
def rings (more : List (Nat × Nat × Nat)) (base : Dword) : State :=
  let s := ((withEnt away (64 + 6 * 2 ^ 192)).setPreg 0 0x0EB 0x105000).setPreg 3 0x0EB base
  { s with xl := { s.xl with ringWait := (0, 0x106000, 1) :: more } }

theorem witness_FrameRings :
    let at_ := fun (s : State) (k : Nat) => (s.hubRead (some 0) (0x105000 + k) 8).map Prod.fst
    let s := rings [(3, 0x200000, 1)] 0
    (at_ s 0, at_ s 8, at_ s 24) == (some 64, some 0, some 6) && (s.preg 0 0x0EB).toNat == 0x105000 && s.topOf 0 == 0 && s.topOf 3 == 3 && s.preg 3 0x0EB == 0 &&
    (rings [] 0).xl.ringWait.length == 1 && after .frameRingWrite (rings [] 0) (fun s => s == rings [] 0) := by decide +kernel

/-- R445: a full ring keeps back its own partition's frames alone; with sys.frring 0 the frame is scrubbed. -/
theorem test_frame_rings :
    after .frameRingWrite (rings [(3, 0x200000, 1)] 0) (fun s => s.xl.ringWait == [(0, 0x106000, 1)] && s.xl.scrubs.map (fun j => (j.part, j.gpa)) == [(3, 0x200000)]) &&
    after .frameRingWrite { rings [] 0 with xl := { (rings [] 0).xl with ringWait := [(0, 0x106000, 1), (0, 0x107000, 1)] } } (fun s => s.xl.ringWait.length == 2) := by
  decide +kernel

/-- A page read for package 4 that the gate lets go, that it refuses, that an attested package asks for, and of the package's own. -/
def readSt (gran : Word) (peer : Nat) : State := ev (away.setGran 0x106 gran) [peer, 4, 1, 0, 5, 0x106000, 0, 7]

theorem witness_PageReads :
    let ok := fun (s : State) => match s.topPart 1 with
      | none => 9
      | some q => let s1 := s.claimFrame q (s.argN 5) 0
        let m := s1.entryMoved (s.argN 0) 1 0 5 (s.argN 6)
        if !s1.ownsFrame q 1 (s.argN 5) 0 || m.1 then 9
        else let (_, wbs, _, s2) := m.2.pageData 1 0 (s.argN 5)
          let part : Egress := ⟨1, wbs.foldl (fun a v => a ||| BitVec.ofNat 16 v) 0, destPackage (s.argN 0), 4096⟩
          if s.argN 0 = s2.me then 1 else if tget false s2.tr.attested (1024 + s.argN 0) then 2 else
            match s2.gate [part] with
            | .ok _ => 3
            | .error _ => 4
    ok (readSt 0x00010000 4) == 3 && ok (readSt 0x00010001 4) == 4 && ok (readSt 0x00010001 away.me) == 1 &&
    ok { readSt 0x00010001 4 with tr := { away.tr with attested := [(1028, true)] } } == 2 := by decide +kernel

/-- R431, R432: page data with a restricted origin goes to a package attested for the world, and is refused to another. -/
theorem test_page_reads :
    after .pageRead (readSt 0x00010001 4) (fun s => s.preg 0 0x0E7 != (readSt 0x00010001 4).preg 0 0x0E7) &&
    after .pageRead { readSt 0x00010001 4 with tr := { away.tr with attested := [(1028, true)] } } (fun s => s.preg 0 0x0E7 == (readSt 0x00010001 4).preg 0 0x0E7) := by
  decide +kernel

/-- Flits of a package that is no member, and of one before the links start; buffers above and below what the pair is to have; a drain to the package itself. -/
theorem witness_PairsAndBuffers :
    let off := { (fabSt live5 []) with fab := { (fabSt live5 []).fab with started := false } }
    let puts := State.at_ { State.str (fabSt live5 []) (fun t => uni t 4 0) with
      eng := { st0.eng with queue := [(3, ⟨2, 0, 0, 0, 0, 0, 2, false, 0x56, 1, 0, [0, 0, 1, 0], [], 0, 0, [], [], none, false, 0, [], [], 0, [], []⟩)] } } (fun p => { p with binds := [(1, 3)] })
    (fabSt live5 []).isMember 9 && !(fabSt live5 []).isMember 8 && !(fabSt live5 []).liveTo 8 && !off.fab.started && (ev (fabSt live5 []) [8]).argN 0 == 8 &&
    (Pair.blank.freed.owed, { Pair.blank with want := 7 }.freed.bufs) == (1, 7) && allReady puts [.drain 4 0] && puts.me == 0 && puts.putsLeft puts.cur puts.curp 0 == [3] &&
    (ev (fabSt live5 []) [9, 6]).pair 9 == Pair.blank := by decide +kernel

/-- R178, R188: a flit of a package that is no member changes nothing; a drain waits for puts to the package itself. -/
theorem test_pairs_and_buffers :
    after .flitReceive (ev (fabSt live5 []) [8, 5, 0, 1, 0, 0, 0, 5, 1, 0, 1]) (fun s => s == ev (fabSt live5 []) [8, 5, 0, 1, 0, 0, 0, 5, 1, 0, 1]) &&
    after .managerMessage (ev (fabSt live5 []) [9, 0, 1028, 20]) (fun s => ((s.pair 9).want, (s.pair 9).bufs) == (20, 20)) := by decide +kernel

/-- Planes whose end here is pooled, is dark, is the pair's only lane, is one of two by default, is leased by the partner and by this package. -/
theorem witness_EndsOfPlanes :
    let ln := fun (st : Nat) (l far : Option Nat) => ([(5, ⟨9, 0, none, 0, 0, 0, 0, none, false⟩), (6, ⟨9, st, l, 0, 0, 0, 0, far, false⟩)] : Table Lane)
    let s := fun st l far => (fabSt (ln st l far) [])
    let leased := { (s 0 (some 3) none) with fab := { (s 0 (some 3) none).fab with leases := [(3, leaseE 4)] } }
    (s 1 none none).endOf 6 8 == some (0, 0) && (s 2 none none).endOf 6 8 == none && (s 0 none none).endOf 6 9 == none && (fabSt live5 []).endOf 5 8 == none &&
    (s 0 none none).lanesTo 9 == 2 && (s 0 none none).endOf 6 8 == some (1, 0) && (s 0 none (some 0)).endOf 6 8 == some (2, 0) && (s 0 none (some 9)).endOf 6 8 == none &&
    leased.endOf 6 8 == some (2, 50) && (s 0 (some 3) none).endOf 6 8 == none &&
    ({ (fabSt live5 []) with fab := { (fabSt live5 []).fab with full := [(9, true)] } }).noneThere 9 := by decide +kernel

/-- Messages of the lane manager: its lanes of both kinds, a partner's lease, room at the other end, a return to the default pairing that is taken and one that is not. -/
theorem witness_ManagerMessages :
    let two : Table Lane := [(5, ⟨9, 0, none, 0, 0, 0, 0, none, false⟩), (6, ⟨9, 0, none, 0, 0, 0, 0, none, false⟩)]
    let pool : Table Lane := [(5, ⟨9, 0, none, 0, 0, 0, 0, none, false⟩), (6, ⟨1024, 1, none, 0, 0, 0, 0, none, false⟩)]
    let retr : Table Lane := [(6, ⟨1024, 3, none, 0, 0, 0, 0, none, true⟩)]
    let m := fun (t : Table Lane) (l : List Nat) => ev (fabSt t []) l
    (m pool [9, 6, 9, 0]).grantable 6 9 && (m pool [9, 6, 9, 51]).argN 3 == 51 && (m two [9, 6, 1024]).grantable 6 1024 && (m two [9, 0, 1027, 1]).isMember 9 &&
    (m pool [9, 6, 1025, 0]).defaultPeer 6 == some 9 && ((m pool []).lane 6).peer == 1024 && ((m retr []).lane 6).st == 3 && (m pool []).freeEnd 6 && (m pool []).reaches 9 &&
    (m two []).freeEnd 6 && ((m two []).lane 6).peer == 9 && ((m two []).lane 6).st != 1 && !(m retr []).freeEnd 6 := by decide +kernel

/-- R171, R173: the plane is paired with the partner that was granted it, its lease's end kept; the default pairing comes back; and is refused where the lane has it. -/
theorem test_manager_messages :
    let pool : Table Lane := [(5, ⟨9, 0, none, 0, 0, 0, 0, none, false⟩), (6, ⟨1024, 1, none, 0, 0, 0, 0, none, false⟩)]
    after .managerMessage (ev (fabSt pool []) [9, 6, 9, 51]) (fun s => s.lane 6 == ⟨9, 2, none, 0, 0, 0, 0, some 50, false⟩) &&
    after .managerMessage (ev (fabSt pool []) [9, 6, 1026]) (fun s => (s.lane 6).peer == 9 && (s.lane 6).st == 2) &&
    after .managerMessage (ev (fabSt pool []) [9, 6, 1025, 0]) (fun s => (s.lane 6).peer == 9 && (s.lane 6).st == 2) := by decide +kernel

/-- Lanes that retrain toward nobody, or paired anew; a leaving peer's last lane; a member that goes; and re-pairing with other members, beside lanes that have
that pairing already. -/
theorem witness_LanesThatMove :
    let ln := fun (p st : Nat) (moved : Bool) => fabSt [(5, ⟨p, st, none, 0, 0, 0, 2, none, moved⟩)] []
    let gone := ev { (ln 9 3 false).setPkg 0x0A4 3 with fab := { (ln 9 3 false).fab with peers := [(9, 3)] } } [5, 6, 0, 0]
    let other := fun (st p : Nat) => { (ln p st false) with fab := { (ln p st false).fab with basis := [0, 8, 9] } }
    (ev (ln 1024 3 false) [5]).argN 0 == 5 && ((ln 9 3 true).lane 5).moved && gone.isMember 9 && !gone.reaches 9 && gone.lanesTo 9 == 1 && ((gone.pkg 0x0A4).extractLsb' 0 2).toNat == 3 &&
    ((fabSt live5 []).hubRead none (((fabSt live5 []).pkg 0x0A1).toNat + 72) 8).any (fun r => r.1 % 2 == 0) &&
    (fabSt live5 []).members == [0, 9] && (fabSt live5 []).members.all (fun p => (fabSt live5 []).peerBits p / 2 % 2 != 1) && (fabSt live5 []).fab.basis != [0, 9] &&
    defaultIn [0, 8, 9] 0 5 != some 9 && (other 0 9).defaultPeer 5 == some 9 && ((other 0 9).lane 5).peer == 9 && ((other 1 1024).lane 5).st == 1 && ((other 0 8).lane 5).peer == 8 := by
  decide +kernel

/-- R189, R192, R193: a lane paired anew while it retrained trains again toward its peer; a leaving peer that loses its last lane has failed. -/
theorem test_lanes_that_move :
    after .retrainComplete (ev (fabSt [(5, ⟨9, 3, none, 0, 0, 0, 1, none, true⟩)] []) [5]) (fun s => (s.lane 5).st == 2) &&
    after .retrainComplete (ev (fabSt [(5, ⟨1024, 3, none, 0, 0, 0, 1, none, true⟩)] []) [5]) (fun s => (s.lane 5).st == 1) &&
    (let s := (fabSt [(5, ⟨9, 3, none, 0, 0, 0, 2, none, false⟩)] []).setPkg 0x0A4 3
     after .retrainFailure (ev { s with fab := { s.fab with peers := [(9, 3)] } } [5, 6, 0, 0]) (fun s => (s.lane 5).st == 4 && s.peerBits 9 / 4 == 1)) := by decide +kernel

/-- The eight pieces of a whole line at offset 0x5000. -/
def wholeLine : List Nat := (List.range 8).flatMap (fun k => [k, 0x5000 + 16 * k, 16, 7, 0])

/-- What an access of a page with the leaf meets: its region, ATOM and whether the gate lets it go. -/
def inbAt (s : State) (kind : Nat) : Option (Region × Bool × Bool) :=
  match s.xlate 0 1 0x5004 (if kind = 0 then 0 else if kind = 1 then 1 else 2) 0 with
  | (.ok y, s) => some (y.region, y.atom, match s.gate (inboundParts s 1 (inboundOp kind 4 0) y 4 3) with
    | .ok _ => true
    | .error _ => false)
  | _ => none

theorem witness_InboundLines :
    let w := inb 0x10600B 1 wholeLine
    let ls := piecesIn (w.arg.n.drop 6)
    supported 1 0 ls && ls.length == 8 && coverage 128 ls == 2 ^ 128 - 1 && (w.l2? false 1 (0x106000 / 128)).isNone && !supported 1 0 (ls ++ ls) && !supported 0 0 ls &&
    inbAt (((inb (0x106009 ||| bitOf lfZero) 0 piece).setPreg 0 0x064 0x106000).setPreg 0 0x065 27) 0 == some (.hbm, true, true) && inbAt (inb 0x10600B 1 piece) 1 == some (.hbm, false, true) := by decide +kernel

/-- R81, R428: a whole line that is not in the L2 is written without a read, and its waybill is the store's alone; R91: a poisoned word is not given out. -/
theorem test_inbound_lines :
    after .inboundAccess (inb 0x10600B 1 wholeLine) (fun s => match s.l2? false 1 (0x106000 / 128) with
      | some l => lineGet l.data 0 8 == 7 && l.wb == 3 && l.dirty && l.poison == 0
      | none => false) &&
    after .inboundAccess ((inb 0x10600B 0 piece).putL2 false 1 (0x106000 / 128) ⟨0, false, false, 0, 3⟩) (fun s =>
      s.outbox.map (fun m => (m.n.drop 2).getD 4 0) == [cPOISON]) := by decide +kernel

/-- A store beside a full counter, one whose passes cannot leave, a load of the package's own memory first, and lanes that a policy pays one at a time. -/
theorem witness_RemoteRoom :
    let go := remSt 8 0
    let full : State := { go with sch := { go.sch with outstanding := [(outKey go.cur 0, 65535)] } }
    let dead : State := { go with fab := { go.fab with lanes := [] } }
    let own := remSt 0 0
    let pol : Policy := ⟨1, 3, 6, 2 ^ 30, [BitVec.ofNat 256 (4 * 2 ^ 56 + 8 * 2 ^ 30 + 2 * 1), BitVec.ofNat 256 (4 * 2 ^ 56 + 9 * 2 ^ 30)], []⟩
    let poor : State := { remSt 8 2 with tr := { st0.tr with policies := [(3, pol)] } }
    let parts := remParts poor 1 (remWb poor) (remL poor 4)
    let pays := fun (es : List Egress) => match poor.gate es with
      | .ok _ => true
      | .error _ => false
    allReady full [.rst 8 2 4 2 0] && full.settled full.curp && !decide (tget 0 full.sch.outstanding (outKey full.cur 0) + 2 ≤ 65535) && allReady dead [.rst 8 2 4 2 0] &&
    !dead.liveTo 8 && !dead.liveTo 9 && slotFlag 0x10000FE0 0 == some 0 && (own.nowhereAt 1 0 ((remL own 4).filter (fun x => x.peer == own.me) |>.map (fun x => x.r.addr))).isNone && remPays own &&
    parts.length == 2 && !pays parts && parts.all (fun e => pays [e]) &&
    (passReqs false (remL go 4)).length == 1 && ((remL go 4).map RemLane.peer) == [9, 8] := by decide +kernel

/-- R182: of two refused lanes the lowest is named; R282: a store that would carry the counter past its limit waits; R380: its flag stays set until it left. -/
theorem test_remote_room :
    let go := remSt 8 0
    after (.rst 8 2 4 2 0) { go with sch := { go.sch with outstanding := [(outKey go.cur 0, 65535)] } } (fun s => s.curp.hold == .again) &&
    after (.rst 8 2 4 2 0) (State.at_ { go with fab := { go.fab with lanes := [] } } (fun p => { p with hdr := 0x10000FE0 })) (fun s => s.curp.binds.length == 1 && s.fab.rems.length == 2) &&
    after (.rst 8 2 4 2 0) (remSt 8 2) (fun s => s.cur.reg 0x023 == BitVec.ofNat 64 cEGRESS && s.curp.tinfo.toNat / 2 ^ 27 == 0) := by decide +kernel

/-- A string's MACQ behind a load and behind a plain store, and outriders that are asked to stop while they are inside a clause. -/
def outSt (pos : Nat) (more : Table OutStop) : State :=
  let s := (copySt 0x44).putStr 32 { Str.blankOut with outrider := true, runs := true, bound := 0, p0 := { Path.blank with pos := pos, state := .running } }
  ev { s with eng := { s.eng with stops := more }, nextOp := 9 } [7]

theorem witness_AskedOutriders :
    let before := fun (k : ReqKind) => { copySt 0x44 with nextOp := 9, mem := { (copySt 0x44).mem with reqs := [Req.mk0 7 3 k .l2 st0.cur 0 false 0] } }
    let asked := outSt 0 [(5, ⟨32, none⟩)]
    let starts : State := outSt 0 [(7, ⟨32, some { Str.blankOut with outrider := true, runs := true, party := st0.cur.party, index := (copySt 0x44).cur.index }⟩)]
    let told := ev ((copySt 0x44).putStr 32 { Str.blankOut with outrider := true, bound := 0, told := true }) [0, 3, 0]
    let quiet := ev ((copySt 0x44).putStr 32 { Str.blankOut with outrider := true, bound := 0 }) [0, 3, 0]
    let cut := { withEng (stEng (.str 0)) { engE 0 0x4B [0] with st := 4 } with arg := ⟨[0, 0, 3], []⟩ }
    allReady (before .load) [.macq 0 1 0 8] && !((before .load).earlier 0 (before .load).curp 9).isEmpty && allReady (before .store) [.macq 0 1 0 8] &&
    ((before .store).earlier 0 (before .store).curp 9).all (fun e => e.kind == .store && !e.acq && decide ((before .store).curp.saved ≤ e.op)) &&
    (outSt 3 []).outBusy 32 && ready (.ostart 0 0 10 4 8) (outSt 3 []) && ready (.ostop 0 0) (outSt 3 []) && asked.outAsked 32 && !asked.outBusy 32 && ready (.ostop 0 0) asked &&
    !(outSt 0 []).outAsked 32 && !(outSt 0 []).outBusy 32 && ready (.ostop 0 0) (outSt 0 []) &&
    (tfind (outSt 3 [(7, ⟨32, none⟩)]).eng.queue 7).isNone && (tfind starts.eng.stops 7).isSome && (starts.str? 0).any (fun b => b.party == st0.cur.party) &&
    (told.str? 32).any (fun o => o.outrider && o.bound == 0 && o.told) && (quiet.str? 32).any (fun o => !o.told) &&
    (cut.eng.queue.find? (fun x => x.2.unit == cut.argN 1 && x.2.core == 0 && x.2.idx == 3 && x.2.who == cut.cur.key)).isSome && cut.argN 1 == 0 := by decide +kernel

/-- R416 to R418: an outrider inside a clause is asked, and the flag is bound until it has stopped at its boundary; then it starts anew where OSTART asked;
only one that stopped under a report is told to run on. R137: MACQ waits for the load before it. -/
theorem test_asked_outriders :
    after (.ostop 0 0) (State.at_ (outSt 3 []) (fun p => { p with hdr := 0x10000FE0 })) (fun s => s.curp.binds.length == 1 && s.eng.stops.length == 1 && (s.str? 32).any (fun o => o.runs)) &&
    after .engineCommit (outSt 3 [(7, ⟨32, none⟩)]) (fun s => s.eng.stops.length == 1) &&
    after .engineCommit (outSt 0 [(7, ⟨32, none⟩)]) (fun s => s.eng.stops == [] && (s.str? 32).any (fun o => !o.runs)) &&
    after .engineRestart (ev ((copySt 0x44).putStr 32 { Str.blankOut with outrider := true, bound := 0, told := true }) [0, 3, 0]) (fun s => (s.str? 32).any (fun o => o.runs)) &&
    after .engineRestart (ev ((copySt 0x44).putStr 32 { Str.blankOut with outrider := true, bound := 0 }) [0, 3, 0]) (fun s => (s.str? 32).any (fun o => !o.runs)) &&
    after (.macq 0 1 0 8) { copySt 0x44 with nextOp := 9, mem := { (copySt 0x44).mem with reqs := [Req.mk0 7 3 .load .l2 st0.cur 0 false 0] } } (fun s => s.curp.hold == .again) := by
  decide +kernel

/-- Slices of a partition with a context store and of one without. -/
theorem witness_SlicesAndStores :
    let q := (plSt (60 * 2 ^ 292) none 0).setPreg 1 0x0C4 0
    let p : Party := { (tfind st0.sch.parties 0).getD ⟨0, 0, 0, 0, 0, 0, 0, [], [], 0, [], [], 0, false, 0, false⟩ with world := 2, slice := 0 }
    let s : State := ev { q with time := 3600000, sch := { q.sch with parties := [(0, p)], slotTime := [(1, 5)] } } [0]
    let kept := s.setPreg 1 0x0C4 7
    tfind s.sch.parties 0 == some p && s.partOf 2 == some 1 && (s.preg 1 0x0C4).extractLsb' 0 24 == 0 && (kept.preg 1 0x0C4).extractLsb' 0 24 == 7 && decide (kept.floor 1 < kept.used 1) &&
    ({ kept with sch := { kept.sch with parties := [(0, { p with slice := kept.time })] } } : State).otherWaits 0 1 && !p.stopping &&
    decide (100 * 3600 * ((kept.preg 1 0x0D5).extractLsb' 8 8).toNat ≤ kept.time) := by decide +kernel

/-- Two granules to seal: the second one free, sealed, not canonical, and with a full log; a policy that waits for the accesses before it; nonces before the start. -/
theorem witness_SealingMore :
    let a := sealSt 0x106000 2
    let top := sealSt 0x00FFFFFFFFFFF000 2
    let busy := { polSt (polRec 0 (2 ^ 30) 1 4) 4 with nextOp := 9 }
    let busy : State := { busy with mem := { busy.mem with reqs := [Req.mk0 7 3 .load .l2 busy.cur 0 false 0] } }
    ready (.seal 8 4 6) a && a.sealHeld 0 a.curp.level 0 0x106000 2 == false && sealX a == 4 && sealX (sealSt 0x107000 1) == 4 && canonical 0x107000 &&
    !canonical (BitVec.ofNat 64 (((top.cur.spair 4).toNat + 4096) % 2 ^ 64)) && ready (.gpolIns 8 4) busy && !busy.settled busy.curp &&
    !({ attSt 1 [9, 0] live5 with boot := { st0.boot with started := false } } : State).boot.started && (attSt 1 [9, 0] live5).boot.started && (attSt 1 [9, 0] live5).nv.idLeaf == 0 := by decide +kernel

/-- R345: each granule of the range in order, and the count of those that were open. R442: before the start no nonce is answered. -/
theorem test_sealing_more :
    after (.seal 8 4 6) (sealSt 0x106000 2) (fun s => s.cur.sget 8 == 2 && granSealed (s.gran 0x106) && granSealed (s.gran 0x107) && s.tr.log.length == 2) &&
    after (.seal 8 4 6) ((sealSt 0x106000 2).setGran 0x106 0x80000000) (fun s => s.cur.sget 8 == 1 && granSealed (s.gran 0x107)) &&
    after .attestNonceReceive { attSt 1 [9, 0] live5 with boot := { st0.boot with started := false } } (fun s => s.nv.idLeaf == 0 && s.outbox == []) := by decide +kernel

/-- A poisoned source of a lane word, of a uniform word, of a word that is ILLEGAL and of one that is privileged. -/
theorem witness_PoisonedSources :
    let bad := State.str stMem (fun t => { t with regPoison := [4, 128 + 4] })
    let user := State.at_ bad (fun p => { p with level := 0 })
    poisonedRead bad.cur (.iadd 8 4 5 0) == some 4 && legal bad.cur (.iadd 8 4 5 0) && poisonedRead bad.cur (.sadd 8 4 5) == some 132 && bad.curp.vals == [] &&
    legal user.cur (.sysw 4 0x022) && poisonedRead user.cur (.sysw 4 0x022) == some 132 && minLevel (.iadd 8 4 5 0) == 0 && !oncePerString (.iadd 8 4 5 0) := by decide +kernel

/-- R91, R301: the register's number is reported, with the lowest active lane of a lane word; SYSW's privilege goes before it. -/
theorem test_poisoned_sources :
    let bad := State.str stMem (fun t => { t with regPoison := [4, 128 + 4] })
    trapped (.iadd 8 4 5 0) bad cPOISON && after (.iadd 8 4 5 0) (State.at_ bad (fun p => { p with cmask := 0xF0 })) (fun s => s.cur.reg 0x025 == 4 && s.curp.tinfo.toNat / 2 ^ 27 == 4) &&
    after (.sadd 8 4 5) bad (fun s => s.cur.reg 0x025 == 4 && s.curp.tinfo == 0) &&
    trapped (.sysw 4 0x022) (State.at_ bad (fun p => { p with level := 0 })) cPRIV := by decide +kernel

end Sys2Proof.Tests
end

section
/-! The checks of a leaf (O27): R24's table in three parts, the user bit, the second stage, and the leaf's own bits. -/

namespace Sys2Proof.Machine

theorem isWrite_iff (acc : Nat) : isWrite acc = true ↔ acc = 1 ∨ acc = 2 ∨ acc = 5 ∨ acc = 7 := by
  simp [isWrite, or_assoc]

/-- The level of a leaf, as sys.tinfo names it (R39). -/
def TlbE.leafLevel (e : TlbE) : Nat := if e.size ≤ 1 then 0 else e.size - 1

/-- Checks 2 and 3: a user's access needs a user's leaf, and a fetch of anyone else a leaf that is not the users'. -/
def TlbE.UserOk (e : TlbE) (acc lvl : Nat) : Prop := (lvl = 0 → lfUser e.leaf = true) ∧ (lvl ≠ 0 → acc = 3 → lfUser e.leaf = false)

/-- Does the second stage grant the access (check 4)? -/
def TlbE.granted (e : TlbE) (acc : Nat) : Bool := if isWrite acc then e.wr else if acc = 3 then e.ex else e.rd

/-- The checks of the leaf's own bits, from the seal on (checks 5 to 9). -/
def TlbE.bitCheck (e : TlbE) (acc : Nat) (sealed_ : Bool) : Option XRes :=
  if isWrite acc then
    if lfSeal e.leaf || sealed_ then some (.trap ⟨35, cSEALED, 12, e.leafLevel, 0⟩)
    else if lfW e.leaf then none
    else if lfHome e.leaf then some (.park e.size true) else some (.trap ⟨36, cPROT, 4, e.leafLevel, 0⟩)
  else if acc = 3 then
    if lfX e.leaf = false then some (.trap ⟨37, cPROT, 5, e.leafLevel, 0⟩)
    else if sealed_ then none else some (.trap ⟨38, cPROT, 8, e.leafLevel, 0⟩)
  else none

/-- Check 4 and what follows it. -/
def TlbE.stage2Check (e : TlbE) (acc : Nat) (mapped : Bool) (s2lvl : Nat) (sealed_ offline : Bool) : Option XRes :=
  if !mapped then some (.trap ⟨34, cPAGE, 9, s2lvl, 1⟩)
  else if !e.granted acc then some (.trap ⟨34, cPROT, 10, s2lvl, 1⟩)
  else if offline then some (.trap ⟨34, cPAGE, 11, s2lvl, 1⟩)
  else e.bitCheck acc sealed_

variable {e : TlbE} {acc lvl s2lvl : Nat} {mapped sealed_ offline : Bool}

theorem leafCheck_not_user (hl : lvl = 0) (hu : lfUser e.leaf = false) :
    leafCheck e acc lvl mapped s2lvl sealed_ offline = some (.trap ⟨32, cPROT, 6, e.leafLevel, 0⟩) := by
  simp [leafCheck, hl, hu, TlbE.leafLevel]

theorem leafCheck_user_fetch (hl : lvl ≠ 0) (ha : acc = 3) (hu : lfUser e.leaf = true) :
    leafCheck e acc lvl mapped s2lvl sealed_ offline = some (.trap ⟨33, cPROT, 7, e.leafLevel, 0⟩) := by
  simp [leafCheck, hl, ha, hu, TlbE.leafLevel, aFetch]

theorem not_granted (e : TlbE) (acc : Nat) :
    ((isWrite acc && !e.wr) || (acc == aFetch && !e.ex) || (!isWrite acc && acc != aFetch && !e.rd)) = !e.granted acc := by
  by_cases hf : acc = 3
  · subst hf; simp [TlbE.granted, isWrite, aFetch]
  · have hb : (acc == aFetch) = false := by simpa [aFetch] using hf
    cases hw : isWrite acc <;> simp [TlbE.granted, hf, hw, hb, bne]

/-- An access whose user bit is right comes to the second stage. -/
theorem leafCheck_userOk (hu : e.UserOk acc lvl) :
    leafCheck e acc lvl mapped s2lvl sealed_ offline = e.stage2Check acc mapped s2lvl sealed_ offline := by
  obtain ⟨h0, h1⟩ := hu
  have c2 : ¬ (lvl = 0 ∧ (!lfUser e.leaf) = true) := fun h => by simp [h0 h.1] at h
  have c3 : ¬ (lvl ≠ 0 ∧ acc = aFetch ∧ lfUser e.leaf = true) := fun h => by simp [h1 h.1 h.2.1] at h
  unfold leafCheck
  simp only [c2, c3, if_false, not_granted, TlbE.stage2Check]
  congr 3
  by_cases hf : acc = 3
  · subst hf; cases hx : lfX e.leaf <;> cases sealed_ <;> simp [TlbE.bitCheck, isWrite, aFetch, hx, TlbE.leafLevel]
  · cases hw : isWrite acc <;> cases hW : lfW e.leaf <;> simp [TlbE.bitCheck, hf, hw, hW, aFetch, TlbE.leafLevel]

theorem stage2Check_unmapped : e.stage2Check acc false s2lvl sealed_ offline = some (.trap ⟨34, cPAGE, 9, s2lvl, 1⟩) := rfl

theorem stage2Check_not_granted (hg : e.granted acc = false) :
    e.stage2Check acc true s2lvl sealed_ offline = some (.trap ⟨34, cPROT, 10, s2lvl, 1⟩) := by
  simp [TlbE.stage2Check, hg]

theorem stage2Check_offline (hg : e.granted acc = true) :
    e.stage2Check acc true s2lvl sealed_ true = some (.trap ⟨34, cPAGE, 11, s2lvl, 1⟩) := by
  simp [TlbE.stage2Check, hg]

theorem stage2Check_passed (hg : e.granted acc = true) : e.stage2Check acc true s2lvl sealed_ false = e.bitCheck acc sealed_ := by
  simp [TlbE.stage2Check, hg]

theorem granted_write (h : isWrite acc = true) : e.granted acc = e.wr := by simp [TlbE.granted, h]

theorem granted_fetch : e.granted 3 = e.ex := by simp [TlbE.granted, isWrite]

theorem granted_read (h : ¬ isWrite acc = true) (hf : acc ≠ 3) : e.granted acc = e.rd := by simp [TlbE.granted, h, hf]

theorem granted_of (hw : isWrite acc = true → e.wr = true) (hx : acc = 3 → e.ex = true) (hr : ¬ isWrite acc = true → acc ≠ 3 → e.rd = true) :
    e.granted acc = true := by
  by_cases h : isWrite acc = true
  · rw [granted_write h, hw h]
  · by_cases hf : acc = 3
    · subst hf; rw [granted_fetch, hx rfl]
    · rw [granted_read h hf, hr h hf]

/-- A write to a page that nothing seals is decided by W, and without it by HOME (R22). -/
theorem bitCheck_write (h : isWrite acc = true) (hs : lfSeal e.leaf = false) (hs' : sealed_ = false) :
    e.bitCheck acc sealed_ = if lfW e.leaf then none
      else if lfHome e.leaf then some (.park e.size true) else some (.trap ⟨36, cPROT, 4, e.leafLevel, 0⟩) := by
  simp [TlbE.bitCheck, h, hs, hs']

theorem bitCheck_sealed (h : isWrite acc = true) (hs : lfSeal e.leaf = true ∨ sealed_ = true) :
    e.bitCheck acc sealed_ = some (.trap ⟨35, cSEALED, 12, e.leafLevel, 0⟩) := by
  simp [TlbE.bitCheck, h, hs]

/-- A fetch needs X, and then a sealed granule. -/
theorem bitCheck_fetch : e.bitCheck 3 sealed_ =
    if lfX e.leaf = false then some (.trap ⟨37, cPROT, 5, e.leafLevel, 0⟩)
    else if sealed_ then none else some (.trap ⟨38, cPROT, 8, e.leafLevel, 0⟩) := by
  simp [TlbE.bitCheck, isWrite]

theorem bitCheck_read (h : ¬ isWrite acc = true) (hf : acc ≠ 3) : e.bitCheck acc sealed_ = none := by simp [TlbE.bitCheck, h, hf]

end Sys2Proof.Machine

open Sys2Proof.Machine in
/-- Settles O27: each check answers where those before it have passed. -/
theorem leafChecks : Obligations.LeafChecks := by
  unfold Obligations.LeafChecks
  intro e acc lvl s2lvl mapped sealed_ offline fault n write userOk stage2 unsealed
  have hwr : write ↔ isWrite acc = true := (isWrite_iff acc).symm
  have toStage2 : userOk → leafCheck e acc lvl mapped s2lvl sealed_ offline = e.stage2Check acc mapped s2lvl sealed_ offline := leafCheck_userOk
  have toBits : userOk → stage2 → leafCheck e acc lvl mapped s2lvl sealed_ offline = e.bitCheck acc sealed_ := by
    rintro hu ⟨rfl, hw, hx, hr, rfl⟩
    rw [hwr] at hw hr
    exact (toStage2 hu).trans (stage2Check_passed (granted_of hw hx hr))
  refine ⟨fun hl hu => ⟨_, leafCheck_not_user hl hu⟩, fun hl ha hu => ⟨_, leafCheck_user_fetch hl ha hu⟩,
    ?_, ?_, ?_, ?_, ?_, ?_, ?_, ?_, ?_, ?_, ?_⟩
  · rintro hu rfl
    exact ⟨_, (toStage2 hu).trans stage2Check_unmapped⟩
  · rintro hu rfl hw hg
    exact ⟨_, (toStage2 hu).trans (stage2Check_not_granted ((granted_write (hwr.1 hw)).trans hg))⟩
  · rintro hu rfl rfl hg
    exact ⟨_, (toStage2 hu).trans (stage2Check_not_granted (granted_fetch.trans hg))⟩
  · rintro hu rfl hw hf hg
    exact ⟨_, (toStage2 hu).trans (stage2Check_not_granted ((granted_read (mt hwr.2 hw) hf).trans hg))⟩
  · rintro hu rfl hw hx hr rfl
    rw [hwr] at hw hr
    exact ⟨_, (toStage2 hu).trans (stage2Check_offline (granted_of hw hx hr))⟩
  · intro hu h2 hw hs
    exact ⟨_, (toBits hu h2).trans (bitCheck_sealed (hwr.1 hw) hs)⟩
  · intro hu h2 hn hw hW hH
    exact ⟨36, by rw [toBits hu h2, bitCheck_write (hwr.1 hw) (hn hw).1 (hn hw).2, hW, hH]; rfl⟩
  · intro hu h2 hn hw hW hH
    rw [toBits hu h2, bitCheck_write (hwr.1 hw) (hn hw).1 (hn hw).2, hW, hH]; rfl
  · rintro hu h2 rfl hX
    exact ⟨37, by rw [toBits hu h2, bitCheck_fetch, hX]; rfl⟩
  · rintro hu h2 rfl hX rfl
    exact ⟨38, by rw [toBits hu h2, bitCheck_fetch, hX]; rfl⟩
  · intro hu h2 hn hW hX
    rw [toBits hu h2]
    by_cases hw : write
    · rw [bitCheck_write (hwr.1 hw) (hn hw).1 (hn hw).2, hW hw]; rfl
    · by_cases hf : acc = 3
      · subst hf; rw [bitCheck_fetch, (hX rfl).1, (hX rfl).2]; rfl
      · exact bitCheck_read (mt hwr.2 hw) hf
end

section
/-! Shootdowns (O28): what a TLBI answers, and what the removal leaves in the TLBs, the walk caches, the block caches and the
second-stage caches. -/

namespace Sys2Proof.Machine

/-! ### The issuing string and path -/

theorem setPath_self (t : Str) (b : Bool) : t.setPath b (t.path b) = t := by cases b <;> rfl

theorem trapWord_cur (s : State) (c : Nat) : trapWord s s.cur s.curp c =
    takeTrap s s.cur ⟨c, s.curp.here, s.curp.pos, s.curWord.setWidth 64, 0, none, none, none, none⟩ := by
  unfold trapWord trapHere
  rw [show s.cur.setPath s.curPath s.curp = s.cur from setPath_self _ _]

/-! ### What a TLBI answers -/

variable {i : Instr} {s : State} {kind : Nat} {f : BitVec 1} {who : Str → Word} {addr : Str → Nat}

theorem tlbi_priv (hr : ready i s = true) (h : s.mayShoot s.cur s.curp kind (who s.cur).toNat = false) : tlbi i kind f who addr s =
    takeTrap s s.cur ⟨cPRIV, s.curp.here, s.curp.pos, s.curWord.setWidth 64, 0, none, none, none, none⟩ := by
  unfold tlbi
  rw [issued_ready hr]
  simp only [h, Bool.not_false, if_true, trapWord_cur]

theorem shoot_curUnit (s : State) (kind who addr : Nat) : (s.shoot kind who addr).curUnit = s.curUnit := by
  unfold State.shoot; split <;> rfl

theorem shoot_curPath (s : State) (kind who addr : Nat) : (s.shoot kind who addr).curPath = s.curPath := by
  unfold State.shoot; split <;> rfl

/-- A shootdown whose accesses are still in flight: its entries are gone, and its operation waits for those accesses (log 55). -/
def State.shootPending (s : State) (kind who addr : Nat) : State :=
  let s1 := s.shoot kind who addr
  { s1.takeOp with
    mem := { s1.mem with ops := tput s1.mem.ops s1.nextOp ⟨s.curUnit, s.curPath, .none, false, 0, false, 1, none⟩ }
    xl := { s1.xl with shoots := s1.xl.shoots ++ [⟨kind, who, addr, s1.nextOp, s.curUnit, s.curPath, s.shootWaits kind who addr⟩] } }

/-- A TLBI its level may name, outside a repeat and with its path's earlier accesses performed. -/
theorem tlbi_shoots (hr : ready i s = true) (h : s.mayShoot s.cur s.curp kind (who s.cur).toNat = true) (hrep : s.curp.rep = false)
    (hs : s.settled s.curp = true) :
    (s.shootWaits kind (who s.cur).toNat (addr s.cur) = [] →
      tlbi i kind f who addr s = .next ((s.shoot kind (who s.cur).toNat (addr s.cur)).goOn s.cur s.curp)) ∧
    (s.shootWaits kind (who s.cur).toNat (addr s.cur) ≠ [] →
      tlbi i kind f who addr s = .next ((s.shootPending kind (who s.cur).toNat (addr s.cur)).goOn s.cur
        (s.curp.bind f (s.shoot kind (who s.cur).toNat (addr s.cur)).nextOp))) := by
  unfold tlbi
  rw [issued_ready hr]
  simp only [h, hrep, hs, Bool.not_true, Bool.false_eq_true, if_false]
  refine ⟨fun hw => ?_, fun hw => ?_⟩
  · rw [if_pos hw, finish_goOn]
  · rw [if_neg hw, finish_goOn, shoot_curUnit, shoot_curPath]; rfl

/-! ### What a removal leaves -/

/-- The tables of lists without the entries that match. -/
def cutTable {β : Type} [DecidableEq β] (f : β → Bool) (t : Table (List β)) : Table (List β) :=
  (t.map (fun e => (e.1, e.2.filter (fun x => !f x)))).filter (fun e => e.2 != [])

theorem mem_cutTable {β : Type} [DecidableEq β] {f : β → Bool} {t : Table (List β)} {n : Nat} {x : β} (h : x ∈ tget [] (cutTable f t) n) :
    f x = false := by
  induction t with
  | nil => simp [cutTable] at h
  | cons e t ih =>
    unfold cutTable at h ih
    rw [List.map_cons, List.filter_cons] at h
    split at h
    · by_cases hn : e.1 = n
      · simp only [tget, tfind, hn, if_true, Option.getD_some, List.mem_filter] at h
        simpa using h.2
      · simp only [tget, tfind, hn, if_false] at h
        exact ih h
    · exact ih h

theorem mem_cutTable_of_mem {β : Type} [DecidableEq β] {f : β → Bool} {t : Table (List β)} {n : Nat} {x : β} (h : x ∈ tget [] t n)
    (hx : f x = false) : x ∈ tget [] (cutTable f t) n := by
  induction t with
  | nil => simp at h
  | cons e t ih =>
    unfold cutTable at ih ⊢
    rw [List.map_cons, List.filter_cons]
    by_cases hn : e.1 = n
    · simp only [tget, tfind, hn, if_true, Option.getD_some] at h
      have hm : x ∈ e.2.filter (fun y => !f y) := List.mem_filter.2 ⟨h, by simp [hx]⟩
      rw [if_pos (by simpa using List.ne_nil_of_mem hm)]
      simpa [tget, tfind, hn] using ⟨h, hx⟩
    · have h' : x ∈ tget [] t n := by simpa [tget, tfind, hn] using h
      split
      · simpa only [tget, tfind, hn, if_false] using ih h'
      · exact ih h'

/-- An entry that the TLBs numbered n hold: the data TLB of die n, the core TLB or the fetch TLB of core n. -/
def State.tlbHas (s : State) (n : Nat) (e : TlbE) : Prop := e ∈ tget [] s.xl.dtlb n ∨ e ∈ tget [] s.xl.ctlb n ∨ e ∈ tget [] s.xl.ftlb n

theorem tlbHas_cut {s s' : State} {f : TlbE → Bool} (hd : s'.xl.dtlb = cutTable f s.xl.dtlb) (hc : s'.xl.ctlb = cutTable f s.xl.ctlb)
    (hf : s'.xl.ftlb = cutTable f s.xl.ftlb) (n : Nat) (e : TlbE) :
    (s'.tlbHas n e → f e = false) ∧ (s.tlbHas n e → f e = false → s'.tlbHas n e) := by
  unfold State.tlbHas
  rw [hd, hc, hf]
  exact ⟨fun h => h.elim mem_cutTable (Or.elim · mem_cutTable mem_cutTable),
    fun h hx => h.imp (mem_cutTable_of_mem · hx) (Or.imp (mem_cutTable_of_mem · hx) (mem_cutTable_of_mem · hx))⟩

/-- The bits of the second-stage page that a shootdown of a guest page names (log 139). -/
def State.shotBits (s : State) (who addr : Nat) : Nat :=
  ((tget [] s.xl.s2c who).filter (fun e => e.covers addr)).foldl (fun n e => max n (pageBits e.size)) 12

/-- The TLB entries a shootdown names (R42). -/
def State.shotTlb (s : State) (kind who addr : Nat) (e : TlbE) : Bool :=
  match kind with
  | 0 => e.covers who (addr % 2 ^ 57 / 4096)
  | 1 => e.world == who
  | 2 => s.partOf e.world == some who
  | 3 => true
  | 4 => s.topPart e.world == some who && overS2 e.gpn e.size addr (s.shotBits who addr)
  | _ => s.topPart e.world == some who

/-- The walk-cache entries it names. -/
def State.shotWalk (s : State) (kind who addr : Nat) (w : WalkE) : Bool :=
  match kind with
  | 0 => w.world == who && w.pfx == addr % 2 ^ 57 / 2 ^ (12 + 9 * w.lvl)
  | 1 => w.world == who
  | 2 => s.partOf w.world == some who
  | 3 => true
  | _ => s.topPart w.world == some who

/-- The entries of the block caches it names. -/
def State.shotBlock (s : State) (kind who addr : Nat) (b : BtcE) : Bool :=
  match kind with
  | 0 => b.inPage who addr 12
  | 1 => b.world == who
  | 2 => s.partOf b.world == some who
  | 3 => true
  | 4 => s.topPart b.world == some who && overS2 (b.gpa / 4096) b.tlb.size addr (s.shotBits who addr)
  | _ => s.topPart b.world == some who

/-- A shootdown cuts what it names out of every cache of translations. -/
theorem shoot_tables (s : State) (kind who addr : Nat) :
    (s.shoot kind who addr).xl.dtlb = cutTable (s.shotTlb kind who addr) s.xl.dtlb ∧
    (s.shoot kind who addr).xl.ctlb = cutTable (s.shotTlb kind who addr) s.xl.ctlb ∧
    (s.shoot kind who addr).xl.ftlb = cutTable (s.shotTlb kind who addr) s.xl.ftlb ∧
    (s.shoot kind who addr).xl.wcache = cutTable (s.shotWalk kind who addr) s.xl.wcache ∧
    (s.shoot kind who addr).eng.btc = cutTable (s.shotBlock kind who addr) s.eng.btc := by
  rcases kind with _ | _ | _ | _ | _ | _ <;> exact ⟨rfl, rfl, rfl, rfl, rfl⟩

/-- A shootdown takes from the TLBs what it names, and leaves the rest. -/
theorem shoot_tlbHas (s : State) (kind who addr n : Nat) (e : TlbE) :
    ((s.shoot kind who addr).tlbHas n e → s.shotTlb kind who addr e = false) ∧
    (s.tlbHas n e → s.shotTlb kind who addr e = false → (s.shoot kind who addr).tlbHas n e) :=
  have h := shoot_tables s kind who addr
  tlbHas_cut h.1 h.2.1 h.2.2.1 n e

theorem shoot_walk_gone {s : State} {kind who addr n : Nat} {w : WalkE} (h : w ∈ tget [] (s.shoot kind who addr).xl.wcache n) :
    s.shotWalk kind who addr w = false := by
  obtain ⟨-, -, -, hw, -⟩ := shoot_tables s kind who addr
  rw [hw] at h; exact mem_cutTable h

theorem shoot_block_gone {s : State} {kind who addr n : Nat} {b : BtcE} (h : b ∈ tget [] (s.shoot kind who addr).eng.btc n) :
    s.shotBlock kind who addr b = false := by
  obtain ⟨-, -, -, -, hb⟩ := shoot_tables s kind who addr
  rw [hb] at h; exact mem_cutTable h

theorem shoot_s2c_page (s : State) (who addr : Nat) :
    tget [] (s.shoot 4 who addr).xl.s2c who = (tget [] s.xl.s2c who).filter (fun e => !e.covers addr) := by
  show tget [] (tset [] s.xl.s2c who _) who = _
  rw [tget_tset, if_pos rfl]; rfl

theorem shoot_s2c_part (s : State) (who : Nat) : tget [] (s.shoot 5 who 0).xl.s2c who = [] := by
  show tget [] (tset [] s.xl.s2c who _) who = _
  rw [tget_tset, if_pos rfl]
  exact List.filter_eq_nil_iff.2 (by simp)

/-- Two addresses of one second-stage page lie in one page of every larger size. -/
theorem overS2_of_same {gpn size gpa : Nat} (bits : Nat) (h : gpn * 4096 / 2 ^ pageBits size = gpa / 2 ^ pageBits size) :
    overS2 gpn size gpa bits = true := by
  show (gpn * 4096 / 2 ^ max bits (pageBits size) == gpa / 2 ^ max bits (pageBits size)) = true
  obtain ⟨d, hd⟩ := Nat.exists_eq_add_of_le (Nat.le_max_right bits (pageBits size))
  rw [hd, pow_add, ← Nat.div_div_eq_div_mul, ← Nat.div_div_eq_div_mul, h]
  simp

theorem mayShoot_world {s : State} {t : Str} {p : Path} {w k : Nat} (hk : k = 0 ∨ k = 1) : s.mayShoot t p k w = true ↔
    w ≤ 255 ∧ (2 ≤ p.level ∨ (s.partOf w ≠ none ∧ s.partOf w = s.topPart t.world)) := by
  rcases hk with rfl | rfl <;> simp [State.mayShoot, Option.isSome_iff_ne_none]

theorem mayShoot_part {s : State} {t : Str} {p : Path} {w k : Nat} (hk : k = 2 ∨ k = 4 ∨ k = 5) : s.mayShoot t p k w = true ↔
    w ≤ 23 ∧ (2 ≤ p.level ∨ some (s.topOf w) = s.topPart t.world) := by
  rcases hk with rfl | rfl | rfl <;> simp [State.mayShoot]

end Sys2Proof.Machine

open Sys2Proof Sys2Proof.Machine in
/-- Settles O28: the privilege check of `tlbi_priv`, the two ends of `tlbi_shoots`, and for each kind what `cutTable` leaves. -/
theorem shootdowns : Obligations.Shootdowns := by
  unfold Obligations.Shootdowns
  refine ⟨?_, ?_⟩
  · intro a b f s w own priv
    have world : ∀ k, k = 0 ∨ k = 1 → (255 < w ∨ (s.curp.level < 2 ∧ (s.partOf w = none ∨ s.partOf w ≠ own))) →
        s.mayShoot s.cur s.curp k w = false := fun k hk h => by
      rw [← Bool.not_eq_true, mayShoot_world hk]
      rintro ⟨h1, h2⟩
      rcases h with h | ⟨hl, h⟩
      · omega
      · rcases h2 with h2 | ⟨h2, h3⟩
        · omega
        · exact h.elim h2 (· h3)
    have part : ∀ k, k = 2 ∨ k = 4 ∨ k = 5 → (23 < w ∨ (s.curp.level < 2 ∧ some (s.topOf w) ≠ own)) → s.mayShoot s.cur s.curp k w = false :=
        fun k hk h => by
      rw [← Bool.not_eq_true, mayShoot_part hk]
      rintro ⟨h1, h2⟩
      rcases h with h | ⟨hl, h⟩
      · omega
      · exact h2.elim (by omega) h
    exact ⟨fun hr h => tlbi_priv hr (world 0 (by simp) h), fun hr h => tlbi_priv hr (world 1 (by simp) h),
      fun hr h => tlbi_priv hr (part 2 (by simp) h), fun hr h => tlbi_priv hr (part 4 (by simp) (.inl h)),
      fun hr h => tlbi_priv hr (part 5 (by simp) (.inl h))⟩
  · intro a b f s w va done
    have doneOf : ∀ (i : Instr) (k : Nat) (who : Str → Word) (addr : Str → Nat), exec i s = tlbi i k f who addr s →
        s.mayShoot s.cur s.curp k (who s.cur).toNat = true → done i k (who s.cur).toNat (addr s.cur) := by
      intro i k who addr he hm hr hrep hs
      obtain ⟨h1, h2⟩ := tlbi_shoots (f := f) (addr := addr) hr hm hrep hs
      exact ⟨fun hw => ⟨_, he.trans (h1 hw), rfl⟩, fun hw => ⟨_, he.trans (h2 hw), rfl⟩⟩
    refine ⟨?_, ?_, ?_, ?_, ?_⟩
    · intro hw hl
      exact ⟨doneOf _ 0 (fun t => t.sget a.toNat) (fun t => (t.spair b.toNat).toNat) rfl ((mayShoot_world (by simp)).2 ⟨hw, hl⟩),
        doneOf _ 1 (fun t => t.sget a.toNat) (fun _ => 0) rfl ((mayShoot_world (by simp)).2 ⟨hw, hl⟩)⟩
    · intro hw hl
      exact ⟨doneOf _ 2 (fun t => t.sget a.toNat) (fun _ => 0) rfl ((mayShoot_part (by simp)).2 ⟨hw, hl⟩),
        doneOf _ 4 (fun t => t.sget a.toNat) (fun t => (t.spair b.toNat).toNat) rfl ((mayShoot_part (by simp)).2 ⟨hw, hl⟩),
        doneOf _ 5 (fun t => t.sget a.toNat) (fun _ => 0) rfl ((mayShoot_part (by simp)).2 ⟨hw, hl⟩)⟩
    · exact doneOf _ 3 (fun _ => 0) (fun _ => 0) rfl rfl
    · intro k n has
      have gone : ∀ kind addr e, has (s.shoot kind k addr) e → s.shotTlb kind k addr e = false := fun kind addr e => (shoot_tlbHas s kind k addr n e).1
      have kept : ∀ kind addr e, has s e → s.shotTlb kind k addr e = false → has (s.shoot kind k addr) e :=
        fun kind addr e => (shoot_tlbHas s kind k addr n e).2
      refine ⟨fun e => ⟨?_, ?_, ?_, ?_, ?_, ?_, ?_, ?_, ?_⟩, fun w => ⟨?_, ?_, ?_, ?_, ?_⟩, fun b => ⟨?_, ?_, ?_, ?_⟩, ?_, ?_⟩
      · exact gone 0 va e
      · intro h; simpa [State.shotTlb] using gone 1 0 e h
      · intro h; simpa [State.shotTlb] using gone 2 0 e h
      · intro h; simpa [State.shotTlb] using ((shoot_tlbHas s 3 0 0 n e).1 h)
      · intro h hp hs
        have := gone 4 va e h
        simp [State.shotTlb, hp, overS2_of_same _ hs] at this
      · intro h; simpa [State.shotTlb] using gone 5 0 e h
      · intro h hw
        exact ⟨kept 1 0 e h (by simpa [State.shotTlb] using hw), kept 0 va e h (by simp [State.shotTlb, TlbE.covers, hw])⟩
      · intro h hp; exact kept 2 0 e h (by simpa [State.shotTlb] using hp)
      · intro h hp
        exact ⟨kept 4 va e h (by simp [State.shotTlb, hp]), kept 5 0 e h (by simpa [State.shotTlb] using hp)⟩
      · intro h hw hp
        simpa [State.shotWalk, hw, hp] using shoot_walk_gone h
      · intro h; simpa [State.shotWalk] using shoot_walk_gone h
      · intro h; simpa [State.shotWalk] using shoot_walk_gone h
      · intro h; simpa [State.shotWalk] using shoot_walk_gone h
      · rintro (h | h) <;> simpa [State.shotWalk] using shoot_walk_gone h
      · intro h; simpa [State.shotBlock] using shoot_block_gone h
      · intro h; simpa [State.shotBlock] using shoot_block_gone h
      · intro h; simpa [State.shotBlock] using shoot_block_gone h
      · intro h; simpa [State.shotBlock] using shoot_block_gone h
      · intro c hc
        rw [shoot_s2c_page] at hc
        simpa [S2E.covers] using (List.mem_filter.1 hc).2
      · exact shoot_s2c_part s k
    · intro x hx hk hwait
      refine ⟨_, ?_, rfl⟩
      have hno : s.mem.reqs.any (fun r => x.waits.contains r.rid) = false := by simpa using hwait
      show execTlbiComplete s = _
      unfold execTlbiComplete
      simp only [hx, hno, hk, Bool.false_eq_true, if_false]
end

section
/-! System register reads (O30). -/

namespace Sys2Proof.Machine

/-! ### Before the instruction acts (R301) -/

theorem issuedAt_illegal {i : Instr} {s : State} {x y : Str → Path → Bool} {k : Str → Path → Out} (h : s.str? s.curUnit = some s.cur)
    (hx : legal s.cur i = false ∨ x s.cur s.curp = true) : issuedAt i s x y k = trapWord s s.cur s.curp cILLEGAL := by
  have hx' : (!legal s.cur i || x s.cur s.curp) = true := by simpa using hx
  unfold issuedAt
  simp only [h]
  exact if_pos hx'

/-- A word whose operands do not fit is not legal (R297, R304). -/
theorem legal_of_not_modOk {t : Str} {i : Instr} (h : i.operands.modOk = false) : legal t i = false := by
  unfold legal; rw [h]; rfl

/-! ### The map of the registers (R60) -/

theorem sysRow_high {n : Nat} (h : 0x0F5 < n) : sysRow n = none := by
  have hb : ∀ x ∈ sysRows, x.num ≤ 0x0F5 := by decide
  exact List.find?_eq_none.2 fun x hx => by have := hb x hx; simp; omega

/-- The string whose registers a unit reads: its own, or at an outrider the bound string (log 57). -/
def State.holder (s : State) : Str := if s.cur.outrider then (s.str? s.cur.bound).getD s.cur else s.cur

theorem regStr_snd (s : State) : (s.regStr s.curUnit s.cur).2 = s.holder := by
  unfold State.regStr State.holder; split <;> rfl

theorem regStr_string {s : State} {u : Nat} {t : Str} (h : t.outrider = false) : s.regStr u t = (u, t) := by
  unfold State.regStr; simp [h]

/-! ### What SYSR answers (R342) -/

section
variable {d : BitVec 6} {r : BitVec 12} {s : State} {x : SysRow}

theorem sysr_undefined (h : s.str? s.curUnit = some s.cur) (hr : sysRow r.toNat = none) :
    execSysr d r s = trapWord s s.cur s.curp cILLEGAL := by
  have hm : (Instr.sysr d r).operands.modOk = false := by
    show (sysRow r.toNat).isSome = false
    rw [hr]; rfl
  unfold execSysr issued issuedIf
  exact issuedAt_illegal h (.inl (legal_of_not_modOk hm))

theorem sysr_priv (hr : ready (.sysr d r) s = true) (hx : sysRow r.toNat = some x) (hl : sysLevel s.holder s.curp x.rd = false) :
    execSysr d r s = trapWord s s.cur s.curp cPRIV := by
  unfold execSysr
  rw [issued_ready hr]
  simp only [hx, regStr_snd, hl, Bool.not_false, if_true]

/-- The destination of SYSR with a value in it: a pair or one register. -/
def State.sysrPut (s : State) (d : BitVec 6) (pair : Bool) (v : Dword) : Str :=
  if pair then s.cur.sputPair d.toNat v (uniWb s.curp 0) else s.cur.sput d.toNat (v.setWidth 32) (uniWb s.curp 0)

theorem sysr_unread (hr : ready (.sysr d r) s = true) (hx : sysRow r.toNat = some x) (hn : x.rd = .none) :
    execSysr d r s = .next (s.goOn (s.sysrPut d x.pair 0) s.curp) := by
  unfold execSysr
  rw [issued_ready hr]
  simp only [hx, hn, sysLevel, Bool.not_true, Bool.false_eq_true, if_false, if_true, finish_goOn]
  rfl

theorem sysr_value (hr : ready (.sysr d r) s = true) (hx : sysRow r.toNat = some x) (hl : sysLevel s.holder s.curp x.rd = true)
    (hn : x.rd ≠ .none) (hf : ¬ (0x068 ≤ r.toNat ∧ r.toNat ≤ 0x06A)) (ht : ¬ (0x06C ≤ r.toNat ∧ r.toNat ≤ 0x06E)) :
    execSysr d r s = .next (s.goOn (s.sysrPut d x.pair (s.regRead s.curUnit s.cur s.curp r.toNat)) s.curp) := by
  unfold execSysr
  rw [issued_ready hr]
  simp only [hx, hl, hn, hf, ht, regStr_snd, Bool.not_true, Bool.false_eq_true, if_false, finish_goOn]
  rfl

/-- SYSR's destination, once the path has gone on, is a uniform result. -/
theorem sysrPut_result (s : State) (d : BitVec 6) (pair : Bool) (v : Dword) :
    UniResult s (s.goOn (s.sysrPut d pair v) s.curp) d.toNat (if pair then 2 else 1) 0 (if pair then v.toNat else v.toNat % 2 ^ 32) := by
  cases pair
  · have h := uni_result s d.toNat 0 (v.setWidth 32)
    rwa [BitVec.toNat_setWidth] at h
  · exact uni_pair_result s d.toNat 0 v

theorem sysLevel_iff (t : Str) (p : Path) (a : SysAccess) :
    sysLevel t p a = true ↔ (∀ l, a = .level l → l ≤ p.level) ∧ (a = .handler → t.trapLevel ≤ p.level) := by
  cases a <;> simp [sysLevel]
end

/-! ### The values -/

section
variable {s : State} {u n : Nat} {t : Str} {p : Path}

theorem regRead_now {v : Nat} (h : s.regNow u t p n = some v) : s.regRead u t p n = BitVec.ofNat 64 v := by
  unfold State.regRead; rw [h]

/-- A register kept with its string, its world or the package reads what was written. -/
theorem regRead_str (h : s.regNow u t p n = none) (hn : n ≠ 0x028) (hh : regHome n = .str) (ht : t.outrider = false) :
    s.regRead u t p n = t.reg n := by
  unfold State.regRead; simp only [h, hn, hh, regStr_string ht, if_false]

theorem regRead_world (h : s.regNow u t p n = none) (hn : n ≠ 0x028) (hh : regHome n = .world) (ht : t.outrider = false) :
    s.regRead u t p n = s.wreg t.world n := by
  unfold State.regRead; simp only [h, hn, hh, regStr_string ht, if_false]

theorem regRead_pkg (h : s.regNow u t p n = none) (hn : n ≠ 0x028) (hh : regHome n = .pkg) : s.regRead u t p n = s.pkg n := by
  unfold State.regRead; simp only [h, hn, hh, if_false]

theorem ofNat_mod64 (x : Nat) : BitVec.ofNat 64 (x % 2 ^ 64) = BitVec.ofNat 64 x := BitVec.eq_of_toNat_eq (by simp)

/-- The registers each string keeps as written (R305). -/
def keptStrRegs : List Nat := [0x011, 0x013, 0x014, 0x015, 0x016, 0x020, 0x023, 0x024, 0x025, 0x029, 0x02A, 0x02B, 0x02C, 0x02D, 0x052, 0x062, 0x070,
  0x0A6, 0x0B0, 0x0B1, 0x0D0, 0x0E2]

theorem keptStrRegs_home : ∀ n ∈ keptStrRegs, n ≠ 0x028 ∧ regHome n = .str := by decide

theorem keptStrRegs_now (s : State) (u : Nat) (t : Str) (p : Path) : ∀ n ∈ keptStrRegs, s.regNow u t p n = none := by
  simp only [keptStrRegs, List.forall_mem_cons]
  exact ⟨rfl, rfl, rfl, rfl, rfl, rfl, rfl, rfl, rfl, rfl, rfl, rfl, rfl, rfl, rfl, rfl, rfl, rfl, rfl, rfl, rfl, rfl, fun _ h => nomatch h⟩

/-- The registers of the issuing path and of the package that are named. -/
theorem regRead_path (s : State) (u : Nat) (t : Str) (p : Path) :
    s.regRead u t p 0x001 = BitVec.ofNat 64 p.level ∧ s.regRead u t p 0x008 = p.mask.setWidth 64 ∧
    s.regRead u t p 0x010 = BitVec.ofNat 64 s.time ∧ s.regRead u t p 0x030 = p.flow.setWidth 64 ∧ s.regRead u t p 0x061 = p.tinfo.setWidth 64 ∧
    s.regRead u t p 0x0AA = p.rfinfo.setWidth 64 ∧ s.regRead u t p 0x0E5 = p.gtinfo.setWidth 64 ∧
    s.regRead u t p 0x0E6 = BitVec.ofNat 64 s.mono ∧ s.regRead u t p 0x022 = s.pkg 0x022 :=
  ⟨regRead_now rfl, (regRead_now rfl).trans (BitVec.ofNat_toNat 64 _), (regRead_now rfl).trans (ofNat_mod64 _),
    (regRead_now rfl).trans (BitVec.ofNat_toNat 64 _), (regRead_now rfl).trans (BitVec.ofNat_toNat 64 _),
    (regRead_now rfl).trans (BitVec.ofNat_toNat 64 _), (regRead_now rfl).trans (BitVec.ofNat_toNat 64 _), (regRead_now rfl).trans (ofNat_mod64 _),
    regRead_pkg rfl (by decide) rfl⟩

/-- Those of the string and its world, at a string. -/
theorem regRead_string (s : State) (u : Nat) (p : Path) (ht : t.outrider = false) :
    s.regRead u t p 0x000 = BitVec.ofNat 64 t.world ∧ s.regRead u t p 0x026 = t.lmask.setWidth 64 ∧
    s.regRead u t p 0x027 = BitVec.ofNat 64 t.repidx ∧ s.regRead u t p 0x021 = s.wreg t.world 0x021 ∧
    s.regRead u t p 0x060 = s.wreg t.world 0x060 ∧ ∀ n ∈ keptStrRegs, s.regRead u t p n = t.reg n := by
  have h2 : (s.regStr u t).2 = t := by rw [regStr_string ht]
  refine ⟨?_, ?_, ?_, regRead_world rfl (by decide) rfl ht, regRead_world rfl (by decide) rfl ht, fun n hn => ?_⟩
  · rw [← congrArg Str.world h2]; exact regRead_now rfl
  · rw [← congrArg Str.lmask h2]; exact (regRead_now rfl).trans (BitVec.ofNat_toNat 64 _)
  · rw [← congrArg Str.repidx h2]; exact regRead_now rfl
  · exact regRead_str (keptStrRegs_now s u t p n hn) (keptStrRegs_home n hn).1 (keptStrRegs_home n hn).2 ht
end

end Sys2Proof.Machine

open Sys2Proof Sys2Proof.Machine in
/-- Settles O30: what SYSR answers by its register's row, and the values of the registers the spec names. -/
theorem systemRegisterReads : Obligations.SystemRegisterReads := by
  unfold Obligations.SystemRegisterReads
  intro d r s p reads holder
  refine ⟨fun h hr => (sysr_undefined h hr).trans (trapWord_cur s _),
    fun x hr hx => ⟨fun l hl hlt => ?_, fun hh hlt => ?_, fun hn => ?_, fun hn hl hh hf => ?_⟩,
    fun n => sysRow_high, ?_⟩
  rotate_right 1
  · obtain ⟨h1, h2, h3, h4, h5, h6, h7, h8, h9⟩ := regRead_path s s.curUnit s.cur p
    exact ⟨h1, h2, h3, h4, h5, h6, h7, h8, h9, regRead_string s s.curUnit p⟩
  · exact (sysr_priv hr hx (by rw [hl]; exact decide_eq_false (Nat.not_le.2 hlt))).trans (trapWord_cur s _)
  · exact (sysr_priv hr hx (by rw [hh]; exact decide_eq_false (Nat.not_le.2 hlt))).trans (trapWord_cur s _)
  · refine ⟨_, sysr_unread hr hx hn, ?_⟩
    simpa using sysrPut_result s d x.pair 0
  · simp only [List.mem_cons, List.not_mem_nil, or_false, not_or] at hf
    exact ⟨_, sysr_value hr hx ((sysLevel_iff _ _ _).2 ⟨hl, hh⟩) hn (by omega) (by omega), sysrPut_result s d x.pair _⟩
end

section
/-! System register writes (O31): restoring a partition touches the memory system, which the statement denies. -/

namespace Sys2Proof.Machine

/-- The steward's string in slot 0 is about to restore partition 0, which it holds; the string of world 1 in slot 1 is captured, and the core's L1
keeps a line of that world. -/
def restoringState : State :=
  { State.reset with
    arg := ⟨[0, 0, 4099, 0], []⟩
    strs := [(0, { Str.blankOut with outrider := false, p0 := { Path.blank with state := .running, level := 2 } }),
      (1, { Str.blankOut with outrider := false, world := 1, party := 5, captured := true, p0 := { Path.blank with state := .running } })]
    xl := { XlS.reset with part := [(1, 0)] }
    sch := { State.reset.sch with held := [0], parties := [(5, ⟨0, 0, 0, 1, 0, 0, 0, [], [], 1, [], [1], 0, true, 0, false⟩)] }
    mem := { MemS.reset with l1 := [(0, [⟨0, 0, 1, 0, 0, 0, 0⟩])] } }

/-- The restored string acts as an acquire (R148): its world's lines leave the L1. -/
theorem restoringState_restored : exec .systemRegisterWrite restoringState = .next (restoringState.restorePart 0) ∧
    (restoringState.restorePart 0).mem.l1 = [] := ⟨rfl, by decide⟩

end Sys2Proof.Machine

open Sys2Proof Sys2Proof.Machine in
/-- Refutes O31: its clause for number 4,099 says that restoring a partition leaves memory as it was, but a captured string that goes on
acts as an acquire (R148), and the lines of its world leave its core's L1. -/
theorem not_systemRegisterWrites : ¬ Obligations.SystemRegisterWrites := by
  unfold Obligations.SystemRegisterWrites
  intro h
  obtain ⟨-, -, -, -, hq, -⟩ := h 0 0 restoringState
  obtain ⟨-, hrestore⟩ := hq 0 rfl rfl rfl rfl (by decide)
  obtain ⟨s', hs', -, hmem, -⟩ := hrestore rfl
  obtain ⟨hexec, hl1⟩ := restoringState_restored
  rw [hexec] at hs'
  cases hs'
  rw [hmem] at hl1
  exact absurd hl1 (by decide)
end

section
/-! Host requests (O50): what a mailbox is, and the answers of the hub's reads and writes. -/

namespace Sys2Proof.Machine

variable {s s1 s2 : State} {q a : Nat} {bs : List Byte} {l : List (Nat × Nat × Waybill)} {e : Egress} {g : Word}

/-- A request lies in a mailbox where its function is bound, the package runs, and it ends within the mailbox's size (R12, R18). -/
theorem mailbox_iff (f x k : Nat) : s.mailbox f x k = some (q, a) ↔ tfind s.xl.pcie f = some q ∧ s.boot.bstat = 3 ∧
    x + k ≤ (s.preg q 0x0C5).toNat % 65536 * 2 ^ 21 ∧ a = ((s.preg q 0x0C5).extractLsb' 21 31).toNat * 2 ^ 21 + x := by
  unfold State.mailbox
  cases hf : tfind s.xl.pcie f with
  | none => simp
  | some p =>
    rw [BitVec.extractLsb'_toNat, Nat.shiftRight_eq_div_pow]
    constructor
    · intro h
      simp only [Option.ite_none_right_eq_some, Option.some.injEq, Prod.mk.injEq] at h
      obtain ⟨⟨hb, hx⟩, rfl, rfl⟩ := h
      exact ⟨rfl, hb, hx, rfl⟩
    · rintro ⟨hq, hb, hx, rfl⟩
      cases hq
      exact if_pos ⟨hb, hx⟩

/-! ### HOST_BAR2_READ -/

theorem hostBar2Read_outside (h : s.mailbox (s.argN 0) (s.argN 1) (s.argN 2) = none) :
    execHostBar2Read s = .next (s.complete 3 (s.argN 0) (s.argN 1) 1 []) := by
  unfold execHostBar2Read; simp only [h]

/-- A condition that holds of every granule of a range leaves none that fails it. -/
theorem none_isNone {α : Type} {gs : List Nat} {f : Nat → Option α} (h : ∀ x ∈ gs, (f x).isSome = true) : gs.any (fun x => (f x).isNone) = false :=
  List.any_eq_false.2 fun x hx => by simpa [Option.isSome_iff_ne_none] using h x hx

theorem hostBar2Read_passes (h : s.mailbox (s.argN 0) (s.argN 1) (s.argN 2) = some (q, a))
    (hg : ∀ x ∈ gransOf a (s.argN 2), (s.hostGran q x 1).isSome = true)
    (hr : s.readRange (fun x => (s.hostGran q x 1).map (fun r => (false, r.1))) (segsOf a (s.argN 2)) = (bs, l, s1))
    (hp : s1.gate (hostParts (destFunc (s.argN 0)) l) = .ok s2) : execHostBar2Read s = .next (s2.complete 3 (s.argN 0) (s.argN 1) 0 bs) := by
  unfold execHostBar2Read
  simp only [h, none_isNone hg, hr, hp, Bool.false_eq_true, if_false]

theorem hostBar2Read_refused (h : s.mailbox (s.argN 0) (s.argN 1) (s.argN 2) = some (q, a))
    (hg : ∀ x ∈ gransOf a (s.argN 2), (s.hostGran q x 1).isSome = true)
    (hr : s.readRange (fun x => (s.hostGran q x 1).map (fun r => (false, r.1))) (segsOf a (s.argN 2)) = (bs, l, s1))
    (hp : s1.gate (hostParts (destFunc (s.argN 0)) l) = .error (e, g, s2)) :
    execHostBar2Read s = .next (s2.complete 3 (s.argN 0) (s.argN 1) 2 []) := by
  unfold execHostBar2Read
  simp only [h, none_isNone hg, hr, hp, Bool.false_eq_true, if_false]

/-! ### HOST_BAR2_WRITE -/

/-- A granule the host may not write, a sealed one, and neither: the three answers to a write in a mailbox. -/
theorem hostBar2Write_mailbox (h : s.mailbox (s.argN 0) (s.argN 1) s.arg.bytes.length = some (q, a)) : execHostBar2Write s =
    if (gransOf a s.arg.bytes.length).any (fun x => (s.hostGran q x 2).isNone) then .next (s.complete 3 (s.argN 0) (s.argN 1) 1 [])
    else if (gransOf a s.arg.bytes.length).any (fun x => ((s.hostGran q x 2).map Prod.snd).getD false) then
      .next (s.complete 3 (s.argN 0) (s.argN 1) 2 [])
    else .next ((s.writeRange q a s.arg.bytes).complete 3 (s.argN 0) (s.argN 1) 0 []) := by
  unfold execHostBar2Write
  simp only [h, List.any_map, Function.comp_def]

/-! ### HOST_CORE_READ -/

/-- A host-physical read of HBM that the gate lets through. -/
theorem hostCoreRead_passes (hs : s.boot.started = true) (hq : s.argN 0 = 24) (hg : ∀ x ∈ gransOf (s.argN 1) (s.argN 2), regionOf x = .hbm)
    (hr : s.readRange (fun x => if regionOf x = .hbm then some (true, s.ownerOf x) else none) (segsOf (s.argN 1) (s.argN 2)) = (bs, l, s1))
    (hp : s1.gate (hostParts destHostCores l) = .ok s2) : execHostCoreRead s = .next (s2.complete 4 24 (s.argN 1) 0 bs) := by
  have hn := none_isNone (gs := gransOf (s.argN 1) (s.argN 2))
    (f := fun x => if regionOf x = .hbm then some (true, s.ownerOf x) else none) fun x hx => by simp [hg x hx]
  unfold execHostCoreRead
  simp only [hs, hq, if_true, hn, hr, hp, Bool.not_true, Bool.false_eq_true, if_false]

end Sys2Proof.Machine

open Sys2Proof Sys2Proof.Machine in
/-- Settles O50, by what each event answers inside and outside a mailbox. -/
theorem hostRequests : Obligations.HostRequests := by
  unfold Obligations.HostRequests
  intro s s1 s2 q a bs l e g f n
  refine ⟨mailbox_iff f, fun h => ⟨_, hostBar2Read_outside h, rfl⟩, fun h hg hr => ⟨fun hp => ⟨_, hostBar2Read_passes h hg hr hp, rfl⟩,
    fun hp => ⟨_, hostBar2Read_refused h hg hr hp, rfl⟩⟩, fun h => ⟨?_, ?_, ?_⟩,
    fun hs hq hg hr hp => ⟨_, hostCoreRead_passes hs hq hg hr hp, rfl⟩⟩
  · rintro ⟨x, hx, hn⟩
    refine ⟨_, (hostBar2Write_mailbox h).trans (if_pos ?_), rfl⟩
    exact List.any_eq_true.2 ⟨x, hx, by simp [hn]⟩
  · rintro hg ⟨x, hx, w, hw⟩
    refine ⟨_, (hostBar2Write_mailbox h).trans ?_, rfl⟩
    rw [none_isNone hg, if_neg Bool.false_ne_true, if_pos (List.any_eq_true.2 ⟨x, hx, by simp [hw]⟩)]; rfl
  · intro hg
    refine ⟨_, (hostBar2Write_mailbox h).trans ?_, rfl⟩
    have hopen : (gransOf a s.arg.bytes.length).any (fun x => ((s.hostGran q x 2).map Prod.snd).getD false) = false :=
      List.any_eq_false.2 fun x hx => by obtain ⟨w, hw⟩ := hg x hx; simp [hw]
    rw [none_isNone fun x hx => by obtain ⟨w, hw⟩ := hg x hx; simp [hw], hopen, if_neg Bool.false_ne_true, if_neg Bool.false_ne_true]; rfl
end

section
/-! Lines of HBM and the steward's memory: what a read finds after a write, a zeroing and a change of the L2 (R35, R50, R81). -/

namespace Sys2Proof.Machine

/-! ### Bytes of a line -/

/-- A field of a number replaced: what stands in it, and what stands beside it. -/
theorem replaceField_get (x v a b : Nat) : (x - x / 2 ^ a % 2 ^ b * 2 ^ a + v % 2 ^ b * 2 ^ a) / 2 ^ a % 2 ^ b = v % 2 ^ b := by
  have h1 : x = (x / 2 ^ a / 2 ^ b * 2 ^ b + x / 2 ^ a % 2 ^ b) * 2 ^ a + x % 2 ^ a := by
    rw [Nat.div_add_mod', Nat.div_add_mod']
  generalize x / 2 ^ a / 2 ^ b = hi at h1
  generalize x / 2 ^ a % 2 ^ b = mid at h1 ⊢
  have hlo : x % 2 ^ a < 2 ^ a := Nat.mod_lt _ (Nat.two_pow_pos a)
  generalize x % 2 ^ a = lo at h1 hlo
  have h2 : x - mid * 2 ^ a + v % 2 ^ b * 2 ^ a = lo + 2 ^ a * (hi * 2 ^ b + v % 2 ^ b) := by
    rw [h1, Nat.add_mul, Nat.mul_add, Nat.mul_comm (2 ^ a) (hi * 2 ^ b), Nat.mul_comm (2 ^ a) (v % 2 ^ b)]; omega
  rw [h2, Nat.add_mul_div_left _ _ (Nat.two_pow_pos a), Nat.div_eq_of_lt hlo, Nat.zero_add, Nat.mul_comm hi, Nat.mul_add_mod,
    Nat.mod_mod]

theorem replaceField_lt {x v a b n : Nat} (hx : x < 2 ^ n) (h : a + b ≤ n) : x - x / 2 ^ a % 2 ^ b * 2 ^ a + v % 2 ^ b * 2 ^ a < 2 ^ n := by
  have hn : 2 ^ n = 2 ^ (n - (a + b)) * 2 ^ b * 2 ^ a := by rw [← pow_add, ← pow_add]; congr 1; omega
  have h1 : x = (x / 2 ^ a / 2 ^ b * 2 ^ b + x / 2 ^ a % 2 ^ b) * 2 ^ a + x % 2 ^ a := by
    rw [Nat.div_add_mod', Nat.div_add_mod']
  have hhi : x / 2 ^ a / 2 ^ b < 2 ^ (n - (a + b)) := by
    rw [Nat.div_div_eq_div_mul, ← pow_add, Nat.div_lt_iff_lt_mul (Nat.two_pow_pos _), ← pow_add]
    rwa [show n - (a + b) + (a + b) = n by omega]
  generalize x / 2 ^ a / 2 ^ b = hi at h1 hhi
  generalize x / 2 ^ a % 2 ^ b = mid at h1 ⊢
  have hlo : x % 2 ^ a < 2 ^ a := Nat.mod_lt _ (Nat.two_pow_pos a)
  generalize x % 2 ^ a = lo at h1 hlo
  have hv : v % 2 ^ b < 2 ^ b := Nat.mod_lt _ (Nat.two_pow_pos b)
  have h2 : x - mid * 2 ^ a + v % 2 ^ b * 2 ^ a = (hi * 2 ^ b + v % 2 ^ b) * 2 ^ a + lo := by
    rw [h1, Nat.add_mul, Nat.add_mul]; omega
  have h3 : hi * 2 ^ b + v % 2 ^ b + 1 ≤ 2 ^ (n - (a + b)) * 2 ^ b :=
    calc hi * 2 ^ b + v % 2 ^ b + 1 ≤ (hi + 1) * 2 ^ b := by rw [Nat.add_mul]; omega
      _ ≤ _ := Nat.mul_le_mul_right _ hhi
  rw [h2, hn]
  calc (hi * 2 ^ b + v % 2 ^ b) * 2 ^ a + lo < (hi * 2 ^ b + v % 2 ^ b + 1) * 2 ^ a := by rw [Nat.add_mul _ 1]; omega
    _ ≤ _ := Nat.mul_le_mul_right _ h3

/-- Bytes put into a line are read from it. -/
theorem lineGet_linePut (d : Line) {off n : Nat} (v : Nat) (h : off + n ≤ 128) : lineGet (linePut d off n v) off n = v % 2 ^ (8 * n) := by
  have hlt := replaceField_lt (v := v) d.isLt (show 8 * off + 8 * n ≤ 1024 by omega)
  unfold lineGet linePut
  rw [BitVec.toNat_ofNat, lineGet, Nat.mod_eq_of_lt hlt, replaceField_get]

/-! ### Lines of HBM -/

theorem putRaw_get (m : MemS) (hl : Nat) (d : Line) (a : Nat) :
    tget 0 (putRaw m hl d).hbm a = if a / 128 = hl then BitVec.ofNat 8 (lineGet d (a % 128) 1) else tget 0 m.hbm a := by
  have key : ∀ (ks : List Nat) (c : List Host.Cell), (∀ k ∈ ks, k < 128) →
      tget 0 (ks.foldl (fun c k => tset 0 c (hl * 128 + k) (BitVec.ofNat 8 (lineGet d k 1))) c) a =
        if a / 128 = hl ∧ a % 128 ∈ ks then BitVec.ofNat 8 (lineGet d (a % 128) 1) else tget 0 c a := by
    intro ks
    induction ks with
    | nil => intro c _; simp
    | cons k ks ih =>
      intro c hk
      have hk0 := hk k (by simp)
      rw [List.foldl_cons, ih _ fun x hx => hk x (List.mem_cons_of_mem _ hx), tget_tset]
      by_cases h : a / 128 = hl ∧ a % 128 ∈ ks
      · rw [if_pos h, if_pos ⟨h.1, List.mem_cons_of_mem _ h.2⟩]
      · rw [if_neg h]
        by_cases ha : a = hl * 128 + k
        · have hm : a % 128 = k := by omega
          rw [if_pos ha, if_pos ⟨by omega, hm ▸ List.mem_cons_self⟩, hm]
        · rw [if_neg ha, if_neg]
          rintro ⟨h1, h2⟩
          rcases List.mem_cons.1 h2 with h2 | h2
          · omega
          · exact h ⟨h1, h2⟩
  unfold putRaw
  dsimp only
  rw [key (List.range 128) m.hbm fun k => List.mem_range.1]
  simp only [List.mem_range, Nat.mod_lt a (show 128 > 0 by decide), and_true]

/-- The low bytes of a number, put together again. -/
theorem foldr_bytes (x : Nat) : ∀ n j : Nat, (List.range' j n).foldr (fun k acc => x / 2 ^ (8 * k) % 256 + 256 * acc) 0 = x / 2 ^ (8 * j) % 256 ^ n
  | 0, j => by simp [Nat.mod_one]
  | n + 1, j => by
    rw [List.range'_succ, List.foldr_cons, foldr_bytes x n (j + 1), pow_succ', Nat.mod_mul, Nat.div_div_eq_div_mul,
      show (2 : Nat) ^ (8 * (j + 1)) = 2 ^ (8 * j) * 256 by rw [Nat.mul_add, pow_add]; rfl]

theorem rawLine_putRaw_same (m : MemS) (hl : Nat) (d : Line) : rawLine (putRaw m hl d) hl = d := by
  have hb : ∀ k ∈ List.range 128, (tget 0 (putRaw m hl d).hbm (hl * 128 + k)).toNat = d.toNat / 2 ^ (8 * k) % 256 := by
    intro k hk
    have hk' := List.mem_range.1 hk
    rw [putRaw_get, if_pos (by omega), show (hl * 128 + k) % 128 = k by omega, BitVec.toNat_ofNat, lineGet]
    exact Nat.mod_eq_of_lt (Nat.mod_lt _ (by decide))
  unfold rawLine
  rw [List.foldr_ext _ _ _ fun k hk acc => by rw [hb k hk], List.range_eq_range', foldr_bytes]
  apply BitVec.eq_of_toNat_eq
  have := d.isLt
  rw [BitVec.toNat_ofNat, Nat.mul_zero, pow_zero, Nat.div_one, show (256 : Nat) ^ 128 = 2 ^ 1024 from (pow_mul 2 8 128).symm, Nat.mod_mod,
    Nat.mod_eq_of_lt this]

theorem rawLine_putRaw_other (m : MemS) {hl hl' : Nat} (d : Line) (h : hl' ≠ hl) : rawLine (putRaw m hl d) hl' = rawLine m hl' := by
  unfold rawLine
  rw [List.foldr_ext _ _ _ fun k hk acc => by
    have hk' := List.mem_range.1 hk
    rw [putRaw_get, if_neg (by omega)]]

theorem rawLine_congr {m m' : MemS} (h : m'.hbm = m.hbm) (hl : Nat) : rawLine m' hl = rawLine m hl := by unfold rawLine; rw [h]

theorem writeKeyed_keyed (m : MemS) (hl key tweak : Nat) (d : Line) : (writeKeyed m hl key tweak d).keyed = tput m.keyed hl (key, tweak) := by
  unfold writeKeyed; dsimp only

theorem writeKeyed_hbm (m : MemS) (hl key tweak : Nat) (d : Line) : (writeKeyed m hl key tweak d).hbm = (putRaw m hl d).hbm := by
  unfold writeKeyed; dsimp only

theorem zeroLine_keyed (m : MemS) (hl : Nat) : (zeroLine m hl).keyed = terase m.keyed hl := by unfold zeroLine; dsimp only

theorem zeroLine_hbm (m : MemS) (hl : Nat) : (zeroLine m hl).hbm = (putRaw m hl 0).hbm := by unfold zeroLine; dsimp only

theorem zeroLine_l2 (m : MemS) (hl : Nat) : (zeroLine m hl).l2 = m.l2 := by unfold zeroLine putRaw; dsimp only

/-- Reading a line needs its key and its bytes. -/
theorem readKeyed_congr {m m' : MemS} {hl : Nat} (hk : tfind m'.keyed hl = tfind m.keyed hl) (hr : rawLine m' hl = rawLine m hl) (key tweak : Nat) :
    readKeyed m' hl key tweak = readKeyed m hl key tweak := by
  unfold readKeyed; rw [hk, hr]

theorem readKeyed_writeKeyed_same (m : MemS) (hl key tweak : Nat) (d : Line) : readKeyed (writeKeyed m hl key tweak d) hl key tweak = (d, false) := by
  have hk : tfind (writeKeyed m hl key tweak d).keyed hl = some (key, tweak) := by simp [writeKeyed_keyed]
  have hr : rawLine (writeKeyed m hl key tweak d) hl = d :=
    (rawLine_congr (writeKeyed_hbm m hl key tweak d) hl).trans (rawLine_putRaw_same m hl d)
  unfold readKeyed
  simp only [hk, hr, and_self, if_true]

theorem readKeyed_writeKeyed_other (m : MemS) {hl hl' : Nat} (k t : Nat) (d : Line) (h : hl' ≠ hl) (key tweak : Nat) :
    readKeyed (writeKeyed m hl k t d) hl' key tweak = readKeyed m hl' key tweak :=
  readKeyed_congr (m' := writeKeyed m hl k t d) (by rw [writeKeyed_keyed, tfind_tput, if_neg h])
    ((rawLine_congr (writeKeyed_hbm m hl k t d) hl').trans (rawLine_putRaw_other m d h)) key tweak

theorem readKeyed_zeroLine_same (m : MemS) (hl key tweak : Nat) : readKeyed (zeroLine m hl) hl key tweak = (0, true) := by
  have hk : tfind (zeroLine m hl).keyed hl = none := by simp [zeroLine_keyed]
  unfold readKeyed; rw [hk]

theorem readKeyed_zeroLine_other (m : MemS) {hl hl' : Nat} (h : hl' ≠ hl) (key tweak : Nat) :
    readKeyed (zeroLine m hl) hl' key tweak = readKeyed m hl' key tweak :=
  readKeyed_congr (m' := zeroLine m hl) (by rw [zeroLine_keyed, tfind_terase, if_neg h])
    ((rawLine_congr (zeroLine_hbm m hl) hl').trans (rawLine_putRaw_other m 0 h)) key tweak

/-- The n lines from b zeroed, as SCRUB does it (R49). -/
@[irreducible] def zeroLines (m : MemS) (b n : Nat) : MemS := (List.range n).foldl (fun m j => zeroLine m (b + j)) m

theorem zeroLines_zero (m : MemS) (b : Nat) : zeroLines m b 0 = m := by unfold zeroLines; rfl

theorem zeroLines_succ (m : MemS) (b n : Nat) : zeroLines m b (n + 1) = zeroLine (zeroLines m b n) (b + n) := by
  unfold zeroLines; rw [List.range_succ, List.foldl_append]; rfl

theorem readKeyed_zeroLines (m : MemS) (b n hl key tweak : Nat) :
    readKeyed (zeroLines m b n) hl key tweak = if b ≤ hl ∧ hl < b + n then (0, true) else readKeyed m hl key tweak := by
  induction n with
  | zero => rw [if_neg (by omega), zeroLines_zero]
  | succ n ih =>
    rw [zeroLines_succ]
    by_cases h : hl = b + n
    · subst h; rw [readKeyed_zeroLine_same, if_pos (by omega)]
    · rw [readKeyed_zeroLine_other _ h, ih]
      by_cases h1 : b ≤ hl ∧ hl < b + n
      · rw [if_pos h1, if_pos (by omega)]
      · rw [if_neg h1, if_neg (by omega)]

theorem zeroLines_l2 (m : MemS) (b n : Nat) : (zeroLines m b n).l2 = m.l2 := by
  induction n with
  | zero => rw [zeroLines_zero]
  | succ n ih => rw [zeroLines_succ, zeroLine_l2, ih]

/-! ### The steward's memory -/

variable (s : State)

/-- A read of the steward's memory needs its line at the L2, the memory key of world 0 and the line in HBM. -/
theorem hostRead_congr {s s' : State} {h : Nat} (hl2 : s'.l2? true 0 (h / 128) = s.l2? true 0 (h / 128)) (hkeys : s'.memKey 0 = s.memKey 0)
    (hmem : readKeyed s'.mem (h / 128) (s.memKey 0) (h / 128) = readKeyed s.mem (h / 128) (s.memKey 0) (h / 128)) (n : Nat) :
    s'.hostRead h n = s.hostRead h n := by
  unfold State.hostRead
  rw [hl2, hkeys, hmem]

theorem hostRead_hostWrite_same {h n : Nat} (v : Nat) (hn : h % 128 + n ≤ 128) : (s.hostWrite h n v).hostRead h n = v % 2 ^ (8 * n) := by
  cases hl : s.l2? true 0 (h / 128) with
  | some l =>
    have hw : s.hostWrite h n v = s.putL2 true 0 (h / 128) { l with data := linePut l.data (h % 128) n v, zero := false, dirty := true } := by
      unfold State.hostWrite; simp only [hl]
    have hl' : (s.hostWrite h n v).l2? true 0 (h / 128) = some { l with data := linePut l.data (h % 128) n v, zero := false, dirty := true } := by
      rw [hw]; simp [State.l2?, State.putL2]
    unfold State.hostRead
    rw [hl']
    exact lineGet_linePut l.data v hn
  | none =>
    have hw : s.hostWrite h n v =
        let m := writeKeyed s.mem (h / 128) (s.memKey 0) (h / 128) (linePut (readKeyed s.mem (h / 128) (s.memKey 0) (h / 128)).1 (h % 128) n v)
        { s with mem := onFill m true 0 (h / 128) (fun g => (linePut g.1 (h % 128) n v, false, g.2.2)) } := by
      unfold State.hostWrite; simp only [hl]
    have hl' : (s.hostWrite h n v).l2? true 0 (h / 128) = none := by rw [hw]; exact hl
    have hr : readKeyed (s.hostWrite h n v).mem (h / 128) ((s.hostWrite h n v).memKey 0) (h / 128) =
        (linePut (readKeyed s.mem (h / 128) (s.memKey 0) (h / 128)).1 (h % 128) n v, false) := by
      rw [hw]; exact readKeyed_writeKeyed_same s.mem (h / 128) (s.memKey 0) (h / 128) _
    unfold State.hostRead
    rw [hl', hr]
    exact lineGet_linePut _ v hn

/-- A write of the steward's memory leaves every other line of HBM, and of the L2, as it was. -/
theorem readKeyed_hostWrite_other {h hl : Nat} (n v : Nat) (hne : hl ≠ h / 128) (key tweak : Nat) :
    readKeyed (s.hostWrite h n v).mem hl key tweak = readKeyed s.mem hl key tweak := by
  unfold State.hostWrite
  split
  · exact readKeyed_congr rfl rfl key tweak
  · exact readKeyed_writeKeyed_other s.mem _ _ _ hne key tweak

/-- ... and every line of another world. -/
theorem l2?_hostWrite_world (h n v : Nat) {w line : Nat} (hw : w < 256) (hl : line < 2 ^ 45) :
    (s.hostWrite h n v).l2? false w line = s.l2? false w line := by
  unfold State.hostWrite
  split
  · have hne : l2Key false w line ≠ l2Key true 0 (h / 128) := by unfold l2Key; simp; omega
    simp [State.l2?, State.putL2, hne]
  · rfl

theorem hostWrite_frame (h n v : Nat) : ∃ m, s.hostWrite h n v = { s with mem := m } := by
  unfold State.hostWrite; split <;> exact ⟨_, rfl⟩

theorem setGran_frame (g : Nat) (e : Word) : ∃ m, s.setGran g e = { s with mem := m } := by
  unfold State.setGran
  split
  · exact ⟨s.mem, rfl⟩
  · exact hostWrite_frame s _ _ _

theorem stwBase_dvd : 4096 ∣ s.stwBase := ⟨(s.pkg 0x06F).toNat % 1024 * 2 ^ 18, by unfold State.stwBase; omega⟩

/-- The granule table says what was last set (R50). -/
theorem gran_setGran_same (g : Nat) (e : Word) : (s.setGran g e).gran g = e := by
  unfold State.setGran
  split
  · assumption
  · have hb : (s.hostWrite (s.stwBase + 4 * g) 4 e.toNat).stwBase = s.stwBase := by
      obtain ⟨m, hm⟩ := hostWrite_frame s (s.stwBase + 4 * g) 4 e.toNat
      rw [hm]; rfl
    have hd := stwBase_dvd s
    unfold State.gran
    rw [hb, hostRead_hostWrite_same _ _ (by omega)]
    apply BitVec.eq_of_toNat_eq
    have := e.isLt
    rw [BitVec.toNat_ofNat]; omega

theorem readKeyed_setGran_other {g hl : Nat} (e : Word) (hne : hl ≠ (s.stwBase + 4 * g) / 128) (key tweak : Nat) :
    readKeyed (s.setGran g e).mem hl key tweak = readKeyed s.mem hl key tweak := by
  unfold State.setGran
  split
  · rfl
  · exact readKeyed_hostWrite_other s 4 _ hne key tweak

theorem l2?_setGran_world (g : Nat) (e : Word) {w line : Nat} (hw : w < 256) (hl : line < 2 ^ 45) :
    (s.setGran g e).l2? false w line = s.l2? false w line := by
  unfold State.setGran
  split
  · rfl
  · exact l2?_hostWrite_world s _ _ _ hw hl

end Sys2Proof.Machine
end

section
/-! SCRUB and the frame pools (O29). -/

namespace Sys2Proof.Machine

/-! ### The second stage reads the steward's memory alone (R31) -/

theorem s2Entry_congr {s s' : State} (hr : ∀ h n, s'.hostRead h n = s.hostRead h n) (hf : s'.fresh = s.fresh) (gpa base n : Nat) :
    s2Entry s' gpa base n = s2Entry s gpa base n := by
  unfold s2Entry; simp only [hr, hf]

theorem s2Walk_congr {s s' : State} (he : ∀ gpa base n, s2Entry s' gpa base n = s2Entry s gpa base n) (gpa base n : Nat) :
    s2Walk s' gpa base n = s2Walk s gpa base n := by
  have go : ∀ f base n, s2Walk.go s' gpa f base n = s2Walk.go s gpa f base n := by
    intro f
    induction f with
    | zero => intro base n; rfl
    | succ f ih => intro base n; unfold s2Walk.go; simp only [he, ih]
  exact go 4 base n

theorem s2Leaf_congr {s s' : State} (hr : ∀ h n, s'.hostRead h n = s.hostRead h n) (hs : s' = { s with mem := s'.mem }) (part gpa : Nat) :
    s'.s2Leaf part gpa = s.s2Leaf part gpa := by
  have hf : s'.fresh = s.fresh := by rw [hs]
  have hc : s'.xl = s.xl := by rw [hs]
  have hp : ∀ k, s'.preg part k = s.preg part k := by intro k; rw [hs]; rfl
  have hi : ∀ h, s'.inSteward h = s.inSteward h := by intro h; rw [hs]; rfl
  unfold State.s2Leaf
  simp only [hc, hp, hi, s2Walk_congr (s2Entry_congr hr hf)]

/-! ### A frame leaves the caches, and its lines become zero lines -/

theorem tfind_filter {α : Type} (t : Table α) (p : Nat × α → Bool) (k : Nat) (b : Bool) (h : ∀ v, p (k, v) = b) :
    tfind (t.filter p) k = if b then tfind t k else none := by
  induction t with
  | nil => cases b <;> rfl
  | cons e t ih =>
    obtain ⟨j, v⟩ := e
    rw [List.filter_cons]
    by_cases hj : j = k
    · subst hj
      rw [h v]
      cases b
      · exact ih
      · simp [tfind]
    · split
      · simpa only [tfind, hj, if_false] using ih
      · simpa only [tfind, hj, if_false] using ih

/-- The lines of a frame have left every cache (R49). -/
def State.dropFrame (s : State) (part gpa n : Nat) : State :=
  let mine := fun (w l : Nat) => s.topPart w == some part && decide (gpa ≤ l * 128) && decide (l * 128 < gpa + n)
  let s1 := s.dropLines mine
  { s1 with mem := { s1.mem with l2 := s1.mem.l2.filter (fun e => keyIdent e.1 || !mine (keyTag e.1) (keyLine e.1)) } }

/-- The lines of one granule have become zero lines, charged to the partition. -/
def State.zeroGran (s : State) (part h : Nat) : State :=
  { s with mem := zeroLines s.mem (h / 128) 32 }.chargeLines (stackOf h) (some part) 32

/-- One granule of a frame scrubbed, its lines gone from the caches. -/
def State.scrubGran (s : State) (part g : Nat) : State :=
  match s.s2Leaf part g with
  | none => s
  | some (sz, e) =>
    let h := entFrame e + g % 2 ^ pageBits sz
    if regionOf h ≠ .hbm then s
    else
      let z := s.zeroGran part h
      (z.setGran (h / 4096) (granMake false (granOffline (z.gran (h / 4096))) (granUcount (z.gran (h / 4096))) 0 0)).markDirty part g

theorem scrubFrame_eq (s : State) (part gpa size : Nat) : s.scrubFrame part gpa size =
    (List.range (2 ^ pageBits size / 4096)).foldl (fun s k => s.scrubGran part (gpa + 4096 * k)) (s.dropFrame part gpa (2 ^ pageBits size)) := by
  unfold State.scrubFrame State.dropFrame State.scrubGran State.zeroGran zeroLines
  rfl

theorem dropFrame_l2_ident (s : State) (part gpa n line : Nat) : (s.dropFrame part gpa n).l2? true 0 line = s.l2? true 0 line := by
  have hi : keyIdent (l2Key true 0 line) = true := by simp [keyIdent, l2Key]; omega
  exact tfind_filter s.mem.l2 _ (l2Key true 0 line) true fun v => by simp only [hi, Bool.true_or]

theorem dropFrame_l2_gone (s : State) {part gpa n w line : Nat} (hw : w < 256) (hl : line < 2 ^ 45) (hp : s.topPart w = some part)
    (h1 : gpa ≤ line * 128) (h2 : line * 128 < gpa + n) : (s.dropFrame part gpa n).l2? false w line = none := by
  have hi : keyIdent (l2Key false w line) = false := by simp [keyIdent, l2Key]; omega
  have ht : keyTag (l2Key false w line) = w := by simp [keyTag, l2Key]; omega
  have hk : keyLine (l2Key false w line) = line := by simp [keyLine, l2Key]; omega
  exact tfind_filter s.mem.l2 _ (l2Key false w line) false fun v => by simp [hi, ht, hk, hp, h1, h2]

theorem dropFrame_hostRead (s : State) (part gpa n h k : Nat) : (s.dropFrame part gpa n).hostRead h k = s.hostRead h k :=
  hostRead_congr (dropFrame_l2_ident s part gpa n _) rfl (readKeyed_congr rfl rfl _ _) k

theorem dropFrame_stwBase (s : State) (part gpa n : Nat) : (s.dropFrame part gpa n).stwBase = s.stwBase := rfl

theorem dropFrame_gran (s : State) (part gpa n g : Nat) : (s.dropFrame part gpa n).gran g = s.gran g := by
  unfold State.gran
  rw [dropFrame_hostRead, dropFrame_stwBase]

/-- The account of the controllers is no line. -/
theorem chargeLines_readKeyed (s : State) (a n hl key tweak : Nat) (p : Option Nat) :
    readKeyed (s.chargeLines a p n).mem hl key tweak = readKeyed s.mem hl key tweak := by
  cases p <;> exact readKeyed_congr rfl (rawLine_congr rfl hl) key tweak

theorem chargeLines_l2 (s : State) (a n : Nat) (p : Option Nat) (i : Bool) (w line : Nat) :
    (s.chargeLines a p n).l2? i w line = s.l2? i w line := by
  cases p <;> rfl

theorem chargeLines_frame (s : State) (a n : Nat) (p : Option Nat) : s.chargeLines a p n = { s with mem := (s.chargeLines a p n).mem } := by
  cases p <;> rfl

theorem zeroGran_frame (s : State) (part h : Nat) : ∃ m, s.zeroGran part h = { s with mem := m } := by
  unfold State.zeroGran
  generalize zeroLines s.mem (h / 128) 32 = m
  exact ⟨_, chargeLines_frame { s with mem := m } _ _ _⟩

theorem zeroGran_readKeyed (s : State) (part h hl key tweak : Nat) : readKeyed (s.zeroGran part h).mem hl key tweak =
    if h / 128 ≤ hl ∧ hl < h / 128 + 32 then (0, true) else readKeyed s.mem hl key tweak := by
  rw [← readKeyed_zeroLines]
  unfold State.zeroGran
  generalize zeroLines s.mem (h / 128) 32 = m
  exact chargeLines_readKeyed { s with mem := m } _ _ hl key tweak _

theorem zeroGran_l2 (s : State) (part h : Nat) (i : Bool) (w line : Nat) : (s.zeroGran part h).l2? i w line = s.l2? i w line := by
  have hl := zeroLines_l2 s.mem (h / 128) 32
  unfold State.zeroGran
  generalize zeroLines s.mem (h / 128) 32 = m at hl ⊢
  rw [chargeLines_l2]
  exact congrArg (tfind · (l2Key i w line)) hl

/-- A frame outside the steward region does not hold its own granule entry. -/
theorem zeroGran_gran {s : State} {part h : Nat} (hh : h % 4096 = 0) (hs : h < s.stwBase) (g : Nat) : (s.zeroGran part h).gran g = s.gran g := by
  have hd := stwBase_dvd s
  obtain ⟨m, hm⟩ := zeroGran_frame s part h
  have hr : (s.zeroGran part h).hostRead (s.stwBase + 4 * g) 4 = s.hostRead (s.stwBase + 4 * g) 4 :=
    hostRead_congr (zeroGran_l2 s part h true 0 _) (by rw [hm]; rfl) (by rw [zeroGran_readKeyed, if_neg (by omega)]) 4
  have hb : (s.zeroGran part h).stwBase = s.stwBase := by rw [hm]; rfl
  unfold State.gran
  rw [hb, hr]

/-! ### SCRUB of a 4 KiB frame (R49, R51) -/

theorem regionOf_hbm_lt {h : Nat} (hr : regionOf h = .hbm) : h < 0x9000000000 := by
  unfold regionOf at hr
  split at hr
  · assumption
  · split at hr
    · cases hr
    · split at hr <;> cases hr

/-- A mapped granule lies outside the steward region (R16). -/
theorem s2Leaf_below_steward {s : State} {q gpa sz : Nat} {e : Dword} (hs : s.s2Leaf q gpa = some (sz, e))
    (hr : regionOf (entFrame e + gpa % 2 ^ pageBits sz) = .hbm) : entFrame e + gpa % 2 ^ pageBits sz < s.stwBase := by
  unfold State.s2Leaf at hs
  simp only at hs
  split at hs
  · cases hs
  · split at hs
    · cases hs
    · split at hs
      · cases hs
      · rename_i hno
        cases hs
        have hst : s.inSteward (entFrame e + gpa % 2 ^ pageBits sz) = false := by simpa using fun h => hno (.inr (.inr h))
        have hlt : entFrame e + gpa % 2 ^ pageBits sz < 0x9000000000 := regionOf_hbm_lt hr
        simp only [State.inSteward, hlt, decide_true, Bool.and_true, decide_eq_false_iff_not] at hst
        omega

theorem markDirty_off {s : State} {q gpa : Nat} (h : (s.preg q 0x065).getLsbD 31 = false) : s.markDirty q gpa = s := by
  unfold State.markDirty; simp only [h, Bool.not_false, if_true]

theorem scrubFrame_small {s : State} {q gpa sz : Nat} {e : Dword} (hs : s.s2Leaf q gpa = some (sz, e)) (hd : (s.preg q 0x065).getLsbD 31 = false)
    (hr : regionOf (entFrame e + gpa % 2 ^ pageBits sz) = .hbm) :
    let h := entFrame e + gpa % 2 ^ pageBits sz
    let z := (s.dropFrame q gpa 4096).zeroGran q h
    s.scrubFrame q gpa 0 = z.setGran (h / 4096) (granMake false (granOffline (z.gran (h / 4096))) (granUcount (z.gran (h / 4096))) 0 0) := by
  intro h z
  have hs' : (s.dropFrame q gpa 4096).s2Leaf q (gpa + 4096 * 0) = some (sz, e) :=
    (s2Leaf_congr (dropFrame_hostRead s q gpa 4096) rfl q gpa).trans hs
  have hdz : ((z.setGran (h / 4096) (granMake false (granOffline (z.gran (h / 4096))) (granUcount (z.gran (h / 4096))) 0 0)).preg q 0x065).getLsbD 31 =
      false := by
    obtain ⟨m, hm⟩ := zeroGran_frame (s.dropFrame q gpa 4096) q h
    obtain ⟨m', hm'⟩ := setGran_frame z (h / 4096) (granMake false (granOffline (z.gran (h / 4096))) (granUcount (z.gran (h / 4096))) 0 0)
    rw [hm', show z = _ from hm]; exact hd
  rw [scrubFrame_eq, show List.range (2 ^ pageBits 0 / 4096) = [0] by decide, List.foldl_cons, List.foldl_nil]
  unfold State.scrubGran
  simp only [show 2 ^ pageBits 0 = 4096 by decide, hs']
  rw [if_neg (by simpa using hr)]
  exact markDirty_off hdz

theorem entFrame_granule {gpa : Nat} (e : Dword) (sz : Nat) (hg : gpa % 4096 = 0) : (entFrame e + gpa % 2 ^ pageBits sz) % 4096 = 0 := by
  have h12 : 12 ≤ pageBits sz := by unfold pageBits; split <;> omega
  obtain ⟨k, hk⟩ := Nat.exists_eq_add_of_le h12
  have hm : gpa % 2 ^ pageBits sz % 4096 = gpa % 4096 := by
    rw [hk, pow_add]; exact Nat.mod_mul_right_mod gpa (2 ^ 12) (2 ^ k)
  unfold entFrame; omega

/-- The fields of an entry of the granule table as SCRUB makes it (R51). -/
theorem granMake_fields (o : Bool) (u : Nat) (hu : u < 64) : granOwner (granMake false o u 0 0) = 0 ∧ granWb (granMake false o u 0 0) = 0 ∧
    granSealed (granMake false o u 0 0) = false ∧ granOffline (granMake false o u 0 0) = o ∧ granUcount (granMake false o u 0 0) = u := by
  have h : ∀ v : BitVec 6, granOwner (BitVec.ofBool false ++ BitVec.ofBool o ++ v ++ BitVec.ofNat 8 0 ++ (0 : Waybill)) = 0 ∧
      granWb (BitVec.ofBool false ++ BitVec.ofBool o ++ v ++ BitVec.ofNat 8 0 ++ (0 : Waybill)) = 0 ∧
      granSealed (BitVec.ofBool false ++ BitVec.ofBool o ++ v ++ BitVec.ofNat 8 0 ++ (0 : Waybill)) = false ∧
      granOffline (BitVec.ofBool false ++ BitVec.ofBool o ++ v ++ BitVec.ofNat 8 0 ++ (0 : Waybill)) = o ∧
      granUcount (BitVec.ofBool false ++ BitVec.ofBool o ++ v ++ BitVec.ofNat 8 0 ++ (0 : Waybill)) = v.toNat := by
    cases o <;> decide +revert
  have hv := h (BitVec.ofNat 6 u)
  rwa [BitVec.toNat_ofNat, Nat.mod_eq_of_lt (by omega)] at hv

/-- What SCRUB leaves of a frame at a host-physical address h below the steward region, its lines gone from the caches. -/
theorem scrubbed_spec {s : State} {q gpa h : Nat} (hh : h % 4096 = 0) (hst : h < s.stwBase) (e : Word) :
    (∀ j key tweak, j < 32 → readKeyed (((s.dropFrame q gpa 4096).zeroGran q h).setGran (h / 4096) e).mem (h / 128 + j) key tweak = (0, true)) ∧
    (∀ w line, w < 256 → line < 2 ^ 45 → s.topPart w = some q → gpa ≤ line * 128 → line * 128 < gpa + 4096 →
      (((s.dropFrame q gpa 4096).zeroGran q h).setGran (h / 4096) e).l2? false w line = none) ∧
    (((s.dropFrame q gpa 4096).zeroGran q h).setGran (h / 4096) e).strs = s.strs := by
  obtain ⟨m, hm⟩ := zeroGran_frame (s.dropFrame q gpa 4096) q h
  obtain ⟨m', hm'⟩ := setGran_frame ((s.dropFrame q gpa 4096).zeroGran q h) (h / 4096) e
  have hdvd := stwBase_dvd s
  have hb : ((s.dropFrame q gpa 4096).zeroGran q h).stwBase = s.stwBase := by rw [hm]; rfl
  refine ⟨fun j key tweak hj => ?_, fun w line hw hl hp h1 h2 => ?_, ?_⟩
  · rw [readKeyed_setGran_other _ e (by rw [hb]; omega), zeroGran_readKeyed, if_pos (by omega)]
  · rw [l2?_setGran_world _ _ e hw hl, zeroGran_l2, dropFrame_l2_gone s hw hl hp h1 h2]
  · rw [hm', hm]; rfl

theorem scrubFrame_small_eq {s : State} {q gpa sz : Nat} {e : Dword} (hs : s.s2Leaf q gpa = some (sz, e)) (hg : gpa % 4096 = 0)
    (hd : (s.preg q 0x065).getLsbD 31 = false) (hr : regionOf (entFrame e + gpa % 2 ^ pageBits sz) = .hbm) :
    let h := entFrame e + gpa % 2 ^ pageBits sz
    s.scrubFrame q gpa 0 = ((s.dropFrame q gpa 4096).zeroGran q h).setGran (h / 4096)
      (granMake false (granOffline (s.gran (h / 4096))) (granUcount (s.gran (h / 4096))) 0 0) := by
  intro h
  have hgran : ((s.dropFrame q gpa 4096).zeroGran q h).gran (h / 4096) = s.gran (h / 4096) :=
    (zeroGran_gran (entFrame_granule e sz hg) (by rw [dropFrame_stwBase]; exact s2Leaf_below_steward hs hr) _).trans (dropFrame_gran s q gpa 4096 _)
  rw [← hgran]
  exact scrubFrame_small hs hd hr

/-! ### What SCRUB answers (R346) -/

section
variable {d a : BitVec 6} {f : BitVec 1} {z : BitVec 2} {s : State} {q : Nat}

/-- The guest-physical address SCRUB names, and its destination with a result code in it. -/
def State.scrubGpa (s : State) (a : BitVec 6) : Nat := (s.cur.spair a.toNat).toNat % 2 ^ 52

def State.scrubDone (s s1 : State) (d a : BitVec 6) (c : Nat) : State :=
  s1.goOn (s.cur.sput d.toNat (BitVec.ofNat 32 (c * 2 ^ 24)) (s.cur.sws a.toNat 2 ||| s.curp.flow)) s.curp

theorem resultWord_zero (c : Nat) : resultWord c 0 = BitVec.ofNat 32 (c * 2 ^ 24) := by
  unfold resultWord; rw [Nat.zero_mod, Nat.add_zero]

theorem scrub_form (hr : ready (.scrub d a f z) s = true) (h : s.scrubGpa a % 2 ^ pageBits z.toNat ≠ 0 ∨ s.scrubGpa a = 0) :
    execScrub d a f z s = .next (s.scrubDone s d a 3) := by
  unfold execScrub
  rw [issued_ready hr]
  unfold State.scrubGpa at h
  simp only [if_pos h, finish_goOn, resultWord_zero]
  rfl

/-- A frame none of whose granules is unmapped, read-only or sealed. -/
theorem scrubFault_none {part : Nat} {gs : List (Nat × Option (Dword × Word))}
    (h : ∀ x ∈ gs, ∃ e g, x.2 = some (e, g) ∧ e.getLsbD 2 = true ∧ g.getLsbD 31 = false) : scrubFault s part gs = none := by
  refine List.findSome?_eq_none_iff.2 fun x hx => ?_
  obtain ⟨e, g, hxg, he, hg⟩ := h x hx
  simp only [hxg, he, granSealed, hg, Bool.not_true, Bool.false_eq_true, if_false]

/-- Is a granule of a frame OFFLINE? -/
def cellOffline : Option (Dword × Word) → Bool
  | some (_, g) => granOffline g
  | none => false

/-- SCRUB of an aligned frame that nothing stops: OFFLINE, in the pool, or FULL. -/
theorem scrub_frame (hr : ready (.scrub d a f z) s = true) (h1 : s.scrubGpa a % 2 ^ pageBits z.toNat = 0) (h2 : s.scrubGpa a ≠ 0)
    (hp : s.topPart s.cur.world = some q) (hf : scrubFault s q (s.frameGrans q (s.scrubGpa a) z.toNat) = none) :
    execScrub d a f z s =
      let s1 := s.scrubFrame q (s.scrubGpa a) z.toNat
      if (s.frameGrans q (s.scrubGpa a) z.toNat).any (fun x => cellOffline x.2) then .next (s.scrubDone s1 d a 1)
      else if 2 ^ 18 ≤ (s1.pool q z.toNat).length then .next (s.scrubDone s1 d a 2)
      else .next (s.scrubDone (s1.setPool q z.toNat (s1.pool q z.toNat ++ [s.scrubGpa a])) d a 0) := by
  have hno : ¬ (s.scrubGpa a % 2 ^ pageBits z.toNat ≠ 0 ∨ s.scrubGpa a = 0) := by omega
  unfold execScrub
  rw [issued_ready hr]
  unfold State.scrubGpa at *
  simp only [if_neg hno, hp, hf, finish_goOn, resultWord_zero]
  generalize s.scrubFrame q _ z.toNat = s1
  congr 1
  by_cases hfull : 2 ^ 18 ≤ (s1.pool q z.toNat).length
  · rw [if_pos hfull, show s1.poolPut q z.toNat _ = (false, s1) from if_pos hfull]; rfl
  · rw [if_neg hfull, show s1.poolPut q z.toNat _ = (true, _) from if_neg hfull]; rfl

/-- A sealed granule that comes first stops SCRUB with the trap of a uniform store (R346, R439). -/
theorem scrub_sealed {g : Nat} {e : Dword} {x : Word} {rest : List (Nat × Option (Dword × Word))} (hr : ready (.scrub d a f z) s = true)
    (h1 : s.scrubGpa a % 2 ^ pageBits z.toNat = 0) (h2 : s.scrubGpa a ≠ 0) (hp : s.topPart s.cur.world = some q)
    (hg : s.frameGrans q (s.scrubGpa a) z.toNat = (g, some (e, x)) :: rest) (he : e.getLsbD 2 = true) (hx : x.getLsbD 31 = true) :
    execScrub d a f z s = takeTrap s s.cur
      ⟨cSEALED, s.curp.here, s.curp.pos, BitVec.ofNat 64 g, 0, some (tinfoWord 0 12 0 0 7), none, none, none⟩ := by
  have hno : ¬ (s.scrubGpa a % 2 ^ pageBits z.toNat ≠ 0 ∨ s.scrubGpa a = 0) := by omega
  have hf : scrubFault s q ((g, some (e, x)) :: rest) = some (g, ⟨35, cSEALED, 12, 0, 0⟩) := by
    unfold scrubFault
    simp only [List.findSome?_cons, he, granSealed, hx, Bool.not_true, Bool.false_eq_true, if_false, if_true]
  unfold execScrub
  rw [issued_ready hr]
  unfold State.scrubGpa at *
  simp only [if_neg hno, hp, hg, hf]
  rw [show s.cur.setPath s.curPath s.curp = s.cur from setPath_self _ _]
  rfl

end

/-! ### Reads of the frame pools (R48) -/

section
variable {d : BitVec 6} {r : BitVec 12} {s : State} {t : Str} {p : Path} {n k q : Nat}

/-- The path that reads a pool, as a waiting reader. -/
def State.isReader (s : State) (w : PoolWait) : Bool := w.who == some (s.curUnit, s.curPath)

/-- The machine without the issuing path among the waiting readers. -/
def State.leavePools (s : State) : State := { s with xl := { s.xl with poolWait := s.xl.poolWait.filter (fun w => !s.isReader w) } }

/-- Does a reader wait for a frame of the pool? -/
def State.poolAwaited (s : State) (q z : Nat) : Bool := s.xl.poolWait.any (fun w => w.part == q && w.size == z)

theorem poolAwaited_iff {z : Nat} : s.poolAwaited q z = true ↔ ∃ w ∈ s.xl.poolWait, w.part = q ∧ w.size = z := by
  simp [State.poolAwaited]

theorem leavePools_awaited {z : Nat} (h : ∀ w ∈ s.xl.poolWait, w.part = q → w.size = z → s.isReader w = true) :
    s.leavePools.poolAwaited q z = false := by
  rw [← Bool.not_eq_true, poolAwaited_iff]
  rintro ⟨w, hw, hq, hz⟩
  obtain ⟨hw1, hw2⟩ := List.mem_filter.1 hw
  simp [h w hw1 hq hz] at hw2

theorem poolTake_cons {z g : Nat} {rest : List Nat} (h : tget [] s.xl.pools (q * 4 + z) = g :: rest) :
    s.poolTake q z = some (g, s.setPool q z rest) := by
  unfold State.poolTake State.pool; rw [h]

theorem poolTake_nil {z : Nat} (h : tget [] s.xl.pools (q * 4 + z) = []) : s.poolTake q z = none := by
  unfold State.poolTake State.pool; rw [h]

theorem putCur_curp (s : State) (t : Str) (p : Path) : (s.putCur t p).curp = p := by
  unfold State.curp
  rw [putCur_cur]
  exact setPath_path t s.curPath p

theorem framePool_eq (ho : s.ownTop t p n = some q) : framePool s t p n k =
    match (if s.leavePools.poolAwaited q (n % 4) then none else s.leavePools.poolTake q (n % 4)) with
    | some (g, s1) => finish s1 (t.sputPair k (BitVec.ofNat 64 g) (uniWb p 0)) p
    | none => .next { s.leavePools.putCur t { p with hold := .frame } with
        xl := { s.leavePools.xl with poolWait := s.leavePools.xl.poolWait ++ [⟨q, n % 4, some (s.curUnit, s.curPath), 0, k⟩] } } := by
  unfold framePool
  rw [ho]
  rfl

/-- A read of sys.frame* takes the oldest frame where no earlier reader waits. -/
theorem framePool_takes {g : Nat} {rest : List Nat} (ho : s.ownTop t p n = some q) (hp : tget [] s.xl.pools (q * 4 + n % 4) = g :: rest)
    (hw : s.leavePools.poolAwaited q (n % 4) = false) :
    framePool s t p n k = .next ((s.leavePools.setPool q (n % 4) rest).goOn (t.sputPair k (BitVec.ofNat 64 g) (uniWb p 0)) p) := by
  have ht : s.leavePools.poolTake q (n % 4) = some (g, s.leavePools.setPool q (n % 4) rest) := poolTake_cons hp
  rw [framePool_eq ho, if_neg (Bool.eq_false_iff.1 hw), ht]
  exact finish_goOn _ _ _

/-- ... and stalls at an empty pool, last among the readers. -/
theorem framePool_stalls (ho : s.ownTop t p n = some q) (hp : tget [] s.xl.pools (q * 4 + n % 4) = []) :
    framePool s t p n k = .next { s.leavePools.putCur t { p with hold := .frame } with
      xl := { s.leavePools.xl with poolWait := s.leavePools.xl.poolWait ++ [⟨q, n % 4, some (s.curUnit, s.curPath), 0, k⟩] } } := by
  have ht : s.leavePools.poolTake q (n % 4) = none := poolTake_nil hp
  rw [framePool_eq ho, ht, ite_self]

theorem frameTry_eq (ho : s.ownTop t p n = some q) : frameTry s t p n k =
    match (if s.poolAwaited q (n % 4) then none else s.poolTake q (n % 4)) with
    | some (g, s1) => finish s1 (t.sputPair k (BitVec.ofNat 64 g) (uniWb p 0)) p
    | none => finish s (t.sputPair k 0 (uniWb p 0)) p := by
  unfold frameTry
  rw [ho]
  rfl

/-- A read of sys.ftry* takes the oldest frame where no reader waits ... -/
theorem frameTry_takes {g : Nat} {rest : List Nat} (ho : s.ownTop t p n = some q) (hp : tget [] s.xl.pools (q * 4 + n % 4) = g :: rest)
    (hw : s.poolAwaited q (n % 4) = false) :
    frameTry s t p n k = .next ((s.setPool q (n % 4) rest).goOn (t.sputPair k (BitVec.ofNat 64 g) (uniWb p 0)) p) := by
  rw [frameTry_eq ho, if_neg (Bool.eq_false_iff.1 hw), poolTake_cons hp]
  exact finish_goOn _ _ _

/-- ... and gives 0 otherwise. -/
theorem frameTry_zero (ho : s.ownTop t p n = some q) (h : tget [] s.xl.pools (q * 4 + n % 4) = [] ∨ s.poolAwaited q (n % 4) = true) :
    frameTry s t p n k = .next (s.goOn (t.sputPair k 0 (uniWb p 0)) p) := by
  have hnone : (if s.poolAwaited q (n % 4) then none else s.poolTake q (n % 4)) = none := by
    rcases h with h | h
    · rw [poolTake_nil h, ite_self]
    · rw [if_pos h]
  rw [frameTry_eq ho, hnone]
  exact finish_goOn _ _ _

theorem uniWb_zero (p : Path) : uniWb p 0 = p.flow := by unfold uniWb; exact BitVec.zero_or

/-- The rows of the pool registers: a pair that kernel level reads. -/
theorem sysRow_pool {n : Nat} (h : 0x068 ≤ n ∧ n ≤ 0x06A ∨ 0x06C ≤ n ∧ n ≤ 0x06E) : sysRow n = some ⟨n, true, .level 1, .none⟩ := by
  have hn : n = 0x068 ∨ n = 0x069 ∨ n = 0x06A ∨ n = 0x06C ∨ n = 0x06D ∨ n = 0x06E := by omega
  rcases hn with rfl | rfl | rfl | rfl | rfl | rfl <;> rfl

theorem sysr_framePool (hr : ready (.sysr d r) s = true) (hl : 1 ≤ s.curp.level) (h1 : 0x068 ≤ r.toNat) (h2 : r.toNat ≤ 0x06A) :
    execSysr d r s = framePool s s.cur s.curp r.toNat d.toNat := by
  unfold execSysr
  rw [issued_ready hr]
  simp only [sysRow_pool (.inl ⟨h1, h2⟩), sysLevel, decide_eq_true hl, h1, h2, Bool.not_true, Bool.false_eq_true, if_false, and_self, if_true,
    reduceCtorEq]

theorem sysr_frameTry (hr : ready (.sysr d r) s = true) (hl : 1 ≤ s.curp.level) (h1 : 0x06C ≤ r.toNat) (h2 : r.toNat ≤ 0x06E) :
    execSysr d r s = frameTry s s.cur s.curp r.toNat d.toNat := by
  have hno : ¬ (0x068 ≤ r.toNat ∧ r.toNat ≤ 0x06A) := by omega
  unfold execSysr
  rw [issued_ready hr]
  simp only [sysRow_pool (.inr ⟨h1, h2⟩), sysLevel, decide_eq_true hl, hno, h1, h2, Bool.not_true, Bool.false_eq_true, if_false, and_self, if_true,
    reduceCtorEq]

/-- A path that stands at a read of a frame pool, and may go on, reads it. -/
theorem framePoolRead_reads (hs : s.str? s.curUnit = some s.cur) (hh : s.curp.sysrHere = some (n, k)) (h1 : 0x068 ≤ n) (h2 : n ≤ 0x06A)
    (hl : 1 ≤ s.curp.level) (hrun : s.curp.state = .running) (hhold : s.curp.hold = .none ∨ s.curp.hold = .again) :
    execFramePoolRead s = framePool s s.cur s.curp n k := by
  unfold execFramePoolRead
  rw [hs]
  simp only [show s.cur.path s.curPath = s.curp from rfl, hh]
  exact if_pos ⟨h1, h2, hl, hrun, hhold⟩

theorem frameTryRead_reads (hs : s.str? s.curUnit = some s.cur) (hh : s.curp.sysrHere = some (n, k)) (h1 : 0x06C ≤ n) (h2 : n ≤ 0x06E)
    (hl : 1 ≤ s.curp.level) (hrun : s.curp.state = .running) (hhold : s.curp.hold = .none ∨ s.curp.hold = .again) :
    execFrameTryRead s = frameTry s s.cur s.curp n k := by
  unfold execFrameTryRead
  rw [hs]
  simp only [show s.cur.path s.curPath = s.curp from rfl, hh]
  exact if_pos ⟨h1, h2, hl, hrun, hhold⟩

/-- The oldest stalled reader has its frame (R48). -/
theorem frameReadServed_serves {w : PoolWait} {u g : Nat} {b : Bool} {rest : List Nat}
    (hw : s.xl.poolWait.find? (fun w => w.part == s.argN 0 && w.size == s.argN 1) = some w) (hwho : w.who = some (u, b)) (hu : s.str? u = some t)
    (hh : (t.path b).hold = .frame) (hc : t.captured = false) (hp : tget [] s.xl.pools (w.part * 4 + w.size) = g :: rest) :
    execFrameReadServed s = .next (State.frameTo
      { s.setPool w.part w.size rest with xl := { (s.setPool w.part w.size rest).xl with poolWait := s.xl.poolWait.filter (fun x => x != w) } }
      u b t w.reg g) := by
  have hstale : (!((s.str? u).map (fun t => (t.path b).hold == .frame && !t.captured)).getD false) = false := by
    rw [hu]; simp [hh, hc]
  unfold execFrameReadServed
  simp only [hw, hwho, hstale, poolTake_cons hp, Bool.false_eq_true, if_false]
  split
  · next hno => exact absurd (hno.symm.trans hu) nofun
  · next t' ht =>
    cases ht.symm.trans hu
    rfl

/-- ... its string has gone on with it, and it has left the pool and the readers. -/
theorem frameTo_str (s : State) (u : Nat) (b : Bool) (t : Str) (reg g : Nat) : (s.frameTo u b t reg g).str? u =
    some ((advance (t.sputPair reg (BitVec.ofNat 64 g) (t.path b).flow) (t.path b)).1.setPath b
      (advance (t.sputPair reg (BitVec.ofNat 64 g) (t.path b).flow) (t.path b)).2) := by
  unfold State.frameTo
  rw [putStr_str, if_pos rfl]

end

end Sys2Proof.Machine

open Sys2Proof Sys2Proof.Machine in
/-- Settles O29: what SCRUB answers, what it leaves of a frame of 4 KiB, and who is given a frame of a pool. -/
theorem framesAndPools : Obligations.FramesAndPools := by
  unfold Obligations.FramesAndPools
  refine ⟨?scrub, ?frame, ?pools⟩
  case scrub =>
    intro d a f z s gpa size w answer
    refine ⟨fun hr h => ⟨_, scrub_form hr h, rfl⟩, ?_, fun q g e x rest hr h1 h2 hp hg he hx => scrub_sealed hr h1 h2 hp hg he hx⟩
    intro q hr h1 h2 hp gs s1 l hgs
    have hex := scrub_frame hr h1 h2 hp (scrubFault_none hgs)
    have hoff : (∀ x ∈ gs, ∀ e g, x.2 = some (e, g) → g.getLsbD 30 = false) → gs.any (fun x => cellOffline x.2) = false := by
      intro h
      refine List.any_eq_false.2 fun x hx => ?_
      obtain ⟨e, g, hxg, -, -⟩ := hgs x hx
      rw [hxg]
      exact Bool.eq_false_iff.1 (h x hx e g hxg)
    refine ⟨fun ⟨x, hx, e, g, hxg, hon⟩ => ?_, fun h hl => ?_, fun h hl => ?_⟩
    · have hany : gs.any (fun x => cellOffline x.2) = true := List.any_eq_true.2 ⟨x, hx, by rw [hxg]; exact hon⟩
      exact ⟨_, hex.trans (if_pos hany), rfl⟩
    · exact ⟨_, hex.trans ((if_neg (Bool.eq_false_iff.1 (hoff h))).trans (if_pos hl)), rfl⟩
    · exact ⟨_, hex.trans ((if_neg (Bool.eq_false_iff.1 (hoff h))).trans (if_neg (Nat.not_le.2 hl))), rfl⟩
  case frame =>
    intro s q gpa sz e hs hg hd h s' hreg _
    have hh : h % 4096 = 0 := entFrame_granule e sz hg
    have hst : h < s.stwBase := s2Leaf_below_steward hs hreg
    have hu : granUcount (s.gran (h / 4096)) < 64 := BitVec.isLt _
    obtain ⟨howner, hwb, hsealed, hoffline, hucount⟩ := granMake_fields (granOffline (s.gran (h / 4096))) _ hu
    have hs' : s' = _ := scrubFrame_small_eq hs hg hd hreg
    rw [hs']
    obtain ⟨hzero, hgone, hstrs⟩ := scrubbed_spec (q := q) (gpa := gpa) hh hst
      (granMake false (granOffline (s.gran (h / 4096))) (granUcount (s.gran (h / 4096))) 0 0)
    rw [gran_setGran_same]
    exact ⟨hzero, howner, hwb, hsealed, hoffline, hucount, hgone, hstrs⟩
  case pools =>
    intro d r s q g rest z pool mine taken idle got _ hl ho
    have hidle : idle ↔ s.poolAwaited q z = false := by
      rw [← Bool.not_eq_true, poolAwaited_iff]
      exact ⟨fun h ⟨w, hw, hq, hz⟩ => h w hw hq hz, fun h w hw hq hz => h ⟨w, hw, hq, hz⟩⟩
    have hflow : uniWb s.curp 0 = s.curp.flow := uniWb_zero _
    have htakes : pool = g :: rest → (∀ w ∈ s.xl.poolWait, w.part = q → w.size = z → mine w) →
        framePool s s.cur s.curp r.toNat d.toNat = .next (got taken) := fun hp hm => by
      rw [framePool_takes ho hp (leavePools_awaited hm), hflow]; rfl
    have htries : pool = g :: rest → idle → frameTry s s.cur s.curp r.toNat d.toNat =
        .next (got { s with xl := { s.xl with pools := tset [] s.xl.pools (q * 4 + z) rest } }) := fun hp hi => by
      rw [frameTry_takes ho hp (hidle.1 hi), hflow]; rfl
    refine ⟨fun hr h1 h2 hp hm => ⟨_, (sysr_framePool hr hl h1 h2).trans (htakes hp hm), rfl⟩,
      fun hr h1 h2 hp => ⟨_, (sysr_framePool hr hl h1 h2).trans (framePool_stalls ho hp), ?_, rfl⟩,
      fun hr h1 h2 hp hi => ⟨_, (sysr_frameTry hr hl h1 h2).trans (htries hp hi), rfl⟩,
      fun hr h1 h2 h => ⟨_, (sysr_frameTry hr hl h1 h2).trans (frameTry_zero ho (h.imp_right fun hi => ?_)), by rw [hflow]⟩,
      fun k hs hh hrun hk hhold hp => ⟨fun h1 h2 hm => ?_, fun h1 h2 hi => ?_⟩, fun w u b t hw hwho hu hh hc hp => ?_⟩
    · exact putCur_curp s.leavePools s.cur { s.curp with hold := .frame }
    · rwa [hidle, Bool.not_eq_false] at hi
    · exact ⟨_, (framePoolRead_reads hs hh h1 h2 hl hrun (hk ▸ hhold)).trans (htakes hp hm), rfl⟩
    · exact ⟨_, (frameTryRead_reads hs hh h1 h2 hl hrun (hk ▸ hhold)).trans (htries hp hi), rfl⟩
    · exact ⟨_, frameReadServed_serves hw hwho hu hh hc hp, frameTo_str _ u b t w.reg g, by simp [State.frameTo, State.setPool], rfl⟩
end

section
/-! The machine's own accesses leave the arguments of the event under way as they are: what an access from a peer is answered with
names its request (O40). -/

namespace Sys2Proof.Machine

section
variable {s s' : State}

/-! ### Lines and granules -/

@[simp] theorem hostWrite_arg (h n v : Nat) : (s.hostWrite h n v).arg = s.arg := by
  obtain ⟨m, hm⟩ := hostWrite_frame s h n v
  rw [hm]

@[simp] theorem setGran_arg (g : Nat) (e : Word) : (s.setGran g e).arg = s.arg := by
  obtain ⟨m, hm⟩ := setGran_frame s g e
  rw [hm]

@[simp] theorem orGranWb_arg (h : Nat) (wb : Waybill) : (s.orGranWb h wb).arg = s.arg := by
  unfold State.orGranWb; split <;> simp

@[simp] theorem markDirty_arg (p g : Nat) : (s.markDirty p g).arg = s.arg := by
  unfold State.markDirty
  simp only
  split
  · rfl
  · split
    · simp
    · split <;> simp

@[simp] theorem markDirtyFor_arg (i : Bool) (t g : Nat) : (s.markDirtyFor i t g).arg = s.arg := by
  unfold State.markDirtyFor
  split
  · rfl
  · split <;> simp

@[simp] theorem refill_arg (i : Bool) (t n : Nat) : (s.refill i t n).arg = s.arg := by
  unfold State.refill; split <;> rfl

@[simp] theorem charge_arg (k : Nat) (p : Option Nat) : (s.charge k p).arg = s.arg := by
  unfold State.charge; rw [chargeLines_frame]

@[simp] theorem storeLine_arg (i : Bool) (t n : Nat) (d : Line) (wb : Waybill) (p : Nat) : (s.storeLine i t n d wb p).arg = s.arg := by
  unfold State.storeLine
  split
  · rfl
  · split <;> simp

@[simp] theorem cleanL2_arg (i : Bool) (t n : Nat) : (s.cleanL2 i t n).arg = s.arg := by
  unfold State.cleanL2
  split
  · rfl
  · split <;> simp

@[simp] theorem evictFor_arg (n : Nat) : (s.evictFor n).arg = s.arg := by
  unfold State.evictFor
  simp only
  split
  · split <;> simp
  · rfl

@[simp] theorem installL2_arg (i : Bool) (t n : Nat) (g : Line × Bool × Waybill × Nat) : (s.installL2 i t n g).arg = s.arg := by
  unfold State.installL2; simp

theorem ensureL2_arg {i : Bool} {t n : Nat} (h : s.ensureL2 i t n = some s') : s'.arg = s.arg := by
  unfold State.ensureL2 at h
  split at h
  · cases h; rfl
  · obtain ⟨g, -, rfl⟩ := Option.map_eq_some_iff.1 h
    simp

theorem readL2_arg {i : Bool} {t a n : Nat} {r : Nat × Waybill × State} (h : s.readL2 i t a n = some r) : r.2.2.arg = s.arg := by
  unfold State.readL2 at h
  split at h
  · obtain ⟨g, -, rfl⟩ := Option.map_eq_some_iff.1 h
    rfl
  · split at h
    · cases h
    · next s1 he =>
      split at h
      · cases h
      · cases h; exact ensureL2_arg he

theorem writeL2_arg {i : Bool} {t a n v : Nat} {wb : Waybill} (h : s.writeL2 i t a n v wb = some s') : s'.arg = s.arg := by
  unfold State.writeL2 at h
  split at h
  · obtain ⟨g, -, rfl⟩ := Option.map_eq_some_iff.1 h
    simp
  · split at h
    · cases h
    · next s1 he =>
      split at h
      · cases h
      · cases h; rw [putL2_arg]; exact ensureL2_arg he

@[simp] theorem claim_arg (h w : Nat) : (s.claim h w).arg = s.arg := by
  unfold State.claim
  simp only
  split
  · split <;> simp
  · rfl

/-! ### The hub and its rings -/

theorem hubWorld_arg {p : Option Nat} {a : Nat} {r : Bool × Nat × State} (h : s.hubWorld p a = some r) : r.2.2.arg = s.arg := by
  unfold State.hubWorld at h
  split at h
  · cases h; rfl
  · split at h
    · cases h
    · cases h; simp

theorem hubRead_arg {p : Option Nat} {a n : Nat} {r : Nat × State} (h : s.hubRead p a n = some r) : r.2.arg = s.arg := by
  unfold State.hubRead at h
  split at h
  · cases h
  · next i w s1 hw =>
    obtain ⟨x, hx, rfl⟩ := Option.map_eq_some_iff.1 h
    exact (readL2_arg hx).trans (hubWorld_arg hw :)

theorem hubWrite_arg {p : Option Nat} {a n v : Nat} {wb : Waybill} (h : s.hubWrite p a n v wb = some s') : s'.arg = s.arg := by
  unfold State.hubWrite at h
  split at h
  · cases h
  · split at h
    · cases h
    · next i w s1 hw => exact (writeL2_arg h).trans (hubWorld_arg hw :)

/-- A write that may be lost. -/
theorem hubWrite_getD_arg (p : Option Nat) (a n v : Nat) (wb : Waybill) : ((s.hubWrite p a n v wb).getD s).arg = s.arg := by
  cases h : s.hubWrite p a n v wb with
  | none => rfl
  | some s' => exact hubWrite_arg h

theorem hubPut_arg (p : Option Nat) (a : Nat) (wb : Waybill) (bs : List Byte) : (s.hubPut p a wb bs).arg = s.arg := by
  unfold State.hubPut
  generalize pieces64 a bs.length = cs
  induction cs generalizing s with
  | nil => rfl
  | cons c cs ih => exact ih.trans (hubWrite_getD_arg _ _ _ _ _)

theorem ringPutN_arg (p : Option Nat) (ctl sz rec : Nat) (wb : Waybill) : (s.ringPutN p ctl sz rec wb).arg = s.arg := by
  unfold State.ringPutN
  split
  · rfl
  · split
    · rfl
    · next head s1 h1 =>
      have hs1 : s1.arg = s.arg := hubRead_arg h1
      split
      · simp only
        split
        · split
          · exact hs1
          · next h2 => exact (hubWrite_getD_arg _ _ _ _ _).trans ((hubRead_arg h2 :).trans hs1)
        · exact (hubWrite_getD_arg _ _ _ _ _).trans ((hubPut_arg _ _ _ _).trans hs1)
      · exact hs1

theorem inboundDecline_arg (peer w acc : Nat) (d : Denied) (wb : Waybill) : (s.inboundDecline peer w acc d wb).arg = s.arg := by
  unfold State.inboundDecline
  split
  · rfl
  · exact ringPutN_arg _ _ _ _ _

/-! ### Translation -/

@[simp] theorem keepS2_arg (p g : Nat) : (s.keepS2 p g).arg = s.arg := by
  unfold State.keepS2
  split
  · rfl
  · simp only; split <;> rfl

theorem tableRead_arg {w g : Nat} {r : Dword × State} (h : s.tableRead w g = .ok r) : r.2.arg = s.arg := by
  unfold State.tableRead at h
  simp only at h
  split at h
  · cases h
  · split at h
    · cases h
    · split at h
      · cases h
      · split at h
        · cases h
        · next hr => cases h; exact readL2_arg hr

@[simp] theorem tableWrite_arg (w g : Nat) (e : Dword) : (s.tableWrite w g e).arg = s.arg := by
  unfold State.tableWrite
  split
  · rfl
  · next i t a _ _ _ =>
    cases h : s.writeL2 i t a 8 e.toNat 0 with
    | none => rfl
    | some s' => exact writeL2_arg h

theorem follow64_arg (w a : Nat) (e : Dword) : (s.follow64 w a e).2.2.arg = s.arg := by
  unfold State.follow64
  simp only
  split
  · rfl
  · next h =>
    split
    · rfl
    · exact tableRead_arg h

theorem walkFrom_arg (w va die f base n : Nat) : (walkFrom w va die f base n s).2.arg = s.arg := by
  induction f generalizing base n s with
  | zero => rfl
  | succ f ih =>
    unfold walkFrom
    simp only
    split
    · exact ih _ _
    · split
      · rfl
      · next e s1 h =>
        have hs1 : s1.arg = s.arg := tableRead_arg h
        split
        · exact (ih _ _).trans hs1
        · split
          · exact hs1
          · split
            · have hs2 := (follow64_arg w (base + 8 * (va % 2 ^ 57 / 2 ^ (12 + 9 * n) % 512)) e).trans hs1
              split
              · exact hs2
              · split <;> exact hs2
            · split <;> exact hs1

theorem walk_arg (w va die : Nat) : (s.walk w va die).2.arg = s.arg := by
  unfold State.walk
  simp only
  split
  · exact walkFrom_arg _ _ _ _ _ _
  · rfl

theorem granCheck_arg (w g h : Nat) (e : TlbE) : (s.granCheck w g h e).2.2.arg = s.arg := by
  unfold State.granCheck
  split
  · rfl
  · split
    · simp only; split <;> simp
    · rfl

theorem tlbFill_arg (core : Nat) (fetch : Bool) (e : TlbE) : (s.tlbFill core fetch e).arg = s.arg := rfl

theorem shootPage_arg (w va : Nat) : (s.shootPage w va).arg = s.arg := rfl

theorem dropZeroTags_arg (w g z : Nat) : (s.dropZeroTags w g z).arg = s.arg := rfl

theorem xlateDone_arg (core w va acc : Nat) (fetch : Bool) (e : TlbE) (gpa o hpa : Nat) (a : Option Nat) :
    (s.xlateDone core w va acc fetch e gpa o hpa a).2.arg = s.arg := by
  unfold State.xlateDone
  split
  · rfl
  · next a =>
    have hw : (if leafAfter e.leaf acc = e.leaf then s else s.tableWrite w a (leafAfter e.leaf acc)).arg = s.arg := by
      split <;> simp
    simp only [tlbFill_arg]
    split
    · rw [dropZeroTags_arg, shootPage_arg]; exact hw
    · exact hw

theorem xlateEntry_arg (core w va acc lvl : Nat) (fetch : Bool) (e : TlbE) (a hole : Option Nat) :
    (s.xlateEntry core w va acc lvl fetch e a hole).2.arg = s.arg := by
  have hchecked : ∀ (gpa hpa lv : Nat), (match leafCheck (s.granCheck w gpa hpa e).2.1 acc lvl true lv (s.granCheck w gpa hpa e).1.2.1
      (s.granCheck w gpa hpa e).1.2.2 with
      | some r => (r, (s.granCheck w gpa hpa e).2.2)
      | none => (s.granCheck w gpa hpa e).2.2.xlateDone core w va acc fetch (s.granCheck w gpa hpa e).2.1 gpa (s.granCheck w gpa hpa e).1.1 hpa a).2.arg =
        s.arg := by
    intro gpa hpa lv
    split
    · exact granCheck_arg _ _ _ _
    · exact (xlateDone_arg _ _ _ _ _ _ _ _ _ _).trans (granCheck_arg _ _ _ _)
  unfold State.xlateEntry
  simp only
  split
  · split <;> rfl
  · split
    · split
      · rfl
      · exact hchecked _ _ _
    · exact hchecked _ _ _

theorem xlate0_arg (va acc : Nat) : (s.xlate0 va acc).2.arg = s.arg := by
  unfold State.xlate0
  generalize (if regionOf va = .hbm then s.gran (va / 4096) else 0) = g
  simp only
  split
  · rfl
  · split
    · rfl
    · split <;> rfl

theorem xlate_arg (core w va acc lvl : Nat) : (s.xlate core w va acc lvl).2.arg = s.arg := by
  unfold State.xlate
  simp only
  split
  · exact xlate0_arg _ _
  · split
    · exact xlateEntry_arg _ _ _ _ _ _ _ _ _
    · have hwalk : (s.walk w (va % 2 ^ 57) (dieOf core)).2.arg = s.arg := walk_arg _ _ _
      split
      · next h => rw [h] at hwalk; exact hwalk
      · next h =>
        rw [h] at hwalk
        split
        · exact hwalk
        · split <;> exact (xlateEntry_arg _ _ _ _ _ _ _ _ _).trans ((keepS2_arg _ _).trans hwalk)

/-! ### The gate -/

theorem gateCount_arg (w : Nat) (b : Bool) : (s.gateCount w b).arg = s.arg := by
  unfold State.gateCount; split <;> simp

/-- The machine after a decision of the gate, whichever it is. -/
def gateState : Except (Egress × Word × State) State → State
  | .error (_, _, s) => s
  | .ok s => s

theorem gate_arg (es : List Egress) : (gateState (s.gate es)).arg = s.arg := by
  unfold State.gate
  simp only
  split
  · rfl
  · split
    · exact gateCount_arg _ _
    · exact gateCount_arg _ _

/-! ### The access at its home -/

theorem atomPut_arg (i : Bool) (t h n : Nat) (d : Line) (wb : Waybill) (p : Nat) : (s.atomPut i t h n d wb p).arg = s.arg := by
  unfold State.atomPut; split <;> simp

theorem atomRead_arg (x : Xlat) : (s.atomRead x).arg = s.arg := by
  unfold State.atomRead; split <;> simp

theorem homeLine_arg (x : Xlat) : (s.homeLine x).arg = s.arg := by
  unfold State.homeLine
  split
  · rfl
  · cases h : s.ensureL2 x.ident x.tag (x.gpa / 128) with
    | none => rfl
    | some s' => exact ensureL2_arg h

theorem homeMerge_arg (x : Xlat) (rid : Nat) (ls : List LaneReq) (wb : Waybill) : (s.homeMerge x rid ls wb).arg = s.arg := by
  unfold State.homeMerge
  simp only
  split
  · split
    · rfl
    · exact atomPut_arg _ _ _ _ _ _ _
  · split
    · simp
    · split
      · rfl
      · next h =>
        split
        · exact ensureL2_arg h
        · exact (putL2_arg _ _ _ _ _).trans (ensureL2_arg h)

theorem homeAccess_arg (m : MemOp) (x : Xlat) (r : LaneReq) (wb : Waybill) : (s.homeAccess m x r wb).2.2.arg = s.arg := by
  unfold State.homeAccess
  simp only
  split
  · split <;> rfl
  · split
    · rfl
    · split
      · exact homeMerge_arg _ _ _ _
      · split
        · split
          · rfl
          · split
            · exact atomPut_arg _ _ _ _ _ _ _
            · exact atomRead_arg _
        · split
          · rfl
          · next h =>
            split
            · exact ensureL2_arg h
            · split
              · exact (putL2_arg _ _ _ _ _).trans (ensureL2_arg h)
              · exact ensureL2_arg h

theorem homeStore_arg (x : Xlat) (ls : List LaneReq) (wb : Waybill) : (s.homeStore x ls wb).arg = s.arg := by
  unfold State.homeStore
  simp only
  split
  · generalize ls.map _ = here
    induction here generalizing s with
    | nil => rfl
    | cons r here ih => exact ih.trans (homeAccess_arg _ _ _ _)
  · exact homeMerge_arg _ _ _ _

theorem homeReads_arg (m : MemOp) (x : Xlat) (ls : List LaneReq) : (s.homeReads m x ls).2.2.arg = s.arg := by
  induction ls generalizing s with
  | nil => rfl
  | cons r ls ih => exact ih.trans (homeAccess_arg _ _ _ _)

/-! ### Accesses of a peer -/

theorem inboundPlace_arg (w off acc : Nat) : (s.inboundPlace w off acc).2.arg = s.arg := by
  unfold State.inboundPlace
  simp only
  split
  · rfl
  · split
    · rfl
    · have hx : (s.xlate 0 w (if s.targetVa w off < 2 ^ 56 then s.targetVa w off else s.targetVa w off + (2 ^ 64 - 2 ^ 57)) acc 0).2.arg = s.arg :=
        xlate_arg _ _ _ _ _
      split <;> next h => rw [h] at hx; exact hx

theorem inbound_arg (peer kind w atop : Nat) (ls : List LaneReq) (wb : Waybill) : (s.inbound peer kind w atop ls wb).2.arg = s.arg := by
  unfold State.inbound
  split
  · rfl
  · next r rest =>
    simp only
    split
    · rfl
    · have hp : (s.inboundPlace w r.addr (inboundOp kind r.size atop).acc).2.arg = s.arg := inboundPlace_arg _ _ _
      split
      · next h => rw [h] at hp; exact (inboundDecline_arg _ _ _ _ _).trans hp
      · next x s1 h =>
        rw [h] at hp
        have hg := gate_arg (s := s1) (inboundParts s1 w (inboundOp kind r.size atop) x ((r :: rest).foldl (fun a l => a + l.size) 0) wb)
        split
        · next hgate => rw [hgate] at hg; exact (inboundDecline_arg _ _ _ _ _).trans (hg.trans hp)
        · next s2 hgate =>
          rw [hgate] at hg
          have hl : (if kind = 1 then s2 else s2.homeLine x).arg = s.arg := by
            split
            · exact hg.trans hp
            · exact (homeLine_arg x).trans (hg.trans hp)
          generalize (if kind = 1 then s2 else s2.homeLine x) = s3 at hl ⊢
          split
          · exact (inboundDecline_arg _ _ _ _ _).trans hl
          · split
            · have hr := homeReads_arg (s := s3) (inboundOp 0 r.size atop) x (r :: rest)
              exact hr.trans hl
            · exact (homeStore_arg _ _ _).trans hl
            · exact (homeAccess_arg _ _ _ _).trans hl

end
end Sys2Proof.Machine
end

section
/-! Accesses that arrive from a peer (O40). -/

namespace Sys2Proof.Machine

/-! ### Where an access goes (R46, R125, R186) -/

section
variable {s s1 : State} {w off acc : Nat}

theorem targetVa_window {k base : Nat} (h : s.window w = some (k, base)) : s.targetVa w off = (base + off) % 2 ^ 57 := by
  unfold State.targetVa; rw [h]; rfl

theorem inWindow_some {k base : Nat} (h : s.window w = some (k, base)) : s.inWindow w off = decide (off < 2 ^ k) := by
  unfold State.inWindow; rw [h]

theorem inWindow_none (h : s.window w = none) : s.inWindow w off = false := by
  unfold State.inWindow; rw [h]

/-- World 0, or a world that a partition holds. -/
def State.isBound (s : State) (w : Nat) : Prop := w = 0 ∨ s.partOf w ≠ none

theorem not_isBound : ¬ s.isBound w ↔ w ≠ 0 ∧ (s.partOf w).isNone := by
  rw [State.isBound, not_or, not_not, Option.isNone_iff_eq_none]

theorem inboundPlace_unbound (h : ¬ s.isBound w) : s.inboundPlace w off acc = (.error ⟨0x23, 0, s.targetVa w off, 0, false⟩, s) :=
  if_pos (not_isBound.1 h)

theorem inboundPlace_outside (h : s.isBound w) (hw : s.inWindow w off = false) :
    s.inboundPlace w off acc = (.error ⟨cPROT, 3, s.targetVa w off, 0, false⟩, s) :=
  (if_neg fun hu => not_isBound.2 hu h).trans (if_pos (by rw [hw]; rfl))

/-- What the translation of an inbound access gives (R24): its leaf, or the code it is answered with. -/
def xlatDenied (va : Nat) : XRes → Except Denied Xlat
  | .trap f => .error ⟨f.cause, f.reason, va, 0, false⟩
  | .park sz own => .error ⟨0x20, 0, va, sz, own⟩
  | .ok x => .ok x

/-- The address an offset translates at: the target address, sign-extended. -/
def signedVa (va : Nat) : Nat := if va < 2 ^ 56 then va else va + (2 ^ 64 - 2 ^ 57)

theorem inboundPlace_translated (h : s.isBound w) (hw : s.inWindow w off = true) : s.inboundPlace w off acc =
    (xlatDenied (s.targetVa w off) (s.xlate 0 w (signedVa (s.targetVa w off)) acc 0).1, (s.xlate 0 w (signedVa (s.targetVa w off)) acc 0).2) := by
  have hin : ¬ ((!s.inWindow w off) = true) := by rw [hw]; decide
  unfold State.inboundPlace signedVa
  simp only [if_neg fun hu => not_isBound.2 hu h, if_neg hin]
  generalize s.xlate 0 w _ acc 0 = x
  obtain ⟨_ | _ | _, s1⟩ := x <;> rfl

end

/-! ### What an access is answered with (R180, R183, R186) -/

/-- A transaction of the subset of R180. -/
theorem supported_cons {kind atop : Nat} {r : LaneReq} {rest : List LaneReq} : supported kind atop (r :: rest) = true ↔
    (∀ x ∈ r :: rest, x.size ≠ 0 ∧ x.addr / 128 = r.addr / 128 ∧ (x.addr + x.size - 1) / 128 = r.addr / 128) ∧
    (r :: rest).foldl (fun a l => a + l.size) 0 ≤ 128 ∧ (kind = 1 ∨ (kind = 0 ∧ rest = []) ∨ (kind = 2 ∧ rest = [] ∧
      (atop = 10 ∧ r.size = 4 ∨ (atop = 0 ∨ atop = 9) ∧ (r.size = 4 ∨ r.size = 8)))) := by
  have hshape : (kind == 1 || (kind == 0 && (r :: rest).length == 1) || (kind == 2 && (r :: rest).length == 1 &&
      (r :: rest).all (fun r => if atop = 10 then r.size == 4 else (atop == 0 || atop == 9) && (r.size == 4 || r.size == 8)))) = true ↔
      (kind = 1 ∨ (kind = 0 ∧ rest = []) ∨ (kind = 2 ∧ rest = [] ∧
        (atop = 10 ∧ r.size = 4 ∨ (atop = 0 ∨ atop = 9) ∧ (r.size = 4 ∨ r.size = 8)))) := by
    cases rest with
    | nil => by_cases h : atop = 10 <;> simp [h, or_assoc]
    | cons a t => simp
  unfold supported
  rw [Bool.and_eq_true, Bool.and_eq_true, Bool.and_eq_true, hshape, List.all_eq_true, decide_eq_true_iff]
  simp only [bne_iff_ne, ne_eq, reduceCtorEq, not_false_eq_true, true_and, List.head?_cons, Option.map_some, Option.getD_some, Bool.and_eq_true,
    beq_iff_eq, and_assoc]

theorem supported_iff {kind atop : Nat} {ls : List LaneReq} : supported kind atop ls = true ↔ ∃ r rest, ls = r :: rest ∧
    (∀ x ∈ ls, x.size ≠ 0 ∧ x.addr / 128 = r.addr / 128 ∧ (x.addr + x.size - 1) / 128 = r.addr / 128) ∧
    ls.foldl (fun a l => a + l.size) 0 ≤ 128 ∧ (kind = 1 ∨ (kind = 0 ∧ rest = []) ∨ (kind = 2 ∧ rest = [] ∧
      (atop = 10 ∧ r.size = 4 ∨ (atop = 0 ∨ atop = 9) ∧ (r.size = 4 ∨ r.size = 8)))) := by
  cases ls with
  | nil => exact ⟨nofun, fun ⟨_, _, h, _⟩ => nomatch h⟩
  | cons r rest =>
    refine ⟨fun h => ⟨r, rest, rfl, supported_cons.1 h⟩, fun ⟨r', rest', he, h⟩ => ?_⟩
    cases he
    exact supported_cons.2 h

section
variable {s s1 s2 s3 : State} {peer kind w atop : Nat} {r : LaneReq} {rest ls : List LaneReq} {wb : Waybill} {d : Denied} {x : Xlat}

theorem inbound_unsup (h : supported kind atop ls = false) : s.inbound peer kind w atop ls wb = (⟨0x25, 0, [], 0, none⟩, s) := by
  unfold State.inbound
  cases ls with
  | nil => rfl
  | cons r rest => exact if_pos (by rw [h]; rfl)

/-- The bytes an access asks the gate for. -/
def byteCount (ls : List LaneReq) : Nat := ls.foldl (fun a l => a + l.size) 0

theorem inbound_stopped (hls : ls = r :: rest) (hs : supported kind atop ls = true)
    (hp : s.inboundPlace w r.addr (inboundOp kind r.size atop).acc = (.error d, s1)) :
    s.inbound peer kind w atop ls wb = (⟨d.code, d.reason, [], 0, none⟩, s1.inboundDecline peer w (inboundOp kind r.size atop).acc d wb) := by
  subst hls
  unfold State.inbound
  simp only [hs, hp, Bool.not_true, Bool.false_eq_true, if_false]

/-- What the gate or poison answers, with a record of the leaf's size. -/
def State.inboundDenied (s : State) (peer kind w atop : Nat) (r : LaneReq) (x : Xlat) (wb : Waybill) (c : Nat) : Inbound × State :=
  (⟨c, 0, [], 0, none⟩, s.inboundDecline peer w (inboundOp kind r.size atop).acc ⟨c, 0, s.targetVa w r.addr, x.size, false⟩ wb)

section
variable (hls : ls = r :: rest) (hs : supported kind atop ls = true) (hp : s.inboundPlace w r.addr (inboundOp kind r.size atop).acc = (.ok x, s1))
include hls hs hp

theorem inbound_gated {e : Egress} {g : Word} (hg : s1.gate (inboundParts s1 w (inboundOp kind r.size atop) x (byteCount ls) wb) = .error (e, g, s2)) :
    s.inbound peer kind w atop ls wb = s2.inboundDenied peer kind w atop r x wb cEGRESS := by
  subst hls
  unfold byteCount at hg
  unfold State.inbound
  simp only [hs, hp, hg, Bool.not_true, Bool.false_eq_true, if_false]
  rfl

variable (hg : s1.gate (inboundParts s1 w (inboundOp kind r.size atop) x (byteCount ls) wb) = .ok s2)
include hg

theorem inbound_write (hk : kind = 1) : s.inbound peer kind w atop ls wb = (⟨0, 0, [], 0, some x⟩, s2.homeStore x ls wb) := by
  subst hls hk
  unfold byteCount at hg
  unfold State.inbound
  simp only [hs, hp, hg, Bool.not_true, Bool.false_eq_true, if_false]
  rfl

theorem inbound_poisoned (hk : kind ≠ 1) (hbad : (s2.homeLine x).homePoison x ls = true) :
    s.inbound peer kind w atop ls wb = (s2.homeLine x).inboundDenied peer kind w atop r x wb cPOISON := by
  subst hls
  unfold byteCount at hg
  unfold State.inbound
  simp only [hs, hp, hg, hbad, hk, ne_eq, not_false_eq_true, decide_true, Bool.and_self, if_true, Bool.not_true, Bool.false_eq_true, if_false]
  rfl

theorem inbound_read (hk : kind = 0) (hgood : (s2.homeLine x).homePoison x ls = false) : s.inbound peer kind w atop ls wb =
    (⟨0, 0, ((s2.homeLine x).homeReads (inboundOp kind r.size atop) x ls).1, ((s2.homeLine x).homeReads (inboundOp kind r.size atop) x ls).2.1, some x⟩,
      ((s2.homeLine x).homeReads (inboundOp kind r.size atop) x ls).2.2) := by
  subst hls hk
  unfold byteCount at hg
  unfold State.inbound
  simp only [hs, hp, hg, Bool.not_true, Bool.false_eq_true, if_false, show ¬ (0 = 1) by decide, hgood, Bool.and_false]

theorem inbound_atomic (hk : kind = 2) (hgood : (s2.homeLine x).homePoison x ls = false) : s.inbound peer kind w atop ls wb =
    (⟨0, 0, [(r.lane, ((s2.homeLine x).homeAccess (inboundOp kind r.size atop) x { r with addr := x.gpa } wb).1)],
      ((s2.homeLine x).homeAccess (inboundOp kind r.size atop) x { r with addr := x.gpa } wb).2.1, some x⟩,
      ((s2.homeLine x).homeAccess (inboundOp kind r.size atop) x { r with addr := x.gpa } wb).2.2) := by
  subst hls hk
  unfold byteCount at hg
  unfold State.inbound
  simp only [hs, hp, hg, Bool.not_true, Bool.false_eq_true, if_false, show ¬ (2 = 1) by decide, hgood, Bool.and_false]

end
end

/-! ### The access at its home (R81, R90, R131, R428) -/

section
variable {s s' : State} {x : Xlat} {l : L2Line} {r : LaneReq} {ls : List LaneReq} {wb : Waybill} {m : MemOp}

theorem ensureL2_present {i : Bool} {t n : Nat} (h : s.l2? i t n = some l) : s.ensureL2 i t n = some s := by
  unfold State.ensureL2; rw [h]

theorem homeLine_l2 (hr : x.region = .hbm) (ha : x.atom = false) (he : s.ensureL2 x.ident x.tag (x.gpa / 128) = some s') : s.homeLine x = s' := by
  have hno : ¬ (x.atom = true ∨ x.region ≠ .hbm) := by simp [ha, hr]
  exact (if_neg hno).trans (by rw [he]; rfl)

theorem homeLine_atom (ha : x.atom = true) : s.homeLine x = s := if_pos (.inl ha)

/-- The lanes as pieces of the line they are performed at. -/
def atHome (x : Xlat) (ls : List LaneReq) : List LaneReq := ls.map (fun p => { p with addr := x.gpa / 128 * 128 + p.addr % 128 })

theorem homePoison_eq : s.homePoison x ls = ls.any (fun r => ((if lfZero x.leaf ∨ x.region ≠ .hbm then 0
    else if x.atom then ((s.physOf x.ident x.tag x.gpa).map (fun h => hbmPoison s.mem (h / 128))).getD 0
    else ((s.l2? x.ident x.tag (x.gpa / 128)).map (fun l => l.poison)).getD 0) &&& halvesOf (r.addr % 128) r.size) != 0) := rfl

theorem homePoison_zeroPage (hz : lfZero x.leaf = true) : s.homePoison x ls = false := by
  rw [homePoison_eq, if_pos (.inl hz)]
  simp

/-- A piece of a line whose halves are both poisoned touches one. -/
theorem poison_touched (off : Nat) {n : Nat} (hn : n ≠ 0) : 3 &&& halvesOf off n ≠ 0 := by
  have hh : halvesOf off n = 1 ∨ halvesOf off n = 2 ∨ halvesOf off n = 3 := by
    unfold halvesOf; split <;> split <;> omega
  rcases hh with h | h | h <;> rw [h] <;> decide

section
variable (hr : x.region = .hbm) (ha : x.atom = false) (hz : lfZero x.leaf = false) (hl : s.l2? x.ident x.tag (x.gpa / 128) = some l)
include hr ha hz hl

theorem homePoison_l2 : s.homePoison x ls = ls.any (fun r => (l.poison &&& halvesOf (r.addr % 128) r.size) != 0) := by
  have hno : ¬ (lfZero x.leaf = true ∨ x.region ≠ .hbm) := by simp [hz, hr]
  rw [homePoison_eq, if_neg hno, ha, hl]
  rfl

theorem homePoison_clean (hp : l.poison = 0) : s.homePoison x ls = false := by
  rw [homePoison_l2 hr ha hz hl, hp]
  simp

theorem homePoison_bad (hp : l.poison = 3) (hr0 : r ∈ ls) (hn : r.size ≠ 0) : s.homePoison x ls = true := by
  rw [homePoison_l2 hr ha hz hl, hp]
  exact List.any_eq_true.2 ⟨r, hr0, bne_iff_ne.2 (poison_touched _ hn)⟩

theorem homeAccess_load (hm : m.kind = .load) : s.homeAccess m x r wb = (lineGet l.data (x.gpa % 128) m.size, l.wb, s) := by
  unfold State.homeAccess
  simp only [hr, hz, hm, ha, ensureL2_present hl, hl, Bool.false_and, Bool.false_eq_true, if_false, reduceCtorEq]

theorem homeAccess_atomic (hm : m.kind = .atomic) : s.homeAccess m x r wb = (lineGet l.data (x.gpa % 128) m.size, l.wb,
    s.putL2 x.ident x.tag (x.gpa / 128)
      (l.merge 0 [{ r with addr := x.gpa, data := atomNew m.atop m.size (lineGet l.data (x.gpa % 128) m.size) r.data r.cmp }] wb)) := by
  unfold State.homeAccess
  simp only [hr, hz, hm, ha, ensureL2_present hl, hl, Bool.false_and, Bool.false_eq_true, if_false, reduceCtorEq]

end

theorem homeAccess_zeroPage (hr : x.region = .hbm) (hz : lfZero x.leaf = true) (hm : m.kind = .load) : s.homeAccess m x r wb = (0, 0, s) := by
  unfold State.homeAccess
  simp only [hr, hz, hm, beq_self_eq_true, Bool.and_self, if_true]

/-- Where a lane of a block is performed: at the same bytes of the line. -/
def Xlat.atLane (x : Xlat) (r : LaneReq) : Xlat := { x with gpa := x.gpa / 128 * 128 + r.addr % 128 }

theorem homeReads_one (h1 : ls = [r]) : s.homeReads m x ls =
    ([(r.lane, (s.homeAccess { m with size := r.size } (x.atLane r) { r with addr := (x.atLane r).gpa } 0).1)],
      (s.homeAccess { m with size := r.size } (x.atLane r) { r with addr := (x.atLane r).gpa } 0).2.1,
      (s.homeAccess { m with size := r.size } (x.atLane r) { r with addr := (x.atLane r).gpa } 0).2.2) := by
  subst h1
  exact Prod.ext rfl (Prod.ext BitVec.or_zero rfl)

theorem homeReads_load (h1 : ls = [r]) (hr : x.region = .hbm) (ha : x.atom = false) (hz : lfZero x.leaf = false)
    (hl : s.l2? x.ident x.tag (x.gpa / 128) = some l) (hm : m.kind = .load) :
    s.homeReads m x ls = ([(r.lane, lineGet l.data (r.addr % 128) r.size)], l.wb, s) := by
  have hline : (x.atLane r).gpa / 128 = x.gpa / 128 := by show (x.gpa / 128 * 128 + r.addr % 128) / 128 = _; omega
  have hoff : (x.atLane r).gpa % 128 = r.addr % 128 := by show (x.gpa / 128 * 128 + r.addr % 128) % 128 = _; omega
  have hl' : s.l2? (x.atLane r).ident (x.atLane r).tag ((x.atLane r).gpa / 128) = some l := by rw [hline]; exact hl
  rw [homeReads_one h1, homeAccess_load (m := { m with size := r.size }) (x := x.atLane r) hr ha hz hl' hm, hoff]

theorem homeReads_zeroPage (h1 : ls = [r]) (hr : x.region = .hbm) (hz : lfZero x.leaf = true) (hm : m.kind = .load) :
    s.homeReads m x ls = ([(r.lane, 0)], 0, s) := by
  rw [homeReads_one h1, homeAccess_zeroPage (m := { m with size := r.size }) (x := x.atLane r) hr hz hm]

/-- A write to the host window goes out (R196). -/
theorem homeStore_window (h1 : ls = [r]) (hr : x.region = .window) : s.homeStore x ls wb =
    { s with outbox := s.outbox ++ [⟨2, [x.gpa / 128 * 128 + r.addr % 128, r.size], bytesOf r.size r.data⟩] } := by
  subst h1
  unfold State.homeStore State.homeAccess
  simp only [hr, if_true, List.map_cons, List.map_nil, List.foldl_cons, List.foldl_nil]
  rfl

/-- A write merges with its line. -/
theorem homeStore_merge (hr : x.region = .hbm) (ha : x.atom = false) (he : s.ensureL2 x.ident x.tag (x.gpa / 128) = some s')
    (hl : s'.l2? x.ident x.tag (x.gpa / 128) = some l)
    (h : s.l2? x.ident x.tag (x.gpa / 128) ≠ none ∨ coverage 128 (atHome x ls) ≠ 2 ^ 128 - 1) :
    s.homeStore x ls wb = s'.putL2 x.ident x.tag (x.gpa / 128) (l.merge 0 (atHome x ls) wb) := by
  have hno : ¬ (((s.l2? x.ident x.tag (x.gpa / 128)).isNone && coverage 128 (atHome x ls) == 2 ^ 128 - 1) = true) := by
    simpa only [Bool.and_eq_true, Option.isNone_iff_eq_none, beq_iff_eq, not_and_or] using h
  have hmerge : s.homeMerge x 0 (atHome x ls) wb = s'.putL2 x.ident x.tag (x.gpa / 128) (l.merge 0 (atHome x ls) wb) := by
    unfold State.homeMerge
    simp only [ha, he, hl, Bool.false_eq_true, if_false, if_neg hno]
  exact (if_neg (by rw [hr]; decide)).trans hmerge

/-- A write of a whole line that is not in the L2 reads nothing. -/
theorem homeStore_whole (hr : x.region = .hbm) (ha : x.atom = false) (hl : s.l2? x.ident x.tag (x.gpa / 128) = none)
    (hc : coverage 128 (atHome x ls) = 2 ^ 128 - 1) :
    s.homeStore x ls wb = (s.evictFor (x.gpa / 128)).putL2 x.ident x.tag (x.gpa / 128)
      ⟨mergeLine 0 (atHome x ls) 0, false, true, storeWb true 0 wb, 0⟩ := by
  have hnew : L2Line.merge ⟨0, false, true, 0, 0⟩ 0 (atHome x ls) wb = ⟨mergeLine 0 (atHome x ls) 0, false, true, storeWb true 0 wb, 0⟩ := by
    unfold L2Line.merge storePoison
    simp only [hc, beq_self_eq_true, Nat.zero_and]
  have hmerge : s.homeMerge x 0 (atHome x ls) wb = (s.evictFor (x.gpa / 128)).putL2 x.ident x.tag (x.gpa / 128)
      ⟨mergeLine 0 (atHome x ls) 0, false, true, storeWb true 0 wb, 0⟩ := by
    unfold State.homeMerge
    simp only [ha, hl, hc, hnew, Option.isNone_none, beq_self_eq_true, Bool.and_self, Bool.false_eq_true, if_false, if_true]
  exact (if_neg (by rw [hr]; decide)).trans hmerge

end

/-! ### The answer -/

section
variable {s s1 : State} {i : Inbound} {ls : List LaneReq}

/-- The answer an access sends. -/
def State.inboundAnswer (s : State) (ls : List LaneReq) (i : Inbound) (s1 : State) : State :=
  s1.sendFlit (s.argN 0)
    ⟨if s.argN 2 = 1 then 2 else 3, [s.argN 1, i.code, i.reason, i.wb.toNat] ++ i.vals.map Prod.snd, valBytes ls i.vals⟩

theorem inboundAccess_answers (hls : piecesIn (s.arg.n.drop 6) = ls)
    (hc : supported (s.argN 2) (s.argN 5) ls = true → s.nowhereAt (s.argN 3) (inboundOp (s.argN 2) 8 0).acc (ls.map (fun x => x.addr)) = none)
    (hi : s.inbound (s.argN 0) (s.argN 2) (s.argN 3) (s.argN 5) ls (BitVec.ofNat 16 (s.argN 4)) = (i, s1)) :
    execInboundAccess s = .next (s.inboundAnswer ls i s1) := by
  have hno : (if supported (s.argN 2) (s.argN 5) ls then
      s.nowhereAt (s.argN 3) (inboundOp (s.argN 2) 8 0).acc (ls.map (fun x => x.addr)) else none) = none := by
    split
    · next h => exact hc h
    · rfl
  have harg : s1.arg = s.arg := by
    have h := inbound_arg (s := s) (s.argN 0) (s.argN 2) (s.argN 3) (s.argN 5) ls (BitVec.ofNat 16 (s.argN 4))
    rwa [hi] at h
  have hn : ∀ k, s1.argN k = s.argN k := fun k => congrArg (fun a : Arg => a.n.getD k 0) harg
  unfold execInboundAccess
  simp only [hls, hno, hi, hn]
  rfl

theorem inboundAccess_stops {o : Out} (hs : supported (s.argN 2) (s.argN 5) (piecesIn (s.arg.n.drop 6)) = true)
    (ho : s.nowhereAt (s.argN 3) (inboundOp (s.argN 2) 8 0).acc ((piecesIn (s.arg.n.drop 6)).map (fun x => x.addr)) = some o) :
    execInboundAccess s = o := by
  unfold execInboundAccess
  simp only [hs, ho, if_true]

theorem nowhereAt_head {w acc off : Nat} {t : List Nat} {y : Xlat} (hp : (s.inboundPlace w off acc).1 = .ok y) : s.nowhereAt w acc (off :: t) =
    if y.region = .unpopulated then some (.fault .unpopulated) else if y.region = .device then some (.refused .deviceSpace)
    else s.nowhereAt w acc t := by
  rw [State.nowhereAt, hp]

/-- An answer that brings no values. -/
theorem inboundAnswer_code (hv : i.vals = []) : s.inboundAnswer ls i s1 = s1.sendFlit (s.argN 0)
    ⟨if s.argN 2 = 1 then 2 else 3, [s.argN 1, i.code, i.reason, i.wb.toNat], []⟩ := by
  unfold State.inboundAnswer valBytes
  rw [hv, List.zip_nil_right]
  rfl

/-- An answer that brings one. -/
theorem inboundAnswer_value {r : LaneReq} {v : Nat} (h1 : ls = [r]) (hv : i.vals = [(r.lane, v)]) : s.inboundAnswer ls i s1 = s1.sendFlit (s.argN 0)
    ⟨if s.argN 2 = 1 then 2 else 3, [s.argN 1, i.code, i.reason, i.wb.toNat, v], bytesOf r.size v⟩ := by
  subst h1
  have hb : valBytes [r] [(r.lane, v)] = bytesOf r.size v := List.append_nil _
  unfold State.inboundAnswer
  rw [hv, hb]
  rfl

end
end Sys2Proof.Machine

open Sys2Proof Sys2Proof.Machine in
/-- Settles O40: how an access from a peer is answered, by what stops it or by what it does at its home. -/
theorem inboundAccesses : Obligations.InboundAccesses := by
  unfold Obligations.InboundAccesses
  intro s peer id kind w atop ls wb acc n reply
  refine ⟨fun h => ?unsup, supported_iff, ?placed, ⟨_, rfl, rfl⟩⟩
  case unsup =>
    exact ⟨_, inboundAccess_answers rfl (fun hs => absurd (h.symm.trans hs) (by decide)) (inbound_unsup h), inboundAnswer_code rfl⟩
  case placed =>
    intro r rest hs hls refused bound m clear
    have hcode : ∀ i s1, clear → s.inbound peer kind w atop ls wb = (i, s1) → i.vals = [] →
        Completes .inboundAccess s (reply s1 i.code i.reason i.wb [] []) := fun i s1 hc hi hv =>
      ⟨_, inboundAccess_answers rfl (fun _ => hc) hi, inboundAnswer_code hv⟩
    have hvalue : ∀ i s1 v, clear → rest = [] → s.inbound peer kind w atop ls wb = (i, s1) → i.vals = [(r.lane, v)] →
        Completes .inboundAccess s (reply s1 i.code i.reason i.wb [v] (bytesOf r.size v)) := fun i s1 v hc hone hi hv =>
      ⟨_, inboundAccess_answers rfl (fun _ => hc) hi, inboundAnswer_value (hls.trans (by rw [hone])) hv⟩
    have hdenied : ∀ s1 d, clear → s.inboundPlace w r.addr m.acc = (.error d, s1) → refused s1 d := fun s1 d hc hp =>
      hcode ⟨d.code, d.reason, [], 0, none⟩ (s1.inboundDecline peer w acc d wb) hc (inbound_stopped hls hs hp) rfl
    refine ⟨fun hc hb => hdenied s ⟨0x23, 0, s.targetVa w r.addr, 0, false⟩ hc (inboundPlace_unbound hb),
      fun hc hb hw => hdenied s ⟨cPROT, 3, s.targetVa w r.addr, 0, false⟩ hc (inboundPlace_outside hb (inWindow_none hw)),
      fun k base hc hb hw hout => hdenied s ⟨cPROT, 3, (base + r.addr) % 2 ^ 57, 0, false⟩ hc ?outside, ?inside⟩
    case outside =>
      rw [← targetVa_window hw]
      exact inboundPlace_outside hb ((inWindow_some hw).trans (decide_eq_false (Nat.not_lt.2 hout)))
    intro k base hb hw hin va x
    have hplace : s.inboundPlace w r.addr m.acc = (xlatDenied va x.1, x.2) := by
      have h := inboundPlace_translated (acc := m.acc) hb ((inWindow_some hw).trans (decide_eq_true hin))
      rw [targetVa_window hw] at h
      exact h
    have hok : ∀ y, x.1 = .ok y → s.inboundPlace w r.addr m.acc = (.ok y, x.2) := fun y hx => by rw [hplace, hx]; rfl
    have hhead : ∀ y, x.1 = .ok y → s.nowhereAt w (inboundOp kind 8 0).acc (ls.map (fun x => x.addr)) =
        if y.region = .unpopulated then some (.fault .unpopulated) else if y.region = .device then some (.refused .deviceSpace)
        else s.nowhereAt w (inboundOp kind 8 0).acc (rest.map (fun x => x.addr)) := fun y hx => by
      rw [hls]
      exact nowhereAt_head (congrArg Prod.fst (hok y hx))
    refine ⟨fun f hc hx => hdenied x.2 ⟨f.cause, f.reason, va, 0, false⟩ hc (by rw [hplace, hx]; rfl),
      fun z o hc hx => hdenied x.2 ⟨0x20, 0, va, z, o⟩ hc (by rw [hplace, hx]; rfl),
      fun y hx hreg => inboundAccess_stops hs ((hhead y hx).trans (if_pos hreg)),
      fun y hx hreg => inboundAccess_stops hs ((hhead y hx).trans ((if_neg (by rw [hreg]; decide)).trans (if_pos hreg))),
      fun y s2 g e hc hx hg => hcode ⟨cEGRESS, 0, [], 0, none⟩
        (s2.inboundDecline peer w acc ⟨cEGRESS, 0, s2.targetVa w r.addr, y.size, false⟩ wb) hc (inbound_gated hls hs (hok y hx) hg) rfl,
      ?window, ?zero, ?home⟩
    case window =>
      intro y s2 hc hx hg hreg hk hone
      have hi := inbound_write (peer := peer) hls hs (hok y hx) hg hk
      rw [homeStore_window (hls.trans (by rw [hone])) hreg] at hi
      exact hcode ⟨0, 0, [], 0, some y⟩ _ hc hi rfl
    case zero =>
      intro y s2 hc hx hreg hz ha hk hone hg
      have hi := inbound_read (peer := peer) hls hs (hok y hx) hg hk (homePoison_zeroPage hz)
      rw [homeLine_atom ha, homeReads_zeroPage (hls.trans (by rw [hone])) hreg hz (if_pos hk)] at hi
      exact hvalue ⟨0, 0, [(r.lane, 0)], 0, some y⟩ s2 0 hc hone hi rfl
    case home =>
      intro y s2 s3 hc hx hreg hg he ha l hl at_ old here
      have hline : s2.homeLine y = s3 := homeLine_l2 hreg ha he
      refine ⟨fun hk h => ?merge, fun hk hno hfull => ?whole, fun hk hz hp hone => ?read, fun hk hz hp => ?poison, fun hk hz hp => ?atomic⟩
      case merge =>
        have hi := inbound_write (peer := peer) hls hs (hok y hx) hg hk
        rw [homeStore_merge hreg ha he hl h] at hi
        exact hcode ⟨0, 0, [], 0, some y⟩ _ hc hi rfl
      case whole =>
        have hi := inbound_write (peer := peer) hls hs (hok y hx) hg hk
        rw [homeStore_whole hreg ha hno hfull] at hi
        exact hcode ⟨0, 0, [], 0, some y⟩ _ hc hi rfl
      case read =>
        have hi := inbound_read (peer := peer) hls hs (hok y hx) hg hk (by rw [hline]; exact homePoison_clean hreg ha hz hl hp)
        rw [hline, homeReads_load (hls.trans (by rw [hone])) hreg ha hz hl (if_pos hk)] at hi
        exact hvalue ⟨0, 0, [(r.lane, lineGet l.data (r.addr % 128) r.size)], l.wb, some y⟩ s3 _ hc hone hi rfl
      case poison =>
        obtain ⟨r', rest', hls', hshape, -⟩ := supported_iff.1 hs
        have hr : r ∈ ls := hls ▸ List.mem_cons_self
        have hi := inbound_poisoned (peer := peer) hls hs (hok y hx) hg hk (by rw [hline]; exact homePoison_bad hreg ha hz hl hp hr (hshape r hr).1)
        rw [hline] at hi
        exact hcode ⟨cPOISON, 0, [], 0, none⟩ (s3.inboundDecline peer w acc ⟨cPOISON, 0, s3.targetVa w r.addr, y.size, false⟩ wb) hc hi rfl
      case atomic =>
        have hone : rest = [] := by
          obtain ⟨-, -, h | ⟨-, h⟩ | ⟨-, h, -⟩⟩ := supported_cons.1 (hls ▸ hs)
          · exact absurd (hk.symm.trans h) (by decide)
          · exact h
          · exact h
        have hm : m.kind = .atomic := by
          show (if kind = 0 then _ else if kind = 1 then _ else _) = _
          rw [hk]; rfl
        have hi := inbound_atomic (peer := peer) hls hs (hok y hx) hg hk (by rw [hline]; exact homePoison_clean hreg ha hz hl hp)
        rw [hline, homeAccess_atomic hreg ha hz hl hm] at hi
        exact hvalue ⟨0, 0, [(r.lane, old)], l.wb, some y⟩ _ old hc hone hi rfl
end

section
/-! What the memory levels' own steps leave as they are (O24, O25, O46): an access of the machine's own keeps everything but the lines of
HBM and of the L2, and results that reach an operation keep everything but its string and its own record. -/

namespace Sys2Proof.Machine

/-- What no element of a list changes, the whole list leaves as it is. -/
theorem foldl_keeps {σ α β : Type} {f : σ → α → σ} {g : σ → β} (h : ∀ s a, g (f s a) = g s) (l : List α) (s : σ) : g (l.foldl f s) = g s := by
  induction l generalizing s with
  | nil => rfl
  | cons a l ih => exact (ih _).trans (h s a)

/-- A state without what an access of the machine's own may change (R480): lines of HBM and the L2, fills on their way, the accounts of the
controllers, a partition's dirty-bitmap register and messages to the outside; and the numbers of its requests. -/
def State.kept (s : State) : State × List Nat :=
  ({ s with mem := { s.mem with hbm := [], keyed := [], hpoison := [], l2 := [], bw := [], reqs := [] }, partRegs := [], outbox := [] },
    s.mem.reqs.map Req.rid)

section
variable {s s' : State}

theorem kept_strs (h : s'.kept = s.kept) : s'.strs = s.strs := congrArg (fun k => k.1.strs) h
theorem kept_time (h : s'.kept = s.kept) : s'.time = s.time := congrArg (fun k => k.1.time) h
theorem kept_sch (h : s'.kept = s.kept) : s'.sch = s.sch := congrArg (fun k => k.1.sch) h
theorem kept_sp (h : s'.kept = s.kept) : s'.mem.sp = s.mem.sp := congrArg (fun k => k.1.mem.sp) h
theorem kept_cv (h : s'.kept = s.kept) : s'.mem.cv = s.mem.cv := congrArg (fun k => k.1.mem.cv) h
theorem kept_dp (h : s'.kept = s.kept) : s'.mem.dp = s.mem.dp := congrArg (fun k => k.1.mem.dp) h
theorem kept_rids (h : s'.kept = s.kept) : s'.mem.reqs.map Req.rid = s.mem.reqs.map Req.rid := congrArg (fun k => k.2) h

theorem kept_chipPoison (h : s'.kept = s.kept) (x k : Nat) : s'.chipPoison x k = s.chipPoison x k := by
  have h1 : s'.mem.sppo = s.mem.sppo := congrArg (fun k => k.1.mem.sppo) h
  have h2 : s'.mem.cvpo = s.mem.cvpo := congrArg (fun k => k.1.mem.cvpo) h
  have h3 : s'.mem.dppo = s.mem.dppo := congrArg (fun k => k.1.mem.dppo) h
  unfold State.chipPoison
  rw [h1, h2, h3]

/-! ### Lines and granules -/

theorem onFill_rids (m : MemS) (i : Bool) (t n : Nat) (f : Line × Bool × Waybill × Nat → Line × Bool × Waybill × Nat) :
    (onFill m i t n f).reqs.map Req.rid = m.reqs.map Req.rid := by
  simp only [onFill, List.map_map]
  refine List.map_congr_left fun r _ => ?_
  simp only [Function.comp_apply]
  split <;> rfl

@[simp] theorem putL2_kept (i : Bool) (t n : Nat) (l : L2Line) : (s.putL2 i t n l).kept = s.kept := rfl

@[simp] theorem hostWrite_kept (h n v : Nat) : (s.hostWrite h n v).kept = s.kept := by
  unfold State.hostWrite
  split
  · rfl
  · exact Prod.ext rfl (onFill_rids _ _ _ _ _)

@[simp] theorem setGran_kept (g : Nat) (e : Word) : (s.setGran g e).kept = s.kept := by
  unfold State.setGran; split <;> simp

@[simp] theorem orGranWb_kept (h : Nat) (wb : Waybill) : (s.orGranWb h wb).kept = s.kept := by
  unfold State.orGranWb; split <;> simp

@[simp] theorem setPreg_kept (p n : Nat) (v : Dword) : (s.setPreg p n v).kept = s.kept := rfl

@[simp] theorem markDirty_kept (p g : Nat) : (s.markDirty p g).kept = s.kept := by
  unfold State.markDirty
  simp only
  split
  · rfl
  · split
    · simp
    · split <;> simp

@[simp] theorem markDirtyFor_kept (i : Bool) (t g : Nat) : (s.markDirtyFor i t g).kept = s.kept := by
  unfold State.markDirtyFor
  split
  · rfl
  · split <;> simp

@[simp] theorem refill_kept (i : Bool) (t n : Nat) : (s.refill i t n).kept = s.kept := by
  unfold State.refill
  split
  · rfl
  · exact Prod.ext rfl (onFill_rids _ _ _ _ _)

@[simp] theorem charge_kept (k : Nat) (p : Option Nat) : (s.charge k p).kept = s.kept := by
  unfold State.charge State.chargeLines; split <;> rfl

@[simp] theorem storeLine_kept (i : Bool) (t n : Nat) (d : Line) (wb : Waybill) (p : Nat) : (s.storeLine i t n d wb p).kept = s.kept := by
  unfold State.storeLine
  split
  · rfl
  · split
    · simp only [charge_kept, refill_kept, markDirtyFor_kept, orGranWb_kept]; rfl
    · rfl

@[simp] theorem cleanL2_kept (i : Bool) (t n : Nat) : (s.cleanL2 i t n).kept = s.kept := by
  unfold State.cleanL2
  split
  · rfl
  · split <;> simp

@[simp] theorem dropL2_kept (i : Bool) (t n : Nat) : (s.dropL2 i t n).kept = s.kept := rfl

@[simp] theorem evictFor_kept (n : Nat) : (s.evictFor n).kept = s.kept := by
  unfold State.evictFor
  simp only
  split
  · split <;> simp
  · rfl

@[simp] theorem installL2_kept (i : Bool) (t n : Nat) (g : Line × Bool × Waybill × Nat) : (s.installL2 i t n g).kept = s.kept := by
  unfold State.installL2; simp

theorem ensureL2_kept {i : Bool} {t n : Nat} (h : s.ensureL2 i t n = some s') : s'.kept = s.kept := by
  unfold State.ensureL2 at h
  split at h
  · cases h; rfl
  · obtain ⟨g, -, rfl⟩ := Option.map_eq_some_iff.1 h
    simp

theorem readL2_kept {i : Bool} {t a n : Nat} {r : Nat × Waybill × State} (h : s.readL2 i t a n = some r) : r.2.2.kept = s.kept := by
  unfold State.readL2 at h
  split at h
  · obtain ⟨g, -, rfl⟩ := Option.map_eq_some_iff.1 h
    rfl
  · split at h
    · cases h
    · next s1 he =>
      split at h
      · cases h
      · cases h; exact ensureL2_kept he

theorem writeL2_kept {i : Bool} {t a n v : Nat} {wb : Waybill} (h : s.writeL2 i t a n v wb = some s') : s'.kept = s.kept := by
  unfold State.writeL2 at h
  split at h
  · obtain ⟨g, -, rfl⟩ := Option.map_eq_some_iff.1 h
    simp
  · split at h
    · cases h
    · next s1 he =>
      split at h
      · cases h
      · cases h; rw [putL2_kept]; exact ensureL2_kept he

@[simp] theorem claim_kept (h w : Nat) : (s.claim h w).kept = s.kept := by
  unfold State.claim
  simp only
  split
  · split <;> simp
  · rfl

/-! ### The hub and its rings -/

theorem hubWorld_kept {p : Option Nat} {a : Nat} {r : Bool × Nat × State} (h : s.hubWorld p a = some r) : r.2.2.kept = s.kept := by
  unfold State.hubWorld at h
  split at h
  · cases h; rfl
  · split at h
    · cases h
    · cases h; simp

theorem hubRead_kept {p : Option Nat} {a n : Nat} {r : Nat × State} (h : s.hubRead p a n = some r) : r.2.kept = s.kept := by
  unfold State.hubRead at h
  split at h
  · cases h
  · next i w s1 hw =>
    obtain ⟨x, hx, rfl⟩ := Option.map_eq_some_iff.1 h
    exact (readL2_kept hx).trans (hubWorld_kept hw :)

theorem hubWrite_kept {p : Option Nat} {a n v : Nat} {wb : Waybill} (h : s.hubWrite p a n v wb = some s') : s'.kept = s.kept := by
  unfold State.hubWrite at h
  split at h
  · cases h
  · split at h
    · cases h
    · next i w s1 hw => exact (writeL2_kept h).trans (hubWorld_kept hw :)

theorem hubWrite_getD_kept (p : Option Nat) (a n v : Nat) (wb : Waybill) : ((s.hubWrite p a n v wb).getD s).kept = s.kept := by
  cases h : s.hubWrite p a n v wb with
  | none => rfl
  | some s' => exact hubWrite_kept h

theorem hubPut_kept (p : Option Nat) (a : Nat) (wb : Waybill) (bs : List Byte) : (s.hubPut p a wb bs).kept = s.kept :=
  foldl_keeps (fun _ _ => hubWrite_getD_kept _ _ _ _ _) _ _

theorem ringPutN_kept (p : Option Nat) (ctl sz rec : Nat) (wb : Waybill) : (s.ringPutN p ctl sz rec wb).kept = s.kept := by
  unfold State.ringPutN
  split
  · rfl
  · split
    · rfl
    · next head s1 h1 =>
      have hs1 : s1.kept = s.kept := hubRead_kept h1
      split
      · simp only
        split
        · split
          · exact hs1
          · next h2 => exact (hubWrite_getD_kept _ _ _ _ _).trans ((hubRead_kept h2 :).trans hs1)
        · exact (hubWrite_getD_kept _ _ _ _ _).trans ((hubPut_kept _ _ _ _).trans hs1)
      · exact hs1

@[simp] theorem schEvent_kept (p rec : Nat) : (s.schEvent p rec).kept = s.kept := ringPutN_kept _ _ _ _ _

/-- A record about no frame changes what its ring's accesses change. -/
theorem logChip_kept (w halves a : Nat) : (s.logChip w halves a none).kept = s.kept := by
  unfold State.logChip State.logRing
  simp only
  split
  · rfl
  · next head s1 h =>
    have hs1 : s1.kept = s.kept := by
      split at h
      · cases h
      · exact hubRead_kept h
    split
    · next hf => cases hf
    · exact (ringPutN_kept _ _ _ _ _).trans hs1

/-! ### Results that reach an operation (R233, R300) -/

theorem opDone_mem (n : Nat) (o : Op) : (s.opDone n o).mem = { s.mem with ops := (s.opDone n o).mem.ops } := by
  unfold State.opDone
  cases o.launch <;> simp only <;> split <;> rfl

theorem opLeave_mem (n : Nat) : (s.opLeave n).mem = { s.mem with ops := (s.opLeave n).mem.ops } := by
  unfold State.opLeave
  split
  · rfl
  · split
    · exact opDone_mem n _
    · rfl

theorem opResult_mem (n : Nat) (vals : List (Nat × Nat)) (w : Waybill) (bad : Bool) :
    (s.opResult n vals w bad).mem = { s.mem with ops := (s.opResult n vals w bad).mem.ops } := by
  unfold State.opResult
  split
  · rfl
  · simp only
    split <;> rfl

@[simp] theorem opLeave_reqs (n : Nat) : (s.opLeave n).mem.reqs = s.mem.reqs := by rw [opLeave_mem]
@[simp] theorem opLeave_hbm (n : Nat) : (s.opLeave n).mem.hbm = s.mem.hbm := by rw [opLeave_mem]
@[simp] theorem opLeave_l2 (n : Nat) : (s.opLeave n).mem.l2 = s.mem.l2 := by rw [opLeave_mem]
@[simp] theorem opLeave_l1 (n : Nat) : (s.opLeave n).mem.l1 = s.mem.l1 := by rw [opLeave_mem]
@[simp] theorem opLeave_sp (n : Nat) : (s.opLeave n).mem.sp = s.mem.sp := by rw [opLeave_mem]
@[simp] theorem opLeave_cv (n : Nat) : (s.opLeave n).mem.cv = s.mem.cv := by rw [opLeave_mem]
@[simp] theorem opLeave_dp (n : Nat) : (s.opLeave n).mem.dp = s.mem.dp := by rw [opLeave_mem]

section
variable (n : Nat) (vals : List (Nat × Nat)) (w : Waybill) (bad : Bool)

@[simp] theorem opResult_reqs : (s.opResult n vals w bad).mem.reqs = s.mem.reqs := by rw [opResult_mem]
@[simp] theorem opResult_hbm : (s.opResult n vals w bad).mem.hbm = s.mem.hbm := by rw [opResult_mem]
@[simp] theorem opResult_l2 : (s.opResult n vals w bad).mem.l2 = s.mem.l2 := by rw [opResult_mem]
@[simp] theorem opResult_l1 : (s.opResult n vals w bad).mem.l1 = s.mem.l1 := by rw [opResult_mem]
@[simp] theorem opResult_sp : (s.opResult n vals w bad).mem.sp = s.mem.sp := by rw [opResult_mem]
@[simp] theorem opResult_cv : (s.opResult n vals w bad).mem.cv = s.mem.cv := by rw [opResult_mem]
@[simp] theorem opResult_dp : (s.opResult n vals w bad).mem.dp = s.mem.dp := by rw [opResult_mem]

end

/-! ### Requests -/

/-- A request that its event finds. -/
theorem reqAt_mem {rid : Nat} {st : Stage} {r : Req} (h : s.reqAt rid st = some r) : r ∈ s.mem.reqs := List.mem_of_find?_eq_some h

/-- A request that is dropped is among those in flight no more. -/
theorem dropReq_gone (rid : Nat) : ∀ e ∈ (s.dropReq rid).mem.reqs, e.rid ≠ rid := by
  intro e he
  simpa using (List.mem_filter.1 he).2

/-- A request in flight, set to what it is at another stage, is found there. -/
theorem reqAt_setReq {q : Req} {st : Stage} (h : q.rid ∈ s.mem.reqs.map Req.rid) (hst : q.stage = st) : (s.setReq q).reqAt q.rid st = some q := by
  obtain ⟨e, he, hr⟩ := List.mem_map.1 h
  have hq : q ∈ (s.setReq q).mem.reqs := List.mem_map.2 ⟨e, he, if_pos hr⟩
  cases hf : (s.setReq q).reqAt q.rid st with
  | none => exact absurd (List.find?_eq_none.1 hf q hq) (by simp [hst])
  | some x =>
    obtain ⟨y, -, hy⟩ := List.mem_map.1 (reqAt_mem hf)
    have hx : x.rid = q.rid := (by simpa using List.find?_some (hf :) : x.rid = q.rid ∧ _).1
    split at hy
    · rw [hy]
    · next hne => exact absurd ((congrArg Req.rid hy).trans hx) hne

/-- With argument 0 a request is performed whole (R130). -/
theorem part_zero (r : Req) : r.part 0 = (r.lanes, []) := by simp [Req.part]

theorem partDone_nil (r : Req) : s.partDone r [] = (s.dropReq r.rid).opLeave r.op := if_pos rfl

end
end Sys2Proof.Machine
end

section
/-! BANK_ACCESS (O24): what the bytes of on-chip storage are after a store's pieces have landed (R66, R130, R131), and what a string's
registers are after results have been delivered to it (R300, R373). -/

namespace Sys2Proof.Machine

section
variable {s s' : State}

/-! ### One byte, and the bytes of one piece -/

theorem setChipByte_byte (x k : Nat) (b : Byte) (j : Nat) : (s.setChipByte x k b).chipByte x j = if j = k then b else s.chipByte x j := by
  unfold State.setChipByte
  split <;> simp [State.chipByte]

/-- The spaces of on-chip storage are apart. -/
theorem setChipByte_apart {x y : Nat} (hx : x = 1 ∨ x = 2 ∨ x = 3) (hy : y = 1 ∨ y = 2 ∨ y = 3) (h : y ≠ x) (k : Nat) (b : Byte) (j : Nat) :
    (s.setChipByte x k b).chipByte y j = s.chipByte y j := by
  rcases hx with rfl | rfl | rfl <;> rcases hy with rfl | rfl | rfl <;>
    simp [State.setChipByte, State.chipByte] at h ⊢

theorem chipPut_byte (x a v n k : Nat) : (s.chipPut x a v n).chipByte x k =
    if a ≤ k ∧ k < a + n then BitVec.ofNat 8 (v / 2 ^ (8 * (k - a))) else s.chipByte x k := by
  induction n generalizing s a v with
  | zero => rw [if_neg (by omega)]; rfl
  | succ n ih =>
    rw [State.chipPut, ih, setChipByte_byte]
    by_cases hk : k = a
    · subst hk
      rw [if_neg (by omega), if_pos rfl, if_pos (by omega), Nat.sub_self, Nat.mul_zero, pow_zero, Nat.div_one]
    · rw [if_neg hk]
      by_cases hc : a + 1 ≤ k ∧ k < a + 1 + n
      · rw [if_pos hc, if_pos (by omega), Nat.div_div_eq_div_mul, show (256 : Nat) = 2 ^ 8 from rfl, ← pow_add,
          show 8 + 8 * (k - (a + 1)) = 8 * (k - a) by omega]
      · rw [if_neg hc, if_neg (by omega)]

/-- What a function of the state keeps over each byte written, it keeps over a number of them. -/
theorem chipPut_keeps {β : Type} {g : State → β} {x : Nat} (h : ∀ s k b, g (s.setChipByte x k b) = g s) (a v n : Nat) : g (s.chipPut x a v n) = g s := by
  induction n generalizing s a v with
  | zero => rfl
  | succ n ih => rw [State.chipPut, ih, h]

/-! ### The pieces of a store -/

/-- Does a lane's part of a request cover a byte? -/
def LaneReq.covers (l : LaneReq) (k : Nat) : Bool := decide (l.addr ≤ k) && decide (k < l.addr + l.size)

/-- The byte a lane's part of a request gives an address it covers (R373: little-endian). -/
def LaneReq.byteAt (l : LaneReq) (k : Nat) : Byte := BitVec.ofNat 8 (l.data / 2 ^ (8 * (k - l.addr)))

theorem covers_iff {l : LaneReq} {k : Nat} : l.covers k = true ↔ l.addr ≤ k ∧ k < l.addr + l.size := by simp [LaneReq.covers]

/-- The pieces of an access cover what it covers, with its bytes. -/
theorem pieces_covers {l p : LaneReq} {k : Nat} (hp : p ∈ pieces l) (hc : p.covers k = true) : l.covers k = true ∧ p.byteAt k = l.byteAt k := by
  unfold pieces at hp
  rw [covers_iff] at hc ⊢
  split at hp
  · next h16 =>
    rcases List.mem_pair.1 hp with rfl | rfl
    · simp only at hc
      refine ⟨by omega, BitVec.eq_of_toNat_eq ?_⟩
      have h64 : (2 : Nat) ^ 64 = 2 ^ (8 * (k - l.addr)) * 2 ^ (64 - 8 * (k - l.addr)) := by rw [← pow_add]; congr 1; omega
      simp only [LaneReq.byteAt, BitVec.toNat_ofNat]
      rw [h64, Nat.mod_mul_right_div_self, Nat.mod_mod_of_dvd _ (pow_dvd_pow 2 (by omega))]
    · simp only at hc
      refine ⟨by omega, ?_⟩
      simp only [LaneReq.byteAt]
      rw [Nat.div_div_eq_div_mul, ← pow_add, show 64 + 8 * (k - (l.addr + 8)) = 8 * (k - l.addr) by omega]
  · rw [List.mem_singleton.1 hp] at hc ⊢
    exact ⟨hc, rfl⟩

theorem exists_piece {l : LaneReq} {k : Nat} (hc : l.covers k = true) : ∃ p ∈ pieces l, p.covers k = true := by
  rw [covers_iff] at hc
  unfold pieces
  split
  · by_cases h8 : k < l.addr + 8
    · exact ⟨_, List.mem_cons_self, covers_iff.2 ⟨hc.1, h8⟩⟩
    · exact ⟨_, List.mem_cons_of_mem _ List.mem_cons_self, covers_iff.2 ⟨by simp only; omega, by simp only; omega⟩⟩
  · exact ⟨l, List.mem_cons_self, covers_iff.2 hc⟩

theorem mem_insertPiece (rid : Nat) (a p : LaneReq) (ls : List LaneReq) : p ∈ insertPiece rid a ls ↔ p = a ∨ p ∈ ls := by
  induction ls with
  | nil => simp [insertPiece]
  | cons b t ih =>
    unfold insertPiece
    split
    · simp
    · simp only [List.mem_cons, ih]; tauto

theorem mem_landing (rid : Nat) (ls : List LaneReq) (p : LaneReq) : p ∈ landing rid ls ↔ ∃ l ∈ ls, p ∈ pieces l := by
  rw [landing, ← List.mem_flatMap]
  generalize ls.flatMap pieces = ps
  induction ps with
  | nil => simp
  | cons a t ih => rw [List.foldr_cons, mem_insertPiece, ih, List.mem_cons]

theorem chipPut_piece (x : Nat) (p : LaneReq) (k : Nat) : (s.chipPut x p.addr p.data p.size).chipByte x k =
    if p.covers k = true then p.byteAt k else s.chipByte x k := by
  simp only [chipPut_byte, covers_iff, LaneReq.byteAt]

/-! ### A store to a block -/

/-- The state once pieces have landed in a space, one after another. -/
def State.land (s : State) (x : Nat) (ps : List LaneReq) : State := ps.foldl (fun s p => s.chipPut x p.addr p.data p.size) s

/-- A byte that every piece over it gives the same value has that value; a byte under no piece has its own. -/
theorem land_byte {x k : Nat} {b : Byte} (ps : List LaneReq) (h : ∀ p ∈ ps, p.covers k = true → p.byteAt k = b) :
    (s.land x ps).chipByte x k = if ∃ p ∈ ps, p.covers k = true then b else s.chipByte x k := by
  induction ps generalizing s with
  | nil => simp [State.land]
  | cons p ps ih =>
    rw [State.land, List.foldl_cons, ← State.land, ih fun q hq => h q (List.mem_cons_of_mem _ hq), chipPut_piece]
    by_cases hps : ∃ q ∈ ps, q.covers k = true
    · obtain ⟨q, hq, hc⟩ := hps
      rw [if_pos ⟨q, hq, hc⟩, if_pos ⟨q, List.mem_cons_of_mem _ hq, hc⟩]
    · rw [if_neg hps]
      by_cases hp : p.covers k = true
      · rw [if_pos hp, if_pos ⟨p, List.mem_cons_self, hp⟩]
        exact h p List.mem_cons_self hp
      · rw [if_neg hp, if_neg]
        rintro ⟨q, hq, hc⟩
        rcases List.mem_cons.1 hq with rfl | hq
        · exact hp hc
        · exact hps ⟨q, hq, hc⟩

/-- What neither a byte, a block's waybill nor a region's poison changes, a store keeps. -/
theorem chipStore_keeps {β : Type} {g : State → β} {x : Nat} (hb : ∀ s k b, g (s.setChipByte x k b) = g s) (hw : ∀ s k w, g (s.setChipWb x k w) = g s)
    (hp : ∀ s k b, g (s.setChipPoison x k b) = g s) (blk rid : Nat) (ls : List LaneReq) (wb : Waybill) : g (s.chipStore x blk rid ls wb) = g s := by
  unfold State.chipStore
  refine (foldl_keeps (g := g) (fun s k => ?_) _ _).trans ((hw _ _ _).trans (foldl_keeps (g := g) (fun s p => chipPut_keeps hb _ _ _) _ _))
  split
  · exact hp _ _ _
  · rfl

theorem setChipWb_byte (x k : Nat) (w : Waybill) (y j : Nat) : (s.setChipWb x k w).chipByte y j = s.chipByte y j := by
  unfold State.setChipWb; split <;> rfl

theorem setChipPoison_byte (x k : Nat) (b : Bool) (y j : Nat) : (s.setChipPoison x k b).chipByte y j = s.chipByte y j := by
  unfold State.setChipPoison; split <;> rfl

theorem setChipPoison_wb (x k : Nat) (b : Bool) (y j : Nat) : (s.setChipPoison x k b).chipWb y j = s.chipWb y j := by
  unfold State.setChipPoison; split <;> rfl

theorem setChipByte_wb (x k : Nat) (b : Byte) (y j : Nat) : (s.setChipByte x k b).chipWb y j = s.chipWb y j := by
  unfold State.setChipByte; split <;> rfl

theorem setChipWb_wb (x k : Nat) (w : Waybill) (j : Nat) : (s.setChipWb x k w).chipWb x j = if j = k then w else s.chipWb x j := by
  unfold State.setChipWb
  split <;> simp [State.chipWb]

/-- The bytes of a store are those of its pieces. -/
theorem chipStore_byte (x blk rid : Nat) (ls : List LaneReq) (wb : Waybill) (k : Nat) :
    (s.chipStore x blk rid ls wb).chipByte x k = (s.land x (landing rid ls)).chipByte x k := by
  unfold State.chipStore
  refine (foldl_keeps (g := fun s : State => s.chipByte x k) (fun s j => ?_) _ _).trans (setChipWb_byte _ _ _ _ _)
  split
  · exact setChipPoison_byte _ _ _ _ _
  · rfl

theorem chipStore_uncovered {x k : Nat} {ls : List LaneReq} (h : ∀ l ∈ ls, l.covers k = false) (blk rid : Nat) (wb : Waybill) :
    (s.chipStore x blk rid ls wb).chipByte x k = s.chipByte x k := by
  have hno : ∀ p ∈ landing rid ls, ¬ p.covers k = true := fun p hp hc => by
    obtain ⟨l, hl, hpl⟩ := (mem_landing _ _ _).1 hp
    exact absurd (pieces_covers hpl hc).1 (by simp [h l hl])
  rw [chipStore_byte, land_byte (b := 0) _ fun p hp hc => absurd hc (hno p hp), if_neg fun ⟨p, hp, hc⟩ => hno p hp hc]

theorem chipStore_covered {x k : Nat} {ls : List LaneReq} {l : LaneReq} (hl : l ∈ ls) (hc : l.covers k = true)
    (h : ∀ e ∈ ls, e ≠ l → e.covers k = false) (blk rid : Nat) (wb : Waybill) : (s.chipStore x blk rid ls wb).chipByte x k = l.byteAt k := by
  rw [chipStore_byte, land_byte (b := l.byteAt k), if_pos]
  · obtain ⟨p, hp, hpc⟩ := exists_piece hc
    exact ⟨p, (mem_landing _ _ _).2 ⟨l, hl, hp⟩, hpc⟩
  · intro p hp hpc
    obtain ⟨e, he, hpe⟩ := (mem_landing _ _ _).1 hp
    obtain ⟨hec, hb⟩ := pieces_covers hpe hpc
    by_cases hel : e = l
    · rw [hb, hel]
    · exact absurd hec (by simp [h e he hel])

theorem chipStore_wb (x blk rid : Nat) (ls : List LaneReq) (wb : Waybill) (b : Nat) : (s.chipStore x blk rid ls wb).chipWb x b =
    if b = blk then (if coverage 256 ls = 2 ^ 256 - 1 then wb else s.chipWb x blk ||| wb) else s.chipWb x b := by
  have hland : ∀ j, (s.land x (landing rid ls)).chipWb x j = s.chipWb x j := fun j =>
    foldl_keeps (g := fun s : State => s.chipWb x j) (fun s p => chipPut_keeps (g := fun s : State => s.chipWb x j) (fun s k b => setChipByte_wb _ _ _ _ _) _ _ _) _ _
  unfold State.chipStore
  refine (foldl_keeps (g := fun s : State => s.chipWb x b) (fun s j => ?_) _ _).trans ?_
  · split
    · exact setChipPoison_wb _ _ _ _ _
    · rfl
  · change (((s.land x (landing rid ls)).setChipWb x blk _).chipWb x b) = _
    rw [setChipWb_wb, hland b]
    simp only [storeWb, beq_iff_eq]
    split
    · split
      · rfl
      · exact congrArg (· ||| wb) (hland blk)
    · rfl

/-- A store on chip reaches no line of HBM or of the L2. -/
theorem chipStore_lines (x blk rid : Nat) (ls : List LaneReq) (wb : Waybill) :
    (s.chipStore x blk rid ls wb).mem.hbm = s.mem.hbm ∧ (s.chipStore x blk rid ls wb).mem.l2 = s.mem.l2 :=
  Prod.ext_iff.1 (chipStore_keeps (g := fun s : State => (s.mem.hbm, s.mem.l2)) (fun s k b => by unfold State.setChipByte; split <;> rfl)
    (fun s k w => by unfold State.setChipWb; split <;> rfl) (fun s k b => by unfold State.setChipPoison; split <;> rfl) _ _ _ _)

/-! ### The event -/

theorem bankAccess_waits {r : Req} (hr : s.reqAt (s.argN 0) .bank = some r) (h : s.mayPerform r = false) : exec .bankAccess s = .next s := by
  change execBankAccess s = _
  unfold execBankAccess
  simp [hr, h]

section
variable {r : Req} (hr : s.reqAt (s.argN 0) .bank = some r) (hm : s.mayPerform r = true) (h1 : s.argN 1 = 0) (h2 : s.argN 2 = 0)
include hr hm h1 h2

theorem bankAccess_store (hk : r.kind = .store) :
    exec .bankAccess s = .next (((s.chipStore r.space r.line r.rid r.lanes r.wb).dropReq r.rid).opLeave r.op) := by
  change execBankAccess s = _
  unfold execBankAccess
  simp [hr, hm, h1, h2, hk, part_zero, partDone_nil]

theorem bankAccess_load (hk : r.kind ≠ .store) :
    exec .bankAccess s = .next (((s.opResult r.op (s.chipVals r) (s.chipWb r.space r.line)
      (r.lanes.any (fun l => s.chipPoison r.space (l.addr / 64)))).dropReq r.rid).opLeave r.op) := by
  change execBankAccess s = _
  unfold execBankAccess
  simp only [hr, hm, h1, h2, part_zero, partDone_nil, Bool.not_true, Bool.false_eq_true, if_false, Nat.zero_ne_one]

end

theorem bankAccess_error (hr : s.reqAt (s.argN 0) .bank = none) (h1 : s.argN 1 = 1) :
    exec .bankAccess s = .next (s.chipError (s.argN 4) (s.argN 3) (s.argN 5)) := by
  change execBankAccess s = _
  unfold execBankAccess
  simp [hr, h1]

/-- A region no request is reading is poisoned and logged (R90, R92). -/
theorem chipError_free {x a w : Nat} (h : ∀ e ∈ s.mem.reqs, e.isOpen = true → e.space = x → e.kind ≠ .store → ∀ l ∈ e.lanes, l.addr / 64 ≠ a / 64) :
    s.chipError x a w = (s.setChipPoison x (a / 64) true).logChip w 0 0 none := by
  refine if_neg ?_
  simp only [List.any_eq_true, Bool.and_eq_true, beq_iff_eq, bne_iff_ne, not_exists, not_and]
  rintro e he ⟨⟨ho, hx⟩, hk⟩ l hl
  exact h e he ho hx hk l hl

theorem setChipPoison_same (x k : Nat) (b : Bool) : (s.setChipPoison x k b).chipPoison x k = b := by
  unfold State.setChipPoison
  split <;> simp [State.chipPoison]

end

/-! ### Delivery -/

section
variable {t : Str}

/-- What is read of a narrow value, zero-extended. -/
theorem extendLoad_zero (size : Nat) (x : BitVec (8 * size)) : extendLoad size false x.toNat = x.toNat := Nat.mod_eq_of_lt x.isLt

theorem extendLoad_sign {size : Nat} (h0 : 0 < size) (h4 : size ≤ 4) (x : BitVec (8 * size)) : extendLoad size true x.toNat = (x.signExtend 32).toNat := by
  have hw : x.toNat < 2 ^ 32 := x.isLt.trans_le (Nat.pow_le_pow_right (by decide) (by omega))
  rw [BitVec.toNat_signExtend, BitVec.toNat_setWidth, Nat.mod_eq_of_lt hw, BitVec.msb_eq_decide]
  simp only [extendLoad, Nat.mod_eq_of_lt x.isLt, Bool.true_and]
  split <;> simp

theorem deliver_vec {r k size : Nat} {sg : Bool} {l : Nat} (hl : l < 32) (v x j : Nat) (hj : j < 32) :
    (t.deliver (.vec r k size sg) l v).vget x j =
      if j = l ∧ r ≤ x ∧ x < r + k then BitVec.ofNat 32 (extendLoad size sg v / 2 ^ (32 * (x - r))) else t.vget x j := by
  simp only [Str.deliver]
  rw [if_neg (by omega), vputGroup_get _ _ _ _ hl _ _ _ hj]
  simp only [List.mem_range]
  have : (j = l ∧ r ≤ x ∧ x - r < k) ↔ (j = l ∧ r ≤ x ∧ x < r + k) := by omega
  simp only [this]

/-- A lane's delivery to vector registers writes them and nothing else. -/
theorem deliver_vec_keeps {β : Type} {g : Str → β} (h : ∀ t r l w, g (t.vput r l w) = g t) (r k size : Nat) (sg : Bool) (l v : Nat) :
    g (t.deliver (.vec r k size sg) l v) = g t := by
  simp only [Str.deliver]
  split <;> exact foldl_keeps (fun t _ => h t _ _ _) _ _

/-- The lanes of a list of results, each once, have its values; the others what they had. -/
theorem deliveries_vec {r k size : Nat} {sg : Bool} {vals : List (Nat × Nat)} (hn : (vals.map Prod.fst).Nodup) (hl : ∀ v ∈ vals, v.1 < 32)
    (x l : Nat) (h : l < 32) : (vals.foldl (fun t v => t.deliver (.vec r k size sg) v.1 v.2) t).vget x l =
      if r ≤ x ∧ x < r + k then
        (match vals.find? (fun v => v.1 == l) with
          | some v => BitVec.ofNat 32 (extendLoad size sg v.2 / 2 ^ (32 * (x - r)))
          | none => t.vget x l)
      else t.vget x l := by
  induction vals generalizing t with
  | nil => simp
  | cons v vs ih =>
    obtain ⟨hv, hn⟩ := List.nodup_cons.1 hn
    rw [List.foldl_cons, ih hn fun w hw => hl w (List.mem_cons_of_mem _ hw), deliver_vec (hl v List.mem_cons_self) _ _ _ h]
    by_cases hx : r ≤ x ∧ x < r + k
    · simp only [if_pos hx]
      by_cases hvl : v.1 = l
      · have hnone : vs.find? (fun w => w.1 == l) = none :=
          List.find?_eq_none.2 fun w hw hwl => hv (List.mem_map.2 ⟨w, hw, (beq_iff_eq.1 hwl).trans hvl.symm⟩)
        rw [hnone, List.find?_cons_of_pos (by simp [hvl])]
        simp [hvl, hx]
      · rw [List.find?_cons_of_neg (by simp [hvl])]
        simp [Ne.symm hvl]
    · simp only [if_neg hx]
      rw [if_neg fun hc => hx hc.2]

theorem deliver_uni (r n l v x : Nat) : (t.deliver (.uni r n) l v).sget x =
    if r ≤ x ∧ x < r + n then BitVec.ofNat 32 (v / 2 ^ (32 * (x - r))) else t.sget x := by
  simp only [Str.deliver]
  induction n with
  | zero => rw [if_neg (by omega)]; rfl
  | succ n ih =>
    rw [List.range_succ, List.foldl_append, List.foldl_cons, List.foldl_nil]
    simp only [Str.sget, tget_tset] at ih ⊢
    rw [ih]
    by_cases hx : x = r + n
    · subst hx; rw [if_pos rfl, if_pos ⟨by omega, by omega⟩, Nat.add_sub_cancel_left]
    · rw [if_neg hx]
      by_cases hc : r ≤ x ∧ x < r + n
      · rw [if_pos hc, if_pos ⟨hc.1, by omega⟩]
      · rw [if_neg hc, if_neg (by omega)]

/-- A delivery to uniform registers writes them and nothing else. -/
theorem deliver_uni_keeps {β : Type} {g : Str → β} (h : ∀ (t : Str) y, g { t with s := y } = g t) (r n l v : Nat) : g (t.deliver (.uni r n) l v) = g t := by
  simp only [Str.deliver]
  exact foldl_keeps (fun t _ => h t _) _ _

/-- The widening of a destination's waybill changes no register. -/
theorem widen_keeps {β : Type} {g : Str → β} (h : ∀ (t : Str) y z, g { t with vwb := y, swb := z } = g t) (d : Dest) (w : Waybill) :
    g (t.widen d w) = g t := by
  unfold Str.widen
  split
  · rfl
  · exact foldl_keeps (fun t _ => h t _ t.swb) _ _
  · exact foldl_keeps (fun t _ => h t t.vwb _) _ _

theorem opResult_str {s : State} {n : Nat} {o : Op} (ho : tfind s.mem.ops n = some o) (ht : s.str? o.unit = some t) (vals : List (Nat × Nat))
    (w : Waybill) (bad : Bool) : (s.opResult n vals w bad).str? o.unit =
      some ((vals.foldl (fun t v => t.deliver o.dest v.1 v.2) t).widen o.dest (o.acc ||| w)) := by
  unfold State.opResult
  have ht' : tfind s.strs o.unit = some t := ht
  simp [ho, State.str?, ht']

end
end Sys2Proof.Machine

open Sys2Proof Sys2Proof.Machine

/-- Settles O24: a store's bytes are those of its pieces, which cover what their lanes do; and what is delivered to a lane is read in that lane's
registers. -/
theorem bankAccesses : Obligations.BankAccesses := by
  unfold Obligations.BankAccesses
  refine ⟨fun s r hr => ⟨bankAccess_waits hr, fun hm hk h1 h2 hsp => ?store, fun hm hk h1 h2 => ?load⟩, fun s hr h1 hfree => ?error,
    fun s n r k size sg o t vals w bad ho ht hk hn hl => ⟨fun hd => ?vec, fun v hv hd => ?uni, opResult_hbm _ _ _ _, opResult_l2 _ _ _ _,
      opResult_sp _ _ _ _, fun x => extendLoad_zero 4 x, fun x => ⟨extendLoad_sign (size := 2) (by decide) (by decide) x, extendLoad_zero 2 x⟩,
      fun x => ⟨extendLoad_sign (size := 1) (by decide) (by decide) x, extendLoad_zero 1 x⟩⟩⟩
  case store =>
    have hbyte : ∀ x k, (((s.chipStore r.space r.line r.rid r.lanes r.wb).dropReq r.rid).opLeave r.op).chipByte x k =
        (s.chipStore r.space r.line r.rid r.lanes r.wb).chipByte x k := fun x k => by unfold State.chipByte; simp
    have hwb : ∀ x k, (((s.chipStore r.space r.line r.rid r.lanes r.wb).dropReq r.rid).opLeave r.op).chipWb x k =
        (s.chipStore r.space r.line r.rid r.lanes r.wb).chipWb x k := fun x k => by unfold State.chipWb; rw [opLeave_mem]; rfl
    refine ⟨_, bankAccess_store hr hm h1 h2 hk, fun k h => (hbyte _ _).trans (chipStore_uncovered h _ _ _),
      fun l hl k hc h => (hbyte _ _).trans (chipStore_covered hl hc h _ _ _), fun x hx hx3 k => (hbyte _ _).trans ?_,
      (hwb _ _).trans ((chipStore_wb _ _ _ _ _ _).trans (if_pos rfl)), fun b hb => (hwb _ _).trans ((chipStore_wb _ _ _ _ _ _).trans (if_neg hb)),
      ?_, ?_, ?_⟩
    · exact chipStore_keeps (g := fun s : State => s.chipByte x k) (fun s j b => setChipByte_apart hsp hx3 hx _ _ _) (fun s j w => setChipWb_byte _ _ _ _ _)
        (fun s j b => setChipPoison_byte _ _ _ _ _) _ _ _ _
    · exact (opLeave_hbm _).trans (chipStore_lines _ _ _ _ _).1
    · exact (opLeave_l2 _).trans (chipStore_lines _ _ _ _ _).2
    · rw [opLeave_reqs]; exact dropReq_gone _
  case load =>
    refine ⟨_, bankAccess_load hr hm h1 h2 hk, rfl, ?_⟩
    simp
  case error =>
    have hkept := logChip_kept (s := s.setChipPoison (s.argN 4) (s.argN 3 / 64) true) (s.argN 5) 0 0
    refine ⟨_, (bankAccess_error hr h1).trans (congrArg _ (chipError_free hfree)), (kept_chipPoison hkept _ _).trans (setChipPoison_same _ _ _),
      (kept_sp hkept).trans ?_, (kept_cv hkept).trans ?_, (kept_dp hkept).trans ?_⟩
    all_goals unfold State.setChipPoison; split <;> rfl
  case vec =>
    have hkeep : ∀ {β : Type} (g : Str → β), (∀ t r l w, g (t.vput r l w) = g t) → (∀ (t : Str) y z, g { t with vwb := y, swb := z } = g t) →
        g ((vals.foldl (fun t v => t.deliver (.vec r k size sg) v.1 v.2) t).widen (.vec r k size sg) (o.acc ||| w)) = g t := fun g hv hw =>
      (widen_keeps hw _ _).trans (foldl_keeps (fun t v => deliver_vec_keeps hv _ _ _ _ _ _) _ _)
    refine ⟨_, opResult_str ho ht vals w bad, ?_⟩
    rw [hd]
    exact ⟨fun x l h => (widen_keeps (g := fun t => t.vget x l) (fun _ _ _ => rfl) _ _).trans (deliveries_vec hn hl x l h),
      hkeep Str.s (fun _ _ _ _ => rfl) fun _ _ _ => rfl, hkeep Str.p (fun _ _ _ _ => rfl) fun _ _ _ => rfl,
      hkeep Str.q (fun _ _ _ _ => rfl) fun _ _ _ => rfl, hkeep Str.p0 (fun _ _ _ _ => rfl) fun _ _ _ => rfl,
      hkeep Str.p1 (fun _ _ _ _ => rfl) fun _ _ _ => rfl, hkeep Str.lmask (fun _ _ _ _ => rfl) fun _ _ _ => rfl⟩
  case uni =>
    have hkeep : ∀ {β : Type} (g : Str → β), (∀ (t : Str) y, g { t with s := y } = g t) → (∀ (t : Str) y z, g { t with vwb := y, swb := z } = g t) →
        g ((t.deliver (.uni r k) v.1 v.2).widen (.uni r k) (o.acc ||| w)) = g t := fun g hs hw =>
      (widen_keeps hw _ _).trans (deliver_uni_keeps hs _ _ _ _)
    refine ⟨_, opResult_str ho ht vals w bad, ?_⟩
    rw [hd, hv]
    exact ⟨fun x => (widen_keeps (g := fun t => t.sget x) (fun _ _ _ => rfl) _ _).trans (deliver_uni r k v.1 v.2 x),
      hkeep Str.v (fun _ _ => rfl) fun _ _ _ => rfl, hkeep Str.p (fun _ _ => rfl) fun _ _ _ => rfl, hkeep Str.q (fun _ _ => rfl) fun _ _ _ => rfl⟩
end

section
/-! L2_REQUEST and ATOMIC_UNIT_OP (O25): what the merge of one lane leaves in a line (R130, R378), what brings a core's copy of a line up to
date (R142), and each kind of request at its home. -/

namespace Sys2Proof.Machine

/-! ### Bytes of a line -/

/-- A field that is replaced leaves what is below it and what is above it. -/
theorem replaceField_parts (x v a b : Nat) :
    (x - x / 2 ^ a % 2 ^ b * 2 ^ a + v % 2 ^ b * 2 ^ a) % 2 ^ a = x % 2 ^ a ∧
    (x - x / 2 ^ a % 2 ^ b * 2 ^ a + v % 2 ^ b * 2 ^ a) / 2 ^ (a + b) = x / 2 ^ (a + b) := by
  have hx : x = (x / 2 ^ a / 2 ^ b * 2 ^ b + x / 2 ^ a % 2 ^ b) * 2 ^ a + x % 2 ^ a := by rw [Nat.div_add_mod', Nat.div_add_mod']
  have hhi : x / 2 ^ (a + b) = x / 2 ^ a / 2 ^ b := by rw [pow_add, Nat.div_div_eq_div_mul]
  have hlo : x % 2 ^ a < 2 ^ a := Nat.mod_lt _ (Nat.two_pow_pos a)
  have hv : v % 2 ^ b < 2 ^ b := Nat.mod_lt _ (Nat.two_pow_pos b)
  rw [hhi]
  generalize x / 2 ^ a / 2 ^ b = hi at *
  generalize x / 2 ^ a % 2 ^ b = mid at *
  generalize x % 2 ^ a = lo at *
  have hnew : x - mid * 2 ^ a + v % 2 ^ b * 2 ^ a = lo + (v % 2 ^ b + hi * 2 ^ b) * 2 ^ a := by
    rw [hx, Nat.add_mul, Nat.add_mul]; omega
  rw [hnew, pow_add, ← Nat.div_div_eq_div_mul, Nat.add_mul_mod_self_right, Nat.mod_eq_of_lt hlo, Nat.add_mul_div_right _ _ (Nat.two_pow_pos a),
    Nat.div_eq_of_lt hlo, zero_add, Nat.add_mul_div_right _ _ (Nat.two_pow_pos b), Nat.div_eq_of_lt hv, zero_add]
  exact ⟨rfl, rfl⟩

/-- Bytes put into a line leave every other byte. -/
theorem lineGet_linePut_other (d : Line) {off n k : Nat} (v : Nat) (h : off + n ≤ 128) (hk : k < off ∨ off + n ≤ k) :
    lineGet (linePut d off n v) k 1 = lineGet d k 1 := by
  have hlt := replaceField_lt (v := v) d.isLt (show 8 * off + 8 * n ≤ 1024 by omega)
  obtain ⟨hlow, hhigh⟩ := replaceField_parts d.toNat v (8 * off) (8 * n)
  unfold lineGet linePut
  rw [BitVec.toNat_ofNat, lineGet, Nat.mod_eq_of_lt hlt]
  rcases hk with hk | hk
  · have hbyte : ∀ y : Nat, y / 2 ^ (8 * k) % 2 ^ (8 * 1) = y % 2 ^ (8 * off) / 2 ^ (8 * k) % 2 ^ (8 * 1) := fun y => by
      have hp : (2 : Nat) ^ (8 * off) = 2 ^ (8 * k) * 2 ^ (8 * off - 8 * k) := by rw [← pow_add]; congr 1; omega
      rw [hp, Nat.mod_mul_right_div_self, Nat.mod_mod_of_dvd _ (pow_dvd_pow 2 (by omega))]
    rw [hbyte, hlow, ← hbyte]
  · have hbyte : ∀ y : Nat, y / 2 ^ (8 * k) = y / 2 ^ (8 * off + 8 * n) / 2 ^ (8 * k - (8 * off + 8 * n)) := fun y => by
      rw [Nat.div_div_eq_div_mul, ← pow_add]; congr 2; omega
    rw [hbyte, hhigh, ← hbyte]

/-- Few bytes do not cover a line. -/
theorem coverage_one {b : LaneReq} (h : b.size = 4 ∨ b.size = 8) : coverage 128 [b] ≠ 2 ^ 128 - 1 := by
  have hc : coverage 128 [b] = (2 ^ b.size - 1) * 2 ^ (b.addr % 128) := by simp [coverage]
  rw [hc]
  intro he
  cases hoff : b.addr % 128 with
  | zero =>
    rw [hoff] at he
    rcases h with h | h <;> rw [h] at he <;> exact absurd he (by decide)
  | succ n =>
    rw [hoff, pow_succ, ← mul_assoc] at he
    omega

/-- One piece is merged by itself. -/
theorem mergeLine_one (rid : Nat) {b : LaneReq} (h : b.size ≠ 16) (d : Line) : mergeLine rid [b] d = linePut d (b.addr % 128) b.size b.data := by
  simp [mergeLine, landing, pieces, h, insertPiece]

section
variable {s s' : State}

/-! ### The sampler -/

/-- What the sampler leaves as it is: the arguments of the event, and which requests there are. -/
def State.unsampled (s : State) : Arg × List Nat := (s.arg, s.mem.reqs.map Req.rid)

theorem ringPutN_unsampled (p : Option Nat) (ctl sz rec : Nat) (wb : Waybill) : (s.ringPutN p ctl sz rec wb).unsampled = s.unsampled :=
  Prod.ext (ringPutN_arg _ _ _ _ _) (kept_rids (ringPutN_kept _ _ _ _ _))

theorem sampleAt_unsampled (core w ty ps : Nat) (home hit : Bool) (gpa va : Nat) :
    (s.sampleAt core w ty ps home hit gpa va).unsampled = s.unsampled := by
  unfold State.sampleAt
  split
  · rfl
  · extract_lets die ctl bit
    split
    · rfl
    next k key draw _ =>
      have hd : ∀ s : State, (draw s).2.unsampled = s.unsampled := fun s => by unfold draw; split <;> rfl
      split
      next left s1 h1 =>
      have hs1 : s1.unsampled = s.unsampled := by
        split at h1
        · exact (congrArg (fun q => q.2.unsampled) h1).symm.trans (hd s)
        · exact (congrArg (fun q => q.2.unsampled) h1).symm
      split
      · exact hs1
      · split
        next nx s2 h2 =>
        have hs2 : s2.unsampled = s.unsampled := (congrArg (fun q => q.2.unsampled) h2).symm.trans ((hd s1).trans hs1)
        refine (ringPutN_unsampled _ _ _ _ _).trans (Eq.trans ?_ hs2)
        split <;> rfl

theorem setReq_rids (q : Req) : (s.setReq q).mem.reqs.map Req.rid = s.mem.reqs.map Req.rid := by
  simp only [State.setReq, List.map_map]
  refine List.map_congr_left fun r _ => ?_
  simp only [Function.comp_apply]
  split
  · next h => exact h.symm
  · rfl

theorem setReq_unsampled (q : Req) : (s.setReq q).unsampled = s.unsampled := Prod.ext rfl (setReq_rids q)

theorem sampleReq_unsampled (r : Req) (hit : Bool) : (s.sampleReq r hit).unsampled = s.unsampled := by
  unfold State.sampleReq
  split
  · rfl
  · exact (setReq_unsampled _).trans (sampleAt_unsampled _ _ _ _ _ _ _ _)

/-! ### A core's copy -/

theorem l1Of_setL1 (c : Nat) (l : List CLine) : (s.setL1 c l).l1Of c = l := by simp [State.l1Of, State.setL1]

theorem onFills_rids (c w n : Nat) {f : Req → Req} (hf : ∀ r, (f r).rid = r.rid) :
    (s.onFills c w n f).mem.reqs.map Req.rid = s.mem.reqs.map Req.rid := by
  simp only [State.onFills, List.map_map]
  refine List.map_congr_left fun r _ => ?_
  simp only [Function.comp_apply]
  split
  · exact hf r
  · rfl

/-- A state without the L1s and what requests carry, and the numbers of its requests. -/
def State.pastL1 (s : State) : State × List Nat := ({ s with mem := { s.mem with l1 := [], reqs := [] } }, s.mem.reqs.map Req.rid)

theorem pastL1_l2 (h : s'.pastL1 = s.pastL1) : s'.mem.l2 = s.mem.l2 := congrArg (fun k => k.1.mem.l2) h
theorem pastL1_hbm (h : s'.pastL1 = s.pastL1) : s'.mem.hbm = s.mem.hbm := congrArg (fun k => k.1.mem.hbm) h
theorem pastL1_strs (h : s'.pastL1 = s.pastL1) : s'.strs = s.strs := congrArg (fun k => k.1.strs) h
theorem pastL1_rids (h : s'.pastL1 = s.pastL1) : s'.mem.reqs.map Req.rid = s.mem.reqs.map Req.rid := congrArg (fun k => k.2) h

@[simp] theorem setL1_pastL1 (c : Nat) (l : List CLine) : (s.setL1 c l).pastL1 = s.pastL1 := rfl

@[simp] theorem onFills_pastL1 (c w n : Nat) {f : Req → Req} (hf : ∀ r, (f r).rid = r.rid) : (s.onFills c w n f).pastL1 = s.pastL1 :=
  Prod.ext rfl (onFills_rids c w n hf)

@[simp] theorem l1Fill_pastL1 (c w n : Nat) (d : Line) (z : Bool) (wb : Waybill) (p : Nat) : (s.l1Fill c w n d z wb p).pastL1 = s.pastL1 := by
  unfold State.l1Fill
  simp only
  split <;> rfl

/-- What a fill installs in a core's L1 is what the core finds there of the line. -/
theorem l1Fill_find {c w n : Nat} {d : Line} {z : Bool} {wb : Waybill} {p : Nat} {k : CLine} (h : (s.l1Fill c w n d z wb p).l1Find c w n = some k) :
    k.data = d ∧ k.wb = wb ∧ k.poison = p := by
  unfold State.l1Fill State.l1Find at h
  simp only at h
  split at h
  · rw [l1Of_setL1] at h
    have hm := List.mem_of_find?_eq_some h
    have hk := List.find?_some h
    simp only [List.mem_filter] at hm
    simp [hk] at hm
  · rw [l1Of_setL1, List.find?_cons_of_pos (by simp [CLine.is])] at h
    cases h
    exact ⟨rfl, rfl, rfl⟩

/-- Bringing a core's copy up to date changes that core's L1 and the fills on their way to it. -/
theorem l1Refresh_pastL1 (c w n : Nat) (l : L2Line) : (s.l1Refresh c w n l).pastL1 = s.pastL1 := by
  have hf : ∀ g i, (s.onFills c w n (fun e => { e with inst := g, later := i })).pastL1 = s.pastL1 := fun g i => onFills_pastL1 c w n fun _ => rfl
  unfold State.l1Refresh
  simp only
  split
  · exact hf _ _
  · split
    · split
      · exact hf _ _
      · exact (l1Fill_pastL1 _ _ _ _ _ _ _).trans (hf _ _)
    · exact hf _ _

theorem acquireAt_pastL1 (c w k : Nat) : (s.acquireAt c w k).pastL1 = s.pastL1 := by
  unfold State.acquireAt State.l1Acquire
  split
  · refine Prod.ext rfl ?_
    simp only [State.pastL1, List.map_map]
    refine List.map_congr_left fun r _ => ?_
    simp only [Function.comp_apply]
    split <;> rfl
  · rfl

/-- An acquire at .cvy or wider leaves its core's L1 no line of the world (R77). -/
theorem acquireAt_l1Of {c w k : Nat} (h : 2 ≤ k) : (s.acquireAt c w k).l1Of c = (s.l1Of c).filter (fun e => e.world != w) := by
  unfold State.acquireAt
  rw [if_pos h]
  exact l1Of_setL1 _ _

/-- A copy that is no zero tag, or of a line that is no zero line, holds what its home does with the core's stores still owed (log 14). -/
theorem l1Refresh_find {c w n : Nat} {l : L2Line} {k : CLine} (h : (s.l1Refresh c w n l).l1Find c w n = some k)
    (hz : k.way < 16 ∨ (mergeAll l (s.owed c w n)).zero = false) : k.data = (mergeAll l (s.owed c w n)).data ∧
      k.wb = (mergeAll l (s.owed c w n)).wb ∧ k.poison = (mergeAll l (s.owed c w n)).poison := by
  unfold State.l1Refresh at h
  simp only at h
  split at h
  · next hno => exact absurd (hno.symm.trans h) (by simp)
  · next k0 hk0 =>
    split at h
    · next hway =>
      split at h
      · next hzero =>
        cases hk0.symm.trans h
        rcases hz with hz | hz
        · omega
        · simp [hz] at hzero
      · exact l1Fill_find h
    · unfold State.l1Find at h
      rw [l1Of_setL1] at h
      have hk := List.find?_some h
      obtain ⟨e, -, he⟩ := List.mem_map.1 (List.mem_of_find?_eq_some h)
      split at he
      · cases he; exact ⟨rfl, rfl, rfl⟩
      · next hne => rw [he] at hne; exact absurd hk hne

/-! ### A request at its home slice -/

theorem l2Error_zero (i : Bool) (t n : Nat) : s.l2Error i t n 0 = s := by
  unfold State.l2Error
  split <;> rfl

/-- The state once the sampler has seen a request at its home (R54). -/
def State.sampled (s : State) (r : Req) : State := s.sampleReq r (s.l2? r.ident r.tag r.line).isSome

theorem sampled_argN (r : Req) (k : Nat) : (s.sampled r).argN k = s.argN k :=
  congrArg (fun u => (u.1.n).getD k 0) (sampleReq_unsampled (s := s) r _)

theorem l2Request_waits {r : Req} (hr : s.reqAt (s.argN 0) .l2 = some r) (h : s.mayPerform r = false) : exec .l2Request s = .next s := by
  change execL2Request s = _
  unfold execL2Request
  simp [hr, h]

section
variable {r : Req} {l : L2Line} (hr : s.reqAt (s.argN 0) .l2 = some r) (hm : s.mayPerform r = true) (h1 : s.argN 1 = 0) (h2 : s.argN 2 = 0)
  (hl : (s.sampled r).l2? r.ident r.tag r.line = some l)

include hr hm h1

theorem l2Request_miss (hno : (s.sampled r).l2? r.ident r.tag r.line = none) (hk : r.kind ≠ .store ∨ coverage 128 r.lanes ≠ 2 ^ 128 - 1) :
    exec .l2Request s = .next ((s.sampled r).l2Miss { r with counted := true }) := by
  have hfull : ¬ (r.kind = .store ∧ coverage 128 r.lanes = 2 ^ 128 - 1) := fun h => hk.elim (· h.1) (· h.2)
  unfold State.sampled at hno ⊢
  change execL2Request s = _
  unfold execL2Request
  simp only [hr, hm, h1, l2Error_zero, hno, Bool.not_true, Bool.false_eq_true, if_false, if_neg hfull]

include hl

theorem l2Request_atomic (hk : r.kind = .atomic) : exec .l2Request s = .next ((s.sampled r).l2Atomic { r with counted := true } l) := by
  unfold State.sampled at hl ⊢
  change execL2Request s = _
  unfold execL2Request
  simp only [hr, hm, h1, l2Error_zero, hl, hk, Bool.not_true, Bool.false_eq_true, if_false]

theorem l2Request_fill (hk : r.kind = .fill) : exec .l2Request s = .next ((s.sampled r).dropReq r.rid) := by
  unfold State.sampled at hl ⊢
  change execL2Request s = _
  unfold execL2Request
  simp only [hr, hm, h1, l2Error_zero, hl, hk, Bool.not_true, Bool.false_eq_true, if_false]

include h2

theorem l2Request_store (hk : r.kind = .store) : exec .l2Request s =
    .next ((((s.sampled r).putL2 r.ident r.tag r.line (l.merge r.rid r.lanes r.wb)).dropReq r.rid).opLeave r.op) := by
  have h2' : (s.sampled r).argN 2 = 0 := (sampled_argN r 2).trans h2
  unfold State.sampled at hl h2' ⊢
  change execL2Request s = _
  unfold execL2Request
  simp only [hr, hm, h1, h2', l2Error_zero, hl, hk, part_zero, partDone_nil, Bool.not_true, Bool.false_eq_true, if_false]

theorem l2Request_load (hk : r.kind = .load) : exec .l2Request s = .next ((s.sampled r).l2Load { r with counted := true } l r.lanes []) := by
  have h2' : (s.sampled r).argN 2 = 0 := (sampled_argN r 2).trans h2
  unfold State.sampled at hl h2' ⊢
  change execL2Request s = _
  unfold execL2Request
  simp only [hr, hm, h1, h2', l2Error_zero, hl, hk, part_zero, Bool.not_true, Bool.false_eq_true, if_false]

end

theorem sampled_rid {r : Req} (hr : s.reqAt (s.argN 0) .l2 = some r) : r.rid ∈ (s.sampled r).mem.reqs.map Req.rid := by
  rw [show (s.sampled r).mem.reqs.map Req.rid = s.mem.reqs.map Req.rid from congrArg Prod.snd (sampleReq_unsampled (s := s) r _)]
  exact List.mem_map.2 ⟨r, reqAt_mem hr, rfl⟩

theorem l2?_congr (h : s'.mem.l2 = s.mem.l2) (i : Bool) (t n : Nat) : s'.l2? i t n = s.l2? i t n := by unfold State.l2?; rw [h]

theorem l2?_putL2 (i : Bool) (t n : Nat) (l : L2Line) : (s.putL2 i t n l).l2? i t n = some l := by simp [State.l2?]

/-- A line's key names its tag world, whether it is host-physical, and its number. -/
theorem l2Key_inj {i j : Bool} {t u n m : Nat} (ht : t < 256) (hu : u < 256) (hn : n < 2 ^ 45) (hm : m < 2 ^ 45) (h : l2Key i t n = l2Key j u m) :
    i = j ∧ t = u ∧ n = m := by
  unfold l2Key at h
  cases i <;> cases j <;> simp at h ⊢ <;> omega

theorem l2?_putL2_other {i j : Bool} {t u n m : Nat} (ht : t < 256) (hu : u < 256) (hn : n < 2 ^ 45) (hm : m < 2 ^ 45)
    (hne : ¬ (i = j ∧ t = u ∧ n = m)) (l : L2Line) : (s.putL2 j u m l).l2? i t n = s.l2? i t n := by
  have hk : l2Key i t n ≠ l2Key j u m := fun h => hne (l2Key_inj ht hu hn hm h)
  simp [State.l2?, hk]

/-- A line once an atomic's lane has been performed on it (R378, R428). -/
def L2Line.atomic (l : L2Line) (r : Req) (a : LaneReq) : L2Line :=
  l.merge r.rid [{ a with data := atomNew r.atop a.size (lineGet l.data (a.addr % 128) a.size) a.data a.cmp }] r.wb

theorem atomic_spec (l : L2Line) (r : Req) {a : LaneReq} (hs : a.size = 4 ∨ a.size = 8) (ha : a.addr % a.size = 0) :
    (l.atomic r a).dirty = true ∧ (l.atomic r a).wb = l.wb ||| r.wb ∧ lineGet (l.atomic r a).data (a.addr % 128) a.size =
      atomNew r.atop a.size (lineGet l.data (a.addr % 128) a.size) a.data a.cmp % 2 ^ (8 * a.size) ∧
      ∀ k, k < 128 → k < a.addr % 128 ∨ a.addr % 128 + a.size ≤ k → lineGet (l.atomic r a).data k 1 = lineGet l.data k 1 := by
  unfold L2Line.atomic
  generalize atomNew r.atop a.size (lineGet l.data (a.addr % 128) a.size) a.data a.cmp = v
  have hoff : a.addr % 128 + a.size ≤ 128 := by rcases hs with h | h <;> rw [h] at ha ⊢ <;> omega
  have hdata : (l.merge r.rid [{ a with data := v }] r.wb).data = linePut l.data (a.addr % 128) a.size v :=
    mergeLine_one r.rid (b := { a with data := v }) (show a.size ≠ 16 by omega) _
  have hcov : coverage 128 [{ a with data := v }] ≠ 2 ^ 128 - 1 := coverage_one hs
  refine ⟨rfl, congrArg (fun b => storeWb b l.wb r.wb) (beq_eq_false_iff_ne.2 hcov), ?_, fun k _ hk => ?_⟩
  · rw [hdata, lineGet_linePut _ _ hoff]
  · rw [hdata, lineGet_linePut_other _ _ hoff hk]

theorem afterStrong_pastL1 (r : Req) (l : L2Line) : (s.afterStrong r l).pastL1 = s.pastL1 := by
  unfold State.afterStrong
  split
  · exact (acquireAt_pastL1 _ _ _).trans (l1Refresh_pastL1 _ _ _ _)
  · exact l1Refresh_pastL1 _ _ _ _

/-- After a strong load its core's copy is the one brought up to date, or an acquire has removed it. -/
theorem afterStrong_find {r : Req} {l : L2Line} {k : CLine} (h : (s.afterStrong r l).l1Find r.core r.world r.line = some k) :
    (s.l1Refresh r.core r.world r.line l).l1Find r.core r.world r.line = some k := by
  unfold State.afterStrong at h
  simp only at h
  split at h
  · by_cases hk : 2 ≤ r.scope
    · unfold State.l1Find at h
      rw [acquireAt_l1Of hk] at h
      have hm := (List.mem_filter.1 (List.mem_of_find?_eq_some h)).2
      have hw : k.world = r.world := by
        have := List.find?_some h
        simp only [CLine.is, Bool.and_eq_true, beq_iff_eq] at this
        exact this.1
      simp [hw] at hm
    · unfold State.acquireAt at h
      rwa [if_neg hk] at h
  · exact h

theorem afterStrong_acquires {r : Req} (l : L2Line) (ha : r.acq = true) (hk : 2 ≤ r.scope) : ∀ c ∈ (s.afterStrong r l).l1Of r.core, c.world ≠ r.world := by
  unfold State.afterStrong
  simp only [ha, if_true, acquireAt_l1Of hk]
  intro c hc
  simpa using (List.mem_filter.1 hc).2

/-- A plain load that is satisfied whole goes on to its core's L1 with the line. -/
theorem l2Load_plain {r : Req} (l : L2Line) (hk : r.kind = .load) (hs : r.strong = false) : ∃ i, s.l2Load r l r.lanes [] =
    (s.l1Refresh r.core r.world r.line l).setReq { r with
      stage := .l1, got := some (l.data, l.zero, l.wb, l.poison), inst := some (l.data, l.zero, l.wb, l.poison), later := i } := by
  unfold State.l2Load State.l2Plain
  simp only [hs, hk, true_or, if_true, Bool.false_eq_true, if_false]
  exact ⟨_, rfl⟩

theorem l2Load_strong {r : Req} (l : L2Line) (hs : r.strong = true) : s.l2Load r l r.lanes [] =
    (((s.afterStrong r l).opResult r.op (lineVals r l.data) l.wb (lineBad r l.poison)).dropReq r.rid).opLeave r.op := by
  unfold State.l2Load
  rw [if_pos hs, partDone_nil]

theorem l1Of_answered (n m rid : Nat) (vals : List (Nat × Nat)) (w : Waybill) (bad : Bool) (c : Nat) :
    (((s.opResult n vals w bad).dropReq rid).opLeave m).l1Of c = s.l1Of c := by
  unfold State.l1Of; simp

/-- An atomic leaves its line with the operation performed, and HBM as it is. -/
theorem l2Atomic_lines {r : Req} (l : L2Line) {a : LaneReq} {rest : List LaneReq} (h : r.lanes = a :: rest) :
    (s.l2Atomic r l).l2? r.ident r.tag r.line = some (l.atomic r a) ∧ (s.l2Atomic r l).mem.hbm = s.mem.hbm := by
  have he : s.l2Atomic r l = ((((s.dropReq r.rid).putL2 r.ident r.tag r.line (l.atomic r a)).l1Refresh r.core r.world r.line (l.atomic r a)).opResult
      r.op [(a.lane, lineGet l.data (a.addr % 128) a.size)] l.wb (lineBad r l.poison)).opLeave r.op := by
    unfold State.l2Atomic
    rw [h]
    rfl
  have hkeep := l1Refresh_pastL1 (s := (s.dropReq r.rid).putL2 r.ident r.tag r.line (l.atomic r a)) r.core r.world r.line (l.atomic r a)
  rw [he]
  exact ⟨(l2?_congr ((opLeave_l2 _).trans ((opResult_l2 _ _ _ _).trans (pastL1_l2 hkeep))) _ _ _).trans (l2?_putL2 _ _ _ _),
    (opLeave_hbm _).trans ((opResult_hbm _ _ _ _).trans (pastL1_hbm hkeep :))⟩

theorem keepS2_mem (p g : Nat) : (s.keepS2 p g).mem = s.mem := by
  unfold State.keepS2
  split
  · rfl
  · simp only
    split <;> rfl

/-- A miss goes to its controller as it is. -/
theorem l2Miss_sets (r : Req) : ∃ (s1 : State) (n : Nat), s.l2Miss r = s1.setReq { r with stage := .hbm, counted := true, arrived := n } ∧ s1.mem = s.mem := by
  refine ⟨_, _, rfl, ?_⟩
  split
  · rfl
  · split
    · rfl
    · exact keepS2_mem _ _

/-! ### A request at an atomic unit -/

theorem hbmError_zero (k h : Nat) : s.hbmError k h 0 = s := if_pos (.inl rfl)

theorem atomLine_hbm {h : Nat} (hh : regionOf h = .hbm) (n : Nat) :
    s.atomLine h n = ((readKeyed s.mem (h / 128) (s.memKey (s.ownerOf h)) n).1, s.granWaybill h, hbmPoison s.mem (h / 128)) := if_pos hh

section
variable {r : Req} {h : Nat} (hr : s.reqAt (s.argN 0) .atom = some r) (hm : s.mayPerform r = true) (hc : r.counted = true) (h1 : s.argN 1 = 0)
  (h2 : s.argN 2 = 0) (hp : s.physOf r.ident r.tag (r.line * 128) = some h) (hh : regionOf h = .hbm)
include hr hm hc h1 hp hh

/-- The data of the line at its controller. -/
def State.unitData (s : State) (r : Req) (h : Nat) : Line := (readKeyed s.mem (h / 128) (s.memKey (s.ownerOf h)) r.line).1

theorem atomicUnitOp_atomic {a : LaneReq} {rest : List LaneReq} (hk : r.kind = .atomic) (hl : r.lanes = a :: rest) : exec .atomicUnitOp s =
    .next ((((s.dropReq r.rid).atomPut r.ident r.tag h r.line (linePut (s.unitData r h) (a.addr % 128) a.size
      (atomNew r.atop a.size (lineGet (s.unitData r h) (a.addr % 128) a.size) a.data a.cmp)) r.wb (hbmPoison s.mem (h / 128))).opResult
        r.op [(a.lane, lineGet (s.unitData r h) (a.addr % 128) a.size)] (s.granWaybill h) (lineBad r (hbmPoison s.mem (h / 128)))).opLeave r.op) := by
  have hcount : { r with counted := true } = r := by rw [← hc]
  have hsample : s.sampleReq r false = s := if_pos hc
  change execAtomicUnitOp s = _
  unfold execAtomicUnitOp
  simp only [hr, hm, hsample, hcount, hp, Bool.not_true, Bool.false_eq_true, if_false]
  simp only [hk, hl, reduceCtorEq, if_false, atomLine_hbm hh, h1, hbmError_zero]
  rfl

include h2

theorem atomicUnitOp_store (hk : r.kind = .store) : exec .atomicUnitOp s =
    .next (((s.atomPut r.ident r.tag h r.line (mergeLine r.rid r.lanes (s.unitData r h)) r.wb
      (storePoison (coverage 128 r.lanes) (hbmPoison s.mem (h / 128)))).dropReq r.rid).opLeave r.op) := by
  have hcount : { r with counted := true } = r := by rw [← hc]
  have hsample : s.sampleReq r false = s := if_pos hc
  change execAtomicUnitOp s = _
  unfold execAtomicUnitOp
  simp only [hr, hm, hsample, hcount, hp, Bool.not_true, Bool.false_eq_true, if_false]
  simp only [hk, if_true, h1, h2, hbmError_zero, atomLine_hbm hh, part_zero, partDone_nil]
  rfl

theorem atomicUnitOp_load (hk : r.kind = .load) (ha : r.acq = false) : exec .atomicUnitOp s =
    .next ((((s.charge (stackOf h) (if r.ident then none else s.partOf r.tag)).opResult r.op (lineVals r (s.unitData r h)) (s.granWaybill h)
      (lineBad r (hbmPoison s.mem (h / 128)))).dropReq r.rid).opLeave r.op) := by
  have hcount : { r with counted := true } = r := by rw [← hc]
  have hsample : s.sampleReq r false = s := if_pos hc
  have h1' : (s.charge (stackOf h) (if r.ident then none else s.partOf r.tag)).argN 1 = 0 := by unfold State.argN; rw [charge_arg]; exact h1
  change execAtomicUnitOp s = _
  unfold execAtomicUnitOp
  simp only [hr, hm, hsample, hcount, hp, Bool.not_true, Bool.false_eq_true, if_false]
  simp only [hk, ha, reduceCtorEq, if_false, Bool.false_eq_true, h2, h1', hbmError_zero, atomLine_hbm hh, part_zero, partDone_nil]
  rfl

end

end
end Sys2Proof.Machine

open Sys2Proof Sys2Proof.Machine

/-- Settles O25: at its home each kind of request changes the line, its own answer and its core's copy; at an atomic unit memory is read and written
under the owner's key. -/
theorem l2AndAtomicUnits : Obligations.L2AndAtomicUnits := by
  unfold Obligations.L2AndAtomicUnits
  refine ⟨fun s r hr h1 h2 => ⟨l2Request_waits hr, fun l hm hl hk => ?store, fun l a rest hm hl hk ha hsz hal => ?atomic,
    fun l hm hl hk => ⟨_, l2Request_fill hr hm h1 hl hk, rfl⟩, fun l hm hl hk hs => ?plain, fun l hm hl hk hs => ?strong, fun hm hno hk => ?miss⟩,
    fun s r h hr hm hc h1 h2 hp hh => ⟨fun a rest hk hl => ⟨_, atomicUnitOp_atomic hr hm hc h1 hp hh hk hl, rfl⟩,
      fun hk => ⟨_, atomicUnitOp_store hr hm hc h1 h2 hp hh hk, rfl⟩,
      fun hk ha => ⟨_, atomicUnitOp_load hr hm hc h1 h2 hp hh hk ha, rfl, ?_⟩⟩⟩
  case store =>
    have hl2 : ∀ i t n, ((((s.sampled r).putL2 r.ident r.tag r.line (l.merge r.rid r.lanes r.wb)).dropReq r.rid).opLeave r.op).l2? i t n =
        ((s.sampled r).putL2 r.ident r.tag r.line (l.merge r.rid r.lanes r.wb)).l2? i t n := fun i t n => l2?_congr (opLeave_l2 _) i t n
    refine ⟨_, l2Request_store hr hm h1 h2 hl hk, (hl2 _ _ _).trans ((l2?_putL2 _ _ _ _).trans ?_),
      fun i t n ht hn hrt hrn hne => (hl2 _ _ _).trans (l2?_putL2_other ht hrt hn hrn hne _), opLeave_hbm _, ?_⟩
    · simp [L2Line.merge, storeWb]
    · rw [opLeave_reqs]; exact dropReq_gone _
  case atomic =>
    obtain ⟨hd, hw, hat, helse⟩ := atomic_spec l r hsz hal
    obtain ⟨hl2, hhbm⟩ := l2Atomic_lines (s := s.sampled r) (r := { r with counted := true }) l ha
    exact ⟨_, l2Request_atomic hr hm h1 hl hk, ⟨l.atomic r a, hl2, hd, hw, hat, helse⟩, hhbm⟩
  case plain =>
    obtain ⟨i, hi⟩ := l2Load_plain (s := s.sampled r) (r := { r with counted := true }) l hk hs
    have hkeep := l1Refresh_pastL1 (s := s.sampled r) r.core r.world r.line l
    refine ⟨_, (l2Request_load hr hm h1 h2 hl hk).trans (congrArg _ hi), ⟨_, reqAt_setReq ?_ rfl, rfl, rfl⟩, (pastL1_l2 hkeep :), (pastL1_hbm hkeep :),
      (pastL1_strs hkeep :)⟩
    rw [pastL1_rids hkeep]
    exact sampled_rid hr
  case strong =>
    have hkeep := afterStrong_pastL1 (s := s.sampled r) { r with counted := true } l
    refine ⟨_, (l2Request_load hr hm h1 h2 hl hk).trans (congrArg _ (l2Load_strong l hs)), ?_, ?_, ?_, fun c hc hz => ?_, fun ha hsc c hc => ?_⟩
    · exact (opLeave_l2 _).trans ((opResult_l2 _ _ _ _).trans (pastL1_l2 hkeep))
    · exact (opLeave_hbm _).trans ((opResult_hbm _ _ _ _).trans (pastL1_hbm hkeep))
    · rw [opLeave_reqs]; exact dropReq_gone _
    · unfold State.l1Find at hc
      rw [l1Of_answered] at hc
      exact l1Refresh_find (afterStrong_find (r := { r with counted := true }) hc) hz
    · rw [l1Of_answered] at hc
      exact afterStrong_acquires (r := { r with counted := true }) l ha hsc c hc
  case miss =>
    obtain ⟨s1, n, hn, hmem⟩ := l2Miss_sets (s := s.sampled r) { r with counted := true }
    refine ⟨_, (l2Request_miss hr hm h1 hno hk).trans (congrArg _ hn), ⟨_, reqAt_setReq ?_ rfl, rfl, rfl⟩, (congrArg MemS.l2 hmem :), (congrArg MemS.hbm hmem :)⟩
    rw [hmem]
    exact sampled_rid hr
  exact (opLeave_hbm _).trans ((opResult_hbm _ _ _ _).trans (charge_hbm _ _ _))
end

section
/-! Placement (O46), the room on a core (R62, R65, R274): what the choice of slots, of a free run and of tiles and outriders finds is free. -/

namespace Sys2Proof.Machine

/-- The quad that is picked has the blocks and a slot. -/
theorem pickQuad_some {vblk i j : Nat} {qs : List (Nat × List Nat)} (h : pickQuad vblk i qs = some j) :
    i ≤ j ∧ ∃ f sl, qs[j - i]? = some (f, sl) ∧ vblk ≤ f ∧ sl ≠ [] := by
  induction qs generalizing i j with
  | nil => cases h
  | cons e rest ih =>
    obtain ⟨f, sl⟩ := e
    unfold pickQuad at h
    split at h
    · split at h
      · next hc => cases h; exact ⟨le_refl _, f, sl, by simp, hc⟩
      · cases h
    · next j' hj =>
      obtain ⟨hle, f', sl', hget, hfit⟩ := ih hj
      split at h
      · next hc => cases h; exact ⟨le_refl _, f, sl, by simp, hc.1, hc.2.1⟩
      · cases h
        refine ⟨by omega, f', sl', ?_, hfit⟩
        rw [show j - i = (j - (i + 1)) + 1 by omega, List.getElem?_cons_succ]
        exact hget

/-- Lists of free slots, each its quad's own. -/
def SlotLists (qs : List (Nat × List Nat)) : Prop := ∀ q f sl, qs[q]? = some (f, sl) → sl.Nodup ∧ ∀ k ∈ sl, k / 4 = q

/-- What is picked for a number of strings: as many slots, all different, each free in its quad, and no more than a quad's blocks hold. -/
structure SlotsOf (vblk n : Nat) (qs : List (Nat × List Nat)) (ks : List Nat) : Prop where
  count : ks.length = n
  nodup : ks.Nodup
  free : ∀ k ∈ ks, ∃ f sl, qs[k / 4]? = some (f, sl) ∧ k ∈ sl
  blocks : ∀ q f sl, qs[q]? = some (f, sl) → (ks.filter (fun k => k / 4 == q)).length * vblk ≤ f

/-- One more slot, of a quad that has the blocks for it. -/
theorem SlotsOf.cons {vblk n i f k : Nat} {sl ks : List Nat} {qs : List (Nat × List Nat)} (hq : SlotLists qs) (hi : qs[i]? = some (f, k :: sl))
    (hf : vblk ≤ f) (h : SlotsOf vblk n (qs.set i (f - vblk, sl)) ks) : SlotsOf vblk (n + 1) qs (k :: ks) := by
  obtain ⟨hnd, hquad⟩ := hq i f (k :: sl) hi
  have hki : k / 4 = i := hquad k List.mem_cons_self
  have hlen : i < qs.length := (List.getElem?_eq_some_iff.1 hi).1
  have hself : (qs.set i (f - vblk, sl))[i]? = some (f - vblk, sl) := List.getElem?_set_self hlen
  refine ⟨by rw [List.length_cons, h.count], List.nodup_cons.2 ⟨fun hk => ?_, h.nodup⟩, fun x hx => ?_, fun q f' sl' hq' => ?_⟩
  · obtain ⟨f', sl', hget, hm⟩ := h.free k hk
    rw [hki, hself] at hget
    cases hget
    exact (List.nodup_cons.1 hnd).1 hm
  · rcases List.mem_cons.1 hx with rfl | hx
    · exact ⟨f, x :: sl, hki ▸ hi, List.mem_cons_self⟩
    · obtain ⟨f', sl', hget, hm⟩ := h.free x hx
      by_cases hxi : i = x / 4
      · rw [← hxi, hself] at hget
        cases hget
        exact ⟨f, k :: sl, hxi ▸ hi, List.mem_cons_of_mem _ hm⟩
      · rw [List.getElem?_set_ne hxi] at hget
        exact ⟨f', sl', hget, hm⟩
  · by_cases hqi : i = q
    · subst hqi
      rw [hi] at hq'
      cases hq'
      have hb := h.blocks i _ _ hself
      rw [List.filter_cons_of_pos (by simp [hki]), List.length_cons, Nat.add_mul, Nat.one_mul]
      omega
    · rw [List.filter_cons_of_neg (by simp [hki, hqi])]
      exact h.blocks q f' sl' (by rw [List.getElem?_set_ne hqi]; exact hq')

/-- Taking a slot leaves each list its quad's own. -/
theorem SlotLists.set {i f f' k : Nat} {sl : List Nat} {qs : List (Nat × List Nat)} (hq : SlotLists qs) (hi : qs[i]? = some (f, k :: sl)) :
    SlotLists (qs.set i (f', sl)) := by
  intro q g tl hget
  have hlen : i < qs.length := (List.getElem?_eq_some_iff.1 hi).1
  by_cases hqi : i = q
  · subst hqi
    rw [List.getElem?_set_self hlen] at hget
    cases hget
    obtain ⟨hnd, hquad⟩ := hq i f (k :: sl) hi
    exact ⟨(List.nodup_cons.1 hnd).2, fun x hx => hquad x (List.mem_cons_of_mem _ hx)⟩
  · rw [List.getElem?_set_ne hqi] at hget
    exact hq q g tl hget

theorem pickSlots_some {vblk n : Nat} {qs : List (Nat × List Nat)} {ks : List Nat} (hq : SlotLists qs) (h : pickSlots vblk n qs = some ks) :
    SlotsOf vblk n qs ks := by
  induction n generalizing qs ks with
  | zero =>
    cases h
    exact ⟨rfl, List.nodup_nil, fun _ hk => (List.not_mem_nil hk).elim, fun _ _ _ _ => by simp⟩
  | succ n ih =>
    unfold pickSlots at h
    split at h
    · cases h
    · next i hi =>
      obtain ⟨-, f, sl, hget, hf, hne⟩ := pickQuad_some hi
      rw [Nat.sub_zero] at hget
      obtain ⟨k, tl, rfl⟩ := List.exists_cons_of_ne_nil hne
      rw [List.getD_eq_getElem?_getD, hget] at h
      obtain ⟨l, hl, rfl⟩ := Option.map_eq_some_iff.1 h
      exact .cons hq hget hf (ih (hq.set hget) hl)

theorem freeRun_some {used : Nat → Bool} {total n b : Nat} (h : freeRun used total n = some b) : b + n ≤ total ∧ ∀ k, k < n → used (b + k) = false := by
  have hb := List.find?_some h
  simpa using hb

section
variable {s : State} {core : Nat}

/-- The quads of a core, as the choice of slots sees them. -/
def State.quads (s : State) (core : Nat) : List (Nat × List Nat) := (List.range 8).map (fun q => (s.quadFree core q, s.quadSlots core q))

theorem quads_get {q f : Nat} {sl : List Nat} : (s.quads core)[q]? = some (f, sl) ↔ q < 8 ∧ s.quadFree core q = f ∧ s.quadSlots core q = sl := by
  unfold State.quads
  by_cases hq : q < 8 <;> simp [hq]

theorem mem_quadSlots {q k : Nat} : k ∈ s.quadSlots core q ↔ k / 4 = q ∧ s.str? (core * 64 + k) = none := by
  unfold State.quadSlots
  simp only [List.mem_filter, List.mem_map, List.mem_range, thas, State.str?, Bool.not_eq_true', Option.isSome_eq_false_iff, Option.isNone_iff_eq_none]
  refine and_congr_left fun _ => ⟨?_, fun h => ⟨k % 4, by omega, by omega⟩⟩
  rintro ⟨j, hj, rfl⟩
  omega

theorem quads_slotLists (s : State) (core : Nat) : SlotLists (s.quads core) := by
  intro q f sl h
  obtain ⟨-, -, rfl⟩ := quads_get.1 h
  refine ⟨List.Nodup.filter _ (List.Nodup.map (fun a b h => by omega) List.nodup_range), fun k hk => (mem_quadSlots.1 hk).1⟩

/-- Numbers below a bound that no party on a core has in a list of its own. -/
theorem mem_unheld {n k : Nat} {f : Party → List Nat} : k ∈ (List.range n).filter (fun k =>
    !((s.sch.parties.map Prod.snd).filter (fun p => p.core == core)).any (fun p => (f p).contains k)) ↔
      k < n ∧ ∀ e ∈ s.sch.parties, e.2.core = core → k ∉ f e.2 := by
  simp only [List.mem_filter, List.mem_range, Bool.not_eq_true', List.any_eq_false, List.mem_map, beq_iff_eq, List.contains_iff_mem, and_imp,
    forall_exists_index]
  exact and_congr_right fun _ => ⟨fun h e he hc => h e.2 e he rfl hc, fun h p e he hp hc => hp ▸ h e he (hp ▸ hc)⟩

/-- A room's parts: slots picked, a run of scratchpad, and the first of the free tiles and outriders. -/
theorem room_some {n vblk scr tiles outr : Nat} {r : Room} (h : s.room core n vblk scr tiles outr = some r) :
    SlotsOf vblk n (s.quads core) r.slots ∧ (∃ b, r.sp = b * 16384 ∧ b + scr ≤ 48 ∧ ∀ k, k < scr → s.spUsed core (b + k) = false) ∧
    (r.tiles.length = tiles ∧ r.tiles.Nodup ∧ ∀ k ∈ r.tiles, k < 8 ∧ ∀ e ∈ s.sch.parties, e.2.core = core → k ∉ e.2.tiles) ∧
    (r.outrs.length = outr ∧ r.outrs.Nodup ∧ ∀ k ∈ r.outrs, k < 4 ∧ ∀ e ∈ s.sch.parties, e.2.core = core → k ∉ e.2.outrs) := by
  unfold State.room at h
  simp only at h
  split at h
  · next sl b hsl hb =>
    split at h
    · cases h
    · next hroom =>
      cases h
      obtain ⟨ht, ho⟩ := not_or.1 hroom
      exact ⟨pickSlots_some (quads_slotLists s core) hsl, ⟨b, rfl, freeRun_some hb⟩,
        ⟨List.length_take_of_le (Nat.le_of_not_lt ht), (List.nodup_range.filter _).take, fun k hk => mem_unheld.1 (List.mem_of_mem_take hk)⟩,
        ⟨List.length_take_of_le (Nat.le_of_not_lt ho), (List.nodup_range.filter _).take, fun k hk => mem_unheld.1 (List.mem_of_mem_take hk)⟩⟩
  · cases h

/-- The slots of a room: each a slot of the core with no string. -/
theorem room_slots {n vblk scr tiles outr : Nat} {r : Room} (h : s.room core n vblk scr tiles outr = some r) :
    ∀ k ∈ r.slots, k < 32 ∧ s.str? (core * 64 + k) = none := by
  intro k hk
  obtain ⟨hslots, -⟩ := room_some h
  obtain ⟨f, sl, hget, hm⟩ := hslots.free k hk
  obtain ⟨h8, -, rfl⟩ := quads_get.1 hget
  exact ⟨by omega, (mem_quadSlots.1 hm).2⟩

end
end Sys2Proof.Machine
end

section
/-! Placement (O46), the choice of a core (R274, R276): the best site of single parties, and the candidates the kernel is shown (R277). -/

namespace Sys2Proof.Machine

/-- The better of the best so far and one more, as the choice of a site keeps it: the first of those with the least load. -/
def better {α : Type} (f : α → Nat) (b : Option α) (x : α) : Option α :=
  match b with
  | none => some x
  | some y => if f x < f y then some x else some y

/-- The choice over a list is an element none has less than, and the first of its equals. -/
theorem foldl_better {α : Type} {f p : α → Nat} {y : α} {l : List α} (hp : (y :: l).Pairwise (fun a b => p a < p b)) :
    ∃ r ∈ y :: l, l.foldl (better f) (some y) = some r ∧ ∀ x ∈ y :: l, f r < f x ∨ (f r = f x ∧ p r ≤ p x) := by
  induction l generalizing y with
  | nil => exact ⟨y, List.mem_cons_self, rfl, fun x hx => by rw [List.mem_singleton.1 hx]; exact .inr ⟨rfl, le_refl _⟩⟩
  | cons z l ih =>
    obtain ⟨hy, hz⟩ := List.pairwise_cons.1 hp
    by_cases hlt : f z < f y
    · obtain ⟨r, hr, he, hmin⟩ := ih hz
      refine ⟨r, List.mem_cons_of_mem _ hr, by rw [List.foldl_cons, better, if_pos hlt, he], fun x hx => ?_⟩
      rcases List.mem_cons.1 hx with rfl | hx
      · have := hmin z List.mem_cons_self
        omega
      · exact hmin x hx
    · obtain ⟨r, hr, he, hmin⟩ := ih (y := y) (List.pairwise_cons.2 ⟨fun x hx => hy x (List.mem_cons_of_mem _ hx), (List.pairwise_cons.1 hz).2⟩)
      refine ⟨r, ?_, by rw [List.foldl_cons, better, if_neg hlt, he], fun x hx => ?_⟩
      · rcases List.mem_cons.1 hr with rfl | hr
        · exact List.mem_cons_self
        · exact List.mem_cons_of_mem _ (List.mem_cons_of_mem _ hr)
      · rcases List.mem_cons.1 hx with rfl | hx
        · exact hmin x List.mem_cons_self
        · rcases List.mem_cons.1 hx with rfl | hx
          · have := hmin y List.mem_cons_self
            have := hy x List.mem_cons_self
            omega
          · exact hmin x (List.mem_cons_of_mem _ hx)

/-- The numbers below a bound that have a property, as bits. -/
theorem testBit_foldl_pow (p : Nat → Bool) (n : Nat) : ((List.range n).filter p).foldl (fun a k => a + 2 ^ k) 0 < 2 ^ n ∧
    ∀ k, k < n → (((List.range n).filter p).foldl (fun a k => a + 2 ^ k) 0).testBit k = p k := by
  induction n with
  | zero => exact ⟨by simp, fun k hk => absurd hk (Nat.not_lt_zero k)⟩
  | succ n ih =>
    obtain ⟨hlt, hbit⟩ := ih
    rw [List.range_succ, List.filter_append, List.foldl_append]
    generalize ((List.range n).filter p).foldl (fun a k => a + 2 ^ k) 0 = x at *
    by_cases hn : p n = true
    · rw [List.filter_cons_of_pos hn]
      simp only [List.filter_nil, List.foldl_cons, List.foldl_nil]
      refine ⟨by rw [pow_succ]; omega, fun k hk => ?_⟩
      rw [Nat.add_comm]
      by_cases hkn : k = n
      · rw [hkn, Nat.testBit_two_pow_add_eq, Nat.testBit_lt_two_pow hlt, hn]; rfl
      · rw [Nat.testBit_two_pow_add_gt (by omega), hbit k (by omega)]
    · rw [List.filter_cons_of_neg hn]
      simp only [List.filter_nil, List.foldl_nil]
      refine ⟨hlt.trans (Nat.pow_lt_pow_right (by decide) (Nat.lt_succ_self n)), fun k hk => ?_⟩
      by_cases hkn : k = n
      · rw [hkn, Nat.testBit_lt_two_pow hlt]; simpa using hn
      · exact hbit k (by omega)

theorem bestSite_eq (s : State) (id : Nat) (l : Launch) (d : Nat) :
    s.bestSite id l d = ((l.sites d).filter (s.fits id l)).foldl (better s.siteLoad) none := by
  unfold State.bestSite
  congr 1
  funext b x
  cases b <;> rfl

section
variable {s : State} {id d core : Nat} {l : Launch} (hc : l.convoy = false) (hp : l.paired = false)
include hc hp

theorem sites_single : l.sites d = (List.range 96).map (fun c => [d * 96 + c]) := by
  unfold Launch.sites
  rw [hc, hp]
  rfl

theorem unitSize_single : l.unitSize = 1 := by
  unfold Launch.unitSize
  rw [hc, hp]
  rfl

theorem mem_sites_single {x : List Nat} : x ∈ l.sites d ↔ ∃ c, d * 96 ≤ c ∧ c < d * 96 + 96 ∧ x = [c] := by
  rw [sites_single hc hp, List.mem_map]
  constructor
  · rintro ⟨c, hc, rfl⟩
    exact ⟨_, by omega, by have := List.mem_range.1 hc; omega, rfl⟩
  · rintro ⟨c, h1, h2, rfl⟩
    exact ⟨c - d * 96, List.mem_range.2 (by omega), by rw [Nat.add_sub_cancel' h1]⟩

theorem bestSite_best (h : BestCore s d id l core) : s.bestSite id l d = some [core] := by
  obtain ⟨h1, h2, hfit, hbest⟩ := h
  have hmem : ∀ x, x ∈ (l.sites d).filter (s.fits id l) ↔ ∃ c, d * 96 ≤ c ∧ c < d * 96 + 96 ∧ x = [c] ∧ s.fits id l [c] = true := fun x => by
    rw [List.mem_filter, mem_sites_single hc hp]
    constructor
    · rintro ⟨⟨c, h1, h2, rfl⟩, hf⟩; exact ⟨c, h1, h2, rfl, hf⟩
    · rintro ⟨c, h1, h2, rfl, hf⟩; exact ⟨⟨c, h1, h2, rfl⟩, hf⟩
  have hord : ((l.sites d).filter (s.fits id l)).Pairwise (fun a b => a.headD 0 < b.headD 0) := by
    rw [sites_single hc hp]
    refine List.Pairwise.filter _ (List.pairwise_map.2 (List.pairwise_lt_range.imp fun {a b} hab => ?_))
    simpa using hab
  rw [bestSite_eq]
  have hcore := (hmem [core]).2 ⟨core, h1, h2, rfl, hfit⟩
  generalize (l.sites d).filter (s.fits id l) = xs at *
  cases xs with
  | nil => exact absurd hcore List.not_mem_nil
  | cons y xs =>
    obtain ⟨r, hr, he, hmin⟩ := foldl_better (f := s.siteLoad) hord
    refine he.trans ?_
    obtain ⟨c, hc1, hc2, rfl, hcf⟩ := (hmem r).1 hr
    have hle := hmin [core] hcore
    have hge := hbest c hc1 hc2 hcf
    simp only [List.headD_cons] at hle
    have : c = core := by omega
    rw [this]

theorem noSite (h : ∀ c, d * 96 ≤ c → c < d * 96 + 96 → s.fits id l [c] = false) : (l.sites d).filter (s.fits id l) = [] := by
  refine List.filter_eq_nil_iff.2 fun x hx => ?_
  obtain ⟨c, h1, h2, rfl⟩ := (mem_sites_single hc hp).1 hx
  simp [h c h1 h2]

theorem bestSite_none (h : ∀ c, d * 96 ≤ c → c < d * 96 + 96 → s.fits id l [c] = false) : s.bestSite id l d = none := by
  unfold State.bestSite
  rw [noSite hc hp h]
  rfl

theorem candidates_none (h : ∀ c, d * 96 ≤ c → c < d * 96 + 96 → s.fits id l [c] = false) : s.candidates id l d = 0 := by
  unfold State.candidates
  rw [noSite hc hp h]
  rfl

theorem candidates_bit (h1 : d * 96 ≤ core) (h2 : core < d * 96 + 96) : (s.candidates id l d).testBit (core - d * 96) = s.fits id l [core] := by
  have he : s.candidates id l d = ((List.range 96).filter (fun c => s.fits id l [d * 96 + c])).foldl (fun a k => a + 2 ^ k) 0 := by
    unfold State.candidates
    rw [sites_single hc hp, List.filter_map, List.foldl_map]
    have hk : ∀ k, d * 96 + k - 96 * d = k := fun k => by omega
    simp only [List.headD_cons, hk]
    rfl
  rw [he, (testBit_foldl_pow _ 96).2 _ (by omega), Nat.add_sub_cancel' h1]

theorem candidates_some (h : BestCore s d id l core) : s.candidates id l d ≠ 0 := by
  obtain ⟨h1, h2, hfit, -⟩ := h
  intro h0
  have := candidates_bit (s := s) (id := id) hc hp h1 h2
  rw [h0, hfit, Nat.zero_testBit] at this
  cases this

end
end Sys2Proof.Machine
end

section
/-! Placement (O46), the party itself (R65, R230, R271, R274): what placing the next party of a launch on a core makes of the state. -/

namespace Sys2Proof.Machine

section
variable {s : State}

/-! ### Strings that begin -/

/-- The strings of a party begin in their units, in order, each with the next number of the order of arrival. -/
def State.begin (s : State) (new : Nat → Nat → Str) (units : List Nat) (n : Nat) : State :=
  (List.range n).foldl (fun s i => { s with stamp := s.stamp + 1 }.putStr (units.getD i 0) (new i s.stamp)) s

theorem begin_succ (new : Nat → Nat → Str) (units : List Nat) (n : Nat) : s.begin new units (n + 1) =
    { s.begin new units n with stamp := (s.begin new units n).stamp + 1 }.putStr (units.getD n 0) (new n (s.begin new units n).stamp) := by
  unfold State.begin
  rw [List.range_succ, List.foldl_append]
  rfl

theorem begin_frame (new : Nat → Nat → Str) (units : List Nat) (n : Nat) : ∃ st x, s.begin new units n = { s with strs := st, stamp := x } := by
  induction n with
  | zero => exact ⟨s.strs, s.stamp, rfl⟩
  | succ n ih =>
    obtain ⟨st, x, h⟩ := ih
    rw [begin_succ, h]
    exact ⟨_, _, rfl⟩

/-- Units that no string begins in keep what they hold. -/
theorem begin_other {new : Nat → Nat → Str} {units : List Nat} {n u : Nat} (h : ∀ i, i < n → u ≠ units.getD i 0) :
    (s.begin new units n).str? u = s.str? u := by
  induction n with
  | zero => rfl
  | succ n ih =>
    rw [begin_succ, putStr_str, if_neg (h n (Nat.lt_succ_self n))]
    exact ih fun i hi => h i (by omega)

/-- The i-th unit holds the i-th string, the units being different. -/
theorem begin_str {new : Nat → Nat → Str} {units : List Nat} (hu : units.Nodup) {n : Nat} (hn : n ≤ units.length) {i : Nat} (hi : i < n) :
    ∃ x, (s.begin new units n).str? (units.getD i 0) = some (new i x) := by
  induction n with
  | zero => exact absurd hi (Nat.not_lt_zero i)
  | succ n ih =>
    rw [begin_succ, putStr_str]
    by_cases hin : i = n
    · subst hin
      exact ⟨_, if_pos rfl⟩
    · have hne : units.getD i 0 ≠ units.getD n 0 := fun he => hin (by
        rw [List.getD_eq_getElem _ _ (by omega), List.getD_eq_getElem _ _ (by omega)] at he
        exact (List.Nodup.getElem_inj_iff hu).1 he)
      rw [if_neg hne]
      exact ih (by omega) (by omega)

/-! ### A party -/

/-- The key of a launch's party. -/
def partyKey (id idx : Nat) : Nat := id * 2 ^ 24 + idx

/-- The units of a room. -/
def Room.units (r : Room) (core : Nat) : List Nat := r.slots.map (fun k => core * 64 + k)

theorem units_getD {r : Room} {core i : Nat} (h : i < r.slots.length) : (r.units core).getD i 0 = core * 64 + r.slots.getD i 0 := by
  unfold Room.units
  rw [List.getD_eq_getElem _ _ (h.trans_eq (List.length_map _).symm), List.getD_eq_getElem _ _ h]
  exact List.getElem_map _

/-- String i of a party of a launch in its first state. -/
def Launch.string (l : Launch) (id idx i stamp : Nat) : Str :=
  Str.fresh l.world id (partyKey id idx) i l.vblk l.level (launchMask l.threads i) (BitVec.ofNat 64 (l.num 0 64)) (BitVec.ofNat 64 (l.num 64 64)) stamp

/-- A party of a launch in a room of a core. -/
def Launch.partyIn (l : Launch) (id idx core : Nat) (r : Room) (stamp now : Nat) : Party :=
  { launch := id, idx, core, world := l.world, level := l.level, spBase := r.sp, spSize := l.scr * 16384, tiles := r.tiles, outrs := r.outrs
    live := (r.units core).length, bars := [], units := r.units core, stamp, stopping := false, slice := now, sleeping := false }

theorem freshConst_frame (id core w : Nat) : ∃ m, s.freshConst id core w = { s with mem := m } := by
  unfold State.freshConst
  split
  · exact ⟨s.mem, rfl⟩
  · exact ⟨_, rfl⟩

/-- The party is in its launch's list once its strings have begun. -/
def State.seat (s : State) (id idx core : Nat) (l : Launch) (r : Room) : State :=
  { s with stamp := s.stamp + 1, sch := { s.sch with parties := tput s.sch.parties (partyKey id idx) (l.partyIn id idx core r s.stamp s.time) } }

theorem placeParty_room {id idx core : Nat} {l : Launch} {r : Room} (h : s.roomFor l core = some r) : ∃ m x y,
    s.placeParty id l idx core = { s with
      mem := m, strs := (State.begin { s with mem := m } (l.string id idx) (r.units core) (r.units core).length).strs, stamp := x
      sch := { s.sch with parties := tput s.sch.parties (partyKey id idx) (l.partyIn id idx core r y s.time) } } := by
  obtain ⟨m, hm⟩ := freshConst_frame (s := s) id core l.world
  obtain ⟨st, x, hb⟩ := begin_frame (s := { s with mem := m }) (l.string id idx) (r.units core) (r.units core).length
  have he : s.placeParty id l idx core =
      ((s.freshConst id core l.world).begin (l.string id idx) (r.units core) (r.units core).length).seat id idx core l r := by
    unfold State.placeParty
    rw [h]
    rfl
  refine ⟨m, x + 1, x, ?_⟩
  rw [he, hm, hb]
  rfl

/-! ### The unit -/

theorem placeAllocs_single {id idx core : Nat} {l : Launch} (hc : l.convoy = false) : ∃ dp, s.placeAllocs id l idx core =
    { s with sch := { s.sch with dpAlloc := dp } } := by
  unfold State.placeAllocs
  simp only [hc, Bool.false_and]
  split
  · split <;> exact ⟨_, rfl⟩
  · exact ⟨_, rfl⟩

/-- A launch once its next unit on a die has been placed. -/
def Launch.after (l : Launch) (d : Nat) : Launch := { l with placed := tset 0 l.placed d (l.placedOn d + 1) }

theorem setQueue_queue (k : Nat) (x : Queue) (j : Nat) : (s.setQueue k x).queue j = if j = k then x else s.queue j := by
  unfold State.setQueue State.queue
  split
  · next h => subst h; simp
  · simp

/-- The queue of a launch whose next unit has been placed: a launch wholly placed leaves it (R271). -/
def State.queueAfter (s : State) (id : Nat) (l : Launch) (d : Nat) : Queue :=
  { s.queue l.queue with items := if (l.after d).whole then (s.queue l.queue).items.filter (fun x => x != id) else (s.queue l.queue).items }

/-- The launch's progress is noted and, wholly placed, it leaves its queue. -/
def State.noteLaunch (s : State) (id : Nat) (l : Launch) (d : Nat) : State :=
  if (l.after d).whole then
    (s.putLaunch id (l.after d)).setQueue l.queue { s.queue l.queue with items := (s.queue l.queue).items.filter (fun x => x != id) }
  else s.putLaunch id (l.after d)

theorem noteLaunch_frame (id : Nat) (l : Launch) (d : Nat) : ∃ qs, s.noteLaunch id l d =
    { s with sch := { s.sch with queues := qs, launches := tput s.sch.launches id (l.after d) } } ∧ tget Queue.blank qs l.queue = s.queueAfter id l d := by
  unfold State.noteLaunch State.queueAfter
  split
  · exact ⟨_, rfl, (setQueue_queue (s := s) l.queue _ l.queue).trans (if_pos rfl)⟩
  · exact ⟨s.sch.queues, rfl, rfl⟩

section
variable {id d core : Nat} {l : Launch} {r : Room} (hc : l.convoy = false) (hp : l.paired = false)
include hc hp

theorem placeUnit_eq : s.placeUnit id l d [core] =
    ((s.placeAllocs id l (l.unitAt d (l.placedOn d)) core).placeParty id l (l.unitAt d (l.placedOn d)) core).noteLaunch id l d := by
  unfold State.placeUnit
  simp only [unitSize_single hc hp, Nat.mul_one, List.length_singleton, List.range_one, List.foldl_cons, List.foldl_nil, List.headD_cons,
    List.getD_cons_zero, Nat.add_zero]
  rfl

theorem placeUnit_single (h : s.roomFor l core = some r) :
    ∃ m dp qs x y, s.placeUnit id l d [core] = { s with
      mem := m, stamp := x
      strs := (State.begin { s with mem := m, sch := { s.sch with dpAlloc := dp } } (l.string id (l.unitAt d (l.placedOn d))) (r.units core)
        (r.units core).length).strs
      sch := { s.sch with
        dpAlloc := dp, queues := qs, launches := tput s.sch.launches id (l.after d)
        parties := tput s.sch.parties (partyKey id (l.unitAt d (l.placedOn d))) (l.partyIn id (l.unitAt d (l.placedOn d)) core r y s.time) } } ∧
      tget Queue.blank qs l.queue = s.queueAfter id l d := by
  obtain ⟨dp, hdp⟩ := placeAllocs_single (s := s) (id := id) (idx := l.unitAt d (l.placedOn d)) (core := core) hc
  obtain ⟨m, x, y, hparty⟩ := placeParty_room (s := { s with sch := { s.sch with dpAlloc := dp } }) (id := id) (idx := l.unitAt d (l.placedOn d)) (h :)
  rw [placeUnit_eq hc hp, hdp, hparty]
  obtain ⟨qs, hnote, hqs⟩ := noteLaunch_frame (s := { s with
      mem := m, stamp := x
      strs := (State.begin { s with mem := m, sch := { s.sch with dpAlloc := dp } } (l.string id (l.unitAt d (l.placedOn d))) (r.units core)
        (r.units core).length).strs
      sch := { s.sch with
        dpAlloc := dp
        parties := tput s.sch.parties (partyKey id (l.unitAt d (l.placedOn d))) (l.partyIn id (l.unitAt d (l.placedOn d)) core r y s.time) } }) id l d
  exact ⟨m, dp, qs, x, y, hnote, hqs⟩

end

/-! ### What the queues have mapped (R272) -/

/-- A state without the queues its dies have mapped. -/
def State.offMaps (s : State) : State := { s with sch := { s.sch with maps := [] } }

@[simp] theorem setMap_offMaps (d q : Nat) (m : MapE) : (s.setMap d q m).offMaps = s.offMaps := rfl

theorem fillSlots_offMaps (d : Nat) : (s.fillSlots d).offMaps = s.offMaps := by
  unfold State.fillSlots
  refine foldl_keeps (g := State.offMaps) (fun s q => ?_) _ _
  exact setMap_offMaps d q _

theorem refreshMaps_offMaps (d : Nat) : (s.refreshMaps d).offMaps = s.offMaps := by
  unfold State.refreshMaps
  refine (fillSlots_offMaps d).trans ((foldl_keeps (g := State.offMaps) (fun s q => ?_) _ _).trans rfl)
  split <;> rfl

/-- Two states that differ only in what their queues have mapped. -/
theorem offMaps_frame {s' : State} (h : s'.offMaps = s.offMaps) : ∃ ms, s' = { s with sch := { s.sch with maps := ms } } :=
  ⟨s'.sch.maps, congrArg (fun x : State => { x with sch := { x.sch with maps := s'.sch.maps } }) h⟩

/-- Seeing to the slots changes what the queues have mapped and nothing else. -/
theorem refreshAll_frame : ∃ ms, s.refreshAll = { s with sch := { s.sch with maps := ms } } :=
  offMaps_frame (foldl_keeps (g := State.offMaps) (fun _ _ => refreshMaps_offMaps _) _ _)

/-! ### A string's first state (R230) -/

section
variable (l : Launch) (id idx i x : Nat)

theorem string_spair : (l.string id idx i x).spair 0 = BitVec.ofNat 64 (l.num 64 64) := by
  simp only [Launch.string, Str.fresh, Str.spair, Str.sget, tget_tset]
  simp only [zero_add, if_true, zero_ne_one, if_false]
  rw [BitVec.setWidth_eq_extractLsb' (by decide)]
  exact (BitVec.extractLsb'_append_extractLsb'_eq_extractLsb' rfl).trans BitVec.extractLsb'_eq_self

theorem string_sget {k : Nat} (h : 2 ≤ k) : (l.string id idx i x).sget k = 0 := by
  simp only [Launch.string, Str.fresh, Str.sget, tget_tset, tget_nil]
  rw [if_neg (by omega), if_neg (by omega)]

theorem string_pget (k : Nat) : (l.string id idx i x).pget k = if k = 7 then (l.string id idx i x).pget 7 else 0 := by
  unfold Str.pget
  split <;> simp [Launch.string, Str.fresh]

theorem string_waybills (k : Nat) : (l.string id idx i x).vw k = 0 ∧ (l.string id idx i x).sw k = 0 ∧ (l.string id idx i x).pw k = 0 ∧
    (l.string id idx i x).qw k = 0 := by
  refine ⟨rfl, rfl, ?_, ?_⟩
  · unfold Str.pw; split <;> rfl
  · unfold Str.qw; split <;> rfl

end

/-! ### A unit is placed -/

section
variable {id d core q : Nat} {l : Launch} {r : Room} (hc : l.convoy = false) (hp : l.paired = false)
include hc hp

theorem placeAt_placed (hq : l.queue = q) (h : s.roomFor l core = some r) : Placed s (s.placeAt d q id l [core]) d q id l core := by
  obtain ⟨m, dp, qs, x, y, hunit, hqueue⟩ := placeUnit_single (s := s) (id := id) (d := d) hc hp h
  obtain ⟨ms, hmaps⟩ := refreshAll_frame (s := ((s.placeUnit id l d [core]).served d q))
  obtain ⟨hslots, -⟩ := room_some h
  have hnodup : (r.units core).Nodup := List.Nodup.map (fun a b hab => by omega) hslots.nodup
  have hlen : (r.units core).length = l.strings := (List.length_map _).trans hslots.count
  have hqueue' : (s.placeUnit id l d [core]).queue l.queue = s.queueAfter id l d := by rw [hunit]; exact hqueue
  have hprio : (s.placeUnit id l d [core]).prioNow q = s.prioNow q := by
    have htime : (s.placeUnit id l d [core]).time = s.time := by rw [hunit]
    unfold State.prioNow State.prioAt
    rw [← hq, hqueue', htime]
    rfl
  unfold State.placeAt
  rw [hmaps, State.served, hprio, hunit]
  subst hq
  refine ⟨⟨r, _, h, (tfind_tput _ _ _ _).trans (if_pos rfl), rfl, rfl, rfl, rfl, rfl, rfl, rfl, rfl, rfl, hlen, rfl, rfl, fun i hi => ?_, fun u hu => ?_⟩,
    (tfind_tput _ _ _ _).trans (if_pos rfl), congrArg Queue.items hqueue, (tfind_terase _ _ _).trans (if_pos rfl),
    (tget_tset _ _ _ _ _).trans (if_pos rfl)⟩
  · obtain ⟨z, hz⟩ := begin_str (s := { s with mem := m, sch := { s.sch with dpAlloc := dp } }) (new := l.string id (l.unitAt d (l.placedOn d)))
      hnodup le_rfl (i := i) (by rw [hlen]; exact hi)
    rw [units_getD (hslots.count.symm ▸ hi)] at hz
    exact ⟨_, hz, rfl, rfl, rfl, rfl, rfl, rfl, fun k hk => laneMask_get _ _ hk, rfl, rfl, rfl, rfl, string_spair _ _ _ _ _,
      fun k hk => string_sget _ _ _ _ _ hk, fun k j => rfl, string_pget _ _ _ _ _, rfl, string_waybills _ _ _ _ _, rfl⟩
  · refine begin_other (s := { s with mem := m, sch := { s.sch with dpAlloc := dp } }) fun i hi => ?_
    have hi' : i < r.slots.length := hi.trans_eq (List.length_map _)
    rw [units_getD hi', List.getD_eq_getElem _ _ hi']
    exact hu _ (List.getElem_mem hi')

end

end
end Sys2Proof.Machine
end

section
/-! Placement (O46), its events: PLACEMENT, PLACEMENT_TIMEOUT, PLACE and DEFER where one launch of single parties is wanted (R271, R276 to R278). -/

namespace Sys2Proof.Machine

/-- What every element of a list leaves as it is, the whole list does. -/
theorem foldl_stays {σ α : Type} {f : σ → α → σ} {s : σ} {l : List α} (h : ∀ a ∈ l, f s a = s) : l.foldl f s = s := by
  induction l with
  | nil => rfl
  | cons a l ih =>
    rw [List.foldl_cons, h a List.mem_cons_self]
    exact ih fun b hb => h b (List.mem_cons_of_mem _ hb)

theorem mem_of_tfind {α : Type} {t : Table α} {k : Nat} {v : α} (h : tfind t k = some v) : (k, v) ∈ t := by
  induction t with
  | nil => cases h
  | cons e t ih =>
    obtain ⟨j, w⟩ := e
    unfold tfind at h
    split at h
    · next hj => cases h; exact hj ▸ List.mem_cons_self
    · exact List.mem_cons_of_mem _ (ih h)

theorem tfind_single {α : Type} (k : Nat) (v : α) : tfind [(k, v)] k = some v := if_pos rfl

/-- A launch of single parties is the one a die has work for: it heads the one queue that is mapped there, and may be placed. -/
structure Wanted (s : State) (d q id : Nat) (l : Launch) : Prop where
  die : d < 4
  head : s.headOf q = some (id, l)
  launch : tfind s.sch.launches id = some l
  queue : l.queue = q
  mapped : s.mapped d = [q]
  work : s.hasWork d q = true
  prio : s.prioNow q < 4
  ready : s.headReady q id l = true
  convoy : l.convoy = false
  paired : l.paired = false
  cor : l.cor = false
  settled : s.refreshMaps d = s

section
variable {s : State} {d q id core : Nat} {l : Launch}

/-- With one queue, and it mapped, there is no slot to give or to take. -/
theorem wanted_of {Q : Queue} {m : MapE} {rest : List Nat} (hd : d < 4) (hQ : s.sch.queues = [(q, Q)]) (hI : Q.items = id :: rest)
    (hM : s.sch.maps = [(d * 4096 + q, m)]) (hm : m.mapped = true) (hq : q < 4096) (hl : tfind s.sch.launches id = some l) (hlq : l.queue = q)
    (hprio : s.prioNow q < 4) (hwork : l.placedOn d < l.unitsOn d) (hready : s.headReady q id l = true)
    (hone : l.convoy = false ∧ l.paired = false ∧ l.cor = false) : Wanted s d q id l := by
  obtain ⟨hc, hp, hcor⟩ := hone
  have hqueue : s.queue q = Q := by unfold State.queue tget; rw [hQ, tfind_single]; rfl
  have hhead : s.headOf q = some (id, l) := by
    unfold State.headOf
    rw [hqueue, hI]
    simp [hl]
  have hhas : s.hasWork d q = true := by
    unfold State.hasWork
    rw [hhead]
    simpa using hwork
  have hdie : (d * 4096 + q) / 4096 = d ∧ (d * 4096 + q) % 4096 = q := by omega
  have hmaps : s.sch.maps.filter (fun e => e.1 / 4096 != d || s.hasWork d (e.1 % 4096)) = s.sch.maps := by
    rw [hM]
    simp [hdie, hhas]
  have hsame : ({ s with sch := { s.sch with maps := s.sch.maps.filter (fun e => e.1 / 4096 != d || s.hasWork d (e.1 % 4096)) } } : State) = s := by
    rw [hmaps]
  have hbusy : s.busyQueues = [q] := by
    unfold State.busyQueues
    rw [hQ]
    simp [hI, tkeys]
  have hmapOf : s.mapOf d q = some m := by
    unfold State.mapOf
    rw [hM, tfind_single]
  have hwait : ∀ now p, s.waitingAt now d p = [] := fun now p => by
    unfold State.waitingAt
    rw [hM]
    simp [hm, sortBy]
  refine ⟨hd, hhead, hl, hlq, ?_, hhas, hprio, hready, hc, hp, hcor, ?_⟩
  · unfold State.mapped
    rw [hM]
    simp [hdie, hm]
  · unfold State.refreshMaps State.fillSlots
    simp only [hsame, hbusy, List.foldl_cons, List.foldl_nil, hhas, hmapOf, Option.isNone_some, Bool.and_false, Bool.false_eq_true, if_false, hwait]
    rw [List.flatMap_eq_nil_iff.2 fun _ _ => rfl, List.take_nil]
    rfl

theorem askKernelPlace_frame : (s.askKernelPlace d q id l).strs = s.strs ∧ (s.askKernelPlace d q id l).sch.parties = s.sch.parties := by
  unfold State.askKernelPlace
  by_cases h : s.candidates id l d = 0
  · simp only [h, if_true, and_self]
  · simp only [h, if_false, kept_strs (schEvent_kept _ _), kept_sch (schEvent_kept _ _), and_self]

section
variable (w : Wanted s d q id l)
include w

theorem Wanted.mayPlaceOn : s.mayPlaceOn d q id l = true := by
  unfold State.mayPlaceOn
  rw [w.mapped, w.ready]
  simp

/-- The one thing the die wants is the head of its queue. -/
theorem Wanted.wants (hstored : s.stored = []) (hreqs : s.sch.preqs = []) : s.wants d = [.queue q id] := by
  have hrec : ∀ p, s.recalls d p = [] := fun p => by unfold State.recalls; rw [hstored]; rfl
  have hturn : ∀ p, s.turns d p = if p = s.prioNow q then [(q, id)] else [] := fun p => by
    unfold State.turns
    rw [w.mapped, hreqs]
    by_cases hp : p = s.prioNow q
    · by_cases hlast : tget 4096 s.sch.turn (d * 4 + p) < q
      · simp [← hp, thas, tfind, hlast, Nat.not_le.2 hlast, w.head, w.ready, w.work]
      · simp [← hp, thas, tfind, hlast, Nat.le_of_not_lt hlast, w.head, w.ready, w.work]
    · simp [hp, Ne.symm hp]
  unfold State.wants
  simp only [hrec, hturn, List.map_nil, List.nil_append]
  have hk := w.prio
  generalize s.prioNow q = k at hk
  interval_cases k <;> rfl

/-- PLACEMENT with nothing to retire, to reclaim or to map comes to the one thing wanted. -/
theorem Wanted.placement (hlive : ∀ e ∈ s.sch.parties, e.2.live ≠ 0 ∧ e.2.stopping = false) (hstored : s.stored = []) (hreqs : s.sch.preqs = [])
    (hfree : s.freeDepots = s) (harg : s.argN 0 = d) : exec .placement s = .next (s.placeFirst d [.queue q id]) := by
  have hretire : s.retireAll = s := by
    unfold State.retireAll
    rw [foldl_stays fun e he => if_neg fun h => (hlive e he).1 h.1]
    exact hfree
  have hreclaim : s.reclaim d = s := by
    unfold State.reclaim
    refine foldl_stays fun e he => ?_
    split
    · next p l' hp hl' =>
      have hstop : p.stopping = false := (hlive _ (mem_of_tfind hp)).2
      simp [hstop]
    · rfl
  have hmod : d % 4 = d := Nat.mod_eq_of_lt w.die
  change execPlacement s = _
  unfold execPlacement
  simp only [harg, hmod, hretire, hreclaim, w.settled, w.wants hstored hreqs]

/-! ### What PLACEMENT does about the one thing wanted -/

theorem Wanted.placeFirst_best (hk : s.kdir l = false) (hb : BestCore s d id l core) :
    s.placeFirst d [.queue q id] = s.placeAt d q id l [core] := by
  have hnow : s.placeNow d (.queue q id) = some (s.placeAt d q id l [core]) := by
    unfold State.placeNow
    simp [w.launch, w.cor, hk, bestSite_best w.convoy w.paired hb]
  unfold State.placeFirst
  rw [hnow]

theorem Wanted.placeFirst_ask (hk : s.kdir l = true) (hb : BestCore s d id l core) :
    s.placeFirst d [.queue q id] = s.askKernelPlace d q id l := by
  have hnow : s.placeNow d (.queue q id) = some (s.askKernelPlace d q id l) := by
    unfold State.placeNow
    simp [w.launch, w.cor, hk, candidates_some w.convoy w.paired hb]
  unfold State.placeFirst
  rw [hnow]

/-- Where no core has room and no party is resident, there is nothing to place and nobody to take room from. -/
theorem Wanted.placeFirst_full (h : ∀ c, d * 96 ≤ c → c < d * 96 + 96 → s.fits id l [c] = false) (hnone : s.sch.parties = []) :
    s.placeFirst d [.queue q id] = s := by
  have hsite := bestSite_none w.convoy w.paired h
  have hnow : s.placeNow d (.queue q id) = none := by
    unfold State.placeNow
    simp [w.launch, w.cor, hsite, candidates_none w.convoy w.paired h]
  have hfit : s.wantFits d (.queue q id) s = false := by
    unfold State.wantFits
    simp [w.launch, w.cor, hsite]
  have hroom : s.freeRoom d (.queue q id) = none := by
    unfold State.freeRoom State.victims
    simp [hnone, State.without, hfit, State.choose, sortBy]
  unfold State.placeFirst
  rw [hnow, hroom]
  rfl

theorem Wanted.askKernelPlace_preqs : tfind (s.askKernelPlace d q id l).sch.preqs (d * 4096 + q) =
    if s.candidates id l d = 0 then none else some ⟨l.unitAt d (l.placedOn d), s.time, false, s.candidates id l d⟩ := by
  unfold State.askKernelPlace
  by_cases h : s.candidates id l d = 0
  · simp only [h, if_true, tfind_terase]
  · simp only [h, if_false, tfind_tput, if_true, unitSize_single w.convoy w.paired, kept_time (schEvent_kept _ _), Nat.mul_one]

end
end

/-! ### A request to the kernel that is pending (R277, R278) -/

section
variable {s : State} {d q id core : Nat} {l : Launch} {r : PlReq}

/-- The one site of single parties a core is. -/
theorem site_find (hc : l.convoy = false) (hp : l.paired = false) :
    (l.sites d).find? (fun x => x.headD 0 == core) = if d * 96 ≤ core ∧ core < d * 96 + 96 then some [core] else none := by
  cases hf : (l.sites d).find? (fun x => x.headD 0 == core) with
  | none =>
    refine (if_neg fun h => ?_).symm
    have := List.find?_eq_none.1 hf [core] ((mem_sites_single hc hp).2 ⟨core, h.1, h.2, rfl⟩)
    simp at this
  | some x =>
    obtain ⟨c, h1, h2, rfl⟩ := (mem_sites_single hc hp).1 (List.mem_of_find?_eq_some hf)
    have he : c = core := by simpa using List.find?_some hf
    subst he
    exact (if_pos ⟨h1, h2⟩).symm

section
variable (hr : s.sch.preqs = [(d * 4096 + q, r)])
include hr

theorem tfind_request (e : Nat) : tfind s.sch.preqs (e * 4096 + q) = if e = d then some r else none := by
  rw [hr]
  by_cases h : e = d
  · subst h
    exact (tfind_single _ _).trans (if_pos rfl).symm
  · rw [if_neg h]
    exact if_neg fun he => h (by omega)

theorem requestDie_same (hd : d < 4) : s.requestDie q r.first = some d := by
  unfold State.requestDie
  simp only [tfind_request hr]
  interval_cases d <;> simp [List.range_succ]

theorem requestDie_other {first : Nat} (h : first ≠ r.first) : s.requestDie q first = none := by
  unfold State.requestDie
  refine List.find?_eq_none.2 fun e _ => ?_
  rw [tfind_request hr]
  split
  · simpa using h.symm
  · simp

theorem terase_request : terase s.sch.preqs (d * 4096 + q) = [] := by
  rw [hr]
  simp [terase]

theorem tput_request (x : PlReq) : tput s.sch.preqs (d * 4096 + q) x = [(d * 4096 + q, x)] := by
  unfold tput
  rw [terase_request hr]
  rfl

/-- How long a die waits for the kernel's answer about a launch (R277). -/
def State.answerTime (s : State) (l : Launch) : Nat := usec (10 * ((s.preg ((s.partOf l.world).getD 0) 0x0DA).toNat % 256))

section
variable (w : Wanted s d q id l)
include w

theorem Wanted.timeout (h0 : s.argN 0 = d) (h1 : s.argN 1 = q) : exec .placementTimeout s = .next
    (if r.deferred ∨ s.time < r.since + s.answerTime l then s
    else (s.bestSite id l d).elim { s with sch := { s.sch with preqs := [] } } (s.placeAt d q id l)) := by
  change execPlacementTimeout s = _
  unfold execPlacementTimeout State.answerTime
  simp only [h0, h1, tfind_request hr, if_true, w.head, w.mayPlaceOn, terase_request hr]
  split
  · rfl
  · cases s.bestSite id l d with
    | none => simp only [Option.elim]
    | some site => simp only [Option.elim]

theorem Wanted.place (h0 : s.argN 0 = q) (h1 : s.argN 1 = r.first) (h2 : s.argN 2 = core) : exec .place s = .next
    (if d * 96 ≤ core ∧ core < d * 96 + 96 ∧ r.cands.testBit (core - d * 96) = true ∧ s.fits id l [core] = true then s.placeAt d q id l [core]
    else s.askKernelPlace d q id l) := by
  change execPlace s = _
  unfold execPlace
  simp only [h0, h1, h2, requestDie_same hr w.die, w.head, site_find w.convoy w.paired]
  by_cases hin : d * 96 ≤ core ∧ core < d * 96 + 96
  · simp only [hin, and_self, if_true, tfind_request hr, w.mayPlaceOn, true_and, Option.map_some, Option.getD_some, List.headD_cons, Bool.and_true,
      Bool.and_eq_true, Nat.mul_comm 96 d]
    exact (apply_ite Host.Outcome.next _ _ _).symm
  · rw [if_neg hin, if_neg fun h => hin ⟨h.1, h.2.1⟩]

theorem Wanted.defer (h0 : s.argN 0 = q) (h1 : s.argN 1 = r.first) :
    exec .defer s = .next { s with sch := { s.sch with preqs := [(d * 4096 + q, { r with deferred := true })] } } := by
  change execDefer s = _
  unfold execDefer
  simp only [h0, h1, requestDie_same hr w.die, tfind_request hr, if_true, tput_request hr]

end

theorem place_other (h0 : s.argN 0 = q) (h1 : s.argN 1 ≠ r.first) : exec .place s = .next s ∧ exec .defer s = .next s := by
  constructor
  · change execPlace s = _
    unfold execPlace
    simp only [h0, requestDie_other hr h1]
  · change execDefer s = _
    unfold execDefer
    simp only [h0, requestDie_other hr h1]

end
end
end Sys2Proof.Machine
end

section
/-! Placement (O46): the statement, from the events' lemmas and the room's. -/

namespace Sys2Proof.Machine

section
variable {s : State} {d q id core : Nat} {l : Launch}

/-- A core where the next party fits has a room for it. -/
theorem roomFor_of_fits (h : s.fits id l [core] = true) : ∃ r, s.roomFor l core = some r := by
  unfold State.fits at h
  simp only [List.all_cons, List.all_nil, Bool.and_true, Bool.and_eq_true] at h
  exact Option.isSome_iff_exists.1 h.1.1

section
variable (w : Wanted s d q id l)
include w

theorem Wanted.placed (h : s.fits id l [core] = true) : Placed s (s.placeAt d q id l [core]) d q id l core := by
  obtain ⟨r, hr⟩ := roomFor_of_fits h
  exact placeAt_placed w.convoy w.paired w.queue hr

theorem Wanted.placed_best (h : BestCore s d id l core) : Placed s (s.placeAt d q id l [core]) d q id l core := by
  obtain ⟨-, -, hfit, -⟩ := h
  exact w.placed hfit

end
end

end Sys2Proof.Machine

open Sys2Proof Sys2Proof.Machine

/-- Settles O46: with one mapped queue the only thing wanted is its head launch, its sites are the cores of the die, and the choice among them
is a least element; a room's slots, scratchpad, tiles and outriders are picked among the free ones. -/
theorem placingParties : Obligations.PlacingParties := by
  unfold Obligations.PlacingParties
  refine ⟨fun s d q id core l Q m rest => ?_, fun s core n vblk scr tiles outr r hroom => ?_⟩
  · intro single wait hd hQ hI hM hm hq hl hlq hprio _ hwork hready hsingle
    have w := wanted_of hd hQ hI hM hm hq hl hlq hprio hwork hready hsingle
    refine ⟨fun hlive hstored hreqs hfree harg => ?_, fun c h1 h2 => candidates_bit w.convoy w.paired h1 h2, fun r hr => ⟨fun h0 h1 => ?_, fun h0 h1 => ?_,
      fun h0 h1 => place_other hr h0 h1⟩⟩
    · have hplace := w.placement hlive hstored hreqs hfree harg
      refine ⟨fun hk hb => ?_, fun hfull hnone => ?_, fun hk hb => ?_⟩
      · exact ⟨_, hplace, w.placeFirst_best hk hb ▸ w.placed_best hb⟩
      · exact ⟨_, hplace, w.placeFirst_full hfull hnone⟩
      · refine ⟨_, hplace, ?_⟩
        rw [w.placeFirst_ask hk hb]
        exact ⟨w.askKernelPlace_preqs.trans (if_neg (candidates_some w.convoy w.paired hb)), askKernelPlace_frame⟩
    · have hto := w.timeout hr h0 h1
      have ht : s.answerTime l = wait := Nat.mul_comm 3600 _
      rw [ht] at hto
      clear_value wait
      refine ⟨fun hwait => ?_, fun hdef hlate hb => ?_, fun hdef hlate hfull => ?_⟩
      · exact ⟨_, hto.trans (congrArg Host.Outcome.next (if_pos hwait)), rfl⟩
      · rw [if_neg (by simpa [hdef] using hlate), bestSite_best w.convoy w.paired hb, Option.elim_some] at hto
        exact ⟨_, hto, w.placed_best hb⟩
      · rw [if_neg (by simpa [hdef] using hlate), bestSite_none w.convoy w.paired hfull, Option.elim_none] at hto
        exact ⟨_, hto, rfl⟩
    · refine ⟨fun h2 hlo hhi hnamed hfit => ?_, fun h2 hno => ?_, _, w.defer hr h0 h1, rfl⟩
      · exact ⟨_, w.place hr h0 h1 h2, if_pos (⟨hlo, hhi, hnamed, hfit⟩ : _ ∧ _ ∧ _ ∧ _) ▸ w.placed hfit⟩
      · have hask := w.place hr h0 h1 h2
        have hnot : ¬(d * 96 ≤ core ∧ core < d * 96 + 96 ∧ r.cands.testBit (core - d * 96) = true ∧ s.fits id l [core] = true) := by
          rintro ⟨hlo, hhi, hnamed, hfit⟩
          simp only [hnamed, hfit, Bool.true_eq_false, or_false] at hno
          omega
        rw [if_neg hnot] at hask
        exact ⟨_, hask, askKernelPlace_frame.1, w.askKernelPlace_preqs⟩
  · obtain ⟨hslots, hsp, ⟨htiles, htnd, htfree⟩, houtrs, hond, hofree⟩ := room_some hroom
    exact ⟨hslots.count, hslots.nodup, room_slots hroom, fun q hq => hslots.blocks q _ _ (quads_get.2 ⟨hq, rfl, rfl⟩), hsp, htiles, htnd, houtrs, hond,
      htfree, hofree⟩

end

section
/-! What the machine's own accesses leave as it is (R480): they change memory, a partition's dirty-bitmap register and messages to the outside,
and a walk the caches of translation besides. Said of any view of the state that looks at none of these. -/

namespace Sys2Proof.Machine

/-- A view of the state that no access of the hub's can change: it does not look at memory, at sys.dmapctl (R58) or at messages to the outside. -/
structure OffMemory {β : Type} (g : State → β) : Prop where
  mem : ∀ s m, g { s with mem := m } = g s
  dmap : ∀ (s : State) p v, g (s.setPreg p 0x065 v) = g s
  out : ∀ s o, g { s with outbox := o } = g s

/-- A view that no walk can change either: it does not look at the caches of translation or at free values. -/
structure OffWalk {β : Type} (g : State → β) : Prop extends OffMemory g where
  caches : ∀ (s : State) a b c d e, g { s with xl := { s.xl with dtlb := a, ctlb := b, ftlb := c, wcache := d, s2c := e } } = g s
  fresh : ∀ s n, g { s with fresh := n } = g s
  blocks : ∀ (s : State) b, g { s with eng := { s.eng with btc := b } } = g s

/-! ### Lines and granules -/

section
variable {β : Type} {g : State → β} {s s' : State} (hg : OffMemory g)
include hg

theorem OffMemory.hostWrite (h n v : Nat) : g (s.hostWrite h n v) = g s := by
  obtain ⟨m, hm⟩ := hostWrite_frame s h n v
  rw [hm, hg.mem]

theorem OffMemory.setGran (k : Nat) (e : Word) : g (s.setGran k e) = g s := by
  obtain ⟨m, hm⟩ := setGran_frame s k e
  rw [hm, hg.mem]

theorem OffMemory.orGranWb (h : Nat) (wb : Waybill) : g (s.orGranWb h wb) = g s := by
  unfold State.orGranWb
  split
  · rfl
  · exact hg.setGran _ _

theorem OffMemory.markDirty (p a : Nat) : g (s.markDirty p a) = g s := by
  unfold State.markDirty
  simp only
  split
  · rfl
  · split
    · exact hg.dmap _ _ _
    · split
      · rfl
      · exact hg.hostWrite _ _ _

theorem OffMemory.markDirtyFor (i : Bool) (t a : Nat) : g (s.markDirtyFor i t a) = g s := by
  unfold State.markDirtyFor
  split
  · rfl
  · split
    · rfl
    · exact hg.markDirty _ _

theorem OffMemory.refill (i : Bool) (t n : Nat) : g (s.refill i t n) = g s := by
  unfold State.refill
  split
  · rfl
  · exact hg.mem _ _

theorem OffMemory.charge (k : Nat) (p : Option Nat) : g (s.charge k p) = g s := by
  unfold State.charge
  rw [chargeLines_frame, hg.mem]

theorem OffMemory.putL2 (i : Bool) (t n : Nat) (l : L2Line) : g (s.putL2 i t n l) = g s := hg.mem _ _

theorem OffMemory.storeLine (i : Bool) (t n : Nat) (d : Line) (wb : Waybill) (p : Nat) : g (s.storeLine i t n d wb p) = g s := by
  unfold State.storeLine
  split
  · exact hg.out _ _
  · split
    · rw [hg.charge, hg.refill, hg.markDirtyFor, hg.orGranWb, hg.mem]
    · rfl

theorem OffMemory.cleanL2 (i : Bool) (t n : Nat) : g (s.cleanL2 i t n) = g s := by
  unfold State.cleanL2
  split
  · rfl
  · split
    · rw [hg.putL2, hg.storeLine]
    · rfl

theorem OffMemory.evictFor (n : Nat) : g (s.evictFor n) = g s := by
  unfold State.evictFor
  simp only
  split
  · split
    · rfl
    · exact (hg.mem _ _).trans (hg.cleanL2 _ _ _)
  · rfl

theorem OffMemory.installL2 (i : Bool) (t n : Nat) (x : Line × Bool × Waybill × Nat) : g (s.installL2 i t n x) = g s := by
  unfold State.installL2
  rw [hg.putL2, hg.evictFor]

theorem OffMemory.ensureL2 {i : Bool} {t n : Nat} (h : s.ensureL2 i t n = some s') : g s' = g s := by
  unfold State.ensureL2 at h
  split at h
  · cases h; rfl
  · obtain ⟨x, -, rfl⟩ := Option.map_eq_some_iff.1 h
    rw [hg.charge, hg.installL2]

theorem OffMemory.readL2 {i : Bool} {t a n : Nat} {r : Nat × Waybill × State} (h : s.readL2 i t a n = some r) : g r.2.2 = g s := by
  unfold State.readL2 at h
  split at h
  · obtain ⟨x, -, rfl⟩ := Option.map_eq_some_iff.1 h
    rfl
  · split at h
    · cases h
    · next s1 he =>
      split at h
      · cases h
      · cases h; exact hg.ensureL2 he

theorem OffMemory.writeL2 {i : Bool} {t a n v : Nat} {wb : Waybill} (h : s.writeL2 i t a n v wb = some s') : g s' = g s := by
  unfold State.writeL2 at h
  split at h
  · obtain ⟨x, -, rfl⟩ := Option.map_eq_some_iff.1 h
    exact hg.storeLine _ _ _ _ _ _
  · split at h
    · cases h
    · next s1 he =>
      split at h
      · cases h
      · cases h; exact (hg.putL2 _ _ _ _).trans (hg.ensureL2 he)

theorem OffMemory.claim (h w : Nat) : g (s.claim h w) = g s := by
  unfold State.claim
  simp only
  split
  · split
    · exact hg.setGran _ _
    · rfl
  · rfl

/-! ### The hub and its rings -/

theorem OffMemory.hubWorld {p : Option Nat} {a : Nat} {r : Bool × Nat × State} (h : s.hubWorld p a = some r) : g r.2.2 = g s := by
  unfold State.hubWorld at h
  split at h
  · cases h; rfl
  · split at h
    · cases h
    · cases h; exact hg.claim _ _

theorem OffMemory.hubRead {p : Option Nat} {a n : Nat} {r : Nat × State} (h : s.hubRead p a n = some r) : g r.2 = g s := by
  unfold State.hubRead at h
  split at h
  · cases h
  · next i w s1 hw =>
    obtain ⟨x, hx, rfl⟩ := Option.map_eq_some_iff.1 h
    exact (hg.readL2 hx).trans (hg.hubWorld hw :)

/-- A write that may be lost. -/
theorem OffMemory.hubWrite (p : Option Nat) (a n v : Nat) (wb : Waybill) : g ((s.hubWrite p a n v wb).getD s) = g s := by
  cases h : s.hubWrite p a n v wb with
  | none => rfl
  | some s' =>
    unfold State.hubWrite at h
    split at h
    · cases h
    · split at h
      · cases h
      · next i w s1 hw => exact (hg.writeL2 h).trans (hg.hubWorld hw :)

theorem OffMemory.hubPut (p : Option Nat) (a : Nat) (wb : Waybill) (bs : List Byte) : g (s.hubPut p a wb bs) = g s :=
  foldl_keeps (fun _ _ => hg.hubWrite _ _ _ _ _) _ _

theorem OffMemory.hubBytes (p : Option Nat) (a n : Nat) : g (s.hubBytes p a n).2 = g s := by
  unfold State.hubBytes
  refine foldl_keeps (g := fun r : List Byte × State => g r.2) (fun r c => ?_) _ _
  split
  · rfl
  · next h => exact hg.hubRead h

theorem OffMemory.ringPutN (p : Option Nat) (ctl sz rec : Nat) (wb : Waybill) : g (s.ringPutN p ctl sz rec wb) = g s := by
  unfold State.ringPutN
  split
  · rfl
  · split
    · rfl
    · next head s1 h1 =>
      have hs1 : g s1 = g s := hg.hubRead h1
      split
      · simp only
        split
        · split
          · exact hs1
          · next h2 => exact (hg.hubWrite _ _ _ _ _).trans ((hg.hubRead h2 :).trans hs1)
        · exact (hg.hubWrite _ _ _ _ _).trans ((hg.hubPut _ _ _ _).trans hs1)
      · exact hs1

end

/-! ### Walks and translations -/

section
variable {β : Type} {g : State → β} {s s' : State} (hg : OffWalk g)
include hg

theorem OffWalk.keepS2 (p a : Nat) : g (s.keepS2 p a) = g s := by
  unfold State.keepS2
  split
  · rfl
  · simp only
    split
    · rfl
    · exact hg.caches s s.xl.dtlb s.xl.ctlb s.xl.ftlb s.xl.wcache _

theorem OffWalk.tableRead {w a : Nat} {r : Dword × State} (h : s.tableRead w a = .ok r) : g r.2 = g s := by
  unfold State.tableRead at h
  simp only at h
  split at h
  · cases h
  · split at h
    · cases h
    · split at h
      · cases h
      · split at h
        · cases h
        · next hr => cases h; exact hg.readL2 hr

theorem OffWalk.tableWrite (w a : Nat) (e : Dword) : g (s.tableWrite w a e) = g s := by
  unfold State.tableWrite
  split
  · rfl
  · next i t a _ _ _ =>
    cases h : s.writeL2 i t a 8 e.toNat 0 with
    | none => rfl
    | some s' => exact hg.writeL2 h

theorem OffWalk.follow64 (w a : Nat) (e : Dword) : g (s.follow64 w a e).2.2 = g s := by
  unfold State.follow64
  simp only
  split
  · rfl
  · next h =>
    split
    · rfl
    · exact (hg.fresh _ _).trans (hg.tableRead h)

theorem OffWalk.walkFrom (w va die f base n : Nat) : g (walkFrom w va die f base n s).2 = g s := by
  induction f generalizing base n s with
  | zero => rfl
  | succ f ih =>
    unfold Machine.walkFrom
    simp only
    split
    · exact ih _ _
    · split
      · rfl
      · next e s1 h =>
        have hs1 : g s1 = g s := hg.tableRead h
        split
        · exact (ih _ _).trans ((hg.caches s1 s1.xl.dtlb s1.xl.ctlb s1.xl.ftlb _ s1.xl.s2c).trans hs1)
        · split
          · exact hs1
          · split
            · have hs2 := (hg.follow64 w (base + 8 * (va % 2 ^ 57 / 2 ^ (12 + 9 * n) % 512)) e).trans hs1
              split
              · exact hs2
              · split <;> exact hs2
            · split <;> exact hs1

theorem OffWalk.walk (w va die : Nat) : g (s.walk w va die).2 = g s := by
  unfold State.walk
  simp only
  split
  · exact hg.walkFrom _ _ _ _ _ _
  · rfl

theorem OffWalk.granCheck (w a h : Nat) (e : TlbE) : g (s.granCheck w a h e).2.2 = g s := by
  unfold State.granCheck
  split
  · rfl
  · split
    · simp only
      split
      · rfl
      · exact hg.claim _ _
    · rfl

theorem OffWalk.tlbFill (core : Nat) (fetch : Bool) (e : TlbE) : g (s.tlbFill core fetch e) = g s := by
  cases fetch
  · exact hg.caches s _ _ s.xl.ftlb s.xl.wcache s.xl.s2c
  · exact hg.caches s _ s.xl.ctlb _ s.xl.wcache s.xl.s2c

theorem OffWalk.shootPage (w va : Nat) : g (s.shootPage w va) = g s := (hg.blocks _ _).trans (hg.caches s _ _ _ _ s.xl.s2c)

theorem OffWalk.xlateDone (core w va acc : Nat) (fetch : Bool) (e : TlbE) (gpa o hpa : Nat) (a : Option Nat) :
    g (s.xlateDone core w va acc fetch e gpa o hpa a).2 = g s := by
  unfold State.xlateDone
  split
  · exact hg.tlbFill _ _ _
  · next a =>
    have hw : g (if leafAfter e.leaf acc = e.leaf then s else s.tableWrite w a (leafAfter e.leaf acc)) = g s := by
      split
      · rfl
      · exact hg.tableWrite _ _ _
    simp only
    rw [hg.tlbFill]
    split
    · exact (hg.mem _ _).trans ((hg.shootPage _ _).trans hw)
    · exact hw

theorem OffWalk.xlateEntry (core w va acc lvl : Nat) (fetch : Bool) (e : TlbE) (a hole : Option Nat) :
    g (s.xlateEntry core w va acc lvl fetch e a hole).2 = g s := by
  have hchecked : ∀ (gpa hpa lv : Nat), g (match leafCheck (s.granCheck w gpa hpa e).2.1 acc lvl true lv (s.granCheck w gpa hpa e).1.2.1
      (s.granCheck w gpa hpa e).1.2.2 with
      | some r => (r, (s.granCheck w gpa hpa e).2.2)
      | none => (s.granCheck w gpa hpa e).2.2.xlateDone core w va acc fetch (s.granCheck w gpa hpa e).2.1 gpa (s.granCheck w gpa hpa e).1.1 hpa a).2 =
        g s := by
    intro gpa hpa lv
    split
    · exact hg.granCheck _ _ _ _
    · exact (hg.xlateDone _ _ _ _ _ _ _ _ _ _).trans (hg.granCheck _ _ _ _)
  unfold State.xlateEntry
  simp only
  split
  · split <;> rfl
  · split
    · split
      · rfl
      · exact hchecked _ _ _
    · exact hchecked _ _ _

omit hg in
theorem xlate0_state (va acc : Nat) : (s.xlate0 va acc).2 = s := by
  unfold State.xlate0
  generalize (if regionOf va = .hbm then s.gran (va / 4096) else 0) = k
  simp only
  split
  · rfl
  · split
    · rfl
    · split <;> rfl

theorem OffWalk.xlate (core w va acc lvl : Nat) : g (s.xlate core w va acc lvl).2 = g s := by
  unfold State.xlate
  simp only
  split
  · rw [xlate0_state]
  · split
    · exact hg.xlateEntry _ _ _ _ _ _ _ _ _
    · have hwalk : g (s.walk w (va % 2 ^ 57) (dieOf core)).2 = g s := hg.walk _ _ _
      split
      · next h => rw [h] at hwalk; exact hwalk
      · next h =>
        rw [h] at hwalk
        split
        · exact hwalk
        · split <;> exact (hg.xlateEntry _ _ _ _ _ _ _ _ _).trans ((hg.keepS2 _ _).trans hwalk)

theorem OffWalk.leavesOf (w va size : Nat) : g (s.leavesOf w va size).2 = g s := by
  have hwalk : g (s.walk w (va % 2 ^ 57) 0).2 = g s := hg.walk _ _ _
  unfold State.leavesOf
  split
  · next h => rw [h] at hwalk; exact hwalk
  · next h =>
    rw [h] at hwalk
    split <;> exact hwalk

end

end Sys2Proof.Machine
end

section
/-! The messages of remote pages (O36): a request's turn among those that wait (R107, R118), the holder of a copy (R109, R118, R119), the requester
(R118) and the home (R116, R125, R431, R432). -/

namespace Sys2Proof.Machine

section
variable {s s' : State}

/-! ### A request's turn -/

section
variable {i : Instr} {busy : Bool} {k : State → Out}

/-- Do others wait before a request for what it names? -/
def State.outwaited (s : State) (i : Instr) : Bool := s.way.waits.any (fun w => waitKey w.1 w.2 == waitKey i s.arg)

theorem waitTurn_serves (ha : s.arg.again = false) (hb : busy = false) (hw : s.outwaited i = false) : s.waitTurn i busy k = k s := by
  unfold State.outwaited at hw
  simp [State.waitTurn, ha, hb, hw]

theorem waitTurn_waits (ha : s.arg.again = false) (h : busy = true ∨ s.outwaited i = true) :
    s.waitTurn i busy k = .next { s with way := { s.way with waits := s.way.waits ++ [(i, s.arg)] } } := by
  unfold State.outwaited at h
  rw [← Bool.or_eq_true] at h
  simp only [State.waitTurn, ha, h, Bool.false_eq_true, if_false, if_true]

theorem waitTurn_busy_again (ha : s.arg.again = true) (hb : busy = true) : s.waitTurn i busy k = .next s := by
  simp [State.waitTurn, ha, hb]

/-- A request that is looked at again and finds its page free leaves the list of those that wait. -/
theorem waitTurn_again (ha : s.arg.again = true) (hb : busy = false) : s.waitTurn i busy k =
    k { s with way := { s.way with waits := s.way.waits.eraseP (fun w => w.1 == i && w.2.retry == s.arg) } } := by
  simp [State.waitTurn, ha, hb]

end

/-! ### What the home's steps leave of the event's numbers -/

theorem argOff : OffWalk State.arg :=
  ⟨⟨fun _ _ => rfl, fun _ _ _ => rfl, fun _ _ => rfl⟩, fun _ _ _ _ _ _ => rfl, fun _ _ => rfl, fun _ _ => rfl⟩

theorem argN_of_arg (h : s'.arg = s.arg) (k : Nat) : s'.argN k = s.argN k := congrArg (fun a : Arg => a.n.getD k 0) h

section
variable {β : Type} {g : State → β} (hg : OffMemory g)
include hg

theorem OffMemory.claimFrame (p gpa z : Nat) : g (s.claimFrame p gpa z) = g s := by
  unfold State.claimFrame
  refine foldl_keeps (fun s k => ?_) _ _
  cases h : s.hubWorld (some p) (gpa + 4096 * k) with
  | none => rfl
  | some r => exact hg.hubWorld h

theorem OffMemory.pageData (w z gpa : Nat) : g (s.pageData w z gpa).2.2.2 = g s := by
  unfold State.pageData
  split
  · rfl
  · exact foldl_keeps (fun _ _ => hg.cleanL2 _ _ _) _ _

theorem OffMemory.fillFrame (w z gpa : Nat) (bs : List Byte) (wbs po : List Nat) : g (s.fillFrame w z gpa bs wbs po) = g s := by
  unfold State.fillFrame
  split
  · rfl
  · refine (foldl_keeps (fun s k => ?_) _ _).trans ((hg.mem _ _).trans (hg.mem s _))
    simp only
    split
    · rfl
    · split
      · rfl
      · rw [hg.markDirty]
        split <;> exact (hg.mem _ _).trans (hg.setGran _ _)

theorem OffMemory.mfRead (p a : Nat) : g (s.mfRead p a).2 = g s := hg.hubBytes _ _ _

theorem OffMemory.mfWrite (p a x : Nat) : g (s.mfWrite p a x) = g s := hg.hubPut _ _ _ _

theorem OffMemory.mfScan (p w z vpn : Nat) (l : List Nat) : g (mfScan p w z vpn l s).2 = g s := by
  induction l generalizing s with
  | nil => rfl
  | cons a l ih =>
    unfold Machine.mfScan
    simp only
    split
    · exact hg.mfRead _ _
    · exact ih.trans (hg.mfRead _ _)

theorem OffMemory.mfFind (p w z vpn : Nat) : g (s.mfFind p w z vpn).2 = g s := by
  unfold State.mfFind
  simp only
  split
  · rfl
  · exact hg.mfScan _ _ _ _ _

theorem OffMemory.dirOf {w z vpn : Nat} {r : Nat × State} (h : s.dirOf w z vpn = some r) : g r.2 = g s := by
  unfold State.dirOf at h
  split at h
  · cases h
  · simp only at h
    split at h
    · cases h
    · split at h
      · cases h
      · next hr =>
        split at h
        · cases h; exact (hg.hubRead hr :)
        · cases h

theorem OffMemory.entryMoved (peer w z vpn v : Nat) : g (s.entryMoved peer w z vpn v).2 = g s := by
  unfold State.entryMoved
  split
  · rfl
  · split
    · next d s1 h =>
      have hs1 : g s1 = g s := hg.dirOf h
      split
      · exact hs1
      · split
        · exact hs1
        · next p _ =>
          have hf : g (s1.mfFind p w z vpn).2 = g s := (hg.mfFind _ _ _ _).trans hs1
          split <;> (next hm => rw [hm] at hf; exact hf)
    · rfl

end

/-! ### The holder of a copy -/

/-- The kinds of request that wait at the holder of a copy are named by their page there alone. -/
theorem holder_not_outwaited {i : Instr} (hi : i = .invalidation ∨ i = .ownerWriteback)
    (h : ∀ y ∈ s.way.waits, y.1 = .directoryLookup ∨ y.1 = .ownershipRequest ∨ y.1 = .directoryEntryUpdate ∨
      (y.2.n.drop 2).take 3 ≠ (s.arg.n.drop 2).take 3) : s.outwaited i = false := by
  have hkey : waitKey i s.arg = (false, (s.arg.n.drop 2).take 3) := by rcases hi with rfl | rfl <;> rfl
  refine List.any_eq_false.2 fun ⟨j, a⟩ hy => ?_
  rw [hkey]
  rcases h _ hy with hj | hj | hj | hne
  · simp only at hj; subst hj; simp [waitKey]
  · simp only at hj; subst hj; simp [waitKey]
  · simp only at hj; subst hj; simp [waitKey]
  · unfold waitKey
    split
    · simp
    · simpa using fun _ _ => hne

section
variable {i : Instr} {dir job w z vpn : Nat} {keep : Bool} {entry : Option Nat} {c : Copy} (ha : s.arg.again = false) (hw : s.outwaited i = false)
  (hl : s.way.evicts.any (fun x => x.copy.world == w && x.copy.size == z && x.copy.vpn == vpn) = false)
include ha hw hl

theorem giveBack_absent (hc : s.copy? w z vpn = none) :
    s.giveBack i dir job w z vpn keep entry = .next ((s.uncache w z vpn).sendWay dir 9 [job, 0] []) := by
  unfold State.giveBack
  rw [waitTurn_serves ha hl hw, hc]

theorem giveBack_held (hc : s.copy? w z vpn = some c) : s.giveBack i dir job w z vpn keep entry =
    let x : Evict := ⟨{ c with entry := entry.getD c.entry }, (s.partOf w).getD 0, false, 0, none, some (dir, job), keep, [], s.time⟩
    .next ({ s with way := { s.way with evicts := s.way.evicts ++ [x] } }.evictGo x) := by
  unfold State.giveBack
  rw [waitTurn_serves ha hl hw, hc]

end

/-- An invalidation of a page that is being evicted waits for that; looked at again, it goes on waiting. -/
theorem invalidation_leaving
    (hl : s.way.evicts.any (fun x => x.copy.world == s.argN 2 && x.copy.size == s.argN 3 && x.copy.vpn == s.argN 4) = true) :
    (s.arg.again = false → exec .invalidation s = .next { s with way := { s.way with waits := s.way.waits ++ [(.invalidation, s.arg)] } }) ∧
    (s.arg.again = true → exec .invalidation s = .next s) := by
  change (_ → execInvalidation s = _) ∧ (_ → execInvalidation s = _)
  unfold execInvalidation State.giveBack
  exact ⟨fun ha => waitTurn_waits ha (.inl hl), fun ha => waitTurn_busy_again ha hl⟩

theorem pinnedTimeout_answers {x : Evict} {d job : Nat} (hx : s.way.evicts.find? (fun y => y.key == s.argN 0) = some x) (h0 : x.st = 0)
    (hr : x.reply = some (d, job)) : exec .invalidationPinnedTimeout s =
      if x.since + s.wsEv x.part ≤ s.time then .next ((s.dropEvict x).sendWay d 9 [job, 1] []) else .next s := by
  change execInvalidationPinnedTimeout s = _
  unfold execInvalidationPinnedTimeout
  rw [hx]
  simp only [h0, hr]

/-! ### The requester -/

section
variable {e : Pend}

section
variable (he : s.pend? (s.argN 1) = some e) (h5 : e.st = 5)
include he h5

theorem ownershipAnswer_granted (h0 : s.argN 2 = 0) : exec .ownershipAnswer s = .next
    (if s.argN 3 = 1 then s.install { e with owned := true, entry := setBits e.entry 64 32 (s.argN 4), st := 6 }
    else s.drawFrame { e with owned := true, entry := setBits e.entry 64 32 (s.argN 4) }) := by
  change execOwnershipAnswer s = _
  unfold execOwnershipAnswer
  simp only [he, h5, h0, ne_eq, not_true, if_false]
  split <;> rfl

theorem ownershipAnswer_moved (h0 : s.argN 2 = 0x21) : exec .ownershipAnswer s = .next
    (if s.wsRt (s.pendPart e) < e.attempts then s.decline e 6 (s.argN 0) 0x21
    else (s.uncache e.world e.size e.vpn).askDirectory { e with ownMoves := e.attempts, attempts := 0, owned := false }) := by
  change execOwnershipAnswer s = _
  unfold execOwnershipAnswer
  simp only [he, h5, h0, ne_eq, not_true, if_false]
  split <;> rfl

theorem ownershipAnswer_refused (h0 : s.argN 2 ∉ [0, 0x21]) : exec .ownershipAnswer s = .next
    (if s.argN 2 = 0x29 then s.decline e 0x0A (s.argN 0) 0 else if s.argN 2 = 0x100 then s.decline e 9 (s.argN 0) 0
    else s.decline e 6 (s.argN 0) (s.argN 2)) := by
  simp only [List.mem_cons, List.not_mem_nil, or_false, not_or] at h0
  change execOwnershipAnswer s = _
  unfold execOwnershipAnswer
  simp only [he, h5, ne_eq, not_true, if_false]
  split
  · next h => exact absurd h h0.1
  · next h => exact absurd h h0.2
  · next h => rw [h, if_pos rfl]
  · next h => rw [h, if_neg (by decide), if_pos rfl]
  · next h1 h2 => rw [if_neg h1, if_neg h2]

end

theorem ownershipTimeout_outcome (he : s.pend? (s.argN 0) = some e) (h5 : e.st = 5) : exec .ownershipTimeout s = .next
    (if s.time < e.since + s.wsFr (s.pendPart e) + s.wsEv (s.pendPart e) then s
    else if s.wsRt (s.pendPart e) < e.attempts then s.decline e 9 (((s.dirOf e.world e.size e.vpn).map Prod.fst).getD 0) 0
    else s.askOwner e) := by
  change execOwnershipTimeout s = _
  unfold execOwnershipTimeout
  simp only [he, h5, ne_eq, not_true, false_or]
  split
  · rfl
  · split <;> rfl

end

/-! ### The home -/

/-- The answer to a read of a page, and to a write-back of one, in a later state of the same event. -/
def State.readAnswer (s s1 : State) (c : Nat) : State := s1.sendWay (s.argN 0) 11 [s.argN 1, c, s.argN 7] []
def State.writeAnswer (s s1 : State) (c r : Nat) : State := s1.sendWay (s.argN 0) 2 [s.argN 1, c, r] []

theorem readAnswer_later (h : s'.arg = s.arg) (c : Nat) : s'.sendWay (s.argN 0) 11 [s'.argN 1, c, s'.argN 7] [] = s.readAnswer s' c := by
  rw [argN_of_arg h, argN_of_arg h, State.readAnswer]

theorem pageRead_unbound (h : s.topPart (s.argN 2) = none) : exec .pageRead s = .next (s.readAnswer s 0x23) := by
  change execPageRead s = _
  unfold execPageRead
  simp only [h]
  rfl

theorem gateOk_arg {es : List Egress} (h : s.gate es = .ok s') : s'.arg = s.arg := by
  have hgate := gate_arg (s := s) es
  rwa [h] at hgate

theorem gateError_arg {es : List Egress} {e : Egress} {g : Word} (h : s.gate es = .error (e, g, s')) : s'.arg = s.arg := by
  have hgate := gate_arg (s := s) es
  rwa [h] at hgate

/-- Is the granule of a mapped cell sealed? -/
def cellSealed : Option (Dword × Word) → Bool
  | some (_, g) => granSealed g
  | none => false

theorem cellSealed_iff {c : Option (Dword × Word)} : cellSealed c = true ↔ ∃ a b, c = some (a, b) ∧ granSealed b = true := by
  rcases c with _ | ⟨a, b⟩ <;> simp [cellSealed]

/-- The part of an egress that a page's data is. -/
def pagePart (w peer z : Nat) (wbs : List Nat) : Egress :=
  ⟨w, wbs.foldl (fun a v => a ||| BitVec.ofNat 16 v) 0, destPackage peer, 2 ^ pageBits z⟩

section
variable {q : Nat} {s1 : State} (hq : s.topPart (s.argN 2) = some q) (hs : s1 = s.claimFrame q (s.argN 5) (s.argN 3))
include hq hs

omit hq in
theorem claimed_arg : s1.arg = s.arg := by rw [hs]; exact argOff.claimFrame _ _ _

theorem pageRead_unowned (ho : s1.ownsFrame q (s.argN 2) (s.argN 5) (s.argN 3) = false) : exec .pageRead s = .next (s.readAnswer s1 0x27) := by
  have h1 := claimed_arg hs
  change execPageRead s = _
  unfold execPageRead
  simp only [hq, ← hs, argN_of_arg h1, ho]
  rfl

section
variable (ho : s1.ownsFrame q (s.argN 2) (s.argN 5) (s.argN 3) = true)
include ho

theorem pageRead_moved {s2 : State} (hm : s1.entryMoved (s.argN 0) (s.argN 2) (s.argN 3) (s.argN 4) (s.argN 6) = (true, s2)) :
    exec .pageRead s = .next (s.readAnswer s2 0x21) := by
  have h1 := claimed_arg hs
  have h2 : s2.arg = s.arg := by
    have h := argOff.entryMoved (s := s1) (s.argN 0) (s.argN 2) (s.argN 3) (s.argN 4) (s.argN 6)
    rw [hm] at h
    exact h.trans h1
  change execPageRead s = _
  unfold execPageRead
  simp only [hq, ← hs, argN_of_arg h1, ho, hm, argN_of_arg h2]
  rfl

/-- A page that has not moved is sent, unless the gate refuses it to a package that is not attested. -/
theorem pageRead_sends {s2 s3 : State} {bs : List Byte} {wbs po : List Nat}
    (hm : s1.entryMoved (s.argN 0) (s.argN 2) (s.argN 3) (s.argN 4) (s.argN 6) = (false, s2))
    (hd : s2.pageData (s.argN 2) (s.argN 3) (s.argN 5) = (bs, wbs, po, s3)) : exec .pageRead s = .next
      (match s3.gate (if s3.attestedFor (s.argN 2) (s.argN 0) then [] else [pagePart (s.argN 2) (s.argN 0) (s.argN 3) wbs]) with
      | .error (_, _, s4) => s.readAnswer s4 cEGRESS
      | .ok s4 => s4.sendWay (s.argN 0) 11 ([s.argN 1, 0, s.argN 7] ++ wbs ++ po) bs) := by
  have h1 := claimed_arg hs
  have h2 : s2.arg = s.arg := by
    have h := argOff.entryMoved (s := s1) (s.argN 0) (s.argN 2) (s.argN 3) (s.argN 4) (s.argN 6)
    rw [hm] at h
    exact h.trans h1
  have h3 : s3.arg = s.arg := by
    have h := argOff.pageData (s := s2) (s.argN 2) (s.argN 3) (s.argN 5)
    rw [hd] at h
    exact h.trans h2
  change execPageRead s = _
  unfold execPageRead
  simp only [hq, ← hs, argN_of_arg h1, ho, hm, argN_of_arg h2, hd, argN_of_arg h3, Bool.not_true, Bool.false_eq_true, if_false]
  change (match s3.gate (if s3.attestedFor (s.argN 2) (s.argN 0) then [] else [pagePart (s.argN 2) (s.argN 0) (s.argN 3) wbs]) with
    | .error (_, _, s4) => _
    | .ok s4 => _) = _
  split
  · next hgate => rw [readAnswer_later ((gateError_arg hgate).trans h3)]
  · next hgate =>
    rw [argN_of_arg ((gateOk_arg hgate).trans h3), argN_of_arg ((gateOk_arg hgate).trans h3)]

end

theorem pageWriteback_unowned (ho : s1.ownsFrame q (s.argN 2) (s.argN 5) (s.argN 3) = false) :
    exec .pageWriteback s = .next (s.writeAnswer s1 0x27 0) := by
  have h1 := claimed_arg hs
  change execPageWriteback s = _
  unfold execPageWriteback
  simp only [hq, ← hs, argN_of_arg h1, ho]
  rfl

section
variable (ho : s1.ownsFrame q (s.argN 2) (s.argN 5) (s.argN 3) = true)
include ho

theorem pageWriteback_sealed (hg : ∃ g ∈ s1.frameGrans q (s.argN 5) (s.argN 3), ∃ a b, g.2 = some (a, b) ∧ granSealed b = true) :
    exec .pageWriteback s = .next (s.writeAnswer s1 cSEALED 12) := by
  have h1 := claimed_arg hs
  obtain ⟨g, hmem, a, b, hgr, hsealed⟩ := hg
  have hany : (s1.frameGrans q (s.argN 5) (s.argN 3)).any (fun x => cellSealed x.2) = true :=
    List.any_eq_true.2 ⟨g, hmem, by rw [hgr]; exact hsealed⟩
  change execPageWriteback s = _
  unfold execPageWriteback
  simp only [hq, ← hs, argN_of_arg h1, ho, Bool.not_true, Bool.false_eq_true, if_false]
  exact if_pos hany

/-- What is written back enters its frame, under the version it was written back under. -/
theorem pageWriteback_performs (hg : ∀ g ∈ s1.frameGrans q (s.argN 5) (s.argN 3), ∀ a b, g.2 = some (a, b) → granSealed b = false) {s2 : State}
    (hs2 : s2 = { s1 with way := { s1.way with
      homeVer := tset 0 s1.way.homeVer (pageKey (s.argN 2) (s.argN 3) (s.argN 4)) (s.argN 7) } }) : exec .pageWriteback s = .next (s.writeAnswer
      (s2.fillFrame (s.argN 2) (s.argN 3) (s.argN 5) s.arg.bytes ((s.arg.n.drop 8).take (s.argN 6)) (s.arg.n.drop (8 + s.argN 6))) 0 0) := by
  have h1 := claimed_arg hs
  have h2 : s2.arg = s.arg := by rw [hs2]; exact h1
  have h3 : ∀ z gpa bs wbs po, (s2.fillFrame (s.argN 2) z gpa bs wbs po).arg = s.arg := fun _ _ _ _ _ => (argOff.fillFrame _ _ _ _ _ _).trans h2
  have hany : ¬ (s1.frameGrans q (s.argN 5) (s.argN 3)).any (fun x => cellSealed x.2) = true := by
    rw [List.any_eq_true]
    rintro ⟨⟨k, c⟩, hmem, hsealed⟩
    obtain ⟨a, b, rfl, hb⟩ := cellSealed_iff.1 hsealed
    rw [hg _ hmem a b rfl] at hb
    cases hb
  change execPageWriteback s = _
  unfold execPageWriteback
  simp only [hq, ← hs, argN_of_arg h1, ho, Bool.not_true, Bool.false_eq_true, if_false, ← hs2, argN_of_arg h2, argN_of_arg (h3 _ _ _ _ _)]
  rw [h1]
  exact if_neg hany

end

end

end

end Sys2Proof.Machine

open Sys2Proof Sys2Proof.Machine

/-- Settles O36: each message of a remote page by its cases, from the lemmas about the holder, the requester and the home. -/
theorem remotePageMessages : Obligations.RemotePageMessages := by
  unfold Obligations.RemotePageMessages
  intro s e x d job w size vpn leaving first
  have hturn : first → s.outwaited .invalidation = false ∧ s.outwaited .ownerWriteback = false := fun ⟨_, h⟩ =>
    ⟨holder_not_outwaited (.inl rfl) h, holder_not_outwaited (.inr rfl) h⟩
  refine ⟨fun hl hf hc => ⟨_, giveBack_absent hf.1 (hturn hf).1 hl hc, rfl⟩, fun hl ha => ⟨_, (invalidation_leaving hl).1 ha, rfl⟩,
    fun hl ha => (invalidation_leaving hl).2 ha, fun c hl hf hc => ⟨⟨_, giveBack_held hf.1 (hturn hf).1 hl hc, rfl⟩,
      _, giveBack_held hf.1 (hturn hf).2 hl hc, rfl⟩,
    fun hx h0 hr => ⟨fun hlate => ⟨_, (pinnedTimeout_answers hx h0 hr).trans (if_pos hlate), rfl⟩,
      fun hearly => (pinnedTimeout_answers hx h0 hr).trans (if_neg (Nat.not_le.2 hearly))⟩,
    fun he h5 => ?_, fun he h5 => ?_, ⟨fun hq => ⟨_, pageRead_unbound hq, rfl⟩, fun q hq => ?_⟩, fun hq => ?_, fun q hq => ?_⟩
  · refine ⟨fun h0 h3 => ⟨_, ownershipAnswer_granted he h5 h0, if_pos h3⟩, fun h0 h3 => ⟨_, ownershipAnswer_granted he h5 h0, if_neg h3⟩,
      fun h0 hr => ⟨_, ownershipAnswer_moved he h5 h0, if_neg (Nat.not_lt.2 hr)⟩, fun h0 hr => ⟨_, ownershipAnswer_moved he h5 h0, if_pos hr⟩,
      fun h0 => ⟨_, ownershipAnswer_refused he h5 (by simp [h0]), if_pos h0⟩,
      fun h0 => ⟨_, ownershipAnswer_refused he h5 (by simp [h0]), by simp [h0]⟩, fun h0 => ?_⟩
    simp only [List.mem_cons, List.not_mem_nil, or_false, not_or] at h0
    obtain ⟨h0, h21, h29, h100⟩ := h0
    exact ⟨_, ownershipAnswer_refused he h5 (by simp [h0, h21]), (if_neg h29).trans (if_neg h100)⟩
  · have hout := ownershipTimeout_outcome he h5
    refine ⟨fun hearly => by rw [hout, if_pos hearly], fun hlate hr => ⟨_, hout, (if_neg (Nat.not_lt.2 hlate)).trans (if_neg (Nat.not_lt.2 hr))⟩,
      fun hlate hr => ⟨_, hout, _, (if_neg (Nat.not_lt.2 hlate)).trans (if_pos hr)⟩⟩
  · intro s1 moved
    refine ⟨fun ho => ⟨_, pageRead_unowned hq rfl ho, rfl⟩, fun ho hm => ⟨_, pageRead_moved hq rfl ho (Prod.ext hm rfl), rfl⟩, ?_, fun hv => ?_⟩
    · intro bs wbs po s2 ho hm hd part sends
      have hsends := pageRead_sends hq rfl ho (Prod.ext hm rfl) hd
      refine ⟨fun hatt => ?_, fun hme hatt => ?_⟩
      · have hfor : s2.attestedFor (s.argN 2) (s.argN 0) = true := by
          unfold State.attestedFor
          rcases hatt with h | h
          · simp [← h]
          · exact Bool.or_eq_true_iff.2 (.inr h)
        rw [hfor, if_pos rfl] at hsends
        exact ⟨_, hsends, rfl⟩
      · have hfor : s2.attestedFor (s.argN 2) (s.argN 0) = false := by
          unfold State.attestedFor
          rw [beq_false_of_ne hme]
          exact hatt
        rw [hfor, if_neg Bool.false_ne_true] at hsends
        refine ⟨fun s3 hg => ⟨_, hsends, ?_⟩, fun e g s3 hg => ⟨_, hsends, ?_⟩⟩ <;>
          rw [show s2.gate [pagePart (s.argN 2) (s.argN 0) (s.argN 3) wbs] = _ from hg]
        rfl
    · exact if_pos hv
  · refine ⟨_, ?_, rfl⟩
    change execPageWriteback s = _
    unfold execPageWriteback
    simp only [show s.topPart (s.argN 2) = none from hq]
  · exact ⟨fun ho => ⟨_, pageWriteback_unowned hq rfl ho, rfl⟩, fun ho hg => ⟨_, pageWriteback_sealed hq rfl ho hg, rfl⟩,
      fun ho hg => ⟨_, pageWriteback_performs hq rfl ho hg rfl, rfl⟩⟩

end

section
/-! How a page is found, fetched and installed (O33): the answers and timeouts of each state of a page-pending entry (R105 to R112, R120, R128). -/

namespace Sys2Proof.Machine

section
variable {s : State} {e : Pend}

/-! ### The waystation's times (R110) -/

/-- A field of sys.wsto of a partition's top-level partition. -/
theorem wsto_field (s : State) (p k n : Nat) : s.wsto p / 2 ^ k % 2 ^ n = ((s.preg (s.topOf p) 0x081).extractLsb' k n).toNat := by
  rw [BitVec.extractLsb'_toNat, Nat.shiftRight_eq_div_pow, State.wsto]

theorem wsMl_field (s : State) (p : Nat) : s.wsMl p = 3600 * (1 * ((s.preg (s.topOf p) 0x081).extractLsb' 0 8).toNat) := by
  rw [← wsto_field, pow_zero, Nat.div_one, one_mul]; rfl

theorem wsFr_field (s : State) (p : Nat) : s.wsFr p = 3600 * (1 * ((s.preg (s.topOf p) 0x081).extractLsb' 8 8).toNat) := by
  rw [← wsto_field, one_mul]; rfl

theorem wsEv_field (s : State) (p : Nat) : s.wsEv p = 3600 * (1 * ((s.preg (s.topOf p) 0x081).extractLsb' 16 8).toNat) := by
  rw [← wsto_field, one_mul]; rfl

theorem wsEt_field (s : State) (p : Nat) : s.wsEt p = 3600 * (1000 * ((s.preg (s.topOf p) 0x081).extractLsb' 24 6).toNat) := by
  rw [← wsto_field]; rfl

theorem wsRt_field (s : State) (p : Nat) : s.wsRt p = ((s.preg (s.topOf p) 0x081).extractLsb' 30 2).toNat := by
  rw [← wsto_field]; rfl

/-! ### LOOKUP (R106, R107, R110) -/

theorem lookupAnswer_outcome (he : s.pend? (s.argN 1) = some e) (h2 : e.st = 2) (ht : s.time < e.since + s.wsMl (s.pendPart e)) :
    exec .lookupAnswer s = .next
      (if s.argN 2 = 0 then (s.cacheEntry (s.argN 3)).afterLookup e (s.argN 3)
      else if s.argN 2 = 1 then s.decline e 3 (s.argN 0) 0
      else if s.argN 2 = 0x29 then s.decline e 0x0A (s.argN 0) 0 else s.decline e 6 (s.argN 0) (s.argN 2)) := by
  change execLookupAnswer s = _
  unfold execLookupAnswer
  simp only [he, h2, Nat.not_le.2 ht, ne_eq, not_true, or_self, if_false]
  split
  · next h => rw [h, if_pos rfl]
  · next h => rw [h, if_neg (by decide), if_pos rfl]
  · next h => rw [h, if_neg (by decide), if_neg (by decide), if_pos rfl]
  · next h0 h1 h29 => rw [if_neg h0, if_neg h1, if_neg h29]

theorem lookupTimeout_outcome (he : s.pend? (s.argN 0) = some e) (h2 : e.st = 2) : exec .lookupTimeout s = .next
    (if s.time < e.since + s.wsMl (s.pendPart e) then s
    else if s.wsRt (s.pendPart e) < e.attempts then
      s.decline e 2 (if s.wsmode (s.pendPart e) 3 then 0 else ((s.dirOf e.world e.size e.vpn).map Prod.fst).getD 0) 0
    else if s.wsmode (s.pendPart e) 3 then s.askKernel e else s.askDirectory e) := by
  change execLookupTimeout s = _
  unfold execLookupTimeout
  simp only [he, h2, ne_eq, not_true, false_or, ← apply_ite]

/-- Without the registers that R128 names the entry is declined. -/
theorem lookup_unset (h : s.preg (s.topOf (s.pendPart e)) 0x085 = 0 ∨ s.preg (s.topOf (s.pendPart e)) 0x086 = 0 ∨ s.preg (s.pendPart e) 0x082 = 0) :
    s.lookup e = s.decline { e with st := 2, attempts := 1 } 3 0 0 := by
  have hset : s.waySet (s.pendPart e) = false := by
    unfold State.waySet
    rcases h with h | h | h <;> simp [h]
  simp [State.lookup, hset]

/-- An entry of the manifest that is malformed, or in none of the states a page has, declines. -/
theorem afterLookup_malformed {x : Nat} (h : meHkind x = 3 ∨ 2 ≤ meState x) : s.afterLookup e x = s.decline { e with entry := x } 6 0 0x24 := by
  have h' : 3 ≤ meHkind x ∨ 2 ≤ meState x := h.imp (fun h => h.ge) id
  unfold State.afterLookup
  simp only [if_pos h']

/-- A copy whose frame every leaf names is the page's resident copy. -/
theorem resident_of_leaves {w z vpn : Nat} {ls : List Dword} {c : Copy} (hc : s.copy? w z vpn = some c) (hne : ls ≠ [])
    (hl : ∀ l ∈ ls, lfV l = true ∧ lfHome l = true ∧ entFrame l = c.frame) : s.resident w z vpn ls = some c := by
  have hm : c.mapped ls = true := by
    unfold Copy.mapped
    rw [Bool.and_eq_true, bne_iff_ne, List.all_eq_true]
    refine ⟨hne, fun l h => ?_⟩
    obtain ⟨hv, hh, hf⟩ := hl l h
    simp [hv, hh, hf]
  unfold State.resident
  rw [hc, Option.filter_some, if_pos hm]

/-- A listed sharer that holds its copy and wants to write asks for ownership. -/
theorem afterLookup_owns {x : Nat} {c : Copy} (hneed : e.need = true) (hk : meHkind x < 3) (hst : meState x = 0) (hme : meLists x s.me = true)
    (hc : s.resident e.world e.size e.vpn e.leaves = some c) : s.afterLookup e x = s.askOwner { e with entry := x, attempts := e.ownMoves } := by
  have hok : ¬ (3 ≤ meHkind x ∨ 2 ≤ meState x) := by omega
  unfold State.afterLookup
  simp only [if_neg hok]
  simp only [hneed, hme, hst, hc, BEq.rfl, Option.isSome_some, Bool.and_self, if_true]

/-! ### FETCH (R109 to R111) -/

theorem fetchComplete_stale (he : s.pend? (s.argN 1) = some e) (h : e.attempts ≠ s.argN 3 ∨ e.since + s.fetchTime e ≤ s.time) :
    exec .fetchComplete s = .next s := by
  change execFetchComplete s = _
  unfold execFetchComplete
  simp only [he, h, or_true, if_true]

section
variable (he : s.pend? (s.argN 1) = some e) (h4 : e.st = 4) (ha : e.attempts = s.argN 3) (ht : s.time < e.since + s.fetchTime e)
include he h4 ha ht

theorem fetchComplete_moved (hm : s.argN 2 = 0x21) : exec .fetchComplete s = .next
    (if s.wsRt (s.pendPart e) < e.attempts then s.decline e 6 (if meHkind e.entry = 1 then 0 else s.argN 0) 0x21
    else (s.uncache e.world e.size e.vpn).askDirectory { e with moves := e.attempts, attempts := 0, owned := false }) := by
  change execFetchComplete s = _
  unfold execFetchComplete
  simp only [he, h4, ← ha, Nat.not_le.2 ht, hm, ne_eq, not_true, or_self, if_false, if_true]
  split <;> rfl

theorem fetchComplete_refused (hm : s.argN 2 ≠ 0x21) (h0 : s.argN 2 ≠ 0) : exec .fetchComplete s = .next
    (s.decline e 6 (if meHkind e.entry = 1 then 0 else s.argN 0)
      (if meHkind e.entry = 1 then (if ((s.endpoint e.world (meEp e.entry)).map (fun x => epValid x.1)).getD false then 0x30 else 0x28)
      else s.argN 2)) := by
  change execFetchComplete s = _
  unfold execFetchComplete
  simp only [he, h4, ← ha, Nat.not_le.2 ht, hm, h0, ne_eq, not_true, not_false_eq_true, or_self, if_false, if_true]

/-- The page enters its frame, with the waybills its holder sent, or with an endpoint's ORIGINS (R427). -/
theorem fetchComplete_fills (h0 : s.argN 2 = 0) : exec .fetchComplete s = .next
    ((s.fillFrame e.world e.size (e.frame.getD 0) s.arg.bytes
      (if meHkind e.entry = 1 then
        List.replicate (pageGrans e.size) (((s.endpoint e.world (meEp e.entry)).map (fun x => (epOrigins x.1).toNat)).getD 0)
      else (s.arg.n.drop 4).take (pageGrans e.size)) (s.arg.n.drop (4 + pageGrans e.size))).afterFetch e) := by
  change execFetchComplete s = _
  unfold execFetchComplete
  simp only [he, h4, ← ha, Nat.not_le.2 ht, h0, ne_eq, not_true, or_self, if_false, show ¬ (0 = 0x21) by decide]

end

theorem fetchTimeout_outcome (he : s.pend? (s.argN 0) = some e) (h4 : e.st = 4) : exec .fetchTimeout s = .next
    (if s.time < e.since + s.fetchTime e then s
    else if s.wsRt (s.pendPart e) < e.attempts then
      s.decline e (if meHkind e.entry = 1 then 5 else 4) (if meHkind e.entry = 1 then 0 else meHome e.entry) 0
    else s.fetch e) := by
  change execFetchTimeout s = _
  unfold execFetchTimeout
  simp only [he, h4, ne_eq, not_true, false_or, ← apply_ite, beq_iff_eq]

/-! ### FRAME (R114, R115) -/

section
variable (he : s.pend? (s.argN 0) = some e) (h3 : e.st = 3) (hf : e.frame = none) (ht : e.since + s.wsEv (s.pendPart e) ≤ s.time)
include he h3 hf ht

theorem poolWaitTimeout_declines (hm : s.wsmode (s.pendPart e) 4 = true) : exec .poolWaitTimeout s = .next (s.decline e 8 0 0) := by
  change execPoolWaitTimeout s = _
  unfold execPoolWaitTimeout
  simp [he, h3, hf, ht, hm]

theorem pinnedTimeout_declines (hs : e.stuck = true) (hv : s.victim (s.topOf (s.pendPart e)) e.size = none)
    (hp : tget [] s.xl.pools (s.topOf (s.pendPart e) * 4 + e.size) = []) (hev : ∀ v ∈ s.way.evicts, v.for_ ≠ some e.id)
    (hsc : ∀ j ∈ s.xl.scrubs, j.for_ ≠ some e.id) : exec .pinnedTimeout s = .next (s.decline e 7 0 0) := by
  have hless : s.frameless e = true := by
    have h1 : s.way.evicts.any (fun x => x.for_ == some e.id) = false := by simpa using hev
    have h2 : s.xl.scrubs.any (fun j => j.for_ == some e.id) = false := by simpa using hsc
    simp [State.frameless, h3, hf, hp, h1, h2]
  change execPinnedTimeout s = _
  unfold execPinnedTimeout
  simp [he, hless, hs, hv, ht]

end

/-! ### ANSWER (R120) -/

theorem answer_outcome {x : Nat} {s1 : State} (hx : s.mfRead (s.topOf (s.argN 0)) (s.argN 1 % 2 ^ 52 / 64 * 64) = (x, s1))
    (he : s1.way.pends.find? (fun e => e.st == 2 && s1.topOf (s1.pendPart e) == s.topOf (s.argN 0) && s1.wsmode (s1.pendPart e) 3 &&
      meWorld x == e.world && meSize x == e.size && meVpn x == e.vpn) = some e) :
    exec .answer s = .next (if meValid x then s1.afterLookup e x else s1.decline e 3 0 0) := by
  change execAnswer s = _
  unfold execAnswer
  simp only [hx, he]

end

/-! ### The leaf an install writes (R112) -/

/-- Of the old leaf an install keeps X, USER, HOME and the other bits of the mask; what it adds is V, the frame and W. -/
theorem newLeaf_bit (l : Dword) (g : Nat) (w : Bool) {k : Nat} (hk : k < 64) : (newLeaf l g w).getLsbD k =
    (l.getLsbD k && (0xFFF0000000000CFC : Nat).testBit k || (g / 4096 * 4096).testBit k || (1 : Nat).testBit k ||
      (if w then (2 : Nat).testBit k else false)) := by
  have h : ∀ n, (BitVec.ofNat 64 n).getLsbD k = n.testBit k := fun n => by rw [BitVec.getLsbD_ofNat, decide_eq_true hk, Bool.true_and]
  unfold newLeaf
  rw [BitVec.getLsbD_or, BitVec.getLsbD_or, BitVec.getLsbD_or, BitVec.getLsbD_and, h, h, h]
  cases w
  · exact congrArg _ (BitVec.getLsbD_zero)
  · exact congrArg _ (h 2)

/-- The frame's address has no bit below 4 KiB. -/
theorem granule_testBit_low (g : Nat) {k : Nat} (hk : k < 12) : (g / 4096 * 4096).testBit k = false := by
  rw [show 4096 = 2 ^ 12 from rfl, Nat.testBit_mul_two_pow, decide_eq_false (by omega), Bool.false_and]

theorem newLeaf_low (l : Dword) (g : Nat) (w : Bool) {k : Nat} (hk : k < 12) : (newLeaf l g w).getLsbD k =
    (l.getLsbD k && (0xFFF0000000000CFC : Nat).testBit k || (1 : Nat).testBit k || (if w then (2 : Nat).testBit k else false)) := by
  rw [newLeaf_bit l g w (by omega), granule_testBit_low g hk, Bool.or_false]

theorem newLeaf_size (l : Dword) (g : Nat) (w : Bool) : entSize (newLeaf l g w) = entSize l := by
  unfold entSize
  refine congrArg BitVec.toNat (BitVec.eq_of_getLsbD_eq fun i hi => ?_)
  rw [BitVec.getLsbD_extractLsb', BitVec.getLsbD_extractLsb', newLeaf_low l g w (by omega)]
  obtain rfl | rfl : i = 0 ∨ i = 1 := by omega
  all_goals cases w <;> simp [Nat.testBit]

theorem newLeaf_frame (l : Dword) {g : Nat} (w : Bool) (h0 : g % 4096 = 0) (hg : g < 2 ^ 52) : entFrame (newLeaf l g w) = g := by
  have hframe : (newLeaf l g w).extractLsb' 12 40 = BitVec.ofNat 40 (g / 4096) := by
    refine BitVec.eq_of_getLsbD_eq fun i hi => ?_
    have hmask : (0xFFF0000000000CFC : Nat).testBit (12 + i) = false := by
      interval_cases i <;> decide
    have h1 : (1 : Nat).testBit (12 + i) = false := Nat.testBit_lt_two_pow (Nat.one_lt_two_pow (by omega))
    have h2 : (2 : Nat).testBit (12 + i) = false := Nat.testBit_lt_two_pow (show 2 ^ 1 < 2 ^ (12 + i) from Nat.pow_lt_pow_right (by decide) (by omega))
    rw [BitVec.getLsbD_extractLsb', newLeaf_bit l g w (by omega), hmask, h1, h2, BitVec.getLsbD_ofNat, show 4096 = 2 ^ 12 from rfl,
      Nat.testBit_mul_two_pow]
    simp
  unfold entFrame
  rw [hframe, BitVec.toNat_ofNat, Nat.mod_eq_of_lt (by omega)]
  omega

end Sys2Proof.Machine

open Sys2Proof Sys2Proof.Machine

/-- Settles O33: each answer and each timeout by the state it finds the entry in, and the leaf of an install bit by bit. -/
theorem pageResolution : Obligations.PageResolution := by
  unfold Obligations.PageResolution
  intro s e p retries wait
  have hml : s.wsMl (s.pendPart e) = wait 0 8 1 := wsMl_field s _
  have hev : s.wsEv (s.pendPart e) = wait 16 8 1 := wsEv_field s _
  have hrt : s.wsRt (s.pendPart e) = retries := wsRt_field s _
  have hft : s.fetchTime e = if meHkind e.entry = 1 then wait 24 6 1000 else wait 8 8 1 := by
    unfold State.fetchTime
    rw [wsEt_field, wsFr_field]
  clear_value wait retries
  refine ⟨fun he h2 ht => ?_, fun he h2 => ?_, fun he h4 ha ht => ?_, fun he _ ha => fetchComplete_stale he (.inl ha),
    fun he _ ht => fetchComplete_stale he (.inr (hft ▸ ht)), fun he h4 => ?_, fun he h3 hf ht => ?_, fun x s1 hx he => ⟨_, answer_outcome hx he, rfl⟩,
    fun l g w h0 hg => ?_, ?_, fun x h => afterLookup_malformed h, fun h => lookup_unset h⟩
  · have hout := lookupAnswer_outcome he h2 (hml ▸ ht)
    refine ⟨fun h0 => ⟨_, hout, if_pos h0⟩, fun h1 => ⟨_, hout, by simp [h1]⟩, fun h29 => ⟨_, hout, by simp [h29]⟩, fun hc => ⟨_, hout, ?_⟩⟩
    simp only [List.mem_cons, List.not_mem_nil, or_false, not_or] at hc
    obtain ⟨h0, h1, h29⟩ := hc
    rw [if_neg h0, if_neg h1, if_neg h29]
  · have hout := lookupTimeout_outcome he h2
    rw [hml, hrt] at hout
    refine ⟨fun hearly => by rw [hout, if_pos hearly], fun hlate hr => ⟨_, hout, _, (if_neg (Nat.not_lt.2 hlate)).trans (if_pos hr), fun hk => if_pos hk⟩,
      fun hlate hr hk => ⟨_, hout, ?_⟩, fun hlate hr hk => ⟨_, hout, ?_⟩⟩
    · rw [if_neg (Nat.not_lt.2 hlate), if_neg (Nat.not_lt.2 hr), hk, if_neg Bool.false_ne_true]
    · rw [if_neg (Nat.not_lt.2 hlate), if_neg (Nat.not_lt.2 hr), hk, if_pos rfl]
  · rw [← hft] at ht
    refine ⟨fun hm hr => ⟨_, fetchComplete_moved he h4 ha ht hm, if_neg (by omega)⟩, fun hm hr => ⟨_, fetchComplete_moved he h4 ha ht hm, if_pos (by omega)⟩,
      fun hm h0 hk => ⟨_, fetchComplete_refused he h4 ha ht hm h0, by rw [if_neg hk, if_neg hk]⟩,
      fun q hm h0 hk hq => ⟨_, fetchComplete_refused he h4 ha ht hm h0, by rw [if_pos hk, if_pos hk, hq]; rfl⟩,
      fun g h0 hk hg => ⟨_, fetchComplete_fills he h4 ha ht h0, ?_⟩, fun g q h0 hk hg hq => ⟨_, fetchComplete_fills he h4 ha ht h0, ?_⟩⟩
    · rw [if_neg (by omega), hg]; rfl
    · rw [if_pos hk, hg, hq]; rfl
  · have hout := fetchTimeout_outcome he h4
    rw [hft, hrt] at hout
    exact ⟨fun hearly => by rw [hout, if_pos hearly], fun hlate hr => ⟨_, hout, (if_neg (Nat.not_lt.2 hlate)).trans (if_neg (Nat.not_lt.2 hr))⟩,
      fun hlate hr => ⟨_, hout, (if_neg (Nat.not_lt.2 hlate)).trans (if_pos hr)⟩⟩
  · rw [← hev] at ht
    exact ⟨fun hm => ⟨_, poolWaitTimeout_declines he h3 hf ht hm, rfl⟩,
      fun hs hv hp hev hsc => ⟨_, pinnedTimeout_declines he h3 hf ht hs hv hp hev hsc, rfl⟩⟩
  · have hlow := fun k hk => newLeaf_low l g w (k := k) hk
    refine ⟨?_, ?_, ?_, ?_, ?_, newLeaf_size l g w, ?_, ?_, newLeaf_frame l w h0 hg⟩
    · exact (hlow 0 (by decide)).trans (by simp [Nat.testBit])
    · exact (hlow 1 (by decide)).trans (by cases w <;> simp [Nat.testBit])
    · exact (hlow 2 (by decide)).trans (by cases w <;> simp [Nat.testBit, lfX])
    · exact (hlow 3 (by decide)).trans (by cases w <;> simp [Nat.testBit, lfUser])
    · exact (hlow 4 (by decide)).trans (by cases w <;> simp [Nat.testBit, lfHome])
    · exact (hlow 9 (by decide)).trans (by cases w <;> simp [Nat.testBit])
    · exact (hlow 8 (by decide)).trans (by cases w <;> simp [Nat.testBit])
  · rintro x hneed hk hst hme ⟨c, hc, hne, hl⟩
    exact afterLookup_owns hneed hk hst hme (resident_of_leaves hc hne hl)

end

section
/-! Evictions (O34): the choice of a victim (R115), an eviction's steps (R116), the scores (R115), RELINQUISH (R126), and the frames that are freed
(R445). -/

namespace Sys2Proof.Machine

section
variable {s : State}

/-! ### The victim (R115) -/

/-- Does a copy go at least as soon as another: less score, or the same and installed no later? -/
def Copy.goesBy (c b : Copy) : Prop := c.score < b.score ∨ (c.score = b.score ∧ c.order ≤ b.order)

/-- The one of two copies that goes first; of equals the first of them. -/
def sooner (b : Option Copy) (c : Copy) : Option Copy :=
  match b with
  | none => some c
  | some x => if c.score < x.score ∨ (c.score = x.score ∧ c.order < x.order) then some c else some x

theorem sooner_some (b : Option Copy) (c : Copy) : ∃ x, sooner b c = some x ∧ (x = c ∨ b = some x) ∧ x.goesBy c ∧ ∀ y, b = some y → x.goesBy y := by
  unfold sooner Copy.goesBy
  cases b with
  | none => exact ⟨c, rfl, .inl rfl, .inr ⟨rfl, le_rfl⟩, fun y hy => nomatch hy⟩
  | some x =>
    by_cases h : c.score < x.score ∨ (c.score = x.score ∧ c.order < x.order)
    · exact ⟨c, if_pos h, .inl rfl, .inr ⟨rfl, le_rfl⟩, fun y hy => by cases hy; omega⟩
    · exact ⟨x, if_neg h, .inr rfl, by omega, fun y hy => by cases hy; exact .inr ⟨rfl, le_rfl⟩⟩

theorem Copy.goesBy_trans {a b c : Copy} (h1 : a.goesBy b) (h2 : b.goesBy c) : a.goesBy c := by
  unfold Copy.goesBy at *
  omega

/-- The choice over a list is a member that goes first, and there is one where there is a member. -/
theorem foldl_sooner (l : List Copy) (b : Option Copy) :
    (l.foldl sooner b = none ↔ b = none ∧ l = []) ∧
    ∀ c, l.foldl sooner b = some c → (b = some c ∨ c ∈ l) ∧ ∀ y, b = some y ∨ y ∈ l → c.goesBy y := by
  induction l generalizing b with
  | nil => exact ⟨by simp, fun c hc => ⟨.inl hc, fun y hy => by
      rcases hy with hy | hy
      · cases hc.symm.trans hy; exact .inr ⟨rfl, le_rfl⟩
      · cases hy⟩⟩
  | cons a l ih =>
    obtain ⟨x, hx, hfrom, hxa, hxb⟩ := sooner_some b a
    obtain ⟨hnone, hsome⟩ := ih (sooner b a)
    rw [hx] at hnone hsome
    simp only [List.foldl_cons, hx]
    refine ⟨⟨fun h => absurd (hnone.1 h).1 (Option.some_ne_none x), fun h => absurd h.2 (List.cons_ne_nil _ _)⟩, fun c hc => ?_⟩
    obtain ⟨hmem, hbest⟩ := hsome c hc
    have hcx : c.goesBy x := hbest x (.inl rfl)
    refine ⟨?_, fun y hy => ?_⟩
    · rcases hmem with hmem | hmem
      · cases hmem
        rcases hfrom with rfl | hb
        · exact .inr List.mem_cons_self
        · exact .inl hb
      · exact .inr (List.mem_cons_of_mem _ hmem)
    · rcases hy with hy | hy
      · exact Copy.goesBy_trans hcx (hxb y hy)
      · rcases List.mem_cons.1 hy with rfl | hy
        · exact Copy.goesBy_trans hcx hxa
        · exact hbest y (.inr hy)

/-- May a copy be the victim for a frame of a partition and size? -/
def State.victimOk (s : State) (part size : Nat) (c : Copy) : Bool :=
  s.topPart c.world == some part && c.size == size && !s.pinned c && c.mapped ((s.leavesOf c.world (c.vpn * 4096) c.size).1.map Prod.snd)

theorem victim_eq (part size : Nat) : s.victim part size = (s.way.copies.filter (s.victimOk part size)).foldl sooner none := by
  unfold State.victim
  congr 1

theorem victim_some {part size : Nat} {c : Copy} (h : s.victim part size = some c) :
    c ∈ s.way.copies ∧ s.victimOk part size c = true ∧ ∀ b ∈ s.way.copies, s.victimOk part size b = true → c.goesBy b := by
  rw [victim_eq] at h
  obtain ⟨hmem, hbest⟩ := (foldl_sooner _ none).2 c h
  obtain ⟨hc, hok⟩ := List.mem_filter.1 (hmem.resolve_left (fun h => nomatch h))
  exact ⟨hc, hok, fun b hb hbok => hbest b (.inr (List.mem_filter.2 ⟨hb, hbok⟩))⟩

theorem victim_none {part size : Nat} (h : s.victim part size = none) : ∀ b ∈ s.way.copies, s.victimOk part size b = false := by
  rw [victim_eq] at h
  intro b hb
  exact Bool.not_eq_true _ ▸ List.filter_eq_nil_iff.1 ((foldl_sooner _ none).1.1 h).2 b hb

/-! ### EVICTION (R115, R116) -/

section
variable {e : Pend} (h0 : s.argN 0 = 0) (he : s.pend? (s.argN 1) = some e) (h3 : e.st = 3) (hf : e.frame = none)
  (hm : s.wsmode (s.pendPart e) 4 = false) (hp : tget [] s.xl.pools (s.topOf (s.pendPart e) * 4 + e.size) = [])
  (hb : (s.way.evicts.any (fun x => x.for_ == some e.id) || s.xl.scrubs.any (fun j => j.for_ == some e.id)) = false)
include h0 he h3 hf hm hp hb

/-- What EVICTION does for an entry that waits for a frame and for nothing on its way to it. -/
theorem eviction_chooses : exec .eviction s = .next (match s.victim (s.topOf (s.pendPart e)) e.size with
    | none => if e.stuck then s else s.putPend { e with stuck := true, since := s.time }
    | some c => ((s.putPend { e with stuck := false }).evictStart ⟨c, s.pendPart e, false, 0, some e.id, none, false, [], s.time⟩).getD
      (s.putPend { e with stuck := false })) := by
  obtain ⟨hb1, hb2⟩ := Bool.or_eq_false_iff.1 hb
  have hless : s.frameless e = true := by simp [State.frameless, h3, hf, hp, hb1, hb2]
  change execEviction s = _
  unfold execEviction
  simp only [h0, he, hless, hm, Bool.not_true, Bool.false_eq_true, or_self, if_false, show ¬ (0 = 1) by decide]
  cases s.victim (s.topOf (s.pendPart e)) e.size <;> rfl

end

/-- An eviction that is under way goes on. -/
theorem eviction_goes {x : Evict} (h1 : s.argN 0 = 1) (hx : s.way.evicts.find? (fun x => x.key == s.argN 1) = some x) :
    exec .eviction s = .next (s.evictGo x) := by
  change execEviction s = _
  unfold execEviction
  simp only [h1, if_true, hx]

section
variable {x : Evict}

theorem evictGo_shot (h1 : x.st = 1) : s.evictGo x = if s.shootWaits 0 x.copy.world (x.copy.vpn * 4096) ≠ [] then s
    else if x.dirty || x.copy.own then s.evictWrite x x.copy.entry else s.evictEnd x := by
  unfold State.evictGo
  simp only [h1]

theorem evictGo_home (h3 : x.st = 3) : s.evictGo x = s.evictEnd x := by
  unfold State.evictGo
  simp only [h3]

/-- An eviction that has not begun waits while its copy is pinned, itself left aside, and then begins. -/
theorem evictGo_waiting (h0 : x.st = 0) {others : State}
    (ho : others = { s with way := { s.way with evicts := s.way.evicts.filter (fun y => y.key != x.key) } }) :
    (others.pinned x.copy = true → s.evictGo x = s) ∧ (∀ s1, others.pinned x.copy = false → s.evictStart x = some s1 → s.evictGo x = s1) := by
  unfold State.evictGo
  simp only [h0, ← ho]
  exact ⟨fun hp => if_pos hp, fun s1 hp hs => by rw [hp, hs]; rfl⟩

end

/-- The bits of a leaf that goes: V falls, W is the kernel's, and every other bit stands. -/
theorem goneLeaf_bit (w : Bool) (l : Dword) {k : Nat} (hk : k < 64) :
    (goneLeaf w l).getLsbD k = if k = 0 then false else if k = 1 then w else l.getLsbD k := by
  have h3 : (~~~3#64).getLsbD k = !decide (k < 2) := by
    rw [BitVec.getLsbD_not, decide_eq_true hk, Bool.true_and, BitVec.getLsbD_ofNat, decide_eq_true hk, Bool.true_and,
      show (3 : Nat) = 2 ^ 2 - 1 from rfl, Nat.testBit_two_pow_sub_one]
  have h2 : (2#64).getLsbD k = decide (k = 1) := by
    rw [BitVec.getLsbD_ofNat, decide_eq_true hk, Bool.true_and, show (2 : Nat) = 2 ^ 1 from rfl, Nat.testBit_two_pow, decide_eq_decide]
    exact eq_comm
  unfold goneLeaf
  rw [BitVec.getLsbD_or, BitVec.getLsbD_and, h3]
  by_cases hk0 : k = 0
  · subst hk0; cases w <;> simp
  · by_cases hk1 : k = 1
    · subst hk1; cases w <;> simp
    · rw [if_neg hk0, if_neg hk1, decide_eq_false (by omega)]
      cases w
      · rw [if_neg Bool.false_ne_true, show (0 : Dword) = 0#64 from rfl, BitVec.getLsbD_zero]; simp
      · rw [if_pos rfl, h2, decide_eq_false hk1]; simp

/-! ### RELINQUISH (R126) -/

section
variable (hr : s.wsmode (s.argN 0) 31 = true) (hp : ∀ e ∈ s.way.pends, s.pendPart e = s.argN 0 → e.st = 0 ∨ 8 ≤ e.st)
include hr hp

/-- What RELINQUISH asks of one copy. -/
def State.giveUp (part : Nat) (s : State) (c : Copy) : State :=
  let x : Evict := ⟨c, part, false, 0, none, none, false, [], s.time⟩
  if s.way.evicts.any (fun y => y.key == x.key) then s
  else { s with way := { s.way with evicts := s.way.evicts ++ [x] } }.evictGo x

theorem relinquish_gives : exec .relinquish s = .next ((s.way.copies.filter (fun c => s.partOf c.world == some (s.argN 0))).foldl
    (State.giveUp (s.argN 0)) s) := by
  have hpends : s.way.pends.any (fun e => s.pendPart e == s.argN 0 && decide (1 ≤ e.st) && decide (e.st ≤ 7)) = false := by
    refine List.any_eq_false.2 fun e he h => ?_
    simp only [Bool.and_eq_true, beq_iff_eq, decide_eq_true_eq] at h
    have := hp e he h.1.1
    omega
  change execRelinquish s = _
  unfold execRelinquish
  simp only [hr, hpends, Bool.not_true, Bool.or_self, Bool.false_eq_true, if_false]
  rfl

end

theorem relinquish_not_asked (h : s.wsmode (s.argN 0) 31 = false) : exec .relinquish s = .next s := by
  change execRelinquish s = _
  unfold execRelinquish
  simp [h]

/-- A new eviction without another of its page is the last of the list, and leaves the list as it was when it is left aside. -/
theorem evicts_without (x : Evict) (h : ∀ z ∈ s.way.evicts, z.key ≠ x.key) :
    (s.way.evicts ++ [x]).filter (fun y => y.key != x.key) = s.way.evicts := by
  rw [List.filter_append, List.filter_eq_self.2 fun z hz => by simpa using h z hz, List.filter_singleton]
  simp

/-! ### Frames that are freed (R445) -/

theorem scrubEngine_pool {j : ScrubJob} {rest : List ScrubJob} (hj : s.xl.scrubs = j :: rest) (hf : j.for_ = none) {s1 : State}
    (h1 : s1 = State.scrubFrame { s with xl := { s.xl with scrubs := rest } } j.part j.gpa j.size) : exec .scrubEngineScrub s = .next
    (if (s1.frameGrans j.part j.gpa j.size).any (fun x => cellOffline x.2) then s1 else (s1.poolPut j.part j.size j.gpa).2) := by
  change execScrubEngineScrub s = _
  unfold execScrubEngineScrub
  simp only [hj, ← h1, hf, Option.bind_none]
  rfl

theorem cellOffline_iff {c : Option (Dword × Word)} : cellOffline c = true ↔ ∃ a b, c = some (a, b) ∧ granOffline b = true := by
  rcases c with _ | ⟨a, b⟩ <;> simp [cellOffline]

/-- Can the frame of a partition without a ring, or with room in it, leave? -/
def State.ringReady (s : State) (top : Nat) : Bool := s.preg top 0x0EB == 0 || s.ringRoom top

/-- None leaves where no partition's can. -/
theorem ringNext_none {l : List (Nat × Nat × Nat)} {seen : List Nat} (h : ∀ w ∈ l, s.ringReady (s.topOf w.1) = false) : s.ringNext l seen = none := by
  induction l generalizing seen with
  | nil => rfl
  | cons w l ih =>
    have hw := h w List.mem_cons_self
    unfold State.ringReady at hw
    unfold State.ringNext
    simp only [hw, Bool.and_false, Bool.false_eq_true, if_false]
    exact ih fun v hv => h v (List.mem_cons_of_mem _ hv)

/-- The oldest frame of a partition whose frames can leave goes before those of partitions whose cannot. -/
theorem ringNext_some {before rest : List (Nat × Nat × Nat)} {w : Nat × Nat × Nat} {seen : List Nat} (hs : s.topOf w.1 ∉ seen)
    (hr : s.ringReady (s.topOf w.1) = true) (h : ∀ v ∈ before, s.topOf v.1 ≠ s.topOf w.1 ∧ s.ringReady (s.topOf v.1) = false) :
    s.ringNext (before ++ w :: rest) seen = some w := by
  induction before generalizing seen with
  | nil =>
    unfold State.ringReady at hr
    have hseen : seen.contains (s.topOf w.1) = false := by simpa using hs
    rw [List.nil_append]
    unfold State.ringNext
    simp only [hseen, hr, Bool.not_false, Bool.and_self, if_true]
  | cons v before ih =>
    obtain ⟨hne, hv⟩ := h v List.mem_cons_self
    unfold State.ringReady at hv
    rw [List.cons_append]
    unfold State.ringNext
    simp only [hv, Bool.and_false, Bool.false_eq_true, if_false]
    exact ih (fun hmem => (List.mem_cons.1 hmem).elim (fun h => hne h.symm) hs) fun u hu => h u (List.mem_cons_of_mem _ hu)

theorem frameRingWrite_leaves {q gpa y : Nat} {before rest : List (Nat × Nat × Nat)} (hw : s.xl.ringWait = before ++ (q, gpa, y) :: rest)
    (hr : s.ringReady (s.topOf q) = true) (h : ∀ v ∈ before, s.topOf v.1 ≠ s.topOf q ∧ s.ringReady (s.topOf v.1) = false) {s1 : State}
    (h1 : s1 = { s with xl := { s.xl with ringWait := before ++ rest } }) : exec .frameRingWrite s = .next
    (if (s.preg (s.topOf q) 0x0EB).toNat = 0 then
      { s1 with xl := { s1.xl with scrubs := s.xl.scrubs ++ [⟨s.topOf q, y / 256 % 4, gpa, none⟩] } }
    else s1.ringPut (some (s.topOf q)) (s.preg (s.topOf q) 0x0EB).toNat (gpa % 2 ^ 52 * 2 ^ 192 + y / 256 % 4 * 2 ^ 148 + y % 256 * 2 ^ 128)) := by
  have hnext : s.ringNext s.xl.ringWait [] = some (q, gpa, y) := hw ▸ ringNext_some (List.not_mem_nil) hr h
  have herase : s.xl.ringWait.erase (q, gpa, y) = before ++ rest := by
    rw [hw, List.erase_append_right _ fun hmem => (h _ hmem).1 rfl, List.erase_cons_head]
  change execFrameRingWrite s = _
  unfold execFrameRingWrite
  simp only [hnext, herase, ← h1]
  rw [apply_ite Host.Outcome.next, h1]
  rfl

/-- What a read by the hub of a word of a partition's frame ring gives. -/
def State.ringWord (s : State) (t k : Nat) : Option Nat := (s.hubRead (some t) ((s.preg t 0x0EB).toNat + k) 8).map Prod.fst

theorem ringRoom_of_words {t h l c : Nat} (hh : s.ringWord t 0 = some h) (hl : s.ringWord t 8 = some l) (hc : s.ringWord t 24 = some c) :
    s.ringRoom t = ((h + 2 ^ 64 - l) % 2 ^ 64 != 2 ^ max 6 (min 20 c)) := by
  obtain ⟨⟨_, s1⟩, h1, rfl⟩ := Option.map_eq_some_iff.1 hh
  obtain ⟨⟨_, s2⟩, h2, rfl⟩ := Option.map_eq_some_iff.1 hl
  obtain ⟨⟨_, s3⟩, h3, rfl⟩ := Option.map_eq_some_iff.1 hc
  unfold State.ringRoom
  simp only [Nat.add_zero] at h1
  simp only [h1, h2, h3]

/-- A ring whose words can be read, and do not say that it is full, has room; any other has none. -/
theorem ringRoom_full {t : Nat} (h : ∀ x l c, s.ringWord t 0 = some x → s.ringWord t 8 = some l → s.ringWord t 24 = some c →
    (x + 2 ^ 64 - l) % 2 ^ 64 = 2 ^ max 6 (min 20 c)) : s.ringRoom t = false := by
  by_cases hall : ∃ x l c, s.ringWord t 0 = some x ∧ s.ringWord t 8 = some l ∧ s.ringWord t 24 = some c
  · obtain ⟨x, l, c, h1, h2, h3⟩ := hall
    rw [ringRoom_of_words h1 h2 h3, h x l c h1 h2 h3, bne_self_eq_false]
  · unfold State.ringRoom
    simp only
    split
    · next h1 h2 h3 =>
      exact absurd ⟨_, _, _, by rw [State.ringWord, Nat.add_zero, h1]; rfl, by rw [State.ringWord, h2]; rfl, by rw [State.ringWord, h3]; rfl⟩ hall
    · rfl

/-- The frames of a partition whose ring is full stay. -/
theorem ringReady_full {t : Nat} (h0 : (s.preg t 0x0EB).toNat ≠ 0) (h : ∀ x l c, s.ringWord t 0 = some x → s.ringWord t 8 = some l →
    s.ringWord t 24 = some c → (x + 2 ^ 64 - l) % 2 ^ 64 = 2 ^ max 6 (min 20 c)) : s.ringReady t = false := by
  have hne : s.preg t 0x0EB ≠ 0 := fun hz => h0 (by rw [hz]; rfl)
  unfold State.ringReady
  rw [ringRoom_full h, beq_false_of_ne hne]; rfl

theorem frameRingWrite_stays (h : ∀ w ∈ s.xl.ringWait, s.ringReady (s.topOf w.1) = false) : exec .frameRingWrite s = .next s := by
  change execFrameRingWrite s = _
  unfold execFrameRingWrite
  simp only [ringNext_none h]

end

end Sys2Proof.Machine

open Sys2Proof Sys2Proof.Machine

/-- Settles O34: the victim is the first of a fold that keeps the sooner copy, an eviction goes on by its state, and the frame ring's next record is
found by an induction over those that wait. -/
theorem evictions : Obligations.Evictions := by
  unfold Obligations.Evictions
  intro s e x p leaves mine busy
  have hmine : ∀ c, mine c = s.victimOk (s.topOf (s.pendPart e)) e.size c := fun c => by
    have hne : decide (leaves c ≠ []) = (leaves c != []) := by rw [Bool.eq_iff_iff, decide_eq_true_iff, bne_iff_ne]
    unfold State.victimOk Copy.mapped
    rw [← hne]
  have hend : ∀ {y : Nat × Option (Dword × Word)}, cellOffline y.2 = true ↔ ∃ a g, y.2 = some (a, g) ∧ granOffline g = true := cellOffline_iff
  refine ⟨fun c hv => ?_, fun hv b hb => (hmine b).trans (victim_none hv b hb), fun h0 he h3 hf hm hp hb => ?_, fun h1 hx => ?_,
    fun w l => ?_, fun hearly => if_pos hearly, fun hlate => ?_, relinquish_not_asked, fun hr hp hc => ?_, fun c s1 hr hp hc => ?_,
    fun j rest s1 hj h1 hf => ?_, ?_, fun q gpa y before rest hw hbefore => ?_⟩
  · obtain ⟨hmem, hok, hbest⟩ := victim_some hv
    exact ⟨hmem, (hmine c).trans hok, fun b hb hbm => hbest b hb ((hmine b).symm.trans hbm)⟩
  · have hout := eviction_chooses h0 he h3 hf hm hp hb
    refine ⟨fun c s1 hv hs => ⟨_, hout, ?_⟩, fun hv hst => ⟨_, hout, ?_⟩⟩
    · rw [hv]
      exact congrArg (fun o => Option.getD o _) hs
    · rw [hv, hst]; rfl
  · have hout := eviction_goes h1 hx
    refine ⟨fun hst hw => ?_, fun hst hw hd ho => ⟨_, hout, ?_⟩, fun hst hw hd => ⟨_, hout, ?_⟩, fun hst => ⟨_, hout, evictGo_home hst⟩⟩
    · rw [hout, evictGo_shot hst, if_pos hw]
    · rw [evictGo_shot hst, if_neg (not_not.2 hw), hd, ho]; rfl
    · rw [evictGo_shot hst, if_neg (not_not.2 hw), if_pos (Bool.or_eq_true_iff.2 hd)]
  · have hbit := fun k (hk : k < 64) => goneLeaf_bit w l hk
    have hfield : ∀ a n, 2 ≤ a → a + n ≤ 64 → (goneLeaf w l).extractLsb' a n = l.extractLsb' a n := fun a n h2 hn =>
      BitVec.eq_of_getLsbD_eq fun i hi => by
        rw [BitVec.getLsbD_extractLsb', BitVec.getLsbD_extractLsb', hbit _ (by omega), if_neg (by omega), if_neg (by omega)]
    exact ⟨hbit 0 (by decide), hbit 1 (by decide), hbit 4 (by decide), hbit 2 (by decide), hbit 3 (by decide),
      congrArg (fun f : BitVec 40 => f.toNat * 4096) (hfield 12 40 (by decide) (by decide)),
      congrArg BitVec.toNat (hfield 10 2 (by decide) (by decide))⟩
  · refine ⟨_, if_neg (Nat.not_lt.2 hlate), rfl, List.length_map _, fun i c hi => ?_⟩
    simp [hi]
  · rw [relinquish_gives hr hp, hc]; rfl
  · intro y s2
    have hgive := relinquish_gives hr hp
    rw [hc, List.foldl_cons, List.foldl_nil] at hgive
    refine ⟨fun hz => ?_, fun hz hpin => ?_, fun hz hpin hs => ?_⟩
    · have hany : s.way.evicts.any (fun z => z.key == y.key) = true := by simpa using hz
      rw [hgive]
      exact congrArg _ (if_pos hany)
    all_goals
      have hany : ¬ s.way.evicts.any (fun z => z.key == y.key) = true := by simpa using hz
      have hgo : State.giveUp (s.argN 0) s c = s2.evictGo y := if_neg hany
      have hself : s = { s2 with way := { s2.way with evicts := s2.way.evicts.filter (fun z => z.key != y.key) } } := by
        rw [show s2.way.evicts.filter (fun z => z.key != y.key) = s.way.evicts from evicts_without y hz]
      obtain ⟨hwaits, hbegins⟩ := evictGo_waiting (s := s2) (x := y) rfl hself
    · exact ⟨_, hgive, hgo.trans (hwaits hpin)⟩
    · exact ⟨_, hgive, hgo.trans (hbegins s1 hpin hs)⟩
  · have hout := scrubEngine_pool hj hf h1
    refine ⟨fun hon => ⟨_, hout, if_neg ?_⟩, fun ⟨y, hy, hoff⟩ => ⟨_, hout, if_pos (List.any_eq_true.2 ⟨y, hy, hend.2 hoff⟩)⟩⟩
    rw [List.any_eq_true]
    rintro ⟨y, hy, hoff⟩
    obtain ⟨a, g, hg, hoff⟩ := hend.1 hoff
    rw [hon y hy a g hg] at hoff
    cases hoff
  · exact fun hfull => frameRingWrite_stays fun w hw => ringReady_full (hfull w hw).1 (hfull w hw).2
  · have hbefore' : ∀ v ∈ before, s.topOf v.1 ≠ s.topOf q ∧ s.ringReady (s.topOf v.1) = false := fun v hv =>
      ⟨(hbefore v hv).1, ringReady_full (hbefore v hv).2.1 (hbefore v hv).2.2⟩
    refine ⟨fun h0 => ?_, fun h l c h0 hh hl hc hroom => ?_⟩
    · have hready : s.ringReady (s.topOf q) = true := by
        unfold State.ringReady
        rw [show s.preg (s.topOf q) 0x0EB = 0 from BitVec.eq_of_toNat_eq h0]; rfl
      exact ⟨_, frameRingWrite_leaves hw hready hbefore' rfl, if_pos h0⟩
    · have hready : s.ringReady (s.topOf q) = true := by
        unfold State.ringReady
        rw [ringRoom_of_words hh hl hc, bne_iff_ne.2 hroom, Bool.or_true]
      exact ⟨_, frameRingWrite_leaves hw hready hbefore' rfl, if_neg h0⟩

end

section
/-! Directory entries (R107, R109) as fields of a number: what replacing a field leaves of the others, and who is listed as a sharer. -/

namespace Sys2Proof.Machine

/-! ### A field of an entry replaced -/

section
variable (x v : Nat) {k n k' n' : Nat}

theorem setBits_mod (h : n' ≤ k) : setBits x k n v % 2 ^ n' = x % 2 ^ n' := by
  have hlow := congrArg (· % 2 ^ n') (replaceField_parts x v k n).1
  simpa only [setBits, Nat.mod_mod_of_dvd _ (Nat.pow_dvd_pow 2 h)] using hlow

theorem setBits_field_on : setBits x k n v / 2 ^ k % 2 ^ n = v % 2 ^ n := replaceField_get x v k n

theorem setBits_field_off (h : k' + n' ≤ k ∨ k + n ≤ k') : setBits x k n v / 2 ^ k' % 2 ^ n' = x / 2 ^ k' % 2 ^ n' := by
  rcases h with h | h
  · rw [← Nat.mod_mul_right_div_self, ← Nat.mod_mul_right_div_self, ← pow_add, setBits_mod x v h]
  · obtain ⟨d, rfl⟩ := Nat.exists_eq_add_of_le h
    rw [pow_add, ← Nat.div_div_eq_div_mul, ← Nat.div_div_eq_div_mul]
    exact congrArg (· / 2 ^ d % 2 ^ n') (replaceField_parts x v k n).2

theorem setBits_bit_on : (setBits x k 1 v).testBit k = v.testBit 0 := by
  rw [Nat.testBit_eq_decide_div_mod_eq, Nat.testBit_zero]
  exact congrArg (fun y => decide (y = 1)) (setBits_field_on x v (k := k) (n := 1) |>.trans (by simp))

theorem setBits_bit_off (h : k' < k ∨ k + n ≤ k') : (setBits x k n v).testBit k' = x.testBit k' := by
  rw [Nat.testBit_eq_decide_div_mod_eq, Nat.testBit_eq_decide_div_mod_eq]
  exact congrArg (fun y => decide (y = 1)) (setBits_field_off x v (n' := 1) (by omega))

end

/-! ### The entry's fields, each beside one that is replaced -/

section
variable {x v k n : Nat}

@[simp] theorem meHkind_setBits_off (h : k + n ≤ 56 ∨ 58 ≤ k) : meHkind (setBits x k n v) = meHkind x :=
  setBits_field_off _ _ (k' := 56) (n' := 2) (by omega)
@[simp] theorem meState_setBits_off (h : k + n ≤ 58 ∨ 60 ≤ k) : meState (setBits x k n v) = meState x :=
  setBits_field_off _ _ (k' := 58) (n' := 2) (by omega)
@[simp] theorem meSize_setBits_off (h : k + n ≤ 60 ∨ 62 ≤ k) : meSize (setBits x k n v) = meSize x :=
  setBits_field_off _ _ (k' := 60) (n' := 2) (by omega)
@[simp] theorem meVersion_setBits_off (h : k + n ≤ 64 ∨ 96 ≤ k) : meVersion (setBits x k n v) = meVersion x :=
  setBits_field_off _ _ (k' := 64) (n' := 32) (by omega)
@[simp] theorem meShval_setBits_off (h : k + n ≤ 100 ∨ 106 ≤ k) : meShval (setBits x k n v) = meShval x :=
  setBits_field_off _ _ (k' := 100) (n' := 6) (by omega)
@[simp] theorem meOwner_setBits_off (h : k + n ≤ 108 ∨ 118 ≤ k) : meOwner (setBits x k n v) = meOwner x :=
  setBits_field_off _ _ (k' := 108) (n' := 10) (by omega)
@[simp] theorem meHome_setBits_off (h : k + n ≤ 118 ∨ 128 ≤ k) : meHome (setBits x k n v) = meHome x :=
  setBits_field_off _ _ (k' := 118) (n' := 10) (by omega)
@[simp] theorem meEp_setBits_off (h : k + n ≤ 240 ∨ 256 ≤ k) : meEp (setBits x k n v) = meEp x :=
  setBits_field_off _ _ (k' := 240) (n' := 16) (by omega)
@[simp] theorem meAddr_setBits_off (h : k + n ≤ 256 ∨ 320 ≤ k) : meAddr (setBits x k n v) = meAddr x :=
  setBits_field_off _ _ (k' := 256) (n' := 64) (by omega)
@[simp] theorem meBusy_setBits_off (h : k + n ≤ 62 ∨ 62 < k) : meBusy (setBits x k n v) = meBusy x := setBits_bit_off _ _ (by omega)
@[simp] theorem meValid_setBits_off (h : k + n ≤ 63 ∨ 63 < k) : meValid (setBits x k n v) = meValid x := setBits_bit_off _ _ (by omega)
@[simp] theorem meShovf_setBits_off (h : k + n ≤ 106 ∨ 106 < k) : meShovf (setBits x k n v) = meShovf x := setBits_bit_off _ _ (by omega)
@[simp] theorem meOwnv_setBits_off (h : k + n ≤ 107 ∨ 107 < k) : meOwnv (setBits x k n v) = meOwnv x := setBits_bit_off _ _ (by omega)
@[simp] theorem meHkind_setBits_on : meHkind (setBits x 56 2 v) = v % 2 ^ 2 := setBits_field_on _ _
@[simp] theorem meState_setBits_on : meState (setBits x 58 2 v) = v % 2 ^ 2 := setBits_field_on _ _
@[simp] theorem meVersion_setBits_on : meVersion (setBits x 64 32 v) = v % 2 ^ 32 := setBits_field_on _ _
@[simp] theorem meShval_setBits_on : meShval (setBits x 100 6 v) = v % 2 ^ 6 := setBits_field_on _ _
@[simp] theorem meOwner_setBits_on : meOwner (setBits x 108 10 v) = v % 2 ^ 10 := setBits_field_on _ _
@[simp] theorem meBusy_setBits_on : meBusy (setBits x 62 1 v) = v.testBit 0 := setBits_bit_on _ _
@[simp] theorem meShovf_setBits_on : meShovf (setBits x 106 1 v) = v.testBit 0 := setBits_bit_on _ _
@[simp] theorem meOwnv_setBits_on : meOwnv (setBits x 107 1 v) = v.testBit 0 := setBits_bit_on _ _

@[simp] theorem meBusy_setBusy (b : Bool) : meBusy (setBusy x b) = b := by
  cases b <;> exact setBits_bit_on _ _

end

/-! ### The sharers of an entry -/

section
variable {x y p q i : Nat}

theorem meLists_iff : meLists x p = true ↔ ∃ i < 6, (meShval x).testBit i = true ∧ meSharer x i = p := by
  simp [meLists, meSharers, List.mem_map, List.mem_filter, and_assoc]

theorem meLists_congr (hv : meShval y = meShval x) (hs : ∀ i < 6, meSharer y i = meSharer x i) : meLists y p = meLists x p := by
  rw [Bool.eq_iff_iff, meLists_iff, meLists_iff, hv]
  exact exists_congr fun i => and_congr_right fun hi => by rw [hs i hi]

/-- To add a power of two whose bit is clear is to set that bit. -/
theorem add_two_pow_bit {a : Nat} (h : a.testBit i = false) (k : Nat) : (a + 2 ^ i).testBit k = (decide (k = i) || a.testBit k) := by
  have hset : a + 2 ^ i = setBits a i 1 1 := by
    have hclear : a / 2 ^ i % 2 = 0 := by simpa [Nat.testBit_eq_decide_div_mod_eq] using h
    simp [setBits, hclear]
  rw [hset]
  by_cases hk : k = i
  · rw [hk, setBits_bit_on, decide_eq_true rfl]; rfl
  · rw [setBits_bit_off _ _ (by omega), decide_eq_false hk, Bool.false_or]

/-- Where a package is entered that no slot names yet. -/
theorem meAdd_cases (x p : Nat) : (meAdd x p = x ∧ meLists x p = true) ∨
    (∃ i < 6, (meShval x).testBit i = false ∧ meAdd x p = setBits (setBits x (128 + 10 * i) 10 p) 100 6 (meShval x + 2 ^ i)) ∨
    meAdd x p = setBits x 106 1 1 := by
  unfold meAdd
  split
  · next h => exact .inl ⟨rfl, h⟩
  · split
    · next i h =>
      have hfree := List.find?_some h
      exact .inr (.inl ⟨i, List.mem_range.1 (List.mem_of_find?_eq_some h), by simpa using hfree, rfl⟩)
    · exact .inr (.inr rfl)

/-- Entering a package changes the sharers, their valid bits and SHOVF alone. -/
theorem meAdd_field {k n : Nat} (h : k + n ≤ 100 ∨ 107 ≤ k ∧ k + n ≤ 128 ∨ 188 ≤ k) : meAdd x p / 2 ^ k % 2 ^ n = x / 2 ^ k % 2 ^ n := by
  rcases meAdd_cases x p with ⟨he, -⟩ | ⟨i, hi, -, he⟩ | he <;> rw [he]
  · rw [setBits_field_off _ _ (by omega), setBits_field_off _ _ (by omega)]
  · exact setBits_field_off _ _ (by omega)

theorem meAdd_bit {k : Nat} (h : k < 100 ∨ 107 ≤ k ∧ k < 128 ∨ 188 ≤ k) : (meAdd x p).testBit k = x.testBit k := by
  rw [Nat.testBit_eq_decide_div_mod_eq, Nat.testBit_eq_decide_div_mod_eq]
  exact congrArg (fun y => decide (y = 1)) (meAdd_field (n := 1) (by omega))

@[simp] theorem meHkind_meAdd : meHkind (meAdd x p) = meHkind x := meAdd_field (k := 56) (n := 2) (by omega)
@[simp] theorem meState_meAdd : meState (meAdd x p) = meState x := meAdd_field (k := 58) (n := 2) (by omega)
@[simp] theorem meSize_meAdd : meSize (meAdd x p) = meSize x := meAdd_field (k := 60) (n := 2) (by omega)
@[simp] theorem meVersion_meAdd : meVersion (meAdd x p) = meVersion x := meAdd_field (k := 64) (n := 32) (by omega)
@[simp] theorem meOwner_meAdd : meOwner (meAdd x p) = meOwner x := meAdd_field (k := 108) (n := 10) (by omega)
@[simp] theorem meHome_meAdd : meHome (meAdd x p) = meHome x := meAdd_field (k := 118) (n := 10) (by omega)
@[simp] theorem meEp_meAdd : meEp (meAdd x p) = meEp x := meAdd_field (k := 240) (n := 16) (by omega)
@[simp] theorem meAddr_meAdd : meAddr (meAdd x p) = meAddr x := meAdd_field (k := 256) (n := 64) (by omega)
@[simp] theorem meValid_meAdd : meValid (meAdd x p) = meValid x := meAdd_bit (by omega)
@[simp] theorem meOwnv_meAdd : meOwnv (meAdd x p) = meOwnv x := meAdd_bit (by omega)

theorem meAdd_mod {n : Nat} (h : n ≤ 100) : meAdd x p % 2 ^ n = x % 2 ^ n := by
  have hfield : meAdd x p / 2 ^ 0 % 2 ^ n = x / 2 ^ 0 % 2 ^ n := meAdd_field (by omega)
  simpa using hfield

/-- What the slots name once a free one is filled. -/
theorem meLists_filled (hi : i < 6) (hfree : (meShval x).testBit i = false) :
    meLists (setBits (setBits x (128 + 10 * i) 10 p) 100 6 (meShval x + 2 ^ i)) q = true ↔ p % 1024 = q ∨ meLists x q = true := by
  set y := setBits (setBits x (128 + 10 * i) 10 p) 100 6 (meShval x + 2 ^ i) with hy
  have hval (k : Nat) (hk : k < 6) : (meShval y).testBit k = (decide (k = i) || (meShval x).testBit k) := by
    have h : meShval y = (meShval x + 2 ^ i) % 2 ^ 6 := setBits_field_on _ _
    rw [h, Nat.testBit_mod_two_pow, add_two_pow_bit hfree, decide_eq_true hk, Bool.true_and]
  have hnew : meSharer y i = p % 1024 :=
    (setBits_field_off _ _ (k' := 128 + 10 * i) (n' := 10) (by omega)).trans (setBits_field_on _ _)
  have hold (k : Nat) (hk : k ≠ i) : meSharer y k = meSharer x k :=
    (setBits_field_off _ _ (k' := 128 + 10 * k) (n' := 10) (by omega)).trans (setBits_field_off _ _ (by omega))
  rw [meLists_iff, meLists_iff]
  constructor
  · rintro ⟨k, hk, hv, hs⟩
    by_cases hki : k = i
    · exact .inl (by rw [← hs, hki, hnew])
    · rw [hval k hk, decide_eq_false hki, Bool.false_or] at hv
      exact .inr ⟨k, hk, hv, by rw [← hold k hki, hs]⟩
  · rintro (h | ⟨k, hk, hv, hs⟩)
    · exact ⟨i, hi, by rw [hval i hi]; simp, hnew.trans h⟩
    · have hki : k ≠ i := by rintro rfl; rw [hfree] at hv; cases hv
      exact ⟨k, hk, by rw [hval k hk, hv, Bool.or_true], by rw [hold k hki, hs]⟩

/-- A package that is entered is listed from then on, or SHOVF is set. -/
theorem meAdd_lists (hp : p < 1024) : meLists (meAdd x p) p = true ∨ meShovf (meAdd x p) = true := by
  rcases meAdd_cases x p with ⟨he, h⟩ | ⟨i, hi, hfree, he⟩ | he <;> rw [he]
  · exact .inl h
  · exact .inl ((meLists_filled hi hfree).2 (.inl (Nat.mod_eq_of_lt hp)))
  · exact .inr (setBits_bit_on _ _)

theorem meAdd_keeps (h : meLists x q = true) : meLists (meAdd x p) q = true := by
  rcases meAdd_cases x p with ⟨he, -⟩ | ⟨i, hi, hfree, he⟩ | he <;> rw [he]
  · exact h
  · exact (meLists_filled hi hfree).2 (.inr h)
  · have hv : meShval (setBits x 106 1 1) = meShval x := setBits_field_off _ _ (k' := 100) (n' := 6) (by omega)
    have hs (k : Nat) : meSharer (setBits x 106 1 1) k = meSharer x k :=
      setBits_field_off _ _ (k' := 128 + 10 * k) (n' := 10) (by omega)
    rwa [meLists_congr hv fun k _ => hs k]

/-- The slots that are kept. -/
theorem meKeep_shval (f : Nat → Bool) (hi : i < 6) : (meShval (meKeep x f)).testBit i = ((meShval x).testBit i && f (meSharer x i)) := by
  obtain ⟨hlt, hbit⟩ := testBit_foldl_pow (fun i => (meShval x).testBit i && f (meSharer x i)) 6
  have h : meShval (meKeep x f) = _ % 2 ^ 6 := setBits_field_on _ _
  rw [h, Nat.mod_eq_of_lt hlt, hbit i hi]

end

end Sys2Proof.Machine
end

section
/-! A directory's requests (O35): what it finds for a page, the job a request becomes (R118), and what each answer or silence makes of it (R119). -/

namespace Sys2Proof.Machine

section
variable {s s' s0 s1 : State}

/-! ### A request's turn -/

section
variable {i : Instr} {busy : Bool} {k : State → Out}

/-- A request whose turn it is goes on in s1: without its own place among those that wait. -/
def State.TurnOf (s : State) (i : Instr) (s1 : State) : Prop :=
  s1 = (if s.arg.again then { s with way := { s.way with waits := s.way.waits.eraseP (fun w => w.1 == i && w.2.retry == s.arg) } } else s) ∧
    (s.arg.again = true ∨ s.way.waits.any (fun w => waitKey w.1 w.2 == waitKey i s.arg) = false)

theorem waitTurn_turn (hb : busy = false) (ht : s.TurnOf i s1) : s.waitTurn i busy k = k s1 := by
  obtain ⟨rfl, ht⟩ := ht
  cases ha : s.arg.again with
  | true => rw [waitTurn_again ha hb, if_pos rfl]
  | false => rw [waitTurn_serves ha hb (ht.resolve_left (by simp [ha])), if_neg (by simp)]

theorem turn_arg (ht : s.TurnOf i s1) : s1.arg = s.arg := by
  rw [ht.1]
  split <;> rfl

end

/-! ### What a directory finds -/

section
variable {world size vpn q addr x : Nat}

theorem dirEntry_unbound (h : s.topPart world = none) : s.dirEntry world size vpn = (.nack 0x23, s) := by
  simp only [State.dirEntry, h]

theorem dirEntry_absent (hq : s.topPart world = some q) (hf : s.mfFind q world size vpn = (none, s0)) :
    s.dirEntry world size vpn = (.nack 1, s0) := by
  simp only [State.dirEntry, hq, hf]

theorem dirEntry_found (hq : s.topPart world = some q) (hf : s.mfFind q world size vpn = (some (addr, x), s0)) :
    s.dirEntry world size vpn =
      if meBusy x then (.busy, s0) else if 3 ≤ meHkind x ∨ 2 ≤ meState x then (.nack 0x24, s0) else (.at_ q addr x, s0) := by
  simp only [State.dirEntry, hq, hf]

theorem dirEntry_arg : (s.dirEntry world size vpn).2.arg = s.arg := by
  unfold State.dirEntry
  split
  · rfl
  · next q _ =>
    have hf : (s.mfFind q world size vpn).2.arg = s.arg := argOff.mfFind _ _ _ _
    split
    · next hm => rw [hm] at hf; exact hf
    · next hm =>
      rw [hm] at hf
      split
      · exact hf
      · split <;> exact hf

end

/-! ### What a message leaves of the event's numbers -/

theorem opLeave_arg (n : Nat) : (s.opLeave n).arg = s.arg := by
  unfold State.opLeave
  split
  · rfl
  · split
    · unfold State.opDone State.str? State.putStr
      simp only
      split <;> split <;> rfl
    · rfl

theorem left_arg (fs : List Flit) : (s.left fs).arg = s.arg := by
  refine foldl_keeps (g := State.arg) (fun s f => ?_) fs s
  split
  · split
    · split
      · exact opLeave_arg _
      · rfl
    · rfl
  · rfl

theorem pump_arg (peer : Nat) : (s.pump peer).arg = s.arg := by
  unfold State.pump
  split
  · rfl
  · exact (left_arg _).trans (setPair_arg _ _ _)

theorem sendWay_arg (peer kind : Nat) (n : List Nat) (bs : List Byte) : (s.sendWay peer kind n bs).arg = s.arg := by
  unfold State.sendWay
  split
  · rfl
  · exact (pump_arg _).trans (setPair_arg _ _ _)

theorem askHolder_arg (p key : Nat) (h : s.arg = s'.arg) :
    s.sendWay p 8 [key, s.argN 2, s.argN 3, s.argN 4] [] = s.sendWay p 8 [key, s'.argN 2, s'.argN 3, s'.argN 4] [] := by
  rw [argN_of_arg h 2, argN_of_arg h 3, argN_of_arg h 4]

theorem foldl_eq_of_kept {α β : Type} {f g : β → α → β} {P : β → Prop} (h : ∀ b a, P b → f b a = g b a ∧ P (g b a)) (l : List α) (b : β)
    (hb : P b) : l.foldl f b = l.foldl g b := by
  induction l generalizing b with
  | nil => rfl
  | cons a l ih =>
    obtain ⟨heq, hnext⟩ := h b a hb
    rw [List.foldl_cons, List.foldl_cons, heq, ih _ hnext]

/-- The questions to the holders quote the request's own page: no message between them changes it. -/
theorem askHolders_arg (who : List Nat) (key : Nat) (h : s.arg = s'.arg) :
    who.foldl (fun s p => s.sendWay p 8 [key, s.argN 2, s.argN 3, s.argN 4] []) s =
      who.foldl (fun s p => s.sendWay p 8 [key, s'.argN 2, s'.argN 3, s'.argN 4] []) s :=
  foldl_eq_of_kept (P := fun b => b.arg = s'.arg) (fun _ p hb => ⟨askHolder_arg p key hb, (sendWay_arg _ _ _ _).trans hb⟩) who s h

/-! ### The directory's requests -/

section
variable {d : DirEntry} {i : Instr} {c part addr x : Nat}

/-- The entry that a DIRECTORY_LOOKUP or an OWNERSHIP_REQUEST asks for. -/
def State.asked (s : State) : DirEntry × State := s.dirEntry (s.argN 2) (s.argN 3) (s.argN 4)

theorem asked_arg (hf : s.asked = (d, s0)) : s0.arg = s.arg :=
  (congrArg (fun r : DirEntry × State => r.2.arg) hf).symm.trans dirEntry_arg

theorem directoryRequest_turn (hi : i = .directoryLookup ∨ i = .ownershipRequest) (hf : s.asked = (d, s0)) :
    ∃ k, exec i s = s0.waitTurn i d.isBusy k := by
  unfold State.asked at hf
  rcases hi with rfl | rfl
  · change ∃ k, execDirectoryLookup s = _
    unfold execDirectoryLookup
    rw [hf]
    exact ⟨_, rfl⟩
  · change ∃ k, execOwnershipRequest s = _
    unfold execOwnershipRequest
    rw [hf]
    exact ⟨_, rfl⟩

theorem directoryLookup_refused (hf : s.asked = (.nack c, s0)) (ht : s0.TurnOf .directoryLookup s1) :
    exec .directoryLookup s = .next (s1.sendWay (s.argN 0) 10 [s.argN 1, c, 0] []) := by
  change execDirectoryLookup s = _
  unfold State.asked at hf
  unfold execDirectoryLookup
  simp only [hf]
  exact waitTurn_turn rfl ht

theorem ownershipRequest_refused (hf : s.asked = (.nack c, s0)) (ht : s0.TurnOf .ownershipRequest s1) :
    exec .ownershipRequest s = .next (s1.sendWay (s.argN 0) 13 [s.argN 1, if c = 1 then 0x21 else c, 0, 0] []) := by
  change execOwnershipRequest s = _
  unfold State.asked at hf
  unfold execOwnershipRequest
  simp only [hf]
  exact waitTurn_turn rfl ht

/-- The job that a lookup of an owned page becomes: the owner writes back, and then the requester is answered (R109). -/
def lookupJob (s s1 : State) (part addr x : Nat) : DirJob :=
  ⟨part, addr, s.argN 0, s.argN 1, meVersion x, false, [], [], true, false, false, s1.time⟩

theorem directoryLookup_owned (hf : s.asked = (.at_ part addr x, s0)) (ht : s0.TurnOf .directoryLookup s1) (hst : meState x = 1)
    (hown : meOwnv x = true) : exec .directoryLookup s =
      .next ((s1.mfWrite part addr (setBusy x true)).askBack (lookupJob s s1 part addr x) x true) := by
  change execDirectoryLookup s = _
  unfold State.asked at hf
  unfold execDirectoryLookup
  simp only [hf]
  refine (waitTurn_turn rfl ht).trans ?_
  simp only [hst, hown, and_self, if_true]
  rfl

theorem directoryLookup_shared (hf : s.asked = (.at_ part addr x, s0)) (ht : s0.TurnOf .directoryLookup s1) (hst : meState x = 0) :
    exec .directoryLookup s = .next (s1.grantRead part addr (setBits x 58 2 0) (s.argN 0) (s.argN 1)) := by
  change execDirectoryLookup s = _
  unfold State.asked at hf
  unfold execDirectoryLookup
  simp only [hf]
  refine (waitTurn_turn rfl ht).trans ?_
  simp only [hst, Nat.zero_ne_one, false_and, if_false]

/-- The owner that has to write back before another package gets the page. -/
def otherOwner (x peer : Nat) : Option Nat := if meOwnv x ∧ meOwner x ≠ peer then some (meOwner x) else none

/-- The other holders that an ownership request has to invalidate first (R118). -/
def State.holders (s : State) (x peer : Nat) : List Nat :=
  (if meShovf x then s.members else meSharers x).filter (fun p => p != peer && some p != otherOwner x peer && s.isMember p)

/-- The job that an ownership request becomes (R118). -/
def ownershipJob (s s1 : State) (part addr x : Nat) : DirJob :=
  ⟨part, addr, s.argN 0, s.argN 1, s.argN 5, false, s1.holders x (s.argN 0), [], (otherOwner x (s.argN 0)).isSome, true, false, s1.time⟩

theorem ownershipRequest_asks (hf : s.asked = (.at_ part addr x, s0)) (ht : s0.TurnOf .ownershipRequest s1) :
    exec .ownershipRequest s = .next (((s1.holders x (s.argN 0)).foldl
      (fun s p => s.sendWay p 8 [(ownershipJob s s1 part addr x).key, s1.argN 2, s1.argN 3, s1.argN 4] [])
      (s1.mfWrite part addr (setBusy x true))).dirGo (ownershipJob s s1 part addr x)) := by
  have harg : s1.arg = s.arg := (turn_arg ht).trans (asked_arg hf)
  change execOwnershipRequest s = _
  unfold State.asked at hf
  unfold execOwnershipRequest
  simp only [hf]
  refine (waitTurn_turn rfl ht).trans ?_
  simp only [argN_of_arg harg 5]
  exact congrArg (fun s => Host.Outcome.next (State.dirGo s (ownershipJob _ s1 part addr x))) (askHolders_arg _ _ (argOff.mfWrite _ _ _))

end

/-! ### The answers a request ends with -/

section
variable {j : DirJob} {x part addr peer ask : Nat}

/-- The entry once its page is granted (R118 step 4): the next VERSION, and the requester as owner, without sharers. -/
def grantedEntry (j : DirJob) (x : Nat) : Nat :=
  setBits (setBits (setBits (setBits (setBits (setBits (setBusy x false) 108 10 j.peer) 107 1 1) 106 1 0) 100 6 0) 58 2 1) 64 32
    ((meVersion x + 1) % 2 ^ 32)

theorem grantOwn_answer : s.grantOwn j x = (s.mfWrite j.part j.addr (grantedEntry j x)).sendWay j.peer 13
    [j.ask, 0, if meState x = 0 ∧ meOwnv x = false ∧ meVersion x = j.version then 1 else 0, (meVersion x + 1) % 2 ^ 32] [] := by
  simp only [State.grantOwn, grantedEntry, Bool.not_eq_true']

theorem grantedEntry_low : grantedEntry j x % 2 ^ 58 = x % 2 ^ 58 := by
  simp (disch := omega) only [grantedEntry, setBusy, setBits_mod]

/-- The entry that a read is answered with, and the entry that stays behind the answer (R109). -/
def sharedEntry (x peer : Nat) : Nat := setBusy (meAdd x peer) false
def keptEntry (y : Nat) : Nat := if meHkind y = 2 then setBits y 56 2 0 else y

theorem grantRead_answer : s.grantRead part addr x peer ask =
    (s.mfWrite part addr (keptEntry (sharedEntry x peer))).sendWay peer 10 [ask, 0, sharedEntry x peer] [] := rfl

/-- Behind an answer, HKIND 2 is 0 and every other field stays. -/
theorem meHkind_keptEntry (y : Nat) : meHkind (keptEntry y) = if meHkind y = 2 then 0 else meHkind y := by
  unfold keptEntry
  split <;> simp

theorem keptEntry_fields (y : Nat) : keptEntry y % 2 ^ 56 = y % 2 ^ 56 ∧ meState (keptEntry y) = meState y ∧ meSize (keptEntry y) = meSize y ∧
    meVersion (keptEntry y) = meVersion y ∧ meAddr (keptEntry y) = meAddr y ∧ meHome (keptEntry y) = meHome y ∧
    meEp (keptEntry y) = meEp y ∧ meOwner (keptEntry y) = meOwner y ∧ meOwnv (keptEntry y) = meOwnv y ∧
    meShval (keptEntry y) = meShval y ∧ meBusy (keptEntry y) = meBusy y ∧ meValid (keptEntry y) = meValid y := by
  unfold keptEntry
  split
  · exact ⟨setBits_mod _ _ (by omega), by simp⟩
  · simp

theorem sharedEntry_low {n : Nat} (h : n ≤ 58) : sharedEntry (setBits x 58 2 0) peer % 2 ^ n = x % 2 ^ n := by
  unfold sharedEntry setBusy
  rw [setBits_mod _ _ (by omega), meAdd_mod (by omega), setBits_mod _ _ h]

theorem meLists_setBits {y k n v q : Nat} (h : k + n ≤ 100) : meLists (setBits y k n v) q = meLists y q :=
  meLists_congr (setBits_field_off _ _ (k' := 100) (n' := 6) (.inr h)) fun i _ =>
    setBits_field_off _ _ (k' := 128 + 10 * i) (n' := 10) (by omega)

/-- The requester is listed from now on, or SHOVF is set; nobody that was listed is left out. -/
theorem sharedEntry_lists (hp : peer < 1024) : meLists (sharedEntry x peer) peer = true ∨ meShovf (sharedEntry x peer) = true := by
  unfold sharedEntry setBusy
  rw [meLists_setBits (by omega), meShovf_setBits_off (by omega)]
  exact meAdd_lists hp

theorem sharedEntry_keeps {q : Nat} (h : meLists x q = true) : meLists (sharedEntry (setBits x 58 2 0) peer) q = true := by
  unfold sharedEntry setBusy
  rw [meLists_setBits (by omega)]
  exact meAdd_keeps (by rwa [meLists_setBits (by omega)])

end

/-! ### How a request goes on -/

section
variable {j : DirJob} {x p : Nat} {c : Nat}

/-- A request whose question to a holder is answered: the holder is off the list, and what it could not give up is noted. -/
def DirJob.answered (j : DirJob) (p st : Nat) : DirJob :=
  { j with left := j.left.filter (fun q => q != p), failed := if st = 0 then j.failed else j.failed ++ [p] }

theorem invalidationAck_holder (hj : s.dirJob? (s.argN 1) = some j) (hp : s.argN 0 ∈ j.left) :
    exec .invalidationAck s = .next (s.dirGo (j.answered (s.argN 0) (s.argN 2))) := by
  change execInvalidationAck s = _
  simp only [execInvalidationAck, hj, List.contains_iff_mem.2 hp, if_true]
  rfl

/-- The owner's answer to a write-back: 0 done, 1 pinned, 2 refused by its gate, 3 not written back (R119) (DEDUCED, log 52). -/
def State.ownerAnswers (s : State) (j : DirJob) (st : Nat) : State :=
  match st with
  | 0 => s.dirGo { j with writeback := false }
  | 1 => s.dirFail j (if j.own then 0x100 else 0x22)
  | 2 => s.dirFail j 0x29
  | _ => s.dirFail j 0x30

theorem invalidationAck_owner (hj : s.dirJob? (s.argN 1) = some j) (hp : s.argN 0 ∉ j.left) (hw : j.writeback = true) (ha : j.asked = true) :
    exec .invalidationAck s = .next (s.ownerAnswers j (s.argN 2)) := by
  have hnot : j.left.contains (s.argN 0) = false := by simpa using hp
  change execInvalidationAck s = _
  unfold execInvalidationAck
  simp only [hj, hnot, Bool.false_eq_true, if_false]
  exact if_pos ⟨hw, ha⟩

theorem invalidationAck_unknown (hj : s.dirJob? (s.argN 1) = none) : exec .invalidationAck s = .next s := by
  change execInvalidationAck s = _
  simp only [execInvalidationAck, hj]

/-- A holder that has left the package's peers is not waited for. -/
theorem invalidationTimeout_parted (hj : s.dirJob? (s.argN 0) = some j) (h : ∃ p ∈ j.left, s.isMember p = false) :
    exec .invalidationTimeout s = .next (s.dirGo j) := by
  have hany : j.left.any (fun p => !s.isMember p) = true := by simpa using h
  change execInvalidationTimeout s = _
  simp only [execInvalidationTimeout, hj, hany, if_true]

theorem invalidationTimeout_members (hj : s.dirJob? (s.argN 0) = some j) (h : ∀ p ∈ j.left, s.isMember p = true) :
    exec .invalidationTimeout s =
      if s.time < j.since + s.wsFr j.part + s.wsEv j.part then .next s
      else if j.left ≠ [] then .next (s.dirGo { j with left := [], failed := j.failed ++ j.left })
      else if j.writeback ∧ j.asked then .next (s.dirFail j 0x30)
      else .next s := by
  have hany : j.left.any (fun p => !s.isMember p) = false := by simpa using h
  change execInvalidationTimeout s = _
  simp only [execInvalidationTimeout, hj, hany, Bool.false_eq_true, if_false]

theorem dirFail_answer : s.dirFail j c =
    (((s.mfRead j.part j.addr).2.dropJob j.key).mfWrite j.part j.addr (setBusy (s.mfRead j.part j.addr).1 false)).sendWay j.peer
      (if j.own then 13 else 10) (if j.own then [j.ask, c, 0, 0] else [j.ask, c, 0]) [] := by
  unfold State.dirFail
  cases j.own <;> rfl

/-- The holders that still have to answer: who has left the package's peers is not waited for. -/
def DirJob.awaiting (j : DirJob) (s : State) : DirJob := { j with left := j.left.filter (fun p => s.isMember p) }

/-- The entry a failed invalidation leaves: the sharers that kept their copies, and the requester if it is one (R118). -/
def failedEntry (j : DirJob) (x : Nat) : Nat := setBusy (meKeep x (fun p => j.failed.contains p || p == j.peer)) false

/-- The entry an owner leaves that has written its page back for a reader: the owner becomes a sharer (R109). -/
def yieldedEntry (x : Nat) : Nat := setBits (setBits (meAdd x (meOwner x)) 58 2 0) 107 1 0

theorem failedEntry_fields : (∀ i, i < 6 → (meShval (failedEntry j x)).testBit i =
      ((meShval x).testBit i && (j.failed.contains (meSharer x i) || meSharer x i == j.peer))) ∧
    meState (failedEntry j x) = meState x ∧ meOwner (failedEntry j x) = meOwner x ∧ meOwnv (failedEntry j x) = meOwnv x ∧
    meVersion (failedEntry j x) = meVersion x ∧ meBusy (failedEntry j x) = false := by
  refine ⟨fun i hi => ?_, ?_⟩
  · rw [failedEntry, setBusy, meShval_setBits_off (by omega), meKeep_shval _ hi]
  · simp [failedEntry, setBusy, meKeep]

theorem yieldedEntry_lists : meLists (yieldedEntry x) (meOwner x) = true ∨ meShovf (yieldedEntry x) = true := by
  have hp : meOwner x < 1024 := Nat.mod_lt _ (by omega)
  have hlists : meLists (yieldedEntry x) (meOwner x) = meLists (meAdd x (meOwner x)) (meOwner x) :=
    (meLists_congr (setBits_field_off _ _ (k' := 100) (n' := 6) (by omega)) fun i _ =>
      setBits_field_off _ _ (k' := 128 + 10 * i) (n' := 10) (by omega)).trans (meLists_setBits (by omega))
  have hovf : meShovf (yieldedEntry x) = meShovf (meAdd x (meOwner x)) := by simp [yieldedEntry]
  rw [hlists, hovf]
  exact meAdd_lists hp

section
variable (hr : s.mfRead j.part j.addr = (x, s1))
include hr

theorem dirGo_awaits (hl : (j.awaiting s).left ≠ []) : s.dirGo j = s1.putJob (j.awaiting s) := by
  simp only [State.dirGo, hr]
  exact if_pos hl

theorem dirGo_failed (hl : (j.awaiting s).left = []) (hf : j.failed ≠ []) : s.dirGo j =
    ((s1.dropJob j.key).mfWrite j.part j.addr (failedEntry j x)).sendWay j.peer 13 [j.ask, 0x100, 0, 0] [] := by
  simp only [State.dirGo, hr]
  exact (if_neg (not_not.2 hl)).trans (if_pos hf)

theorem dirGo_settled (hl : (j.awaiting s).left = []) (hf : j.failed = []) : s.dirGo j =
    if j.writeback then (if j.asked then s1.putJob (j.awaiting s) else s1.askBack (j.awaiting s) x (!j.own))
    else if j.own then (s1.dropJob j.key).grantOwn (j.awaiting s) x
    else (s1.dropJob j.key).grantRead j.part j.addr (yieldedEntry x) j.peer j.ask := by
  simp only [State.dirGo, hr]
  exact (if_neg (not_not.2 hl)).trans (if_neg (not_not.2 hf))

end

end

/-! ### The update an eviction sends -/

section
variable {d : DirEntry} {part addr x : Nat}

/-- The entry once a package has evicted its copy, which it owned where `owned` (R116 step 4). -/
def updatedEntry (x p : Nat) (owned : Prop) [Decidable owned] : Nat :=
  let y := meKeep x (fun q => q != p)
  if owned ∧ meOwnv x ∧ meOwner x = p then setBits (setBits y 107 1 0) 58 2 0 else y

theorem directoryEntryUpdate_busy (hf : s.dirEntry (s.argN 1) (s.argN 2) (s.argN 3) = (.busy, s0)) (ha : s0.arg.again = false) :
    exec .directoryEntryUpdate s = .next { s0 with way := { s0.way with waits := s0.way.waits ++ [(.directoryEntryUpdate, s0.arg)] } } := by
  change execDirectoryEntryUpdate s = _
  unfold execDirectoryEntryUpdate
  rw [hf]
  exact waitTurn_waits ha (.inl rfl)

theorem directoryEntryUpdate_writes (hf : s.dirEntry (s.argN 1) (s.argN 2) (s.argN 3) = (.at_ part addr x, s0))
    (ht : s0.TurnOf .directoryEntryUpdate s1) :
    exec .directoryEntryUpdate s = .next (s1.mfWrite part addr (updatedEntry x (s.argN 0) (s.argN 4 = 1))) := by
  have hs0 : s0.arg = s.arg := (congrArg (fun r : DirEntry × State => r.2.arg) hf).symm.trans dirEntry_arg
  have harg : s1.arg = s.arg := (turn_arg ht).trans hs0
  change execDirectoryEntryUpdate s = _
  unfold execDirectoryEntryUpdate
  simp only [hf]
  refine (waitTurn_turn rfl ht).trans ?_
  simp only [argN_of_arg harg]
  rfl

theorem updatedEntry_fields (p : Nat) (owned : Prop) [Decidable owned] :
    (∀ i, i < 6 → (meShval (updatedEntry x p owned)).testBit i = ((meShval x).testBit i && meSharer x i != p)) ∧
    (owned → meOwnv x = true → meOwner x = p → meOwnv (updatedEntry x p owned) = false ∧ meState (updatedEntry x p owned) = 0) ∧
    (¬ owned ∨ meOwnv x = false ∨ meOwner x ≠ p → meOwnv (updatedEntry x p owned) = meOwnv x ∧ meState (updatedEntry x p owned) = meState x) ∧
    meShovf (updatedEntry x p owned) = meShovf x ∧ meVersion (updatedEntry x p owned) = meVersion x ∧
    meHome (updatedEntry x p owned) = meHome x ∧ meAddr (updatedEntry x p owned) = meAddr x := by
  have hkeep (f : Nat → Bool) : meShovf (meKeep x f) = meShovf x ∧ meVersion (meKeep x f) = meVersion x ∧ meHome (meKeep x f) = meHome x ∧
      meAddr (meKeep x f) = meAddr x ∧ meOwnv (meKeep x f) = meOwnv x ∧ meState (meKeep x f) = meState x := by simp [meKeep]
  obtain ⟨hovf, hver, hhome, haddr, hownv, hst⟩ := hkeep (fun q => q != p)
  unfold updatedEntry
  by_cases h : owned ∧ meOwnv x = true ∧ meOwner x = p
  · obtain ⟨ho, hv, hp⟩ := h
    simp [ho, hv, hp, hovf, hver, hhome, haddr]
    exact fun i hi => meKeep_shval _ hi
  · simp only [if_neg h, hovf, hver, hhome, haddr, hownv, hst]
    exact ⟨fun i hi => meKeep_shval _ hi, fun ho hv hp => absurd ⟨ho, hv, hp⟩ h, fun _ => by simp, by simp⟩

end

end

end Sys2Proof.Machine

open Sys2Proof Sys2Proof.Machine

/-- Settles O35, by what the directory finds, then by the kind of request, and by what the request still waits for. -/
theorem directoryRequestsAndJobs : Obligations.DirectoryRequestsAndJobs := by
  refine ⟨⟨fun s s0 s1 c part addr x i => ?_, fun s j x _ hp => ?_⟩, fun s j => ?_, fun s s1 j x hr => ?_, fun s s0 s1 part addr x => ?_⟩
  · refine ⟨dirEntry_unbound, fun q hq => ⟨dirEntry_absent hq, fun hm => ?_⟩, fun hf ht => ?_, fun d hf hi => ?_, fun hf hi ht hst hown => ?_,
      fun hf hi ht hst _ hbusy => ?_, fun hf hi ht => ?_⟩
    · have hfound := dirEntry_found hq hm
      refine ⟨fun hb => ?_, fun hb hbad => ?_, fun hb hk hst => ?_⟩
      · exact hfound.trans (if_pos hb)
      · exact hfound.trans ((if_neg (by simp [hb])).trans (if_pos (by omega)))
      · exact hfound.trans ((if_neg (by simp [hb])).trans (if_neg (by omega)))
    · constructor
      · rintro rfl; exact ⟨_, directoryLookup_refused hf ht, rfl⟩
      · rintro rfl; exact ⟨_, ownershipRequest_refused hf ht, rfl⟩
    · obtain ⟨k, hk⟩ := directoryRequest_turn hi hf
      rw [hk]
      refine ⟨fun hwait ha => ⟨_, hk.trans (waitTurn_waits ha (hwait.imp_left fun hd => ?_)), rfl⟩, fun hd ha => waitTurn_busy_again ha ?_⟩
      · rw [hd]; rfl
      · rw [hd]; rfl
    · subst hi
      refine ⟨_, directoryLookup_owned hf ht hst hown, _, rfl, rfl, _, List.mem_append_right _ List.mem_cons_self, ?_⟩
      exact ⟨rfl, rfl, rfl, rfl, rfl, rfl, rfl⟩
    · subst hi
      obtain ⟨hlow, hstate, hsize, hver, haddr, hhome, hep, howner, hownv, hshval, hbusy', hvalid⟩ :=
        keptEntry_fields (sharedEntry (setBits x 58 2 0) (s.argN 0))
      have hkind : meHkind (sharedEntry (setBits x 58 2 0) (s.argN 0)) = meHkind x := by simp [sharedEntry, setBusy]
      refine ⟨_, directoryLookup_shared hf ht hst, sharedEntry (setBits x 58 2 0) (s.argN 0),
        keptEntry (sharedEntry (setBits x 58 2 0) (s.argN 0)), grantRead_answer, sharedEntry_lists, fun _ => sharedEntry_keeps, hkind,
        (meHkind_keptEntry _).trans (by rw [hkind]), hlow.trans (sharedEntry_low (by omega)), hstate.trans ?_, hsize.trans ?_, hver.trans ?_,
        haddr.trans ?_, hhome.trans ?_, hep.trans ?_, howner.trans ?_, hownv.trans ?_, hshval, hbusy'.trans ?_, hvalid.trans ?_⟩ <;>
        simp [sharedEntry, setBusy]
    · subst hi
      exact ⟨_, ownershipRequest_asks hf ht, ownershipJob s s1 part addr x, rfl, rfl, rfl, rfl, rfl, rfl, rfl, rfl, rfl, rfl⟩
  · exact ⟨_, grantOwn_answer, by simp [grantedEntry, Nat.mod_eq_of_lt hp], by simp [grantedEntry], by simp [grantedEntry],
      by simp [grantedEntry], by simp [grantedEntry], by simp [grantedEntry], by simp [grantedEntry], grantedEntry_low,
      by simp [grantedEntry, setBusy], by simp [grantedEntry, setBusy], by simp [grantedEntry, setBusy], by simp [grantedEntry, setBusy],
      by simp [grantedEntry, setBusy]⟩
  · refine ⟨fun hj hp => ⟨_, invalidationAck_holder hj hp, rfl⟩, fun hj hp hw ha => ?_, invalidationAck_unknown, fun hj hm => ?_,
      fun hj hm => ⟨_, invalidationTimeout_parted hj hm, rfl⟩⟩
    · have hack := invalidationAck_owner hj hp hw ha
      refine ⟨fun h => ⟨_, hack, ?_⟩, fun h => ⟨_, hack, ?_⟩, fun h => ⟨_, hack, ?_⟩, fun h => ⟨_, hack, ?_⟩⟩ <;> rw [h] <;> rfl
    · have htimeout := invalidationTimeout_members hj hm
      refine ⟨fun h => htimeout.trans (if_pos h), fun h hl => ⟨_, htimeout.trans ?_, rfl⟩, fun h hl hw ha => ⟨_, htimeout.trans ?_, rfl⟩⟩
      · rw [if_neg (not_lt.2 h), if_pos hl]
      · rw [if_neg (not_lt.2 h), if_neg (not_not.2 hl), if_pos ⟨hw, ha⟩]
  · refine ⟨dirGo_awaits hr, fun hl hf _ => ⟨_, dirGo_failed hr hl hf, ?_⟩, fun hl hf hw ha => ?_, fun hl hf hw ha => ?_, fun hl hf hw ho => ?_,
      fun hl hf hw ho _ => ⟨yieldedEntry x, ?_, by simp [yieldedEntry], by simp [yieldedEntry], ?_⟩, fun c => ?_⟩
    · exact failedEntry_fields
    · rw [dirGo_settled hr hl hf, if_pos hw, if_pos ha]; rfl
    · rw [dirGo_settled hr hl hf, if_pos hw, if_neg (by simp [ha])]; rfl
    · rw [dirGo_settled hr hl hf, if_neg (by simp [hw]), if_pos ho]; rfl
    · rw [dirGo_settled hr hl hf, if_neg (by simp [hw]), if_neg (by simp [ho])]; rfl
    · exact yieldedEntry_lists
    · have hfail := dirFail_answer (s := s) (j := j) (c := c)
      rwa [hr] at hfail
  · refine ⟨fun hf ht _ => ⟨_, directoryEntryUpdate_writes hf ht, _, rfl, ?_⟩, fun hf ha => ⟨_, directoryEntryUpdate_busy hf ha, rfl⟩⟩
    exact updatedEntry_fields _ _
end

section
/-! An access some of whose lanes meet a page that is not there (O32: R97 to R99, R102): the record it posts, what issue leaves of the string, and the
parked path. -/

namespace Sys2Proof.Machine

/-! ### The fault record (R102) -/

/-- The parts of a record: the time, the address, the world, its partition, the page's size, the access, the wish to own, the core, the slot, the path,
the source, the address waybill and the lanes. -/
def recordWord (time va world part size acc own core slot path src wb lanes : Nat) : Nat :=
  time * 2 ^ 192 + va * 2 ^ 128 + world * 2 ^ 120 + part * 2 ^ 115 + size * 2 ^ 113 + acc * 2 ^ 110 + own * 2 ^ 109 + core * 2 ^ 100 + slot * 2 ^ 95 +
    path * 2 ^ 94 + src * 2 ^ 91 + wb * 2 ^ 75 + lanes * 2 ^ 43

theorem recordWord_fields {time va world part size acc own core slot path src wb lanes N : Nat} (htime : time < 2 ^ 64) (hva : va < 2 ^ 57)
    (hworld : world < 256) (hpart : part < 32) (hsize : size < 4) (hacc : acc < 8) (hown : own < 2) (hcore : core < 512) (hslot : slot < 32)
    (hpath : path < 2) (hsrc : src < 8) (hwb : wb < 2 ^ 16) (hlanes : lanes < 2 ^ 32)
    (hN : N = recordWord time va world part size acc own core slot path src wb lanes) :
    N < 2 ^ 256 ∧ N / 2 ^ 128 % 2 ^ 57 = va ∧ N / 2 ^ 120 % 2 ^ 8 = world ∧ N / 2 ^ 113 % 2 ^ 2 = size ∧ N / 2 ^ 110 % 2 ^ 3 = acc ∧
    N / 2 ^ 109 % 2 ^ 1 = own ∧ N / 2 ^ 100 % 2 ^ 9 = core ∧ N / 2 ^ 95 % 2 ^ 5 = slot ∧ N / 2 ^ 94 % 2 ^ 1 = path ∧ N / 2 ^ 91 % 2 ^ 3 = src ∧
    N / 2 ^ 75 % 2 ^ 16 = wb ∧ N / 2 ^ 43 % 2 ^ 32 = lanes := by
  unfold recordWord at hN
  refine ⟨?_, ?_, ?_, ?_, ?_, ?_, ?_, ?_, ?_, ?_, ?_, ?_⟩ <;> omega

theorem ofNat_field {N : Nat} (hN : N < 2 ^ 256) (k n : Nat) : ((BitVec.ofNat 256 N).extractLsb' k n).toNat = N / 2 ^ k % 2 ^ n := by
  rw [BitVec.extractLsb'_toNat, BitVec.toNat_ofNat, Nat.mod_eq_of_lt hN, Nat.shiftRight_eq_div_pow]

theorem ofNat_bit (N : Nat) {k : Nat} (hk : k < 256) : (BitVec.ofNat 256 N).getLsbD k = decide (N / 2 ^ k % 2 ^ 1 = 1) := by
  rw [BitVec.getLsbD_ofNat, decide_eq_true hk, Bool.true_and, Nat.testBit_eq_decide_div_mod_eq, pow_one]

/-- The record of a park of a string that is no outrider, field by field. -/
theorem faultRecord_fields {s : State} {t : Str} {u core : Nat} {path : Bool} {m : MemOp} {aw : Waybill} {um : Lanes} {r : LaneReq} {sz : Nat} {own : Bool}
    {w : BitVec 256} (hw : w = faultRecord s t u core path m aw um r sz own false) (ho : t.outrider = false) (hworld : t.world < 256)
    (hpart : ∀ p, s.partOf t.world = some p → p < 24) (hsz : sz < 4) (hacc : m.acc < 8) (hcore : core < 480) (hslot : slotOf u < 32) :
    frVa w = r.addr % 2 ^ 57 ∧ frWorld w = t.world ∧ frSize w = sz ∧ frAcc w = m.acc ∧ frOwn w = own ∧ frCore w = core ∧ frSlot w = slotOf u ∧
    frPath w = path ∧ frSrc w = (if m.uniform then 1 else 0) ∧ frWb w = aw ∧ frLanes w = um := by
  have hp : (s.partOf t.world).getD 0 < 32 := by
    cases h : s.partOf t.world with
    | none => decide
    | some p => exact lt_trans (hpart p h) (by decide)
  have hN : w = BitVec.ofNat 256 (recordWord (s.time % 2 ^ 64) (r.addr % 2 ^ 57) t.world ((s.partOf t.world).getD 0) sz m.acc own.toNat core (slotOf u)
      path.toNat (if m.uniform then 1 else 0) aw.toNat um.toNat) := by
    rw [hw]
    unfold faultRecord recordWord
    cases own <;> cases path <;> simp [ho]
  have hsource : (if m.uniform then 1 else 0) < 8 := by split <;> omega
  obtain ⟨hlt, hva, hwd, hsize, hac, hown, hco, hsl, hpa, hsrc, hwb, hlanes⟩ := recordWord_fields (Nat.mod_lt _ (by decide)) (Nat.mod_lt _ (by decide)) hworld hp
    hsz hacc (Bool.toNat_lt own) (lt_trans hcore (by decide)) hslot (Bool.toNat_lt path) hsource aw.isLt um.isLt rfl
  generalize recordWord _ _ _ _ _ _ _ _ _ _ _ _ _ = N at *
  subst hN
  refine ⟨?_, ?_, ?_, ?_, ?_, ?_, ?_, ?_, ?_, BitVec.eq_of_toNat_eq ?_, BitVec.eq_of_toNat_eq ?_⟩
  · exact (ofNat_field hlt _ _).trans hva
  · exact (ofNat_field hlt _ _).trans hwd
  · exact (ofNat_field hlt _ _).trans hsize
  · exact (ofNat_field hlt _ _).trans hac
  · refine (ofNat_bit _ (by decide)).trans ?_
    rw [hown]
    cases own <;> rfl
  · exact (ofNat_field hlt _ _).trans hco
  · exact (ofNat_field hlt _ _).trans hsl
  · refine (ofNat_bit _ (by decide)).trans ?_
    rw [hpa]
    cases path <;> rfl
  · exact (ofNat_field hlt _ _).trans hsrc
  · exact (ofNat_field hlt _ _).trans hwb
  · exact (ofNat_field hlt _ _).trans hlanes

/-! ### A string but for its registers -/

/-- A string without its registers and their waybills. -/
def Str.bare (t : Str) : Str := { t with v := [], vwb := [], s := [], swb := [] }

theorem deliver_bare (t : Str) (d : Dest) (l v : Nat) : (t.deliver d l v).bare = t.bare := by
  cases d with
  | none => rfl
  | vec r n size sg => exact deliver_vec_keeps (fun _ _ _ _ => rfl) _ _ _ _ _ _
  | uni r n => exact deliver_uni_keeps (fun _ _ => rfl) _ _ _ _

theorem widen_bare (t : Str) (d : Dest) (w : Waybill) : (t.widen d w).bare = t.bare := widen_keeps (fun _ _ _ => rfl) _ _

/-! ### What issue does outside the string -/

/-- What a park goes by besides its own string: who issues, the fault queue, and the partitions of worlds. -/
def State.parkView (s : State) : Nat × Bool × List (BitVec 256) × Table Nat := (s.curUnit, s.curPath, s.way.posts, s.xl.part)

section
variable {s s' : State}

theorem parkOff : OffWalk State.parkView :=
  ⟨⟨fun _ _ => rfl, fun _ _ _ => rfl, fun _ _ => rfl⟩, fun _ _ _ _ _ _ => rfl, fun _ _ => rfl, fun _ _ => rfl⟩

theorem parkView_of_pastL1 (h : s'.pastL1 = s.pastL1) : s'.parkView = s.parkView := congrArg (fun k => State.parkView k.1) h

theorem atomPut_parkView (i : Bool) (t h l : Nat) (d : Line) (wb : Waybill) (p : Nat) : (s.atomPut i t h l d wb p).parkView = s.parkView := by
  unfold State.atomPut
  split
  · exact (parkOff.charge _ _).trans ((parkOff.markDirtyFor _ _ _).trans (parkOff.orGranWb _ _))
  · rfl

theorem sampleAt_parkView (c w ty z : Nat) (home hit : Bool) (a va : Nat) : (s.sampleAt c w ty z home hit a va).parkView = s.parkView := by
  unfold State.sampleAt
  split
  · rfl
  · extract_lets die ctl bit
    split
    · rfl
    next k key draw _ =>
      have hdraw (s : State) : (draw s).2.parkView = s.parkView := by unfold draw; split <;> rfl
      split
      next left s1 hleft =>
      have hs1 : s1.parkView = s.parkView := by
        split at hleft
        · exact (congrArg (fun q => q.2.parkView) hleft).symm.trans (hdraw s)
        · exact (congrArg (fun q => q.2.parkView) hleft).symm
      split
      · exact hs1
      · split
        next interval s2 hnext =>
        have hs2 : s2.parkView = s.parkView := (congrArg (fun q => q.2.parkView) hnext).symm.trans ((hdraw s1).trans hs1)
        refine (parkOff.ringPutN _ _ _ _ _).trans (Eq.trans ?_ hs2)
        split <;> rfl

theorem sampleHome_parkView (c w : Nat) (k : ReqKind) (x : Xlat) (va : Nat) (b : Bool) : (s.sampleHome c w k x va b).parkView = s.parkView := by
  unfold State.sampleHome
  split
  · rfl
  · exact sampleAt_parkView _ _ _ _ _ _ _ _

theorem homeMerge_parkView (x : Xlat) (rid : Nat) (ls : List LaneReq) (wb : Waybill) : (s.homeMerge x rid ls wb).parkView = s.parkView := by
  unfold State.homeMerge
  simp only
  split
  · split
    · rfl
    · exact atomPut_parkView _ _ _ _ _ _ _
  · split
    · exact (parkOff.putL2 _ _ _ _).trans (parkOff.evictFor _)
    · split
      · rfl
      · next h =>
        have hs := parkOff.ensureL2 h
        split
        · exact hs
        · exact (parkOff.putL2 _ _ _ _).trans hs

theorem homeAccess_parkView (m : MemOp) (x : Xlat) (r : LaneReq) (wb : Waybill) : (s.homeAccess m x r wb).2.2.parkView = s.parkView := by
  unfold State.homeAccess
  simp only
  split
  · split <;> rfl
  · split
    · rfl
    · split
      · exact homeMerge_parkView _ _ _ _
      · split
        · split
          · rfl
          · split
            · exact atomPut_parkView _ _ _ _ _ _ _
            · unfold State.atomRead
              split
              · rfl
              · exact parkOff.charge _ _
        · split
          · rfl
          · next h =>
            have hs := parkOff.ensureL2 h
            split
            · exact hs
            · split
              · exact (parkOff.putL2 _ _ _ _).trans hs
              · exact hs

theorem specials_parkView (c w n : Nat) (m : MemOp) (wb : Waybill) (missed seen : List Nat) (gs : List (List (LaneReq × Xlat))) :
    (s.specials c w n m wb missed seen gs).2.parkView = s.parkView := by
  induction gs generalizing s seen with
  | nil => rfl
  | cons g gs ih =>
    cases g with
    | nil => exact ih _
    | cons e more =>
      obtain ⟨r, x⟩ := e
      unfold State.specials
      simp only
      split
      · exact ih _
      · have hs : State.parkView (if seen.contains (l2Key x.ident x.tag (x.gpa / 128)) then s else
            s.sampleHome c w m.kind x r.addr (missed.contains (l2Key x.ident x.tag (x.gpa / 128)))) = s.parkView := by
          split
          · rfl
          · exact sampleHome_parkView _ _ _ _ _ _
        split
        · exact (ih _).trans ((homeMerge_parkView _ _ _ _).trans hs)
        · exact (ih _).trans ((homeAccess_parkView _ _ _ _).trans hs)

theorem l1Store_parkView (c w n rid : Nat) (ls : List LaneReq) (wb : Waybill) : (s.l1Store c w n rid ls wb).parkView = s.parkView := by
  unfold State.l1Store
  split
  · rfl
  · simp only
    split
    · exact parkView_of_pastL1 (l1Fill_pastL1 _ _ _ _ _ _ _)
    · rfl

theorem l1Writes_parkView (c w : Nat) (rs : List Req) : (s.l1Writes c w rs).parkView = s.parkView := by
  induction rs generalizing s with
  | nil => rfl
  | cons r rs ih =>
    unfold State.l1Writes
    refine ih.trans ?_
    split
    · rfl
    · simp only
      split <;> exact l1Store_parkView _ _ _ _ _ _

theorem l1Touch_parkView (c w n : Nat) : (s.l1Touch c w n).parkView = s.parkView := by
  unfold State.l1Touch
  split <;> rfl

/-! ### The park (R97 to R99) -/

/-- A path of the string t parks as operation n under the record of a lane's page. -/
def State.parksAt (s : State) (t : Str) (m : MemOp) (aw : Waybill) (um : Lanes) (r : LaneReq) (sz : Nat) (own : Bool) (n : Nat) : State :=
  let w := faultRecord s t s.curUnit (coreOf s.curUnit) s.curPath m aw um r sz own false
  State.putCur { s with way := { s.way with posts := s.way.posts ++ [w] } } t
    { (t.path s.curPath).park um with parkOp := some n, wrec := some w }

/-- The lanes a park keeps. -/
def parkMask (m : MemOp) (c : Checked) : Lanes := if m.uniform then 1 else laneMask (fun l => c.park.any (fun e => e.1.lane == l))

/-- The string at the park: but for registers and waybills it is the string that issued, and those too are as they were with every lane parked; the
path has at most bound its flag. -/
structure AtPark (s : State) (t : Str) (p : Path) (c : Checked) (s1 : State) (t1 : Str) (p1 : Path) : Prop where
  view : s1.parkView = s.parkView
  bare : t1.bare = t.bare
  untouched : c.go = [] → t1 = t
  bound : ∃ l, p1 = { p with binds := l }

theorem bind_binds (p : Path) (f : BitVec 1) (n : Nat) : ∃ l, p.bind f n = { p with binds := l } := by
  unfold Path.bind
  split
  · exact ⟨_, rfl⟩
  · exact ⟨_, rfl⟩

/-- An outcome in which the path has parked. -/
def ParkedOut (s : State) (t : Str) (p : Path) (m : MemOp) (aw : Waybill) (c : Checked) (r : LaneReq) (sz : Nat) (own : Bool) (out : Out) : Prop :=
  ∃ s1 t1 p1 n, AtPark s t p c s1 t1 p1 ∧ out = .next (s1.parksAt (t1.setPath s.curPath p1) m aw (parkMask m c) r sz own n)

/-- The effect of an access with a lane that parks: whatever the other lanes do, the path parks. The parked lanes are one part of the operation that is
not over (`hleft`), so it is not completed here; what the other lanes do on the way (s1 to s7) is outside the view a park goes by. -/
theorem perform_parks {t : Str} {p : Path} {m : MemOp} {src wb aw : Waybill} {c : Checked} {r : LaneReq} {sz : Nat} {own : Bool}
    {others : List (LaneReq × Nat × Bool)} (hpark : c.park = (r, sz, own) :: others) :
    ParkedOut s t p m aw c r sz own (s.perform t p m src wb aw c) := by
  unfold State.perform
  extract_lets u core n fresh s1 sp plain ans hits rest zeros touched base0 base rs cnt full acc0 p1 um
  split
  next svals s2 hsp =>
  extract_lets s3 vals s4 s5 rs1 s6 left old w o s7 t1 s8 m8 s9 s10
  have h1 : s1.parkView = s.parkView := by unfold s1; split <;> rfl
  have h2 : s2.parkView = s.parkView := by
    have hspecials := specials_parkView (s := s1) core t.world n m wb p.missed [] (specialGroups m (laneOrder n sp))
    rw [hsp] at hspecials
    exact hspecials.trans h1
  have h3 : s3.parkView = s.parkView := by
    unfold s3
    split
    · exact (parkView_of_pastL1 (acquireAt_pastL1 _ _ _)).trans h2
    · exact h2
  have h4 : s4.parkView = s.parkView := by
    refine (foldl_keeps (g := State.parkView) (fun s l => ?_) zeros s3).trans h3
    split
    · rfl
    · exact parkView_of_pastL1 (l1Fill_pastL1 _ _ _ _ _ _ _)
  have h5 : s5.parkView = s.parkView := (foldl_keeps (g := State.parkView) (fun _ _ => l1Touch_parkView _ _ _) touched s4).trans h4
  have h6 : s6.parkView = s.parkView := (l1Writes_parkView _ _ _).trans h5
  have h7 : s7.parkView = s.parkView := by
    unfold s7
    clear_value fresh cnt
    split <;> exact h6
  have hleft : o.left ≠ 0 := by
    have hone : 1 ≤ left := by simp [left, hpark]
    exact Nat.ne_of_gt (Nat.lt_of_lt_of_le hone (Nat.le_add_left _ _))
  have hs10 : s10 = s9 := if_neg hleft
  have h10 : s10.parkView = s.parkView := by rw [hs10]; exact h7
  have hunit : s10.curUnit = u := congrArg (fun v => v.1) h10
  have hpath : s10.curPath = s.curPath := congrArg (fun v => v.2.1) h10
  have hpath7 : s7.curPath = s.curPath := congrArg (fun v => v.2.1) h7
  have hstr : s10.str? u = some (t1.setPath s7.curPath p1) := by rw [hs10]; exact (putStr_str _ _ _ _).trans (if_pos rfl)
  have hbare : t1.bare = t.bare := by
    unfold t1
    split
    · rfl
    · exact (widen_bare _ _ _).trans (foldl_keeps (g := Str.bare) (fun _ _ => deliver_bare _ _ _ _) vals t)
  have hbound : ∃ l, p1 = { p with binds := l } := by
    unfold p1
    clear_value fresh
    split
    · exact bind_binds _ _ _
    · exact ⟨_, rfl⟩
  refine ⟨s10, t1, p1, n, ⟨h10, hbare, fun hgo => if_pos (by rw [hgo]; rfl), hbound⟩, ?_⟩
  rw [hstr, hpark, hpath7]
  unfold State.parksAt
  rw [hunit, hpath]
  rfl

/-! ### The checks leave the issuer -/

/-- Who issues. -/
def State.issuer (s : State) : Nat × Bool := (s.curUnit, s.curPath)

theorem issuerOff : OffWalk State.issuer :=
  ⟨⟨fun _ _ => rfl, fun _ _ _ => rfl, fun _ _ => rfl⟩, fun _ _ _ _ _ _ => rfl, fun _ _ => rfl, fun _ _ => rfl⟩

theorem xlateLanes_issuer (core w acc lvl : Nat) (ins : List LaneReq) : (s.xlateLanes core w acc lvl ins).2.issuer = s.issuer := by
  induction ins generalizing s with
  | nil => rfl
  | cons r ins ih => exact ih.trans (issuerOff.xlate _ _ _ _ _)

theorem checkLanes_issuer (t : Str) (p : Path) (core : Nat) (m : MemOp) (ins : List LaneReq) : (s.checkLanes t p core m ins).2.issuer = s.issuer := by
  unfold State.checkLanes
  split
  · exact xlateLanes_issuer _ _ _ _ _
  · rfl

theorem gate_issuer {es : List Egress} (h : s.gate es = .ok s') : s'.issuer = s.issuer := by
  unfold State.gate at h
  simp only at h
  split at h
  · cases h; rfl
  · split at h
    · cases h
    · cases h
      unfold State.gateCount
      split <;> rfl

/-- Every branch of the later checks but one stops the access; in that one the gate has let it pass. -/
theorem judgeLate_issuer {t : Str} {p : Path} {m : MemOp} {wb : Waybill} {c k : Checked} (h : judgeLate s t p m wb c = .go s' k) :
    s'.issuer = s.issuer := by
  unfold judgeLate at h
  simp only at h
  repeat' split at h
  all_goals cases h
  all_goals exact gate_issuer ‹_›

theorem judge_issuer {t : Str} {p : Path} {m : MemOp} {ins : List LaneReq} {wb : Waybill} {k : Checked} (h : judge s t p m ins wb = .go s' k) :
    s'.issuer = s.issuer := by
  unfold judge at h
  simp only at h
  split at h
  · cases h
  · split at h
    · cases h
    · unfold atomRelease at h
      split at h
      · cases h
      · exact (judgeLate_issuer h).trans (checkLanes_issuer _ _ _ _ _)

/-! ### The parked path -/

section
variable {t t1 : Str} {p p1 : Path} {m : MemOp} {aw : Waybill} {c : Checked} {um : Lanes} {r : LaneReq} {sz n : Nat} {own : Bool} {s1 : State}

/-- The path under which a string is parked. -/
def State.parkedPath (s : State) (t : Str) (p : Path) (m : MemOp) (aw : Waybill) (um : Lanes) (r : LaneReq) (sz : Nat) (own : Bool) (n : Nat) : Path :=
  { p.park um with parkOp := some n, wrec := some (faultRecord s (t.setPath s.curPath p) s.curUnit (coreOf s.curUnit) s.curPath m aw um r sz own false) }

/-- What neither the registers nor the paths of a string decide. -/
theorem setPath_of_bare {β : Type} {g : Str → β} (hg : ∀ t, g t.bare = g t) (h0 : ∀ t p, g { t with p0 := p } = g t)
    (h1 : ∀ t p, g { t with p1 := p } = g t) (h : t1.bare = t.bare) (b : Bool) (p : Path) : g (t1.setPath b p) = g t := by
  have hsame : g t1 = g t := (hg t1).symm.trans ((congrArg g h).trans (hg t))
  cases b
  · exact (h0 _ _).trans hsame
  · exact (h1 _ _).trans hsame

/-- The registers of a string and their waybills are the same under any paths. -/
theorem setPath_registers (t : Str) (b : Bool) (p : Path) : (t.setPath b p).v = t.v ∧ (t.setPath b p).vwb = t.vwb ∧ (t.setPath b p).s = t.s ∧
    (t.setPath b p).swb = t.swb := by
  cases b <;> exact ⟨rfl, rfl, rfl, rfl⟩

theorem setPath_setPath (t : Str) (b : Bool) (p q : Path) : (t.setPath b p).setPath b q = t.setPath b q := by
  cases b <;> rfl

theorem parksAt_cur : (s.parksAt (t.setPath s.curPath p) m aw um r sz own n).cur = t.setPath s.curPath (s.parkedPath t p m aw um r sz own n) := by
  unfold State.parksAt
  simp only [putCur_cur, setPath_path, setPath_setPath]
  rfl

theorem parksAt_curp : (s.parksAt (t.setPath s.curPath p) m aw um r sz own n).curp = s.parkedPath t p m aw um r sz own n := by
  unfold State.parksAt
  simp only [putCur_curp, setPath_path]
  rfl

end

section
variable {i : Instr} {m : MemOp} {ins : List LaneReq} {src wb aw : Waybill} {s1 : State} {k : Checked} {r : LaneReq} {sz : Nat} {own : Bool}
  {rest : List (LaneReq × Nat × Bool)}

/-- What the path of an access keeps when it parks (R97 to R99), and the record it posts (R102). -/
def Parked (s s1 : State) (m : MemOp) (aw : Waybill) (k : Checked) (r : LaneReq) (sz : Nat) (own : Bool) (s' : State) : Prop :=
  let um := parkMask m k
  s'.curp.state = .parked ∧ s'.curp.parkpc = s.curp.here ∧ s'.curp.umask = um ∧ s'.curp.pc = s.curp.pc ∧ s'.curp.pos = s.curp.pos ∧
  s'.curp.flow = s.curp.flow ∧ s'.curp.tinfo = s.curp.tinfo ∧ s'.cur.sys = s.cur.sys ∧ s'.cur.repidx = s.cur.repidx ∧
  s'.cur.lcount = s.cur.lcount ∧ s'.cur.path (!s.curPath) = s.cur.path (!s.curPath) ∧
  (k.go = [] → s'.cur.v = s.cur.v ∧ s'.cur.vwb = s.cur.vwb ∧ s'.cur.s = s.cur.s ∧ s'.cur.swb = s.cur.swb) ∧
  ∃ w : BitVec 256, s'.way.posts = s1.way.posts ++ [w] ∧ s'.curp.wrec = some w ∧ frVa w = r.addr % 2 ^ 57 ∧ frWorld w = s.cur.world ∧
    frSize w = sz ∧ frAcc w = m.acc ∧ frOwn w = own ∧ frCore w = coreOf s.curUnit ∧ frSlot w = slotOf s.curUnit ∧ frPath w = s.curPath ∧
    frSrc w = (if m.uniform then 1 else 0) ∧ frWb w = aw ∧ frLanes w = um

theorem memAccess_parks (hexec : exec i s = memAccess s s.cur s.curp m ins src wb aw) (hacc : m.acc < 8) (ho : s.cur.outrider = false)
    (hj : judge s s.cur s.curp.resumed m ins wb = .go s1 k) (hpark : k.park = (r, sz, own) :: rest) (hworld : s.cur.world < 256)
    (hcore : coreOf s.curUnit < 480) (hslot : slotOf s.curUnit < 32) (hsz : sz < 4) (hpart : ∀ p, s1.partOf s.cur.world = some p → p < 24) :
    Completes i s (Parked s s1 m aw k r sz own) := by
  have hrun : exec i s = s1.perform s.cur s.curp.resumed m src wb aw k := by rw [hexec, memAccess, hj]
  obtain ⟨s2, t, p, n, ⟨hview, hbare, hsame, l, hp⟩, hout⟩ := perform_parks (s := s1) (t := s.cur) (p := s.curp.resumed) (m := m) (src := src) (wb := wb)
    (aw := aw) hpark
  have hissuer := judge_issuer hj
  have hunit : s2.curUnit = s.curUnit := (congrArg (fun v => v.1) hview).trans (congrArg Prod.fst hissuer)
  have hpath1 : s1.curPath = s.curPath := congrArg Prod.snd hissuer
  have hpath : s2.curPath = s.curPath := (congrArg (fun v => v.2.1) hview).trans hpath1
  have hposts : s2.way.posts = s1.way.posts := congrArg (fun v => v.2.2.1) hview
  have hworlds : s2.partOf s.cur.world = s1.partOf s.cur.world := by
    have htable : s2.xl.part = s1.xl.part := congrArg (fun v => v.2.2.2) hview
    unfold State.partOf
    rw [htable]
  rw [hpath1, ← hpath] at hout
  refine ⟨_, hrun.trans hout, ?_⟩
  have hfield {β : Type} {g : Str → β} (hg : ∀ t, g t.bare = g t) (h0 : ∀ t p, g { t with p0 := p } = g t)
      (h1 : ∀ t p, g { t with p1 := p } = g t) (b : Bool) (p : Path) : g (t.setPath b p) = g s.cur := setPath_of_bare hg h0 h1 hbare b p
  have hw : (t.setPath s2.curPath p).world = s.cur.world := hfield (fun _ => rfl) (fun _ _ => rfl) (fun _ _ => rfl) _ _
  have hout : (t.setPath s2.curPath p).outrider = false := (hfield (fun _ => rfl) (fun _ _ => rfl) (fun _ _ => rfl) _ _).trans ho
  have hrecord := faultRecord_fields (s := s2) (u := s2.curUnit) (core := coreOf s2.curUnit) (path := s2.curPath) (m := m) (aw := aw) (um := parkMask m k)
    (r := r) (own := own) rfl hout (by rw [hw]; exact hworld) (by rw [hw, hworlds]; exact hpart) hsz hacc (by rw [hunit]; exact hcore)
    (by rw [hunit]; exact hslot)
  rw [hw, hunit, hpath] at hrecord
  unfold Parked
  simp only
  rw [parksAt_cur, parksAt_curp]
  subst hp
  refine ⟨rfl, rfl, rfl, rfl, rfl, rfl, rfl, hfield (fun _ => rfl) (fun _ _ => rfl) (fun _ _ => rfl) _ _,
    hfield (fun _ => rfl) (fun _ _ => rfl) (fun _ _ => rfl) _ _, hfield (fun _ => rfl) (fun _ _ => rfl) (fun _ _ => rfl) _ _, ?_, fun hgo => ?_,
    _, congrArg (· ++ _) hposts, rfl, ?_⟩
  · rw [hpath, setPath_path_not]
    exact (congrArg (fun t => Str.path t (!s.curPath)) hbare :)
  · rw [hsame hgo]
    exact setPath_registers _ _ _
  · rw [hunit, hpath]
    exact hrecord
end

end

end Sys2Proof.Machine
end

section
/-! The fault queue, the contexts, the wakes and the declines (O32: R100 to R104, R109, R113, R120, R121). -/

namespace Sys2Proof.Machine

/-! ### A value listed twice in a table -/

theorem tinsert_erase {α : Type} (t : Table α) (k : Nat) (v : α) (h : ∀ e ∈ t, e.1 ≠ k) : terase (tinsert k v t) k = t := by
  have ht : terase t k = t := List.filter_eq_self.2 fun e he => decide_eq_true (h e he)
  induction t with
  | nil => simp [tinsert, terase]
  | cons e t ih =>
    obtain ⟨i, w⟩ := e
    have hi : i ≠ k := h (i, w) List.mem_cons_self
    have hrest (e) (he : e ∈ t) : e.1 ≠ k := h e (List.mem_cons_of_mem _ he)
    unfold tinsert
    split
    · exact (List.filter_cons_of_neg (by simp)).trans ht
    · refine (List.filter_cons_of_pos (by simpa using hi)).trans ?_
      exact congrArg _ (ih hrest (List.filter_eq_self.2 fun e he => decide_eq_true (hrest e he)))

theorem tput_tput {α : Type} (t : Table α) (k : Nat) (v w : α) : tput (tput t k v) k w = tput t k w := by
  unfold tput
  rw [tinsert_erase _ _ _ fun e he => by simpa using (List.mem_filter.1 he).2]

section
variable {s s' s0 s1 : State} {r : BitVec 256} {e : Pend}

theorem putStr_putStr (u : Nat) (t t' : Str) : (s.putStr u t).putStr u t' = s.putStr u t' :=
  congrArg (fun x => { s with strs := x }) (tput_tput _ _ _ _)

/-! ### Admission (R100, R103) -/

theorem admits_iff : s.admits r = true ↔
    ((s.way.pends.filter (fun e => e.st == 0 && s.partOf e.world == s.partOf (frWorld r))).map (fun e => e.waiters.length)).sum < 256 ∧
      s.way.pends.length < 4096 := by
  have hsum (l : List Pend) (n : Nat) : l.foldl (fun n e => n + e.waiters.length) n = n + (l.map (fun e => e.waiters.length)).sum := by
    induction l generalizing n with
    | nil => rfl
    | cons e l ih => rw [List.foldl_cons, ih, List.map_cons, List.sum_cons, Nat.add_assoc]
  unfold State.admits
  simp only [hsum, Nat.zero_add, Bool.and_eq_true, decide_eq_true_eq, Bool.not_eq_true', decide_eq_false_iff_not, Nat.not_le]

section
variable {p : BitVec 256 → Bool} {l rest : List (BitVec 256)}

/-- The oldest record with a property is the first that has it. -/
theorem find_oldest (hl : ∀ x ∈ l, p x = false) (hr : p r = true) : (l ++ r :: rest).find? p = some r := by
  rw [List.find?_append, List.find?_eq_none.2 fun x hx => by simp [hl x hx], List.find?_cons_of_pos hr]
  rfl

theorem erase_oldest (hl : ∀ x ∈ l, p x = false) (hr : p r = true) : (l ++ r :: rest).erase r = l ++ rest := by
  have hnot : r ∉ l := fun h => by simp [hl r h] at hr
  rw [List.erase_append_right _ hnot, List.erase_cons_head]

end

theorem wayOff : OffWalk State.way :=
  ⟨⟨fun _ _ => rfl, fun _ _ _ => rfl, fun _ _ => rfl⟩, fun _ _ _ _ _ _ => rfl, fun _ _ => rfl, fun _ _ => rfl⟩

/-- The state in which a record that is admitted finds its page's entry: the record is off the queue, it is counted, and its page is walked. -/
def State.admitted (s : State) (r : BitVec 256) : List (Nat × Dword) × State :=
  let s := { s with way := { s.way with posts := s.way.posts.erase r } }
  (s.wsCount ((s.partOf (frWorld r)).getD 0) 0).leavesOf (frWorld r) (frVa r) (frSize r)

theorem admitted_way : (s.admitted r).2.way = { s.way with posts := s.way.posts.erase r } := wayOff.leavesOf _ _ _

theorem admitted_posts : (s.admitted r).2.way.posts = s.way.posts.erase r := by rw [admitted_way]
theorem admitted_pends : (s.admitted r).2.way.pends = s.way.pends := by rw [admitted_way]

/-- Does a record ask for ownership, of a page the kernel lets somebody write (R103)? -/
def State.recNeed (s : State) (r : BitVec 256) : Bool :=
  (frOwn r || isWrite (frAcc r)) && (s.admitted r).2.kernelW (frWorld r) (frSize r) (pageVpn (frVa r) (frSize r)) (s.admitted r).1

/-- The new entry of a record's page (R103). -/
def State.newPend (s : State) (r : BitVec 256) : Pend :=
  { id := (s.admitted r).2.way.nextId, world := frWorld r, size := frSize r, vpn := pageVpn (frVa r) (frSize r), st := 0, need := s.recNeed r,
    waiters := [r], frame := none, entry := 0, attempts := 0, leaves := [], since := (s.admitted r).2.time, owned := false, stuck := false, moves := 0,
    ownMoves := 0 }

def Pend.ofPage (r : BitVec 256) (x : Pend) : Bool :=
  x.world == frWorld r && x.size == frSize r && x.vpn == pageVpn (frVa r) (frSize r) && x.st != 7

section
variable (h : s.way.posts.find? s.admits = some r)
include h

theorem faultAdmit_joins (he : s.way.pends.find? (Pend.ofPage r) = some e) : exec .faultAdmit s =
    .next ((s.admitted r).2.putPend { e with waiters := e.waiters ++ [r], need := e.need || s.recNeed r }) := by
  have hpage : (s.admitted r).2.way.pends.find? (Pend.ofPage r) = some e := by rw [admitted_pends]; exact he
  unfold State.admitted Pend.ofPage at hpage
  change execFaultAdmit s = _
  simp only [execFaultAdmit, h, hpage]
  rfl

theorem faultAdmit_enters (he : s.way.pends.find? (Pend.ofPage r) = none) : exec .faultAdmit s =
    .next { (s.admitted r).2 with way := { (s.admitted r).2.way with
      pends := (s.admitted r).2.way.pends ++ [s.newPend r], nextId := (s.admitted r).2.way.nextId + 1 } } := by
  have hpage : (s.admitted r).2.way.pends.find? (Pend.ofPage r) = none := by rw [admitted_pends]; exact he
  unfold State.admitted Pend.ofPage at hpage
  change execFaultAdmit s = _
  simp only [execFaultAdmit, h, hpage]
  rfl

end

theorem faultAdmit_none (h : ∀ x ∈ s.way.posts, s.admits x = false) : exec .faultAdmit s = .next s := by
  have hfind : s.way.posts.find? s.admits = none := List.find?_eq_none.2 fun x hx => by simp [h x hx]
  change execFaultAdmit s = _
  simp only [execFaultAdmit, hfind]

theorem faultRepost_none (h : ∀ x ∈ s.way.posts, s.admits x = true) : exec .faultRepost s = .next s := by
  have hfind : s.way.posts.find? (fun r => !s.admits r) = none := List.find?_eq_none.2 fun x hx => by simp [h x hx]
  change execFaultRepost s = _
  simp only [execFaultRepost, hfind]

theorem faultRepost_of (h : s.way.posts.find? (fun r => !s.admits r) = some r) :
    exec .faultRepost s = .next { s with way := { s.way with posts := s.way.posts.erase r ++ [r] } } := by
  change execFaultRepost s = _
  simp only [execFaultRepost, h]

/-! ### The contexts (R104) -/

/-- The contexts that hold an entry. -/
def State.contextsHeld (s : State) : Nat := (s.way.pends.filter (fun e => decide (1 ≤ e.st) && decide (e.st ≤ 7))).length

theorem contextTake_fresh (h : s.way.pends.find? (fun e => e.st == 1) = some e) : exec .contextTake s = .next (s.check e) := by
  change execContextTake s = _
  simp only [execContextTake, h]

section
variable (h : ∀ x ∈ s.way.pends, x.st ≠ 1)
include h

theorem contextTake_full (hfull : 32 ≤ s.contextsHeld) : exec .contextTake s = .next s := by
  have hfind : s.way.pends.find? (fun e => e.st == 1) = none := List.find?_eq_none.2 fun x hx => by simp [h x hx]
  change execContextTake s = _
  simp only [execContextTake, hfind]
  exact if_pos hfull

theorem contextTake_next (hn : s.nextPend = some e) (hroom : s.contextsHeld < 32) :
    exec .contextTake s = .next (State.check { s with way := { s.way with turn := s.pendPart e } } e) := by
  have hfind : s.way.pends.find? (fun e => e.st == 1) = none := List.find?_eq_none.2 fun x hx => by simp [h x hx]
  change execContextTake s = _
  simp only [execContextTake, hfind, hn]
  exact if_neg (not_le.2 hroom)

end

/-- The entry a context takes waits for one, of a partition that is not relinquishing. -/
theorem nextPend_waits (h : s.nextPend = some e) : s.wsmode (s.pendPart e) 31 = false ∧ e.st = 0 := by
  obtain ⟨p, -, hp⟩ := List.exists_of_findSome?_eq_some h
  have hok := (List.mem_filter.1 (List.mem_of_find?_eq_some hp)).2
  simp only [Bool.and_eq_true, beq_iff_eq, Bool.not_eq_true'] at hok
  obtain ⟨⟨hst, hmode⟩, -⟩ := hok
  exact ⟨hmode, hst⟩

/-- Is a waiter still parked by the leaf its page has now (R109)? -/
def State.stillParked (s : State) (e : Pend) (ls : List (Nat × Dword)) : Bool :=
  e.waiters.any (fun r => leafParks ((ls.head?.map Prod.snd).getD 0) (frAcc r) &&
    !(lfV ((ls.head?.map Prod.snd).getD 0) && !s.kernelW e.world e.size e.vpn ls))

/-- An entry whose leaf a context has read. -/
def Pend.checked (e : Pend) (ls : List (Nat × Dword)) : Pend :=
  { e with st := 1, leaves := ls.map Prod.snd, attempts := 0, moves := 0, ownMoves := 0 }

theorem check_eq {ls : List (Nat × Dword)} (h : s.leavesOf e.world (e.vpn * 4096) e.size = (ls, s1)) : s.check e =
    if !s1.stillParked e ls then s1.wakeEntry (e.checked ls) .replay
    else if s1.wsmode (s1.pendPart e) 0 then s1.decline (e.checked ls) 1 0 0
    else s1.lookup (e.checked ls) := by
  unfold State.check
  simp only [h]
  rfl

/-! ### The wakes (R99, R113) -/

section
variable {t : Str} {z : Nat} (ht : s.str? (frCore r * 64 + frSlot r) = some t) (hsrc : frSrc r < 2)
include ht hsrc

theorem wakeOne_replay : s.wakeOne r z .replay =
    s.putStr (frCore r * 64 + frSlot r) (t.mapPaths (fun p => if parkedOn p r then p.wake else p)) := by
  unfold State.wakeOne
  rw [if_neg (by omega), if_neg (by omega)]
  simp only [Nat.add_zero, ht]

theorem wakeOne_prot : s.wakeOne r z .prot =
    s.putStr (frCore r * 64 + frSlot r) (t.mapPaths (fun p => if parkedOn p r then p.wakeProt else p)) := by
  unfold State.wakeOne
  rw [if_neg (by omega), if_neg (by omega)]
  simp only [Nat.add_zero, ht]

theorem wakeOne_trap (c : Nat) : s.wakeOne r z (.trap c) = s.wakeTrapAt (frCore r * 64 + frSlot r) t r (c + 1) := by
  unfold State.wakeOne
  rw [if_neg (by omega), if_neg (by omega)]
  simp only [Nat.add_zero, ht]

/-- A decline of a path that no other operation of its own waits for: the trap is taken at once, in a string that runs. -/
theorem wakeOne_traps (ho : t.outrider = false) (hp : parkedOn t.p0 r = true) (hop : t.p0.parkOp = none) (hd : t.dbg = .running) (c : Nat) :
    s.wakeOne r z (.trap c) = s.putStr (frCore r * 64 + frSlot r)
      (Str.trap (s.putStr (frCore r * 64 + frSlot r) t) t false (wakeTrap t.p0 r (c + 1))) := by
  have hpath : t.path false = t.p0 := rfl
  rw [wakeOne_trap ht hsrc]
  unfold State.wakeTrapAt State.trapAt
  rw [if_neg (by simp [hd]), if_pos hp, if_neg (by simp [ho])]
  simp only [hpath, hop, putStr_str, if_true, Option.getD_some, putStr_putStr]

end

/-- What a wake leaves in a path: its place in the program and its lanes. -/
theorem mapPaths_path (t : Str) (f : Path → Path) (b : Bool) : (t.mapPaths f).path b = f (t.path b) := by
  cases b <;> rfl

/-- A path that a wake with outcome PROT lets go on knows the page its write may not have (R113). -/
theorem protMet_woken {p : Path} (hp : parkedOn p r = true) (w : Nat) (m : MemOp) (l : LaneReq) (x : Nat) : p.wakeProt.protMet w m l x =
    (isWrite m.acc && (frWorld r == w) && (l.addr % 2 ^ 57 / 2 ^ pageBits x == frVa r / 2 ^ pageBits x)) := by
  unfold parkedOn at hp
  have hrec : p.wrec = some r := by simpa using (Bool.and_eq_true_iff.1 hp).2
  simp only [Path.protMet, Path.wakeProt, hrec]
  rfl

/-! ### Declines (R121) -/

/-- What a decline goes by: the entries, and the partitions' modes. -/
def State.declineView (s : State) : List Pend × (Nat → Dword) := (s.way.pends, fun p => s.preg p 0x080)

theorem setPreg_modes (p : Nat) {n : Nat} (v : Dword) (hn : n % 4096 ≠ 0x080) : (s.setPreg p n v).declineView = s.declineView := by
  have hmode (q : Nat) : (s.setPreg p n v).preg q 0x080 = s.preg q 0x080 := by
    have hkey : q * 4096 + 0x080 ≠ p * 4096 + n := by omega
    unfold State.preg State.setPreg regGet regSet tget tset
    split <;> simp [hkey]
  exact congrArg (Prod.mk s.way.pends) (funext hmode)

theorem declineOff : OffMemory State.declineView := ⟨fun _ _ => rfl, fun _ p v => setPreg_modes p v (by decide), fun _ _ => rfl⟩

/-- A decline's record is in its ring and the decline is counted (R121, R128). -/
def State.declineNoted (s : State) (e : Pend) (cause peer detail : Nat) : State :=
  let p := s.pendPart e
  let s := if cause = 3 ∧ !s.waySet p then s else s.declineRing p (s.declineRec e cause peer detail) (((e.waiters.head?).map frWb).getD 0)
  s.wsCount p 48

/-- The frame an entry has drawn is free again, unless its copy lies there already (R445). -/
def State.frameBack (s : State) (e : Pend) (p : Nat) : State :=
  match e.frame with
  | some g => if ((s.copy? e.world e.size e.vpn).map Copy.frame) = some g then s else s.freeFrame p e.size g e.world none
  | none => s

/-- The state in which a declined entry goes to the host or wakes its waiters. -/
def State.declined (s : State) (e : Pend) (cause peer detail : Nat) : State :=
  let s := (s.declineNoted e cause peer detail).frameBack e (s.pendPart e)
  { s with xl := { s.xl with poolWait := s.xl.poolWait.filter (fun w => !(w.who.isNone && w.entry == e.id)) } }

theorem decline_eq (c peer q : Nat) : s.decline e c peer q = if (s.declined e c peer q).wsmode (s.pendPart e) 2 then
    (s.declined e c peer q).putPend { e with st := 8, frame := none } else (s.declined e c peer q).wakeEntry e (.trap c) := rfl

theorem declineNoted_view (c peer q : Nat) : (s.declineNoted e c peer q).declineView = s.declineView := by
  refine (setPreg_modes _ _ (by decide)).trans ?_
  split
  · rfl
  · exact declineOff.ringPutN _ _ _ _ _

theorem frameBack_view (p : Nat) : (s.frameBack e p).declineView = s.declineView := by
  unfold State.frameBack
  split
  · split
    · rfl
    · unfold State.freeFrame
      split <;> rfl
  · rfl

theorem declined_view (c peer q : Nat) : (s.declined e c peer q).declineView = s.declineView :=
  (frameBack_view _).trans (declineNoted_view c peer q)

theorem declined_pends (c peer q : Nat) : (s.declined e c peer q).way.pends = s.way.pends := congrArg Prod.fst (declined_view c peer q)

theorem declined_wsmode (c peer q p k : Nat) : (s.declined e c peer q).wsmode p k = s.wsmode p k :=
  congrArg (fun x : List Pend × (Nat → Dword) => (x.2 p).getLsbD k) (declined_view c peer q)

/-! ### The commands WAKE and FAIL (R120) -/

theorem wake_named (h : s.named? (s.argN 0) (s.argN 1) = some e) : exec .wake s = .next (s.wakeEntry e .replay) := by
  change execWake s = _
  simp only [execWake, h]

theorem fail_named (h : s.named? (s.argN 0) (s.argN 1) = some e) : exec .fail s = .next (s.wakeEntry e (.trap 0x0C)) := by
  change execFail s = _
  simp only [execFail, h]

theorem wake_unnamed (h : s.named? (s.argN 0) (s.argN 1) = none) : exec .wake s = .next s := by
  change execWake s = _
  simp only [execWake, h]

theorem fail_unnamed (h : s.named? (s.argN 0) (s.argN 1) = none) : exec .fail s = .next s := by
  change execFail s = _
  simp only [execFail, h]

end

end Sys2Proof.Machine

end

section
/-! ### Which accesses these are -/

namespace Sys2Proof.Machine

section
variable {s : State} {d a : BitVec 7} {x y e : BitVec 6} {z c : BitVec 3} {f : BitVec 1}

theorem ld_accesses (h : ready (.ld d a x z f) s = true) : exec (.ld d a x z f) s = memAccess s s.cur s.curp (loadOp 0 d z f)
    (laneIns s.cur s.curp 0 a x (sizeBytes z) (fun _ => 0) (fun _ => 0)) (addrWb s.cur 0 a x) 0 (addrWb s.cur 0 a x) := by
  change execLd d a x z f s = _
  unfold execLd laneLoad
  exact issued_ready h _

theorem st_accesses (h : ready (.st d a x z f) s = true) : exec (.st d a x z f) s = memAccess s s.cur s.curp (storeOp 0 z f)
    (laneIns s.cur s.curp 0 a x (sizeBytes z) (fun l => s.cur.vgroup d.toNat ((sizeBytes z + 3) / 4) l % 2 ^ (8 * sizeBytes z)) (fun _ => 0))
    (s.cur.vws d.toNat ((sizeBytes z + 3) / 4) ||| addrWb s.cur 0 a x)
    (s.cur.vws d.toNat ((sizeBytes z + 3) / 4) ||| addrWb s.cur 0 a x ||| predWb s.cur s.curp ||| s.curp.flow) (addrWb s.cur 0 a x) := by
  change execSt d a x z f s = _
  unfold execSt laneStore
  exact issued_ready h _

theorem atadd_accesses (h : ready (.atadd d a x c f) s = true) : exec (.atadd d a x c f) s = memAccess s s.cur s.curp (atomOp 0 4 d c f)
    (laneIns s.cur s.curp 0 a x 4 (fun l => s.cur.vgroup d.toNat 1 l) (fun _ => 0)) (s.cur.vws d.toNat 1 ||| addrWb s.cur 0 a x)
    (s.cur.vws d.toNat 1 ||| addrWb s.cur 0 a x ||| predWb s.cur s.curp ||| s.curp.flow) (addrWb s.cur 0 a x) := by
  change execAtadd d a x c f s = _
  unfold execAtadd laneAtomic
  have hone : (atomOp 0 4 d c f).size / 4 = 1 := Nat.div_self (n := 4) (by decide)
  simp only [hone]
  exact issued_ready h _

theorem sld_accesses (h : ready (.sld e x y f) s = true) : exec (.sld e x y f) s = memAccess s s.cur s.curp (uniMemOp 0 4 .load (.uni e.toNat 1) f)
    [⟨0, uniAddr s.cur 0 x y, 4, 0, 0⟩] (uniAddrWb s.cur 0 x y) 0 (uniAddrWb s.cur 0 x y) := by
  change execSld e x y f s = _
  unfold execSld uniLoad
  exact issued_ready h _

theorem domRelease_narrow {scope : Nat} (h : scope ≠ 5) (s : State) (t : Str) (p : Path) (k : Out) : domRelease s t p scope k = k := if_pos h

/-- A plain uniform store is no release: no acknowledgement is waited for. -/
theorem sst_accesses (h : ready (.sst e x y f) s = true) : exec (.sst e x y f) s = memAccess s s.cur s.curp (uniMemOp 0 4 .store .none f)
    [⟨0, uniAddr s.cur 0 x y, 4, (s.cur.sget e.toNat).toNat, 0⟩] (s.cur.sws e.toNat 1 ||| uniAddrWb s.cur 0 x y)
    (s.cur.sws e.toNat 1 ||| uniAddrWb s.cur 0 x y ||| s.curp.flow) (uniAddrWb s.cur 0 x y) := by
  have hdata : s.cur.sgroup e.toNat 1 = (s.cur.sget e.toNat).toNat := by simp [Str.sgroup]
  change execSst e x y f s = _
  rw [← hdata]
  unfold execSst uniStore
  have hone : (uniMemOp 0 4 .store .none f).size / 4 = 1 := Nat.div_self (n := 4) (by decide)
  simp only [hone]
  exact (issued_ready h _).trans (domRelease_narrow (show 0 ≠ 5 by decide) _ _ _ _)

theorem replay_acts (hs : s.str? s.curUnit = some s.cur) (hw : s.curp.woken = true) (hr : s.curp.state = .running) : exec .replay s =
    .next { s with agenda := (if s.curp.pos ≠ 0 ∧ s.curp.words ≠ [] then ⟨0, .issue s.curUnit s.curPath⟩
      else ⟨0, .event .clauseStart ⟨[s.curUnit, if s.curPath then 1 else 0], []⟩⟩) :: s.agenda } := by
  change execReplay s = _
  simp only [execReplay, hs]
  exact if_pos ⟨hw, hr⟩

end

end Sys2Proof.Machine

open Sys2Proof Sys2Proof.Machine

/-- Settles O32: every access comes to the same park, whatever its other lanes do; the queue, the contexts and the wakes go by the rules above. -/
theorem parkingAndWaking : Obligations.ParkingAndWaking := by
  refine ⟨fun d a x y e z c f s s1 k r sz own rest => ⟨?_, ?_, ?_, ?_, ?_, fun l => ⟨rfl, ?_⟩, fun hs hw hr hp hq => ?_, fun hs hw hr hp => ?_⟩,
    fun s r rest e => ?_⟩
  · exact fun h ho hj hpark hw hc hsl hsz hp => memAccess_parks (ld_accesses h) (show 0 < 8 by decide) ho hj hpark hw hc hsl hsz hp
  · exact fun h ho hj hpark hw hc hsl hsz hp => memAccess_parks (st_accesses h) (show 1 < 8 by decide) ho hj hpark hw hc hsl hsz hp
  · exact fun h ho hj hpark hw hc hsl hsz hp => memAccess_parks (atadd_accesses h) (show 2 < 8 by decide) ho hj hpark hw hc hsl hsz hp
  · exact fun h ho hj hpark hw hc hsl hsz hp => memAccess_parks (sld_accesses h) (show 6 < 8 by decide) ho hj hpark hw hc hsl hsz hp
  · exact fun h ho hj hpark hw hc hsl hsz hp => memAccess_parks (sst_accesses h) (show 7 < 8 by decide) ho hj hpark hw hc hsl hsz hp
  · exact mem_lanesOf _ _
  · exact ⟨_, replay_acts hs hw hr, by rw [if_pos ⟨hp, hq⟩]⟩
  · exact ⟨_, replay_acts hs hw hr, by rw [if_neg (fun h : s.curp.pos ≠ 0 ∧ s.curp.words ≠ [] => h.1 hp)]⟩
  · refine ⟨admits_iff, fun l hposts hl hr => ⟨fun he => ?_, fun he => ?_⟩, faultRepost_none, faultAdmit_none, fun l hposts hl hr => ?_,
      fun h => ⟨_, contextTake_fresh h, rfl⟩, fun h hn hroom => ?_, contextTake_full, fun ls s1 hls => ?_,
      fun t z hsrc ht ho => ⟨fun b hb => ?_, fun b hb => ?_, ?_⟩,
      fun c peer q => ⟨s.declined e c peer q, declined_pends c peer q, fun hm => ?_, fun hm => ?_⟩,
      fun h => ⟨⟨_, wake_named h, rfl⟩, _, fail_named h, rfl⟩, fun h => ⟨wake_unnamed h, fail_unnamed h⟩⟩
    · have hpost : s.way.posts.erase r = l ++ rest := by rw [hposts, erase_oldest hl hr]
      have hfirst : s.way.posts.find? s.admits = some r := by rw [hposts, find_oldest hl hr]
      refine ⟨_, faultAdmit_joins hfirst he, ?_, e.need || s.recNeed r, ?_, fun hn => by rw [hn]; rfl⟩
      · exact admitted_posts.trans hpost
      · exact congrArg (List.map _) admitted_pends
    · have hpost : s.way.posts.erase r = l ++ rest := by rw [hposts, erase_oldest hl hr]
      have hfirst : s.way.posts.find? s.admits = some r := by rw [hposts, find_oldest hl hr]
      refine ⟨_, faultAdmit_enters hfirst he, ?_, s.newPend r, ?_, rfl, rfl, rfl, rfl, rfl, rfl, fun ho hw => ?_⟩
      · exact admitted_posts.trans hpost
      · exact congrArg (· ++ [s.newPend r]) admitted_pends
      · simp [State.newPend, State.recNeed, ho, hw]
    · have hfirst : s.way.posts.find? (fun r => !s.admits r) = some r := by
        rw [hposts, find_oldest (fun x hx => by simp [hl x hx]) (by simp [hr])]
      refine ⟨_, faultRepost_of hfirst, ?_⟩
      rw [hposts, erase_oldest (p := fun r => !s.admits r) (fun x hx => by simp [hl x hx]) (by simp [hr])]
    · obtain ⟨hmode, hst⟩ := nextPend_waits hn
      exact ⟨hmode, hst, _, contextTake_next h hn hroom, rfl⟩
    · have hcheck := check_eq hls
      refine ⟨fun hp => hcheck.trans (if_pos ?_), fun hp hm => hcheck.trans ((if_neg ?_).trans (if_pos hm)),
        fun hp hm => hcheck.trans ((if_neg ?_).trans (if_neg (by simp [hm])))⟩
      · exact congrArg (!·) hp
      · exact Bool.eq_false_iff.1 (congrArg (!·) hp)
      · exact Bool.eq_false_iff.1 (congrArg (!·) hp)
    · have hpath := mapPaths_path t (fun p => if parkedOn p r then p.wake else p) b
      rw [if_pos hb] at hpath
      refine ⟨_, by rw [wakeOne_replay ht hsrc, putStr_str, if_pos rfl], ?_⟩
      rw [hpath]
      exact ⟨rfl, rfl, rfl, rfl, rfl, rfl, rfl⟩
    · have hpath := mapPaths_path t (fun p => if parkedOn p r then p.wakeProt else p) b
      rw [if_pos hb] at hpath
      refine ⟨_, by rw [wakeOne_prot ht hsrc, putStr_str, if_pos rfl], ?_⟩
      rw [hpath]
      exact ⟨rfl, rfl, rfl, rfl, rfl, rfl, rfl, protMet_woken hb⟩
    · exact fun hp hop _ hd c _ => wakeOne_traps ht hsrc ho hp hop hd c
    · rw [decline_eq, declined_wsmode, if_pos hm]
    · rw [decline_eq, declined_wsmode, if_neg (by simp [hm])]
end

section
/-! Numbers laid out as parts at rising bits, as a string image is (O48: R260, R261): what each part reads back as. -/

namespace Sys2Proof.Machine

/-! ### Parts at rising bits -/

/-- Parts of a number: each with its first bit, its width and its value. -/
abbrev Parts := List (Nat × Nat × Nat)

/-- The number that parts make. -/
def partsSum (l : Parts) : Nat := (l.map (fun x => x.2.2 * 2 ^ x.1)).sum

/-- Parts that rise from bit a to bit b, each value within its width. -/
def Laid (a b : Nat) : Parts → Prop
  | [] => a ≤ b
  | (o, n, v) :: l => a ≤ o ∧ v < 2 ^ n ∧ Laid (o + n) b l

@[simp] theorem partsSum_nil : partsSum [] = 0 := rfl
@[simp] theorem partsSum_cons (o n v : Nat) (l : Parts) : partsSum ((o, n, v) :: l) = v * 2 ^ o + partsSum l := by simp [partsSum]
@[simp] theorem partsSum_append (l k : Parts) : partsSum (l ++ k) = partsSum l + partsSum k := by simp [partsSum]

theorem Laid.le {a b : Nat} {l : Parts} (h : Laid a b l) : a ≤ b := by
  induction l generalizing a with
  | nil => exact h
  | cons x l ih =>
    obtain ⟨ho, -, hl⟩ := h
    have := ih hl
    omega

theorem Laid.widen {a b a' b' : Nat} {l : Parts} (h : Laid a b l) (ha : a' ≤ a) (hb : b ≤ b') : Laid a' b' l := by
  induction l generalizing a a' with
  | nil => exact ha.trans (h.trans hb)
  | cons x l ih => exact ⟨ha.trans h.1, h.2.1, ih h.2.2 (Nat.le_refl _)⟩

theorem Laid.append {a b c : Nat} {l k : Parts} (hl : Laid a b l) (hk : Laid b c k) : Laid a c (l ++ k) := by
  induction l generalizing a with
  | nil => exact hk.widen hl (Nat.le_refl _)
  | cons x l ih => exact ⟨hl.1, hl.2.1, ih hl.2.2⟩

/-- Parts above a bit leave the bits below it free. -/
theorem Laid.dvd {a b : Nat} {l : Parts} (h : Laid a b l) : 2 ^ a ∣ partsSum l := by
  induction l generalizing a with
  | nil => exact Nat.dvd_zero _
  | cons x l ih =>
    obtain ⟨o, n, v⟩ := x
    obtain ⟨ho, -, hl⟩ := h
    rw [partsSum_cons]
    exact Nat.dvd_add ((Nat.pow_dvd_pow 2 ho).mul_left v) ((Nat.pow_dvd_pow 2 (by omega)).trans (ih hl))

theorem mul_pow_lt {v n o : Nat} (h : v < 2 ^ n) : v * 2 ^ o < 2 ^ (o + n) := by
  rw [Nat.pow_add, Nat.mul_comm]
  exact Nat.mul_lt_mul_of_pos_left h (Nat.two_pow_pos o)

theorem Laid.lt {a b : Nat} {l : Parts} (h : Laid a b l) : partsSum l < 2 ^ b := by
  induction l generalizing a with
  | nil => exact Nat.two_pow_pos b
  | cons x l ih =>
    obtain ⟨o, n, v⟩ := x
    obtain ⟨-, hv, hl⟩ := h
    obtain ⟨k, hk⟩ := hl.dvd
    obtain ⟨j, hj⟩ := Nat.pow_dvd_pow 2 hl.le
    have hlt := ih hl
    have hv' := mul_pow_lt (o := o) hv
    rw [partsSum_cons]
    rw [hk, hj] at hlt ⊢
    have hkj : k + 1 ≤ j := Nat.lt_of_mul_lt_mul_left hlt
    have hmul := Nat.mul_le_mul_left (2 ^ (o + n)) hkj
    rw [Nat.mul_add] at hmul
    omega

/-- What lies below a bit does not change what is read above it. -/
theorem add_div_pow_of_low {x y p q : Nat} (hx : x < 2 ^ p) (hy : 2 ^ p ∣ y) (hpq : p ≤ q) : (x + y) / 2 ^ q = y / 2 ^ q := by
  obtain ⟨k, rfl⟩ := hy
  obtain ⟨j, rfl⟩ := Nat.exists_eq_add_of_le hpq
  rw [Nat.pow_add, ← Nat.div_div_eq_div_mul, ← Nat.div_div_eq_div_mul, Nat.add_mul_div_left _ _ (Nat.two_pow_pos p), Nat.div_eq_of_lt hx,
    Nat.zero_add, Nat.mul_div_cancel_left _ (Nat.two_pow_pos p)]

theorem Laid.start_le {a b : Nat} {l : Parts} (h : Laid a b l) {x : Nat × Nat × Nat} (hx : x ∈ l) : a ≤ x.1 := by
  induction l generalizing a with
  | nil => cases hx
  | cons y l ih =>
    obtain ⟨ho, -, hl⟩ := h
    rcases List.mem_cons.1 hx with rfl | hx
    · exact ho
    · have := ih hl hx
      omega

/-- Each part reads back. -/
theorem Laid.read {a b o n v : Nat} {l : Parts} (h : Laid a b l) (hx : (o, n, v) ∈ l) : partsSum l / 2 ^ o % 2 ^ n = v := by
  induction l generalizing a with
  | nil => cases hx
  | cons y l ih =>
    obtain ⟨o', n', v'⟩ := y
    obtain ⟨ho, hv, hl⟩ := h
    rw [partsSum_cons]
    rcases List.mem_cons.1 hx with hy | hy
    · obtain ⟨rfl, rfl, rfl⟩ : o = o' ∧ n = n' ∧ v = v' := by simpa using hy
      obtain ⟨k, hk⟩ := hl.dvd
      rw [hk, Nat.pow_add, Nat.mul_assoc, Nat.mul_comm v, ← Nat.mul_add, Nat.mul_div_cancel_left _ (Nat.two_pow_pos o), Nat.add_mul_mod_self_left,
        Nat.mod_eq_of_lt hv]
    · rw [add_div_pow_of_low (mul_pow_lt hv) hl.dvd (hl.start_le hy)]
      exact ih hl hy

/-! ### Fields of one size -/

/-- n fields of `sz` bytes from an offset, as parts. -/
def fieldParts (off sz n : Nat) (f : Nat → Nat) : Parts := (List.range n).map (fun k => (8 * (off + sz * k), 8 * sz, f k % 2 ^ (8 * sz)))

theorem fieldParts_succ (off sz n : Nat) (f : Nat → Nat) :
    fieldParts off sz (n + 1) f = fieldParts off sz n f ++ [(8 * (off + sz * n), 8 * sz, f n % 2 ^ (8 * sz))] := by
  simp [fieldParts, List.range_succ]

theorem fields_eq (off sz n : Nat) (f : Nat → Nat) : fields off sz n f = partsSum (fieldParts off sz n f) := by
  induction n with
  | zero => rfl
  | succ n ih => rw [fieldParts_succ, partsSum_append, ← ih]; simp [fields, List.range_succ]

theorem fieldParts_laid (off sz n : Nat) (f : Nat → Nat) : Laid (8 * off) (8 * (off + sz * n)) (fieldParts off sz n f) := by
  induction n with
  | zero => exact Nat.le_refl _
  | succ n ih =>
    rw [fieldParts_succ]
    exact ih.append ⟨Nat.le_refl _, Nat.mod_lt _ (Nat.two_pow_pos _), by rw [Nat.mul_succ]; show _ ≤ _; omega⟩

theorem mem_fieldParts {off sz n k : Nat} (f : Nat → Nat) (hk : k < n) :
    (8 * (off + sz * k), 8 * sz, f k % 2 ^ (8 * sz)) ∈ fieldParts off sz n f := List.mem_map.2 ⟨k, List.mem_range.2 hk, rfl⟩

end Sys2Proof.Machine
end

section
/-! A string image (O48: R260, R261): the fields of an image, and the string that is read back from it. -/

namespace Sys2Proof.Machine

/-! ### The record of a path (R261) -/

/-- The record of a live path, from its lowest field. -/
def Path.recordParts (p : Path) (kind : Nat) : Parts :=
  [(144, 32, p.gtinfo.toNat), (176, 8, p.wsdecl.toNat), (184, 32, p.rfinfo.toNat), (216, 32, p.tinfo.toNat), (248, 2, p.level % 4), (250, 2, kind),
   (252, 1, p.woken.toNat), (253, 1, p.rep.toNat), (254, 2, if p.woken then 3 else p.state.code), (256, 4, p.pos % 16), (260, 12, p.flags.toNat),
   (272, 16, p.flow.toNat), (288, 32, (if p.pos = 0 then 0 else p.cmask).toNat), (320, 32, p.umask.toNat), (352, 32, p.mask.toNat),
   (384, 64, p.parkpc.toNat), (448, 64, p.here.toNat)]

theorem code_lt (x : PState) : x.code < 2 ^ 2 := by cases x <;> decide

theorem recordParts_laid (p : Path) {kind : Nat} (hk : kind < 4) : Laid 0 512 (p.recordParts kind) := by
  have hstate : (if p.woken then 3 else p.state.code) < 2 ^ 2 := by
    split
    · decide
    · exact code_lt _
  have hlevel : p.level % 4 < 2 ^ 2 := Nat.mod_lt _ (by decide)
  have hpos : p.pos % 16 < 2 ^ 4 := Nat.mod_lt _ (by decide)
  have hnext {n : Nat} : n ≤ n := Nat.le_refl n
  exact ⟨Nat.zero_le _, p.gtinfo.isLt, hnext, p.wsdecl.isLt, hnext, p.rfinfo.isLt, hnext, p.tinfo.isLt, hnext, hlevel, hnext, hk, hnext,
    Bool.toNat_lt _, hnext, Bool.toNat_lt _, hnext, hstate, hnext, hpos, hnext, p.flags.isLt, hnext, p.flow.isLt, hnext, BitVec.isLt _, hnext,
    p.umask.isLt, hnext, p.mask.isLt, hnext, p.parkpc.isLt, hnext, p.here.isLt, hnext⟩

theorem record_eq {p : Path} (h : p.live = true) (kind : Nat) : p.record kind = partsSum (p.recordParts kind) := by
  have hc : (if p.pos = 0 then 0 else p.cmask.toNat) = (if p.pos = 0 then 0 else p.cmask).toNat := by split <;> rfl
  have hr : (if p.rep then 2 ^ 253 else 0) = p.rep.toNat * 2 ^ 253 := by cases p.rep <;> simp
  have hw : (if p.woken then 2 ^ 252 else 0) = p.woken.toNat * 2 ^ 252 := by cases p.woken <;> simp
  unfold Path.record
  rw [if_neg (by simp [h]), hc, hr, hw]
  simp only [Path.recordParts, partsSum_cons, partsSum_nil, Nat.add_zero]
  ac_rfl

theorem record_lt (p : Path) {kind : Nat} (hk : kind < 4) : p.record kind < 2 ^ 512 := by
  cases h : p.live with
  | false => unfold Path.record; simp [h]
  | true => rw [record_eq h]; exact (recordParts_laid p hk).lt

/-- Each field of a live path's record reads back. -/
theorem record_read {p : Path} (h : p.live = true) {kind : Nat} (hk : kind < 4) (i : Nat) {o n v : Nat}
    (hi : (p.recordParts kind)[i]? = some (o, n, v)) : p.record kind / 2 ^ o % 2 ^ n = v := by
  rw [record_eq h]
  exact (recordParts_laid p hk).read (List.mem_of_getElem? hi)

/-- What is read back of a running path (R261). -/
theorem pathOf_record {p : Path} (hrun : p.state = .running) (hw : p.woken = false) (hpos : p.pos < 16) (hlev : p.level < 4) (id : Nat) :
    let q := pathOf (p.record 0) [] 0 id
    q.pc = p.pc ∧ q.pos = p.pos ∧ q.mask = p.mask ∧ q.flow = p.flow ∧ q.level = p.level ∧ q.state = .running ∧
      q.tinfo = p.tinfo &&& 0xF8FFE000#32 ∧ q.rfinfo = p.rfinfo &&& 0xBFFFFF00#32 ∧ q.gtinfo = p.gtinfo &&& 0xF0FFFFFF#32 ∧ q.binds = [] := by
  have hlive : p.live = true := by simp [Path.live, hrun]
  have read := @record_read p hlive 0 (by decide)
  have hstate : p.record 0 / 2 ^ 254 % 2 ^ 2 = 1 := (read 8 rfl).trans (by rw [hw, hrun]; rfl)
  have hpos' : p.record 0 / 2 ^ 256 % 2 ^ 4 = p.pos := (read 9 rfl).trans (Nat.mod_eq_of_lt hpos)
  have hlev' : p.record 0 / 2 ^ 248 % 2 ^ 2 = p.level := (read 4 rfl).trans (Nat.mod_eq_of_lt hlev)
  have hpc := read 16 rfl
  have hmask := read 14 rfl
  have hflow := read 11 rfl
  have htinfo := read 3 rfl
  have hrfinfo := read 2 rfl
  have hgtinfo := read 0 rfl
  generalize p.record 0 = r at *
  unfold pathOf
  simp only [hstate, hpos', hlev', hpc, hmask, hflow, htinfo, hrfinfo, hgtinfo, BitVec.ofNat_toNat, BitVec.setWidth_eq]
  simp [Path.here]

/-! ### The image (R260) -/

/-- The parts of an image, group by group: its first words, the records of the two slots, and its fields of one size. -/
def Str.imageGroups (t : Str) : List Parts :=
  [[(0, 32, 1), (32, 32, t.vblk), (64, 32, t.stack.length), (96, 32, t.lmask.toNat), (128, 32, t.q.toNat), (160, 32, t.repidx),
      (8 * 0x40, 8 * 64, t.p0.record 0), (8 * 0x80, 8 * 64, t.p1.record 0)],
    fieldParts 0xC0 64 16 (fun k => ((t.stack.reverse[k]?).map StkRec.record).getD 0), fieldParts 0x4C0 4 64 (fun k => (t.sget k).toNat),
    fieldParts 0x5C0 8 4 (fun k => (tget 0 t.lstart k).toNat), fieldParts 0x5E0 8 4 (fun k => (tget 0 t.lend k).toNat),
    fieldParts 0x600 8 23 (fun k => if k = 0 then t.world else (t.reg (imageRegs.getD k 0)).toNat), fieldParts 0x700 2 128 (fun k => (t.vw k).toNat),
    fieldParts 0x800 2 64 (fun k => (t.sw k).toNat), fieldParts 0x880 2 7 (fun k => (t.pw k).toNat), fieldParts 0x88E 2 7 (fun k => (t.qw k).toNat),
    fieldParts 0x89C 4 4 (fun k => (tget 0 t.lcount k).toNat), fieldParts 0x900 4 7 (fun k => (t.pget k).toNat),
    fieldParts 0x1000 4 (1024 * t.vblk) (fun k => (t.vget (k / 32) (k % 32)).toNat)]

theorem image_eq (t : Str) : t.image = partsSum t.imageGroups.flatten := by
  simp only [Str.image, Str.imageGroups, fields_eq, List.flatten_cons, List.flatten_nil, partsSum_append, partsSum_cons, partsSum_nil, Nat.add_zero,
    Nat.add_assoc, Nat.pow_zero, Nat.mul_one]

/-- The sizes R260 gives to what the model keeps as numbers. -/
structure Str.FitsImage (t : Str) : Prop where
  blocks : t.vblk ≤ 4
  depth : t.stack.length ≤ 16
  repidx : t.repidx < 64

theorem imageGroups_laid {t : Str} (h : t.FitsImage) : Laid 0 (8 * (0x1000 + 4 * (1024 * t.vblk))) t.imageGroups.flatten := by
  obtain ⟨hb, hd, hr⟩ := h
  have hnext {n : Nat} : n ≤ n := Nat.le_refl n
  have hwords : Laid 0 (8 * 0xC0) [(0, 32, 1), (32, 32, t.vblk), (64, 32, t.stack.length), (96, 32, t.lmask.toNat), (128, 32, t.q.toNat),
      (160, 32, t.repidx), (8 * 0x40, 8 * 64, t.p0.record 0), (8 * 0x80, 8 * 64, t.p1.record 0)] := by
    have hq : t.q.toNat < 2 ^ 32 := lt_trans t.q.isLt (by decide)
    exact ⟨hnext, by decide, hnext, by omega, hnext, by omega, hnext, t.lmask.isLt, hnext, hq, hnext, by omega, by decide, record_lt _ (by decide),
      hnext, record_lt _ (by decide), hnext⟩
  have at_ {a b : Nat} (off sz n : Nat) (f : Nat → Nat) (ha : a ≤ 8 * off) (hb : 8 * (off + sz * n) ≤ b) : Laid a b (fieldParts off sz n f) :=
    (fieldParts_laid off sz n f).widen ha hb
  unfold Str.imageGroups
  simp only [List.flatten_cons, List.flatten_nil, List.append_nil]
  refine hwords.append (Laid.append (b := 8 * 0x4C0) (at_ _ _ _ _ (by decide) (by decide)) ?_)
  refine Laid.append (b := 8 * 0x5C0) (at_ _ _ _ _ (by decide) (by decide)) (Laid.append (b := 8 * 0x5E0) (at_ _ _ _ _ (by decide) (by decide)) ?_)
  refine Laid.append (b := 8 * 0x600) (at_ _ _ _ _ (by decide) (by decide)) (Laid.append (b := 8 * 0x700) (at_ _ _ _ _ (by decide) (by decide)) ?_)
  refine Laid.append (b := 8 * 0x800) (at_ _ _ _ _ (by decide) (by decide)) (Laid.append (b := 8 * 0x880) (at_ _ _ _ _ (by decide) (by decide)) ?_)
  refine Laid.append (b := 8 * 0x88E) (at_ _ _ _ _ (by decide) (by decide)) (Laid.append (b := 8 * 0x89C) (at_ _ _ _ _ (by decide) (by decide)) ?_)
  refine Laid.append (b := 8 * 0x900) (at_ _ _ _ _ (by decide) (by decide)) (Laid.append (b := 8 * 0x1000) (at_ _ _ _ _ (by decide) (by decide)) ?_)
  exact at_ _ _ _ _ hnext hnext

/-- A part of the first group reads back. -/
theorem image_word {t : Str} (h : t.FitsImage) (i : Nat) {off sz k v : Nat}
    (hi : t.imageGroups[0]?.bind (fun g => g[i]?) = some (8 * (off + sz * k), 8 * sz, v)) : fieldAt t.image off sz k = v := by
  obtain ⟨g, hg, hv⟩ := Option.bind_eq_some_iff.1 hi
  unfold fieldAt
  rw [image_eq]
  exact (imageGroups_laid h).read (List.mem_flatten.2 ⟨g, List.mem_of_getElem? hg, List.mem_of_getElem? hv⟩)

/-- A field of the other groups reads back. -/
theorem image_field {t : Str} (h : t.FitsImage) (i : Nat) {off sz n k : Nat} {f : Nat → Nat} (hi : t.imageGroups[i]? = some (fieldParts off sz n f))
    (hk : k < n) : fieldAt t.image off sz k = f k % 2 ^ (8 * sz) := by
  unfold fieldAt
  rw [image_eq]
  exact (imageGroups_laid h).read (List.mem_flatten.2 ⟨_, List.mem_of_getElem? hi, mem_fieldParts f hk⟩)

end Sys2Proof.Machine
end

section
/-! The string read back from an image, and CTXSV and CTXLD (O48: R148, R260, R261, R347). -/

namespace Sys2Proof.Machine

/-! ### The fields of an image -/

section
variable {t : Str} (h : t.FitsImage)
include h

/-- A field of registers reads back whole. -/
theorem image_bits (i off sz n : Nat) (f : Nat → BitVec (8 * sz)) (hi : t.imageGroups[i]? = some (fieldParts off sz n (fun k => (f k).toNat)))
    {k : Nat} (hk : k < n) : fieldAt t.image off sz k = (f k).toNat := (image_field h i hi hk).trans (Nat.mod_eq_of_lt (f k).isLt)

theorem image_s {k : Nat} (hk : k < 64) : fieldAt t.image 0x4C0 4 k = (t.sget k).toNat := image_bits h 2 _ 4 _ t.sget rfl hk
theorem image_lstart {k : Nat} (hk : k < 4) : fieldAt t.image 0x5C0 8 k = (tget 0 t.lstart k).toNat := image_bits h 3 _ 8 _ (tget 0 t.lstart) rfl hk
theorem image_lend {k : Nat} (hk : k < 4) : fieldAt t.image 0x5E0 8 k = (tget 0 t.lend k).toNat := image_bits h 4 _ 8 _ (tget 0 t.lend) rfl hk
theorem image_vw {k : Nat} (hk : k < 128) : fieldAt t.image 0x700 2 k = (t.vw k).toNat := image_bits h 6 _ 2 _ t.vw rfl hk
theorem image_sw {k : Nat} (hk : k < 64) : fieldAt t.image 0x800 2 k = (t.sw k).toNat := image_bits h 7 _ 2 _ t.sw rfl hk
theorem image_pw {k : Nat} (hk : k < 7) : fieldAt t.image 0x880 2 k = (t.pw k).toNat := image_bits h 8 _ 2 _ t.pw rfl hk
theorem image_qw {k : Nat} (hk : k < 7) : fieldAt t.image 0x88E 2 k = (t.qw k).toNat := image_bits h 9 _ 2 _ t.qw rfl hk
theorem image_lcount {k : Nat} (hk : k < 4) : fieldAt t.image 0x89C 4 k = (tget 0 t.lcount k).toNat := image_bits h 10 _ 4 _ (tget 0 t.lcount) rfl hk
theorem image_p {k : Nat} (hk : k < 7) : fieldAt t.image 0x900 4 k = (t.pget k).toNat := image_bits h 11 _ 4 _ t.pget rfl hk
theorem image_vget {v k : Nat} (hv : v < 32 * t.vblk) (hk : k < 32) : fieldAt t.image 0x1000 4 (32 * v + k) = (t.vget v k).toNat := by
  have hfield : fieldAt t.image 0x1000 4 (32 * v + k) = (t.vget ((32 * v + k) / 32) ((32 * v + k) % 32)).toNat :=
    image_bits h 12 _ 4 _ (fun k => t.vget (k / 32) (k % 32)) rfl (by omega)
  rwa [show (32 * v + k) / 32 = v by omega, show (32 * v + k) % 32 = k by omega] at hfield

theorem image_world (hw : t.world < 256) : fieldAt t.image 0x600 8 0 = t.world :=
  (image_field h 5 rfl (by decide)).trans (Nat.mod_eq_of_lt (lt_trans hw (by decide)))

theorem image_sys {k : Nat} (hk : k < 22) : fieldAt t.image 0x600 8 (k + 1) = (t.reg (imageRegs.getD (k + 1) 0)).toNat :=
  (image_field h 5 rfl (by omega)).trans (Nat.mod_eq_of_lt (BitVec.isLt _))

theorem image_stack {k : Nat} (hk : k < 16) : fieldAt t.image 0xC0 64 k = ((t.stack.reverse[k]?).map StkRec.record).getD 0 % 2 ^ (8 * 64) :=
  image_field h 1 rfl hk

theorem image_depth : fieldAt t.image 8 4 0 = t.stack.length := image_word h 2 rfl
theorem image_lmask : fieldAt t.image 0xC 4 0 = t.lmask.toNat := image_word h 3 rfl
theorem image_q : fieldAt t.image 0x10 4 0 = t.q.toNat := image_word h 4 rfl
theorem image_repidx : fieldAt t.image 0x14 4 0 = t.repidx := image_word h 5 rfl
theorem image_p0 : fieldAt t.image 0x40 64 0 = t.p0.record 0 := image_word h 6 rfl
theorem image_p1 : fieldAt t.image 0x80 64 0 = t.p1.record 0 := image_word h 7 rfl

end

/-! ### Reading an image back -/

/-- The writes of an image's system registers leave the rest of a string. -/
theorem imageRegs_keep {β : Type} {g : Str → β} (hg : ∀ t n v, g (t.setReg n v) = g t) (img : Nat) (l : List Nat) (t : Str) :
    g (l.foldl (fun t k => t.setReg (imageRegs.getD (k + 1) 0)
      (BitVec.ofNat 64 (regClamp (imageRegs.getD (k + 1) 0) 0 (fieldAt img 0x600 8 (k + 1))))) t) = g t := foldl_keeps (fun _ _ => hg _ _ _) _ _

section
variable (t : Str) (img : Nat) (ops : List Nat) (w : Waybill) (n : Nat)

/-- A restored string has what the image says, but for its system registers, which are then written one by one. -/
theorem restore_s : (t.restore img ops w n).s = tableOf 0 64 (fun k => BitVec.ofNat 32 (fieldAt img 0x4C0 4 k)) := by
  simp only [Str.restore, imageRegs_keep (g := Str.s) fun _ _ _ => rfl]
theorem restore_swb : (t.restore img ops w n).swb = tableOf 0 64 (fun k => BitVec.ofNat 16 (fieldAt img 0x800 2 k) ||| w) := by
  simp only [Str.restore, imageRegs_keep (g := Str.swb) fun _ _ _ => rfl]
theorem restore_v : (t.restore img ops w n).v = tableOf 0 (1024 * t.vblk) (fun k => BitVec.ofNat 32 (fieldAt img 0x1000 4 k)) := by
  simp only [Str.restore, imageRegs_keep (g := Str.v) fun _ _ _ => rfl]
theorem restore_vwb : (t.restore img ops w n).vwb = tableOf 0 128 (fun k => BitVec.ofNat 16 (fieldAt img 0x700 2 k) ||| w) := by
  simp only [Str.restore, imageRegs_keep (g := Str.vwb) fun _ _ _ => rfl]
theorem restore_p : (t.restore img ops w n).p = tableOf 0 7 (fun k => BitVec.ofNat 32 (fieldAt img 0x900 4 k)) := by
  simp only [Str.restore, imageRegs_keep (g := Str.p) fun _ _ _ => rfl]
theorem restore_pwb : (t.restore img ops w n).pwb = tableOf 0 7 (fun k => BitVec.ofNat 16 (fieldAt img 0x880 2 k) ||| w) := by
  simp only [Str.restore, imageRegs_keep (g := Str.pwb) fun _ _ _ => rfl]
theorem restore_qwb : (t.restore img ops w n).qwb = tableOf 0 7 (fun k => BitVec.ofNat 16 (fieldAt img 0x88E 2 k) ||| w) := by
  simp only [Str.restore, imageRegs_keep (g := Str.qwb) fun _ _ _ => rfl]
theorem restore_q : (t.restore img ops w n).q = BitVec.ofNat 7 (fieldAt img 0x10 4 0) := by
  simp only [Str.restore, imageRegs_keep (g := Str.q) fun _ _ _ => rfl]
theorem restore_world : (t.restore img ops w n).world = fieldAt img 0x600 8 0 % 256 := by
  simp only [Str.restore, imageRegs_keep (g := Str.world) fun _ _ _ => rfl]
theorem restore_repidx : (t.restore img ops w n).repidx = fieldAt img 0x14 4 0 % 64 := by
  simp only [Str.restore, imageRegs_keep (g := Str.repidx) fun _ _ _ => rfl]
theorem restore_lmask : (t.restore img ops w n).lmask = BitVec.ofNat 32 (fieldAt img 0xC 4 0) &&& t.launchLanes := by
  simp only [Str.restore, imageRegs_keep (g := Str.lmask) fun _ _ _ => rfl]
theorem restore_stack : (t.restore img ops w n).stack = imageStack img ops w (n + 2) := by
  simp only [Str.restore, imageRegs_keep (g := Str.stack) fun _ _ _ => rfl]
theorem restore_lcount : (t.restore img ops w n).lcount = tableOf 0 4 (fun k => BitVec.ofNat 32 (fieldAt img 0x89C 4 k)) := by
  simp only [Str.restore, imageRegs_keep (g := Str.lcount) fun _ _ _ => rfl]
theorem restore_lstart : (t.restore img ops w n).lstart = tableOf 0 4 (fun k => (BitVec.ofNat 57 (fieldAt img 0x5C0 8 k)).signExtend 64) := by
  simp only [Str.restore, imageRegs_keep (g := Str.lstart) fun _ _ _ => rfl]
theorem restore_lend : (t.restore img ops w n).lend = tableOf 0 4 (fun k => (BitVec.ofNat 57 (fieldAt img 0x5E0 8 k)).signExtend 64) := by
  simp only [Str.restore, imageRegs_keep (g := Str.lend) fun _ _ _ => rfl]
theorem restore_p0 : (t.restore img ops w n).p0 = pathOf (fieldAt img 0x40 64 0) ops w n := by
  simp only [Str.restore, imageRegs_keep (g := Str.p0) fun _ _ _ => rfl]
theorem restore_p1 : (t.restore img ops w n).p1 = pathOf (fieldAt img 0x80 64 0) ops w (n + 1) := by
  simp only [Str.restore, imageRegs_keep (g := Str.p1) fun _ _ _ => rfl]

end

theorem tget_tableOf {α : Type} [DecidableEq α] (d : α) (n : Nat) (f : Nat → α) (k : Nat) : tget d (tableOf d n f) k = if k < n then f k else d := by
  induction n with
  | zero => rfl
  | succ n ih =>
    have hs : tableOf d (n + 1) f = tset d (tableOf d n f) n (f n) := by simp [tableOf, List.range_succ]
    rw [hs, tget_tset, ih]
    by_cases hk : k = n
    · simp [hk]
    · simp only [hk, if_false, Nat.lt_succ_iff_lt_or_eq, or_false]

/-- The registers written by a list of writes to different registers. -/
theorem setRegs_reg (a : Nat → Nat) (v : Nat → Dword) (l : List Nat) (t : Str) {k : Nat} (hk : k ∈ l)
    (hinj : ∀ i ∈ l, ∀ j ∈ l, a i = a j → i = j) : (l.foldl (fun t k => t.setReg (a k) (v k)) t).reg (a k) = v k := by
  induction l using List.reverseRecOn with
  | nil => cases hk
  | append_singleton l x ih =>
    rw [List.foldl_append, List.foldl_cons, List.foldl_nil]
    simp only [Str.setReg, Str.reg, tget_tset]
    by_cases hx : k = x
    · rw [if_pos (congrArg a hx), hx]
    · rw [if_neg fun e => hx (hinj k hk x (by simp) e)]
      exact ih (by simpa [hx] using hk) fun i hi j hj => hinj i (List.mem_append_left _ hi) j (List.mem_append_left _ hj)

theorem imageRegs_injective : ∀ i ∈ List.range 22, ∀ j ∈ List.range 22, imageRegs.getD (i + 1) 0 = imageRegs.getD (j + 1) 0 → i = j := by decide

theorem restore_reg (t : Str) (img : Nat) (ops : List Nat) (w : Waybill) (n : Nat) {k : Nat} (hk : k < 22) :
    (t.restore img ops w n).reg (imageRegs.getD (k + 1) 0) =
      BitVec.ofNat 64 (regClamp (imageRegs.getD (k + 1) 0) 0 (fieldAt img 0x600 8 (k + 1))) :=
  setRegs_reg (fun k => imageRegs.getD (k + 1) 0)
    (fun k => BitVec.ofNat 64 (regClamp (imageRegs.getD (k + 1) 0) 0 (fieldAt img 0x600 8 (k + 1)))) _ _ (List.mem_range.2 hk) imageRegs_injective

/-! ### The stack of an image -/

/-- The record of a join says so, and holds its address (R261). -/
theorem join_record (a : Dword) : (StkRec.join a).record < 2 ^ (8 * 64) ∧ (StkRec.join a).record / 2 ^ 250 % 4 = 1 ∧
    BitVec.ofNat 64 ((StkRec.join a).record / 2 ^ 448) = a := by
  have hsum : (StkRec.join a).record = partsSum [(250, 2, 1), (448, 64, a.toNat)] := by
    simp only [partsSum_cons, partsSum_nil, Nat.add_zero, Nat.one_mul]
    exact Nat.add_comm _ _
  have hlaid : Laid 0 (8 * 64) [(250, 2, 1), (448, 64, a.toNat)] := ⟨Nat.zero_le _, by decide, by decide, a.isLt, Nat.le_refl _⟩
  rw [hsum]
  refine ⟨hlaid.lt, hlaid.read (List.mem_cons_self ..), BitVec.eq_of_toNat_eq ?_⟩
  rw [BitVec.toNat_ofNat]
  exact hlaid.read (List.mem_cons_of_mem _ (List.mem_singleton_self _))

theorem imageStack_length (img : Nat) (ops : List Nat) (w : Waybill) (n : Nat) : (imageStack img ops w n).length = fieldAt img 8 4 0 := by
  simp [imageStack]

/-- A join on the stack is a join on the stack of its image. -/
theorem imageStack_join {t : Str} (h : t.FitsImage) (ops : List Nat) (w : Waybill) (n : Nat) {k : Nat} {a : Dword}
    (hk : t.stack[k]? = some (.join a)) : (imageStack t.image ops w n)[k]? = some (.join a) := by
  obtain ⟨hlt, hkind, haddr⟩ := join_record a
  have hk' : k < t.stack.length := (List.getElem?_eq_some_iff.1 hk).1
  have hd := h.depth
  have hrec : fieldAt t.image 0xC0 64 (t.stack.length - 1 - k) = (StkRec.join a).record := by
    rw [image_stack h (by omega), List.getElem?_reverse (by omega), show t.stack.length - 1 - (t.stack.length - 1 - k) = k by omega, hk]
    exact Nat.mod_eq_of_lt hlt
  unfold imageStack
  rw [List.getElem?_reverse (by simp [image_depth h, hk']), List.getElem?_map, List.length_map, List.length_range, image_depth h,
    List.getElem?_range (by omega), Option.map_some, hrec, if_pos hkind, haddr]

/-! ### The whole string -/

section
variable {t : Str} (h : t.FitsImage) (n : Nat)
include h

/-- Registers, predicates and their waybills come back as they were. -/
theorem restored_registers : let r := t.restore t.image [] 0 n
    (∀ k, k < 64 → r.sget k = t.sget k ∧ r.sw k = t.sw k) ∧ (∀ v k, v < 32 * t.vblk → k < 32 → r.vget v k = t.vget v k) ∧
    (∀ v, v < 128 → r.vw v = t.vw v) ∧ (∀ k, k < 7 → r.pget k = t.pget k ∧ r.pw k = t.pw k ∧ r.qw k = t.qw k) ∧ r.q = t.q := by
  refine ⟨fun k hk => ⟨?_, ?_⟩, fun v k hv hk => ?_, fun v hv => ?_, fun k hk => ⟨?_, ?_, ?_⟩, ?_⟩
  · simp [Str.sget, restore_s, tget_tableOf, hk, image_s h hk]
  · simp [Str.sw, restore_swb, tget_tableOf, hk, image_sw h hk]
  · have hin : 32 * v + k < 1024 * t.vblk := by omega
    simp [Str.vget, restore_v, tget_tableOf, hin, image_vget h hv hk]
  · simp [Str.vw, restore_vwb, tget_tableOf, hv, image_vw h hv]
  · simp [Str.pget, hk, hk.ne, restore_p, tget_tableOf, image_p h hk]
  · simp [Str.pw, hk, hk.ne, restore_pwb, tget_tableOf, image_pw h hk]
  · simp [Str.qw, hk, hk.ne, restore_qwb, tget_tableOf, image_qw h hk]
  · simp [restore_q, image_q h]

theorem restored_loops {k : Nat} (hk : k < 4) : let r := t.restore t.image [] 0 n
    tget 0 r.lcount k = tget 0 t.lcount k ∧ ((tget 0 t.lstart k).setWidth 57 |>.signExtend 64) = tget 0 r.lstart k ∧
      ((tget 0 t.lend k).setWidth 57 |>.signExtend 64) = tget 0 r.lend k := by
  refine ⟨?_, ?_, ?_⟩
  · simp [restore_lcount, tget_tableOf, hk, image_lcount h hk]
  · simp [restore_lstart, tget_tableOf, hk, image_lstart h hk]
  · simp [restore_lend, tget_tableOf, hk, image_lend h hk]

/-- The system registers come back without their reserved bits (R7). -/
theorem restored_reg {k : Nat} (hk : k < 22) : (t.restore t.image [] 0 n).reg (imageRegs.getD (k + 1) 0) =
    BitVec.ofNat 64 (regClamp (imageRegs.getD (k + 1) 0) 0 (t.reg (imageRegs.getD (k + 1) 0)).toNat) := by
  rw [restore_reg _ _ _ _ _ hk, image_sys h hk]

theorem restored_path (b : Bool) : (t.restore t.image [] 0 n).path b = pathOf ((t.path b).record 0) [] 0 (if b then n + 1 else n) := by
  cases b
  · simp only [Str.path, Bool.false_eq_true, if_false, restore_p0, image_p0 h]
  · simp only [Str.path, if_true, restore_p1, image_p1 h]

end

end Sys2Proof.Machine
end

section
/-! CTXSV and CTXLD, and the statement on string images (O48: R148, R260, R261, R347). -/

namespace Sys2Proof.Machine

section
variable {d a : BitVec 6} {f : BitVec 1} {s s1 : State} {c : Checked}

/-- The accesses of CTXSV, and of CTXLD. -/
def saveOp (f : BitVec 1) : MemOp := { uniMemOp 0 128 .store .none f with rel := true, scope := 4 }
def loadImageOp (f : BitVec 1) : MemOp := { uniMemOp 0 128 .load .none f with strong := true, acq := true, scope := 4 }

theorem low12_eq_zero (x : Dword) : x.extractLsb' 0 12 = 0 ↔ x.toNat % 4096 = 0 := by
  rw [← BitVec.toNat_inj, BitVec.extractLsb'_toNat]
  simp

theorem ctxsv_misaligned (h : ready (.ctxsv d a f) s = true) (ha : (s.cur.spair a.toNat).toNat % 4096 ≠ 0) : exec (.ctxsv d a f) s =
    trapHere s s.cur { s.curp with tinfo := tinfoWord 0 0 0 0 7 } cALIGN (s.cur.spair a.toNat) := by
  change execCtxsv d a f s = _
  unfold execCtxsv
  rw [issued_ready h]
  exact if_pos (mt (low12_eq_zero _).1 ha)

theorem ctxld_misaligned (h : ready (.ctxld d a f) s = true) (ha : (s.cur.spair a.toNat).toNat % 4096 ≠ 0) : exec (.ctxld d a f) s =
    trapHere s s.cur { s.curp with tinfo := tinfoWord 0 0 0 0 6 } cALIGN (s.cur.spair a.toNat) := by
  change execCtxld d a f s = _
  unfold execCtxld
  rw [issued_ready h]
  exact if_pos (mt (low12_eq_zero _).1 ha)

/-- The string whose image CTXSV writes: its path stands after CTXSV, with 1 as the result. -/
def State.savedStr (s : State) (d : BitVec 6) (aw : Waybill) : Str :=
  ((s.cur.setPath s.curPath s.curp.resumed).sput d.toNat 1 (aw ||| s.curp.flow)).afterSave s.curPath

theorem ctxsv_saves {aw : Waybill} (haw : aw = s.cur.sws a.toNat 2) (h : ready (.ctxsv d a f) s = true)
    (ha : (s.cur.spair a.toNat).toNat % 4096 = 0) (hb : s.curp.binds = []) (hq : s.quiet s.curUnit = true) (hp : s.cur.regPoison = [])
    (hc : Passed s (saveOp f) (lineReqs (s.cur.spair a.toNat).toNat (32 * (s.cur.vblk + 1)) (s.savedStr d aw).image)
      (s.cur.imageWb ||| aw ||| s.curp.flow) s1 c) :
    exec (.ctxsv d a f) s = .next (((s1.writeLines s.cur (saveOp f) (s.cur.imageWb ||| aw ||| s.curp.flow) c.go).acquireAt (coreOf s.curUnit)
      s.cur.world 4).goOn (s.cur.sput d.toNat 0 (aw ||| s.curp.flow)) s.curp.resumed) := by
  obtain ⟨hjudge, hpark⟩ := hc
  have hunit : s1.curUnit = s.curUnit := congrArg Prod.fst (judge_issuer hjudge)
  subst haw
  change execCtxsv d a f s = _
  unfold execCtxsv
  rw [issued_ready h]
  simp only
  rw [if_neg (not_not.2 ((low12_eq_zero _).2 ha)), if_neg (by simp [hb, hq]), hp]
  simp only
  split
  · next o ho => exact absurd (ho.symm.trans hjudge) nofun
  · next s' c' ho =>
    obtain ⟨rfl, rfl⟩ : s' = s1 ∧ c' = c := by simpa using ho.symm.trans hjudge
    simp only [hpark, hunit]
    rfl

/-- A part of an image that is read without a stop goes on with what it holds. -/
theorem ctxRead_reads {t : Str} {p : Path} {m : MemOp} {addr n : Nat} {aw : Waybill} {k : Nat → Waybill → State → Out}
    (hj : judge s t p m (lineReqs addr n 0) 0 = .go s1 c) (hp : c.park = []) : ctxRead s t p m addr n aw k =
      k (s1.readLines t m c.go).1 (s1.readLines t m c.go).2.1 (s1.readLines t m c.go).2.2 := by
  unfold ctxRead
  rw [hj]
  simp only [hp]

/-- CTXLD once the first lines of the image are read. -/
theorem ctxld_reads (h : ready (.ctxld d a f) s = true) (ha : (s.cur.spair a.toNat).toNat % 4096 = 0) (hq : s.quiet s.curUnit = true)
    (hc : Passed s (loadImageOp f) (lineReqs (s.cur.spair a.toNat).toNat 32 0) 0 s1 c) {v : Nat} {w : Waybill} {s2 : State}
    (hr : s1.readLines s.cur (loadImageOp f) c.go = (v, w, s2)) : exec (.ctxld d a f) s =
      if s2.imageCode s.cur v ≠ 0 then
        .next (s2.goOn (s.cur.sput d.toNat (resultWord (s2.imageCode s.cur v) 0) (s.cur.sws a.toNat 2 ||| w ||| s.curp.flow)) s.curp.resumed)
      else ctxRead s2 s.cur s.curp.resumed (loadImageOp f) ((s.cur.spair a.toNat).toNat + 4096) (32 * s.cur.vblk) (s.cur.sws a.toNat 2)
        fun v' w' s4 =>
          let ops := (s4.mem.ops.filter (fun e => e.2.unit == s4.curUnit)).map Prod.fst
          .next (({ s4 with nextOp := s4.nextOp + 18 }.putStr s4.curUnit (s.cur.restore (v + v' * 2 ^ 32768) ops (w ||| w') s4.nextOp)).acquireAt
            (coreOf s4.curUnit) s.cur.world 4) := by
  obtain ⟨hjudge, hpark⟩ := hc
  change execCtxld d a f s = _
  unfold execCtxld
  rw [issued_ready h]
  simp only
  rw [if_neg (not_not.2 ((low12_eq_zero _).2 ha)), if_neg (by simp [hq])]
  refine (ctxRead_reads hjudge hpark).trans ?_
  rw [hr]
  rfl

/-! ### What is wrong with an image (R347) -/

/-- The records of an image that hold a path (R261): those of the two slots, and those of the stack. -/
def imageSlot (v k : Nat) : Nat := v / 2 ^ (8 * (0x40 + 64 * k)) % 2 ^ 512
def imageRec (v k : Nat) : Nat := v / 2 ^ (8 * (0xC0 + 64 * k)) % 2 ^ 512

def recKind (r : Nat) : Nat := r / 2 ^ 250 % 4
/-- A record of a path above kernel level. -/
def RecHigh (r : Nat) : Prop := r / 2 ^ 254 % 4 ≠ 0 ∧ 1 < r / 2 ^ 248 % 4

def BadFormat (v : Nat) : Prop :=
  fieldAt v 0 4 0 ≠ 1 ∨ 16 < fieldAt v 8 4 0 ∨ recKind (imageSlot v 0) ≠ 0 ∨ recKind (imageSlot v 1) ≠ 0 ∨
    ∃ k, k < fieldAt v 8 4 0 ∧ recKind (imageRec v k) ≠ 1 ∧ recKind (imageRec v k) ≠ 2

def BadWorld (s : State) (t : Str) (v : Nat) : Prop :=
  s.partOf (fieldAt v 0x600 8 0 % 256) = none ∨ s.partOf (fieldAt v 0x600 8 0 % 256) ≠ s.partOf t.world

def BadLevel (v : Nat) : Prop :=
  RecHigh (imageSlot v 0) ∨ RecHigh (imageSlot v 1) ∨ ∃ k, k < fieldAt v 8 4 0 ∧ recKind (imageRec v k) = 2 ∧ RecHigh (imageRec v k)

open Classical in
theorem imageCode_eq (s : State) (t : Str) (v : Nat) : s.imageCode t v =
    if BadFormat v then 1 else if fieldAt v 4 4 0 ≠ t.vblk then 2 else if BadWorld s t v then 3 else if BadLevel v then 4 else 0 := by
  have h0 : fieldAt v 0x40 64 0 = imageSlot v 0 := rfl
  have h1 : fieldAt v 0x80 64 0 = imageSlot v 1 := rfl
  have hrec (k : Nat) : fieldAt v 0xC0 64 k = imageRec v k := rfl
  have hhigh (r : Nat) : (r / 2 ^ 254 % 4 != 0 && decide (1 < r / 2 ^ 248 % 4)) = true ↔ RecHigh r := by simp [RecHigh]
  unfold State.imageCode
  refine if_congr (or_congr_right (or_congr_right ?_)) rfl (if_congr Iff.rfl rfl (if_congr (or_congr_left Option.isNone_iff_eq_none) rfl
    (if_congr ?_ rfl rfl)))
  · simp only [h0, h1, hrec, List.any_cons, List.any_nil, List.any_map, List.any_eq_true, List.mem_range, Function.comp_apply, Bool.or_eq_true,
      Bool.or_false, Bool.and_eq_true, bne_iff_ne, or_assoc, recKind]
  · simp only [h0, h1, hrec, hhigh, List.any_cons, List.any_nil, List.any_map, List.any_eq_true, List.mem_range, Function.comp_apply, Bool.or_eq_true,
      Bool.or_false, Bool.and_eq_true, beq_iff_eq, or_assoc, recKind, BadLevel]
end

end Sys2Proof.Machine

open Sys2Proof Sys2Proof.Machine

/-- Settles O48: what CTXSV and CTXLD do where their accesses pass, the first of an image's faults, and each field of an image read back. -/
theorem stringImages : Obligations.StringImages := by
  refine ⟨fun d a f s s1 c => ⟨fun ha => ⟨fun h => ctxsv_misaligned h ha, fun h => ctxld_misaligned h ha⟩,
    fun ha hb hq hp h hc => ⟨_, ctxsv_saves rfl h ha hb hq hp hc, rfl⟩, fun ha hq h hc v w s2 hr => ?_⟩, fun t n _ _ hb hd hw hr => ?_⟩
  · have hld := ctxld_reads h ha hq hc hr
    have hcode := imageCode_eq s2 s.cur v
    have htells (k : Nat) (hk : s2.imageCode s.cur v = k) (h0 : k ≠ 0) : Completes (.ctxld d a f) s fun s' =>
        s' = s2.goOn (s.cur.sput d.toNat (BitVec.ofNat 32 (k * 2 ^ 24)) (s.cur.sws a.toNat 2 ||| w ||| s.curp.flow)) s.curp.resumed := by
      subst hk
      exact ⟨_, hld.trans (if_pos h0), by rw [resultWord_zero]⟩
    refine ⟨fun h1 => htells 1 ?_ (by decide), fun h1 h2 => htells 2 ?_ (by decide), fun h1 h2 h3 => htells 3 ?_ (by decide),
      fun h1 h2 h3 h4 => htells 4 ?_ (by decide), fun s3 c' h1 h2 h3 h4 hc' hcur hpath v' w' s4 hr' => ?_⟩
    · exact hcode.trans (if_pos h1)
    · exact hcode.trans ((if_neg h1).trans (if_pos h2))
    · exact hcode.trans ((if_neg h1).trans ((if_neg h2).trans (if_pos h3)))
    · exact hcode.trans ((if_neg h1).trans ((if_neg h2).trans ((if_neg h3).trans (if_pos h4))))
    · have hzero : s2.imageCode s.cur v = 0 := hcode.trans ((if_neg h1).trans ((if_neg h2).trans ((if_neg h3).trans (if_neg h4))))
      obtain ⟨hjudge, hpark⟩ := hc'
      have hcurp : s2.curp = s.curp := by unfold State.curp; rw [hcur, hpath]
      rw [hcur, hcurp] at hjudge
      refine ⟨_, hld.trans ((if_neg (not_not.2 hzero)).trans (ctxRead_reads hjudge hpark)),
        (s4.mem.ops.filter (fun e => e.2.unit == s4.curUnit)).map Prod.fst, ?_⟩
      rw [show s3.readLines s.cur (loadImageOp f) c'.go = (v', w', s4) from hr']
  · have hfits : t.FitsImage := ⟨hb, hd, hr⟩
    obtain ⟨hs, hv, hvw, hp, hq⟩ := restored_registers hfits n
    refine ⟨image_word hfits 0 rfl, image_word hfits 1 rfl, image_depth hfits, image_lmask hfits, fun k hk => ⟨image_s hfits hk, image_sw hfits hk⟩,
      fun v k hv hk => ?_, hs, hv, hvw, hp, hq, ?_, ?_, ?_, ?_, fun k hk => restored_loops hfits n hk, fun k hk => restored_reg hfits n hk,
      fun b hrun hwoken hpos hlevel => ?_, fun k a hk => ?_⟩
    · rw [← image_vget hfits hv hk]
      unfold fieldAt
      congr 3
      omega
    · rw [restore_world, image_world hfits hw, Nat.mod_eq_of_lt hw]
    · rw [restore_repidx, image_repidx hfits, Nat.mod_eq_of_lt hr]
    · rw [restore_lmask, image_lmask hfits]
      simp
    · rw [restore_stack, imageStack_length, image_depth hfits]
    · rw [restored_path hfits]
      exact pathOf_record hrun hwoken hpos hlevel _
    · rw [restore_stack]
      exact imageStack_join hfits _ _ _ hk
end

section
/-! What sending a request leaves as it is (O41: R178, R180, R233, R380): the messages that leave with it may end operations, whose flags clear. -/

namespace Sys2Proof.Machine

/-! ### An operation ends (R233) -/

/-- A view of a string that the end of an operation does not change: it looks at no waybill, no poison and no flag. -/
structure OffSettle {γ : Type} (h : Str → γ) : Prop where
  settle : ∀ t o, h (Str.settle t o) = h t
  unbind : ∀ t n, h (Str.unbind t n) = h t

/-- What a settled destination changes of its string. -/
theorem settle_keeps {γ : Type} {h : Str → γ} (hh : ∀ (t : Str) y z w, h { t with vwb := y, swb := z, regPoison := w } = h t) (t : Str) (o : Op) :
    h (t.settle o) = h t := by
  unfold Str.settle
  split
  · rfl
  · exact foldl_keeps (fun t _ => hh t _ t.swb _) _ _
  · exact foldl_keeps (fun t _ => hh t t.vwb _ _) _ _

/-- A string without its registers, and without the flags its paths have bound: where its paths stand. -/
def Str.standing (t : Str) : Str := { t.mapPaths (fun p => { p with binds := [] }) with v := [], s := [], vwb := [], swb := [], regPoison := [], unacked := [] }

theorem mapPaths_mapPaths (t : Str) (f g : Path → Path) : (t.mapPaths f).mapPaths g = t.mapPaths (fun p => g (f p)) := by
  simp only [Str.mapPaths, List.map_map]
  congr 1
  refine List.map_congr_left fun r _ => ?_
  cases r <;> rfl

theorem standing_offSettle : OffSettle Str.standing :=
  ⟨settle_keeps fun _ _ _ _ => rfl, fun t n => by
    unfold Str.standing Str.unbind
    rw [mapPaths_mapPaths]
    rfl⟩

theorem v_offSettle : OffSettle Str.v := ⟨settle_keeps fun _ _ _ _ => rfl, fun _ _ => rfl⟩
theorem unacked_offSettle : OffSettle Str.unacked := ⟨settle_keeps fun _ _ _ _ => rfl, fun _ _ => rfl⟩

theorem standing_path (t : Str) (b : Bool) : t.standing.path b = { t.path b with binds := [] } := by cases b <;> rfl

section
variable {s : State}

/-- A string under a view. -/
def State.seen {γ : Type} (h : Str → γ) (s : State) (u : Nat) : Option γ := (s.str? u).map h

theorem putStr_seen {γ : Type} {h : Str → γ} {u : Nat} {t t' : Str} (ht : s.str? u = some t) (hh : h t' = h t) : (s.putStr u t').seen h = s.seen h := by
  funext v
  unfold State.seen
  rw [putStr_str]
  split
  · next hv => rw [hv, ht, Option.map_some, Option.map_some, hh]
  · rfl

/-- The end of an operation: it is in flight no more, and leaves the outstanding counter. -/
def State.opGone (s : State) (n : Nat) (o : Op) : State :=
  match o.launch with
  | none => { s with mem := { s.mem with ops := terase s.mem.ops n } }
  | some k => { s with mem := { s.mem with ops := terase s.mem.ops n } }.outSub k 1

theorem opGone_strs (n : Nat) (o : Op) : (s.opGone n o).strs = s.strs := by unfold State.opGone; split <;> rfl

theorem opDone_eq (n : Nat) (o : Op) : s.opDone n o = match s.str? o.unit with
    | none => s.opGone n o
    | some t => (s.opGone n o).putStr o.unit ((t.settle o).unbind n) := by
  have hstr : (s.opGone n o).str? o.unit = s.str? o.unit := by unfold State.str?; rw [opGone_strs]
  rw [← hstr]
  rfl

theorem opDone_seen {γ : Type} {h : Str → γ} (hh : OffSettle h) (n : Nat) (o : Op) : (s.opDone n o).seen h = s.seen h := by
  have hgone : (s.opGone n o).seen h = s.seen h := by funext u; unfold State.seen State.str?; rw [opGone_strs]
  rw [opDone_eq]
  split
  · exact hgone
  · next t ht =>
    have ht' : (s.opGone n o).str? o.unit = some t := by unfold State.str?; rw [opGone_strs]; exact ht
    exact (putStr_seen ht' ((hh.unbind _ _).trans (hh.settle _ _))).trans hgone

theorem opLeave_seen {γ : Type} {h : Str → γ} (hh : OffSettle h) (n : Nat) : (s.opLeave n).seen h = s.seen h := by
  unfold State.opLeave
  split
  · rfl
  · split
    · exact opDone_seen hh _ _
    · rfl

/-- A state without what the end of an operation may change: strings, operations in flight and the outstanding counters. -/
def State.offOps (s : State) : State := { s with strs := [], sch := { s.sch with outstanding := [] }, mem := { s.mem with ops := [] } }

theorem opLeave_offOps (n : Nat) : (s.opLeave n).offOps = s.offOps := by
  unfold State.opLeave
  split
  · rfl
  · split
    · rw [opDone_eq]
      unfold State.opGone
      split <;> split <;> rfl
    · rfl

/-- The path of a unit has a flag bound to operation op, as long as it is in flight. -/
def State.flagHeld (s : State) (u : Nat) (b : Bool) (j op : Nat) : Prop :=
  tfind s.mem.ops op ≠ none → ∃ t, s.str? u = some t ∧ (j, op) ∈ (t.path b).binds

theorem settle_path (t : Str) (o : Op) (b : Bool) : (t.settle o).path b = t.path b := by
  cases b
  · exact settle_keeps (h := Str.p0) (fun _ _ _ _ => rfl) _ _
  · exact settle_keeps (h := Str.p1) (fun _ _ _ _ => rfl) _ _

theorem opGone_ops (n : Nat) (o : Op) : (s.opGone n o).mem.ops = terase s.mem.ops n := by unfold State.opGone; split <;> rfl

/-- The end of an operation clears the flags bound to it, and no others. -/
theorem opLeave_flagHeld {u : Nat} {b : Bool} {j op : Nat} (h : s.flagHeld u b j op) (n : Nat) : (s.opLeave n).flagHeld u b j op := by
  unfold State.opLeave
  split
  · exact h
  · next o ho =>
    split
    · intro hop
      have hn : op ≠ n ∧ tfind s.mem.ops op ≠ none := by
        have hops : (s.opDone n o).mem.ops = terase s.mem.ops n := by rw [opDone_eq]; split <;> exact opGone_ops _ _
        rw [hops, tfind_terase] at hop
        by_cases hn : op = n
        · exact absurd (if_pos hn) hop
        · exact ⟨hn, by rwa [if_neg hn] at hop⟩
      obtain ⟨t, ht, hbind⟩ := h hn.2
      have hstr (v : Nat) : (s.opGone n o).str? v = s.str? v := by unfold State.str?; rw [opGone_strs]
      rw [opDone_eq]
      split
      · exact ⟨t, (hstr u).trans ht, hbind⟩
      · next t' ht' =>
        rw [putStr_str]
        by_cases hu : u = o.unit
        · subst hu
          obtain rfl : t' = t := by simpa using ht'.symm.trans ht
          refine ⟨_, if_pos rfl, ?_⟩
          rw [Str.unbind, mapPaths_path, settle_path]
          exact List.mem_filter.2 ⟨hbind, by simpa using hn.1⟩
        · exact ⟨t, by rw [if_neg hu]; exact (hstr u).trans ht, hbind⟩
    · intro hop
      refine h fun hnone => hop ?_
      simp only [tfind_tput]
      split
      · next he => rw [he, ho] at hnone; cases hnone
      · exact hnone

end

/-! ### A message is sent (R178, R181) -/

section
variable {P : State → Prop} (hpairs : ∀ (s : State) x, P s → P { s with fab := { s.fab with pairs := x } })
  (hout : ∀ (s : State) x, P s → P { s with outbox := x }) (hleave : ∀ (s : State) n, P s → P (s.opLeave n))
include hpairs hout hleave

/-- What neither the pairs nor the messages to the outside decide, and the end of an operation keeps, a message that is sent keeps. -/
theorem sendFlit_holds {s : State} (h : P s) (peer : Nat) (f : Flit) : P (s.sendFlit peer f) := by
  have hset (s : State) (p : Nat) (x : Pair) (h : P s) : P (s.setPair p x) := by
    unfold State.setPair
    split
    · exact hpairs _ _ h
    · exact h
  have hleft (fs : List Flit) (s : State) (h : P s) : P (s.left fs) := by
    unfold State.left
    induction fs generalizing s with
    | nil => exact h
    | cons f fs ih =>
      refine ih _ ?_
      dsimp only
      split
      · split
        · split
          · exact hleave _ _ h
          · exact h
        · exact h
      · exact h
  unfold State.sendFlit State.pump
  dsimp only
  split
  · exact hset _ _ _ h
  · exact hleft _ _ (hout _ _ (hset _ _ _ (hset _ _ _ h)))

end

section
variable {s : State}

theorem sendFlit_keeps {β : Type} {g : State → β} (hpairs : ∀ (s : State) x, g { s with fab := { s.fab with pairs := x } } = g s)
    (hout : ∀ (s : State) x, g { s with outbox := x } = g s) (hleave : ∀ (s : State) n, g (s.opLeave n) = g s) (peer : Nat) (f : Flit) :
    g (s.sendFlit peer f) = g s :=
  sendFlit_holds (P := fun s' => g s' = g s) (fun _ _ h => (hpairs _ _).trans h) (fun _ _ h => (hout _ _).trans h)
    (fun _ _ h => (hleave _ _).trans h) rfl peer f

theorem sendFlit_seen {γ : Type} {h : Str → γ} (hh : OffSettle h) (peer : Nat) (f : Flit) : (s.sendFlit peer f).seen h = s.seen h :=
  sendFlit_keeps (g := State.seen h) (fun _ _ => rfl) (fun _ _ => rfl) (fun _ n => opLeave_seen hh n) peer f

/-- A state without what a message that is sent may change. -/
def State.offSend (s : State) : State := { s.offOps with fab := { s.fab with pairs := [] }, outbox := [] }

theorem sendFlit_offSend (peer : Nat) (f : Flit) : (s.sendFlit peer f).offSend = s.offSend :=
  sendFlit_keeps (g := State.offSend) (fun _ _ => rfl) (fun _ _ => rfl) (fun _ n =>
    congrArg (fun k : State => { k with fab := { k.fab with pairs := [] }, outbox := [] }) (opLeave_offOps n)) peer f

/-- To a peer no live lane reaches, a message is only queued. -/
theorem sendFlit_queued {peer : Nat} (h : s.liveTo peer = false) (f : Flit) : (s.sendFlit peer f).mem = s.mem := by
  unfold State.sendFlit State.pump
  have hlive : (s.setPair peer { s.pair peer with queued := (s.pair peer).queued ++ [f] }).liveTo peer = false := by
    unfold State.liveTo at h ⊢
    rw [setPair_fab_lanes]
    exact h
  rw [if_pos (by rw [hlive]; rfl), setPair_mem]

end

end Sys2Proof.Machine
end

section
/-! Requests that a remote instruction sends (O41: R157, R184, R282, R380): each is noted under a number of its own, and a posted store's requests
count as unacknowledged and as parts of its operation. -/

namespace Sys2Proof.Machine

section
variable {s s' : State}

/-- A state without what a request that is sent may change. -/
def State.offReq (s : State) : State := { s.offSend with nextOp := 0, fab := { s.offSend.fab with rems := [] } }

/-- What a request to a peer is noted as. -/
def remNote (peer : Nat) (who : Asker) (kind w time tag : Nat) (ls : List LaneReq) : Rem :=
  ⟨peer, who, kind, w, (ls.head?.map (fun e => e.addr)).getD 0, ls, time, tag, []⟩

/-- A request under way (R180, R184). -/
def State.Asked (s : State) (n : Rem) : Prop := ∃ id < s.nextOp, tfind s.fab.rems id = some n

theorem asked_congr (hn : s'.nextOp = s.nextOp) (hr : s'.fab.rems = s.fab.rems) {n : Rem} (h : s.Asked n) : s'.Asked n := by
  unfold State.Asked
  rw [hn, hr]
  exact h

theorem flagHeld_congr (hs : s'.strs = s.strs) (ho : s'.mem.ops = s.mem.ops) {u : Nat} {b : Bool} {j op : Nat} (h : s.flagHeld u b j op) :
    s'.flagHeld u b j op := by
  unfold State.flagHeld State.str? at h ⊢
  rw [hs, ho]
  exact h

/-! ### One request -/

section
variable (peer kind w atop : Nat) (who : Asker) (ls : List LaneReq) (wb : Waybill) (tag : Nat)

/-- The state in which a request has its number and is noted. -/
def State.noted (s : State) : State :=
  { s.takeOp with fab := { s.fab with rems := tput s.fab.rems s.nextOp (remNote peer who kind w s.time tag ls) } }

theorem sendReq_eq : ∃ f, s.sendReq peer kind w atop who ls wb tag = (s.noted peer kind w who ls tag).sendFlit peer f := ⟨_, rfl⟩

theorem sendReq_offSend : (s.sendReq peer kind w atop who ls wb tag).offSend = (s.noted peer kind w who ls tag).offSend := by
  obtain ⟨f, hf⟩ := sendReq_eq (s := s) peer kind w atop who ls wb tag
  rw [hf]
  exact sendFlit_offSend _ _

theorem sendReq_offReq : (s.sendReq peer kind w atop who ls wb tag).offReq = s.offReq :=
  (congrArg (fun k : State => ({ k with nextOp := 0, fab := { k.fab with rems := [] } } : State))
    (sendReq_offSend (s := s) peer kind w atop who ls wb tag) :)

theorem sendReq_nextOp : (s.sendReq peer kind w atop who ls wb tag).nextOp = s.nextOp + 1 :=
  congrArg State.nextOp (sendReq_offSend peer kind w atop who ls wb tag)

theorem sendReq_rems : (s.sendReq peer kind w atop who ls wb tag).fab.rems = tput s.fab.rems s.nextOp (remNote peer who kind w s.time tag ls) :=
  congrArg (fun k : State => k.fab.rems) (sendReq_offSend peer kind w atop who ls wb tag)

theorem sendReq_seen {γ : Type} {h : Str → γ} (hh : OffSettle h) : (s.sendReq peer kind w atop who ls wb tag).seen h = s.seen h := by
  obtain ⟨f, hf⟩ := sendReq_eq (s := s) peer kind w atop who ls wb tag
  rw [hf]
  exact sendFlit_seen hh _ _

theorem sendReq_flagHeld {u : Nat} {b : Bool} {j op : Nat} (h : s.flagHeld u b j op) : (s.sendReq peer kind w atop who ls wb tag).flagHeld u b j op := by
  obtain ⟨f, hf⟩ := sendReq_eq (s := s) peer kind w atop who ls wb tag
  rw [hf]
  have hnoted : (s.noted peer kind w who ls tag).flagHeld u b j op := flagHeld_congr rfl rfl h
  exact sendFlit_holds (P := fun s => s.flagHeld u b j op) (fun _ _ h => flagHeld_congr rfl rfl h) (fun _ _ h => flagHeld_congr rfl rfl h)
    (fun _ n h => opLeave_flagHeld h n) hnoted _ _

theorem sendReq_queued (h : s.liveTo peer = false) : (s.sendReq peer kind w atop who ls wb tag).mem = s.mem := by
  obtain ⟨f, hf⟩ := sendReq_eq (s := s) peer kind w atop who ls wb tag
  have hlive : (s.noted peer kind w who ls tag).liveTo peer = false := h
  rw [hf, sendFlit_queued hlive]
  rfl

theorem sendReq_asked : (s.sendReq peer kind w atop who ls wb tag).Asked (remNote peer who kind w s.time tag ls) :=
  ⟨s.nextOp, by rw [sendReq_nextOp]; exact Nat.lt_succ_self _, by rw [sendReq_rems, tfind_tput, if_pos rfl]⟩

/-- A request leaves those before it noted. -/
theorem sendReq_keeps_asked {n : Rem} (h : s.Asked n) : (s.sendReq peer kind w atop who ls wb tag).Asked n := by
  obtain ⟨id, hid, hn⟩ := h
  exact ⟨id, by rw [sendReq_nextOp]; omega, by rw [sendReq_rems, tfind_tput, if_neg (by omega), hn]⟩

end

theorem offReq_time (h : s'.offReq = s.offReq) : s'.time = s.time := (congrArg State.time h :)
theorem offReq_curUnit (h : s'.offReq = s.offReq) : s'.curUnit = s.curUnit := (congrArg State.curUnit h :)
theorem offReq_curPath (h : s'.offReq = s.offReq) : s'.curPath = s.curPath := (congrArg State.curPath h :)
theorem offReq_hbm (h : s'.offReq = s.offReq) : s'.mem.hbm = s.mem.hbm := (congrArg (fun k : State => k.mem.hbm) h :)
theorem offReq_l2 (h : s'.offReq = s.offReq) : s'.mem.l2 = s.mem.l2 := (congrArg (fun k : State => k.mem.l2) h :)
theorem offReq_fails (h : s'.offReq = s.offReq) : s'.fab.fails = s.fab.fails := (congrArg (fun k : State => k.fab.fails) h :)
theorem offReq_me (h : s'.offReq = s.offReq) : s'.me = s.me := (congrArg State.me h :)
theorem offReq_liveTo (h : s'.offReq = s.offReq) (p : Nat) : s'.liveTo p = s.liveTo p := (congrArg (fun k : State => k.liveTo p) h :)

/-! ### The requests of a pass -/

/-- After the requests of a pass of a load or an atomic. -/
theorem sendReqs_spec (peer kind w atop : Nat) (who : Asker) (wb : Waybill) (tag : Nat) (reqs : List (List LaneReq)) :
    let s' := reqs.foldl (fun s r => s.sendReq peer kind w atop who r wb tag) s
    s'.offReq = s.offReq ∧ s'.seen Str.standing = s.seen Str.standing ∧ ∀ r ∈ reqs, s'.Asked (remNote peer who kind w s.time tag r) := by
  induction reqs using List.reverseRecOn with
  | nil => exact ⟨rfl, rfl, nofun⟩
  | append_singleton reqs r ih =>
    obtain ⟨hoff, hseen, hasked⟩ := ih
    simp only [List.foldl_append, List.foldl_cons, List.foldl_nil]
    refine ⟨(sendReq_offReq _ _ _ _ _ _ _ _).trans hoff, (sendReq_seen _ _ _ _ _ _ _ _ standing_offSettle).trans hseen, fun x hx => ?_⟩
    rcases List.mem_append.1 hx with hx | hx
    · exact sendReq_keeps_asked _ _ _ _ _ _ _ _ (hasked x hx)
    · obtain rfl := List.mem_singleton.1 hx
      rw [← offReq_time hoff]
      exact sendReq_asked _ _ _ _ _ _ _ _

/-! ### The requests of a posted store (R157, R282, R380) -/

theorem opMore_unknown {n : Nat} (h : tfind s.mem.ops n = none) : s.opMore n = s := by
  unfold State.opMore
  rw [h]

theorem opMore_ops {n : Nat} {o : Op} (h : tfind s.mem.ops n = some o) : (s.opMore n).mem.ops = tput s.mem.ops n { o with left := o.left + 1 } := by
  unfold State.opMore
  rw [h]

theorem opMore_strs (n : Nat) : (s.opMore n).strs = s.strs := by unfold State.opMore; split <;> rfl

/-- The state in which a posted write counts as unacknowledged, as outstanding and as a part of its operation. -/
def State.counted (s : State) (t : Str) (u path op : Nat) : State :=
  let s1 := (s.opMore op).outAdd (outKey t (coreOf u)) 1
  match s1.str? u with
  | none => s1
  | some t => s1.putStr u { t with unacked := t.unacked ++ [(path, s.nextOp)] }

theorem sendPost_eq (t : Str) (u path op peer : Nat) (ls : List LaneReq) (wb : Waybill) : s.sendPost t u path op peer ls wb =
    (s.counted t u path op).sendReq peer 1 t.world 0 (.post u path t.key (outKey t (coreOf u))) ls wb op := rfl

section
variable (t : Str) (u path op : Nat)

theorem counted_str (v : Nat) : (s.counted t u path op).str? v = (s.str? v).map (fun t =>
    if v = u then { t with unacked := t.unacked ++ [(path, s.nextOp)] } else t) := by
  have hs (v : Nat) : ((s.opMore op).outAdd (outKey t (coreOf u)) 1).str? v = s.str? v := congrArg (tfind · v) (opMore_strs op)
  unfold State.counted
  simp only [hs]
  split
  · next hn =>
    rw [hs]
    by_cases hv : v = u
    · simp [hv, hn]
    · simp [hv]
  · next x hx =>
    rw [putStr_str, hs]
    by_cases hv : v = u
    · simp [hv, hx]
    · simp [hv]

theorem counted_seen {γ : Type} {h : Str → γ} (hh : ∀ (t : Str) x, h { t with unacked := x } = h t) : (s.counted t u path op).seen h = s.seen h := by
  funext v
  unfold State.seen
  rw [counted_str, Option.map_map]
  congr 1
  funext x
  simp only [Function.comp_apply]
  split
  · exact hh _ _
  · rfl

theorem counted_unacked : (s.counted t u path op).seen (fun t => t.unacked.length) u = (s.seen (fun t => t.unacked.length) u).map (· + 1) := by
  unfold State.seen
  rw [counted_str, Option.map_map, Option.map_map]
  congr 1
  funext x
  simp

theorem counted_ops : (s.counted t u path op).mem.ops = (s.opMore op).mem.ops := by
  unfold State.counted
  dsimp only
  split <;> rfl

theorem counted_offReq : (s.counted t u path op).offReq = s.offReq := by
  unfold State.counted State.opMore
  dsimp only
  split <;> split <;> rfl

theorem counted_nextOp : (s.counted t u path op).nextOp = s.nextOp := by
  unfold State.counted State.opMore
  dsimp only
  split <;> split <;> rfl

theorem counted_rems : (s.counted t u path op).fab.rems = s.fab.rems := by
  unfold State.counted State.opMore
  dsimp only
  split <;> split <;> rfl

theorem counted_flagHeld {v : Nat} {b : Bool} {j : Nat} (h : s.flagHeld v b j op) : (s.counted t u path op).flagHeld v b j op := by
  intro hop
  have hfound : tfind s.mem.ops op ≠ none := by
    intro hn
    rw [counted_ops, opMore_unknown hn] at hop
    exact hop hn
  obtain ⟨x, hx, hbind⟩ := h hfound
  refine ⟨_, by rw [counted_str, hx, Option.map_some], ?_⟩
  split
  · cases b <;> exact hbind
  · exact hbind

end

/-- Where a posted store stands once it has sent requests (R157, R282, R380): to which peer each went, what the string and the operation count, and what
is as it was. -/
structure Posted (s0 : State) (t : Str) (u path op : Nat) (b : Bool) (sent : List (Nat × List LaneReq)) (s : State) : Prop where
  rest : s.offReq = s0.offReq
  standing : s.seen Str.standing = s0.seen Str.standing
  vregs : s.seen Str.v = s0.seen Str.v
  unacked : s.seen (fun t => t.unacked.length) u = (s0.seen (fun t => t.unacked.length) u).map (· + sent.length)
  asked : ∀ x ∈ sent, s.Asked (remNote x.1 (.post u path t.key (outKey t (coreOf u))) 1 t.world s0.time op x.2)
  flag : ∀ j, s0.flagHeld u b j op → s.flagHeld u b j op
  left : (∀ x ∈ sent, s0.liveTo x.1 = false) → ∀ o, tfind s0.mem.ops op = some o →
    tfind s.mem.ops op = some { o with left := o.left + sent.length }

theorem Posted.start (t : Str) (u path op : Nat) (b : Bool) : Posted s t u path op b [] s :=
  ⟨rfl, rfl, rfl, by cases s.seen (fun t => t.unacked.length) u <;> rfl, nofun, fun _ h => h, fun _ _ h => h⟩

theorem unackedLength_offSettle : OffSettle (fun t => t.unacked.length) :=
  ⟨fun t o => congrArg List.length (unacked_offSettle.settle t o), fun t n => congrArg List.length (unacked_offSettle.unbind t n)⟩

theorem Posted.post {s0 : State} {t : Str} {u path op : Nat} {b : Bool} {sent : List (Nat × List LaneReq)} (h : Posted s0 t u path op b sent s)
    (q : Nat) (r : List LaneReq) (wb : Waybill) : Posted s0 t u path op b (sent ++ [(q, r)]) (s.sendPost t u path op q r wb) := by
  obtain ⟨hrest, hstand, hv, hun, hasked, hflag, hleft⟩ := h
  have hoff : (s.counted t u path op).offReq = s0.offReq := (counted_offReq _ _ _ _).trans hrest
  rw [sendPost_eq]
  refine ⟨(sendReq_offReq _ _ _ _ _ _ _ _).trans hoff, ?_, ?_, ?_, fun x hx => ?_, fun j hj => ?_, fun hlive o ho => ?_⟩
  · exact (sendReq_seen _ _ _ _ _ _ _ _ standing_offSettle).trans ((counted_seen _ _ _ _ fun _ _ => rfl).trans hstand)
  · exact (sendReq_seen _ _ _ _ _ _ _ _ v_offSettle).trans ((counted_seen _ _ _ _ fun _ _ => rfl).trans hv)
  · rw [sendReq_seen _ _ _ _ _ _ _ _ unackedLength_offSettle, counted_unacked, hun, Option.map_map]
    congr 1
    funext n
    simp [Nat.add_assoc]
  · rcases List.mem_append.1 hx with hx | hx
    · exact sendReq_keeps_asked _ _ _ _ _ _ _ _ (asked_congr (counted_nextOp _ _ _ _) (counted_rems _ _ _ _) (hasked x hx))
    · obtain rfl := List.mem_singleton.1 hx
      rw [← offReq_time hoff]
      exact sendReq_asked _ _ _ _ _ _ _ _
  · exact sendReq_flagHeld _ _ _ _ _ _ _ _ (counted_flagHeld _ _ _ _ (hflag j hj))
  · have hq : (s.counted t u path op).liveTo q = false := (offReq_liveTo hoff q).trans (hlive (q, r) (by simp))
    rw [sendReq_queued _ _ _ _ _ _ _ _ hq, counted_ops, opMore_ops (hleft (fun x hx => hlive x (List.mem_append_left _ hx)) o ho)]
    simp [Nat.add_assoc]

/-- The requests of one peer. -/
theorem Posted.posts {s0 : State} {t : Str} {path op : Nat} {b : Bool} {sent : List (Nat × List LaneReq)} (h : Posted s0 t s0.curUnit path op b sent s)
    (q : Nat) (rs : List (List LaneReq)) (wb : Waybill) : Posted s0 t s0.curUnit path op b (sent ++ rs.map (fun r => (q, r)))
      (rs.foldl (fun s r => s.sendPost t s.curUnit path op q r wb) s) := by
  induction rs generalizing s sent with
  | nil => simpa using h
  | cons r rs ih =>
    have hunit : s.curUnit = s0.curUnit := offReq_curUnit h.rest
    have := ih (h.post q r wb)
    rw [List.append_assoc] at this
    rw [List.foldl_cons, hunit]
    exact this

end

end Sys2Proof.Machine
end

section
/-! The checks of a remote instruction (O41: R182, R379, R432, R438): over all lanes before any sends, the lowest lane that fails traps. -/

namespace Sys2Proof.Machine

/-! ### The gate leaves the issuer -/

/-- What a decision of the gate changes: the policies it debits, and its count. -/
theorem gate_changes (s : State) (es : List Egress) : ∃ ps r, gateState (s.gate es) = { s with tr := { s.tr with policies := ps }, partRegs := r } := by
  have hcount (s : State) (w : Nat) (b : Bool) : ∃ r, s.gateCount w b = { s with partRegs := r } := by
    unfold State.gateCount
    split <;> exact ⟨_, rfl⟩
  unfold State.gate
  dsimp only
  split
  · exact ⟨_, _, rfl⟩
  · split
    · next r g _ =>
      obtain ⟨r', hr⟩ := hcount s r.world true
      exact ⟨_, _, hr⟩
    · next e _ _ _ ps _ =>
      obtain ⟨r', hr⟩ := hcount { s with tr := { s.tr with policies := ps } } e.world false
      exact ⟨_, _, hr⟩

section
variable {s s1 : State} {es : List Egress} {e : Egress} {g : Word}

theorem gate_passed (h : s.gate es = .ok s1) : ∃ ps r, s1 = { s with tr := { s.tr with policies := ps }, partRegs := r } := by
  obtain ⟨ps, r, hs⟩ := gate_changes s es
  rw [h] at hs
  exact ⟨ps, r, hs⟩

theorem gate_refused (h : s.gate es = .error (e, g, s1)) : ∃ ps r, s1 = { s with tr := { s.tr with policies := ps }, partRegs := r } := by
  obtain ⟨ps, r, hs⟩ := gate_changes s es
  rw [h] at hs
  exact ⟨ps, r, hs⟩

end

/-! ### The checks of the lanes -/

section
variable {s : State} {t : Str} {p : Path} {acc : Nat} {ls : List RemLane} {x : RemLane}

/-- The trap of a remote instruction at a lane, of the string that issues. -/
def State.laneTrap (s : State) (t : Str) (p : Path) (acc c q : Nat) (x : RemLane) (rf gt : Option Word) : Out :=
  takeTrap s t ⟨c, p.here, p.pos, BitVec.ofNat 64 x.r.addr, 0, some (tinfoWord x.r.lane q 0 0 acc), rf, gt, none⟩

theorem setPath_curp (s : State) : s.cur.setPath s.curPath s.curp = s.cur := by
  unfold State.curp Str.setPath Str.path
  cases s.curPath <;> rfl

theorem remTrap_laneTrap {s1 : State} (h : s1.curPath = s.curPath) (c q acc : Nat) (x : RemLane) (rf gt : Option Word) :
    remTrap s1 s.cur s.curp c q acc x rf gt = s1.laneTrap s.cur s.curp acc c q x rf gt := by
  unfold remTrap State.laneTrap
  rw [h, setPath_curp]

/-- What the lanes meet before the gate (R182). -/
def Aligned (ls : List RemLane) : Prop := ∀ x ∈ ls, x.r.addr % x.r.size = 0
def State.Inside (s : State) (w : Nat) (ls : List RemLane) : Prop := ∀ x ∈ ls, s.inWindow w x.r.addr = true
def State.Near (s : State) (ls : List RemLane) : Prop := ∀ x ∈ ls, s.reaches x.peer = true

theorem find_misaligned (h : Aligned ls) : ls.find? (fun x => x.r.addr % x.r.size != 0) = none :=
  List.find?_eq_none.2 fun x hx => by simp [h x hx]

theorem find_outside {w : Nat} (h : s.Inside w ls) : ls.find? (fun x => !s.inWindow w x.r.addr) = none :=
  List.find?_eq_none.2 fun x hx => by simp [h x hx]

theorem find_far (h : s.Near ls) : ls.find? (fun x => !s.reaches x.peer) = none :=
  List.find?_eq_none.2 fun x hx => by simp [h x hx]

theorem remShape_align (h : ls.find? (fun x => x.r.addr % x.r.size != 0) = some x) :
    remShape s s.cur s.curp acc ls = some (s.laneTrap s.cur s.curp acc cALIGN 0 x none none) := by
  unfold remShape
  simp only [h, remTrap_laneTrap rfl]

theorem remShape_prot (ha : Aligned ls) (h : ls.find? (fun x => !s.inWindow s.cur.world x.r.addr) = some x) :
    remShape s s.cur s.curp acc ls = some (s.laneTrap s.cur s.curp acc cPROT 3 x none none) := by
  unfold remShape
  simp only [find_misaligned ha, h, remTrap_laneTrap rfl]

theorem remShape_unreach (ha : Aligned ls) (hi : s.Inside s.cur.world ls) (h : ls.find? (fun x => !s.reaches x.peer) = some x) :
    remShape s s.cur s.curp acc ls = some (s.laneTrap s.cur s.curp acc cUNREACH 0 x (some (BitVec.ofNat 32 (x.peer * 2 ^ 20))) none) := by
  unfold remShape
  simp only [find_misaligned ha, find_outside hi, h, Option.map_some, remTrap_laneTrap rfl]

theorem remShape_passes (ha : Aligned ls) (hi : s.Inside s.cur.world ls) (hn : s.Near ls) : remShape s s.cur s.curp acc ls = none := by
  unfold remShape
  simp only [find_misaligned ha, find_outside hi, find_far hn, Option.map_none]

/-! ### The gate's decision -/

/-- The parts that go to a peer. -/
def toward (parts : List Egress) (q : Nat) : List Egress := parts.filter (fun y => y.dest.pkg == q)

/-- Does the gate refuse parts? -/
def State.gateRefuses (s : State) (es : List Egress) : Bool := match s.gate es with
  | .error _ => true
  | .ok _ => false

theorem gateRefuses_of_error {es : List Egress} {r : Egress × Word × State} (h : s.gate es = .error r) : s.gateRefuses es = true := by
  unfold State.gateRefuses; rw [h]

/-- Each peer has at most one part. -/
theorem toward_remParts (s : State) (w : Nat) (wb : Waybill) (ls : List RemLane) (q : Nat) :
    toward (remParts s w wb ls) q = [] ∨ ∃ y, toward (remParts s w wb ls) q = [y] := by
  have hnodup : ((remPeers ls).filter (fun q => !s.attestedFor w q)).Nodup := (List.nodup_range.filter _).filter _
  unfold toward remParts
  rw [List.filter_map]
  generalize (remPeers ls).filter (fun q => !s.attestedFor w q) = qs at hnodup ⊢
  have hpkg : ((fun y : Egress => y.dest.pkg == q) ∘ fun q => (⟨w, wb, destPackage q,
      (ls.filter (fun x => x.peer == q)).foldl (fun a x => a + x.r.size) 0⟩ : Egress)) = (fun x => x == q) := rfl
  rw [hpkg, List.filter_beq]
  have hcount := List.nodup_iff_count_le_one.1 hnodup q
  obtain h0 | h1 : qs.count q = 0 ∨ qs.count q = 1 := by omega
  · exact .inl (by rw [h0]; rfl)
  · exact .inr ⟨_, by rw [h1]; rfl⟩

/-- The gate refuses what goes to a peer when it refuses the peer's one part alone. -/
theorem gateRefuses_toward (s : State) (w : Nat) (wb : Waybill) (ls : List RemLane) (q : Nat) :
    s.gateRefuses (toward (remParts s w wb ls) q) = ((remParts s w wb ls).filter (fun y => s.gateRefuses [y])).any (fun y => y.dest.pkg == q) := by
  have hany : ((remParts s w wb ls).filter (fun y => s.gateRefuses [y])).any (fun y => y.dest.pkg == q) =
      (toward (remParts s w wb ls) q).any (fun y => s.gateRefuses [y]) := by
    unfold toward
    simp only [List.any_filter, Bool.and_comm]
  rw [hany]
  obtain h | ⟨y, h⟩ := toward_remParts s w wb ls q
  · rw [h]; rfl
  · rw [h]; simp

/-- Every part is that of some lane. -/
theorem remParts_lane {s : State} {w : Nat} {wb : Waybill} {ls : List RemLane} {y : Egress} (hy : y ∈ remParts s w wb ls) :
    ∃ x ∈ ls, (y.dest.pkg == x.peer) = true := by
  obtain ⟨q, hq, rfl⟩ := List.mem_map.1 hy
  obtain ⟨x, hx, hxq⟩ := List.any_eq_true.1 (List.mem_filter.1 (List.mem_filter.1 hq).1).2
  exact ⟨x, hx, (beq_iff_eq.1 hxq) ▸ beq_self_eq_true _⟩

section
variable {wb : Waybill} {e e' : Egress} {g g' : Word} {s1 s2 : State}

/-- The parts that the gate refuses alone, or else the part that it refuses after those before it. -/
def State.refusedParts (s : State) (parts : List Egress) (e : Egress) : List Egress :=
  if parts.filter (fun y => s.gateRefuses [y]) = [] then [e] else parts.filter (fun y => s.gateRefuses [y])

/-- A refusal is the trap of the lowest lane toward the peer of a refused part, with what the gate says of that peer. -/
theorem remGate_error (hgate : s.gate (remParts s t.world wb ls) = .error (e, g, s1))
    (hx : ls.find? (fun x => (s.refusedParts (remParts s t.world wb ls) e).any (fun y => y.dest.pkg == x.peer)) = some x) :
    (∀ e' g' s2, s.gate (toward (remParts s t.world wb ls) x.peer) = .error (e', g', s2) →
      remGate s t p acc wb ls = .error (remTrap s2 t p cEGRESS 0 acc x none (some g'))) ∧
    (s.gateRefuses (toward (remParts s t.world wb ls) x.peer) = false →
      remGate s t p acc wb ls = .error (remTrap s1 t p cEGRESS 0 acc x none (some g))) := by
  unfold remGate
  simp only [hgate]
  split
  · next hn => exact absurd (hn.symm.trans hx) nofun
  · next x' hx' =>
    obtain rfl : x' = x := by simpa using hx'.symm.trans hx
    split
    · next h => exact ⟨fun e' g' s2 h2 => by cases h.symm.trans h2; rfl, fun hr => absurd (hr.symm.trans (gateRefuses_of_error h)) nofun⟩
    · next h => exact ⟨fun e' g' s2 h2 => absurd (h.symm.trans h2) nofun, fun _ => rfl⟩

theorem remGate_refused_alone {r : Egress × Word × State} (hgate : s.gate (remParts s s.cur.world wb ls) = .error r)
    (hx : ls.find? (fun x => s.gateRefuses (toward (remParts s s.cur.world wb ls) x.peer)) = some x)
    (h2 : s.gate (toward (remParts s s.cur.world wb ls) x.peer) = .error (e, g, s2)) :
    remGate s s.cur s.curp acc wb ls = .error (s2.laneTrap s.cur s.curp acc cEGRESS 0 x none (some g)) := by
  obtain ⟨e0, g0, s0⟩ := r
  obtain ⟨ps, pr, hs2⟩ := gate_refused h2
  have hpath : s2.curPath = s.curPath := by rw [hs2]
  simp only [gateRefuses_toward] at hx
  have halone : (remParts s s.cur.world wb ls).filter (fun y => s.gateRefuses [y]) ≠ [] := by
    intro hnil
    have hsome := List.find?_some hx
    rw [hnil] at hsome
    cases hsome
  have hfind := (remGate_error (p := s.curp) (acc := acc) hgate (by unfold State.refusedParts; rw [if_neg halone]; exact hx)).1 _ _ _ h2
  rwa [remTrap_laneTrap hpath] at hfind

theorem remGate_refused_together (hgate : s.gate (remParts s s.cur.world wb ls) = .error (e, g, s2))
    (hnone : ls.find? (fun x => s.gateRefuses (toward (remParts s s.cur.world wb ls) x.peer)) = none)
    (hx : ls.find? (fun x => x.peer == e.dest.pkg) = some x) :
    remGate s s.cur s.curp acc wb ls = .error (s2.laneTrap s.cur s.curp acc cEGRESS 0 x none (some g)) := by
  obtain ⟨ps, pr, hs2⟩ := gate_refused hgate
  have hpath : s2.curPath = s.curPath := by rw [hs2]
  have hnot (x : RemLane) (hx : x ∈ ls) : s.gateRefuses (toward (remParts s s.cur.world wb ls) x.peer) = false :=
    Bool.eq_false_iff.2 (List.find?_eq_none.1 hnone x hx)
  have halone : (remParts s s.cur.world wb ls).filter (fun y => s.gateRefuses [y]) = [] := by
    refine List.filter_eq_nil_iff.2 fun y hy hr => ?_
    obtain ⟨x, hx, hxy⟩ := remParts_lane hy
    have hlane := hnot x hx
    rw [gateRefuses_toward] at hlane
    exact Bool.eq_false_iff.1 hlane (List.any_eq_true.2 ⟨y, List.mem_filter.2 ⟨hy, hr⟩, hxy⟩)
  have hfind : ls.find? (fun x => (s.refusedParts (remParts s s.cur.world wb ls) e).any (fun y => y.dest.pkg == x.peer)) = some x := by
    unfold State.refusedParts
    rw [if_pos halone]
    simpa only [List.any_cons, List.any_nil, Bool.or_false, BEq.comm] using hx
  rw [(remGate_error hgate hfind).2 (hnot x (List.mem_of_find?_eq_some hx)), remTrap_laneTrap hpath]

theorem remGate_passes (hgate : s.gate (remParts s s.cur.world wb ls) = .ok s1)
    (hnow : s1.nowhereAt s.cur.world acc ((ls.filter (fun x => x.peer == s.me)).map (fun x => x.r.addr)) = none) :
    remGate s s.cur s.curp acc wb ls = .ok s1 := by
  obtain ⟨ps, r, hs1⟩ := gate_passed hgate
  have hme : s1.me = s.me := by rw [hs1]; rfl
  unfold remGate
  simp only [hgate, hme, hnow]

end

/-! ### A remote instruction before it sends -/

/-- The checks of a remote instruction, and what it does once they have passed; `full` where the outstanding counter has no room. -/
def State.remFirst (s : State) (acc : Nat) (wb : Waybill) (ls : List RemLane) (full : Bool) (k : State → Out) : Out :=
  match remShape s s.cur s.curp acc ls with
  | some o => o
  | none =>
    if full || !s.settled s.curp then stay s s.cur s.curp
    else match remGate s s.cur s.curp acc wb ls with
      | .error o => o
      | .ok s => k s

/-- Every check has passed, and the gate has let the requests go, which leaves the state s1. -/
def RemPasses (s s1 : State) (acc : Nat) (ls : List RemLane) (wb : Waybill) : Prop :=
  s.curp.parkOp = none ∧ s.settled s.curp = true ∧
    (∀ x ∈ ls, x.r.addr % x.r.size = 0 ∧ s.inWindow s.cur.world x.r.addr = true ∧ s.reaches x.peer = true) ∧
    s.gate (remParts s s.cur.world wb ls) = .ok s1 ∧
    s1.nowhereAt s.cur.world acc ((ls.filter (fun x => x.peer == s.me)).map (fun x => x.r.addr)) = none

section
variable {wb : Waybill} {full : Bool} {k : State → Out}

theorem remFirst_stops {o : Out} (h : remShape s s.cur s.curp acc ls = some o) : s.remFirst acc wb ls full k = o := by
  unfold State.remFirst; simp only [h]

theorem remFirst_waits (h : remShape s s.cur s.curp acc ls = none) (hw : s.settled s.curp = false ∨ full = true) :
    s.remFirst acc wb ls full k = stay s s.cur s.curp := by
  unfold State.remFirst
  simp only [h]
  refine if_pos ?_
  rcases hw with hw | hw <;> simp [hw]

theorem remFirst_refused {o : Out} (h : remShape s s.cur s.curp acc ls = none) (hs : s.settled s.curp = true) (hf : full = false)
    (hg : remGate s s.cur s.curp acc wb ls = .error o) : s.remFirst acc wb ls full k = o := by
  unfold State.remFirst
  simp [h, hs, hf, hg]

theorem remFirst_goes {s1 : State} (h : RemPasses s s1 acc ls wb) (hf : full = false) : s.remFirst acc wb ls full k = k s1 := by
  obtain ⟨-, hs, hl, hg, hm⟩ := h
  have hshape := remShape_passes (s := s) (acc := acc) (fun x hx => (hl x hx).1) (fun x hx => (hl x hx).2.1) (fun x hx => (hl x hx).2.2)
  unfold State.remFirst
  simp [hshape, hs, hf, remGate_passes hg hm]

end
end

end Sys2Proof.Machine
end

section
/-! An access that the package makes of itself (O41: R183): what it leaves as it is, for any view of the state that looks at neither memory nor the
gate. -/

namespace Sys2Proof.Machine

/-- A view that no decision of the gate can change either: it does not look at policies or at the registers of partitions. -/
structure OffGate {β : Type} (g : State → β) : Prop extends OffWalk g where
  policies : ∀ (s : State) ps, g { s with tr := { s.tr with policies := ps } } = g s
  parts : ∀ (s : State) r, g { s with partRegs := r } = g s

section
variable {β : Type} {g : State → β} {s s' : State}

theorem OffMemory.of_pastL1 (hg : OffMemory g) (h : s'.pastL1 = s.pastL1) : g s' = g s :=
  (hg.mem s' _).symm.trans ((congrArg (fun k => g k.1) h).trans (hg.mem s _))

theorem OffMemory.atomPut (hg : OffMemory g) (i : Bool) (t h n : Nat) (d : Line) (wb : Waybill) (p : Nat) : g (s.atomPut i t h n d wb p) = g s := by
  unfold State.atomPut
  split
  · rw [hg.charge, hg.markDirtyFor, hg.orGranWb, hg.mem]
  · rfl

theorem OffMemory.homeLine (hg : OffMemory g) (x : Xlat) : g (s.homeLine x) = g s := by
  unfold State.homeLine
  split
  · rfl
  · cases h : s.ensureL2 x.ident x.tag (x.gpa / 128) with
    | none => rfl
    | some s' => exact hg.ensureL2 h

theorem OffMemory.homeMerge (hg : OffMemory g) (x : Xlat) (rid : Nat) (ls : List LaneReq) (wb : Waybill) : g (s.homeMerge x rid ls wb) = g s := by
  unfold State.homeMerge
  dsimp only
  split
  · split
    · rfl
    · exact hg.atomPut _ _ _ _ _ _ _
  · split
    · exact (hg.putL2 _ _ _ _).trans (hg.evictFor _)
    · split
      · rfl
      · next h =>
        split
        · exact hg.ensureL2 h
        · exact (hg.putL2 _ _ _ _).trans (hg.ensureL2 h)

theorem OffWalk.homeAccess (hg : OffWalk g) (m : MemOp) (x : Xlat) (r : LaneReq) (wb : Waybill) : g (s.homeAccess m x r wb).2.2 = g s := by
  unfold State.homeAccess
  dsimp only
  split
  · split
    · exact hg.out _ _
    · exact hg.fresh _ _
  · split
    · rfl
    · split
      · exact hg.homeMerge _ _ _ _
      · split
        · split
          · rfl
          · split
            · exact hg.atomPut _ _ _ _ _ _ _
            · unfold State.atomRead
              split
              · rfl
              · exact hg.charge _ _
        · split
          · exact hg.fresh _ _
          · next h =>
            split
            · exact hg.ensureL2 h
            · split
              · exact (hg.putL2 _ _ _ _).trans (hg.ensureL2 h)
              · exact hg.ensureL2 h

theorem OffWalk.homeStore (hg : OffWalk g) (x : Xlat) (ls : List LaneReq) (wb : Waybill) : g (s.homeStore x ls wb) = g s := by
  unfold State.homeStore
  dsimp only
  split
  · exact foldl_keeps (fun _ _ => hg.homeAccess _ _ _ _) _ _
  · exact hg.homeMerge _ _ _ _

theorem OffWalk.homeReads (hg : OffWalk g) (m : MemOp) (x : Xlat) (ls : List LaneReq) : g (s.homeReads m x ls).2.2 = g s := by
  induction ls generalizing s with
  | nil => rfl
  | cons r ls ih => exact ih.trans (hg.homeAccess _ _ _ _)

theorem OffMemory.inboundDecline (hg : OffMemory g) (peer w acc : Nat) (d : Denied) (wb : Waybill) : g (s.inboundDecline peer w acc d wb) = g s := by
  unfold State.inboundDecline
  split
  · rfl
  · exact hg.ringPutN _ _ _ _ _

theorem OffWalk.inboundPlace (hg : OffWalk g) (w off acc : Nat) : g (s.inboundPlace w off acc).2 = g s := by
  unfold State.inboundPlace
  dsimp only
  split
  · rfl
  · split
    · rfl
    · have hx := hg.xlate (s := s) 0 w (if s.targetVa w off < 2 ^ 56 then s.targetVa w off else s.targetVa w off + (2 ^ 64 - 2 ^ 57)) acc 0
      split <;> next h => rw [h] at hx; exact hx

theorem OffGate.gate (hg : OffGate g) (es : List Egress) : g (gateState (s.gate es)) = g s := by
  obtain ⟨ps, r, h⟩ := gate_changes s es
  rw [h]
  exact (hg.parts { s with tr := { s.tr with policies := ps } } r).trans (hg.policies s ps)

/-- An access of a peer, or of the package itself. -/
theorem OffGate.inbound (hg : OffGate g) (peer kind w atop : Nat) (ls : List LaneReq) (wb : Waybill) :
    g (s.inbound peer kind w atop ls wb).2 = g s := by
  unfold State.inbound
  split
  · rfl
  · next r rest =>
    dsimp only
    split
    · rfl
    · have hp := hg.inboundPlace (s := s) w r.addr (inboundOp kind r.size atop).acc
      split
      · next h => rw [h] at hp; exact (hg.inboundDecline _ _ _ _ _).trans hp
      · next x s1 h =>
        rw [h] at hp
        have hgate := hg.gate (s := s1) (inboundParts s1 w (inboundOp kind r.size atop) x ((r :: rest).foldl (fun a l => a + l.size) 0) wb)
        split
        · next hr => rw [hr] at hgate; exact (hg.inboundDecline _ _ _ _ _).trans (hgate.trans hp)
        · next s2 hr =>
          rw [hr] at hgate
          have hl : g (if kind = 1 then s2 else s2.homeLine x) = g s := by
            split
            · exact hgate.trans hp
            · exact (hg.homeLine x).trans (hgate.trans hp)
          generalize (if kind = 1 then s2 else s2.homeLine x) = s3 at hl ⊢
          split
          · exact (hg.inboundDecline _ _ _ _ _).trans hl
          · split
            · exact (hg.homeReads (inboundOp 0 r.size atop) x (r :: rest) :).trans hl
            · exact (hg.homeStore _ _ _).trans hl
            · exact (hg.homeAccess _ _ _ _).trans hl

theorem OffMemory.refreshOwn (hg : OffMemory g) (core w : Nat) (r : Inbound) : g (s.refreshOwn core w r) = g s := by
  unfold State.refreshOwn
  split
  · rfl
  · split
    · rfl
    · split
      · rfl
      · exact hg.of_pastL1 (l1Refresh_pastL1 _ _ _ _)

end

/-! ### The lanes of a pass that name the package itself (R183) -/

/-- Who issues, the strings, and the requests under way. -/
def State.atIssue (s : State) : Nat × Bool × Table Str × Table Rem := (s.curUnit, s.curPath, s.strs, s.fab.rems)

theorem atIssueOff : OffGate State.atIssue :=
  ⟨⟨⟨fun _ _ => rfl, fun _ _ _ => rfl, fun _ _ => rfl⟩, fun _ _ _ _ _ _ => rfl, fun _ _ => rfl, fun _ _ => rfl⟩, fun _ _ => rfl, fun _ _ => rfl⟩

section
variable {s : State}

theorem deliver_standing (t : Str) (d : Dest) (l v : Nat) : (t.deliver d l v).standing = t.standing := by
  cases d with
  | none => rfl
  | vec r n size sg => exact deliver_vec_keeps (fun _ _ _ _ => rfl) _ _ _ _ _ _
  | uni r n => exact deliver_uni_keeps (fun _ _ => rfl) _ _ _ _

theorem widen_standing (t : Str) (d : Dest) (w : Waybill) : (t.widen d w).standing = t.standing := widen_keeps (fun _ _ _ => rfl) _ _

theorem delivered_standing (t : Str) (o : Op) (vals : List (Nat × Nat)) (w : Waybill) :
    ((vals.foldl (fun t v => t.deliver o.dest v.1 v.2) t).widen o.dest w).standing = t.standing :=
  (widen_standing _ _ _).trans (foldl_keeps (fun _ _ => deliver_standing _ _ _ _) _ _)

theorem opResult_seen (n : Nat) (vals : List (Nat × Nat)) (w : Waybill) (bad : Bool) :
    (s.opResult n vals w bad).seen Str.standing = s.seen Str.standing := by
  unfold State.opResult
  split
  · rfl
  · dsimp only
    split
    · rfl
    · next o _ t ht => exact (putStr_seen ht (delivered_standing _ _ _ _)).trans rfl

/-- Who issues, where the strings stand, and the requests under way. -/
def State.issueView (s : State) : Nat × Bool × (Nat → Option Str) × Table Rem := (s.curUnit, s.curPath, s.seen Str.standing, s.fab.rems)

theorem issueView_of_atIssue {s' : State} (h : s'.atIssue = s.atIssue) : s'.issueView = s.issueView :=
  congrArg (fun k : Nat × Bool × Table Str × Table Rem => (k.1, k.2.1, (fun u => (tfind k.2.2.1 u).map Str.standing), k.2.2.2)) h

theorem opResult_issueView (n : Nat) (vals : List (Nat × Nat)) (w : Waybill) (bad : Bool) :
    (s.opResult n vals w bad).issueView = s.issueView := by
  have hrest : (s.opResult n vals w bad).curUnit = s.curUnit ∧ (s.opResult n vals w bad).curPath = s.curPath ∧
      (s.opResult n vals w bad).fab = s.fab := by
    unfold State.opResult
    split
    · exact ⟨rfl, rfl, rfl⟩
    · dsimp only
      split <;> exact ⟨rfl, rfl, rfl⟩
  obtain ⟨hu, hp, hf⟩ := hrest
  unfold State.issueView
  rw [hu, hp, hf, opResult_seen]

/-- The package answers itself at once: nothing is under way for it, and every path stands where it stood. -/
theorem localPass_issueView (op kind atop w : Nat) (wb : Waybill) (reqs : List (List LaneReq)) :
    (localPass s op kind atop w wb reqs).issueView = s.issueView := by
  induction reqs generalizing s with
  | nil => rfl
  | cons ls rest ih =>
    unfold localPass
    dsimp only
    refine ih.trans ?_
    have hs := issueView_of_atIssue ((atIssueOff.refreshOwn (coreOf (s.inbound s.me kind w atop (wirePieces s.nextOp kind ls) wb).2.curUnit) w
      (s.inbound s.me kind w atop (wirePieces s.nextOp kind ls) wb).1).trans (atIssueOff.inbound (s := s) s.me kind w atop (wirePieces s.nextOp kind ls) wb))
    split
    · split
      · exact hs
      · exact (opResult_issueView _ _ _ _).trans hs
    · exact hs

end

end Sys2Proof.Machine
end

section
/-! Remote loads and atomics (O41: R183 to R185, R379): the pass of the lowest peer, and how the path goes on. -/

namespace Sys2Proof.Machine

/-! ### Where the issuing path stands -/

section
variable {s s' : State}

theorem cur_standing (s : State) : s.cur.standing = (s.seen Str.standing s.curUnit).getD Str.blankOut.standing :=
  (Option.getD_map Str.standing Str.blankOut (s.str? s.curUnit)).symm

/-- The issuing path, but for its flags, as long as its unit issues and its string stands where it stood. -/
theorem curp_of_standing (hu : s'.curUnit = s.curUnit) (hp : s'.curPath = s.curPath) (h : s'.seen Str.standing = s.seen Str.standing) :
    ({ s'.curp with binds := [] } : Path) = { s.curp with binds := [] } := by
  have hcur : s'.cur.standing = s.cur.standing := by rw [cur_standing, cur_standing, hu, h]
  unfold State.curp
  rw [hp, ← standing_path, ← standing_path, hcur]

theorem seen_some {γ : Type} {h : Str → γ} (hs : s'.seen h = s.seen h) {u : Nat} {t : Str} (ht : s.str? u = some t) :
    ∃ t', s'.str? u = some t' ∧ h t' = h t := by
  have hu := congrFun hs u
  unfold State.seen at hu
  rw [ht] at hu
  exact Option.map_eq_some_iff.1 hu

theorem putCur_str (s : State) (t : Str) (p : Path) : (s.putCur t p).str? (s.putCur t p).curUnit = some (t.setPath s.curPath p) := by
  unfold State.putCur
  rw [putStr_str]
  exact if_pos rfl

theorem putCur_offReq (s : State) (t : Str) (p : Path) : (s.putCur t p).offReq = s.offReq := rfl

/-! ### One pass (R183, R184) -/

section
variable {t : Str} {p : Path} {op kind atop : Nat} {wb : Waybill} {ls : List RemLane} {more : List Nat}

/-- The pass of a peer other than the package itself: its requests are under way, and the path holds for them. -/
theorem remPass_sends {q : Nat} (hq : remPeers ls = q :: more) (hne : q ≠ s.me) : ∃ s', remPass s t p op kind atop wb ls = .next s' ∧
    s'.offReq = s.offReq ∧ ({ s'.curp with binds := [] } : Path) = { p with hold := .remote op, binds := [] } ∧
    ∀ r ∈ passReqs (kind == 2) (ls.filter (fun x => x.peer == q)), s'.Asked (remNote q (.path op) kind t.world s.time 0 r) := by
  obtain ⟨hoff, hseen, hasked⟩ := sendReqs_spec (s := s.putCur t { p with hold := .remote op }) q kind t.world atop (.path op) wb 0
    (passReqs (kind == 2) (ls.filter (fun x => x.peer == q)))
  have hcurp := curp_of_standing (offReq_curUnit hoff) (offReq_curPath hoff) hseen
  rw [putCur_curp] at hcurp
  refine ⟨_, ?_, hoff.trans (putCur_offReq _ _ _), hcurp, hasked⟩
  unfold remPass
  rw [hq]
  exact if_neg hne

/-- The pass of the package itself is answered at once. -/
theorem remPass_local (hq : remPeers ls = s.me :: more) : ∃ s', remPass s t p op kind atop wb ls = .next s' ∧
    s'.curp.hold = .none ∧ s'.curp.pos = p.pos ∧ s'.curp.pc = p.pc ∧ s'.fab.rems = s.fab.rems := by
  have hview := localPass_issueView (s := s.putCur t p) op kind atop t.world wb (passReqs (kind == 2) (ls.filter (fun x => x.peer == s.me)))
  unfold remPass
  rw [hq]
  dsimp only
  rw [if_pos rfl]
  generalize localPass (s.putCur t p) op kind atop t.world wb (passReqs (kind == 2) (ls.filter (fun x => x.peer == s.me))) = s1 at hview ⊢
  have hunit : s1.curUnit = s.curUnit := congrArg (fun k => k.1) hview
  have hpath : s1.curPath = s.curPath := congrArg (fun k => k.2.1) hview
  have hseen : s1.seen Str.standing = (s.putCur t p).seen Str.standing := congrArg (fun k => k.2.2.1) hview
  have hrems : s1.fab.rems = s.fab.rems := congrArg (fun k => k.2.2.2) hview
  have hcurp := curp_of_standing (s := s.putCur t p) hunit hpath hseen
  rw [putCur_curp] at hcurp
  obtain ⟨t1, ht1, -⟩ := seen_some hseen (putCur_str s t p)
  rw [show (s.putCur t p).curUnit = s1.curUnit from hunit.symm] at ht1
  have hcur : s1.cur = t1 := by unfold State.cur; rw [ht1]; rfl
  rw [ht1]
  refine ⟨_, rfl, ?_, ?_, ?_, hrems⟩
  · rw [putCur_curp]
  · rw [putCur_curp, ← hcur]
    exact (congrArg Path.pos hcurp :)
  · rw [putCur_curp, ← hcur]
    exact (congrArg Path.pc hcurp :)

end

/-! ### Going on (R382) -/

/-- The place of a path after its word is decided by its place before, whatever its flags. -/
def Path.place (p : Path) : Dword × Nat × List Word × Option Dword × Bool := (p.pc, p.pos, p.words, p.skip, p.rep)

theorem fall_place {p q : Path} (h : p.place = q.place) : p.fall.pos = q.fall.pos ∧ p.fall.pc = q.fall.pc := by
  obtain ⟨hpc, hpos, hwords, hskip, hrep⟩ : p.pc = q.pc ∧ p.pos = q.pos ∧ p.words = q.words ∧ p.skip = q.skip ∧ p.rep = q.rep := by
    simpa [Path.place] using h
  unfold Path.fall
  rw [hskip]
  cases q.skip with
  | some e => exact ⟨rfl, rfl⟩
  | none =>
    refine ⟨rfl, ?_⟩
    unfold Path.nextClause
    rw [hpc, hwords]
    rfl

theorem after_place {p q : Path} (h : p.place = q.place) : p.after.pos = q.after.pos ∧ p.after.pc = q.after.pc := by
  obtain ⟨hpc, hpos, hwords, hskip, hrep⟩ : p.pc = q.pc ∧ p.pos = q.pos ∧ p.words = q.words ∧ p.skip = q.skip ∧ p.rep = q.rep := by
    simpa [Path.place] using h
  unfold Path.after
  rw [hpos, hwords]
  split
  · exact ⟨rfl, hpc⟩
  · exact fall_place h

theorem advance_place {t u : Str} {p q : Path} (ht : t.repidx = u.repidx) (h : p.place = q.place) :
    (advance t p).2.pos = (advance u q).2.pos ∧ (advance t p).2.pc = (advance u q).2.pc := by
  obtain ⟨hpc, hpos, hwords, hskip, hrep⟩ : p.pc = q.pc ∧ p.pos = q.pos ∧ p.words = q.words ∧ p.skip = q.skip ∧ p.rep = q.rep := by
    simpa [Path.place] using h
  unfold advance Path.prevWord
  rw [ht, hrep, hwords, hpos]
  split
  · split
    · exact ⟨rfl, hpc⟩
    · exact after_place h
  · exact after_place h

theorem after_binds (p : Path) : p.after.binds = p.binds := by
  unfold Path.after Path.fall
  split
  · rfl
  · split <;> rfl

theorem advance_binds (t : Str) (p : Path) : (advance t p).2.binds = p.binds := by
  unfold advance
  split
  · split
    · rfl
    · exact after_binds p
  · exact after_binds p

end

end Sys2Proof.Machine
end

section
/-! What a remote load or atomic does (O41: R182 to R185, R379, R380). -/

namespace Sys2Proof.Machine

/-! ### What stops a remote instruction (R182) -/

/-- The checks of a remote instruction over its lanes, and the gate's decision over `parts`, as the outcomes they have; `room` is that of the
outstanding counter. -/
def RemStops (s : State) (i : Instr) (acc : Nat) (ls : List RemLane) (parts : List Egress) (room : Prop) : Prop :=
  let trap := fun (s1 : State) (c q : Nat) (x : RemLane) (rf gt : Option Word) => s1.laneTrap s.cur s.curp acc c q x rf gt
  ready i s = true → s.curp.parkOp = none →
    (∀ x, ls.find? (fun x => x.r.addr % x.r.size != 0) = some x → exec i s = trap s cALIGN 0 x none none) ∧
    (∀ x, Aligned ls → ls.find? (fun x => !s.inWindow s.cur.world x.r.addr) = some x → exec i s = trap s cPROT 3 x none none) ∧
    (∀ x, Aligned ls → s.Inside s.cur.world ls → ls.find? (fun x => !s.reaches x.peer) = some x →
      exec i s = trap s cUNREACH 0 x (some (BitVec.ofNat 32 (x.peer * 2 ^ 20))) none) ∧
    (Aligned ls → s.Inside s.cur.world ls → s.Near ls → s.settled s.curp = false → exec i s = stay s s.cur s.curp) ∧
    (Aligned ls → s.Inside s.cur.world ls → s.Near ls → ¬ room → exec i s = stay s s.cur s.curp) ∧
    (∀ r1 x e g s2, Aligned ls → s.Inside s.cur.world ls → s.Near ls → s.settled s.curp = true → room → s.gate parts = .error r1 →
      ls.find? (fun x => s.gateRefuses (toward parts x.peer)) = some x → s.gate (toward parts x.peer) = .error (e, g, s2) →
        exec i s = trap s2 cEGRESS 0 x none (some g)) ∧
    (∀ x e g s2, Aligned ls → s.Inside s.cur.world ls → s.Near ls → s.settled s.curp = true → room → s.gate parts = .error (e, g, s2) →
      ls.find? (fun x => s.gateRefuses (toward parts x.peer)) = none → ls.find? (fun x => x.peer == e.dest.pkg) = some x →
        exec i s = trap s2 cEGRESS 0 x none (some g))

section
variable {s s1 : State} {i : Instr} {acc : Nat} {ls : List RemLane} {wb : Waybill} {parts : List Egress} {room : Prop} {full : Bool} {k : State → Out}

theorem remParts_eq (s : State) (w : Nat) (wb : Waybill) (ls : List RemLane) : remParts s w wb ls =
    ((List.range 1024).filter (fun q => ls.any (fun x => x.peer == q) && !s.attestedFor w q)).map (fun q =>
      (⟨w, wb, destPackage q, (ls.filter (fun x => x.peer == q)).foldl (fun c x => c + x.r.size) 0⟩ : Egress)) := by
  unfold remParts remPeers
  rw [List.filter_filter]
  simp only [Bool.and_comm]

theorem remStops_of_first (hexec : ready i s = true → s.curp.parkOp = none → exec i s = s.remFirst acc wb ls full k) (hroom : full = false ↔ room)
    (hparts : remParts s s.cur.world wb ls = parts) : RemStops s i acc ls parts room := by
  intro hi hp
  subst hparts
  rw [hexec hi hp]
  refine ⟨fun x hx => remFirst_stops (remShape_align hx), fun x ha hx => remFirst_stops (remShape_prot ha hx),
    fun x ha hin hx => remFirst_stops (remShape_unreach ha hin hx), fun ha hin hn hs => remFirst_waits (remShape_passes ha hin hn) (.inl hs),
    fun ha hin hn hr => remFirst_waits (remShape_passes ha hin hn) (.inr ?_), fun r1 x e g s2 ha hin hn hs hr hg hx h2 => ?_,
    fun x e g s2 ha hin hn hs hr hg hnone hx => ?_⟩
  · exact Bool.eq_true_of_not_eq_false fun hf => hr (hroom.1 hf)
  · exact remFirst_refused (remShape_passes ha hin hn) hs (hroom.2 hr) (remGate_refused_alone hg hx h2)
  · exact remFirst_refused (remShape_passes ha hin hn) hs (hroom.2 hr) (remGate_refused_together hg hnone hx)

end

/-! ### A refused lane (R184, R185) -/

theorem foldl_min_eq {α : Type} (f : α → Nat) (l : List α) {m : Nat} (h : ∀ e ∈ l, m ≤ f e) : l.foldl (fun m e => min m (f e)) m = m := by
  induction l with
  | nil => rfl
  | cons e l ih =>
    rw [List.foldl_cons, Nat.min_eq_left (h e List.mem_cons_self)]
    exact ih fun x hx => h x (List.mem_cons_of_mem _ hx)

section
variable {s s1 : State}

/-- The state in which the refusals of an operation have been reported. -/
def State.dropFails (s : State) (op : Nat) : State := { s with fab := { s.fab with fails := terase s.fab.fails op } }

/-- The lowest lane among those refused is reported, with its peer, reason and code. -/
theorem rfault_lowest {op acc l off pe c q : Nat} {rest : List (List Nat)} (hf : tget [] s.fab.fails op = [l, off, pe, c, q] :: rest) (hl : l < 32)
    (hrest : ∀ e ∈ rest, l ≤ e.headD 32) (hc : c < 256) (hq : q < 16) : rfault s s.cur s.curp op acc = takeTrap (s.dropFails op) s.cur
      ⟨cRFAULT, s.curp.here, s.curp.pos, BitVec.ofNat 64 off, 0, some (tinfoWord l q 0 0 acc),
        some (BitVec.ofNat 32 (pe * 2 ^ 20 + q * 2 ^ 16 + c * 2 ^ 8)), none, none⟩ := by
  have hlane : (tget [] s.fab.fails op).foldl (fun m f => min m (f.headD 32)) 32 = l := by
    rw [hf, List.foldl_cons, List.headD_cons, Nat.min_eq_right (Nat.le_of_lt hl)]
    exact foldl_min_eq _ _ hrest
  have hfirst : ((tget [] s.fab.fails op).find? (fun f => f.headD 32 == l)).getD [] = [l, off, pe, c, q] := by
    rw [hf, List.find?_cons_of_pos (by simp)]
    rfl
  unfold rfault State.dropFails
  simp only [hlane, hfirst, setPath_curp]
  simp [Nat.mod_eq_of_lt hc, Nat.mod_eq_of_lt hq]

/-! ### A load or an atomic that has begun (R184, R382) -/

section
variable {op kind atop acc : Nat} {wb : Waybill} {ls : List RemLane}

theorem remGoOn_waits {t : Str} {p : Path} (h : s.fab.rems.any (fun e => e.2.who == .path op) = true) :
    remGoOn s t p op kind atop acc wb ls = .next s := if_pos h

theorem remGoOn_faults {t : Str} {p : Path} (h : s.fab.rems.any (fun e => e.2.who == .path op) = false) (hf : tget [] s.fab.fails op ≠ []) :
    remGoOn s t p op kind atop acc wb ls = rfault s t p op acc := by
  unfold remGoOn
  rw [if_neg (Bool.eq_false_iff.1 h), if_pos hf]

theorem remGoOn_passes {t : Str} {p : Path} (h : s.fab.rems.any (fun e => e.2.who == .path op) = false) (hf : tget [] s.fab.fails op = [])
    (hu : p.umask ≠ 0) : remGoOn s t p op kind atop acc wb ls = remPass s t p op kind atop wb ls := by
  unfold remGoOn
  rw [if_neg (Bool.eq_false_iff.1 h), if_neg (not_not.2 hf), if_neg hu]

/-- A string that stands where another stood goes on to the same place. -/
theorem goOn_place {t u : Str} (h : t.standing = u.standing) (s : State) (b : Bool) :
    (s.goOn t (t.path b)).curp.pos = (advance u (u.path b)).2.pos ∧ (s.goOn t (t.path b)).curp.pc = (advance u (u.path b)).2.pc := by
  have hrep : t.repidx = u.repidx := (congrArg Str.repidx h :)
  have hplace := congrArg (fun v => (v.path b).place) h
  simp only [standing_path] at hplace
  unfold State.goOn
  rw [putCur_curp]
  exact advance_place hrep hplace

theorem opLeave_curUnit (n : Nat) : (s.opLeave n).curUnit = s.curUnit := (congrArg State.curUnit (opLeave_offOps n) :)
theorem opLeave_curPath (n : Nat) : (s.opLeave n).curPath = s.curPath := (congrArg State.curPath (opLeave_offOps n) :)

theorem remGoOn_ends (h : s.fab.rems.any (fun e => e.2.who == .path op) = false) (hf : tget [] s.fab.fails op = []) (hu : s.curp.umask = 0) :
    ∃ s', remGoOn s s.cur s.curp op kind atop acc wb ls = .next s' ∧ s'.curp.pos = (advance s.cur s.curp).2.pos ∧
      s'.curp.pc = (advance s.cur s.curp).2.pc := by
  obtain ⟨t1, ht1, hstand⟩ := seen_some (opLeave_seen standing_offSettle op) (putCur_str s s.cur s.curp)
  rw [setPath_curp] at hstand
  unfold remGoOn
  rw [if_neg (Bool.eq_false_iff.1 h), if_neg (not_not.2 hf), if_pos hu]
  dsimp only
  rw [opLeave_curUnit, ht1]
  refine ⟨_, finish_goOn _ _ _, ?_⟩
  rw [opLeave_curPath]
  exact goOn_place hstand _ s.curPath

end
end

/-! ### The instruction -/

/-- What a remote load or atomic does: it stops, or sends the pass of its lowest peer and holds for it, or goes on from where its passes have come. -/
def RemLoads (i : Instr) (s s1 : State) (kind : Nat) (ls : List RemLane) (wb : Waybill) (parts : List Egress) : Prop :=
  let t := s.cur
  let p := s.curp
  let acc := if kind = 0 then 0 else 2
  let asked := fun (s' : State) (q : Nat) (op : Nat) (r : List LaneReq) =>
    ∃ id, tfind s'.fab.rems id = some (remNote q (.path op) kind t.world s'.time 0 r)
  RemStops s i acc ls parts True ∧
  (ready i s = true → RemPasses s s1 acc ls wb →
    (∀ q more, remPeers ls = q :: more → q ≠ s.me → Completes i s fun s' =>
      s'.curp.hold = .remote s1.nextOp ∧ s'.curp.umask = actLanes p ∧ s'.curp.pos = p.pos ∧ s'.curp.pc = p.pc ∧
      (∀ r ∈ passReqs (kind == 2) (ls.filter (fun x => x.peer == q)), asked s' q s1.nextOp r) ∧
      s'.mem.hbm = s1.mem.hbm ∧ s'.mem.l2 = s1.mem.l2) ∧
    (∀ more, remPeers ls = s.me :: more → Completes i s fun s' =>
      s'.curp.hold = .none ∧ s'.curp.pos = p.pos ∧ s'.curp.pc = p.pc ∧ s'.fab.rems = s1.fab.rems)) ∧
  (∀ op, ready i s = true → p.parkOp = some op →
    (s.fab.rems.any (fun e => e.2.who == .path op) = true → exec i s = .next s) ∧
    (s.fab.rems.any (fun e => e.2.who == .path op) = false →
      (∀ l off pe c q rest, tget [] s.fab.fails op = [l, off, pe, c, q] :: rest → l < 32 → (∀ e ∈ rest, l ≤ e.headD 32) → c < 256 →
        q < 16 → pe < 1024 →
        exec i s = takeTrap (s.dropFails op) t
          ⟨cRFAULT, p.here, p.pos, BitVec.ofNat 64 off, 0, some (tinfoWord l q 0 0 acc),
            some (BitVec.ofNat 32 (pe * 2 ^ 20 + q * 2 ^ 16 + c * 2 ^ 8)), none, none⟩) ∧
      (∀ q more, tget [] s.fab.fails op = [] → p.umask ≠ 0 → remPeers ls = q :: more → q ≠ s.me → Completes i s fun s' =>
        s'.curp.hold = .remote op ∧ s'.curp.umask = p.umask ∧ s'.curp.pos = p.pos ∧
        (∀ r ∈ passReqs (kind == 2) (ls.filter (fun x => x.peer == q)), asked s' q op r)) ∧
      (tget [] s.fab.fails op = [] → p.umask = 0 → Completes i s fun s' =>
        s'.curp.pos = (advance t p).2.pos ∧ s'.curp.pc = (advance t p).2.pc)))

section
variable {i : Instr} {kind atop size n : Nat} {signed : Bool} {d a : BitVec 7} {b : BitVec 6} {f : BitVec 1} {data cmp : Str → Nat → Nat}
  {src : Str → Waybill} {s s1 : State}

/-- The operation a load or an atomic begins, and its path, under way. -/
def State.begun (s : State) (full : Bool) (dest : Dest) (wb : Waybill) : State :=
  { s.takeOp with mem := { s.mem with ops := tput s.mem.ops s.nextOp ⟨s.curUnit, s.curPath, dest, full, wb, false, 1, none⟩ } }

def Path.begins (p : Path) (f : BitVec 1) (op : Nat) : Path := { p.resumed.bind f op with parkOp := some op, umask := actLanes p }

theorem begins_stands (p : Path) (f : BitVec 1) (op : Nat) : (p.begins f op).umask = actLanes p ∧ (p.begins f op).pos = p.pos ∧
    (p.begins f op).pc = p.pc := by
  obtain ⟨l, hl⟩ := bind_binds p.resumed f op
  unfold Path.begins
  rw [hl]
  exact ⟨rfl, rfl, rfl⟩

theorem remLoad_first (h : ready i s = true) (hp : s.curp.parkOp = none) {ls : List RemLane} {wb : Waybill}
    (hls : ls = remLanes s.cur s.curp a b size (data s.cur) (cmp s.cur))
    (hwb : wb = dataWb s.cur s.curp (src s.cur ||| s.cur.vws a.toNat 2 ||| s.cur.sws b.toNat 2)) :
    remLoad i kind atop size n signed d a b f data cmp src s = s.remFirst (if kind = 0 then 0 else 2) wb ls false fun s1 =>
      remPass (s1.begun (s.curp.cmask &&& s.cur.lmask == s.cur.lmask) (.vec d.toNat n size signed) wb) (s.cur.widen (.vec d.toNat n size signed) wb)
        (s.curp.begins f s1.nextOp) s1.nextOp kind atop wb ls := by
  subst hls hwb
  unfold remLoad
  rw [issued_ready h]
  simp only [hp]
  unfold State.remFirst
  -- The two sides have the same shape: what the checks and the gate compute is not looked into.
  generalize remShape = shape
  generalize remGate = gate
  rfl

theorem remLoad_later (h : ready i s = true) {op : Nat} (hp : s.curp.parkOp = some op) {ls : List RemLane} {wb : Waybill}
    (hls : ls = remLanes s.cur s.curp a b size (data s.cur) (cmp s.cur))
    (hwb : wb = dataWb s.cur s.curp (src s.cur ||| s.cur.vws a.toNat 2 ||| s.cur.sws b.toNat 2)) :
    remLoad i kind atop size n signed d a b f data cmp src s = remGoOn s s.cur s.curp op kind atop (if kind = 0 then 0 else 2) wb ls := by
  subst hls hwb
  unfold remLoad
  rw [issued_ready h]
  simp only [hp]
  rfl

theorem remLoad_loads (hexec : exec i s = remLoad i kind atop size n signed d a b f data cmp src s) {ls : List RemLane} {wb : Waybill}
    (hls : ls = remLanes s.cur s.curp a b size (data s.cur) (cmp s.cur))
    (hwb : wb = dataWb s.cur s.curp (src s.cur ||| s.cur.vws a.toNat 2 ||| s.cur.sws b.toNat 2)) {parts : List Egress}
    (hparts : remParts s s.cur.world wb ls = parts) : RemLoads i s s1 kind ls wb parts := by
  have hworld (dest : Dest) : (s.cur.widen dest wb).world = s.cur.world := widen_keeps (g := Str.world) (fun _ _ _ => rfl) _ _
  refine ⟨remStops_of_first (fun h hp => hexec.trans (remLoad_first h hp hls hwb)) (iff_of_true rfl trivial) hparts, fun h hpass => ?_, fun op h hp => ?_⟩
  · have hfirst := (hexec.trans (remLoad_first h hpass.1 hls hwb)).trans (remFirst_goes hpass rfl)
    obtain ⟨-, -, -, hgate, -⟩ := hpass
    obtain ⟨ps, r, hs1⟩ := gate_passed hgate
    have hme (full : Bool) (dest : Dest) : (s1.begun full dest wb).me = s.me := by rw [hs1]; rfl
    obtain ⟨hum, hpos, hpc⟩ := begins_stands s.curp f s1.nextOp
    refine ⟨fun q more hq hne => ?_, fun more hq => ?_⟩
    · obtain ⟨s', hs', hoff, hcurp, hasked⟩ := remPass_sends (s := s1.begun (s.curp.cmask &&& s.cur.lmask == s.cur.lmask) (.vec d.toNat n size signed) wb)
        (t := s.cur.widen (.vec d.toNat n size signed) wb) (p := s.curp.begins f s1.nextOp) (op := s1.nextOp) (kind := kind) (atop := atop) (wb := wb)
        hq ((hme _ _).symm ▸ hne)
      refine ⟨s', hfirst.trans hs', (congrArg Path.hold hcurp :), (congrArg Path.umask hcurp :).trans hum, (congrArg Path.pos hcurp :).trans hpos,
        (congrArg Path.pc hcurp :).trans hpc, fun r hr => ?_, (offReq_hbm hoff).trans rfl, (offReq_l2 hoff).trans rfl⟩
      obtain ⟨id, -, hid⟩ := hasked r hr
      rw [hworld, ← offReq_time hoff] at hid
      exact ⟨id, hid⟩
    · obtain ⟨s', hs', hhold, hpos', hpc', hrems⟩ := remPass_local
        (s := s1.begun (s.curp.cmask &&& s.cur.lmask == s.cur.lmask) (.vec d.toNat n size signed) wb)
        (t := s.cur.widen (.vec d.toNat n size signed) wb) (p := s.curp.begins f s1.nextOp) (op := s1.nextOp) (kind := kind) (atop := atop) (wb := wb)
        (more := more) (by rw [hme]; exact hq)
      exact ⟨s', hfirst.trans hs', hhold, hpos'.trans hpos, hpc'.trans hpc, hrems.trans rfl⟩
  · have hlater := hexec.trans (remLoad_later h hp hls hwb)
    refine ⟨fun hany => hlater.trans (remGoOn_waits hany), fun hany => ⟨fun l off pe c q rest hf hl hrest hc hq _ => ?_, fun q more hf hu hq hne => ?_,
      fun hf hu => ?_⟩⟩
    · exact hlater.trans ((remGoOn_faults hany (by rw [hf]; exact List.cons_ne_nil _ _)).trans (rfault_lowest hf hl hrest hc hq))
    · obtain ⟨s', hs', hoff, hcurp, hasked⟩ := remPass_sends (s := s) (t := s.cur) (p := s.curp) (op := op) (kind := kind) (atop := atop) (wb := wb) hq hne
      refine ⟨s', hlater.trans ((remGoOn_passes hany hf hu).trans hs'), (congrArg Path.hold hcurp :), (congrArg Path.umask hcurp :),
        (congrArg Path.pos hcurp :), fun r hr => ?_⟩
      obtain ⟨id, -, hid⟩ := hasked r hr
      rw [← offReq_time hoff] at hid
      exact ⟨id, hid⟩
    · obtain ⟨s', hs', hpos, hpc⟩ := remGoOn_ends (kind := kind) (atop := atop) (acc := if kind = 0 then 0 else 2) (wb := wb) (ls := ls) hany hf hu
      exact ⟨s', hlater.trans hs', hpos, hpc⟩

end

end Sys2Proof.Machine
end

section
/-! What a remote store does (O41: R183, R184, R282, R380): its requests leave at once, and the path goes on. -/

namespace Sys2Proof.Machine

/-! ### The requests of every peer -/

/-- The requests of one peer's pass of a store. -/
def storeReqs (ls : List RemLane) (q : Nat) : List (List LaneReq) := passReqs false (ls.filter (fun x => x.peer == q))

/-- What a store sends, and to which peer. -/
def storeSent (ls : List RemLane) (peers : List Nat) : List (Nat × List LaneReq) := peers.flatMap (fun q => (storeReqs ls q).map (fun r => (q, r)))

theorem groupKey_ne_nil {α β : Type} [DecidableEq β] (key : α → β) {l : List α} (h : l ≠ []) : groupKey key l ≠ [] := by
  cases l with
  | nil => exact absurd rfl h
  | cons a l =>
    unfold groupKey
    dsimp only
    split <;> exact List.cons_ne_nil _ _

theorem mem_remPeers {ls : List RemLane} {q : Nat} : q ∈ remPeers ls ↔ q < 1024 ∧ ∃ x ∈ ls, x.peer = q := by
  unfold remPeers
  simp

theorem storeSent_peer {ls : List RemLane} {peers : List Nat} {x : Nat × List LaneReq} (hx : x ∈ storeSent ls peers) : x.1 ∈ peers := by
  obtain ⟨q, hq, hx⟩ := List.mem_flatMap.1 hx
  obtain ⟨r, -, rfl⟩ := List.mem_map.1 hx
  exact hq

theorem remLanes_peer {t : Str} {p : Path} {a : BitVec 7} {b : BitVec 6} {size : Nat} {data cmp : Nat → Nat} :
    ∀ x ∈ remLanes t p a b size data cmp, x.peer < 1024 := by
  intro x hx
  obtain ⟨l, -, rfl⟩ := List.mem_map.1 hx
  exact Nat.mod_lt _ (by decide)

theorem storeSent_length (ls : List RemLane) (peers : List Nat) : (storeSent ls peers).length = (peers.map (fun q => (storeReqs ls q).length)).sum := by
  unfold storeSent
  simp [List.length_flatMap]

/-- A store to another package counts all it sends. -/
theorem storeSent_count {s : State} {ls : List RemLane} (h : ∀ x ∈ ls, x.peer ≠ s.me) : (storeSent ls (remPeers ls)).length = remCount s ls := by
  have hall : (remPeers ls).filter (fun q => q != s.me) = remPeers ls := by
    refine List.filter_eq_self.2 fun q hq => ?_
    obtain ⟨-, x, hx, rfl⟩ := mem_remPeers.1 hq
    simpa using h x hx
  rw [storeSent_length]
  unfold remCount
  rw [hall]
  rfl

/-- A store of some lanes sends something. -/
theorem storeSent_pos {ls : List RemLane} (hls : ls ≠ []) (hpeer : ∀ x ∈ ls, x.peer < 1024) : 0 < (storeSent ls (remPeers ls)).length := by
  obtain ⟨x, hx⟩ := List.exists_mem_of_ne_nil ls hls
  have hreqs : storeReqs ls x.peer ≠ [] := by
    have hlane : (ls.filter (fun y => y.peer == x.peer)).map (fun y => y.r) ≠ [] :=
      List.ne_nil_of_mem (List.mem_map_of_mem (List.mem_filter.2 ⟨hx, beq_self_eq_true _⟩))
    exact fun h => groupKey_ne_nil _ hlane (List.map_eq_nil_iff.1 h)
  obtain ⟨r, hr⟩ := List.exists_mem_of_ne_nil _ hreqs
  exact List.length_pos_of_mem (List.mem_flatMap.2 ⟨x.peer, mem_remPeers.2 ⟨hpeer x hx, x, hx, rfl⟩, List.mem_map_of_mem hr⟩)

section
variable {s s0 : State} {t : Str} {op : Nat} {wb : Waybill} {ls : List RemLane}

/-- A store's passes are sent one peer after another, until a lane of the package itself is refused. -/
def storeSends (s : State) (t : Str) (path op : Nat) (wb : Waybill) (ls : List RemLane) (peers : List Nat) : State :=
  peers.foldl (fun s q =>
    let pass := ls.filter (fun x => x.peer == q)
    if tget [] s.fab.fails op ≠ [] then s
    else if q = s.me then localPass s op 1 0 t.world wb (passReqs false pass)
    else (passReqs false pass).foldl (fun s r => s.sendPost t s.curUnit path op q r wb) s) s

theorem Posted.peers {path : Nat} {b : Bool} {sent : List (Nat × List LaneReq)} {peers : List Nat} (h : Posted s0 t s0.curUnit path op b sent s)
    (hf : tget [] s0.fab.fails op = []) (hme : ∀ q ∈ peers, q ≠ s0.me) :
    Posted s0 t s0.curUnit path op b (sent ++ storeSent ls peers) (storeSends s t path op wb ls peers) := by
  induction peers generalizing s sent with
  | nil => simpa [storeSent, storeSends] using h
  | cons q peers ih =>
    have hnone : tget [] s.fab.fails op = [] := by rw [offReq_fails h.rest]; exact hf
    have hother : q ≠ s.me := by rw [offReq_me h.rest]; exact hme q List.mem_cons_self
    have hnext := ih (h.posts q (storeReqs ls q) wb) fun x hx => hme x (List.mem_cons_of_mem _ hx)
    rw [List.append_assoc] at hnext
    unfold storeSends at hnext ⊢
    rw [List.foldl_cons]
    dsimp only
    rw [if_neg (not_not.2 hnone), if_neg hother]
    exact hnext

/-! ### The path goes on -/

/-- The end of a store: the store itself is a part of its operation that has left, and a refused lane of the package itself is reported. -/
def storeEnds (s : State) (p : Path) (op : Nat) (ls : List RemLane) : Out :=
  let s := s.opLeave op
  match s.str? s.curUnit with
  | none => .next s
  | some t =>
    let fs := tget [] s.fab.fails op
    let q := (fs.head?.map (fun f => f.getD 2 0)).getD 1024
    let done := if fs = [] then ls else ls.filter (fun x => decide (x.peer ≤ q))
    let p := { t.path s.curPath with umask := p.umask &&& ~~~(okLanes s op done) }
    if fs = [] then finish s t p else rfault s t p op aStore

theorem opLeave_fails (n : Nat) : (s.opLeave n).fab.fails = s.fab.fails := (congrArg (fun k : State => k.fab.fails) (opLeave_offOps n) :)
theorem opLeave_rems (n : Nat) : (s.opLeave n).fab.rems = s.fab.rems := (congrArg (fun k : State => k.fab.rems) (opLeave_offOps n) :)
theorem opLeave_time (n : Nat) : (s.opLeave n).time = s.time := (congrArg State.time (opLeave_offOps n) :)

theorem opLeave_part {n : Nat} {o : Op} (h : tfind s.mem.ops n = some o) (hleft : 1 < o.left) :
    tfind (s.opLeave n).mem.ops n = some { o with left := o.left - 1 } := by
  unfold State.opLeave
  rw [h]
  dsimp only
  rw [if_neg (Nat.not_le.2 hleft)]
  simp

/-- A path that goes on keeps the registers, the unacknowledged writes and the flags. -/
theorem goOn_keeps (s : State) (t : Str) (p : Path) :
    (s.goOn t p).cur.v = t.v ∧ (s.goOn t p).cur.unacked = t.unacked ∧ (s.goOn t p).curp.binds = p.binds := by
  have hcurp : (s.goOn t p).curp = (advance t p).2 := putCur_curp _ _ _
  rw [goOn_cur, advance_fst, hcurp, advance_binds]
  cases s.curPath <;> exact ⟨rfl, rfl, rfl⟩

/-- With no refused lane the path goes on, from where it stood. -/
theorem storeEnds_goes {t0 : Str} {path : Nat} {sent : List (Nat × List LaneReq)} (h : Posted s0 t s0.curUnit path op s0.curPath sent s)
    (hf : tget [] s0.fab.fails op = []) (ht : s0.str? s0.curUnit = some t0) (p : Path) (ls : List RemLane) : ∃ s',
      storeEnds s p op ls = .next s' ∧ s'.time = s0.time ∧ s'.fab.rems = s.fab.rems ∧ s'.mem = (s.opLeave op).mem ∧
      s'.cur.v = t0.v ∧ s'.cur.unacked.length = t0.unacked.length + sent.length ∧
      (s'.curp.pos = (advance t0 (t0.path s0.curPath)).2.pos ∧ s'.curp.pc = (advance t0 (t0.path s0.curPath)).2.pc) ∧
      ∀ j, s0.flagHeld s0.curUnit s0.curPath j op → tfind s'.mem.ops op ≠ none → (j, op) ∈ s'.curp.binds := by
  obtain ⟨t1, ht1, hstand⟩ := seen_some ((opLeave_seen standing_offSettle op).trans h.standing) ht
  have hv : t1.v = t0.v := by
    obtain ⟨t2, ht2, hv⟩ := seen_some ((opLeave_seen v_offSettle op).trans h.vregs) ht
    obtain rfl : t1 = t2 := by simpa using ht1.symm.trans ht2
    exact hv
  have hun : t1.unacked.length = t0.unacked.length + sent.length := by
    have hlen := (congrFun (opLeave_seen unackedLength_offSettle op) s0.curUnit).trans h.unacked
    unfold State.seen at hlen
    rw [ht1, ht] at hlen
    simpa using hlen
  have hunit : (s.opLeave op).curUnit = s0.curUnit := (opLeave_curUnit op).trans (offReq_curUnit h.rest)
  have hpath : (s.opLeave op).curPath = s0.curPath := (opLeave_curPath op).trans (offReq_curPath h.rest)
  have hnone : tget [] (s.opLeave op).fab.fails op = [] := by rw [opLeave_fails, offReq_fails h.rest]; exact hf
  have hplace : (t1.path s0.curPath).place = (t0.path s0.curPath).place := by
    have hpaths := congrArg (fun v => (v.path s0.curPath).place) hstand
    simp only [standing_path] at hpaths
    exact hpaths
  obtain ⟨hgv, hgun, hgbinds⟩ := goOn_keeps (s.opLeave op) t1
    { t1.path s0.curPath with umask := p.umask &&& ~~~(okLanes (s.opLeave op) op ls) }
  refine ⟨(s.opLeave op).goOn t1 { t1.path s0.curPath with umask := p.umask &&& ~~~(okLanes (s.opLeave op) op ls) }, ?_,
    (opLeave_time op).trans (offReq_time h.rest), opLeave_rems op, rfl, hgv.trans hv, (congrArg List.length hgun).trans hun, ?_,
    fun j hj hop => ?_⟩
  · unfold storeEnds
    dsimp only
    rw [hunit, ht1]
    dsimp only
    rw [if_pos hnone, if_pos hnone, hpath, finish_goOn]
  · unfold State.goOn
    rw [putCur_curp]
    exact advance_place (congrArg Str.repidx hstand :) hplace
  · obtain ⟨t2, ht2, hbind⟩ := opLeave_flagHeld (h.flag j hj) op hop
    obtain rfl : t1 = t2 := by simpa using ht1.symm.trans ht2
    rw [hgbinds]
    exact hbind

/-! ### The instruction -/

/-- The path of a store once its operation is bound. -/
def Path.stores (p : Path) (f : BitVec 1) (op : Nat) : Path := { p.resumed.bind f op with umask := actLanes p }

theorem stores_stands (p : Path) (f : BitVec 1) (op : Nat) : (p.stores f op).place = p.place ∧ (p.stores f op).id = p.id := by
  obtain ⟨l, hl⟩ := bind_binds p.resumed f op
  unfold Path.stores
  rw [hl]
  exact ⟨rfl, rfl⟩

theorem stores_binds {p : Path} {f : BitVec 1} {j : Nat} (h : slotFlag p.hdr f = some j) (op : Nat) : (j, op) ∈ (p.stores f op).binds := by
  have hslot : slotFlag p.resumed.hdr f = some j := h
  unfold Path.stores Path.bind
  rw [hslot]
  simp

/-- The state in which a store sends: its operation has begun, and its path has the flag. -/
def State.posting (s : State) (t : Str) (p : Path) : State := (s.begun true .none 0).putCur t p

/-- What a store does once the gate has let it go. -/
def storeGoes (t : Str) (p : Path) (f : BitVec 1) (wb : Waybill) (ls : List RemLane) (s1 : State) : Out :=
  storeEnds (storeSends (s1.posting t (p.stores f s1.nextOp)) t (p.stores f s1.nextOp).id s1.nextOp wb ls (remPeers ls)) (p.stores f s1.nextOp) s1.nextOp ls

theorem remStore_first {i : Instr} {size : Nat} {d a : BitVec 7} {b : BitVec 6} {f : BitVec 1} (h : ready i s = true)
    (hls : ls = remLanes s.cur s.curp a b size (fun l => s.cur.vgroup d.toNat ((size + 3) / 4) l % 2 ^ (8 * size)) (fun _ => 0))
    (hwb : wb = dataWb s.cur s.curp (s.cur.vws d.toNat ((size + 3) / 4) ||| s.cur.vws a.toNat 2 ||| s.cur.sws b.toNat 2)) :
    remStore i size d a b f s = s.remFirst 1 wb ls (decide (65535 < tget 0 s.sch.outstanding (outKey s.cur (coreOf s.curUnit)) + remCount s ls))
      (storeGoes s.cur s.curp f wb ls) := by
  subst hls hwb
  unfold remStore
  rw [issued_ready h]
  unfold State.remFirst storeGoes
  -- The two sides have the same shape: what the checks, the gate and the peers compute is not looked into.
  generalize remShape = shape
  generalize remGate = gate
  generalize remPeers = peers
  generalize 65535 = most
  rfl

/-- What a remote store does: it stops, or sends what it has for every peer and goes on. -/
theorem remStore_posts {i : Instr} {size : Nat} {d a : BitVec 7} {b : BitVec 6} {f : BitVec 1} {s1 : State} (h : ready i s = true)
    (hls : ls = remLanes s.cur s.curp a b size (fun l => s.cur.vgroup d.toNat ((size + 3) / 4) l % 2 ^ (8 * size)) (fun _ => 0))
    (hwb : wb = dataWb s.cur s.curp (s.cur.vws d.toNat ((size + 3) / 4) ||| s.cur.vws a.toNat 2 ||| s.cur.sws b.toNat 2))
    (hpass : RemPasses s s1 1 ls wb) (hme : ∀ x ∈ ls, x.peer ≠ s.me)
    (hroom : tget 0 s.sch.outstanding (outKey s.cur (coreOf s.curUnit)) + remCount s ls ≤ 65535) (hf : tget [] s1.fab.fails s1.nextOp = []) :
    ∃ s', remStore i size d a b f s = .next s' ∧
      (∀ q ∈ remPeers ls, ∀ r ∈ storeReqs ls q, ∃ id, tfind s'.fab.rems id =
        some (remNote q (.post s.curUnit s.curp.id s.cur.key (outKey s.cur (coreOf s.curUnit))) 1 s.cur.world s'.time s1.nextOp r)) ∧
      s'.cur.unacked.length = s.cur.unacked.length + remCount s ls ∧
      (∀ j o, slotFlag s.curp.hdr f = some j → tfind s'.mem.ops s1.nextOp = some o → (j, s1.nextOp) ∈ s'.curp.binds) ∧
      (ls ≠ [] → (∀ q ∈ remPeers ls, s1.liveTo q = false) → ∃ o, tfind s'.mem.ops s1.nextOp = some o ∧ o.left = remCount s ls) ∧
      s'.curp.pos = (advance s.cur s.curp).2.pos ∧ s'.curp.pc = (advance s.cur s.curp).2.pc ∧ s'.cur.v = s.cur.v ∧
      s'.mem.hbm = s1.mem.hbm ∧ s'.mem.l2 = s1.mem.l2 := by
  obtain ⟨hplace, hid⟩ := stores_stands s.curp f s1.nextOp
  have hfirst := (remStore_first (f := f) h hls hwb).trans (remFirst_goes hpass (decide_eq_false (Nat.not_lt.2 hroom)))
  obtain ⟨-, -, -, hgate, -⟩ := hpass
  obtain ⟨ps, r, hs1⟩ := gate_passed hgate
  have hunit : s1.curUnit = s.curUnit := by rw [hs1]
  have hpath : s1.curPath = s.curPath := by rw [hs1]
  have hown : s1.me = s.me := by rw [hs1]; rfl
  unfold storeGoes at hfirst
  rw [hid] at hfirst
  generalize hp : s.curp.stores f s1.nextOp = p at hplace hid hfirst
  have hcount : (storeSent ls (remPeers ls)).length = remCount s ls := storeSent_count hme
  have hposted := (Posted.start (s := s1.posting s.cur p) s.cur s1.curUnit s.curp.id s1.nextOp s1.curPath).peers (wb := wb) (ls := ls) (peers := remPeers ls) hf
    fun q hq => by obtain ⟨-, x, hx, rfl⟩ := mem_remPeers.1 hq; exact hown ▸ hme x hx
  rw [List.nil_append] at hposted
  have ht0 : (s1.posting s.cur p).str? (s1.posting s.cur p).curUnit = some (s.cur.setPath s1.curPath p) := putCur_str _ _ _
  obtain ⟨s', hgo, htime, hrems, hmem, hv, hun, hstand, hflag⟩ := storeEnds_goes hposted hf ht0 p ls
  have hhbm : s'.mem.hbm = s1.mem.hbm := by rw [hmem, opLeave_hbm, offReq_hbm hposted.rest]; rfl
  have hl2 : s'.mem.l2 = s1.mem.l2 := by rw [hmem, opLeave_l2, offReq_l2 hposted.rest]; rfl
  obtain ⟨hsv, hsun, hsrep⟩ : (s.cur.setPath s1.curPath p).v = s.cur.v ∧ (s.cur.setPath s1.curPath p).unacked = s.cur.unacked ∧
      (s.cur.setPath s1.curPath p).repidx = s.cur.repidx := by cases s1.curPath <;> exact ⟨rfl, rfl, rfl⟩
  have hplaced := advance_place hsrep (p := (s.cur.setPath s1.curPath p).path s1.curPath) (q := s.curp) (by rw [setPath_path]; exact hplace)
  refine ⟨s', hfirst.trans hgo, fun q hq r hr => ?_, by rw [hun, hsun, hcount], fun j o hj ho => ?_, fun hne hlive => ?_,
    hstand.1.trans hplaced.1, hstand.2.trans hplaced.2, hv.trans hsv, hhbm, hl2⟩
  · obtain ⟨id, -, hid⟩ := hposted.asked (q, r) (List.mem_flatMap.2 ⟨q, hq, List.mem_map_of_mem hr⟩)
    rw [← hrems, ← htime] at hid
    exact ⟨id, hunit ▸ hid⟩
  · refine hflag j (fun _ => ⟨_, ht0, ?_⟩) (by rw [ho]; exact Option.some_ne_none o)
    rw [show (s1.posting s.cur p).curPath = s1.curPath from rfl, setPath_path, ← hp]
    exact stores_binds hj _
  · have hpeer : ∀ x ∈ ls, x.peer < 1024 := by
      rw [hls]
      exact remLanes_peer
    have hbegun : tfind (s1.posting s.cur p).mem.ops s1.nextOp = some ⟨s1.curUnit, s1.curPath, .none, true, 0, false, 1, none⟩ :=
      (tfind_tput _ _ _ _).trans (if_pos rfl)
    have hpart := hposted.left (fun x hx => hlive x.1 (storeSent_peer hx)) _ hbegun
    have hpos := storeSent_pos hne hpeer
    refine ⟨_, by rw [hmem]; exact opLeave_part hpart (by dsimp only; omega), ?_⟩
    dsimp only
    omega

end

end Sys2Proof.Machine
end

section
/-! What the answers to remote requests do (O41: R157, R184 to R187, R379, R393). -/

namespace Sys2Proof.Machine

/-! ### A pass on the wire (R184, R380) -/

section
variable {ls : List LaneReq} {lo : Nat}

theorem lowAddr_eq (hle : ∀ x ∈ ls, lo ≤ x.addr) (hlo : ∃ x ∈ ls, x.addr = lo) : lowAddr ls = lo := by
  have hmin : (ls.map LaneReq.addr).min? = some lo :=
    List.min?_eq_some_iff.2 ⟨List.mem_map.2 hlo, fun a ha => by obtain ⟨x, hx, rfl⟩ := List.mem_map.1 ha; exact hle x hx⟩
  unfold lowAddr
  rw [hmin, Option.getD_some]

/-- What a pass asks for and how an answer's values reach its lanes. -/
theorem pass_wire (ls : List LaneReq) (lo v : Nat) (rest : List Nat) (kind : Nat) :
    (kind ≠ 0 → laneVals kind ls (v :: rest) = (ls.zip (v :: rest)).map (fun e => (e.1.lane, e.2))) ∧
    ((∀ x ∈ ls, lo ≤ x.addr) → (∃ x ∈ ls, x.addr = lo) →
      wirePieces kind 0 ls = [⟨0, lo, ls.foldl (fun h r => max h (r.addr + r.size)) 0 - lo, 0, 0⟩] ∧
      laneVals 0 ls (v :: rest) = ls.map (fun r => (r.lane, v / 256 ^ (r.addr - lo) % 256 ^ r.size))) := by
  refine ⟨fun hk => if_neg hk, fun hle hlo => ?_⟩
  unfold wirePieces laneVals
  rw [lowAddr_eq hle hlo]
  exact ⟨rfl, rfl⟩

end

/-! ### An answer to a path (R184, R185) -/

section
variable {s : State}

/-- A string without its registers. -/
def Str.offRegs (t : Str) : Str := { t with v := [], s := [], vwb := [], swb := [] }

theorem delivered_offRegs (t : Str) (d : Dest) (vals : List (Nat × Nat)) : (vals.foldl (fun t v => t.deliver d v.1 v.2) t).offRegs = t.offRegs := by
  refine foldl_keeps (fun t v => ?_) _ _
  cases d with
  | none => rfl
  | vec r n size sg => exact deliver_vec_keeps (fun _ _ _ _ => rfl) _ _ _ _ _ _
  | uni r n => exact deliver_uni_keeps (fun _ _ => rfl) _ _ _ _

theorem delivered_vwb (t : Str) (d : Dest) (vals : List (Nat × Nat)) : (vals.foldl (fun t v => t.deliver d v.1 v.2) t).vwb = t.vwb := by
  refine foldl_keeps (fun t v => ?_) _ _
  cases d with
  | none => rfl
  | vec r n size sg => exact deliver_vec_keeps (fun _ _ _ _ => rfl) _ _ _ _ _ _
  | uni r n => exact deliver_uni_keeps (fun _ _ => rfl) _ _ _ _

theorem widen_vwb (t : Str) (d : Dest) (w : Waybill) : (t.widen d w).vwb = match d with
    | .vec r n _ _ => (List.range n).foldl (fun y k => tset 0 y (r + k) (tget 0 y (r + k) ||| w)) t.vwb
    | _ => t.vwb := by
  cases d with
  | none => rfl
  | vec r n size sg => exact (List.foldl_hom Str.vwb fun _ _ => rfl).symm
  | uni r n => exact foldl_keeps (f := fun (t : Str) k => { t with swb := tset 0 t.swb (r + k) (tget 0 t.swb (r + k) ||| w) }) (fun _ _ => rfl) _ t

theorem offRegs_path (t : Str) (b : Bool) : t.offRegs.path b = t.path b := by cases b <;> rfl

/-- A string that has an answer's values, and its waybills widened. -/
def Str.got (t : Str) (d : Dest) (vals : List (Nat × Nat)) (w : Waybill) : Str := (vals.foldl (fun t v => t.deliver d v.1 v.2) t).widen d w

theorem got_offRegs (t : Str) (d : Dest) (vals : List (Nat × Nat)) (w : Waybill) : (t.got d vals w).offRegs = t.offRegs :=
  (widen_keeps (g := Str.offRegs) (fun _ _ _ => rfl) d w).trans (delivered_offRegs t d vals)

theorem got_path (t : Str) (d : Dest) (vals : List (Nat × Nat)) (w : Waybill) (b : Bool) : (t.got d vals w).path b = t.path b := by
  rw [← offRegs_path, got_offRegs, offRegs_path]

theorem got_registers (t : Str) (d : Dest) (vals : List (Nat × Nat)) (w : Waybill) :
    (t.got d vals w).v = (vals.foldl (fun t v => t.deliver d v.1 v.2) t).v ∧ (t.got d vals w).vwb = (t.widen d w).vwb := by
  refine ⟨widen_keeps (g := Str.v) (fun _ _ _ => rfl) d w, ?_⟩
  unfold Str.got
  rw [widen_vwb, widen_vwb, delivered_vwb]

/-- What an answer does to the paths of its string: answered lanes leave the mask, and the last answer lets the path go on. -/
def Path.passed (op : Nat) (m : Lanes) (last : Bool) (p : Path) : Path := if last then (p.cutMask op m).answered op else p.cutMask op m

theorem cutMask_umask (p : Path) (op : Nat) (m : Lanes) : (p.cutMask op m).umask = if p.parkOp = some op then p.umask &&& ~~~m else p.umask :=
  apply_ite Path.umask _ _ _

theorem cutMask_hold (p : Path) (op : Nat) (m : Lanes) : (p.cutMask op m).hold = p.hold := (apply_ite Path.hold _ _ _).trans (ite_self _)

theorem answered_umask (p : Path) (op : Nat) : (p.answered op).umask = p.umask := (apply_ite Path.umask _ _ _).trans (ite_self _)

theorem answered_hold {p : Path} {op : Nat} (h : p.hold = .remote op) : (p.answered op).hold = .none := congrArg Path.hold (if_pos h)

theorem passed_umask (op : Nat) (m : Lanes) (last : Bool) (p : Path) :
    (p.passed op m last).umask = if p.parkOp = some op then p.umask &&& ~~~m else p.umask := by
  cases last with
  | false => exact cutMask_umask p op m
  | true => exact (answered_umask _ _).trans (cutMask_umask p op m)

theorem passed_hold {op : Nat} {p : Path} (h : p.hold = .remote op) (m : Lanes) (more : Bool) :
    (p.passed op m (!more)).hold = if more then .remote op else .none := by
  cases more with
  | true => exact (cutMask_hold p op m).trans h
  | false => exact answered_hold ((cutMask_hold p op m).trans h)

/-- The end of an answer to a path: its string's paths have it. -/
def State.passAnswered (s : State) (op : Nat) (m : Lanes) : State :=
  match tfind s.mem.ops op with
  | none => s
  | some o =>
    match s.str? o.unit with
    | none => s
    | some t => s.putPassed o.unit (t.mapPaths (Path.passed op m (!s.fab.rems.any (fun e => e.2.who == .path op))))

theorem passAnswered_eq {op : Nat} {o : Op} {t : Str} (ho : tfind s.mem.ops op = some o) (ht : s.str? o.unit = some t) (hstop : t.stopNow = false)
    (m : Lanes) : s.passAnswered op m = s.putStr o.unit (t.mapPaths (Path.passed op m (!s.fab.rems.any (fun e => e.2.who == .path op)))) := by
  have hgo : (t.mapPaths (Path.passed op m (!s.fab.rems.any (fun e => e.2.who == .path op)))).stopNow = false := hstop
  unfold State.passAnswered State.putPassed
  rw [ho]
  dsimp only
  rw [ht]
  dsimp only
  rw [hgo, Bool.false_and, if_neg Bool.false_ne_true]

/-- A request that has its answer is under way no more. -/
def State.remGone (s : State) (id : Nat) : State := { s with fab := { s.fab with rems := terase s.fab.rems id } }

/-- Refused lanes are noted for their operation. -/
def State.remFailed (s : State) (op : Nat) (r : Rem) (code reason : Nat) : State :=
  { s with fab := { s.fab with
    fails := tset [] s.fab.fails op (tget [] s.fab.fails op ++ r.lanes.map (fun l => [l.lane, l.addr, r.peer, code, reason])) } }

theorem pathAnswer_eq (s : State) (id op : Nat) (r : Rem) (code reason : Nat) (vals : List Nat) (wb : Waybill) :
    s.pathAnswer id op r code reason vals wb =
      State.passAnswered (if code = 0 then (s.remGone id).opResult op (laneVals r.kind r.lanes vals) wb false else (s.remGone id).remFailed op r code reason)
        op (if code = 0 then laneMask (fun l => r.lanes.any (fun x => x.lane == l)) else 0) := rfl

/-- What an answer leaves of the string that waits for it (R184, R185). -/
structure PassAnswer (s : State) (id op : Nat) (r : Rem) (code reason : Nat) (vals : List Nat) (wb : Waybill) (o : Op) (t : Str) (s' : State)
    (t' : Str) : Prop where
  rems : s'.fab.rems = terase s.fab.rems id
  str : s'.str? o.unit = some t'
  umask : ∀ b, (t'.path b).umask = if (t.path b).parkOp = some op ∧ code = 0 then
    (t.path b).umask &&& ~~~(laneMask (fun l => r.lanes.any (fun x => x.lane == l))) else (t.path b).umask
  hold : ∀ b, (t.path b).hold = .remote op →
    (t'.path b).hold = if (terase s.fab.rems id).any (fun e => e.2.who == .path op) then .remote op else .none
  refused : code ≠ 0 → t'.v = t.v ∧
    tget [] s'.fab.fails op = tget [] s.fab.fails op ++ r.lanes.map (fun l => [l.lane, l.addr, r.peer, code, reason])
  given : code = 0 → s'.fab.fails = s.fab.fails ∧ t'.v = ((laneVals r.kind r.lanes vals).foldl (fun t e => t.deliver o.dest e.1 e.2) t).v ∧
    t'.vwb = (t.widen o.dest (o.acc ||| wb)).vwb

theorem opResult_fab (n : Nat) (vals : List (Nat × Nat)) (w : Waybill) (bad : Bool) : (s.opResult n vals w bad).fab = s.fab := by
  unfold State.opResult
  split
  · rfl
  · dsimp only
    split <;> rfl

theorem opResult_op {n : Nat} {o : Op} (ho : tfind s.mem.ops n = some o) (vals : List (Nat × Nat)) (w : Waybill) (bad : Bool) :
    tfind (s.opResult n vals w bad).mem.ops n = some { o with acc := o.acc ||| w, bad := o.bad || bad } := by
  unfold State.opResult
  rw [ho]
  dsimp only
  split <;> exact (tfind_tput _ _ _ _).trans (if_pos rfl)

/-- A value for each lane, or a refusal. -/
theorem pathAnswer_spec {id op : Nat} {r : Rem} {o : Op} {t : Str} (ho : tfind s.mem.ops op = some o) (ht : s.str? o.unit = some t)
    (hstop : t.stopNow = false) (code reason : Nat) (vals : List Nat) (wb : Waybill) :
    ∃ t', PassAnswer s id op r code reason vals wb o t (s.pathAnswer id op r code reason vals wb) t' := by
  rw [pathAnswer_eq]
  by_cases hcode : code = 0
  · rw [if_pos hcode, if_pos hcode]
    have ho1 := opResult_op (s := s.remGone id) ho (laneVals r.kind r.lanes vals) wb false
    have ht1 := opResult_str (s := s.remGone id) ho ht (laneVals r.kind r.lanes vals) wb false
    have hfab := opResult_fab (s := s.remGone id) op (laneVals r.kind r.lanes vals) wb false
    have hregs := got_registers t o.dest (laneVals r.kind r.lanes vals) (o.acc ||| wb)
    have hpath := got_path t o.dest (laneVals r.kind r.lanes vals) (o.acc ||| wb)
    have hoff := got_offRegs t o.dest (laneVals r.kind r.lanes vals) (o.acc ||| wb)
    change _ = some (t.got o.dest (laneVals r.kind r.lanes vals) (o.acc ||| wb)) at ht1
    generalize t.got o.dest (laneVals r.kind r.lanes vals) (o.acc ||| wb) = t1 at ht1 hregs hpath hoff
    rw [passAnswered_eq ho1 ht1 ((congrArg Str.stopNow hoff :).trans hstop), hfab]
    refine ⟨_, congrArg FabS.rems hfab, (putStr_str _ _ _ _).trans (if_pos rfl), fun b => ?_, fun b hb => ?_, fun h => absurd hcode h, fun _ =>
      ⟨(congrArg FabS.fails hfab :), hregs⟩⟩
    · rw [mapPaths_path, passed_umask, hpath]
      simp [hcode]
    · rw [mapPaths_path, passed_hold (by rw [hpath]; exact hb)]
      rfl
  · rw [if_neg hcode, if_neg hcode]
    rw [passAnswered_eq (s := (s.remGone id).remFailed op r code reason) ho ht hstop]
    refine ⟨_, rfl, (putStr_str _ _ _ _).trans (if_pos rfl), fun b => ?_, fun b hb => ?_, fun _ => ⟨rfl, ?_⟩, fun h => absurd h hcode⟩
    · have hall (m : Lanes) : m &&& ~~~(0 : Lanes) = m := (congrArg (m &&& ·) BitVec.not_zero).trans BitVec.and_allOnes
      rw [mapPaths_path, passed_umask, hall]
      simp [hcode]
    · rw [mapPaths_path, passed_hold hb]
      rfl
    · exact (tget_tset _ _ _ _ _).trans (if_pos rfl)

/-! ### An answer to a posted write (R157, R282) -/

section
variable {f : Str → Str} (hf : ∀ t, (f t).outrider = t.outrider ∧ (f t).key = t.key)
include hf

/-- A change of a string that keeps its key leaves it where it can be found, in its slot or in a context store. -/
theorem onStr_found (s : State) (who : Nat) : ((s.onStr who f).strOf who = none ↔ s.strOf who = none) ∧ (s.onStr who f).isStored who = s.isStored who := by
  unfold State.onStr
  split
  · next u t ht =>
    have hmine : (!t.outrider && t.key == who) = true := List.find?_some (p := fun x : Nat × Str => !x.2.outrider && x.2.key == who) ht
    have hstands : (s.putStr u (f t)).strOf who ≠ none := by
      have hmem : (u, f t) ∈ (s.putStr u (f t)).strs := mem_of_tfind ((tfind_tput _ _ _ _).trans (if_pos rfl))
      refine fun hnone => List.find?_eq_none.1 hnone _ hmem ?_
      dsimp only
      rw [(hf t).1, (hf t).2]
      exact hmine
    exact ⟨iff_of_false hstands (by rw [ht]; exact Option.some_ne_none _), rfl⟩
  · next hnone =>
    have hkey (t : Str) : ((if t.key = who then f t else t).key == who) = (t.key == who) := by
      split
      · rw [(hf t).2]
      · rfl
    refine ⟨Iff.rfl, ?_⟩
    unfold State.isStored
    simp only [List.any_map, Function.comp_def, hkey]

end

/-- The state in which a posted write has its acknowledgement. -/
def State.postGone (s : State) (id who launch : Nat) : State :=
  ((s.remGone id).outSub launch 1).onStr who (fun t => { t with unacked := t.unacked.filter (fun x => x.2 != id) })

theorem onStr_time (who : Nat) (f : Str → Str) : (s.onStr who f).time = s.time := by
  unfold State.onStr
  split <;> rfl

theorem postAck_spec (s : State) (id : Nat) (r : Rem) (code reason who launch path : Nat) : s.postAck id r code reason who launch path =
    if code = 0 then s.postGone id who launch
    else if s.strOf who = none ∧ s.isStored who = false then
      (s.postGone id who launch).fabEvent r.world (fabWord 6 0 r.peer r.world 0 code s.time r.offset)
    else (s.postGone id who launch).onStr who (fun t =>
      { t with nacks := t.nacks ++ [⟨r.peer, BitVec.ofNat 64 r.offset, reason * 256 + code, path, id⟩] }) := by
  obtain ⟨hstr, hstored⟩ : ((s.postGone id who launch).strOf who = none ↔ s.strOf who = none) ∧
      (s.postGone id who launch).isStored who = s.isStored who :=
    onStr_found (f := fun t => { t with unacked := t.unacked.filter (fun x => x.2 != id) }) (fun _ => ⟨rfl, rfl⟩) ((s.remGone id).outSub launch 1) who
  have htime : (s.postGone id who launch).time = s.time := onStr_time _ _
  have hack : s.postAck id r code reason who launch path = if code = 0 then s.postGone id who launch
      else (s.postGone id who launch).nackPost id r code reason who path := rfl
  have hlost : (((s.postGone id who launch).strOf who).isNone && !(s.postGone id who launch).isStored who) = true ↔
      s.strOf who = none ∧ s.isStored who = false := by
    rw [hstored, ← hstr]
    simp
  rw [hack]
  refine if_congr Iff.rfl rfl ?_
  unfold State.nackPost State.nackGone
  rw [htime]
  exact if_congr hlost rfl rfl

/-! ### Every answer -/

/-- What an answer to a path or to a posted write does. -/
def Answers (s : State) (r : Rem) (id : Nat) (i : Instr) (code reason : Nat) (vals : List Nat) (wb : Waybill) : Prop :=
  let gone := terase s.fab.rems id
  (∀ op o t, r.kind ≠ 4 → r.who = .path op → tfind s.mem.ops op = some o → s.str? o.unit = some t → t.stopNow = false →
    Completes i s fun s' => s'.fab.rems = gone ∧ ∃ t', s'.str? o.unit = some t' ∧
      (∀ b, (t'.path b).umask = (if (t.path b).parkOp = some op ∧ code = 0 then
          (t.path b).umask &&& ~~~(laneMask (fun l => r.lanes.any (fun x => x.lane == l))) else (t.path b).umask) ∧
        ((t.path b).hold = .remote op → (t'.path b).hold = if gone.any (fun e => e.2.who == .path op) then .remote op else .none)) ∧
      (code ≠ 0 → t'.v = t.v ∧ tget [] s'.fab.fails op = tget [] s.fab.fails op ++
        r.lanes.map (fun l => [l.lane, l.addr, r.peer, code, reason])) ∧
      (code = 0 → s'.fab.fails = s.fab.fails ∧
        t'.v = ((laneVals r.kind r.lanes vals).foldl (fun t e => t.deliver o.dest e.1 e.2) t).v ∧
        t'.vwb = (t.widen o.dest (o.acc ||| wb)).vwb)) ∧
  (∀ u b who launch, r.kind ≠ 4 → r.who = .post u b who launch → Completes i s fun s' => s' =
    if code = 0 then s.postGone id who launch
    else if s.strOf who = none ∧ s.isStored who = false then
      (s.postGone id who launch).fabEvent r.world (fabWord 6 0 r.peer r.world 0 code s.time r.offset)
    else (s.postGone id who launch).onStr who (fun t => { t with nacks := t.nacks ++ [⟨r.peer, BitVec.ofNat 64 r.offset, reason * 256 + code, b, id⟩] }))

theorem answers_of_remAnswer {i : Instr} {id : Nat} {r : Rem} {code reason : Nat} {vals : List Nat} {bs : List Byte} {wb : Waybill}
    (h : r.kind ≠ 4 → exec i s = .next (s.remAnswer id r code reason vals bs wb)) : Answers s r id i code reason vals wb := by
  refine ⟨fun op o t hk hwho ho ht hstop => ⟨_, h hk, ?_⟩, fun u b who launch hk hwho => ⟨_, h hk, ?_⟩⟩
  · have hanswer : s.remAnswer id r code reason vals bs wb = s.pathAnswer id op r code reason vals wb := by
      unfold State.remAnswer
      rw [if_neg hk, hwho]
    rw [hanswer]
    obtain ⟨t', ⟨hrems, hstr, humask, hhold, hrefused, hgiven⟩⟩ := pathAnswer_spec ho ht hstop code reason vals wb
    exact ⟨hrems, t', hstr, fun b => ⟨humask b, hhold b⟩, hrefused, hgiven⟩
  · have hanswer : s.remAnswer id r code reason vals bs wb = s.postAck id r code reason who launch b := by
      unfold State.remAnswer
      rw [if_neg hk, hwho]
    rw [hanswer, postAck_spec]

theorem remoteAck_eq {r : Rem} (h : tfind s.fab.rems (s.argN 1) = some r) (hp : r.peer = s.argN 0) :
    exec .remoteAck s = .next (s.remAnswer (s.argN 1) r (s.argN 2) (s.argN 3) [] [] 0) := by
  change execRemoteAck s = _
  unfold execRemoteAck
  rw [h]
  exact if_pos hp

theorem remoteResponse_eq {r : Rem} (h : tfind s.fab.rems (s.argN 1) = some r) (hp : r.peer = s.argN 0) :
    exec .remoteResponse s = .next (s.remAnswer (s.argN 1) r (s.argN 2) (s.argN 3) (s.arg.n.drop 5) s.arg.bytes (BitVec.ofNat 16 (s.argN 4))) := by
  change execRemoteResponse s = _
  unfold execRemoteResponse
  rw [h]
  exact if_pos hp

/-- The time a request may wait for its answer (R186). -/
theorem answerTime_eq (x : Dword) : usec (x.toNat / 65536 % 65536) = 3600 * (x.extractLsb' 16 16).toNat := by
  rw [BitVec.extractLsb'_toNat, Nat.shiftRight_eq_div_pow]
  rfl

theorem remoteTimeout_waits {r : Rem} (h : tfind s.fab.rems (s.argN 0) = some r)
    (hw : r.kind = 4 ∨ s.time < r.since + 3600 * ((s.pkg 0x0A3).extractLsb' 16 16).toNat) : exec .remoteTimeout s = .next s := by
  change execRemoteTimeout s = _
  unfold execRemoteTimeout
  rw [h]
  dsimp only
  rw [answerTime_eq, if_pos hw]

theorem remoteTimeout_ends {r : Rem} (h : tfind s.fab.rems (s.argN 0) = some r) (hk : r.kind ≠ 4)
    (ht : r.since + 3600 * ((s.pkg 0x0A3).extractLsb' 16 16).toNat ≤ s.time) :
    exec .remoteTimeout s = .next (s.remAnswer (s.argN 0) r 0x30 0 [] [] 0) := by
  change execRemoteTimeout s = _
  unfold execRemoteTimeout
  rw [h]
  dsimp only
  rw [answerTime_eq, if_neg (not_or.2 ⟨hk, Nat.not_lt.2 ht⟩)]

/-- An Ethernet endpoint's answer to an engine (R393). -/
theorem ethernetResponse_eq {r : Rem} {op : Nat} (h : tfind s.fab.rems (s.argN 0) = some r) (hk : r.kind = 5 ∨ r.kind = 6) (hw : r.who = .eng op) :
    exec .ethernetResponse s = .next (s.engAnswer (s.argN 0) op r
      (if s.argN 1 = 0 then 0 else if (((s.endpoint r.world (r.peer - 1024)).map Prod.fst).map epValid).getD false then 0x30 else 0x28) 0 s.arg.bytes
      ((((s.endpoint r.world (r.peer - 1024)).map Prod.fst).map epOrigins).getD 0)) := by
  have hk4 : r.kind ≠ 4 := by omega
  have hk0 : r.kind ≠ 0 := by omega
  change execEthernetResponse s = _
  unfold execEthernetResponse
  rw [h]
  dsimp only
  unfold State.remAnswer
  rw [if_neg hk4, hw, if_neg hk0]

/-- An answer nobody waits for (R184). -/
theorem answer_unasked : (tfind s.fab.rems (s.argN 1) = none → exec .remoteAck s = .next s ∧ exec .remoteResponse s = .next s) ∧
    (tfind s.fab.rems (s.argN 0) = none → exec .remoteTimeout s = .next s ∧ exec .ethernetResponse s = .next s) := by
  refine ⟨fun h => ⟨?_, ?_⟩, fun h => ⟨?_, ?_⟩⟩
  · change execRemoteAck s = _
    unfold execRemoteAck
    rw [h]
  · change execRemoteResponse s = _
    unfold execRemoteResponse
    rw [h]
  · change execRemoteTimeout s = _
    unfold execRemoteTimeout
    rw [h]
  · change execEthernetResponse s = _
    unfold execEthernetResponse
    rw [h]

end

end Sys2Proof.Machine
end

section
/-! Settles O41. -/

open Sys2Proof Sys2Proof.Machine

namespace Sys2Proof.Machine

variable (d a : BitVec 7) (b : BitVec 6) (z : BitVec 3) (f : BitVec 1) (s : State)

/-! What each remote instruction is. -/

theorem exec_rld : exec (.rld d a b z f) s = remLoad (.rld d a b z f) 0 0 (sizeBytes z) (sizeRegs z) (sizeSigned z) d a b f
    (fun _ _ => 0) (fun _ _ => 0) (fun _ => 0) s := rfl

theorem exec_ratadd : exec (.ratadd d a b z f) s = remLoad (.ratadd d a b z f) 2 0 (4 * sizeRegs z) (sizeRegs z) false d a b f
    (fun t l => t.vgroup d.toNat (sizeRegs z) l) (fun _ _ => 0) (fun t => t.vws d.toNat (sizeRegs z)) s := rfl

theorem exec_ratcas : exec (.ratcas d a b z f) s = remLoad (.ratcas d a b z f) 2 9 (4 * sizeRegs z) (sizeRegs z) false d a b f
    (fun t l => t.vgroup (d.toNat + sizeRegs z) (sizeRegs z) l) (fun t l => t.vgroup d.toNat (sizeRegs z) l)
    (fun t => t.vws d.toNat (2 * sizeRegs z)) s := rfl

theorem exec_ratfadd : exec (.ratfadd d a b z f) s = remLoad (.ratfadd d a b z f) 2 10 4 1 false d a b f
    (fun t l => t.vgroup d.toNat 1 l) (fun _ _ => 0) (fun t => t.vws d.toNat 1) s := rfl

theorem exec_rst : exec (.rst d a b z f) s = remStore (.rst d a b z f) (sizeBytes z) d a b f s := rfl

end Sys2Proof.Machine

/-- Settles O41: the checks by `remStops_of_first`, a load's or an atomic's passes by `remLoad_loads`, a store's by `remStore_posts`, and the answers by
`answers_of_remAnswer`. -/
theorem remoteAccesses : Obligations.RemoteAccesses := by
  unfold Obligations.RemoteAccesses
  refine ⟨fun d a b z f s s1 => ⟨?_, ?_, ?_, ?_, ?_, fun h hpass hme hroom hf => ?_⟩, pass_wire, fun s r id =>
    ⟨fun hid => ⟨fun hpeer harg => ⟨?_, ?_⟩, fun harg hk ht => ?_, fun harg hw => ?_, fun op e harg hk hwho he => ?_,
      fun op harg hk hwho he => ?_⟩, answer_unasked⟩⟩
  · dsimp only
    generalize hparts : List.map _ (List.filter _ (List.range 1024)) = parts
    exact remLoad_loads (exec_rld d a b z f s) rfl rfl ((remParts_eq _ _ _ _).trans hparts)
  · dsimp only
    generalize hparts : List.map _ (List.filter _ (List.range 1024)) = parts
    exact remLoad_loads (exec_ratadd d a b z f s) rfl rfl ((remParts_eq _ _ _ _).trans hparts)
  · dsimp only
    generalize hparts : List.map _ (List.filter _ (List.range 1024)) = parts
    exact remLoad_loads (exec_ratcas d a b z f s) rfl rfl ((remParts_eq _ _ _ _).trans hparts)
  · dsimp only
    generalize hparts : List.map _ (List.filter _ (List.range 1024)) = parts
    exact remLoad_loads (exec_ratfadd d a b z f s) rfl rfl ((remParts_eq _ _ _ _).trans hparts)
  · dsimp only
    generalize hparts : List.map _ (List.filter _ (List.range 1024)) = parts
    exact remStops_of_first (fun h _ => (exec_rst d a b z f s).trans (remStore_first h rfl rfl)) (decide_eq_false_iff_not.trans Nat.not_lt)
      ((remParts_eq _ _ _ _).trans hparts)
  · obtain ⟨s', hs', h⟩ := remStore_posts h rfl rfl hpass hme hroom hf
    exact ⟨s', (exec_rst d a b z f s).trans hs', h⟩
  · subst harg
    exact answers_of_remAnswer fun _ => remoteAck_eq hid hpeer
  · subst harg
    exact answers_of_remAnswer fun _ => remoteResponse_eq hid hpeer
  · subst harg
    exact answers_of_remAnswer fun _ => remoteTimeout_ends hid hk ht
  · subst harg
    exact remoteTimeout_waits hid hw
  · subst harg
    refine ⟨_, ethernetResponse_eq hid hk hwho, ?_⟩
    rw [he]
    rfl
  · subst harg
    refine ⟨_, ethernetResponse_eq hid hk hwho, ?_⟩
    rw [he]
    rfl

end
